-- ==== Sys2Proof/Word.lean ====
section
/-! DEFINITION. The word types of the module (R5, R11) and their plainest arithmetic. -/

namespace Sys2Proof

/-- A register or a word of a layout: 64 bits (R5, R11). -/
abbrev Word := BitVec 64

/-- One byte. -/
abbrev Byte := BitVec 8

/-- One flit: 64 bytes (R353) as eight words (R11). -/
abbrev Flit := List Word

end Sys2Proof
end

