-- ==== Sys2Proof/Syntax.lean ====
section
/-! DEFINITION. The commands of the block: one constructor per row of the opcode table, with the row's operands.
A row whose input already waits inside the block (a packet at an internal port, a flit delivered by a link, a control
message, the words of a mailbox) carries no copy of it: the operand then only says where it waits. -/

namespace Sys2Proof

/-- An optical port, 0 to 95 (R16). -/
abbrev Port := Fin 96
/-- A crossbar port: 0 to 95 optical, 96 memory, 97 compute (R16). -/
abbrev XPort := Fin 98
/-- A partition, 0 to 31 (R413). -/
abbrev Part := Fin 32
/-- A mailbox: 0 to 31 the partition mailboxes, 32 the primary (R388). -/
abbrev Mbx := Fin 33
/-- A work ring of a partition, 0 to 15 (R401). -/
abbrev RingId := Fin 16
/-- A row of the collective table, 0 to 255 (R227). -/
abbrev Row := Fin 256
/-- A sequencer core, 0 to 1,023 (R327). -/
abbrev Core := Fin 1024
/-- A hardware thread of a core, 0 to 31 (R327). -/
abbrev Thread := Fin 32

/-- A packet as it crosses the switch: the four header words of R99, the payload, the route bank tag of R354 and the
seal of R422 (`sealCtr` 0: not sealed). -/
structure Pkt where
  w0 : Word
  w1 : Word
  w2 : Word
  w3 : Word
  payload : List Byte
  bank : Bool
  sealTag : BitVec 128
  sealCtr : BitVec 80
  deriving DecidableEq, Repr

/-- What the host or the fabric answers to an ATS Translation Request (R78, R79). -/
inductive AtsAnswer where
  /-- A translation of `size` bytes with its read and write permission. -/
  | mapped (size : Nat) (r w : Bool) (pa : Word)
  /-- No translation reported. -/
  | none
  /-- Unsupported Request or Completer Abort. -/
  | error
  deriving DecidableEq, Repr

/-- How a read or a write of host or HBM memory that the module issued came back. -/
inductive Reply where
  /-- Performed; the bytes read, or none for a write. -/
  | ok (bytes : List Byte)
  /-- Parity failed after its replays, poison, or an error that the link reports. -/
  | error
  deriving DecidableEq, Repr

/-- A word that has failed its parity after 2 reads (R119): one of the unit's own memories, or one read from an HBM4E
stack, whose error persists (R303). -/
inductive WordFault where
  | unit
  | hbm (stack : Fin 4)
  deriving DecidableEq, Repr

/-- How a pass of an extent's copy ended (R303, R316, R323). -/
inductive CopyEnd where
  /-- The pass is done; what the lower tier read, block by block. -/
  | ok (bytes : List Byte)
  /-- An uncorrectable error of the HBM4E stack that holds the source persists. -/
  | hbm
  /-- A lender or the host has not answered within `LOWER_LIMIT`. -/
  | late
  /-- A read or a write has ended with another status. -/
  | failed (status : BitVec 8)
  deriving DecidableEq, Repr

/-- Units that ask the pool manager for buffers (R190, R191). -/
inductive PoolUser where
  | endpoint | mover | sequencer
  | rdx | tun | cxl | maltster
  deriving DecidableEq, Repr

/-- Where a word that failed its parity rested (R119, R120). -/
inductive ParityPoint where
  /-- A word in the receive buffer of a port: of the block that is arriving, while it can be fetched again, and of the header or
  the payload of the first packet there afterwards. -/
  | inbox (p : Port) (header : Bool)
  /-- A word of stored packet `n` of the switch core. -/
  | stored (n : Nat) (header : Bool)
  /-- A word of the first packet waiting at the end-point block. -/
  | endPoint (header : Bool)
  /-- A word of the first packet waiting at port 97's input. -/
  | array (header : Bool)
  /-- Data being written by the head entry of a line queue. -/
  | write (line : Nat)
  /-- A word of a contribution that waits in a cell: of parked one `n`, or of that of a rank held for chunk `n`. -/
  | parked (n : Nat) (header : Bool)
  | held (n rank : Nat) (header : Bool)
  /-- A word of the first packet in a register stage between the clock of port 96 or 97 and that of the switch core. -/
  | stage (port : Fin 2) (header : Bool)
  /-- A word read from an HBM4E stack for the head entry of a line queue; without one, for the next direct read of the line by a
  tile mover of the module. -/
  | hbm (stack : Fin 4) (line : Nat)
  /-- The data of the next record that the module writes into a line of HBM (R90): address / 64. -/
  | record (line : Nat)
  deriving DecidableEq, Repr

/-- An operand of an event at the buffer pool manager; `more`: another event of the same cycle follows (R192). -/
structure InCycle (α : Type) where
  arg : α
  more : Bool
  deriving DecidableEq, Repr

/-- Slots of a group have come free (R218): the time in the beat, and the chunks of the contributions that fail their parity
as they are added (R219). -/
structure SlotsFree where
  now : Nat
  parity : List Nat
  deriving DecidableEq, Repr

/-- An engine instance whose order the module keeps (R129). -/
inductive Engine where
  | thread (c : Core) (t : Thread)
  | ring (n : Part) (r : RingId)
  deriving DecidableEq, Repr

/-- Integer register operations of RV64IM (R329): `w` selects the 32-bit form. -/
inductive AluOp where
  | add | sub | sll | slt | sltu | xor | srl | sra | or | and
  | mul | mulh | mulhsu | mulhu | div | divu | rem | remu
  deriving DecidableEq, Repr

/-- Branch conditions of RV64I (R329). -/
inductive BrOp where
  | eq | ne | lt | ge | ltu | geu
  deriving DecidableEq, Repr

/-- Atomic memory operations of the A extension (R329). -/
inductive AmoOp where
  | swap | add | xor | and | or | min | max | minu | maxu
  deriving DecidableEq, Repr

/-- The CSR instructions that write: the source replaces the value, or names bits to set or to clear. -/
inductive CsrOp where
  | rw | rs | rc
  deriving DecidableEq, Repr

/-- A standard RISC-V instruction of RV64IMAC (R329); a compressed one is the instruction it expands to. A CSR
instruction that writes is a command of its own. -/
inductive LocalOp where
  | load (log2 : Fin 4) (unsigned : Bool) (rd rs1 : Fin 32) (imm : BitVec 12)
  | store (log2 : Fin 4) (rs1 rs2 : Fin 32) (imm : BitVec 12)
  | lr (double : Bool) (rd rs1 : Fin 32)
  | sc (double : Bool) (rd rs1 rs2 : Fin 32)
  | amo (op : AmoOp) (double : Bool) (rd rs1 rs2 : Fin 32)
  | fence
  | alu (op : AluOp) (w : Bool) (rd rs1 rs2 : Fin 32)
  | alui (op : AluOp) (w : Bool) (rd rs1 : Fin 32) (imm : BitVec 12)
  | lui (rd : Fin 32) (imm : BitVec 20)
  | auipc (rd : Fin 32) (imm : BitVec 20)
  | jal (rd : Fin 32) (imm : BitVec 21)
  | jalr (rd rs1 : Fin 32) (imm : BitVec 12)
  | branch (op : BrOp) (rs1 rs2 : Fin 32) (imm : BitVec 13)
  | csrr (rd : Fin 32) (csr : BitVec 12)
  | ecall
  | ebreak
  deriving DecidableEq, Repr

/-- The pins that are sampled when power-on reset is released (R503, R534): `MGMT_ADDR`, and whether `RESET_N` is low. -/
structure PorPins where
  addr : BitVec 3
  resetLow : Bool
  deriving DecidableEq, Repr

/-- How the work of a bring-up phase came out (R507 to R511, R516, R545). -/
inductive PhaseWork where
  /-- The phase's work passed. -/
  | pass
  /-- Phase 0: the ROM self-test failed. -/
  | romSelftest
  /-- Phase 0: the flash image as the ROM read it; it counts until the module has written the region itself. -/
  | image (bytes : List Byte)
  /-- Phase 1: the clock and the calibration store: board reference present, store checks of R516, its header words,
  and which laser source units are present and ready. -/
  | clock (board : Bool) (store : Bool) (factory : BitVec 3) (writes : BitVec 32) (present ready : BitVec 4)
  /-- Phase 2: the defects that its tests found, each by the number that the repair map gives it. -/
  | sram (faults : List Nat)
  /-- Phase 2: an array could not be repaired. -/
  | sramBad
  /-- Phase 4: the stacks that passed training and test, and the rows that their own repairs replaced, by stack and row. -/
  | hbm4e (ok : BitVec 4) (rows : List (Nat × Nat))
  /-- Phase 5: the CXL link as it trained: x16 or x8, at 64 or 32 GT/s (R380). -/
  | cxl (up x16 gt64 : Bool)
  /-- Phase 8: the failing Tun columns, and the mean draws measured at duty 1 and duty 0, in mW (R511). -/
  | compute (cols : List (BitVec 10)) (mw1 mw0 : Nat)
  deriving DecidableEq, Repr

/-- One sample of the Cask: what its divider and its shunt gave, signed, before calibration (R475, R482), in mV and mA once
calibrated (R485); and the pin that no other event tells of. -/
structure Sample where
  mv : Nat
  ma : Int
  /-- `CASK_CAL_EN_N` is low at the sample. -/
  calEn : Bool
  deriving DecidableEq, Repr

/-- A frame of `CASK_LINK` (R489). -/
inductive CaskFrame where
  | status (seq secs ein eout w7 w8 w9 : Word)
  | readout (ws : List Word)
  | cert (der : List Byte)
  | log (ws : List (Word × Word))
  deriving DecidableEq, Repr

/-- The commands: one constructor per row of the opcode table, in its order. -/
inductive Instr where
  | registerWrite (off : Nat) (v : Word)
  | rcRead (off : Nat)
  | bar0BadAccess (off width : Nat) (write : Bool)
  | fqConsWrite (n : Part) (v : Word)
  | ringProdWrite (n : Part) (r : RingId) (v : Word)
  | ringCqConsWrite (n : Part) (r : RingId) (v : Word)
  | bootHostGo (v : Word)
  | beatEdge (drawMw : Nat)
  | admissionPass (now : Nat)
  | deferLimitTimeout (n : Part) (r : RingId)
  | beatSlip (id : Nat)
  | beatFrame (p : Port) (arrival : BitVec 32)
  | lockAcquired
  | holdover
  | election
  | gridChangeApply
  | barrierArrival (g : Row) (now : Nat)
  | barrierRelease (g : Row) (now : Nat)
  | barrierTimeout (g : Row)
  | packetSwitch (p : XPort) (busy : Bool)
  | combWindowClose (p : Port) (id : Nat)
  | combinedReply
  | load
  | store
  | atomic
  | mcastStore
  | reduce (now : Nat) (parity : Bool)
  | reduceMem (now : Nat) (parity : Bool)
  | tileOpen
  | tileRead
  | tileWrite
  | tileClose
  | tileCloseComplete (handle : Nat)
  | grantIdle (handle : Nat)
  | translationCompletion (n : Part) (pasid : Nat) (va : Word) (a : AtsAnswer)
  | atsTimeout (n : Part) (pasid : Nat) (va : Word)
  | invalidateRequest (itag : Nat) (pasid : Option Nat) (va : Word) (size : Nat)
  | invalidationCompletion (itag : Nat)
  | translationChangeDone (m : Mbx)
  | lineQueueAdmit (line : Nat) (waitNs : Nat)
  | lineEntryPerform (line : Nat)
  | lowerLimitTimeout (line : Nat)
  | recallTimeout (line : Nat) (agent : Fin 5)
  | mcastAckCombine (op : Nat)
  | data
  | ack
  | atomicValue
  | tileGrant
  | tileDone
  | trackerTimeout (tag : Nat)
  | trackerLost (tag : Nat)
  | trackerStallResume (n : Part)
  | parityRefetch (at_ : ParityPoint) (attempt : Nat)
  | releaseSend (e : Engine)
  | fenceComplete (e : Engine)
  | bankSwitch
  | drainEnd
  | poolAlloc (u : PoolUser) (n : Part) (size : InCycle Nat)
  | poolRelease (k : Fin 5) (index : InCycle Nat)
  | cellBatchFree (first : InCycle Nat) (w held : Word)
  | auditSweep
  | chunkTimeout (g : Row) (chunk : Nat)
  | parkedContributionOpen (g : Row) (free : SlotsFree)
  | descriptorFetch (n : Part) (r : RingId)
  | fetchComplete (n : Part) (r : RingId) (a : Reply)
  | tileMoveStart (mover : Fin 64)
  | tileMoveEnd (id now : Nat)
  | cqRecordRetry (n : Part) (r : RingId) (ok : Bool)
  | collStepEnd (id now : Nat)
  | tunJobStart
  | projectChunkTake (chunk : Nat)
  | stagedChunkExpire (g : Row) (chunk : Nat)
  | projectTimeout
  | tunJobOutput
  | tunJobEnd (now : Nat) (parity : Option WordFault)
  | sliceLoadStart
  | sliceLoadEnd (parity : Option WordFault)
  | attnJobStart
  | attnOutput
  | attnJobEnd (now : Nat) (parity : Option (WordFault × Fin 1024))
  | extentMoveStart (n : Part) (e : Nat)
  | extentCopyDone (n : Part) (e : Nat) (a : CopyEnd)
  | extentTileRetry (n : Part) (e : Nat)
  | extentSwitch (n : Part) (e : Nat)
  | tierMoveEnd (id : Nat)
  | rld (c : Core) (t : Thread) (ins : BitVec 32)
  | rst (c : Core) (t : Thread) (ins : BitVec 32)
  | ramo (c : Core) (t : Thread) (ins : BitVec 32)
  | waitlc (c : Core) (t : Thread) (ins : BitVec 32)
  | waitlcWake (c : Core) (t : Thread)
  | waitlcTimeout (c : Core) (t : Thread)
  | waitbeat (c : Core) (t : Thread) (ins : BitVec 32)
  | waitbeatWake (c : Core) (t : Thread)
  | fenceS (c : Core) (t : Thread) (ins : BitVec 32)
  | lcset (c : Core) (t : Thread) (ins : BitVec 32)
  | lcread (c : Core) (t : Thread) (ins : BitVec 32)
  | posttile (c : Core) (t : Thread) (ins : BitVec 32)
  | poststep (c : Core) (t : Thread) (ins : BitVec 32)
  | halt (c : Core) (t : Thread) (ins : BitVec 32)
  | localAccess (c : Core) (t : Thread) (op : LocalOp) (compressed : Bool)
  | csrWrite (c : Core) (t : Thread) (op : CsrOp) (rd : Fin 32) (csr : BitVec 12) (v : Word)
  | threadException (c : Core) (t : Thread) (cause : BitVec 8)
  | fecBlock (p : Port) (lane : Fin 8) (flits : BitVec 5120) (slot : BitVec 20) (check : BitVec 300)
  | linkReplay (p : Port)
  | ackTimeout (p : Port)
  | stomp (p : Port)
  | lightDetect (p : Port) (lanes : BitVec 8)
  | hello (p : Port)
  | speedReq (p : Port)
  | speedAck (p : Port)
  | speedSwitch (p : Port)
  | tapReq (p : Port)
  | tapRsp (p : Port)
  | laneEvaluation (p : Port) (step : Fin 4)
  | evalDone (p : Port)
  | ready (p : Port)
  | trainPhaseTimeout (p : Port)
  | retrain (p : Port)
  | down (p : Port)
  | los (p : Port)
  | heartbeatLoss (p : Port)
  | gravityBucketExpire
  | lsuFail (u : Fin 4) (present : Bool)
  | lsuReady (u : Fin 4)
  | lcWait (p : Port)
  | lcWaitTimeout (p : Port) (id : Nat)
  | attachLcRead (p : Port)
  | rdShared (p : Port)
  | rdOwn (p : Port)
  | drop (p : Port)
  | wb (p : Port)
  | recallRsp (p : Port)
  | invalRsp (p : Port)
  | resetAck (p : Port)
  | attachDiscard (p : Port)
  | cxlLinkDown
  | perstN (low : Bool)
  | hdmAccess (pa : Nat) (len : Nat) (wr : Option (List Byte)) (cacheable : Bool)
  | mbHello (m : Mbx)
  | timeGridSet (m : Mbx)
  | timeConfigSet (m : Mbx)
  | xlatEpSet (m : Mbx)
  | xlatAtsSet (m : Mbx)
  | xlatFqSet (m : Mbx)
  | xlatWindowSet (m : Mbx)
  | xlatPageSet (m : Mbx)
  | xlatPageClear (m : Mbx)
  | xlatPageGet (m : Mbx)
  | xlatAtsPrefetch (m : Mbx)
  | xlatShareSet (m : Mbx)
  | trackConfigSet (m : Mbx)
  | trackShareSet (m : Mbx)
  | lcShareSet (m : Mbx)
  | lcRead (m : Mbx)
  | lcSet (m : Mbx)
  | dirConfigSet (m : Mbx)
  | xbarRouteLoad (m : Mbx) (host : Reply)
  | xbarGroupLoad (m : Mbx) (host : Reply)
  | xbarEpochSwitch (m : Mbx)
  | xbarConfigSet (m : Mbx)
  | xbarPortSet (m : Mbx)
  | poolWarnSet (m : Mbx)
  | poolLimitSet (m : Mbx)
  | rdxConfigSet (m : Mbx)
  | collMembersSet (m : Mbx)
  | collForm (m : Mbx)
  | collSuspend (m : Mbx)
  | collReform (m : Mbx)
  | collDissolve (m : Mbx)
  | collWeightSet (m : Mbx)
  | mcGroupSet (m : Mbx)
  | mcGroupClear (m : Mbx)
  | mcGroupGet (m : Mbx)
  | collPartSet (m : Mbx)
  | tunShareSet (m : Mbx)
  | tunSliceClear (m : Mbx)
  | tunSliceGet (m : Mbx)
  | tunBindSet (m : Mbx)
  | tunBindClear (m : Mbx)
  | memShareSet (m : Mbx)
  | tierRegionSet (m : Mbx)
  | tierT3Set (m : Mbx)
  | tierQuotaSet (m : Mbx)
  | tierExtShareSet (m : Mbx)
  | tierExtentSet (m : Mbx)
  | tierExtentFree (m : Mbx)
  | tierExtentGet (m : Mbx)
  | tierConfigSet (m : Mbx)
  | tierLendOffer (m : Mbx)
  | tierLendClose (m : Mbx)
  | tierLendAccept (m : Mbx)
  | tierLendReturn (m : Mbx)
  | seqShareSet (m : Mbx)
  | seqLoad (m : Mbx) (parity : Option WordFault)
  | seqStart (m : Mbx)
  | seqStop (m : Mbx)
  | seqStopDone (m : Mbx)
  | portModeSet (m : Mbx)
  | portEnable (m : Mbx)
  | portDisable (m : Mbx)
  | portRetrain (m : Mbx)
  | ringSet (m : Mbx) (a : Reply)
  | ringClear (m : Mbx)
  | partCreate (m : Mbx)
  | partSparge (m : Mbx)
  | spargeComplete (n : Part) (durationNs : Nat)
  | partDestroy (m : Mbx)
  | partGet (m : Mbx)
  | fwStage (m : Mbx) (host : Reply)
  | fwCommit (m : Mbx)
  | fwCommitDone (matched : Bool)
  | attestGet (m : Mbx)
  | pgovSet (m : Mbx)
  | pgovCapSet (m : Mbx)
  | healthBudgetSet (m : Mbx)
  | healthIsolate (m : Mbx)
  | healthReadmit (m : Mbx)
  | caskReadout (m : Mbx)
  | calRead (m : Mbx)
  | calWrite (m : Mbx) (host : Reply)
  | calWriteDone (matched : Bool)
  | svcWatchdog (applied : List (Mbx × Reply))
  | pwrCapAlert
  | pwrCapAlertEnd
  | rampReq
  | rampGrant
  | rampBusy
  | rampDone
  | grantEnd
  | arbWaitExpire
  | arbiterTakeover
  | expelReq
  | expelGrant
  | expelDeny
  | noticeLost
  | noticeFenced
  | noticeReadmit
  | owned
  | peerDead (i : Port)
  | hotEnter (sensors : List (BitVec 16))
  | hotExit (sensors : List (BitVec 16))
  | thermalTrip
  | breakerOpen
  | hotSwapCharge
  | powerOnReset
  | porRelease (bootSrc clkMode : BitVec 2) (pins : PorPins)
  | coreReset
  | systemReset
  | resetEnd
  | internalPortsReopen
  | bringupPhaseEnd (work : PhaseWork)
  | bootSourceWaitExpire
  | imageTransferEnd (line : List Byte) (crc : Option (BitVec 32)) (host : List Byte) (ok : Bool)
  | imageTransferStall (line : List Byte) (crc : Option (BitVec 32)) (host : List Byte) (ok : Bool)
  | ikioHelp
  | ikioBaud (rate : Nat)
  | ikioStatus
  | ikioRd (off : Nat)
  | ikioWr (off : Nat) (v : Word)
  | ikioMrd (n : Part) (addr : Word) (len : Nat)
  | ikioMwr (n : Part) (addr : Word) (bytes : List Byte)
  | ikioRelease
  | ikioBootFull
  | ikioLoad (len : Nat)
  | ikioBadLine
  | twPart
  | twStatus
  | twRelease (v : Option Byte)
  | twCap (v : Option (BitVec 16))
  | twMeasured
  | twJunction
  | twResetCause
  | twSerial
  | twEnergyIn
  | twUndefined (cmd : Byte) (read : Option Nat)
  | tapBypass
  | tapSamplePreload (preload : List Bool)
  | tapExtest
  | tapIdcode
  | trstN
  | caskSample (v : Sample)
  | signedReadout
  | statusFrameSend
  | statusFrame (crcOk : Bool) (f : CaskFrame)
  | caskLinkTimeout
  | caskPowerDown
  | caskPowerUp (selftestOk : Bool)
  | clockFault (ppm : Int)
  | tamperOpen
  | tamperClose
  | overrange
  | caskTwRead (a : Fin 32)
  | caskReadReadout
  | caskReadCert
  | caskReadLog
  | caskCalRead (a : Fin 8)
  | caskCalWrite (a : Fin 8) (v : Word)
  | caskFwUpdate (last : Bool) (block : List Byte)
  | blockLock (p : Port) (lane : Fin 8)
  | cxlLinkUp (x16 gt64 : Bool)
  | hostSnoop (addr : Nat)
  | backInvalidationResponse (line : Nat) (data : Option (List Byte))
  | cxlCacheResponse (line : Nat) (a : Reply)
  | expelAnswerTimeout
  deriving DecidableEq, Repr

end Sys2Proof
end

