-- ==== Sys2Proof/Decode.lean ====
section
/-! DEFINITION. Commands from words: the opcode table gives no row any bits (every row's list of fields is empty), so no
word spells a command. -/

namespace Sys2Proof

/-- The command that a word spells by the table's bits: none, since no row has any. -/
def decodeTableWord (_nbits _w : Nat) : Option Instr := none

end Sys2Proof
end

