-- ==== Sys2Proof/Machine/Bits.lean ====
section
/-! DEFINITION. Bit fields of words as numbers, sign extension and small arithmetic. -/

namespace Sys2Proof.Machine

/-- Bits [hi:lo] of a number. -/
def nbits (w hi lo : Nat) : Nat := w / 2 ^ lo % 2 ^ (hi + 1 - lo)

/-- Bits [hi:lo] of a word. -/
def bits (w : Word) (hi lo : Nat) : Nat := nbits w.toNat hi lo

/-- Bit `i` of a word. -/
def bit (w : Word) (i : Nat) : Bool := w.getLsbD i

/-- The word with bits [hi:lo] replaced by `n`, taken modulo the field's width. -/
def setBits (w : Word) (hi lo n : Nat) : Word :=
  BitVec.ofNat 64 (w.toNat - bits w hi lo * 2 ^ lo + n % 2 ^ (hi + 1 - lo) * 2 ^ lo)

/-- A word from fields (hi, lo, value); fields must not overlap. -/
def mkWord : List (Nat × Nat × Nat) → Word
  | [] => 0
  | (hi, lo, v) :: r => setBits (mkWord r) hi lo v

/-- 1 for true, 0 for false. -/
def b2n (b : Bool) : Nat := if b then 1 else 0

/-- The two's complement value of the low `n` bits of a number. -/
def toSigned (n v : Nat) : Int :=
  let r := v % 2 ^ n
  if r < 2 ^ (n - 1) then (r : Int) else (r : Int) - (2 ^ n : Nat)

/-- The low `n` bits of an integer. -/
def ofSigned (n : Nat) (i : Int) : Nat := (i % ((2 ^ n : Nat) : Int)).toNat

/-- Quotient rounded up. -/
def cdiv (a b : Nat) : Nat := (a + b - 1) / b

/-- The indices of the set bits of a number below `n`, rising. -/
def setBitsOf (n w : Nat) : List Nat := (List.range n).filter (fun i => w.testBit i)

/-- The number of set bits of a number below `n`. -/
def popCount (n w : Nat) : Nat := (setBitsOf n w).length

/-- The items a partial test selects, and the others, in order. -/
def takeFirst {α : Type} (p : α → Bool) : List α → Option (α × List α)
  | [] => none
  | a :: r => if p a then some (a, r) else match takeFirst p r with
    | some (b, r') => some (b, a :: r')
    | none => none

/-- Replace every item of a list that a test selects. -/
def updWhere {α : Type} (p : α → Bool) (f : α → α) (l : List α) : List α := l.map (fun a => if p a then f a else a)

end Sys2Proof.Machine
end

