-- ==== Sys2Proof/Machine/Store.lean ====
section
/-! DEFINITION. Sparse tables: lists of key and value pairs with strictly rising keys and no entry equal to the
default. Every table, register file and memory of the block is one. -/

namespace Sys2Proof.Machine

/-- A sparse table from numbers to `V`. -/
abbrev SMap (V : Type) := List (Nat × V)

/-- The value at key `k`; `d` where the table lists none. -/
def mget {V : Type} (d : V) : SMap V → Nat → V
  | [], _ => d
  | (a, v) :: r, k => if a = k then v else mget d r k

/-- The table without an entry at `k`. -/
def merase {V : Type} (m : SMap V) (k : Nat) : SMap V := m.filter (fun e => e.1 != k)

/-- The table with an entry put in at its place; used on a table without an entry at `k`. -/
def minsert {V : Type} : SMap V → Nat → V → SMap V
  | [], k, v => [(k, v)]
  | (a, w) :: r, k, v => if k < a then (k, v) :: (a, w) :: r else (a, w) :: minsert r k v

/-- The table with `v` at key `k`, in canonical form for the default `d`. -/
def mset {V : Type} [DecidableEq V] (d : V) (m : SMap V) (k : Nat) (v : V) : SMap V :=
  if v = d then merase m k else minsert (merase m k) k v

/-- The lowest key from `k` on that the table does not list; `m` has rising keys. -/
def mgap {V : Type} : SMap V → Nat → Nat
  | [], k => k
  | (a, _) :: r, k => if a = k then mgap r (k + 1) else if a < k then mgap r k else k

/-- Strictly rising keys. -/
def mrising {V : Type} : SMap V → Bool
  | [] => true
  | [_] => true
  | (a, _) :: (b, w) :: r => decide (a < b) && mrising ((b, w) :: r)

/-- Canonical form: rising keys and no entry that holds the default. -/
def mcanon {V : Type} [DecidableEq V] (d : V) (m : SMap V) : Bool :=
  mrising m && m.all (fun e => decide (e.2 ≠ d))

/-- The bytes `a` to `a + n - 1` of a byte table; an unlisted byte reads 0 (log 2). -/
def readBytes (m : SMap Byte) (a n : Nat) : List Byte := (List.range n).map (fun i => mget 0 m (a + i))

/-- The byte table with the bytes written from `a` on. -/
def writeBytes (m : SMap Byte) (a : Nat) : List Byte → SMap Byte
  | [] => m
  | b :: r => writeBytes (mset 0 m a b) (a + 1) r

/-- Little-endian value of a byte list (R11). -/
def leNat : List Byte → Nat
  | [] => 0
  | b :: r => b.toNat + 256 * leNat r

/-- The `n` bytes of a number, low byte first (R11). -/
def leBytes : Nat → Nat → List Byte
  | 0, _ => []
  | n + 1, v => BitVec.ofNat 8 v :: leBytes n (v / 256)

/-- The eight bytes of a word (R11). -/
def wordBytes (w : Word) : List Byte := leBytes 8 w.toNat

/-- Words as bytes, word 0 first (R11). -/
def wordsBytes (ws : List Word) : List Byte := ws.flatMap wordBytes

/-- Bytes as `n` words; missing bytes read 0. -/
def bytesWords (n : Nat) (bs : List Byte) : List Word :=
  (List.range n).map (fun i => BitVec.ofNat 64 (leNat ((bs.drop (8 * i)).take 8)))

end Sys2Proof.Machine
end

