-- ==== Sys2Proof/Machine/Float.lean ====
section
/-! DEFINITION. Number formats and arithmetic: the element formats of R201, rounding, binary32 and binary64 operations
(R107, R211), the exponential of R212, block formats (R202, R209) and the comparison order of R210. Finite values are
exact: a sign, a magnitude and a power of two. -/

namespace Sys2Proof.Machine

/-- A floating-point format: mantissa bits, exponent bits, bias, and its special values: 0 infinity and NaN as in
IEEE 754, 1 NaN only (E4M3), 2 none. -/
structure FFmt where
  mb : Nat
  eb : Nat
  bias : Nat
  special : Nat
  deriving DecidableEq, Repr

def fE4M3 : FFmt := ⟨3, 4, 7, 1⟩
def fE5M2 : FFmt := ⟨2, 5, 15, 0⟩
def fFP16 : FFmt := ⟨10, 5, 15, 0⟩
def fBF16 : FFmt := ⟨7, 8, 127, 0⟩
def fFP32 : FFmt := ⟨23, 8, 127, 0⟩
def fFP64 : FFmt := ⟨52, 11, 1023, 0⟩
def fE3M2 : FFmt := ⟨2, 3, 3, 2⟩
def fE2M3 : FFmt := ⟨3, 2, 1, 2⟩
def fE2M1 : FFmt := ⟨1, 2, 1, 2⟩

/-- The element format of a `FMT` code (R201). -/
def elemFmt (f : Nat) : FFmt :=
  match f with
  | 0 => fE4M3 | 1 => fE5M2 | 2 => fFP16 | 3 => fBF16 | 4 => fFP32
  | 9 => fE4M3 | 10 => fE5M2 | 11 => fE3M2 | 12 => fE2M3 | _ => fE2M1

/-- A value: ±m·2^e, an infinity, or NaN. -/
inductive FVal where
  | nan
  | inf (neg : Bool)
  | num (neg : Bool) (m : Nat) (e : Int)
  deriving DecidableEq, Repr

/-- Bits of a format below the sign. -/
def magBits (f : FFmt) : Nat := f.mb + f.eb

/-- The value that a bit pattern encodes. -/
def fdecode (f : FFmt) (b : Nat) : FVal :=
  let neg := b.testBit (magBits f)
  let x := nbits b (magBits f - 1) f.mb
  let m := b % 2 ^ f.mb
  if f.special = 0 ∧ x = 2 ^ f.eb - 1 then (if m = 0 then .inf neg else .nan)
  else if f.special = 1 ∧ x = 2 ^ f.eb - 1 ∧ m = 2 ^ f.mb - 1 then .nan
  else if x = 0 then .num neg m (1 - (f.bias : Int) - f.mb)
  else .num neg (2 ^ f.mb + m) ((x : Int) - f.bias - f.mb)

/-- `m / 2^k` rounded to nearest even. -/
def rneShift (m k : Nat) : Nat :=
  let q := m / 2 ^ k
  let r := 2 * (m % 2 ^ k)
  if 2 ^ k < r ∨ (r = 2 ^ k ∧ q % 2 = 1) then q + 1 else q

/-- The largest finite magnitude pattern. -/
def maxMag (f : FFmt) : Nat :=
  match f.special with
  | 0 => (2 ^ f.eb - 1) * 2 ^ f.mb - 1
  | 1 => 2 ^ magBits f - 2
  | _ => 2 ^ magBits f - 1

/-- The magnitude pattern of m·2^e rounded to nearest even, not limited to the format's range. -/
def roundMag (f : FFmt) (m : Nat) (e : Int) : Nat :=
  if m = 0 then 0
  else
    let emin : Int := 1 - (f.bias : Int) - f.mb
    let q : Int := max emin (e + Nat.log2 m - f.mb)
    let mant := if q ≤ e then m * 2 ^ (e - q).toNat else rneShift m (q - e).toNat
    (q - emin).toNat * 2 ^ f.mb + mant

/-- The sign bit of a format. -/
def signBit (f : FFmt) (neg : Bool) : Nat := b2n neg * 2 ^ magBits f

/-- The canonical NaN (R107, R208). -/
def canonNan (f : FFmt) : Nat :=
  match f.special with
  | 0 => (2 ^ f.eb - 1) * 2 ^ f.mb + 2 ^ (f.mb - 1)
  | _ => 2 ^ magBits f - 1

/-- A value rounded once to a format, and whether the largest finite value stands for a larger magnitude (R207, R550):
overflow gives infinity where the format has one. -/
def fencode (f : FFmt) (v : FVal) : Nat × Bool :=
  match v with
  | .nan => (canonNan f, false)
  | .inf neg => if f.special = 0 then (signBit f neg + (2 ^ f.eb - 1) * 2 ^ f.mb, false) else (signBit f neg + maxMag f, true)
  | .num neg m e =>
    let g := roundMag f m e
    if g ≤ maxMag f then (signBit f neg + g, false)
    else if f.special = 0 then (signBit f neg + (2 ^ f.eb - 1) * 2 ^ f.mb, false)
    else (signBit f neg + maxMag f, true)

/-- A signed magnitude as an integer. -/
def sgn (neg : Bool) (m : Nat) : Int := if neg then -(m : Int) else m

/-- Exact sum; an exact zero from operands of unlike sign is +0. -/
def vadd (a b : FVal) : FVal :=
  match a, b with
  | .nan, _ => .nan
  | _, .nan => .nan
  | .inf s, .inf t => if s = t then .inf s else .nan
  | .inf s, _ => .inf s
  | _, .inf s => .inf s
  | .num s m e, .num t n d =>
    let x := min e d
    let i := sgn s m * 2 ^ (e - x).toNat + sgn t n * 2 ^ (d - x).toNat
    if i = 0 then .num (s && t) 0 x else .num (decide (i < 0)) i.natAbs x

/-- Exact product. -/
def vmul (a b : FVal) : FVal :=
  match a, b with
  | .nan, _ => .nan
  | _, .nan => .nan
  | .inf s, .inf t => .inf (s != t)
  | .inf s, .num t n _ => if n = 0 then .nan else .inf (s != t)
  | .num s m _, .inf t => if m = 0 then .nan else .inf (s != t)
  | .num s m e, .num t n d => .num (s != t) (m * n) (e + d)

/-- A value with its sign reversed. -/
def vneg : FVal → FVal
  | .nan => .nan
  | .inf s => .inf !s
  | .num s m e => .num (!s) m e

/-- The value times 2^k. -/
def vscale (v : FVal) (k : Int) : FVal := match v with | .num s m e => .num s m (e + k) | w => w

/-- Addition and multiplication in a format, rounded to nearest even (R107, R211). -/
def fadd (f : FFmt) (a b : Nat) : Nat := (fencode f (vadd (fdecode f a) (fdecode f b))).1
def fmul (f : FFmt) (a b : Nat) : Nat := (fencode f (vmul (fdecode f a) (fdecode f b))).1
def fsub (f : FFmt) (a b : Nat) : Nat := (fencode f (vadd (fdecode f a) (vneg (fdecode f b)))).1

/-! ## The exponential (R212) -/

/-- Fraction bits of the working precision: far beyond what a correctly rounded binary32 exponential needs. -/
def expBits : Nat := 320

/-- The sum of the first `n` terms of the series of exp y - 1 beyond the present term, y with `expBits` fraction bits. -/
def expSeries (y : Nat) : Nat → Nat → Nat → Nat
  | 0, _, _ => 0
  | n + 1, k, t => let t' := t * y / 2 ^ expBits / k; t' + expSeries y n (k + 1) t'

/-- Square a fixed-point number `n` times. -/
def sqTimes : Nat → Nat → Nat
  | 0, v => v
  | n + 1, v => sqTimes n (v * v / 2 ^ expBits)

/-- exp x for x = `x`/2^expBits up to 2^8, as a fixed-point number. -/
def expFix (x : Nat) : Nat := sqTimes 10 (2 ^ expBits + expSeries (x / 2 ^ 10) 96 1 (2 ^ expBits))

/-- The binary32 value nearest to the exponential, ties to even. -/
def fexp (b : Nat) : Nat :=
  match fdecode fFP32 b with
  | .nan => canonNan fFP32
  | .inf neg => if neg then 0 else b
  | .num neg m e =>
    if m = 0 then 0x3F800000
    else
      let big := decide ((e : Int) + Nat.log2 m ≥ 7)
      if big then (if neg then 0 else 0x7F800000)
      else
        let x := m * 2 ^ ((expBits : Int) + e).toNat
        let y := expFix x
        if neg then (fencode fFP32 (.num false (2 ^ (2 * expBits) / y) (-(expBits : Int)))).1
        else (fencode fFP32 (.num false y (-(expBits : Int)))).1

/-! ## Comparison (R210) -/

/-- The place of a floating-point pattern in the order of R210. -/
def fkey (f : FFmt) (b : Nat) : Int :=
  let m := b % 2 ^ magBits f
  if b.testBit (magBits f) then -(m : Int) - 1 else m

/-- A pattern is NaN. -/
def isNan (f : FFmt) (b : Nat) : Bool := fdecode f b == .nan

/-! ## Contributions (R201 to R203) -/

/-- Bits of one packed element of a format. -/
def elemBits (f : Nat) : Nat :=
  match f with
  | 9 | 10 => 8 | 11 | 12 => 6 | 13 => 4 | _ => 8 * [1, 1, 2, 2, 4, 1, 2, 4, 8].getD f 1

/-- An MX format. -/
def isMx (f : Nat) : Bool := 9 ≤ f && f ≤ 13

/-- Bytes of one block of an MX format. -/
def blockBytes (f : Nat) : Nat := 4 * elemBits f

/-- The elements of a packed run of bytes. -/
def unpack (w n : Nat) (bs : List Byte) : List Nat :=
  let v := leNat bs
  (List.range n).map (fun i => v / 2 ^ (w * i) % 2 ^ w)

/-- Elements packed into bytes. -/
def pack (w : Nat) (es : List Nat) : List Byte :=
  leBytes (es.length * w / 8) (es.foldr (fun e a => a * 2 ^ w + e % 2 ^ w) 0)

/-- `LEN` suits `FMT` for an operator other than `MERGE_LSE` (R201, R202). -/
def lenSuits (f len : Nat) : Bool :=
  if isMx f then
    let b := (len - 8) / blockBytes f
    8 + b * blockBytes f == len && 1 ≤ b && b ≤ (if f ≤ 10 then 7 else 8)
  else len * 8 % elemBits f == 0 && 1 ≤ len && len ≤ 256

/-- `LEN` suits a `MERGE_LSE` payload (R203). -/
def lenSuitsLse (f len : Nat) : Bool :=
  if f = 4 then (len - 8) % 4 == 0 && 12 ≤ len && len ≤ 256 else (len - 8) % 2 == 0 && 10 ≤ len && len ≤ 256

/-- The value of one element under a block scale (R206). -/
def mxValue (f scale b : Nat) : FVal := if scale = 0xFF then .nan else vscale (fdecode (elemFmt f) b) ((scale : Int) - 127)

/-- The raw patterns of a contribution's elements. -/
def rawElems (f : Nat) (p : List Byte) : List Nat :=
  if isMx f then
    (List.range ((p.length - 8) / blockBytes f)).flatMap (fun j => unpack (elemBits f) 32 ((p.drop (8 + j * blockBytes f)).take (blockBytes f)))
  else unpack (elemBits f) (p.length * 8 / elemBits f) p

/-- The values of a contribution's elements; integer formats give their two's complement value. -/
def elemValues (f : Nat) (p : List Byte) : List FVal :=
  if isMx f then (rawElems f p).mapIdx (fun i b => mxValue f ((p.getD (i / 32) 0).toNat) b)
  else if 5 ≤ f ∧ f ≤ 8 then (rawElems f p).map (fun b =>
    let i := toSigned (elemBits f) b
    .num (decide (i < 0)) i.natAbs 0)
  else (rawElems f p).map (fdecode (elemFmt f))

/-- The weight of the least significant accumulator bit (R206), as a power of two. -/
def lsbWeight (f : Nat) : Int :=
  match f with
  | 0 => -9 | 1 => -16 | 2 => -24 | 3 => -133 | 4 => -149 | 9 => -136 | 10 => -143 | 11 => -131 | 12 => -130
  | 13 => -128 | _ => 0

/-! ## Results (R207, R209, R550) -/

/-- A scalar result element from its value: bits and saturations (R207, R211). -/
def encodeScalar (f : Nat) (v : FVal) : Nat × Nat :=
  if 5 ≤ f ∧ f ≤ 8 then
    match v with
    | .num neg m e =>
      let i := sgn neg (m * 2 ^ e.toNat)
      let lo : Int := -(2 ^ (elemBits f - 1) : Nat)
      let hi : Int := (2 ^ (elemBits f - 1) : Nat) - 1
      let c := max lo (min hi i)
      (ofSigned (elemBits f) c, if c = i then 0 else 1)
    | _ => (0, 0)
  else let (b, s) := fencode (elemFmt f) v; (b, b2n s)

/-- The exponent E of R209. -/
def mxE (f : Nat) : Int := match f with | 9 => 8 | 10 => 15 | 11 => 4 | _ => 2

/-- ⌊log₂⌋ of a finite value's magnitude; none for zero and for non-finite values. -/
def vlog (v : FVal) : Option Int := match v with | .num _ m e => if m = 0 then none else some (e + Nat.log2 m) | _ => none

/-- The greatest of some integers. -/
def maxInt : List Int → Option Int
  | [] => none
  | a :: r => match maxInt r with | none => some a | some b => some (max a b)

/-- One block of an MX result (R209): scale byte, elements, saturations. -/
def encodeBlock (f : Nat) (vs : List FVal) : Nat × List Nat × Nat :=
  let ef := elemFmt f
  if vs.any (· == .nan) && 11 ≤ f then (0xFF, vs.map (fun _ => 0), 0)
  else
    let clampInf := vs.any (fun v => match v with | .inf _ => f != 10 | _ => false)
    let x : Int := if clampInf then 127 else
      match maxInt (vs.filterMap vlog) with
      | none => -127
      | some l => max (-127) (min 127 (l - mxE f))
    let es := vs.map (fun v =>
      match v with
      | .num neg m e =>
        let g := roundMag ef m (e - x)
        if g ≤ maxMag ef then (signBit ef neg + g, 0) else (signBit ef neg + maxMag ef, 1)
      | w => let (b, s) := fencode ef w; (b, b2n s))
    ((x + 127).toNat, es.map (·.1), (es.map (·.2)).sum)

/-- Split into runs of `n`; `fuel` bounds the number of runs. -/
def chunksOf {α : Type} (n : Nat) : Nat → List α → List (List α)
  | 0, _ => []
  | k + 1, l => if l.isEmpty then [] else l.take n :: chunksOf n k (l.drop n)

/-- The payload of a result and its saturations. -/
def encodeResult (f : Nat) (vs : List FVal) : List Byte × Nat :=
  if isMx f then
    let bs := (chunksOf 32 vs.length vs).map (encodeBlock f)
    let scales := (List.range 8).map (fun j => BitVec.ofNat 8 ((bs.map (·.1)).getD j 0))
    (scales ++ bs.flatMap (fun b => pack (elemBits f) b.2.1), (bs.map (·.2.2)).sum)
  else
    let es := vs.map (encodeScalar f)
    (pack (elemBits f) (es.map (·.1)), (es.map (·.2)).sum)

/-! ## Atomics (R105 to R107) -/

/-- The new value of an atomic from the old value and the operands, in `8·size` bits. -/
def atomicNew (kind size old op1 op2 : Nat) : Nat :=
  let w := 8 * size
  let s := toSigned w
  match kind with
  | 0 => op1
  | 1 => if old = op1 then op2 else old
  | 2 => (old + op1) % 2 ^ w
  | 3 => Nat.land old op1
  | 4 => Nat.lor old op1
  | 5 => Nat.xor old op1
  | 6 => if s op1 < s old then op1 else old
  | 7 => if s old < s op1 then op1 else old
  | 8 => min old op1
  | 9 => max old op1
  | _ => fadd (if size = 8 then fFP64 else fFP32) old op1

end Sys2Proof.Machine
end

