-- ==== Sys2Proof/Machine/Fec.lean ====
section
/-! DEFINITION. The block code of a lane (R349): RS(544,514) over 10-bit symbols. The code that the spec names by IEEE
802.3 is taken from that standard (log 124, PRESUMED): the field of x^10 + x^3 + 1, the generator polynomial with roots 1,
α, …, α^29, the first symbol sent as the highest coefficient, bit 0 of a symbol first, the 30 check symbols last. -/

namespace Sys2Proof.Machine

/-! ## The field of 1,024 elements -/

/-- Multiply by α. -/
def gfShift (a : Nat) : Nat := if 512 ≤ a then Nat.xor (2 * a) 0x409 else 2 * a

/-- The product. -/
def gfMul (a b : Nat) : Nat :=
  ((List.range 10).foldl (fun (x : Nat × Nat) i => (if b.testBit i then Nat.xor x.1 x.2 else x.1, gfShift x.2)) (0, a)).1

/-- α to a power. -/
def gfPow (n : Nat) : Nat := (List.range (n % 1023)).foldl (fun a _ => gfShift a) 1

/-- The inverse, `a` to the power 1,022. -/
def gfInv (a : Nat) : Nat :=
  ((List.range 9).foldl (fun (x : Nat × Nat) _ => let q := gfMul x.2 x.2; (gfMul x.1 q, q)) (1, a)).1

/-- A polynomial, lowest coefficient first, at a point. -/
def gfEval (p : List Nat) (x : Nat) : Nat := p.foldr (fun c a => Nat.xor c (gfMul a x)) 0

/-- The sum of two polynomials. -/
def gfAdd (a b : List Nat) : List Nat := (List.range (max a.length b.length)).map (fun i => Nat.xor (a.getD i 0) (b.getD i 0))

/-! ## Check symbols -/

/-- Symbol `i` of a packed word. -/
def symAt (w i : Nat) : Nat := w / 2 ^ (10 * i) % 1024

/-- The generator's coefficients of x^29 down to x^0, packed, times 1, α, …, α^9. -/
def genRows : List Nat :=
  [0x82f422009e2e47f620c198b145a7737dfae605efb405e212513e51a8d46c00628398bb8a23f,
    0x7e8d4013c5c8fec418233621b4aeffbb55c0bde6a4bc420ab7ca3418cd8008597317616477,
    0xf91380278b91fc8a7046684b6b5d7f56a3837b5d497884156f9061319b0010b2e62ec2c8ee,
    0x1f226024f9707f816e01cd096d6baee8d4f04f63ab6f00a6acf04c26336002164ce5d1591dc,
    0x3e045049f2e0bf92d80b9852caf755d3e9e09acf54de914951e2d84c62c9042c89efa2b23b8,
    0x7c08a093e4c37fb5b01632e585cea3a5d3513197a9bd2292a2c7f088e59b081993ff4d66779,
    0xf8114123c184fffb602c658b9b994f49e6a2632e517ad5214d8de191ef36103327fa93ccafb,
    0xf26282438b0bff76e458cb1727169e938dd4c255a2b53a429a19c3b3da652026dff12f9b5ff,
    0xe6c594831f17be7dc8b0946e4e2935255ba980a3476af4a53d338767b0c3400d3fc65e34ffe,
    0xcfcb2902372f3c7bb5602adc1c766a4ab74325468e95794a7a670ecf6186801a6facb569bf5]

/-- The multiple of the generator by a symbol. -/
def genTimes (f : Nat) : List Nat → Nat → Nat → Nat
  | [], _, a => a
  | g :: r, i, a => genTimes f r (i + 1) (if f.testBit i then Nat.xor a g else a)

/-- The division by the generator over `n` symbols of `m`; the remainder's highest coefficient is the lowest symbol. -/
def checkRun : Nat → Nat → Nat → Nat
  | 0, _, r => r
  | n + 1, m, r => checkRun n (m / 1024) (genTimes (Nat.xor (m % 1024) (r % 1024)) genRows 0 (r / 1024))

/-- The 30 check symbols of a message of 5,140 bits. -/
def fecCheck (m : Nat) : Nat := checkRun 514 m 0

/-! ## The block (R349) -/

/-- The message of a block: ten flits, byte 0 and bit 0 of each first, and the control slot. -/
def fecMessage (flits : List Flit) (slot : Nat) : Nat :=
  (flits.flatMap id).foldr (fun w a => w.toNat + 2 ^ 64 * a) 0 + 2 ^ 5120 * slot

/-- The codeword of a message. -/
def fecWord (m : Nat) : BitVec 5440 := BitVec.ofNat 5440 (m + 2 ^ 5140 * fecCheck m)

/-- A word of its three fields: ten flits, the control slot and the check symbols. -/
def fecJoin (flits : BitVec 5120) (slot : BitVec 20) (check : BitVec 300) : BitVec 5440 := check ++ slot ++ flits

/-- The codeword of a block. -/
def fecEncode (flits : List Flit) (slot : Nat) : BitVec 5440 := fecWord (fecMessage flits slot % 2 ^ 5140)

/-- The flits of a message. -/
def fecFlits (m : Nat) : List Flit :=
  (List.range 10).map (fun k => (List.range 8).map (fun j => BitVec.ofNat 64 (m / 2 ^ (512 * k + 64 * j))))

/-- The control slot of a message. -/
def fecSlot (m : Nat) : Nat := m / 2 ^ 5120 % 2 ^ 20

/-! ## Decoding -/

/-- The error locator of a list of syndromes (Berlekamp and Massey): the locator, the one before its last growth, the
number of errors, the steps since, and the discrepancy there. -/
structure Bm where
  loc : List Nat
  old : List Nat
  len : Nat
  gap : Nat
  disc : Nat
  deriving DecidableEq, Repr

/-- One step, for syndrome `n`. -/
def bmStep (syn : List Nat) (x : Bm) (n : Nat) : Bm :=
  let d := (List.range (x.len + 1)).foldl (fun a i => if i ≤ n then Nat.xor a (gfMul (x.loc.getD i 0) (syn.getD (n - i) 0)) else a) 0
  if d = 0 then { x with gap := x.gap + 1 }
  else
    let c := gfMul d (gfInv x.disc)
    let loc := gfAdd x.loc (List.replicate x.gap 0 ++ x.old.map (gfMul c))
    if 2 * x.len ≤ n then { loc := loc, old := x.loc, len := n + 1 - x.len, gap := 1, disc := d }
    else { x with loc := loc, gap := x.gap + 1 }

/-- The corrections of a received word by the remainder `d` of its division: positions and values; none when there is no
codeword within 15 symbols. -/
def fecErrors (d : Nat) : Option (List (Nat × Nat)) :=
  let rem := (List.range 30).map (fun k => symAt d (29 - k))
  let syn := (List.range 30).map (fun j => gfEval rem (gfPow j))
  let x := (List.range 30).foldl (bmStep syn) ⟨[1], [1], 0, 1, 1⟩
  if 15 < x.len then none
  else
    let om := (List.range 30).map (fun k => (List.range (k + 1)).foldl (fun a i => Nat.xor a (gfMul (x.loc.getD i 0) (syn.getD (k - i) 0))) 0)
    let der := (x.loc.drop 1).mapIdx (fun i c => if i % 2 = 0 then c else 0)
    let roots := (List.range 544).filter (fun i => gfEval x.loc (gfPow (1023 - (543 - i))) == 0)
    if roots.length = x.len then
      some (roots.map (fun i =>
        let z := gfPow (1023 - (543 - i))
        (i, gfMul (gfPow (543 - i)) (gfMul (gfEval om z) (gfInv (gfEval der z))))))
    else none

/-- Decode a received word: its message and the number of symbols corrected, at most 15 (R349, R356). -/
def fecDecode (w : BitVec 5440) : Option (Nat × Nat) :=
  let m := w.toNat % 2 ^ 5140
  let d := Nat.xor (fecCheck m) (w.toNat / 2 ^ 5140)
  if d = 0 then some (m, 0)
  else match fecErrors d with
    | none => none
    | some es =>
      let v := es.foldl (fun a e => Nat.xor a (e.2 * 2 ^ (10 * e.1))) w.toNat
      if fecCheck (v % 2 ^ 5140) = v / 2 ^ 5140 then some (v % 2 ^ 5140, es.length) else none

end Sys2Proof.Machine
end

