-- ==== Sys2Proof/Config.lean ====
section
/-! DEFINITION. What the spec leaves open or gives no formula for: constants without a body, so that nothing can be
proved of their values. Values of R545 (identity, fuses, straps) are reset values or operands and stand elsewhere. -/

namespace Sys2Proof.Config

/-- The free values: the counter `free` of the state picks one and is advanced with each use (log 3). -/
opaque freeValue : Nat → Word
/-- `TX_OFS` of the beat frame that port `p` sends at its module's edge `e`, after the `k`-th system reset (R34; log 12). -/
opaque txOfs (k p e : Nat) : BitVec 32
/-- SHA-384 of a byte string (R430, R440). -/
opaque sha384 : List Byte → BitVec 384
/-- The AES-256-GCM tag over key, initialisation vector, additional data and plaintext (R423). -/
opaque gcmTag : BitVec 256 → List Byte → List Byte → List Byte → BitVec 128
/-- The AES-256-GCM key stream bytes of a key and an initialisation vector (R423). -/
opaque gcmStream : BitVec 256 → List Byte → Nat → Byte
/-- Whether an ECDSA signature over a digest verifies under a public point (R435): the point's 96 bytes, the digest, and
the signature's 96 bytes. -/
opaque ecdsaOk : List Byte → BitVec 384 → List Byte → Bool
/-- The ECDSA signature that a private scalar makes over a digest: 96 bytes are taken (R441, R484). -/
opaque ecdsaSign : Nat → BitVec 384 → Nat → Byte
/-- The public point of a private scalar on brainpoolP384r1: 96 bytes are taken (R432). -/
opaque ecPoint : Nat → Nat → Byte
/-- The ECDH shared secret of a private scalar and a public point of 96 bytes; none for a point that is not on the curve
(R428). -/
opaque ecdh : Nat → List Byte → Option (List Byte)
/-- The unique device secret, and the Cask's private key (R432, R486). -/
opaque deviceSecret : BitVec 256
opaque caskKey : Nat
/-- The bytes of a certificate over the public point of a private scalar, and their count: 1 the attestation key's, 2 the
key-agreement key's, 3 the device identity's, 4 the Cask's (R440, R486). -/
opaque certByte : Nat → Nat → Nat → Byte
opaque certLen : Nat → Nat → Nat

/-- A term of a step's cost that the spec leaves without a value (log 14): term 0, the packets of a step over a route
with no port in service; 1 and 2, a multicast tree that this module holds no entry for. -/
opaque openTerm : Nat → Nat → Nat

/-- SHA-384 of the ROM (R441). -/
opaque romHash : BitVec 384
/-- SHA-384 of the public key fused in a firmware root slot (R432). -/
opaque rootHash : Nat → BitVec 384
/-- The metrology key in the Cask's ROM (R482): its public point. Of a Cask firmware image: the bytes that its signature
covers, the signature, and the version (R482, R483). -/
opaque metrologyKey : List Byte
opaque caskFwBody : List Byte → List Byte
opaque caskFwSig : List Byte → List Byte
opaque caskFwVer : List Byte → Nat

/-- What the Cask measures, in mV and mA, under calibration constants (R482): from what its divider and its shunt gave. -/
opaque caskVolt : List Word → Nat → Nat
opaque caskAmp : List Word → Int → Int

/-- Byte `i` of the calibration store as the factory wrote it, and of the ROM's default values (R515, R516). -/
opaque calFactory : Nat → Byte
opaque calDefault : Nat → Byte

/-- Where the HDM decoder's registers stand among the CXL.cache and CXL.mem registers, in 64-bit words (R386; log 94). -/
opaque hdmDecoder : Nat

/-- The set of the coherence directory that a line falls into (R156). -/
opaque dirSet : Nat → Nat

end Sys2Proof.Config
end

