-- ==== Sys2Proof/Machine/RegMap.lean ====
section
/-! DEFINITION. The register map: every register of the block as a key, its fields, its reset values and masks, and
its BAR0 offset, from the register tables of the spec. Register tables are long, so their rows stand in pieces. -/

namespace Sys2Proof.Machine

/-- A register: its number in the tables below and its index (port, partition, row, ...). -/
structure Key where
  id : Nat
  idx : Nat
  deriving DecidableEq, Repr

/-- A field of a register: bits [hi:lo]. -/
structure Fld where
  key : Key
  hi : Nat
  lo : Nat
  deriving DecidableEq, Repr

/-- What the columns of a register table give: the POR value (and that of index 0), the bits kept through system
reset and core reset, the RW1C bits, and the RW bits that the host writes directly. -/
structure RegInfo where
  por : Nat
  por0 : Nat
  sysKeep : Nat
  coreKeep : Nat
  w1c : Nat
  wr : Nat
  deriving DecidableEq, Repr

/-- Where the registers of one number lie in BAR0: offset base + s1·i + s2·j, i < c1, j < c2, holds index
idx0 + i·m1 + j. -/
structure AddrRow where
  base : Nat
  s1 : Nat
  c1 : Nat
  s2 : Nat
  c2 : Nat
  id : Nat
  idx0 : Nat
  m1 : Nat
  deriving DecidableEq, Repr

/-- `GLOBAL_OPTIONS` (R2), BAR0 offset 0x10. -/
def GLOBAL_OPTIONS : Key := ⟨0, 0⟩
def GLOBAL_OPTIONS_HBM_STACKS : Fld := ⟨GLOBAL_OPTIONS, 23, 20⟩
def GLOBAL_OPTIONS_LE_PRESENT : Fld := ⟨GLOBAL_OPTIONS, 19, 8⟩
def GLOBAL_OPTIONS_CONF_LINK : Fld := ⟨GLOBAL_OPTIONS, 7, 7⟩
def GLOBAL_OPTIONS_CASK_PRESENT : Fld := ⟨GLOBAL_OPTIONS, 6, 6⟩
def GLOBAL_OPTIONS_CXL_PRESENT : Fld := ⟨GLOBAL_OPTIONS, 5, 5⟩
def GLOBAL_OPTIONS_SEQ_PRESENT : Fld := ⟨GLOBAL_OPTIONS, 4, 4⟩
def GLOBAL_OPTIONS_RDX_PRESENT : Fld := ⟨GLOBAL_OPTIONS, 3, 3⟩
def GLOBAL_OPTIONS_ATTN_PRESENT : Fld := ⟨GLOBAL_OPTIONS, 2, 2⟩
def GLOBAL_OPTIONS_TUN_PRESENT : Fld := ⟨GLOBAL_OPTIONS, 1, 1⟩
def GLOBAL_OPTIONS_HBM_PRESENT : Fld := ⟨GLOBAL_OPTIONS, 0, 0⟩
/-- `TIME_CONFIG` (R62), BAR0 offset 0x40008. -/
def TIME_CONFIG : Key := ⟨1, 0⟩
def TIME_CONFIG_ROOT_PRIO : Fld := ⟨TIME_CONFIG, 15, 8⟩
def TIME_CONFIG_SCHED_FRAC : Fld := ⟨TIME_CONFIG, 7, 4⟩
def TIME_CONFIG_BEAT_LEN : Fld := ⟨TIME_CONFIG, 1, 0⟩
/-- `TIME_PENDING` (R62), BAR0 offset 0x40010. -/
def TIME_PENDING : Key := ⟨2, 0⟩
def TIME_PENDING_PEND_VALID : Fld := ⟨TIME_PENDING, 8, 8⟩
def TIME_PENDING_PEND_SCHED_FRAC : Fld := ⟨TIME_PENDING, 7, 4⟩
def TIME_PENDING_PEND_BEAT_LEN : Fld := ⟨TIME_PENDING, 1, 0⟩
/-- `TIME_STATUS` (R62), BAR0 offset 0x40020. -/
def TIME_STATUS : Key := ⟨3, 0⟩
def TIME_STATUS_ROOT_ID : Fld := ⟨TIME_STATUS, 63, 48⟩
def TIME_STATUS_PARENT_PORT : Fld := ⟨TIME_STATUS, 38, 32⟩
def TIME_STATUS_STRATUM : Fld := ⟨TIME_STATUS, 15, 8⟩
def TIME_STATUS_FIBRE_ALLOW_LOW : Fld := ⟨TIME_STATUS, 5, 5⟩
def TIME_STATUS_SLIP : Fld := ⟨TIME_STATUS, 4, 4⟩
def TIME_STATUS_ALIGN_ALARM : Fld := ⟨TIME_STATUS, 3, 3⟩
def TIME_STATUS_LOCKED : Fld := ⟨TIME_STATUS, 2, 2⟩
def TIME_STATUS_ROLE : Fld := ⟨TIME_STATUS, 1, 0⟩
/-- `TIME_OFFSET` (R62), BAR0 offset 0x40028. -/
def TIME_OFFSET : Key := ⟨4, 0⟩
def TIME_OFFSET_FREQ_ADJ : Fld := ⟨TIME_OFFSET, 63, 32⟩
def TIME_OFFSET_OFFSET : Fld := ⟨TIME_OFFSET, 31, 0⟩
/-- `TIME_BEAT_NOW` (R62), BAR0 offset 0x40000. -/
def TIME_BEAT_NOW : Key := ⟨5, 0⟩
/-- `TIME_PENDING_AT` (R62), BAR0 offset 0x40018. -/
def TIME_PENDING_AT : Key := ⟨6, 0⟩
/-- `TIME_SLIP_COUNT` (R62), BAR0 offset 0x40030. -/
def TIME_SLIP_COUNT : Key := ⟨7, 0⟩
/-- `TIME_SLIP_MAX` (R62), BAR0 offset 0x40038. -/
def TIME_SLIP_MAX : Key := ⟨8, 0⟩
/-- `TIME_OVERRUN_COUNT` (R62), BAR0 offset 0x40040. -/
def TIME_OVERRUN_COUNT : Key := ⟨9, 0⟩
/-- `TIME_DEFER_COUNT` (R62), BAR0 offset 0x40048. -/
def TIME_DEFER_COUNT : Key := ⟨10, 0⟩
/-- `TIME_BARRIER_WAIT` (R62), BAR0 offset 0x40050. -/
def TIME_BARRIER_WAIT : Key := ⟨11, 0⟩
/-- `TIME_GUARD` (R62), BAR0 offset 0x40058. -/
def TIME_GUARD : Key := ⟨12, 0⟩
/-- `TIME_FIBRE_ALLOW` (R62), BAR0 offset 0x40060. -/
def TIME_FIBRE_ALLOW : Key := ⟨13, 0⟩
/-- `TIME_DEFER_LIMIT` (R62), BAR0 offset 0x40068. -/
def TIME_DEFER_LIMIT : Key := ⟨14, 0⟩
/-- `TIME_BARRIER_LIMIT` (R62), BAR0 offset 0x40070. -/
def TIME_BARRIER_LIMIT : Key := ⟨15, 0⟩
/-- `TIME_ALARM_COUNT` (R62), BAR0 offset 0x40078. -/
def TIME_ALARM_COUNT : Key := ⟨16, 0⟩
/-- `TIME_COST` (R62), BAR0 offset 0x40100 + 0x8 × k, k < 32. -/
def TIME_COST (k : Nat) : Key := ⟨17, k⟩
def TIME_COST_COST (k : Nat) : Fld := ⟨TIME_COST k, 31, 0⟩
/-- `TIME_LINK_DELAY` (R62), BAR0 offset 0x40800 + 0x8 × p, p < 96. -/
def TIME_LINK_DELAY (p : Nat) : Key := ⟨18, p⟩
def TIME_LINK_DELAY_DELAY (p : Nat) : Fld := ⟨TIME_LINK_DELAY p, 31, 0⟩
def TIME_LINK_DELAY_VALID (p : Nat) : Fld := ⟨TIME_LINK_DELAY p, 32, 32⟩
/-- `XLAT_EP_SELF` (R94), BAR0 offset 0x280000. -/
def XLAT_EP_SELF : Key := ⟨19, 0⟩
def XLAT_EP_SELF_HOST_ID : Fld := ⟨XLAT_EP_SELF, 31, 16⟩
def XLAT_EP_SELF_SELF_ID : Fld := ⟨XLAT_EP_SELF, 15, 0⟩
/-- `XLAT_EP_ACCEL` (R94), BAR0 offset 0x280008. -/
def XLAT_EP_ACCEL : Key := ⟨20, 0⟩
def XLAT_EP_ACCEL_ACCEL3_ID : Fld := ⟨XLAT_EP_ACCEL, 63, 48⟩
def XLAT_EP_ACCEL_ACCEL2_ID : Fld := ⟨XLAT_EP_ACCEL, 47, 32⟩
def XLAT_EP_ACCEL_ACCEL1_ID : Fld := ⟨XLAT_EP_ACCEL, 31, 16⟩
def XLAT_EP_ACCEL_ACCEL0_ID : Fld := ⟨XLAT_EP_ACCEL, 15, 0⟩
/-- `XLAT_ATS_CONFIG` (R94), BAR0 offset 0x280010. -/
def XLAT_ATS_CONFIG : Key := ⟨21, 0⟩
def XLAT_ATS_CONFIG_INVQ_DEPTH : Fld := ⟨XLAT_ATS_CONFIG, 39, 32⟩
def XLAT_ATS_CONFIG_ATS_TIMEOUT : Fld := ⟨XLAT_ATS_CONFIG, 31, 16⟩
def XLAT_ATS_CONFIG_ATS_EN : Fld := ⟨XLAT_ATS_CONFIG, 0, 0⟩
/-- `XLAT_FQ_BASE` (R94), BAR0 offset 0x281000 + 0x40 × n, n < 32. -/
def XLAT_FQ_BASE (n : Nat) : Key := ⟨22, n⟩
def XLAT_FQ_BASE_ADDR (n : Nat) : Fld := ⟨XLAT_FQ_BASE n, 63, 12⟩
def XLAT_FQ_BASE_LOC (n : Nat) : Fld := ⟨XLAT_FQ_BASE n, 1, 1⟩
def XLAT_FQ_BASE_EN (n : Nat) : Fld := ⟨XLAT_FQ_BASE n, 0, 0⟩
/-- `XLAT_FQ_STATUS` (R94), BAR0 offset 0x281018 + 0x40 × n, n < 32. -/
def XLAT_FQ_STATUS (n : Nat) : Key := ⟨23, n⟩
def XLAT_FQ_STATUS_FULL (n : Nat) : Fld := ⟨XLAT_FQ_STATUS n, 2, 2⟩
def XLAT_FQ_STATUS_CONS_ERR (n : Nat) : Fld := ⟨XLAT_FQ_STATUS n, 1, 1⟩
def XLAT_FQ_STATUS_OVERFLOW (n : Nat) : Fld := ⟨XLAT_FQ_STATUS n, 0, 0⟩
/-- `XLAT_PART_PAGES` (R94), BAR0 offset 0x281030 + 0x40 × n, n < 32. -/
def XLAT_PART_PAGES (n : Nat) : Key := ⟨24, n⟩
def XLAT_PART_PAGES_COUNT (n : Nat) : Fld := ⟨XLAT_PART_PAGES n, 31, 16⟩
def XLAT_PART_PAGES_FIRST (n : Nat) : Fld := ⟨XLAT_PART_PAGES n, 14, 0⟩
/-- `XLAT_ATC_HIT_COUNT` (R94), BAR0 offset 0x280020. -/
def XLAT_ATC_HIT_COUNT : Key := ⟨25, 0⟩
/-- `XLAT_ATC_MISS_COUNT` (R94), BAR0 offset 0x280028. -/
def XLAT_ATC_MISS_COUNT : Key := ⟨26, 0⟩
/-- `XLAT_GRANULE_COUNT` (R94), BAR0 offset 0x280030. -/
def XLAT_GRANULE_COUNT : Key := ⟨27, 0⟩
/-- `XLAT_ATS_TIMEOUT_COUNT` (R94), BAR0 offset 0x280038. -/
def XLAT_ATS_TIMEOUT_COUNT : Key := ⟨28, 0⟩
/-- `XLAT_INVAL_COUNT` (R94), BAR0 offset 0x280040. -/
def XLAT_INVAL_COUNT : Key := ⟨29, 0⟩
/-- `XLAT_FQ_PROD` (R94), BAR0 offset 0x281008 + 0x40 × n, n < 32. -/
def XLAT_FQ_PROD (n : Nat) : Key := ⟨30, n⟩
def XLAT_FQ_PROD_IDX (n : Nat) : Fld := ⟨XLAT_FQ_PROD n, 31, 0⟩
/-- `XLAT_FQ_CONS` (R94), BAR0 offset 0x281010 + 0x40 × n, n < 32. -/
def XLAT_FQ_CONS (n : Nat) : Key := ⟨31, n⟩
def XLAT_FQ_CONS_IDX (n : Nat) : Fld := ⟨XLAT_FQ_CONS n, 31, 0⟩
/-- `XLAT_FQ_OVERFLOW_COUNT` (R94), BAR0 offset 0x281020 + 0x40 × n, n < 32. -/
def XLAT_FQ_OVERFLOW_COUNT (n : Nat) : Key := ⟨32, n⟩
/-- `XLAT_FQ_FAULT_COUNT` (R94), BAR0 offset 0x281028 + 0x40 × n, n < 32. -/
def XLAT_FQ_FAULT_COUNT (n : Nat) : Key := ⟨33, n⟩
/-- `TRACK_CONFIG` (R128), BAR0 offset 0x240000. -/
def TRACK_CONFIG : Key := ⟨34, 0⟩
def TRACK_CONFIG_GRANT_IDLE : Fld := ⟨TRACK_CONFIG, 47, 32⟩
def TRACK_CONFIG_LOST_WAIT : Fld := ⟨TRACK_CONFIG, 31, 16⟩
def TRACK_CONFIG_TIMEOUT : Fld := ⟨TRACK_CONFIG, 15, 0⟩
/-- `TRACK_PART_SHARE` (R128), BAR0 offset 0x241000 + 0x10 × n, n < 32. -/
def TRACK_PART_SHARE (n : Nat) : Key := ⟨35, n⟩
def TRACK_PART_SHARE_IN_USE (n : Nat) : Fld := ⟨TRACK_PART_SHARE n, 52, 32⟩
def TRACK_PART_SHARE_COUNT (n : Nat) : Fld := ⟨TRACK_PART_SHARE n, 20, 0⟩
/-- `TRACK_TIMEOUT_COUNT` (R128), BAR0 offset 0x240008. -/
def TRACK_TIMEOUT_COUNT : Key := ⟨36, 0⟩
/-- `TRACK_LOST_COUNT` (R128), BAR0 offset 0x240010. -/
def TRACK_LOST_COUNT : Key := ⟨37, 0⟩
/-- `TRACK_LATE_REPLY_COUNT` (R128), BAR0 offset 0x240018. -/
def TRACK_LATE_REPLY_COUNT : Key := ⟨38, 0⟩
/-- `TRACK_STALL_COUNT` (R128), BAR0 offset 0x240020. -/
def TRACK_STALL_COUNT : Key := ⟨39, 0⟩
/-- `TRACK_PARITY_REPLAY_COUNT` (R128), BAR0 offset 0x240028. -/
def TRACK_PARITY_REPLAY_COUNT : Key := ⟨40, 0⟩
/-- `TRACK_PARITY_EXHAUSTED_COUNT` (R128), BAR0 offset 0x240030. -/
def TRACK_PARITY_EXHAUSTED_COUNT : Key := ⟨41, 0⟩
/-- `TRACK_HDR_DISCARD_COUNT` (R128), BAR0 offset 0x240038. -/
def TRACK_HDR_DISCARD_COUNT : Key := ⟨42, 0⟩
/-- `TRACK_LINE_WAIT_MAX` (R128), BAR0 offset 0x240040. -/
def TRACK_LINE_WAIT_MAX : Key := ⟨43, 0⟩
/-- `TRACK_LINE_QUEUES_IN_USE` (R128), BAR0 offset 0x240048. -/
def TRACK_LINE_QUEUES_IN_USE : Key := ⟨44, 0⟩
/-- `TRACK_GRANTS_OPEN` (R128), BAR0 offset 0x240050. -/
def TRACK_GRANTS_OPEN : Key := ⟨45, 0⟩
/-- `TRACK_GRANT_IDLE_COUNT` (R128), BAR0 offset 0x240058. -/
def TRACK_GRANT_IDLE_COUNT : Key := ⟨46, 0⟩
/-- `MEM_DIR_CONFIG` (R160), BAR0 offset 0x470000. -/
def MEM_DIR_CONFIG : Key := ⟨47, 0⟩
def MEM_DIR_CONFIG_RECALL_LIMIT : Fld := ⟨MEM_DIR_CONFIG, 31, 16⟩
def MEM_DIR_CONFIG_CACHE_EN : Fld := ⟨MEM_DIR_CONFIG, 4, 0⟩
/-- `MEM_DIR_STATUS` (R160), BAR0 offset 0x470008. -/
def MEM_DIR_STATUS : Key := ⟨48, 0⟩
def MEM_DIR_STATUS_LATE_WB : Fld := ⟨MEM_DIR_STATUS, 1, 1⟩
def MEM_DIR_STATUS_RECALL_TIMEOUT : Fld := ⟨MEM_DIR_STATUS, 0, 0⟩
/-- `MEM_DIR_IN_USE` (R160), BAR0 offset 0x470010. -/
def MEM_DIR_IN_USE : Key := ⟨49, 0⟩
/-- `MEM_DIR_RECALL_COUNT` (R160), BAR0 offset 0x470018. -/
def MEM_DIR_RECALL_COUNT : Key := ⟨50, 0⟩
/-- `MEM_DIR_EVICT_COUNT` (R160), BAR0 offset 0x470020. -/
def MEM_DIR_EVICT_COUNT : Key := ⟨51, 0⟩
/-- `MEM_DIR_RECALL_TIMEOUT_COUNT` (R160), BAR0 offset 0x470028. -/
def MEM_DIR_RECALL_TIMEOUT_COUNT : Key := ⟨52, 0⟩
/-- `MEM_DIR_LATE_WB_COUNT` (R160), BAR0 offset 0x470030. -/
def MEM_DIR_LATE_WB_COUNT : Key := ⟨53, 0⟩
/-- `TRACK_LC_SHARE` (R161), BAR0 offset 0x242000 + 0x10 × n, n < 32. -/
def TRACK_LC_SHARE (n : Nat) : Key := ⟨54, n⟩
def TRACK_LC_SHARE_COUNT (n : Nat) : Fld := ⟨TRACK_LC_SHARE n, 49, 32⟩
def TRACK_LC_SHARE_FIRST (n : Nat) : Fld := ⟨TRACK_LC_SHARE n, 16, 0⟩
/-- `XBAR_CONFIG` (R197), BAR0 offset 0x100000. -/
def XBAR_CONFIG : Key := ⟨55, 0⟩
def XBAR_CONFIG_EPOCH_HOLD : Fld := ⟨XBAR_CONFIG, 63, 48⟩
def XBAR_CONFIG_CELL_RSVD : Fld := ⟨XBAR_CONFIG, 47, 30⟩
def XBAR_CONFIG_COMB_WINDOW : Fld := ⟨XBAR_CONFIG, 29, 20⟩
def XBAR_CONFIG_ACTIVE_BANK : Fld := ⟨XBAR_CONFIG, 0, 0⟩
/-- `XBAR_STATUS` (R197), BAR0 offset 0x100008. -/
def XBAR_STATUS : Key := ⟨56, 0⟩
def XBAR_STATUS_DRAINING : Fld := ⟨XBAR_STATUS, 2, 2⟩
def XBAR_STATUS_NO_ROUTE : Fld := ⟨XBAR_STATUS, 1, 1⟩
def XBAR_STATUS_PEND : Fld := ⟨XBAR_STATUS, 0, 0⟩
/-- `XBAR_PORT_CFG` (R197), BAR0 offset 0x101000 + 0x40 × p, p < 98. -/
def XBAR_PORT_CFG (p : Nat) : Key := ⟨57, p⟩
def XBAR_PORT_CFG_ACCEL_SLOT (p : Nat) : Fld := ⟨XBAR_PORT_CFG p, 4, 2⟩
def XBAR_PORT_CFG_COMB_ATOMIC (p : Nat) : Fld := ⟨XBAR_PORT_CFG p, 1, 1⟩
def XBAR_PORT_CFG_COMB_READ (p : Nat) : Fld := ⟨XBAR_PORT_CFG p, 0, 0⟩
/-- `XBAR_EPOCH` (R197), BAR0 offset 0x100010. -/
def XBAR_EPOCH : Key := ⟨58, 0⟩
def XBAR_EPOCH_EPOCH : Fld := ⟨XBAR_EPOCH, 31, 0⟩
/-- `XBAR_EPOCH_AT` (R197), BAR0 offset 0x100018. -/
def XBAR_EPOCH_AT : Key := ⟨59, 0⟩
/-- `XBAR_ORPHAN_REPLIES` (R197), BAR0 offset 0x100020. -/
def XBAR_ORPHAN_REPLIES : Key := ⟨60, 0⟩
/-- `XBAR_NO_ROUTE_COUNT` (R197), BAR0 offset 0x100028. -/
def XBAR_NO_ROUTE_COUNT : Key := ⟨61, 0⟩
/-- `XBAR_RT_WIN_SEL` (R197), BAR0 offset 0x100030. -/
def XBAR_RT_WIN_SEL : Key := ⟨62, 0⟩
def XBAR_RT_WIN_SEL_BANK : Fld := ⟨XBAR_RT_WIN_SEL, 0, 0⟩
/-- `XBAR_OLD_HELD` (R197), BAR0 offset 0x100038. -/
def XBAR_OLD_HELD : Key := ⟨63, 0⟩
/-- `XBAR_CELLS_IN_USE` (R197), BAR0 offset 0x100040. -/
def XBAR_CELLS_IN_USE : Key := ⟨64, 0⟩
/-- `XBAR_BAD_REPLY_COUNT` (R197), BAR0 offset 0x100048. -/
def XBAR_BAD_REPLY_COUNT : Key := ⟨65, 0⟩
/-- `XBAR_PORT_CT_COUNT` (R197), BAR0 offset 0x101008 + 0x40 × p, p < 98. -/
def XBAR_PORT_CT_COUNT (p : Nat) : Key := ⟨66, p⟩
/-- `XBAR_PORT_SF_COUNT` (R197), BAR0 offset 0x101010 + 0x40 × p, p < 98. -/
def XBAR_PORT_SF_COUNT (p : Nat) : Key := ⟨67, p⟩
/-- `XBAR_PORT_COMB_COUNT` (R197), BAR0 offset 0x101018 + 0x40 × p, p < 98. -/
def XBAR_PORT_COMB_COUNT (p : Nat) : Key := ⟨68, p⟩
/-- `XBAR_PORT_CREDIT_WAIT` (R197), BAR0 offset 0x101020 + 0x40 × p, p < 98. -/
def XBAR_PORT_CREDIT_WAIT (p : Nat) : Key := ⟨69, p⟩
/-- `XBAR_PORT_COMB_IN_USE` (R197), BAR0 offset 0x101028 + 0x40 × p, p < 98. -/
def XBAR_PORT_COMB_IN_USE (p : Nat) : Key := ⟨70, p⟩
/-- `XBAR_LOST` (R197), BAR0 offset 0x120000 + 0x8 × w, w < 1024. -/
def XBAR_LOST (w : Nat) : Key := ⟨71, w⟩
/-- `XBAR_GROUP` (R197), BAR0 offset 0x140000 + 0x10 × g + 0x8 × i. -/
def XBAR_GROUP (g i : Nat) : Key := ⟨72, g * 2 + i⟩
/-- `XBAR_ROUTE` (R197), BAR0 offset 0x180000 + 0x8 × e, e < 65536. -/
def XBAR_ROUTE (e : Nat) : Key := ⟨73, e⟩
/-- `POOL_STATUS` (R198), BAR0 offset 0x200000. -/
def POOL_STATUS : Key := ⟨74, 0⟩
def POOL_STATUS_WARN_ACTIVE : Fld := ⟨POOL_STATUS, 20, 16⟩
def POOL_STATUS_DUP_HOLD : Fld := ⟨POOL_STATUS, 7, 7⟩
def POOL_STATUS_LEAK : Fld := ⟨POOL_STATUS, 6, 6⟩
def POOL_STATUS_RANGE_ERR : Fld := ⟨POOL_STATUS, 5, 5⟩
def POOL_STATUS_DOUBLE_FREE : Fld := ⟨POOL_STATUS, 4, 0⟩
/-- `POOL_ERR_INFO` (R198), BAR0 offset 0x200008. -/
def POOL_ERR_INFO : Key := ⟨75, 0⟩
def POOL_ERR_INFO_KIND : Fld := ⟨POOL_ERR_INFO, 55, 48⟩
def POOL_ERR_INFO_POOL : Fld := ⟨POOL_ERR_INFO, 42, 40⟩
def POOL_ERR_INFO_INDEX : Fld := ⟨POOL_ERR_INFO, 16, 0⟩
/-- `POOL_PART_LIMIT` (R198), BAR0 offset 0x201000 + 0x10 × n, n < 32. -/
def POOL_PART_LIMIT (n : Nat) : Key := ⟨76, n⟩
def POOL_PART_LIMIT_MIB (n : Nat) : Fld := ⟨POOL_PART_LIMIT n, 61, 56⟩
def POOL_PART_LIMIT_TILE64 (n : Nat) : Fld := ⟨POOL_PART_LIMIT n, 55, 45⟩
def POOL_PART_LIMIT_K4 (n : Nat) : Fld := ⟨POOL_PART_LIMIT n, 44, 33⟩
def POOL_PART_LIMIT_K1 (n : Nat) : Fld := ⟨POOL_PART_LIMIT n, 32, 18⟩
def POOL_PART_LIMIT_CELL (n : Nat) : Fld := ⟨POOL_PART_LIMIT n, 17, 0⟩
/-- `POOL_PART_USE` (R198), BAR0 offset 0x201008 + 0x10 × n, n < 32. -/
def POOL_PART_USE (n : Nat) : Key := ⟨77, n⟩
def POOL_PART_USE_MIB (n : Nat) : Fld := ⟨POOL_PART_USE n, 61, 56⟩
def POOL_PART_USE_TILE64 (n : Nat) : Fld := ⟨POOL_PART_USE n, 55, 45⟩
def POOL_PART_USE_K4 (n : Nat) : Fld := ⟨POOL_PART_USE n, 44, 33⟩
def POOL_PART_USE_K1 (n : Nat) : Fld := ⟨POOL_PART_USE n, 32, 18⟩
def POOL_PART_USE_CELL (n : Nat) : Fld := ⟨POOL_PART_USE n, 17, 0⟩
/-- `POOL_AUDIT_BEAT` (R198), BAR0 offset 0x200010. -/
def POOL_AUDIT_BEAT : Key := ⟨78, 0⟩
/-- `POOL_LEAK_COUNT` (R198), BAR0 offset 0x200018. -/
def POOL_LEAK_COUNT : Key := ⟨79, 0⟩
/-- `POOL_DUP_COUNT` (R198), BAR0 offset 0x200020. -/
def POOL_DUP_COUNT : Key := ⟨80, 0⟩
/-- `POOL_RANGE_ERR_COUNT` (R198), BAR0 offset 0x200028. -/
def POOL_RANGE_ERR_COUNT : Key := ⟨81, 0⟩
/-- `POOL_FREE` (R198), BAR0 offset 0x200100 + 0x40 × k, k < 5. -/
def POOL_FREE (k : Nat) : Key := ⟨82, k⟩
/-- `POOL_WARN` (R198), BAR0 offset 0x200108 + 0x40 × k, k < 5. -/
def POOL_WARN (k : Nat) : Key := ⟨83, k⟩
/-- `POOL_EMPTY_COUNT` (R198), BAR0 offset 0x200110 + 0x40 × k, k < 5. -/
def POOL_EMPTY_COUNT (k : Nat) : Key := ⟨84, k⟩
/-- `POOL_WARN_COUNT` (R198), BAR0 offset 0x200118 + 0x40 × k, k < 5. -/
def POOL_WARN_COUNT (k : Nat) : Key := ⟨85, k⟩
/-- `POOL_DOUBLE_FREE_COUNT` (R198), BAR0 offset 0x200120 + 0x40 × k, k < 5. -/
def POOL_DOUBLE_FREE_COUNT (k : Nat) : Key := ⟨86, k⟩
/-- `POOL_LOW_MARK` (R198), BAR0 offset 0x200128 + 0x40 × k, k < 5. -/
def POOL_LOW_MARK (k : Nat) : Key := ⟨87, k⟩
/-- `RDX_CONFIG` (R226), BAR0 offset 0x300000. -/
def RDX_CONFIG : Key := ⟨88, 0⟩
def RDX_CONFIG_CHUNK_LIMIT : Fld := ⟨RDX_CONFIG, 31, 16⟩
/-- `RDX_STATUS` (R226), BAR0 offset 0x300008. -/
def RDX_STATUS : Key := ⟨89, 0⟩
def RDX_STATUS_SAT : Fld := ⟨RDX_STATUS, 3, 3⟩
def RDX_STATUS_PARITY : Fld := ⟨RDX_STATUS, 2, 2⟩
def RDX_STATUS_REJECT : Fld := ⟨RDX_STATUS, 1, 1⟩
def RDX_STATUS_CHUNK_TIMEOUT : Fld := ⟨RDX_STATUS, 0, 0⟩
/-- `RDX_GROUP_A` (R226), BAR0 offset 0x301000 + 0x10 × g, g < 256. -/
def RDX_GROUP_A (g : Nat) : Key := ⟨90, g⟩
def RDX_GROUP_A_STATE (g : Nat) : Fld := ⟨RDX_GROUP_A g, 63, 62⟩
def RDX_GROUP_A_MEMBERS (g : Nat) : Fld := ⟨RDX_GROUP_A g, 61, 48⟩
def RDX_GROUP_A_MC_GROUP (g : Nat) : Fld := ⟨RDX_GROUP_A g, 47, 36⟩
def RDX_GROUP_A_GROUP_ID (g : Nat) : Fld := ⟨RDX_GROUP_A g, 35, 24⟩
def RDX_GROUP_A_PARTITION (g : Nat) : Fld := ⟨RDX_GROUP_A g, 23, 19⟩
def RDX_GROUP_A_MODE (g : Nat) : Fld := ⟨RDX_GROUP_A g, 18, 18⟩
def RDX_GROUP_A_FMT (g : Nat) : Fld := ⟨RDX_GROUP_A g, 17, 14⟩
def RDX_GROUP_A_RED_OP (g : Nat) : Fld := ⟨RDX_GROUP_A g, 13, 10⟩
/-- `RDX_GROUP_B` (R226), BAR0 offset 0x301008 + 0x10 × g, g < 256. -/
def RDX_GROUP_B (g : Nat) : Key := ⟨91, g⟩
def RDX_GROUP_B_SLOTS_USED (g : Nat) : Fld := ⟨RDX_GROUP_B g, 44, 32⟩
def RDX_GROUP_B_SLOTS (g : Nat) : Fld := ⟨RDX_GROUP_B g, 12, 0⟩
/-- `RDX_CHUNK_COUNT` (R226), BAR0 offset 0x300010. -/
def RDX_CHUNK_COUNT : Key := ⟨92, 0⟩
/-- `RDX_TIMEOUT_COUNT` (R226), BAR0 offset 0x300018. -/
def RDX_TIMEOUT_COUNT : Key := ⟨93, 0⟩
/-- `RDX_REJECT_COUNT` (R226), BAR0 offset 0x300020. -/
def RDX_REJECT_COUNT : Key := ⟨94, 0⟩
/-- `RDX_PARITY_COUNT` (R226), BAR0 offset 0x300028. -/
def RDX_PARITY_COUNT : Key := ⟨95, 0⟩
/-- `RDX_SAT_COUNT` (R226), BAR0 offset 0x300030. -/
def RDX_SAT_COUNT : Key := ⟨96, 0⟩
/-- `RDX_SLOTS_FREE` (R226), BAR0 offset 0x300038. -/
def RDX_SLOTS_FREE : Key := ⟨97, 0⟩
/-- `RDX_PARK_COUNT` (R226), BAR0 offset 0x300040. -/
def RDX_PARK_COUNT : Key := ⟨98, 0⟩
/-- `RDX_COLL_A` (R247), BAR0 offset 0x304000 + 0x40 × g, g < 256. -/
def RDX_COLL_A (g : Nat) : Key := ⟨99, g⟩
def RDX_COLL_A_STATE (g : Nat) : Fld := ⟨RDX_COLL_A g, 63, 62⟩
def RDX_COLL_A_ROOT (g : Nat) : Fld := ⟨RDX_COLL_A g, 61, 61⟩
def RDX_COLL_A_MEMBER (g : Nat) : Fld := ⟨RDX_COLL_A g, 60, 60⟩
def RDX_COLL_A_GROUP_ID (g : Nat) : Fld := ⟨RDX_COLL_A g, 59, 48⟩
def RDX_COLL_A_PARTITION (g : Nat) : Fld := ⟨RDX_COLL_A g, 47, 43⟩
def RDX_COLL_A_BARRIER (g : Nat) : Fld := ⟨RDX_COLL_A g, 42, 42⟩
def RDX_COLL_A_BAR_EN (g : Nat) : Fld := ⟨RDX_COLL_A g, 41, 41⟩
def RDX_COLL_A_BAR_GROUP (g : Nat) : Fld := ⟨RDX_COLL_A g, 40, 29⟩
def RDX_COLL_A_MC_GROUP (g : Nat) : Fld := ⟨RDX_COLL_A g, 28, 17⟩
def RDX_COLL_A_WEIGHT (g : Nat) : Fld := ⟨RDX_COLL_A g, 16, 11⟩
def RDX_COLL_A_OWN_RANK (g : Nat) : Fld := ⟨RDX_COLL_A g, 10, 0⟩
/-- `RDX_COLL_B` (R247), BAR0 offset 0x304008 + 0x40 × g, g < 256. -/
def RDX_COLL_B (g : Nat) : Key := ⟨100, g⟩
def RDX_COLL_B_ROOT_EP (g : Nat) : Fld := ⟨RDX_COLL_B g, 63, 48⟩
def RDX_COLL_B_MEMBERS (g : Nat) : Fld := ⟨RDX_COLL_B g, 47, 34⟩
def RDX_COLL_B_MEMBER_BASE (g : Nat) : Fld := ⟨RDX_COLL_B g, 33, 20⟩
def RDX_COLL_B_SLOTS (g : Nat) : Fld := ⟨RDX_COLL_B g, 12, 0⟩
/-- `RDX_COLL_C` (R247), BAR0 offset 0x304010 + 0x40 × g, g < 256. -/
def RDX_COLL_C (g : Nat) : Key := ⟨101, g⟩
def RDX_COLL_C_BAR_GEN (g : Nat) : Fld := ⟨RDX_COLL_C g, 63, 34⟩
def RDX_COLL_C_WATCH_RANK (g : Nat) : Fld := ⟨RDX_COLL_C g, 12, 0⟩
/-- `RDX_COLL_SLOW` (R247), BAR0 offset 0x304018 + 0x40 × g, g < 256. -/
def RDX_COLL_SLOW (g : Nat) : Key := ⟨102, g⟩
def RDX_COLL_SLOW_LAST_RANK (g : Nat) : Fld := ⟨RDX_COLL_SLOW g, 44, 32⟩
def RDX_COLL_SLOW_LAST_SPREAD (g : Nat) : Fld := ⟨RDX_COLL_SLOW g, 31, 0⟩
/-- `RDX_COLL_SUSPEND` (R247), BAR0 offset 0x304020 + 0x40 × g, g < 256. -/
def RDX_COLL_SUSPEND (g : Nat) : Key := ⟨103, g⟩
def RDX_COLL_SUSPEND_LOST_EP (g : Nat) : Fld := ⟨RDX_COLL_SUSPEND g, 63, 48⟩
def RDX_COLL_SUSPEND_CAUSE (g : Nat) : Fld := ⟨RDX_COLL_SUSPEND g, 42, 40⟩
def RDX_COLL_SUSPEND_BEAT (g : Nat) : Fld := ⟨RDX_COLL_SUSPEND g, 39, 0⟩
/-- `RDX_COLL_PART_LIMIT` (R247), BAR0 offset 0x308000 + 0x10 × n, n < 32. -/
def RDX_COLL_PART_LIMIT (n : Nat) : Key := ⟨104, n⟩
def RDX_COLL_PART_LIMIT_MC (n : Nat) : Fld := ⟨RDX_COLL_PART_LIMIT n, 44, 32⟩
def RDX_COLL_PART_LIMIT_ROWS (n : Nat) : Fld := ⟨RDX_COLL_PART_LIMIT n, 8, 0⟩
/-- `RDX_COLL_PART_USE` (R247), BAR0 offset 0x308008 + 0x10 × n, n < 32. -/
def RDX_COLL_PART_USE (n : Nat) : Key := ⟨105, n⟩
def RDX_COLL_PART_USE_MC (n : Nat) : Fld := ⟨RDX_COLL_PART_USE n, 44, 32⟩
def RDX_COLL_PART_USE_ROWS (n : Nat) : Fld := ⟨RDX_COLL_PART_USE n, 8, 0⟩
/-- `RDX_COLL_STATUS` (R247), BAR0 offset 0x300048. -/
def RDX_COLL_STATUS : Key := ⟨106, 0⟩
def RDX_COLL_STATUS_SUSPENDED : Fld := ⟨RDX_COLL_STATUS, 0, 0⟩
/-- `RDX_COLL_SUSPEND_COUNT` (R247), BAR0 offset 0x300050. -/
def RDX_COLL_SUSPEND_COUNT : Key := ⟨107, 0⟩
/-- `RDX_COLL_OTHER_WEIGHT` (R247), BAR0 offset 0x300058. -/
def RDX_COLL_OTHER_WEIGHT : Key := ⟨108, 0⟩
/-- `RDX_COLL_SPREAD_MAX` (R247), BAR0 offset 0x304028 + 0x40 × g, g < 256. -/
def RDX_COLL_SPREAD_MAX (g : Nat) : Key := ⟨109, g⟩
def RDX_COLL_SPREAD_MAX_RANK (g : Nat) : Fld := ⟨RDX_COLL_SPREAD_MAX g, 44, 32⟩
def RDX_COLL_SPREAD_MAX_SPREAD (g : Nat) : Fld := ⟨RDX_COLL_SPREAD_MAX g, 31, 0⟩
/-- `RDX_COLL_WATCH_COUNT` (R247), BAR0 offset 0x304030 + 0x40 × g, g < 256. -/
def RDX_COLL_WATCH_COUNT (g : Nat) : Key := ⟨110, g⟩
/-- `RDX_COLL_MEMBER` (R247), BAR0 offset 0x310000 + 0x8 × w, w < 4096. -/
def RDX_COLL_MEMBER (w : Nat) : Key := ⟨111, w⟩
/-- `TUN_STATUS` (R280), BAR0 offset 0x340000. -/
def TUN_STATUS : Key := ⟨112, 0⟩
def TUN_STATUS_BALLAST_DUTY : Fld := ⟨TUN_STATUS, 20, 16⟩
def TUN_STATUS_STAGE_DROP : Fld := ⟨TUN_STATUS, 5, 5⟩
def TUN_STATUS_PARITY : Fld := ⟨TUN_STATUS, 4, 4⟩
def TUN_STATUS_LOADING : Fld := ⟨TUN_STATUS, 3, 3⟩
def TUN_STATUS_FAILED : Fld := ⟨TUN_STATUS, 2, 2⟩
def TUN_STATUS_STATE : Fld := ⟨TUN_STATUS, 1, 0⟩
/-- `TUN_REPAIR_A` (R280), BAR0 offset 0x340008. -/
def TUN_REPAIR_A : Key := ⟨113, 0⟩
def TUN_REPAIR_A_COL0_COL5 : Fld := ⟨TUN_REPAIR_A, 59, 0⟩
/-- `TUN_REPAIR_B` (R280), BAR0 offset 0x340010. -/
def TUN_REPAIR_B : Key := ⟨114, 0⟩
def TUN_REPAIR_B_COUNT : Fld := ⟨TUN_REPAIR_B, 35, 32⟩
def TUN_REPAIR_B_COL6_COL7 : Fld := ⟨TUN_REPAIR_B, 19, 0⟩
/-- `TUN_PART_SHARE` (R280), BAR0 offset 0x341000 + 0x10 × n, n < 32. -/
def TUN_PART_SHARE (n : Nat) : Key := ⟨115, n⟩
def TUN_PART_SHARE_COUNT (n : Nat) : Fld := ⟨TUN_PART_SHARE n, 43, 32⟩
def TUN_PART_SHARE_FIRST (n : Nat) : Fld := ⟨TUN_PART_SHARE n, 11, 0⟩
/-- `TUN_BIND` (R280), BAR0 offset 0x342000 + 0x8 × b, b < 16. -/
def TUN_BIND (b : Nat) : Key := ⟨116, b⟩
def TUN_BIND_VALID (b : Nat) : Fld := ⟨TUN_BIND b, 17, 17⟩
def TUN_BIND_PARTITION (b : Nat) : Fld := ⟨TUN_BIND b, 16, 12⟩
def TUN_BIND_GROUP_ID (b : Nat) : Fld := ⟨TUN_BIND b, 11, 0⟩
/-- `TUN_SLICE_A` (R280), BAR0 offset 0x344000 + 0x10 × s, s < 256. -/
def TUN_SLICE_A (s : Nat) : Key := ⟨117, s⟩
def TUN_SLICE_A_STATE (s : Nat) : Fld := ⟨TUN_SLICE_A s, 63, 62⟩
def TUN_SLICE_A_PARTITION (s : Nat) : Fld := ⟨TUN_SLICE_A s, 61, 57⟩
def TUN_SLICE_A_IN_FMT (s : Nat) : Fld := ⟨TUN_SLICE_A s, 56, 53⟩
def TUN_SLICE_A_N (s : Nat) : Fld := ⟨TUN_SLICE_A s, 52, 36⟩
def TUN_SLICE_A_K (s : Nat) : Fld := ⟨TUN_SLICE_A s, 35, 19⟩
/-- `TUN_SLICE_B` (R280), BAR0 offset 0x344008 + 0x10 × s, s < 256. -/
def TUN_SLICE_B (s : Nat) : Key := ⟨118, s⟩
def TUN_SLICE_B_TILES (s : Nat) : Fld := ⟨TUN_SLICE_B s, 41, 32⟩
def TUN_SLICE_B_BASE (s : Nat) : Fld := ⟨TUN_SLICE_B s, 9, 0⟩
/-- `TUN_JOB_COUNT` (R280), BAR0 offset 0x340100. -/
def TUN_JOB_COUNT : Key := ⟨119, 0⟩
/-- `TUN_BUSY_CYCLES` (R280), BAR0 offset 0x340108. -/
def TUN_BUSY_CYCLES : Key := ⟨120, 0⟩
/-- `TUN_BALLAST_CYCLES` (R280), BAR0 offset 0x340110. -/
def TUN_BALLAST_CYCLES : Key := ⟨121, 0⟩
/-- `TUN_PARITY_COUNT` (R280), BAR0 offset 0x340118. -/
def TUN_PARITY_COUNT : Key := ⟨122, 0⟩
/-- `TUN_STAGE_DROP_COUNT` (R280), BAR0 offset 0x340120. -/
def TUN_STAGE_DROP_COUNT : Key := ⟨123, 0⟩
/-- `TUN_STAGED` (R280), BAR0 offset 0x340128. -/
def TUN_STAGED : Key := ⟨124, 0⟩
/-- `TUN_LOAD_BYTES` (R280), BAR0 offset 0x340130. -/
def TUN_LOAD_BYTES : Key := ⟨125, 0⟩
/-- `TUN_ATTN_STATUS` (R301), BAR0 offset 0x348000. -/
def TUN_ATTN_STATUS : Key := ⟨126, 0⟩
def TUN_ATTN_STATUS_SPREAD_MISS : Fld := ⟨TUN_ATTN_STATUS, 5, 5⟩
def TUN_ATTN_STATUS_NOT_RESIDENT : Fld := ⟨TUN_ATTN_STATUS, 4, 4⟩
def TUN_ATTN_STATUS_MISSING : Fld := ⟨TUN_ATTN_STATUS, 3, 3⟩
def TUN_ATTN_STATUS_PARITY : Fld := ⟨TUN_ATTN_STATUS, 2, 2⟩
def TUN_ATTN_STATUS_STATE : Fld := ⟨TUN_ATTN_STATUS, 1, 0⟩
/-- `TUN_ATTN_FAIL_INFO` (R301), BAR0 offset 0x348008. -/
def TUN_ATTN_FAIL_INFO : Key := ⟨127, 0⟩
def TUN_ATTN_FAIL_INFO_PARTITION : Fld := ⟨TUN_ATTN_FAIL_INFO, 28, 24⟩
def TUN_ATTN_FAIL_INFO_CAUSE : Fld := ⟨TUN_ATTN_FAIL_INFO, 23, 16⟩
def TUN_ATTN_FAIL_INFO_PAGE : Fld := ⟨TUN_ATTN_FAIL_INFO, 9, 0⟩
/-- `TUN_ATTN_JOB_COUNT` (R301), BAR0 offset 0x348010. -/
def TUN_ATTN_JOB_COUNT : Key := ⟨128, 0⟩
/-- `TUN_ATTN_TOKEN_COUNT` (R301), BAR0 offset 0x348018. -/
def TUN_ATTN_TOKEN_COUNT : Key := ⟨129, 0⟩
/-- `TUN_ATTN_SKIP_COUNT` (R301), BAR0 offset 0x348020. -/
def TUN_ATTN_SKIP_COUNT : Key := ⟨130, 0⟩
/-- `TUN_ATTN_NOT_RESIDENT_COUNT` (R301), BAR0 offset 0x348028. -/
def TUN_ATTN_NOT_RESIDENT_COUNT : Key := ⟨131, 0⟩
/-- `TUN_ATTN_SPREAD_MISS_COUNT` (R301), BAR0 offset 0x348030. -/
def TUN_ATTN_SPREAD_MISS_COUNT : Key := ⟨132, 0⟩
/-- `TUN_ATTN_PARITY_COUNT` (R301), BAR0 offset 0x348038. -/
def TUN_ATTN_PARITY_COUNT : Key := ⟨133, 0⟩
/-- `TUN_ATTN_HBM_BYTES` (R301), BAR0 offset 0x348040. -/
def TUN_ATTN_HBM_BYTES : Key := ⟨134, 0⟩
/-- `MEM_HBM_STATUS` (R326), BAR0 offset 0x400000. -/
def MEM_HBM_STATUS : Key := ⟨135, 0⟩
def MEM_HBM_STATUS_EVICT_FAIL : Fld := ⟨MEM_HBM_STATUS, 7, 7⟩
def MEM_HBM_STATUS_LOST_EXT : Fld := ⟨MEM_HBM_STATUS, 6, 6⟩
def MEM_HBM_STATUS_LOWER_TIMEOUT : Fld := ⟨MEM_HBM_STATUS, 5, 5⟩
def MEM_HBM_STATUS_UNCORR : Fld := ⟨MEM_HBM_STATUS, 4, 4⟩
def MEM_HBM_STATUS_IN_SERVICE : Fld := ⟨MEM_HBM_STATUS, 3, 0⟩
/-- `MEM_PART_HBM` (R326), BAR0 offset 0x401000 + 0x20 × n, n < 32. -/
def MEM_PART_HBM (n : Nat) : Key := ⟨136, n⟩
def MEM_PART_HBM_S3_COUNT (n : Nat) : Fld := ⟨MEM_PART_HBM n, 60, 54⟩
def MEM_PART_HBM_S3_FIRST (n : Nat) : Fld := ⟨MEM_PART_HBM n, 53, 48⟩
def MEM_PART_HBM_S2_COUNT (n : Nat) : Fld := ⟨MEM_PART_HBM n, 44, 38⟩
def MEM_PART_HBM_S2_FIRST (n : Nat) : Fld := ⟨MEM_PART_HBM n, 37, 32⟩
def MEM_PART_HBM_S1_COUNT (n : Nat) : Fld := ⟨MEM_PART_HBM n, 28, 22⟩
def MEM_PART_HBM_S1_FIRST (n : Nat) : Fld := ⟨MEM_PART_HBM n, 21, 16⟩
def MEM_PART_HBM_S0_COUNT (n : Nat) : Fld := ⟨MEM_PART_HBM n, 12, 6⟩
def MEM_PART_HBM_S0_FIRST (n : Nat) : Fld := ⟨MEM_PART_HBM n, 5, 0⟩
/-- `MEM_TIER_REGION` (R326), BAR0 offset 0x400008. -/
def MEM_TIER_REGION : Key := ⟨137, 0⟩
def MEM_TIER_REGION_S3_COUNT : Fld := ⟨MEM_TIER_REGION, 60, 54⟩
def MEM_TIER_REGION_S3_FIRST : Fld := ⟨MEM_TIER_REGION, 53, 48⟩
def MEM_TIER_REGION_S2_COUNT : Fld := ⟨MEM_TIER_REGION, 44, 38⟩
def MEM_TIER_REGION_S2_FIRST : Fld := ⟨MEM_TIER_REGION, 37, 32⟩
def MEM_TIER_REGION_S1_COUNT : Fld := ⟨MEM_TIER_REGION, 28, 22⟩
def MEM_TIER_REGION_S1_FIRST : Fld := ⟨MEM_TIER_REGION, 21, 16⟩
def MEM_TIER_REGION_S0_COUNT : Fld := ⟨MEM_TIER_REGION, 12, 6⟩
def MEM_TIER_REGION_S0_FIRST : Fld := ⟨MEM_TIER_REGION, 5, 0⟩
/-- `MEM_T3_POOL` (R326), BAR0 offset 0x400010. -/
def MEM_T3_POOL : Key := ⟨138, 0⟩
def MEM_T3_POOL_BASE : Fld := ⟨MEM_T3_POOL, 63, 21⟩
/-- `MEM_TIER_CONFIG` (R326), BAR0 offset 0x400020. -/
def MEM_TIER_CONFIG : Key := ⟨139, 0⟩
def MEM_TIER_CONFIG_LOWER_LIMIT : Fld := ⟨MEM_TIER_CONFIG, 31, 16⟩
def MEM_TIER_CONFIG_EVICT_EN : Fld := ⟨MEM_TIER_CONFIG, 0, 0⟩
/-- `MEM_PART_EXT` (R326), BAR0 offset 0x401008 + 0x20 × n, n < 32. -/
def MEM_PART_EXT (n : Nat) : Key := ⟨140, n⟩
def MEM_PART_EXT_COUNT (n : Nat) : Fld := ⟨MEM_PART_EXT n, 51, 32⟩
def MEM_PART_EXT_FIRST (n : Nat) : Fld := ⟨MEM_PART_EXT n, 18, 0⟩
/-- `MEM_PART_QUOTA` (R326), BAR0 offset 0x401010 + 0x20 × n, n < 32. -/
def MEM_PART_QUOTA (n : Nat) : Key := ⟨141, n⟩
def MEM_PART_QUOTA_T3 (n : Nat) : Fld := ⟨MEM_PART_QUOTA n, 55, 36⟩
def MEM_PART_QUOTA_T2 (n : Nat) : Fld := ⟨MEM_PART_QUOTA n, 35, 18⟩
def MEM_PART_QUOTA_T1 (n : Nat) : Fld := ⟨MEM_PART_QUOTA n, 17, 0⟩
/-- `MEM_PART_TUSE` (R326), BAR0 offset 0x401018 + 0x20 × n, n < 32. -/
def MEM_PART_TUSE (n : Nat) : Key := ⟨142, n⟩
def MEM_PART_TUSE_T3 (n : Nat) : Fld := ⟨MEM_PART_TUSE n, 55, 36⟩
def MEM_PART_TUSE_T2 (n : Nat) : Fld := ⟨MEM_PART_TUSE n, 35, 18⟩
def MEM_PART_TUSE_T1 (n : Nat) : Fld := ⟨MEM_PART_TUSE n, 17, 0⟩
/-- `MEM_LEND_IN` (R326), BAR0 offset 0x402000 + 0x10 × i, i < 8. -/
def MEM_LEND_IN (i : Nat) : Key := ⟨143, i⟩
def MEM_LEND_IN_STATE (i : Nat) : Fld := ⟨MEM_LEND_IN i, 63, 62⟩
def MEM_LEND_IN_LENDER_EP (i : Nat) : Fld := ⟨MEM_LEND_IN i, 47, 32⟩
def MEM_LEND_IN_PAGES (i : Nat) : Fld := ⟨MEM_LEND_IN i, 22, 16⟩
def MEM_LEND_IN_WIN (i : Nat) : Fld := ⟨MEM_LEND_IN i, 5, 0⟩
/-- `MEM_LEND_OUT` (R326), BAR0 offset 0x402100 + 0x10 × i, i < 8. -/
def MEM_LEND_OUT (i : Nat) : Key := ⟨144, i⟩
def MEM_LEND_OUT_STATE (i : Nat) : Fld := ⟨MEM_LEND_OUT i, 63, 62⟩
def MEM_LEND_OUT_BORROWER_EP (i : Nat) : Fld := ⟨MEM_LEND_OUT i, 47, 32⟩
def MEM_LEND_OUT_WIN (i : Nat) : Fld := ⟨MEM_LEND_OUT i, 29, 24⟩
def MEM_LEND_OUT_PAGES (i : Nat) : Fld := ⟨MEM_LEND_OUT i, 22, 16⟩
def MEM_LEND_OUT_STACK (i : Nat) : Fld := ⟨MEM_LEND_OUT i, 13, 12⟩
def MEM_LEND_OUT_FIRST (i : Nat) : Fld := ⟨MEM_LEND_OUT i, 5, 0⟩
/-- `MEM_T3_FRAMES` (R326), BAR0 offset 0x400018. -/
def MEM_T3_FRAMES : Key := ⟨145, 0⟩
/-- `MEM_HBM_UNCORR_COUNT` (R326), BAR0 offset 0x400100. -/
def MEM_HBM_UNCORR_COUNT : Key := ⟨146, 0⟩
/-- `MEM_MOVE_COUNT` (R326), BAR0 offset 0x400108. -/
def MEM_MOVE_COUNT : Key := ⟨147, 0⟩
/-- `MEM_EVICT_COUNT` (R326), BAR0 offset 0x400110. -/
def MEM_EVICT_COUNT : Key := ⟨148, 0⟩
/-- `MEM_LOWER_TIMEOUT_COUNT` (R326), BAR0 offset 0x400118. -/
def MEM_LOWER_TIMEOUT_COUNT : Key := ⟨149, 0⟩
/-- `MEM_QUOTA_EXCEEDED_COUNT` (R326), BAR0 offset 0x400120. -/
def MEM_QUOTA_EXCEEDED_COUNT : Key := ⟨150, 0⟩
/-- `MEM_T1_FREE` (R326), BAR0 offset 0x400128. -/
def MEM_T1_FREE : Key := ⟨151, 0⟩
/-- `MEM_T2_FREE` (R326), BAR0 offset 0x400130. -/
def MEM_T2_FREE : Key := ⟨152, 0⟩
/-- `MEM_T3_FREE` (R326), BAR0 offset 0x400138. -/
def MEM_T3_FREE : Key := ⟨153, 0⟩
/-- `MEM_LEND_IN_USE` (R326), BAR0 offset 0x402008 + 0x10 × i, i < 8. -/
def MEM_LEND_IN_USE (i : Nat) : Key := ⟨154, i⟩
/-- `SEQ_STATUS` (R345), BAR0 offset 0x380000. -/
def SEQ_STATUS : Key := ⟨155, 0⟩
def SEQ_STATUS_FAULT : Fld := ⟨SEQ_STATUS, 0, 0⟩
/-- `SEQ_FAULT_INFO` (R345), BAR0 offset 0x380008. -/
def SEQ_FAULT_INFO : Key := ⟨156, 0⟩
def SEQ_FAULT_INFO_PC : Fld := ⟨SEQ_FAULT_INFO, 49, 32⟩
def SEQ_FAULT_INFO_THREAD : Fld := ⟨SEQ_FAULT_INFO, 26, 22⟩
def SEQ_FAULT_INFO_CORE : Fld := ⟨SEQ_FAULT_INFO, 21, 12⟩
def SEQ_FAULT_INFO_CAUSE : Fld := ⟨SEQ_FAULT_INFO, 7, 0⟩
/-- `SEQ_PART_CORES` (R345), BAR0 offset 0x381000 + 0x10 × n, n < 32. -/
def SEQ_PART_CORES (n : Nat) : Key := ⟨157, n⟩
def SEQ_PART_CORES_SCHED_EN (n : Nat) : Fld := ⟨SEQ_PART_CORES n, 32, 32⟩
def SEQ_PART_CORES_COUNT (n : Nat) : Fld := ⟨SEQ_PART_CORES n, 26, 16⟩
def SEQ_PART_CORES_FIRST (n : Nat) : Fld := ⟨SEQ_PART_CORES n, 9, 0⟩
/-- `SEQ_CORE_STATE` (R345), BAR0 offset 0x382000 + 0x8 × c, c < 1024. -/
def SEQ_CORE_STATE (c : Nat) : Key := ⟨158, c⟩
def SEQ_CORE_STATE_STATE (c : Nat) : Fld := ⟨SEQ_CORE_STATE c, 63, 62⟩
def SEQ_CORE_STATE_PARTITION (c : Nat) : Fld := ⟨SEQ_CORE_STATE c, 36, 32⟩
def SEQ_CORE_STATE_RUN_MASK (c : Nat) : Fld := ⟨SEQ_CORE_STATE c, 31, 0⟩
/-- `SEQ_FAULT_COUNT` (R345), BAR0 offset 0x380010. -/
def SEQ_FAULT_COUNT : Key := ⟨159, 0⟩
/-- `SEQ_LOAD_COUNT` (R345), BAR0 offset 0x380018. -/
def SEQ_LOAD_COUNT : Key := ⟨160, 0⟩
/-- `SEQ_WAIT_TIMEOUT_COUNT` (R345), BAR0 offset 0x380020. -/
def SEQ_WAIT_TIMEOUT_COUNT : Key := ⟨161, 0⟩
/-- `SEQ_POST_FAIL_COUNT` (R345), BAR0 offset 0x380028. -/
def SEQ_POST_FAIL_COUNT : Key := ⟨162, 0⟩
/-- `PORT_CFG` (R379), BAR0 offset 0x80000 + 0x400 × p, p < 96. -/
def PORT_CFG (p : Nat) : Key := ⟨163, p⟩
def PORT_CFG_PART_MASK (p : Nat) : Fld := ⟨PORT_CFG p, 63, 32⟩
def PORT_CFG_VER_CAP (p : Nat) : Fld := ⟨PORT_CFG p, 5, 4⟩
def PORT_CFG_MODE (p : Nat) : Fld := ⟨PORT_CFG p, 1, 1⟩
def PORT_CFG_ENABLE (p : Nat) : Fld := ⟨PORT_CFG p, 0, 0⟩
/-- `PORT_STATUS` (R379), BAR0 offset 0x80008 + 0x400 × p, p < 96. -/
def PORT_STATUS (p : Nat) : Key := ⟨164, p⟩
def PORT_STATUS_PEER_ID (p : Nat) : Fld := ⟨PORT_STATUS p, 63, 48⟩
def PORT_STATUS_LANES (p : Nat) : Fld := ⟨PORT_STATUS p, 47, 40⟩
def PORT_STATUS_STATE (p : Nat) : Fld := ⟨PORT_STATUS p, 39, 37⟩
def PORT_STATUS_VERSION (p : Nat) : Fld := ⟨PORT_STATUS p, 36, 35⟩
def PORT_STATUS_SPEED (p : Nat) : Fld := ⟨PORT_STATUS p, 34, 33⟩
def PORT_STATUS_REDUCED (p : Nat) : Fld := ⟨PORT_STATUS p, 32, 32⟩
def PORT_STATUS_DROP_CAUSE (p : Nat) : Fld := ⟨PORT_STATUS p, 15, 8⟩
def PORT_STATUS_STOMP (p : Nat) : Fld := ⟨PORT_STATUS p, 4, 4⟩
def PORT_STATUS_MISMATCH (p : Nat) : Fld := ⟨PORT_STATUS p, 3, 3⟩
def PORT_STATUS_REPLAY_EXH (p : Nat) : Fld := ⟨PORT_STATUS p, 2, 2⟩
def PORT_STATUS_HB_LOSS (p : Nat) : Fld := ⟨PORT_STATUS p, 1, 1⟩
def PORT_STATUS_LOS (p : Nat) : Fld := ⟨PORT_STATUS p, 0, 0⟩
/-- `PORT_LSU` (R379), BAR0 offset 0x98000. -/
def PORT_LSU : Key := ⟨165, 0⟩
def PORT_LSU_READY : Fld := ⟨PORT_LSU, 7, 4⟩
def PORT_LSU_PRESENT : Fld := ⟨PORT_LSU, 3, 0⟩
/-- `PORT_FEC_CORR_COUNT` (R379), BAR0 offset 0x80020 + 0x400 × p, p < 96. -/
def PORT_FEC_CORR_COUNT (p : Nat) : Key := ⟨166, p⟩
/-- `PORT_FEC_UNCORR_COUNT` (R379), BAR0 offset 0x80028 + 0x400 × p, p < 96. -/
def PORT_FEC_UNCORR_COUNT (p : Nat) : Key := ⟨167, p⟩
/-- `PORT_REPLAY_COUNT` (R379), BAR0 offset 0x80030 + 0x400 × p, p < 96. -/
def PORT_REPLAY_COUNT (p : Nat) : Key := ⟨168, p⟩
/-- `PORT_DROP_COUNT` (R379), BAR0 offset 0x80038 + 0x400 × p, p < 96. -/
def PORT_DROP_COUNT (p : Nat) : Key := ⟨169, p⟩
/-- `PORT_LOST_PKT_COUNT` (R379), BAR0 offset 0x80040 + 0x400 × p, p < 96. -/
def PORT_LOST_PKT_COUNT (p : Nat) : Key := ⟨170, p⟩
/-- `PORT_STOMP_COUNT` (R379), BAR0 offset 0x80048 + 0x400 × p, p < 96. -/
def PORT_STOMP_COUNT (p : Nat) : Key := ⟨171, p⟩
/-- `PORT_TRAIN_COUNT` (R379), BAR0 offset 0x80050 + 0x400 × p, p < 96. -/
def PORT_TRAIN_COUNT (p : Nat) : Key := ⟨172, p⟩
/-- `PORT_ATTACH_DISCARD_COUNT` (R379), BAR0 offset 0x80058 + 0x400 × p, p < 96. -/
def PORT_ATTACH_DISCARD_COUNT (p : Nat) : Key := ⟨173, p⟩
/-- `PORT_TAPS` (R379), BAR0 offset 0x80100 + 0x400 × p + 0x8 × l. -/
def PORT_TAPS (p l : Nat) : Key := ⟨174, p * 8 + l⟩
/-- `MB_STATUS` (R412), mailbox offset 0x8. -/
def MB_STATUS (m : Nat) : Key := ⟨175, m⟩
def MB_STATUS_MB_ID (m : Nat) : Fld := ⟨MB_STATUS m, 39, 32⟩
def MB_STATUS_VER_MAJOR (m : Nat) : Fld := ⟨MB_STATUS m, 23, 16⟩
def MB_STATUS_VER_MINOR (m : Nat) : Fld := ⟨MB_STATUS m, 15, 8⟩
def MB_STATUS_OVERRUN (m : Nat) : Fld := ⟨MB_STATUS m, 2, 2⟩
def MB_STATUS_DONE (m : Nat) : Fld := ⟨MB_STATUS m, 1, 1⟩
def MB_STATUS_BUSY (m : Nat) : Fld := ⟨MB_STATUS m, 0, 0⟩
/-- `RING_BASE` (R412), ring offset 0x0. -/
def RING_BASE (n r : Nat) : Key := ⟨176, n * 16 + r⟩
def RING_BASE_ADDR (n r : Nat) : Fld := ⟨RING_BASE n r, 63, 12⟩
def RING_BASE_LOC (n r : Nat) : Fld := ⟨RING_BASE n r, 1, 1⟩
def RING_BASE_EN (n r : Nat) : Fld := ⟨RING_BASE n r, 0, 0⟩
/-- `RING_CQ_BASE` (R412), ring offset 0x10. -/
def RING_CQ_BASE (n r : Nat) : Key := ⟨177, n * 16 + r⟩
def RING_CQ_BASE_ADDR (n r : Nat) : Fld := ⟨RING_CQ_BASE n r, 63, 12⟩
def RING_CQ_BASE_LOC (n r : Nat) : Fld := ⟨RING_CQ_BASE n r, 1, 1⟩
/-- `RING_CFG` (R412), ring offset 0x8. -/
def RING_CFG (n r : Nat) : Key := ⟨178, n * 16 + r⟩
def RING_CFG_VEC (n r : Nat) : Fld := ⟨RING_CFG n r, 25, 16⟩
def RING_CFG_DVER (n r : Nat) : Fld := ⟨RING_CFG n r, 11, 8⟩
def RING_CFG_SIZE (n r : Nat) : Fld := ⟨RING_CFG n r, 4, 0⟩
/-- `RING_STATUS` (R412), ring offset 0x38. -/
def RING_STATUS (n r : Nat) : Key := ⟨179, n * 16 + r⟩
def RING_STATUS_OUTSTANDING (n r : Nat) : Fld := ⟨RING_STATUS n r, 48, 32⟩
def RING_STATUS_CONS_ERR (n r : Nat) : Fld := ⟨RING_STATUS n r, 4, 4⟩
def RING_STATUS_FETCH_ERR (n r : Nat) : Fld := ⟨RING_STATUS n r, 3, 3⟩
def RING_STATUS_CQ_ERR (n r : Nat) : Fld := ⟨RING_STATUS n r, 2, 2⟩
def RING_STATUS_PROD_ERR (n r : Nat) : Fld := ⟨RING_STATUS n r, 1, 1⟩
def RING_STATUS_CQ_FULL (n r : Nat) : Fld := ⟨RING_STATUS n r, 0, 0⟩
/-- `GLOBAL_CXL_STATUS` (R412), BAR0 offset 0x100. -/
def GLOBAL_CXL_STATUS : Key := ⟨180, 0⟩
def GLOBAL_CXL_STATUS_HDM_ERR : Fld := ⟨GLOBAL_CXL_STATUS, 33, 33⟩
def GLOBAL_CXL_STATUS_HDM_DENIED : Fld := ⟨GLOBAL_CXL_STATUS, 32, 32⟩
def GLOBAL_CXL_STATUS_HDM_COMMITTED : Fld := ⟨GLOBAL_CXL_STATUS, 17, 17⟩
def GLOBAL_CXL_STATUS_LINK_UP : Fld := ⟨GLOBAL_CXL_STATUS, 16, 16⟩
def GLOBAL_CXL_STATUS_RATE : Fld := ⟨GLOBAL_CXL_STATUS, 9, 8⟩
def GLOBAL_CXL_STATUS_LANES : Fld := ⟨GLOBAL_CXL_STATUS, 4, 0⟩
/-- `MB_CTRL` (R412), mailbox offset 0x0. -/
def MB_CTRL (m : Nat) : Key := ⟨181, m⟩
def MB_CTRL_GO (m : Nat) : Fld := ⟨MB_CTRL m, 0, 0⟩
/-- `MB_DONE_COUNT` (R412), mailbox offset 0x10. -/
def MB_DONE_COUNT (m : Nat) : Key := ⟨182, m⟩
/-- `MB_VECTOR` (R412), mailbox offset 0x18. -/
def MB_VECTOR (m : Nat) : Key := ⟨183, m⟩
def MB_VECTOR_VEC (m : Nat) : Fld := ⟨MB_VECTOR m, 9, 0⟩
def MB_VECTOR_VALID (m : Nat) : Fld := ⟨MB_VECTOR m, 16, 16⟩
/-- `RING_PROD` (R412), ring offset 0x18. -/
def RING_PROD (n r : Nat) : Key := ⟨184, n * 16 + r⟩
def RING_PROD_IDX (n r : Nat) : Fld := ⟨RING_PROD n r, 31, 0⟩
/-- `RING_CONS` (R412), ring offset 0x20. -/
def RING_CONS (n r : Nat) : Key := ⟨185, n * 16 + r⟩
def RING_CONS_IDX (n r : Nat) : Fld := ⟨RING_CONS n r, 31, 0⟩
/-- `RING_CQ_PROD` (R412), ring offset 0x28. -/
def RING_CQ_PROD (n r : Nat) : Key := ⟨186, n * 16 + r⟩
def RING_CQ_PROD_IDX (n r : Nat) : Fld := ⟨RING_CQ_PROD n r, 31, 0⟩
/-- `RING_CQ_CONS` (R412), ring offset 0x30. -/
def RING_CQ_CONS (n r : Nat) : Key := ⟨187, n * 16 + r⟩
def RING_CQ_CONS_IDX (n r : Nat) : Fld := ⟨RING_CQ_CONS n r, 31, 0⟩
/-- `GLOBAL_MB_VERSION` (R412), BAR0 offset 0x108. -/
def GLOBAL_MB_VERSION : Key := ⟨188, 0⟩
def GLOBAL_MB_VERSION_MINOR : Fld := ⟨GLOBAL_MB_VERSION, 7, 0⟩
def GLOBAL_MB_VERSION_MAJOR : Fld := ⟨GLOBAL_MB_VERSION, 15, 8⟩
def GLOBAL_MB_VERSION_DVERS : Fld := ⟨GLOBAL_MB_VERSION, 23, 16⟩
/-- `GLOBAL_HDM_DENIED_COUNT` (R412), BAR0 offset 0x110. -/
def GLOBAL_HDM_DENIED_COUNT : Key := ⟨189, 0⟩
/-- `GLOBAL_HDM_ERR_COUNT` (R412), BAR0 offset 0x118. -/
def GLOBAL_HDM_ERR_COUNT : Key := ⟨190, 0⟩
/-- `GLOBAL_CXL_DOWN_COUNT` (R412), BAR0 offset 0x120. -/
def GLOBAL_CXL_DOWN_COUNT : Key := ⟨191, 0⟩
/-- `PART_STATUS` (R444), BAR0 offset 0x480000. -/
def PART_STATUS : Key := ⟨192, 0⟩
def PART_STATUS_WRITING : Fld := ⟨PART_STATUS, 5, 5⟩
def PART_STATUS_RECOVERED : Fld := ⟨PART_STATUS, 4, 4⟩
def PART_STATUS_STAGED : Fld := ⟨PART_STATUS, 3, 3⟩
def PART_STATUS_FW_INVALID : Fld := ⟨PART_STATUS, 2, 2⟩
def PART_STATUS_SVC_RESTART : Fld := ⟨PART_STATUS, 1, 1⟩
def PART_STATUS_SEAL_FAIL : Fld := ⟨PART_STATUS, 0, 0⟩
/-- `PART_FW` (R444), BAR0 offset 0x480008. -/
def PART_FW : Key := ⟨193, 0⟩
def PART_FW_SERVICE_VER : Fld := ⟨PART_FW, 63, 32⟩
def PART_FW_KERNEL_VER : Fld := ⟨PART_FW, 31, 0⟩
/-- `PART_SVN` (R444), BAR0 offset 0x480010. -/
def PART_SVN : Key := ⟨194, 0⟩
def PART_SVN_KEY_SLOT : Fld := ⟨PART_SVN, 47, 44⟩
def PART_SVN_REVOKED : Fld := ⟨PART_SVN, 43, 40⟩
def PART_SVN_FUSED_SVN : Fld := ⟨PART_SVN, 39, 32⟩
def PART_SVN_IMAGE_SVN : Fld := ⟨PART_SVN, 31, 0⟩
/-- `PART_STATE` (R444), BAR0 offset 0x481000 + 0x10 × n, n < 32. -/
def PART_STATE (n : Nat) : Key := ⟨195, n⟩
def PART_STATE_CREATED_BEAT (n : Nat) : Fld := ⟨PART_STATE n, 63, 24⟩
def PART_STATE_HBM_SCRUB (n : Nat) : Fld := ⟨PART_STATE n, 3, 3⟩
def PART_STATE_POLICY (n : Nat) : Fld := ⟨PART_STATE n, 2, 2⟩
def PART_STATE_STATE (n : Nat) : Fld := ⟨PART_STATE n, 1, 0⟩
/-- `PART_SPARGE_INFO` (R444), BAR0 offset 0x481008 + 0x10 × n, n < 32. -/
def PART_SPARGE_INFO (n : Nat) : Key := ⟨196, n⟩
def PART_SPARGE_INFO_COUNT (n : Nat) : Fld := ⟨PART_SPARGE_INFO n, 47, 32⟩
def PART_SPARGE_INFO_DURATION (n : Nat) : Fld := ⟨PART_SPARGE_INFO n, 31, 0⟩
/-- `PART_SEAL_FAIL_COUNT` (R444), BAR0 offset 0x480018. -/
def PART_SEAL_FAIL_COUNT : Key := ⟨197, 0⟩
/-- `PART_SVC_RESTART_COUNT` (R444), BAR0 offset 0x480020. -/
def PART_SVC_RESTART_COUNT : Key := ⟨198, 0⟩
/-- `PGOV_CONFIG` (R473), BAR0 offset 0x50000. -/
def PGOV_CONFIG : Key := ⟨199, 0⟩
def PGOV_CONFIG_ARB_WAIT : Fld := ⟨PGOV_CONFIG, 63, 48⟩
def PGOV_CONFIG_ARB_LEAD : Fld := ⟨PGOV_CONFIG, 47, 40⟩
def PGOV_CONFIG_BALLAST_BAND : Fld := ⟨PGOV_CONFIG, 39, 32⟩
def PGOV_CONFIG_ALERT_THROTTLE : Fld := ⟨PGOV_CONFIG, 20, 16⟩
def PGOV_CONFIG_RAMP_STEP : Fld := ⟨PGOV_CONFIG, 15, 0⟩
/-- `PGOV_STATUS` (R473), BAR0 offset 0x50008. -/
def PGOV_STATUS : Key := ⟨200, 0⟩
def PGOV_STATUS_THROTTLE : Fld := ⟨PGOV_STATUS, 20, 16⟩
def PGOV_STATUS_ARB_ACTING : Fld := ⟨PGOV_STATUS, 7, 7⟩
def PGOV_STATUS_GRANT_ACTIVE : Fld := ⟨PGOV_STATUS, 6, 6⟩
def PGOV_STATUS_ALERT : Fld := ⟨PGOV_STATUS, 5, 5⟩
def PGOV_STATUS_CAP_LAG : Fld := ⟨PGOV_STATUS, 4, 4⟩
def PGOV_STATUS_ALERT_SEEN : Fld := ⟨PGOV_STATUS, 3, 3⟩
def PGOV_STATUS_FLOOR_MISS : Fld := ⟨PGOV_STATUS, 2, 2⟩
def PGOV_STATUS_ARB_TIMEOUT : Fld := ⟨PGOV_STATUS, 1, 1⟩
def PGOV_STATUS_CAP_LAG_SEEN : Fld := ⟨PGOV_STATUS, 0, 0⟩
/-- `PGOV_POWER` (R473), BAR0 offset 0x50010. -/
def PGOV_POWER : Key := ⟨201, 0⟩
def PGOV_POWER_ENVELOPE : Fld := ⟨PGOV_POWER, 63, 32⟩
def PGOV_POWER_MEASURED : Fld := ⟨PGOV_POWER, 31, 0⟩
/-- `PGOV_CAP` (R473), BAR0 offset 0x50018. -/
def PGOV_CAP : Key := ⟨202, 0⟩
def PGOV_CAP_CAP : Fld := ⟨PGOV_CAP, 15, 0⟩
/-- `PGOV_SLOPE_UP` (R473), BAR0 offset 0x50020. -/
def PGOV_SLOPE_UP : Key := ⟨203, 0⟩
/-- `PGOV_SLOPE_DOWN` (R473), BAR0 offset 0x50028. -/
def PGOV_SLOPE_DOWN : Key := ⟨204, 0⟩
/-- `PGOV_CAP_SLEW` (R473), BAR0 offset 0x50030. -/
def PGOV_CAP_SLEW : Key := ⟨205, 0⟩
/-- `PGOV_SOLO_SLOPE` (R473), BAR0 offset 0x50038. -/
def PGOV_SOLO_SLOPE : Key := ⟨206, 0⟩
/-- `PGOV_RACK_SLOPE_UP` (R473), BAR0 offset 0x50040. -/
def PGOV_RACK_SLOPE_UP : Key := ⟨207, 0⟩
/-- `PGOV_GRANT_MAX_LEN` (R473), BAR0 offset 0x50048. -/
def PGOV_GRANT_MAX_LEN : Key := ⟨208, 0⟩
/-- `PGOV_ARB_LIST` (R473), BAR0 offset 0x50050. -/
def PGOV_ARB_LIST : Key := ⟨209, 0⟩
/-- `PGOV_GRANT` (R473), BAR0 offset 0x50058. -/
def PGOV_GRANT : Key := ⟨210, 0⟩
def PGOV_GRANT_SLOPE : Fld := ⟨PGOV_GRANT, 31, 0⟩
/-- `PGOV_GRANT_END` (R473), BAR0 offset 0x50060. -/
def PGOV_GRANT_END : Key := ⟨211, 0⟩
/-- `PGOV_BALLAST_W` (R473), BAR0 offset 0x50068. -/
def PGOV_BALLAST_W : Key := ⟨212, 0⟩
/-- `PGOV_ALERT_COUNT` (R473), BAR0 offset 0x50100. -/
def PGOV_ALERT_COUNT : Key := ⟨213, 0⟩
/-- `PGOV_CAP_LAG_COUNT` (R473), BAR0 offset 0x50108. -/
def PGOV_CAP_LAG_COUNT : Key := ⟨214, 0⟩
/-- `PGOV_FLOOR_MISS_COUNT` (R473), BAR0 offset 0x50110. -/
def PGOV_FLOOR_MISS_COUNT : Key := ⟨215, 0⟩
/-- `PGOV_ARB_TIMEOUT_COUNT` (R473), BAR0 offset 0x50118. -/
def PGOV_ARB_TIMEOUT_COUNT : Key := ⟨216, 0⟩
/-- `PGOV_GRANT_COUNT` (R473), BAR0 offset 0x50120. -/
def PGOV_GRANT_COUNT : Key := ⟨217, 0⟩
/-- `PGOV_ARB_GRANTS_OUT` (R473), BAR0 offset 0x50128. -/
def PGOV_ARB_GRANTS_OUT : Key := ⟨218, 0⟩
/-- `HEALTH_CONFIG` (R474), BAR0 offset 0x60000. -/
def HEALTH_CONFIG : Key := ⟨219, 0⟩
def HEALTH_CONFIG_NOTIFY_EN : Fld := ⟨HEALTH_CONFIG, 44, 44⟩
def HEALTH_CONFIG_NOTIFY_GROUP : Fld := ⟨HEALTH_CONFIG, 43, 32⟩
def HEALTH_CONFIG_EXPEL_BUDGET : Fld := ⟨HEALTH_CONFIG, 31, 24⟩
def HEALTH_CONFIG_DEAD_HOLD : Fld := ⟨HEALTH_CONFIG, 23, 16⟩
def HEALTH_CONFIG_FENCE_AT : Fld := ⟨HEALTH_CONFIG, 15, 8⟩
def HEALTH_CONFIG_ISOLATE_AT : Fld := ⟨HEALTH_CONFIG, 7, 0⟩
/-- `HEALTH_STATUS` (R474), BAR0 offset 0x60008. -/
def HEALTH_STATUS : Key := ⟨220, 0⟩
def HEALTH_STATUS_NOTICE_FAIL : Fld := ⟨HEALTH_STATUS, 4, 4⟩
def HEALTH_STATUS_ALARM : Fld := ⟨HEALTH_STATUS, 3, 3⟩
def HEALTH_STATUS_FENCED_SEEN : Fld := ⟨HEALTH_STATUS, 2, 2⟩
def HEALTH_STATUS_LOST_SEEN : Fld := ⟨HEALTH_STATUS, 1, 1⟩
def HEALTH_STATUS_ISOLATED_SEEN : Fld := ⟨HEALTH_STATUS, 0, 0⟩
/-- `HEALTH_PEER_A` (R474), BAR0 offset 0x62000 + 0x20 × i, i < 96. -/
def HEALTH_PEER_A (i : Nat) : Key := ⟨221, i⟩
def HEALTH_PEER_A_PEER_EP (i : Nat) : Fld := ⟨HEALTH_PEER_A i, 63, 48⟩
def HEALTH_PEER_A_GRAVITY (i : Nat) : Fld := ⟨HEALTH_PEER_A i, 47, 32⟩
def HEALTH_PEER_A_SUSPECT (i : Nat) : Fld := ⟨HEALTH_PEER_A i, 16, 16⟩
def HEALTH_PEER_A_STATE (i : Nat) : Fld := ⟨HEALTH_PEER_A i, 2, 0⟩
/-- `HEALTH_PEER_B` (R474), BAR0 offset 0x62008 + 0x20 × i, i < 96. -/
def HEALTH_PEER_B (i : Nat) : Key := ⟨222, i⟩
/-- `HEALTH_PEER_C` (R474), BAR0 offset 0x62010 + 0x20 × i, i < 96. -/
def HEALTH_PEER_C (i : Nat) : Key := ⟨223, i⟩
def HEALTH_PEER_C_EPOCH (i : Nat) : Fld := ⟨HEALTH_PEER_C i, 63, 32⟩
def HEALTH_PEER_C_OWNED_HOST (i : Nat) : Fld := ⟨HEALTH_PEER_C i, 15, 0⟩
/-- `HEALTH_FENCE_EPOCH` (R474), BAR0 offset 0x60010. -/
def HEALTH_FENCE_EPOCH : Key := ⟨224, 0⟩
def HEALTH_FENCE_EPOCH_EPOCH : Fld := ⟨HEALTH_FENCE_EPOCH, 31, 0⟩
/-- `HEALTH_EXPEL_USED` (R474), BAR0 offset 0x60018. -/
def HEALTH_EXPEL_USED : Key := ⟨225, 0⟩
/-- `HEALTH_SELF_GRAVITY` (R474), BAR0 offset 0x60020. -/
def HEALTH_SELF_GRAVITY : Key := ⟨226, 0⟩
/-- `HEALTH_EVENT_COUNT` (R474), BAR0 offset 0x60100. -/
def HEALTH_EVENT_COUNT : Key := ⟨227, 0⟩
/-- `HEALTH_EXPEL_COUNT` (R474), BAR0 offset 0x60108. -/
def HEALTH_EXPEL_COUNT : Key := ⟨228, 0⟩
/-- `HEALTH_SUSPECT_COUNT` (R474), BAR0 offset 0x60110. -/
def HEALTH_SUSPECT_COUNT : Key := ⟨229, 0⟩
/-- `HEALTH_FENCE_DROP_COUNT` (R474), BAR0 offset 0x60118. -/
def HEALTH_FENCE_DROP_COUNT : Key := ⟨230, 0⟩
/-- `HEALTH_NOTICE_COUNT` (R474), BAR0 offset 0x60120. -/
def HEALTH_NOTICE_COUNT : Key := ⟨231, 0⟩
/-- `HEALTH_PORT_GRAVITY` (R474), BAR0 offset 0x61000 + 0x8 × p, p < 96. -/
def HEALTH_PORT_GRAVITY (p : Nat) : Key := ⟨232, p⟩
def HEALTH_PORT_GRAVITY_GRAVITY (p : Nat) : Fld := ⟨HEALTH_PORT_GRAVITY p, 15, 0⟩
def HEALTH_PORT_GRAVITY_SUSPECT (p : Nat) : Fld := ⟨HEALTH_PORT_GRAVITY p, 16, 16⟩
/-- `HEALTH_FENCED` (R474), BAR0 offset 0x70000 + 0x8 × w, w < 1024. -/
def HEALTH_FENCED (w : Nat) : Key := ⟨233, w⟩
/-- `CASK_STATUS` (R496), BAR0 offset 0x4C0000. -/
def CASK_STATUS : Key := ⟨234, 0⟩
def CASK_STATUS_LAST_EVENT : Fld := ⟨CASK_STATUS, 39, 24⟩
def CASK_STATUS_CERT_VALID : Fld := ⟨CASK_STATUS, 9, 9⟩
def CASK_STATUS_READOUT_VALID : Fld := ⟨CASK_STATUS, 8, 8⟩
def CASK_STATUS_LINK_UP : Fld := ⟨CASK_STATUS, 7, 7⟩
def CASK_STATUS_FLAGS : Fld := ⟨CASK_STATUS, 5, 0⟩
/-- `CASK_INSTANT` (R496), BAR0 offset 0x4C0020. -/
def CASK_INSTANT : Key := ⟨235, 0⟩
def CASK_INSTANT_CURR : Fld := ⟨CASK_INSTANT, 63, 32⟩
def CASK_INSTANT_VOLT : Fld := ⟨CASK_INSTANT, 31, 0⟩
/-- `CASK_IDENT` (R496), BAR0 offset 0x4C0038. -/
def CASK_IDENT : Key := ⟨236, 0⟩
def CASK_IDENT_FW_VER : Fld := ⟨CASK_IDENT, 47, 32⟩
def CASK_IDENT_FW_ID : Fld := ⟨CASK_IDENT, 31, 0⟩
/-- `CASK_LOG_W0` (R496), BAR0 offset 0x4C2000 + 0x10 × i, i < 64. -/
def CASK_LOG_W0 (i : Nat) : Key := ⟨237, i⟩
/-- `CASK_LOG_W1` (R496), BAR0 offset 0x4C2008 + 0x10 × i, i < 64. -/
def CASK_LOG_W1 (i : Nat) : Key := ⟨238, i⟩
def CASK_LOG_W1_EVENTS (i : Nat) : Fld := ⟨CASK_LOG_W1 i, 47, 16⟩
def CASK_LOG_W1_CODE (i : Nat) : Fld := ⟨CASK_LOG_W1 i, 15, 0⟩
/-- `CASK_FRAME_SEQ` (R496), BAR0 offset 0x4C0008. -/
def CASK_FRAME_SEQ : Key := ⟨239, 0⟩
/-- `CASK_ENERGY_IN` (R496), BAR0 offset 0x4C0010. -/
def CASK_ENERGY_IN : Key := ⟨240, 0⟩
/-- `CASK_ENERGY_OUT` (R496), BAR0 offset 0x4C0018. -/
def CASK_ENERGY_OUT : Key := ⟨241, 0⟩
/-- `CASK_POWER` (R496), BAR0 offset 0x4C0028. -/
def CASK_POWER : Key := ⟨242, 0⟩
def CASK_POWER_POWER : Fld := ⟨CASK_POWER, 31, 0⟩
/-- `CASK_EVENTS` (R496), BAR0 offset 0x4C0030. -/
def CASK_EVENTS : Key := ⟨243, 0⟩
def CASK_EVENTS_EVENTS : Fld := ⟨CASK_EVENTS, 31, 0⟩
/-- `CASK_SERIAL` (R496), BAR0 offset 0x4C0040. -/
def CASK_SERIAL : Key := ⟨244, 0⟩
/-- `CASK_SECONDS` (R496), BAR0 offset 0x4C0048. -/
def CASK_SECONDS : Key := ⟨245, 0⟩
/-- `CASK_READOUT_BEAT` (R496), BAR0 offset 0x4C0050. -/
def CASK_READOUT_BEAT : Key := ⟨246, 0⟩
/-- `CASK_LINK_ERR_COUNT` (R496), BAR0 offset 0x4C0058. -/
def CASK_LINK_ERR_COUNT : Key := ⟨247, 0⟩
/-- `CASK_READOUT` (R496), BAR0 offset 0x4C1000 + 0x8 × w, w < 24. -/
def CASK_READOUT (w : Nat) : Key := ⟨248, w⟩
/-- `GLOBAL_RESET_CAUSE` (R524), BAR0 offset 0x20. -/
def GLOBAL_RESET_CAUSE : Key := ⟨249, 0⟩
def GLOBAL_RESET_CAUSE_SYS_COUNT : Fld := ⟨GLOBAL_RESET_CAUSE, 47, 32⟩
def GLOBAL_RESET_CAUSE_CORE_COUNT : Fld := ⟨GLOBAL_RESET_CAUSE, 31, 16⟩
def GLOBAL_RESET_CAUSE_LAST : Fld := ⟨GLOBAL_RESET_CAUSE, 7, 6⟩
def GLOBAL_RESET_CAUSE_FULL_BOOT : Fld := ⟨GLOBAL_RESET_CAUSE, 4, 4⟩
def GLOBAL_RESET_CAUSE_CORE_SEEN : Fld := ⟨GLOBAL_RESET_CAUSE, 2, 2⟩
def GLOBAL_RESET_CAUSE_SYS_SEEN : Fld := ⟨GLOBAL_RESET_CAUSE, 1, 1⟩
def GLOBAL_RESET_CAUSE_POR_SEEN : Fld := ⟨GLOBAL_RESET_CAUSE, 0, 0⟩
/-- `GLOBAL_STRAPS` (R524), BAR0 offset 0x30. -/
def GLOBAL_STRAPS : Key := ⟨250, 0⟩
def GLOBAL_STRAPS_CLK_PORT : Fld := ⟨GLOBAL_STRAPS, 14, 8⟩
def GLOBAL_STRAPS_CLK_ACTIVE : Fld := ⟨GLOBAL_STRAPS, 5, 4⟩
def GLOBAL_STRAPS_CLK_MODE : Fld := ⟨GLOBAL_STRAPS, 3, 2⟩
def GLOBAL_STRAPS_BOOT_SRC : Fld := ⟨GLOBAL_STRAPS, 1, 0⟩
/-- `GLOBAL_BOOT_STATUS` (R524), BAR0 offset 0x38. -/
def GLOBAL_BOOT_STATUS : Key := ⟨251, 0⟩
def GLOBAL_BOOT_STATUS_HALT_CAUSE : Fld := ⟨GLOBAL_BOOT_STATUS, 63, 48⟩
def GLOBAL_BOOT_STATUS_SOURCE : Fld := ⟨GLOBAL_BOOT_STATUS, 33, 32⟩
def GLOBAL_BOOT_STATUS_PHASE : Fld := ⟨GLOBAL_BOOT_STATUS, 7, 4⟩
def GLOBAL_BOOT_STATUS_WAIT_CXL : Fld := ⟨GLOBAL_BOOT_STATUS, 3, 3⟩
def GLOBAL_BOOT_STATUS_RELEASED : Fld := ⟨GLOBAL_BOOT_STATUS, 2, 2⟩
def GLOBAL_BOOT_STATUS_HALTED : Fld := ⟨GLOBAL_BOOT_STATUS, 1, 1⟩
def GLOBAL_BOOT_STATUS_DONE : Fld := ⟨GLOBAL_BOOT_STATUS, 0, 0⟩
/-- `GLOBAL_CORE_RESET_BEAT` (R524), BAR0 offset 0x28. -/
def GLOBAL_CORE_RESET_BEAT : Key := ⟨252, 0⟩
/-- `GLOBAL_BOOT_HOST_ADDR` (R524), BAR0 offset 0x40. -/
def GLOBAL_BOOT_HOST_ADDR : Key := ⟨253, 0⟩
def GLOBAL_BOOT_HOST_ADDR_ADDR : Fld := ⟨GLOBAL_BOOT_HOST_ADDR, 63, 12⟩
/-- `GLOBAL_BOOT_HOST_LEN` (R524), BAR0 offset 0x48. -/
def GLOBAL_BOOT_HOST_LEN : Key := ⟨254, 0⟩
def GLOBAL_BOOT_HOST_LEN_LEN : Fld := ⟨GLOBAL_BOOT_HOST_LEN, 31, 0⟩
def GLOBAL_BOOT_HOST_LEN_GO : Fld := ⟨GLOBAL_BOOT_HOST_LEN, 63, 63⟩
/-- `CAL_STATUS` (R525), BAR0 offset 0x500000. -/
def CAL_STATUS : Key := ⟨255, 0⟩
def CAL_STATUS_FACTORY : Fld := ⟨CAL_STATUS, 6, 4⟩
def CAL_STATUS_WRITE_FAIL : Fld := ⟨CAL_STATUS, 3, 3⟩
def CAL_STATUS_WRITING : Fld := ⟨CAL_STATUS, 2, 2⟩
def CAL_STATUS_DEFAULTS : Fld := ⟨CAL_STATUS, 1, 1⟩
def CAL_STATUS_VALID : Fld := ⟨CAL_STATUS, 0, 0⟩
/-- `DBG_IKIO` (R525), BAR0 offset 0x600000. -/
def DBG_IKIO : Key := ⟨256, 0⟩
def DBG_IKIO_BAUD : Fld := ⟨DBG_IKIO, 2, 0⟩
/-- `CAL_WRITE_COUNT` (R525), BAR0 offset 0x500008. -/
def CAL_WRITE_COUNT : Key := ⟨257, 0⟩
/-- `DBG_IKIO_CMD_COUNT` (R525), BAR0 offset 0x600008. -/
def DBG_IKIO_CMD_COUNT : Key := ⟨258, 0⟩
/-- `DBG_IKIO_DENIED_COUNT` (R525), BAR0 offset 0x600010. -/
def DBG_IKIO_DENIED_COUNT : Key := ⟨259, 0⟩
/-- `GLOBAL_PART` (R544), BAR0 offset 0x0. -/
def GLOBAL_PART : Key := ⟨260, 0⟩
def GLOBAL_PART_PART : Fld := ⟨GLOBAL_PART, 15, 0⟩
/-- `GLOBAL_VERSION` (R544), BAR0 offset 0x18. -/
def GLOBAL_VERSION : Key := ⟨261, 0⟩
def GLOBAL_VERSION_ROM_VER : Fld := ⟨GLOBAL_VERSION, 23, 16⟩
def GLOBAL_VERSION_BOARD_ISSUE : Fld := ⟨GLOBAL_VERSION, 15, 8⟩
def GLOBAL_VERSION_STEPPING : Fld := ⟨GLOBAL_VERSION, 7, 0⟩
/-- `GLOBAL_THERMAL` (R544), BAR0 offset 0x50. -/
def GLOBAL_THERMAL : Key := ⟨262, 0⟩
def GLOBAL_THERMAL_TRIP_SEEN : Fld := ⟨GLOBAL_THERMAL, 33, 33⟩
def GLOBAL_THERMAL_HOT : Fld := ⟨GLOBAL_THERMAL, 32, 32⟩
def GLOBAL_THERMAL_INLET : Fld := ⟨GLOBAL_THERMAL, 31, 16⟩
def GLOBAL_THERMAL_JUNCTION_MAX : Fld := ⟨GLOBAL_THERMAL, 15, 0⟩
/-- `GLOBAL_SERIAL` (R544), BAR0 offset 0x8. -/
def GLOBAL_SERIAL : Key := ⟨263, 0⟩
/-- `GLOBAL_HOT_COUNT` (R544), BAR0 offset 0x58. -/
def GLOBAL_HOT_COUNT : Key := ⟨264, 0⟩
/-- `PORT_PEER_CAP` (R379), BAR0 offset 0x80010 + 0x400 × p, p < 96. -/
def PORT_PEER_CAP (p : Nat) : Key := ⟨265, p⟩
/-- `MB_CMD` (R388), mailbox offset 0x100 + 8 × w. -/
def MB_CMD (m w : Nat) : Key := ⟨266, m * 224 + w⟩
/-- `MB_RSP` (R388), mailbox offset 0x800 + 8 × w. -/
def MB_RSP (m w : Nat) : Key := ⟨267, m * 128 + w⟩

/-- Reset values and masks of registers 0 to 19, from the POR, SYS, CORE and Access columns of their tables. -/
def regInfo0 : List RegInfo := [
  ⟨0x4fffff, 0x4fffff, 0xffffffffffffffff, 0xffffffffffffffff, 0, 0⟩ /- GLOBAL_OPTIONS -/,
  ⟨0x80c1, 0x80c1, 0, 0xffffffffffffffff, 0, 0⟩ /- TIME_CONFIG -/,
  ⟨0, 0, 0, 0xffffffffffffffff, 0, 0⟩ /- TIME_PENDING -/,
  ⟨0xffff007f0000ff00, 0xffff007f0000ff00, 0, 0xffffffffffffffff, 0x18, 0⟩ /- TIME_STATUS -/,
  ⟨0, 0, 0, 0xffffffffffffffff, 0, 0⟩ /- TIME_OFFSET -/,
  ⟨0, 0, 0, 0xffffffffffffffff, 0, 0⟩ /- TIME_BEAT_NOW -/,
  ⟨0, 0, 0, 0xffffffffffffffff, 0, 0⟩ /- TIME_PENDING_AT -/,
  ⟨0, 0, 0, 0xffffffffffffffff, 0, 0⟩ /- TIME_SLIP_COUNT -/,
  ⟨0, 0, 0, 0xffffffffffffffff, 0, 0⟩ /- TIME_SLIP_MAX -/,
  ⟨0, 0, 0, 0xffffffffffffffff, 0, 0⟩ /- TIME_OVERRUN_COUNT -/,
  ⟨0, 0, 0, 0xffffffffffffffff, 0, 0⟩ /- TIME_DEFER_COUNT -/,
  ⟨0, 0, 0, 0xffffffffffffffff, 0, 0⟩ /- TIME_BARRIER_WAIT -/,
  ⟨0, 0, 0, 0xffffffffffffffff, 0, 0⟩ /- TIME_GUARD -/,
  ⟨0x3200, 0x3200, 0, 0xffffffffffffffff, 0, 0⟩ /- TIME_FIBRE_ALLOW -/,
  ⟨0x40, 0x40, 0, 0xffffffffffffffff, 0, 0⟩ /- TIME_DEFER_LIMIT -/,
  ⟨0x100, 0x100, 0, 0xffffffffffffffff, 0, 0⟩ /- TIME_BARRIER_LIMIT -/,
  ⟨0, 0, 0, 0xffffffffffffffff, 0, 0⟩ /- TIME_ALARM_COUNT -/,
  ⟨0, 0, 0, 0xffffffffffffffff, 0, 0⟩ /- TIME_COST -/,
  ⟨0, 0, 0, 0xffffffffffffffff, 0, 0⟩ /- TIME_LINK_DELAY -/,
  ⟨0xffffffff, 0xffffffff, 0, 0xffffffffffffffff, 0, 0⟩ /- XLAT_EP_SELF -/]
/-- Reset values and masks of registers 20 to 39, from the POR, SYS, CORE and Access columns of their tables. -/
def regInfo1 : List RegInfo := [
  ⟨0xffffffffffffffff, 0xffffffffffffffff, 0, 0xffffffffffffffff, 0, 0⟩ /- XLAT_EP_ACCEL -/,
  ⟨0x2000640000, 0x2000640000, 0, 0xffffffffffffffff, 0, 0⟩ /- XLAT_ATS_CONFIG -/,
  ⟨0, 0, 0, 0xffffffffffffffff, 0, 0⟩ /- XLAT_FQ_BASE -/,
  ⟨0, 0, 0, 0, 0x3, 0⟩ /- XLAT_FQ_STATUS -/,
  ⟨0, 0x80000000, 0, 0xffffffffffffffff, 0, 0⟩ /- XLAT_PART_PAGES -/,
  ⟨0, 0, 0, 0, 0, 0⟩ /- XLAT_ATC_HIT_COUNT -/,
  ⟨0, 0, 0, 0, 0, 0⟩ /- XLAT_ATC_MISS_COUNT -/,
  ⟨0, 0, 0, 0, 0, 0⟩ /- XLAT_GRANULE_COUNT -/,
  ⟨0, 0, 0, 0, 0, 0⟩ /- XLAT_ATS_TIMEOUT_COUNT -/,
  ⟨0, 0, 0, 0, 0, 0⟩ /- XLAT_INVAL_COUNT -/,
  ⟨0, 0, 0, 0, 0, 0⟩ /- XLAT_FQ_PROD -/,
  ⟨0, 0, 0, 0, 0, 0⟩ /- XLAT_FQ_CONS -/,
  ⟨0, 0, 0, 0, 0, 0⟩ /- XLAT_FQ_OVERFLOW_COUNT -/,
  ⟨0, 0, 0, 0, 0, 0⟩ /- XLAT_FQ_FAULT_COUNT -/,
  ⟨0x10000400400, 0x10000400400, 0, 0xffffffffffffffff, 0, 0⟩ /- TRACK_CONFIG -/,
  ⟨0, 0x100000, 0, 0xffffffff, 0, 0⟩ /- TRACK_PART_SHARE -/,
  ⟨0, 0, 0, 0, 0, 0⟩ /- TRACK_TIMEOUT_COUNT -/,
  ⟨0, 0, 0, 0, 0, 0⟩ /- TRACK_LOST_COUNT -/,
  ⟨0, 0, 0, 0, 0, 0⟩ /- TRACK_LATE_REPLY_COUNT -/,
  ⟨0, 0, 0, 0, 0, 0⟩ /- TRACK_STALL_COUNT -/]
/-- Reset values and masks of registers 40 to 59, from the POR, SYS, CORE and Access columns of their tables. -/
def regInfo2 : List RegInfo := [
  ⟨0, 0, 0, 0, 0, 0⟩ /- TRACK_PARITY_REPLAY_COUNT -/,
  ⟨0, 0, 0, 0, 0, 0⟩ /- TRACK_PARITY_EXHAUSTED_COUNT -/,
  ⟨0, 0, 0, 0, 0, 0⟩ /- TRACK_HDR_DISCARD_COUNT -/,
  ⟨0, 0, 0, 0, 0, 0⟩ /- TRACK_LINE_WAIT_MAX -/,
  ⟨0, 0, 0, 0, 0, 0⟩ /- TRACK_LINE_QUEUES_IN_USE -/,
  ⟨0, 0, 0, 0, 0, 0⟩ /- TRACK_GRANTS_OPEN -/,
  ⟨0, 0, 0, 0, 0, 0⟩ /- TRACK_GRANT_IDLE_COUNT -/,
  ⟨0x80000, 0x80000, 0, 0xffffffffffffffff, 0, 0⟩ /- MEM_DIR_CONFIG -/,
  ⟨0, 0, 0, 0, 0x3, 0⟩ /- MEM_DIR_STATUS -/,
  ⟨0, 0, 0, 0, 0, 0⟩ /- MEM_DIR_IN_USE -/,
  ⟨0, 0, 0, 0, 0, 0⟩ /- MEM_DIR_RECALL_COUNT -/,
  ⟨0, 0, 0, 0, 0, 0⟩ /- MEM_DIR_EVICT_COUNT -/,
  ⟨0, 0, 0, 0, 0, 0⟩ /- MEM_DIR_RECALL_TIMEOUT_COUNT -/,
  ⟨0, 0, 0, 0, 0, 0⟩ /- MEM_DIR_LATE_WB_COUNT -/,
  ⟨0, 0x2000000000000, 0, 0xffffffffffffffff, 0, 0⟩ /- TRACK_LC_SHARE -/,
  ⟨0x40300004000000, 0x40300004000000, 0xffffc0000000, 0xffffffffffffffff, 0, 0⟩ /- XBAR_CONFIG -/,
  ⟨0, 0, 0, 0xffffffffffffffff, 0x2, 0⟩ /- XBAR_STATUS -/,
  ⟨0x1c, 0x1c, 0, 0xffffffffffffffff, 0, 0⟩ /- XBAR_PORT_CFG -/,
  ⟨0, 0, 0, 0xffffffffffffffff, 0, 0⟩ /- XBAR_EPOCH -/,
  ⟨0, 0, 0, 0xffffffffffffffff, 0, 0⟩ /- XBAR_EPOCH_AT -/]
/-- Reset values and masks of registers 60 to 79, from the POR, SYS, CORE and Access columns of their tables. -/
def regInfo3 : List RegInfo := [
  ⟨0, 0, 0, 0xffffffffffffffff, 0, 0⟩ /- XBAR_ORPHAN_REPLIES -/,
  ⟨0, 0, 0, 0xffffffffffffffff, 0, 0⟩ /- XBAR_NO_ROUTE_COUNT -/,
  ⟨0, 0, 0, 0xffffffffffffffff, 0, 0xffffffffffffffff⟩ /- XBAR_RT_WIN_SEL -/,
  ⟨0, 0, 0, 0xffffffffffffffff, 0, 0⟩ /- XBAR_OLD_HELD -/,
  ⟨0, 0, 0, 0xffffffffffffffff, 0, 0⟩ /- XBAR_CELLS_IN_USE -/,
  ⟨0, 0, 0, 0xffffffffffffffff, 0, 0⟩ /- XBAR_BAD_REPLY_COUNT -/,
  ⟨0, 0, 0, 0xffffffffffffffff, 0, 0⟩ /- XBAR_PORT_CT_COUNT -/,
  ⟨0, 0, 0, 0xffffffffffffffff, 0, 0⟩ /- XBAR_PORT_SF_COUNT -/,
  ⟨0, 0, 0, 0xffffffffffffffff, 0, 0⟩ /- XBAR_PORT_COMB_COUNT -/,
  ⟨0, 0, 0, 0xffffffffffffffff, 0, 0⟩ /- XBAR_PORT_CREDIT_WAIT -/,
  ⟨0, 0, 0, 0xffffffffffffffff, 0, 0⟩ /- XBAR_PORT_COMB_IN_USE -/,
  ⟨0, 0, 0, 0xffffffffffffffff, 0, 0⟩ /- XBAR_LOST -/,
  ⟨0, 0, 0, 0xffffffffffffffff, 0, 0⟩ /- XBAR_GROUP -/,
  ⟨0, 0, 0, 0xffffffffffffffff, 0, 0⟩ /- XBAR_ROUTE -/,
  ⟨0, 0, 0, 0xffffffffffffffff, 0xff, 0⟩ /- POOL_STATUS -/,
  ⟨0, 0, 0, 0xffffffffffffffff, 0, 0⟩ /- POOL_ERR_INFO -/,
  ⟨0, 0x2080100100020000, 0, 0xffffffffffffffff, 0, 0⟩ /- POOL_PART_LIMIT -/,
  ⟨0, 0, 0, 0xffffffffffffffff, 0, 0⟩ /- POOL_PART_USE -/,
  ⟨0, 0, 0, 0xffffffffffffffff, 0, 0⟩ /- POOL_AUDIT_BEAT -/,
  ⟨0, 0, 0, 0xffffffffffffffff, 0, 0⟩ /- POOL_LEAK_COUNT -/]
/-- Reset values and masks of registers 80 to 99, from the POR, SYS, CORE and Access columns of their tables. -/
def regInfo4 : List RegInfo := [
  ⟨0, 0, 0, 0xffffffffffffffff, 0, 0⟩ /- POOL_DUP_COUNT -/,
  ⟨0, 0, 0, 0xffffffffffffffff, 0, 0⟩ /- POOL_RANGE_ERR_COUNT -/,
  ⟨0, 0, 0, 0xffffffffffffffff, 0, 0⟩ /- POOL_FREE -/,
  ⟨0, 0, 0, 0xffffffffffffffff, 0, 0⟩ /- POOL_WARN -/,
  ⟨0, 0, 0, 0xffffffffffffffff, 0, 0⟩ /- POOL_EMPTY_COUNT -/,
  ⟨0, 0, 0, 0xffffffffffffffff, 0, 0⟩ /- POOL_WARN_COUNT -/,
  ⟨0, 0, 0, 0xffffffffffffffff, 0, 0⟩ /- POOL_DOUBLE_FREE_COUNT -/,
  ⟨0, 0, 0, 0xffffffffffffffff, 0, 0⟩ /- POOL_LOW_MARK -/,
  ⟨0x400000, 0x400000, 0, 0xffffffffffffffff, 0, 0⟩ /- RDX_CONFIG -/,
  ⟨0, 0, 0, 0, 0xf, 0⟩ /- RDX_STATUS -/,
  ⟨0, 0, 0, 0xffffffffffffffff, 0, 0⟩ /- RDX_GROUP_A -/,
  ⟨0, 0, 0, 0xffffe000ffffffff, 0, 0⟩ /- RDX_GROUP_B -/,
  ⟨0, 0, 0, 0, 0, 0⟩ /- RDX_CHUNK_COUNT -/,
  ⟨0, 0, 0, 0, 0, 0⟩ /- RDX_TIMEOUT_COUNT -/,
  ⟨0, 0, 0, 0, 0, 0⟩ /- RDX_REJECT_COUNT -/,
  ⟨0, 0, 0, 0, 0, 0⟩ /- RDX_PARITY_COUNT -/,
  ⟨0, 0, 0, 0, 0, 0⟩ /- RDX_SAT_COUNT -/,
  ⟨0x1000, 0x1000, 0, 0, 0, 0⟩ /- RDX_SLOTS_FREE -/,
  ⟨0, 0, 0, 0, 0, 0⟩ /- RDX_PARK_COUNT -/,
  ⟨0x800, 0x800, 0, 0xffffffffffffffff, 0, 0⟩ /- RDX_COLL_A -/]
/-- Reset values and masks of registers 100 to 119, from the POR, SYS, CORE and Access columns of their tables. -/
def regInfo5 : List RegInfo := [
  ⟨0xffff000000000000, 0xffff000000000000, 0, 0xffffffffffffffff, 0, 0⟩ /- RDX_COLL_B -/,
  ⟨0, 0, 0, 0xffffffffffffffff, 0, 0⟩ /- RDX_COLL_C -/,
  ⟨0, 0, 0, 0, 0, 0⟩ /- RDX_COLL_SLOW -/,
  ⟨0, 0, 0, 0xffffffffffffffff, 0, 0⟩ /- RDX_COLL_SUSPEND -/,
  ⟨0, 0x100000000100, 0, 0xffffffffffffffff, 0, 0⟩ /- RDX_COLL_PART_LIMIT -/,
  ⟨0, 0, 0, 0xffffffffffffffff, 0, 0⟩ /- RDX_COLL_PART_USE -/,
  ⟨0, 0, 0, 0, 0x1, 0⟩ /- RDX_COLL_STATUS -/,
  ⟨0, 0, 0, 0, 0, 0⟩ /- RDX_COLL_SUSPEND_COUNT -/,
  ⟨0x4, 0x4, 0, 0xffffffffffffffff, 0, 0⟩ /- RDX_COLL_OTHER_WEIGHT -/,
  ⟨0, 0, 0, 0, 0, 0⟩ /- RDX_COLL_SPREAD_MAX -/,
  ⟨0, 0, 0, 0, 0, 0⟩ /- RDX_COLL_WATCH_COUNT -/,
  ⟨0xffffffffffffffff, 0xffffffffffffffff, 0, 0xffffffffffffffff, 0, 0⟩ /- RDX_COLL_MEMBER -/,
  ⟨0, 0, 0, 0x4, 0x30, 0⟩ /- TUN_STATUS -/,
  ⟨0xfffffffffffffff, 0xfffffffffffffff, 0, 0xffffffffffffffff, 0, 0⟩ /- TUN_REPAIR_A -/,
  ⟨0xfffff, 0xfffff, 0, 0xffffffffffffffff, 0, 0⟩ /- TUN_REPAIR_B -/,
  ⟨0, 0xc0000000000, 0, 0xffffffffffffffff, 0, 0⟩ /- TUN_PART_SHARE -/,
  ⟨0, 0, 0, 0xffffffffffffffff, 0, 0⟩ /- TUN_BIND -/,
  ⟨0, 0, 0, 0, 0, 0⟩ /- TUN_SLICE_A -/,
  ⟨0, 0, 0, 0, 0, 0⟩ /- TUN_SLICE_B -/,
  ⟨0, 0, 0, 0, 0, 0⟩ /- TUN_JOB_COUNT -/]
/-- Reset values and masks of registers 120 to 139, from the POR, SYS, CORE and Access columns of their tables. -/
def regInfo6 : List RegInfo := [
  ⟨0, 0, 0, 0, 0, 0⟩ /- TUN_BUSY_CYCLES -/,
  ⟨0, 0, 0, 0, 0, 0⟩ /- TUN_BALLAST_CYCLES -/,
  ⟨0, 0, 0, 0, 0, 0⟩ /- TUN_PARITY_COUNT -/,
  ⟨0, 0, 0, 0, 0, 0⟩ /- TUN_STAGE_DROP_COUNT -/,
  ⟨0, 0, 0, 0, 0, 0⟩ /- TUN_STAGED -/,
  ⟨0, 0, 0, 0, 0, 0⟩ /- TUN_LOAD_BYTES -/,
  ⟨0, 0, 0, 0, 0x3c, 0⟩ /- TUN_ATTN_STATUS -/,
  ⟨0, 0, 0, 0, 0, 0⟩ /- TUN_ATTN_FAIL_INFO -/,
  ⟨0, 0, 0, 0, 0, 0⟩ /- TUN_ATTN_JOB_COUNT -/,
  ⟨0, 0, 0, 0, 0, 0⟩ /- TUN_ATTN_TOKEN_COUNT -/,
  ⟨0, 0, 0, 0, 0, 0⟩ /- TUN_ATTN_SKIP_COUNT -/,
  ⟨0, 0, 0, 0, 0, 0⟩ /- TUN_ATTN_NOT_RESIDENT_COUNT -/,
  ⟨0, 0, 0, 0, 0, 0⟩ /- TUN_ATTN_SPREAD_MISS_COUNT -/,
  ⟨0, 0, 0, 0, 0, 0⟩ /- TUN_ATTN_PARITY_COUNT -/,
  ⟨0, 0, 0, 0, 0, 0⟩ /- TUN_ATTN_HBM_BYTES -/,
  ⟨0, 0, 0, 0xffffffffffffff0f, 0xf0, 0⟩ /- MEM_HBM_STATUS -/,
  ⟨0, 0, 0, 0xffffffffffffffff, 0, 0⟩ /- MEM_PART_HBM -/,
  ⟨0, 0, 0, 0xffffffffffffffff, 0, 0⟩ /- MEM_TIER_REGION -/,
  ⟨0, 0, 0, 0xffffffffffffffff, 0, 0⟩ /- MEM_T3_POOL -/,
  ⟨0xc80001, 0xc80001, 0, 0xffffffffffffffff, 0, 0⟩ /- MEM_TIER_CONFIG -/]
/-- Reset values and masks of registers 140 to 159, from the POR, SYS, CORE and Access columns of their tables. -/
def regInfo7 : List RegInfo := [
  ⟨0, 0, 0, 0xffffffffffffffff, 0, 0⟩ /- MEM_PART_EXT -/,
  ⟨0, 0, 0, 0xffffffffffffffff, 0, 0⟩ /- MEM_PART_QUOTA -/,
  ⟨0, 0, 0, 0xffffffffffffffff, 0, 0⟩ /- MEM_PART_TUSE -/,
  ⟨0, 0, 0, 0xffffffffffffffff, 0, 0⟩ /- MEM_LEND_IN -/,
  ⟨0, 0, 0, 0xffffffffffffffff, 0, 0⟩ /- MEM_LEND_OUT -/,
  ⟨0, 0, 0, 0xffffffffffffffff, 0, 0⟩ /- MEM_T3_FRAMES -/,
  ⟨0, 0, 0, 0, 0, 0⟩ /- MEM_HBM_UNCORR_COUNT -/,
  ⟨0, 0, 0, 0, 0, 0⟩ /- MEM_MOVE_COUNT -/,
  ⟨0, 0, 0, 0, 0, 0⟩ /- MEM_EVICT_COUNT -/,
  ⟨0, 0, 0, 0, 0, 0⟩ /- MEM_LOWER_TIMEOUT_COUNT -/,
  ⟨0, 0, 0, 0, 0, 0⟩ /- MEM_QUOTA_EXCEEDED_COUNT -/,
  ⟨0, 0, 0, 0xffffffffffffffff, 0, 0⟩ /- MEM_T1_FREE -/,
  ⟨0, 0, 0, 0xffffffffffffffff, 0, 0⟩ /- MEM_T2_FREE -/,
  ⟨0, 0, 0, 0xffffffffffffffff, 0, 0⟩ /- MEM_T3_FREE -/,
  ⟨0, 0, 0, 0xffffffffffffffff, 0, 0⟩ /- MEM_LEND_IN_USE -/,
  ⟨0, 0, 0, 0, 0x1, 0⟩ /- SEQ_STATUS -/,
  ⟨0, 0, 0, 0, 0, 0⟩ /- SEQ_FAULT_INFO -/,
  ⟨0, 0x4000000, 0, 0xffffffffffffffff, 0, 0⟩ /- SEQ_PART_CORES -/,
  ⟨0, 0, 0, 0x1f00000000, 0, 0⟩ /- SEQ_CORE_STATE -/,
  ⟨0, 0, 0, 0, 0, 0⟩ /- SEQ_FAULT_COUNT -/]
/-- Reset values and masks of registers 160 to 179, from the POR, SYS, CORE and Access columns of their tables. -/
def regInfo8 : List RegInfo := [
  ⟨0, 0, 0, 0, 0, 0⟩ /- SEQ_LOAD_COUNT -/,
  ⟨0, 0, 0, 0, 0, 0⟩ /- SEQ_WAIT_TIMEOUT_COUNT -/,
  ⟨0, 0, 0, 0, 0, 0⟩ /- SEQ_POST_FAIL_COUNT -/,
  ⟨0x32, 0x32, 0xffffffff00000033, 0xffffffffffffffff, 0, 0⟩ /- PORT_CFG -/,
  ⟨0xffff000000000000, 0xffff000000000000, 0, 0xffffffffffffffff, 0x1f, 0⟩ /- PORT_STATUS -/,
  ⟨0, 0, 0, 0xffffffffffffffff, 0, 0⟩ /- PORT_LSU -/,
  ⟨0, 0, 0, 0xffffffffffffffff, 0, 0⟩ /- PORT_FEC_CORR_COUNT -/,
  ⟨0, 0, 0, 0xffffffffffffffff, 0, 0⟩ /- PORT_FEC_UNCORR_COUNT -/,
  ⟨0, 0, 0, 0xffffffffffffffff, 0, 0⟩ /- PORT_REPLAY_COUNT -/,
  ⟨0, 0, 0, 0xffffffffffffffff, 0, 0⟩ /- PORT_DROP_COUNT -/,
  ⟨0, 0, 0, 0xffffffffffffffff, 0, 0⟩ /- PORT_LOST_PKT_COUNT -/,
  ⟨0, 0, 0, 0xffffffffffffffff, 0, 0⟩ /- PORT_STOMP_COUNT -/,
  ⟨0, 0, 0, 0xffffffffffffffff, 0, 0⟩ /- PORT_TRAIN_COUNT -/,
  ⟨0, 0, 0, 0xffffffffffffffff, 0, 0⟩ /- PORT_ATTACH_DISCARD_COUNT -/,
  ⟨0, 0, 0, 0xffffffffffffffff, 0, 0⟩ /- PORT_TAPS -/,
  ⟨0, 0, 0, 0xffffffffffffffff, 0x6, 0⟩ /- MB_STATUS -/,
  ⟨0, 0, 0, 0xffffffffffffffff, 0, 0⟩ /- RING_BASE -/,
  ⟨0, 0, 0, 0xfffffffffffffffe, 0, 0⟩ /- RING_CQ_BASE -/,
  ⟨0, 0, 0, 0xffffffffffffffff, 0, 0⟩ /- RING_CFG -/,
  ⟨0, 0, 0, 0xfffe0000fffffffe, 0x1e, 0⟩ /- RING_STATUS -/]
/-- Reset values and masks of registers 180 to 199, from the POR, SYS, CORE and Access columns of their tables. -/
def regInfo9 : List RegInfo := [
  ⟨0, 0, 0, 0xffffffffffffffff, 0x300000000, 0⟩ /- GLOBAL_CXL_STATUS -/,
  ⟨0, 0, 0, 0xffffffffffffffff, 0, 0⟩ /- MB_CTRL -/,
  ⟨0, 0, 0, 0xffffffffffffffff, 0, 0⟩ /- MB_DONE_COUNT -/,
  ⟨0, 0, 0, 0xffffffffffffffff, 0, 0x103ff⟩ /- MB_VECTOR -/,
  ⟨0, 0, 0, 0xffffffffffffffff, 0, 0⟩ /- RING_PROD -/,
  ⟨0, 0, 0, 0xffffffffffffffff, 0, 0⟩ /- RING_CONS -/,
  ⟨0, 0, 0, 0xffffffffffffffff, 0, 0⟩ /- RING_CQ_PROD -/,
  ⟨0, 0, 0, 0xffffffffffffffff, 0, 0⟩ /- RING_CQ_CONS -/,
  ⟨0x10102, 0x10102, 0, 0xffffffffffffffff, 0, 0⟩ /- GLOBAL_MB_VERSION -/,
  ⟨0, 0, 0, 0xffffffffffffffff, 0, 0⟩ /- GLOBAL_HDM_DENIED_COUNT -/,
  ⟨0, 0, 0, 0xffffffffffffffff, 0, 0⟩ /- GLOBAL_HDM_ERR_COUNT -/,
  ⟨0, 0, 0, 0xffffffffffffffff, 0, 0⟩ /- GLOBAL_CXL_DOWN_COUNT -/,
  ⟨0, 0, 0, 0xffffffffffffffff, 0x3, 0⟩ /- PART_STATUS -/,
  ⟨0, 0, 0, 0xffffffffffffffff, 0, 0⟩ /- PART_FW -/,
  ⟨0, 0, 0, 0xffffffffffffffff, 0, 0⟩ /- PART_SVN -/,
  ⟨0, 0x1, 0, 0xffffffffffffffff, 0, 0⟩ /- PART_STATE -/,
  ⟨0, 0, 0, 0xffffffffffffffff, 0, 0⟩ /- PART_SPARGE_INFO -/,
  ⟨0, 0, 0, 0xffffffffffffffff, 0, 0⟩ /- PART_SEAL_FAIL_COUNT -/,
  ⟨0, 0, 0, 0xffffffffffffffff, 0, 0⟩ /- PART_SVC_RESTART_COUNT -/,
  ⟨0x40101400040190, 0x40101400040190, 0, 0xffffffffffffffff, 0, 0⟩ /- PGOV_CONFIG -/]
/-- Reset values and masks of registers 200 to 219, from the POR, SYS, CORE and Access columns of their tables. -/
def regInfo10 : List RegInfo := [
  ⟨0x100000, 0x100000, 0, 0xffffffffffffffff, 0xf, 0⟩ /- PGOV_STATUS -/,
  ⟨0, 0, 0, 0xffffffffffffffff, 0, 0⟩ /- PGOV_POWER -/,
  ⟨0x5dc, 0x5dc, 0, 0xffffffffffffffff, 0, 0⟩ /- PGOV_CAP -/,
  ⟨0x7d0, 0x7d0, 0, 0xffffffffffffffff, 0, 0⟩ /- PGOV_SLOPE_UP -/,
  ⟨0x1f4, 0x1f4, 0, 0xffffffffffffffff, 0, 0⟩ /- PGOV_SLOPE_DOWN -/,
  ⟨0x1388, 0x1388, 0, 0xffffffffffffffff, 0, 0⟩ /- PGOV_CAP_SLEW -/,
  ⟨0x1f4, 0x1f4, 0, 0xffffffffffffffff, 0, 0⟩ /- PGOV_SOLO_SLOPE -/,
  ⟨0x4e20, 0x4e20, 0, 0xffffffffffffffff, 0, 0⟩ /- PGOV_RACK_SLOPE_UP -/,
  ⟨0x40000, 0x40000, 0, 0xffffffffffffffff, 0, 0⟩ /- PGOV_GRANT_MAX_LEN -/,
  ⟨0xffffffffffffffff, 0xffffffffffffffff, 0, 0xffffffffffffffff, 0, 0⟩ /- PGOV_ARB_LIST -/,
  ⟨0, 0, 0, 0xffffffffffffffff, 0, 0⟩ /- PGOV_GRANT -/,
  ⟨0, 0, 0, 0xffffffffffffffff, 0, 0⟩ /- PGOV_GRANT_END -/,
  ⟨0, 0, 0, 0xffffffffffffffff, 0, 0⟩ /- PGOV_BALLAST_W -/,
  ⟨0, 0, 0, 0xffffffffffffffff, 0, 0⟩ /- PGOV_ALERT_COUNT -/,
  ⟨0, 0, 0, 0xffffffffffffffff, 0, 0⟩ /- PGOV_CAP_LAG_COUNT -/,
  ⟨0, 0, 0, 0xffffffffffffffff, 0, 0⟩ /- PGOV_FLOOR_MISS_COUNT -/,
  ⟨0, 0, 0, 0xffffffffffffffff, 0, 0⟩ /- PGOV_ARB_TIMEOUT_COUNT -/,
  ⟨0, 0, 0, 0xffffffffffffffff, 0, 0⟩ /- PGOV_GRANT_COUNT -/,
  ⟨0, 0, 0, 0xffffffffffffffff, 0, 0⟩ /- PGOV_ARB_GRANTS_OUT -/,
  ⟨0x4024018, 0x4024018, 0, 0xffffffffffffffff, 0, 0⟩ /- HEALTH_CONFIG -/]
/-- Reset values and masks of registers 220 to 239, from the POR, SYS, CORE and Access columns of their tables. -/
def regInfo11 : List RegInfo := [
  ⟨0, 0, 0, 0xffffffffffffffff, 0x1f, 0⟩ /- HEALTH_STATUS -/,
  ⟨0xffff000000000000, 0xffff000000000000, 0, 0xffffffffffffffff, 0, 0⟩ /- HEALTH_PEER_A -/,
  ⟨0xffffffffffffffff, 0xffffffffffffffff, 0, 0xffffffffffffffff, 0, 0⟩ /- HEALTH_PEER_B -/,
  ⟨0xffff, 0xffff, 0, 0xffffffffffffffff, 0, 0⟩ /- HEALTH_PEER_C -/,
  ⟨0, 0, 0, 0xffffffffffffffff, 0, 0⟩ /- HEALTH_FENCE_EPOCH -/,
  ⟨0, 0, 0, 0xffffffffffffffff, 0, 0⟩ /- HEALTH_EXPEL_USED -/,
  ⟨0, 0, 0, 0xffffffffffffffff, 0, 0⟩ /- HEALTH_SELF_GRAVITY -/,
  ⟨0, 0, 0, 0xffffffffffffffff, 0, 0⟩ /- HEALTH_EVENT_COUNT -/,
  ⟨0, 0, 0, 0xffffffffffffffff, 0, 0⟩ /- HEALTH_EXPEL_COUNT -/,
  ⟨0, 0, 0, 0xffffffffffffffff, 0, 0⟩ /- HEALTH_SUSPECT_COUNT -/,
  ⟨0, 0, 0, 0xffffffffffffffff, 0, 0⟩ /- HEALTH_FENCE_DROP_COUNT -/,
  ⟨0, 0, 0, 0xffffffffffffffff, 0, 0⟩ /- HEALTH_NOTICE_COUNT -/,
  ⟨0, 0, 0, 0xffffffffffffffff, 0, 0⟩ /- HEALTH_PORT_GRAVITY -/,
  ⟨0, 0, 0, 0xffffffffffffffff, 0, 0⟩ /- HEALTH_FENCED -/,
  ⟨0, 0, 0, 0xffffffffffffffff, 0, 0⟩ /- CASK_STATUS -/,
  ⟨0, 0, 0, 0xffffffffffffffff, 0, 0⟩ /- CASK_INSTANT -/,
  ⟨0, 0, 0, 0xffffffffffffffff, 0, 0⟩ /- CASK_IDENT -/,
  ⟨0, 0, 0, 0xffffffffffffffff, 0, 0⟩ /- CASK_LOG_W0 -/,
  ⟨0, 0, 0, 0xffffffffffffffff, 0, 0⟩ /- CASK_LOG_W1 -/,
  ⟨0, 0, 0, 0xffffffffffffffff, 0, 0⟩ /- CASK_FRAME_SEQ -/]
/-- Reset values and masks of registers 240 to 259, from the POR, SYS, CORE and Access columns of their tables. -/
def regInfo12 : List RegInfo := [
  ⟨0, 0, 0, 0xffffffffffffffff, 0, 0⟩ /- CASK_ENERGY_IN -/,
  ⟨0, 0, 0, 0xffffffffffffffff, 0, 0⟩ /- CASK_ENERGY_OUT -/,
  ⟨0, 0, 0, 0xffffffffffffffff, 0, 0⟩ /- CASK_POWER -/,
  ⟨0, 0, 0, 0xffffffffffffffff, 0, 0⟩ /- CASK_EVENTS -/,
  ⟨0, 0, 0, 0xffffffffffffffff, 0, 0⟩ /- CASK_SERIAL -/,
  ⟨0, 0, 0, 0xffffffffffffffff, 0, 0⟩ /- CASK_SECONDS -/,
  ⟨0, 0, 0, 0xffffffffffffffff, 0, 0⟩ /- CASK_READOUT_BEAT -/,
  ⟨0, 0, 0, 0xffffffffffffffff, 0, 0⟩ /- CASK_LINK_ERR_COUNT -/,
  ⟨0, 0, 0, 0xffffffffffffffff, 0, 0⟩ /- CASK_READOUT -/,
  ⟨0x1, 0x1, 0xffffffff0005, 0xffffffff0013, 0x7, 0⟩ /- GLOBAL_RESET_CAUSE -/,
  ⟨0x7f00, 0x7f00, 0xffffffffffff80cf, 0xffffffffffffffff, 0, 0⟩ /- GLOBAL_STRAPS -/,
  ⟨0, 0, 0x4, 0xffffffffffffffff, 0, 0⟩ /- GLOBAL_BOOT_STATUS -/,
  ⟨0, 0, 0xffffffffffffffff, 0xffffffffffffffff, 0, 0⟩ /- GLOBAL_CORE_RESET_BEAT -/,
  ⟨0, 0, 0, 0xffffffffffffffff, 0, 0⟩ /- GLOBAL_BOOT_HOST_ADDR -/,
  ⟨0, 0, 0, 0xffffffffffffffff, 0, 0⟩ /- GLOBAL_BOOT_HOST_LEN -/,
  ⟨0, 0, 0, 0xffffffffffffffff, 0x8, 0⟩ /- CAL_STATUS -/,
  ⟨0, 0, 0xffffffffffffffff, 0xffffffffffffffff, 0, 0⟩ /- DBG_IKIO -/,
  ⟨0, 0, 0, 0xffffffffffffffff, 0, 0⟩ /- CAL_WRITE_COUNT -/,
  ⟨0, 0, 0xffffffffffffffff, 0xffffffffffffffff, 0, 0⟩ /- DBG_IKIO_CMD_COUNT -/,
  ⟨0, 0, 0xffffffffffffffff, 0xffffffffffffffff, 0, 0⟩ /- DBG_IKIO_DENIED_COUNT -/]
/-- Reset values and masks of registers 260 to 267, from the POR, SYS, CORE and Access columns of their tables. -/
def regInfo13 : List RegInfo := [
  ⟨0x9604, 0x9604, 0xffffffffffffffff, 0xffffffffffffffff, 0, 0⟩ /- GLOBAL_PART -/,
  ⟨0, 0, 0xffffffffffffffff, 0xffffffffffffffff, 0, 0⟩ /- GLOBAL_VERSION -/,
  ⟨0, 0, 0x200000000, 0xffffffffffffffff, 0x200000000, 0⟩ /- GLOBAL_THERMAL -/,
  ⟨0, 0, 0xffffffffffffffff, 0xffffffffffffffff, 0, 0⟩ /- GLOBAL_SERIAL -/,
  ⟨0, 0, 0, 0xffffffffffffffff, 0, 0⟩ /- GLOBAL_HOT_COUNT -/,
  ⟨0, 0, 0, 0xffffffffffffffff, 0, 0⟩ /- PORT_PEER_CAP -/,
  ⟨0, 0, 0, 0xffffffffffffffff, 0, 0xffffffffffffffff⟩ /- MB_CMD -/,
  ⟨0, 0, 0, 0xffffffffffffffff, 0, 0⟩ /- MB_RSP -/]
/-- Every register's reset values and masks, in the order of the register numbers. -/
def regInfo : List RegInfo :=
  regInfo0 ++ regInfo1 ++ regInfo2 ++ regInfo3 ++ regInfo4 ++ regInfo5 ++ regInfo6 ++ regInfo7 ++ regInfo8 ++ regInfo9 ++ regInfo10 ++ regInfo11 ++ regInfo12 ++ regInfo13
def regAddr0 : List AddrRow := [
  ⟨0x10, 0x0, 1, 0x0, 1, 0, 0, 1⟩,
  ⟨0x40008, 0x0, 1, 0x0, 1, 1, 0, 1⟩,
  ⟨0x40010, 0x0, 1, 0x0, 1, 2, 0, 1⟩,
  ⟨0x40020, 0x0, 1, 0x0, 1, 3, 0, 1⟩,
  ⟨0x40028, 0x0, 1, 0x0, 1, 4, 0, 1⟩,
  ⟨0x40000, 0x0, 1, 0x0, 1, 5, 0, 1⟩,
  ⟨0x40018, 0x0, 1, 0x0, 1, 6, 0, 1⟩,
  ⟨0x40030, 0x0, 1, 0x0, 1, 7, 0, 1⟩,
  ⟨0x40038, 0x0, 1, 0x0, 1, 8, 0, 1⟩,
  ⟨0x40040, 0x0, 1, 0x0, 1, 9, 0, 1⟩,
  ⟨0x40048, 0x0, 1, 0x0, 1, 10, 0, 1⟩,
  ⟨0x40050, 0x0, 1, 0x0, 1, 11, 0, 1⟩,
  ⟨0x40058, 0x0, 1, 0x0, 1, 12, 0, 1⟩,
  ⟨0x40060, 0x0, 1, 0x0, 1, 13, 0, 1⟩,
  ⟨0x40068, 0x0, 1, 0x0, 1, 14, 0, 1⟩,
  ⟨0x40070, 0x0, 1, 0x0, 1, 15, 0, 1⟩,
  ⟨0x40078, 0x0, 1, 0x0, 1, 16, 0, 1⟩,
  ⟨0x40100, 0x8, 32, 0x0, 1, 17, 0, 1⟩,
  ⟨0x40800, 0x8, 96, 0x0, 1, 18, 0, 1⟩,
  ⟨0x280000, 0x0, 1, 0x0, 1, 19, 0, 1⟩,
  ⟨0x280008, 0x0, 1, 0x0, 1, 20, 0, 1⟩,
  ⟨0x280010, 0x0, 1, 0x0, 1, 21, 0, 1⟩,
  ⟨0x281000, 0x40, 32, 0x0, 1, 22, 0, 1⟩,
  ⟨0x281018, 0x40, 32, 0x0, 1, 23, 0, 1⟩,
  ⟨0x281030, 0x40, 32, 0x0, 1, 24, 0, 1⟩]
def regAddr1 : List AddrRow := [
  ⟨0x280020, 0x0, 1, 0x0, 1, 25, 0, 1⟩,
  ⟨0x280028, 0x0, 1, 0x0, 1, 26, 0, 1⟩,
  ⟨0x280030, 0x0, 1, 0x0, 1, 27, 0, 1⟩,
  ⟨0x280038, 0x0, 1, 0x0, 1, 28, 0, 1⟩,
  ⟨0x280040, 0x0, 1, 0x0, 1, 29, 0, 1⟩,
  ⟨0x281008, 0x40, 32, 0x0, 1, 30, 0, 1⟩,
  ⟨0x281010, 0x40, 32, 0x0, 1, 31, 0, 1⟩,
  ⟨0x281020, 0x40, 32, 0x0, 1, 32, 0, 1⟩,
  ⟨0x281028, 0x40, 32, 0x0, 1, 33, 0, 1⟩,
  ⟨0x240000, 0x0, 1, 0x0, 1, 34, 0, 1⟩,
  ⟨0x241000, 0x10, 32, 0x0, 1, 35, 0, 1⟩,
  ⟨0x240008, 0x0, 1, 0x0, 1, 36, 0, 1⟩,
  ⟨0x240010, 0x0, 1, 0x0, 1, 37, 0, 1⟩,
  ⟨0x240018, 0x0, 1, 0x0, 1, 38, 0, 1⟩,
  ⟨0x240020, 0x0, 1, 0x0, 1, 39, 0, 1⟩,
  ⟨0x240028, 0x0, 1, 0x0, 1, 40, 0, 1⟩,
  ⟨0x240030, 0x0, 1, 0x0, 1, 41, 0, 1⟩,
  ⟨0x240038, 0x0, 1, 0x0, 1, 42, 0, 1⟩,
  ⟨0x240040, 0x0, 1, 0x0, 1, 43, 0, 1⟩,
  ⟨0x240048, 0x0, 1, 0x0, 1, 44, 0, 1⟩,
  ⟨0x240050, 0x0, 1, 0x0, 1, 45, 0, 1⟩,
  ⟨0x240058, 0x0, 1, 0x0, 1, 46, 0, 1⟩,
  ⟨0x470000, 0x0, 1, 0x0, 1, 47, 0, 1⟩,
  ⟨0x470008, 0x0, 1, 0x0, 1, 48, 0, 1⟩,
  ⟨0x470010, 0x0, 1, 0x0, 1, 49, 0, 1⟩]
def regAddr2 : List AddrRow := [
  ⟨0x470018, 0x0, 1, 0x0, 1, 50, 0, 1⟩,
  ⟨0x470020, 0x0, 1, 0x0, 1, 51, 0, 1⟩,
  ⟨0x470028, 0x0, 1, 0x0, 1, 52, 0, 1⟩,
  ⟨0x470030, 0x0, 1, 0x0, 1, 53, 0, 1⟩,
  ⟨0x242000, 0x10, 32, 0x0, 1, 54, 0, 1⟩,
  ⟨0x100000, 0x0, 1, 0x0, 1, 55, 0, 1⟩,
  ⟨0x100008, 0x0, 1, 0x0, 1, 56, 0, 1⟩,
  ⟨0x101000, 0x40, 98, 0x0, 1, 57, 0, 1⟩,
  ⟨0x100010, 0x0, 1, 0x0, 1, 58, 0, 1⟩,
  ⟨0x100018, 0x0, 1, 0x0, 1, 59, 0, 1⟩,
  ⟨0x100020, 0x0, 1, 0x0, 1, 60, 0, 1⟩,
  ⟨0x100028, 0x0, 1, 0x0, 1, 61, 0, 1⟩,
  ⟨0x100030, 0x0, 1, 0x0, 1, 62, 0, 1⟩,
  ⟨0x100038, 0x0, 1, 0x0, 1, 63, 0, 1⟩,
  ⟨0x100040, 0x0, 1, 0x0, 1, 64, 0, 1⟩,
  ⟨0x100048, 0x0, 1, 0x0, 1, 65, 0, 1⟩,
  ⟨0x101008, 0x40, 98, 0x0, 1, 66, 0, 1⟩,
  ⟨0x101010, 0x40, 98, 0x0, 1, 67, 0, 1⟩,
  ⟨0x101018, 0x40, 98, 0x0, 1, 68, 0, 1⟩,
  ⟨0x101020, 0x40, 98, 0x0, 1, 69, 0, 1⟩,
  ⟨0x101028, 0x40, 98, 0x0, 1, 70, 0, 1⟩,
  ⟨0x120000, 0x8, 1024, 0x0, 1, 71, 0, 1⟩,
  ⟨0x140000, 0x10, 256, 0x8, 2, 72, 0, 2⟩,
  ⟨0x180000, 0x8, 65536, 0x0, 1, 73, 0, 1⟩,
  ⟨0x200000, 0x0, 1, 0x0, 1, 74, 0, 1⟩]
def regAddr3 : List AddrRow := [
  ⟨0x200008, 0x0, 1, 0x0, 1, 75, 0, 1⟩,
  ⟨0x201000, 0x10, 32, 0x0, 1, 76, 0, 1⟩,
  ⟨0x201008, 0x10, 32, 0x0, 1, 77, 0, 1⟩,
  ⟨0x200010, 0x0, 1, 0x0, 1, 78, 0, 1⟩,
  ⟨0x200018, 0x0, 1, 0x0, 1, 79, 0, 1⟩,
  ⟨0x200020, 0x0, 1, 0x0, 1, 80, 0, 1⟩,
  ⟨0x200028, 0x0, 1, 0x0, 1, 81, 0, 1⟩,
  ⟨0x200100, 0x40, 5, 0x0, 1, 82, 0, 1⟩,
  ⟨0x200108, 0x40, 5, 0x0, 1, 83, 0, 1⟩,
  ⟨0x200110, 0x40, 5, 0x0, 1, 84, 0, 1⟩,
  ⟨0x200118, 0x40, 5, 0x0, 1, 85, 0, 1⟩,
  ⟨0x200120, 0x40, 5, 0x0, 1, 86, 0, 1⟩,
  ⟨0x200128, 0x40, 5, 0x0, 1, 87, 0, 1⟩,
  ⟨0x300000, 0x0, 1, 0x0, 1, 88, 0, 1⟩,
  ⟨0x300008, 0x0, 1, 0x0, 1, 89, 0, 1⟩,
  ⟨0x301000, 0x10, 256, 0x0, 1, 90, 0, 1⟩,
  ⟨0x301008, 0x10, 256, 0x0, 1, 91, 0, 1⟩,
  ⟨0x300010, 0x0, 1, 0x0, 1, 92, 0, 1⟩,
  ⟨0x300018, 0x0, 1, 0x0, 1, 93, 0, 1⟩,
  ⟨0x300020, 0x0, 1, 0x0, 1, 94, 0, 1⟩,
  ⟨0x300028, 0x0, 1, 0x0, 1, 95, 0, 1⟩,
  ⟨0x300030, 0x0, 1, 0x0, 1, 96, 0, 1⟩,
  ⟨0x300038, 0x0, 1, 0x0, 1, 97, 0, 1⟩,
  ⟨0x300040, 0x0, 1, 0x0, 1, 98, 0, 1⟩,
  ⟨0x304000, 0x40, 256, 0x0, 1, 99, 0, 1⟩]
def regAddr4 : List AddrRow := [
  ⟨0x304008, 0x40, 256, 0x0, 1, 100, 0, 1⟩,
  ⟨0x304010, 0x40, 256, 0x0, 1, 101, 0, 1⟩,
  ⟨0x304018, 0x40, 256, 0x0, 1, 102, 0, 1⟩,
  ⟨0x304020, 0x40, 256, 0x0, 1, 103, 0, 1⟩,
  ⟨0x308000, 0x10, 32, 0x0, 1, 104, 0, 1⟩,
  ⟨0x308008, 0x10, 32, 0x0, 1, 105, 0, 1⟩,
  ⟨0x300048, 0x0, 1, 0x0, 1, 106, 0, 1⟩,
  ⟨0x300050, 0x0, 1, 0x0, 1, 107, 0, 1⟩,
  ⟨0x300058, 0x0, 1, 0x0, 1, 108, 0, 1⟩,
  ⟨0x304028, 0x40, 256, 0x0, 1, 109, 0, 1⟩,
  ⟨0x304030, 0x40, 256, 0x0, 1, 110, 0, 1⟩,
  ⟨0x310000, 0x8, 4096, 0x0, 1, 111, 0, 1⟩,
  ⟨0x340000, 0x0, 1, 0x0, 1, 112, 0, 1⟩,
  ⟨0x340008, 0x0, 1, 0x0, 1, 113, 0, 1⟩,
  ⟨0x340010, 0x0, 1, 0x0, 1, 114, 0, 1⟩,
  ⟨0x341000, 0x10, 32, 0x0, 1, 115, 0, 1⟩,
  ⟨0x342000, 0x8, 16, 0x0, 1, 116, 0, 1⟩,
  ⟨0x344000, 0x10, 256, 0x0, 1, 117, 0, 1⟩,
  ⟨0x344008, 0x10, 256, 0x0, 1, 118, 0, 1⟩,
  ⟨0x340100, 0x0, 1, 0x0, 1, 119, 0, 1⟩,
  ⟨0x340108, 0x0, 1, 0x0, 1, 120, 0, 1⟩,
  ⟨0x340110, 0x0, 1, 0x0, 1, 121, 0, 1⟩,
  ⟨0x340118, 0x0, 1, 0x0, 1, 122, 0, 1⟩,
  ⟨0x340120, 0x0, 1, 0x0, 1, 123, 0, 1⟩,
  ⟨0x340128, 0x0, 1, 0x0, 1, 124, 0, 1⟩]
def regAddr5 : List AddrRow := [
  ⟨0x340130, 0x0, 1, 0x0, 1, 125, 0, 1⟩,
  ⟨0x348000, 0x0, 1, 0x0, 1, 126, 0, 1⟩,
  ⟨0x348008, 0x0, 1, 0x0, 1, 127, 0, 1⟩,
  ⟨0x348010, 0x0, 1, 0x0, 1, 128, 0, 1⟩,
  ⟨0x348018, 0x0, 1, 0x0, 1, 129, 0, 1⟩,
  ⟨0x348020, 0x0, 1, 0x0, 1, 130, 0, 1⟩,
  ⟨0x348028, 0x0, 1, 0x0, 1, 131, 0, 1⟩,
  ⟨0x348030, 0x0, 1, 0x0, 1, 132, 0, 1⟩,
  ⟨0x348038, 0x0, 1, 0x0, 1, 133, 0, 1⟩,
  ⟨0x348040, 0x0, 1, 0x0, 1, 134, 0, 1⟩,
  ⟨0x400000, 0x0, 1, 0x0, 1, 135, 0, 1⟩,
  ⟨0x401000, 0x20, 32, 0x0, 1, 136, 0, 1⟩,
  ⟨0x400008, 0x0, 1, 0x0, 1, 137, 0, 1⟩,
  ⟨0x400010, 0x0, 1, 0x0, 1, 138, 0, 1⟩,
  ⟨0x400020, 0x0, 1, 0x0, 1, 139, 0, 1⟩,
  ⟨0x401008, 0x20, 32, 0x0, 1, 140, 0, 1⟩,
  ⟨0x401010, 0x20, 32, 0x0, 1, 141, 0, 1⟩,
  ⟨0x401018, 0x20, 32, 0x0, 1, 142, 0, 1⟩,
  ⟨0x402000, 0x10, 8, 0x0, 1, 143, 0, 1⟩,
  ⟨0x402100, 0x10, 8, 0x0, 1, 144, 0, 1⟩,
  ⟨0x400018, 0x0, 1, 0x0, 1, 145, 0, 1⟩,
  ⟨0x400100, 0x0, 1, 0x0, 1, 146, 0, 1⟩,
  ⟨0x400108, 0x0, 1, 0x0, 1, 147, 0, 1⟩,
  ⟨0x400110, 0x0, 1, 0x0, 1, 148, 0, 1⟩,
  ⟨0x400118, 0x0, 1, 0x0, 1, 149, 0, 1⟩]
def regAddr6 : List AddrRow := [
  ⟨0x400120, 0x0, 1, 0x0, 1, 150, 0, 1⟩,
  ⟨0x400128, 0x0, 1, 0x0, 1, 151, 0, 1⟩,
  ⟨0x400130, 0x0, 1, 0x0, 1, 152, 0, 1⟩,
  ⟨0x400138, 0x0, 1, 0x0, 1, 153, 0, 1⟩,
  ⟨0x402008, 0x10, 8, 0x0, 1, 154, 0, 1⟩,
  ⟨0x380000, 0x0, 1, 0x0, 1, 155, 0, 1⟩,
  ⟨0x380008, 0x0, 1, 0x0, 1, 156, 0, 1⟩,
  ⟨0x381000, 0x10, 32, 0x0, 1, 157, 0, 1⟩,
  ⟨0x382000, 0x8, 1024, 0x0, 1, 158, 0, 1⟩,
  ⟨0x380010, 0x0, 1, 0x0, 1, 159, 0, 1⟩,
  ⟨0x380018, 0x0, 1, 0x0, 1, 160, 0, 1⟩,
  ⟨0x380020, 0x0, 1, 0x0, 1, 161, 0, 1⟩,
  ⟨0x380028, 0x0, 1, 0x0, 1, 162, 0, 1⟩,
  ⟨0x80000, 0x400, 96, 0x0, 1, 163, 0, 1⟩,
  ⟨0x80008, 0x400, 96, 0x0, 1, 164, 0, 1⟩,
  ⟨0x98000, 0x0, 1, 0x0, 1, 165, 0, 1⟩,
  ⟨0x80020, 0x400, 96, 0x0, 1, 166, 0, 1⟩,
  ⟨0x80028, 0x400, 96, 0x0, 1, 167, 0, 1⟩,
  ⟨0x80030, 0x400, 96, 0x0, 1, 168, 0, 1⟩,
  ⟨0x80038, 0x400, 96, 0x0, 1, 169, 0, 1⟩,
  ⟨0x80040, 0x400, 96, 0x0, 1, 170, 0, 1⟩,
  ⟨0x80048, 0x400, 96, 0x0, 1, 171, 0, 1⟩,
  ⟨0x80050, 0x400, 96, 0x0, 1, 172, 0, 1⟩,
  ⟨0x80058, 0x400, 96, 0x0, 1, 173, 0, 1⟩,
  ⟨0x80100, 0x400, 96, 0x8, 8, 174, 0, 8⟩]
def regAddr7 : List AddrRow := [
  ⟨0x20008, 0x1000, 32, 0x0, 1, 175, 0, 1⟩,
  ⟨0x10008, 0x0, 1, 0x0, 1, 175, 32, 1⟩,
  ⟨0x20C00, 0x1000, 32, 0x40, 16, 176, 0, 16⟩,
  ⟨0x20C10, 0x1000, 32, 0x40, 16, 177, 0, 16⟩,
  ⟨0x20C08, 0x1000, 32, 0x40, 16, 178, 0, 16⟩,
  ⟨0x20C38, 0x1000, 32, 0x40, 16, 179, 0, 16⟩,
  ⟨0x100, 0x0, 1, 0x0, 1, 180, 0, 1⟩,
  ⟨0x20000, 0x1000, 32, 0x0, 1, 181, 0, 1⟩,
  ⟨0x10000, 0x0, 1, 0x0, 1, 181, 32, 1⟩,
  ⟨0x20010, 0x1000, 32, 0x0, 1, 182, 0, 1⟩,
  ⟨0x10010, 0x0, 1, 0x0, 1, 182, 32, 1⟩,
  ⟨0x20018, 0x1000, 32, 0x0, 1, 183, 0, 1⟩,
  ⟨0x10018, 0x0, 1, 0x0, 1, 183, 32, 1⟩,
  ⟨0x20C18, 0x1000, 32, 0x40, 16, 184, 0, 16⟩,
  ⟨0x20C20, 0x1000, 32, 0x40, 16, 185, 0, 16⟩,
  ⟨0x20C28, 0x1000, 32, 0x40, 16, 186, 0, 16⟩,
  ⟨0x20C30, 0x1000, 32, 0x40, 16, 187, 0, 16⟩,
  ⟨0x108, 0x0, 1, 0x0, 1, 188, 0, 1⟩,
  ⟨0x110, 0x0, 1, 0x0, 1, 189, 0, 1⟩,
  ⟨0x118, 0x0, 1, 0x0, 1, 190, 0, 1⟩,
  ⟨0x120, 0x0, 1, 0x0, 1, 191, 0, 1⟩,
  ⟨0x480000, 0x0, 1, 0x0, 1, 192, 0, 1⟩,
  ⟨0x480008, 0x0, 1, 0x0, 1, 193, 0, 1⟩,
  ⟨0x480010, 0x0, 1, 0x0, 1, 194, 0, 1⟩,
  ⟨0x481000, 0x10, 32, 0x0, 1, 195, 0, 1⟩]
def regAddr8 : List AddrRow := [
  ⟨0x481008, 0x10, 32, 0x0, 1, 196, 0, 1⟩,
  ⟨0x480018, 0x0, 1, 0x0, 1, 197, 0, 1⟩,
  ⟨0x480020, 0x0, 1, 0x0, 1, 198, 0, 1⟩,
  ⟨0x50000, 0x0, 1, 0x0, 1, 199, 0, 1⟩,
  ⟨0x50008, 0x0, 1, 0x0, 1, 200, 0, 1⟩,
  ⟨0x50010, 0x0, 1, 0x0, 1, 201, 0, 1⟩,
  ⟨0x50018, 0x0, 1, 0x0, 1, 202, 0, 1⟩,
  ⟨0x50020, 0x0, 1, 0x0, 1, 203, 0, 1⟩,
  ⟨0x50028, 0x0, 1, 0x0, 1, 204, 0, 1⟩,
  ⟨0x50030, 0x0, 1, 0x0, 1, 205, 0, 1⟩,
  ⟨0x50038, 0x0, 1, 0x0, 1, 206, 0, 1⟩,
  ⟨0x50040, 0x0, 1, 0x0, 1, 207, 0, 1⟩,
  ⟨0x50048, 0x0, 1, 0x0, 1, 208, 0, 1⟩,
  ⟨0x50050, 0x0, 1, 0x0, 1, 209, 0, 1⟩,
  ⟨0x50058, 0x0, 1, 0x0, 1, 210, 0, 1⟩,
  ⟨0x50060, 0x0, 1, 0x0, 1, 211, 0, 1⟩,
  ⟨0x50068, 0x0, 1, 0x0, 1, 212, 0, 1⟩,
  ⟨0x50100, 0x0, 1, 0x0, 1, 213, 0, 1⟩,
  ⟨0x50108, 0x0, 1, 0x0, 1, 214, 0, 1⟩,
  ⟨0x50110, 0x0, 1, 0x0, 1, 215, 0, 1⟩,
  ⟨0x50118, 0x0, 1, 0x0, 1, 216, 0, 1⟩,
  ⟨0x50120, 0x0, 1, 0x0, 1, 217, 0, 1⟩,
  ⟨0x50128, 0x0, 1, 0x0, 1, 218, 0, 1⟩,
  ⟨0x60000, 0x0, 1, 0x0, 1, 219, 0, 1⟩,
  ⟨0x60008, 0x0, 1, 0x0, 1, 220, 0, 1⟩]
def regAddr9 : List AddrRow := [
  ⟨0x62000, 0x20, 96, 0x0, 1, 221, 0, 1⟩,
  ⟨0x62008, 0x20, 96, 0x0, 1, 222, 0, 1⟩,
  ⟨0x62010, 0x20, 96, 0x0, 1, 223, 0, 1⟩,
  ⟨0x60010, 0x0, 1, 0x0, 1, 224, 0, 1⟩,
  ⟨0x60018, 0x0, 1, 0x0, 1, 225, 0, 1⟩,
  ⟨0x60020, 0x0, 1, 0x0, 1, 226, 0, 1⟩,
  ⟨0x60100, 0x0, 1, 0x0, 1, 227, 0, 1⟩,
  ⟨0x60108, 0x0, 1, 0x0, 1, 228, 0, 1⟩,
  ⟨0x60110, 0x0, 1, 0x0, 1, 229, 0, 1⟩,
  ⟨0x60118, 0x0, 1, 0x0, 1, 230, 0, 1⟩,
  ⟨0x60120, 0x0, 1, 0x0, 1, 231, 0, 1⟩,
  ⟨0x61000, 0x8, 96, 0x0, 1, 232, 0, 1⟩,
  ⟨0x70000, 0x8, 1024, 0x0, 1, 233, 0, 1⟩,
  ⟨0x4C0000, 0x0, 1, 0x0, 1, 234, 0, 1⟩,
  ⟨0x4C0020, 0x0, 1, 0x0, 1, 235, 0, 1⟩,
  ⟨0x4C0038, 0x0, 1, 0x0, 1, 236, 0, 1⟩,
  ⟨0x4C2000, 0x10, 64, 0x0, 1, 237, 0, 1⟩,
  ⟨0x4C2008, 0x10, 64, 0x0, 1, 238, 0, 1⟩,
  ⟨0x4C0008, 0x0, 1, 0x0, 1, 239, 0, 1⟩,
  ⟨0x4C0010, 0x0, 1, 0x0, 1, 240, 0, 1⟩,
  ⟨0x4C0018, 0x0, 1, 0x0, 1, 241, 0, 1⟩,
  ⟨0x4C0028, 0x0, 1, 0x0, 1, 242, 0, 1⟩,
  ⟨0x4C0030, 0x0, 1, 0x0, 1, 243, 0, 1⟩,
  ⟨0x4C0040, 0x0, 1, 0x0, 1, 244, 0, 1⟩,
  ⟨0x4C0048, 0x0, 1, 0x0, 1, 245, 0, 1⟩]
def regAddr10 : List AddrRow := [
  ⟨0x4C0050, 0x0, 1, 0x0, 1, 246, 0, 1⟩,
  ⟨0x4C0058, 0x0, 1, 0x0, 1, 247, 0, 1⟩,
  ⟨0x4C1000, 0x8, 24, 0x0, 1, 248, 0, 1⟩,
  ⟨0x20, 0x0, 1, 0x0, 1, 249, 0, 1⟩,
  ⟨0x30, 0x0, 1, 0x0, 1, 250, 0, 1⟩,
  ⟨0x38, 0x0, 1, 0x0, 1, 251, 0, 1⟩,
  ⟨0x28, 0x0, 1, 0x0, 1, 252, 0, 1⟩,
  ⟨0x40, 0x0, 1, 0x0, 1, 253, 0, 1⟩,
  ⟨0x48, 0x0, 1, 0x0, 1, 254, 0, 1⟩,
  ⟨0x500000, 0x0, 1, 0x0, 1, 255, 0, 1⟩,
  ⟨0x600000, 0x0, 1, 0x0, 1, 256, 0, 1⟩,
  ⟨0x500008, 0x0, 1, 0x0, 1, 257, 0, 1⟩,
  ⟨0x600008, 0x0, 1, 0x0, 1, 258, 0, 1⟩,
  ⟨0x600010, 0x0, 1, 0x0, 1, 259, 0, 1⟩,
  ⟨0x0, 0x0, 1, 0x0, 1, 260, 0, 1⟩,
  ⟨0x18, 0x0, 1, 0x0, 1, 261, 0, 1⟩,
  ⟨0x50, 0x0, 1, 0x0, 1, 262, 0, 1⟩,
  ⟨0x8, 0x0, 1, 0x0, 1, 263, 0, 1⟩,
  ⟨0x58, 0x0, 1, 0x0, 1, 264, 0, 1⟩,
  ⟨0x80010, 0x400, 96, 0x0, 1, 265, 0, 1⟩,
  ⟨0x20100, 0x1000, 32, 0x8, 224, 266, 0, 224⟩,
  ⟨0x10100, 0x8, 224, 0x0, 1, 266, 7168, 1⟩,
  ⟨0x20800, 0x1000, 32, 0x8, 128, 267, 0, 128⟩,
  ⟨0x10800, 0x8, 128, 0x0, 1, 267, 4096, 1⟩]
/-- The BAR0 offset of every register (R543 and the register tables). -/
def regAddr : List AddrRow :=
  regAddr0 ++ regAddr1 ++ regAddr2 ++ regAddr3 ++ regAddr4 ++ regAddr5 ++ regAddr6 ++ regAddr7 ++ regAddr8 ++ regAddr9 ++ regAddr10

end Sys2Proof.Machine
end

