-- ==== Sys2Proof/Machine/State.lean ====
section
/-! DEFINITION. The state of the block: every register, table, queue and buffer that the spec gives it, grouped by the
unit that holds it, and the queue of waiting commands. Plain data. -/

namespace Sys2Proof.Machine

/-! ## The time base (R30 to R62) -/

/-- What a port has heard of the time grid (R34, R36). -/
structure PortTime where
  /-- Own edges counted when the latest frame arrived. -/
  heardAt : Nat := 0
  /-- The peer's beat number of the latest frame; none before the first (R34, `ECHO_BEAT`). -/
  echoBeat : Option Nat := none
  /-- Time of its arrival since power-on, 1/256 ns (R34: `ECHO_RX_OFS` counts to it). -/
  arrived : Nat := 0
  rootId : Nat := 0xFFFF
  rootPrio : Nat := 0xFF
  stratum : Nat := 0xFF
  term : Nat := 0
  /-- An attach port: its peer is never parent nor root (R35). -/
  accel : Bool := false
  deriving DecidableEq, Repr

/-- A change of the beat length: the number of the edge that began it, in the present count, the time of that edge, and
the length before it (R33, R40). -/
structure GridMark where
  beat : Int
  clock : Nat
  was : Nat
  deriving DecidableEq, Repr

/-- Own edges up to the one counted `last` carried the number that is their count plus `off`, and came `late` later than the
count of today has them (R36, R40). -/
structure EdgeEra where
  last : Nat
  off : Int
  late : Int
  deriving DecidableEq, Repr

/-- Time base (R37 to R41). -/
structure TimeU where
  ports : SMap PortTime := []
  /-- Highest `ROOT_TERM` heard for each root identifier (R38). -/
  terms : SMap Nat := []
  /-- Term of the root that the module follows or is. -/
  myTerm : Nat := 0
  /-- R40: 0 before steps 1 and 2, 1 before the phase step of step 3, 2 correcting by frequency. -/
  lockStep : Nat := 0
  /-- Consecutive beats with the offset to the parent within ±8 ns. -/
  goodRun : Nat := 0
  /-- Latest measurement within ±8 ns since the last edge. -/
  goodSeen : Bool := false
  /-- An offset excursion is under way (R41). -/
  excursion : Bool := false
  /-- Beats for which `STRATUM` 0xFF is still sent before election (R39). -/
  quiet : Nat := 16
  /-- The module takes part in election. -/
  electing : Bool := false
  /-- Time of the latest beat edge since power-on, 1/256 ns. -/
  clock : Nat := 0
  /-- Own edges since power-on: what every wait of so many beats counts, whatever R40 does to the beat number. -/
  edges : Nat := 0
  /-- Changes of the beat length, latest first (R36: the times of earlier edges). -/
  marks : List GridMark := []
  /-- Spells between renumberings and phase steps, latest first (R36: when an earlier frame really left). -/
  eras : List EdgeEra := []
  deriving DecidableEq, Repr

/-! ## Translation (R63 to R94) -/

/-- What an access translated through (R73, R81, R85). -/
inductive Use where
  | dir (i : Nat)
  | page (i : Nat)
  | host (part pasid va : Nat)
  | extent (e : Nat)
  deriving DecidableEq, Repr

/-- An entry of the translation cache; the list is ordered by last use, latest first (R76 to R82). -/
structure AtcEntry where
  part : Nat
  pasid : Nat
  va : Nat
  size : Nat
  r : Bool
  w : Bool
  pa : Nat
  deriving DecidableEq, Repr

/-- A piece of a tile that one table entry translates: offset in the tile, length, page kind (R69), address in the
target's space (with the PASID for `HOST`, the accelerator for `ACCEL`, the partition for `TUN` and `TIER`), and the
entries used. -/
structure Piece where
  ofs : Nat
  len : Nat
  kind : Nat
  base : Nat
  space : Nat
  uses : List Use
  deriving DecidableEq, Repr

/-- What an operation at the home answers to. -/
inductive OpFrom where
  /-- The packet's issuer, under R101. -/
  | request
  /-- A tile packet under a grant. -/
  | tile (handle : Nat)
  /-- A local share of multicast store `mc`. -/
  | share (mc slot : Nat)
  /-- The result write of a chunk (R111). -/
  | result (chunk : Nat)
  /-- A host access through CXL.mem, with or without a request for a cacheable state (R382, R384). -/
  | hdm (cacheable : Bool)
  /-- An `RD_SHARED` or `RD_OWN` of an accelerator (R375). -/
  | attach (port : Nat) (agent : Nat) (own : Bool) (part : Nat)
  deriving DecidableEq, Repr

/-- Who waits on Translation Requests: an access at the owner, a prefetch command of a mailbox, a `SEQ_LOAD` of a
mailbox, or a job that reads operands. -/
inductive Waiter where
  | access (src : OpFrom) (p : Pkt)
  | prefetch (m : Nat)
  | image (m : Nat)
  | job (id : Nat)
  deriving DecidableEq, Repr

/-- A failure of one page of a tile: offset of its first byte in the tile, status, record type (R83, R84). -/
structure PageFail where
  ofs : Nat
  status : Nat
  rtype : Option Nat
  deriving DecidableEq, Repr

/-- An access that waits on host translations: the regions still open (with tile offset and whether the access writes)
and the failures found. -/
structure AtsWait where
  who : Waiter
  needs : List (Nat × Nat × Nat × Nat)
  write : Bool
  fails : List PageFail
  deriving DecidableEq, Repr

/-- An Invalidate Request being carried out (R81). -/
structure Inval where
  itag : Nat
  uses : List Use
  deriving DecidableEq, Repr

/-- A window or page change in progress (R73): the mailbox that waits and what it changed. -/
structure TrChange where
  mbx : Nat
  uses : List Use
  deriving DecidableEq, Repr

/-- Translation unit. `winDir` is indexed (32·slot... ) as 384·partition + 64·slot + window; `page0`, `page1` hold the
two words of a page entry. -/
structure XlatU where
  winDir : SMap Word := []
  page0 : SMap Word := []
  page1 : SMap Word := []
  atc : List AtcEntry := []
  /-- Regions with a Translation Request out: partition, PASID, address. -/
  reqs : List (Nat × Nat × Nat) := []
  waits : List AtsWait := []
  invals : List Inval := []
  changes : List TrChange := []
  deriving DecidableEq, Repr

/-! ## Transactions (R95 to R128) -/

/-- The unit of this module that issued a tracked request. -/
inductive Issuer where
  /-- A sequencer thread's access; `seq` numbers the thread's accesses. -/
  | thread (c t seq : Nat)
  /-- A tile move as a whole. -/
  | tile (move : Nat)
  /-- One packet of a collective step, or the whole of a `RED_MC` step. -/
  | step (id chunk : Nat)
  /-- A combining entry of a port. -/
  | comb (port id : Nat)
  /-- The multicast result of a chunk, or its result write on another module. -/
  | result (chunk : Nat) (mem : Bool)
  /-- A copy of multicast store `mc` to the child at a port, with `below` members. -/
  | copy (mc below port : Nat)
  /-- A line entry performed at the lender of a T2 frame. -/
  | tier (op line : Nat)
  /-- A read of a slice load: load number and chunk of its source. -/
  | job (id chunk : Nat)
  /-- A read of the image of a `SEQ_LOAD`, by the number of its load. -/
  | image (load : Nat)
  /-- A control message of the Maltster (R453). -/
  | control (kind : Nat) (ref : Nat)
  /-- An Ikio memory access of the Maltster. -/
  | ikio
  /-- The ROM's load of a boot image from a neighbour (R514). -/
  | boot
  deriving DecidableEq, Repr

/-- A tracker entry (R125); the key is the `TAG`. -/
structure TEntry where
  part : Nat
  gen : Nat
  sent : Nat
  dst : Nat
  /-- The source of a tile move, 0xFFFF otherwise: the move also waits for it (R126). -/
  dst2 : Nat
  /-- Own edge at which `dst` was declared lost. -/
  lostAt : Option Nat
  opcode : Nat
  sem : Nat
  /-- The access's home lies in the `DEVICE` and the `DOMAIN` instance (R135, R136). -/
  inDevice : Bool
  inDomain : Bool
  issuer : Issuer
  deriving DecidableEq, Repr

/-- An operation at the home: a request past its checks, with its lines still to perform. -/
structure HOp where
  id : Nat
  pkt : Pkt
  src : OpFrom
  /-- Page kind: 0 HBM, 1 TUN, 2 HOST, 3 ACCEL, 4 TIER (R69). -/
  kind : Nat
  /-- Address of the first byte in the target's space. -/
  base : Nat
  /-- PASID for HOST, slot for ACCEL, partition for TUN and TIER. -/
  space : Nat
  uses : List Use
  /-- Line keys still to perform. -/
  todo : List Nat
  /-- Bytes read so far, by line key. -/
  got : SMap (List Byte)
  status : Nat
  deriving DecidableEq, Repr

/-- What the head entry of a line queue waits for. -/
inductive LineWait where
  | none
  /-- Recalls or invalidations of a directory line are out. -/
  | dir (line : Nat)
  /-- A forwarded request out to the accelerator, with its forwarding tag. -/
  | accel (tag : Nat)
  /-- A CXL.cache access to the host. -/
  | host
  /-- A request to the lender of a T2 frame. -/
  | lender
  /-- A frame that an eviction vacates (R309, R312). -/
  | frame
  deriving DecidableEq, Repr

/-- A line queue (R121): the operations of its entries in arrival order. -/
structure LineQ where
  line : Nat
  q : List Nat
  wait : LineWait
  deriving DecidableEq, Repr

/-- A grant held as owner of a tile (R115). -/
structure Grant where
  part : Nat
  src : Nat
  tag : Nat
  gen : Nat
  tc : Nat
  addr : Word
  /-- 0 read side, 1 write side. -/
  side : Nat
  len : Nat
  written : Nat
  /-- Own edge of the last packet. -/
  seen : Nat
  /-- The `TILE_CLOSE` that the grant has had: without `ABORT` it waits for the bytes (R112). -/
  closing : Option Pkt
  cell : Nat
  uses : List Use
  pieces : List Piece
  deriving DecidableEq, Repr

/-- A tile move on one of the 64 movers (R112). -/
structure Move where
  mover : Nat
  part : Nat
  tag : Nat
  gen : Nat
  src : Word
  dst : Word
  len : Nat
  tc : Nat
  lcEn : Bool
  lcMode : Bool
  lcIdx : Nat
  grantS : Option Nat
  grantD : Option Nat
  failS : Option Nat
  failD : Option Nat
  /-- Status of the first failure after both grants. -/
  fail : Option Nat
  /-- Read packets not yet answered. -/
  reads : Nat
  issued : Bool
  closed : Bool
  /-- Both granted sides have been sent a `TILE_CLOSE` with `ABORT` (R114). -/
  aborted : Bool
  doneS : Bool
  doneD : Option Nat
  bytes : Nat
  /-- What ends with the move: step, thread, tier copy. -/
  owner : Issuer
  deriving DecidableEq, Repr

/-- A multicast store being replicated here (R110). -/
structure Mc where
  id : Nat
  pkt : Pkt
  /-- Copies and shares not yet answered. -/
  waiting : Nat
  ok : Nat
  failed : Nat
  status : Nat
  deriving DecidableEq, Repr

/-- An engine instance's issue state: held requests and fences in program order (R137 to R141). -/
inductive Held where
  | pkt (p : Pkt) (issuer : Issuer)
  | fence (scope : Nat)
  deriving DecidableEq, Repr

/-- Tracker, home and tile state (R103 to R128, R129 to R150). -/
structure TrackU where
  entries : SMap TEntry := []
  /-- Generation last used for each tag. -/
  gens : SMap Nat := []
  /-- Tags not to be reused before an own edge (R126). -/
  holds : List (Nat × Nat) := []
  /-- Requests stalled at their partition's tracker limit, oldest first (R125). -/
  stalled : List (Pkt × Issuer) := []
  ops : SMap HOp := []
  nextOp : Nat := 0
  lines : List LineQ := []
  /-- Entries waiting for room: line, operation, source, network class. -/
  lineWaits : List (Nat × Nat × Nat × Nat) := []
  /-- Source served last per line, for the round robin of R122. -/
  lastSrc : SMap Nat := []
  /-- Forwarding records: tag to line (R371). -/
  fwd : SMap Nat := []
  grants : SMap Grant := []
  /-- Handles released for idleness, whose later packets are counted (R115). -/
  idled : List Nat := []
  moves : SMap Move := []
  nextMove : Nat := 0
  /-- Tiles queued for the movers. -/
  queued : List Move := []
  /-- Landing counters (R146 to R150). -/
  lc : SMap Word := []
  mcs : SMap Mc := []
  nextMc : Nat := 0
  /-- Requests and fences an engine instance holds, by engine number. -/
  held : SMap (List Held) := []
  deriving DecidableEq, Repr

/-- A directory entry (R155): state 1 SHARED, 2 OWNED; sharers as a 5-bit set. -/
structure DirEntry where
  line : Nat
  owned : Bool
  sharers : Nat
  /-- Agents with a recall or an invalidation out, and whether a recalled owner keeps a shared copy. -/
  recalling : Nat
  keep : Bool
  /-- Fabric address and partition by which each agent named the line. -/
  names : SMap (Word × Nat)
  deriving DecidableEq, Repr

/-! ## Switching (R162 to R198) -/

/-- What a link delivers to the switch core and the port logic, in order. -/
inductive RxItem where
  | pkt (p : Pkt)
  /-- A beat frame of eight words. -/
  | beat (f : Flit)
  /-- A training message of eight words. -/
  | train (f : Flit)
  /-- An attach message with its data flit. -/
  | attach (f : Flit) (data : Option Flit)
  | stomp
  deriving DecidableEq, Repr

/-- A packet at the end-point block: the port it came by (98: on-die) and the packet. -/
structure EpItem where
  port : Nat
  pkt : Pkt
  deriving DecidableEq, Repr

/-- A packet stored in a cell of the switch core (R181). -/
structure Stored where
  inPort : Nat
  outPort : Nat
  /-- Queue of R241: a collective row, or 256 for the further queue. -/
  row : Nat
  /-- Virtual channel on which it came in (R181). -/
  ch : Nat
  pkt : Pkt
  deriving DecidableEq, Repr

/-- A packet that cuts through while it still arrives (R180, R367): as it leaves, without its payload. -/
structure Cut where
  inPort : Nat
  outPort : Nat
  pkt : Pkt
  /-- Its output has dropped: what still arrives is discarded. -/
  dead : Bool
  /-- Beat frames that came due meanwhile: they follow it (R355). -/
  beats : List Flit := []
  deriving DecidableEq, Repr

/-- An attached request of a combining entry (R183, R184). -/
structure Attached where
  src : Nat
  tag : Nat
  gen : Nat
  noret : Bool
  operand : Nat
  deriving DecidableEq, Repr

/-- An open combining entry of a port. -/
structure Comb where
  port : Nat
  id : Nat
  pkt : Pkt
  bank : Bool
  attached : List Attached
  /-- No more requests attach. -/
  closed : Bool
  /-- The request has been sent. -/
  sent : Bool
  tag : Nat
  gen : Nat
  deriving DecidableEq, Repr

/-- Switch core. `routes` is indexed 65536·bank + endpoint, `groups` 512·bank + 2·group + word. -/
structure XbarU where
  routes : SMap Word := []
  groups : SMap Word := []
  rx : SMap (List RxItem) := []
  /-- Packets that units issue into ports 96 and 97; a copy of the output stage names its optical port (R18). -/
  out96 : List Pkt := []
  out97 : List (Pkt × Option Nat) := []
  /-- The internal ports are closed (R20): from power-on reset until bring-up phase 9, and through a core reset. -/
  closed : Bool := true
  /-- Input served last by 8·output + channel (R175). -/
  lastIn : SMap Nat := []
  epIn : List EpItem := []
  rdxIn : List EpItem := []
  /-- Control messages taken from window 63 of partition 0: sender and payload words (R453). -/
  ctlIn : List (Nat × List Word) := []
  /-- Stored packets, each in one cell of the reserve; a combined atomic (input 98) waits in its table entry (log 125). -/
  xq : List Stored := []
  cuts : List Cut := []
  /-- Input and rank of packets that wait at an input after the one judgement of cut-through, to be stored (R180). -/
  judged : List (Nat × Nat) := []
  /-- Flit credits held for the peer's receive buffer (R177): reserves by 8·port + channel, shared ones by 768 + port. -/
  credit : SMap Nat := []
  comb : List Comb := []
  nextComb : Nat := 0
  /-- Deficits of R241 by 257·(2·port + `DL`) + row. -/
  deficit : SMap Nat := []
  /-- Row under visit by 2·port + `DL`. -/
  drrAt : SMap Nat := []
  /-- Own edge of the last epoch switch. -/
  switchedAt : Nat := 0
  /-- `CELL_RSVD` has been written since power-on reset (R6). -/
  rsvdLocked : Bool := false
  deriving DecidableEq, Repr

/-- Who holds a pool buffer. -/
inductive Holder where
  | unit (u : PoolUser)
  | grant (h : Nat)
  | chunk (row num rank : Nat)
  | staged (row num : Nat)
  | mover (id : Nat)
  /-- The copy of an extent's move (R316). -/
  | extent (e : Nat)
  deriving DecidableEq, Repr

/-- A buffer that is in use or held (R195). -/
structure Buf where
  part : Nat
  inUse : Bool
  holders : List Holder
  /-- Found leaked in the last sweep, untouched since. -/
  suspect : Bool
  /-- Found with two holders (R195): free only when both have released it. -/
  dup : Bool
  deriving DecidableEq, Repr

/-- Buffer pools: for each pool the buffers in use or held. -/
structure PoolU where
  bufs : SMap (SMap Buf) := []
  /-- Requests of exempt units that wait for a buffer: unit, partition, pool; oldest first (R191). -/
  waits : List (PoolUser × Nat × Nat) := []
  /-- The exempt unit served next by pool, in round-robin order (R192). -/
  turn : SMap Nat := []
  /-- Requests of the other units in the cycle under way, and the unit of them served next by pool (R192). -/
  asks : List (PoolUser × Nat × Nat) := []
  askTurn : SMap Nat := []
  lastSweep : Nat := 0
  /-- The 64 KiB pool is empty: from a core reset until the internal ports reopen (R21). -/
  tilesOut : Bool := false
  deriving DecidableEq, Repr

/-! ## Reductions and collectives (R199 to R247) -/

/-- An EXACT accumulator with its four flags (R206). -/
structure Acc where
  sum : Int
  nan : Bool
  pinf : Bool
  ninf : Bool
  negz : Bool
  deriving DecidableEq, Repr

/-- The header of a contribution that a chunk keeps for its answer. -/
structure Contrib where
  rank : Nat
  pkt : Pkt
  /-- The cell in which it waits for its turn (R214). -/
  cell : Option Nat
  deriving DecidableEq, Repr

/-- An open chunk (R199, R200, R213, R214). -/
structure Chunk where
  row : Nat
  /-- The collective group and its partition, which with the number identify the chunk (R200). -/
  grp : Nat
  part : Nat
  num : Nat
  unit : Nat
  mem : Bool
  openBeat : Nat
  /-- Time of the first contribution that passed R213, and the last (R242). -/
  firstAt : Nat
  lastAt : Nat
  lastRank : Nat
  len : Nat
  addr : Nat
  /-- EXACT accumulators of `SUM`. -/
  accs : List Acc
  /-- Raw element values (`MIN`, `MAX`, bit operators) or binary32 accumulators (ORDERED). -/
  vals : List Nat
  /-- Next rank to add in ORDERED mode. -/
  next : Nat
  /-- Contributions added, without payload, in order. -/
  added : List Contrib
  /-- Contributions held for their turn. -/
  held : List Contrib
  rank0 : Option Pkt
  /-- Number of the chunk since power-on. -/
  id : Nat
  deriving DecidableEq, Repr

/-- A contribution that waits in a cell for a slot of its group (R218), and when it passed R213. -/
structure Parked where
  row : Nat
  pkt : Pkt
  cell : Nat
  at_ : Nat
  deriving DecidableEq, Repr

/-- A scheduled barrier's arrival of this module (R59, R60). -/
structure BarWait where
  gen : Nat
  /-- Own edge of the beat in which it was sent. -/
  edge : Nat
  /-- Time of that edge plus `SCAN`, 1/256 ns since power-on. -/
  at_ : Nat
  deriving DecidableEq, Repr

/-- Reduction array and collectives. -/
structure RdxU where
  chunks : List Chunk := []
  /-- Contributions waiting for a slot, oldest first (R218). -/
  parked : List Parked := []
  /-- Chunks closed whose result write is under way, or whose result store has not been sent: their slots are taken (R214). -/
  writing : List Chunk := []
  nextChunk : Nat := 0
  /-- Multicast entries by 32·group + partition: word 0 and the child words (R230). -/
  mc : SMap (List Word) := []
  /-- Own edge until which a group number is quarantined, by 32·group + partition (R233). -/
  quarantine : SMap Nat := []
  /-- Arrivals that await their release, by row. -/
  bar : SMap BarWait := []
  /-- Generation last released, by row, plus one, and the own edge and time after it at which it arrived. -/
  released : SMap (Nat × Nat × Nat) := []
  /-- Barrier shares delivered: row, generation, multicast store, local shares. -/
  relIn : List (Nat × Nat × Nat × Nat) := []
  deriving DecidableEq, Repr

/-! ## Work rings and steps (R43 to R60, R401 to R411) -/

/-- A fetched descriptor that has not been taken (R404, R407). -/
structure Desc where
  idx : Nat
  words : List Word
  /-- Its fetch completed before the last beat edge: the scan has seen it (R47). -/
  seen : Bool
  /-- Its gate counter had reached its target at the last beat edge (R236, R239). -/
  gate : Bool
  /-- Beats deferred so far, the own edge of the last beat counted, and whether that deferral was the last that
  `TIME_DEFER_LIMIT` allows (R50). -/
  defers : Nat
  deferBeat : Option Nat
  spent : Bool
  deriving DecidableEq, Repr

/-- A completion record that waits for its write (R408). -/
structure CqRec where
  w0 : Word
  w1 : Word
  irq : Bool
  deriving DecidableEq, Repr

/-- A work ring: slots being fetched, descriptors fetched, and records whose write failed. -/
structure Ring where
  fetching : List Nat
  descs : List Desc
  retry : List CqRec
  /-- Descriptors taken and not ended, by slot index. -/
  open_ : List Nat
  deriving DecidableEq, Repr

/-- A running step: an admitted or taken descriptor that has not ended. -/
structure Step where
  id : Nat
  part : Nat
  ring : Nat
  idx : Nat
  words : List Word
  /-- Scheduled (charged against the window), and the own edge of the beat of admission. -/
  sched : Bool
  edge : Nat
  cost : Nat
  tag : Nat
  gen : Nat
  /-- Packets or tiles not yet started, and not yet answered. -/
  todo : Nat
  outstanding : Nat
  /-- First failure: its offset and status. -/
  fail : Option (Nat × Nat)
  bytes : Nat
  /-- Job phase: 0 admitted, 1 started, 2 output under way. -/
  phase : Nat
  /-- Own edge of the latest beat in which a slip was counted for it (R58). -/
  slipAt : Nat
  deriving DecidableEq, Repr

/-- Steps and admission (R47 to R52). -/
structure StepU where
  rings : SMap Ring := []
  steps : List Step := []
  nextStep : Nat := 0
  /-- Partition that the last beat's passes started with (R48). -/
  first : Nat := 31
  /-- Costs admitted in this beat, and the admission start A once admission has opened. -/
  charged : Nat := 0
  admAt : Option Nat := none
  /-- Time in this beat at which the last step of an earlier beat completed (R49). -/
  heldTill : Nat := 0
  /-- Time of the first edge from which running steps hold admission (R58), 1/256 ns since power-on. -/
  holdFrom : Option Nat := none
  /-- Own edge of the beat in which `ATTN_JOB` steps take HBM time (R295). -/
  attnBeat : Option Nat := none
  /-- What the costs charged in this beat would rise by under an `ATTN_JOB` (R295). -/
  attnMore : Nat := 0
  deriving DecidableEq, Repr

/-! ## Tun and attention (R248 to R301) -/

/-- A chunk staged for the Tun in its accumulator slot (R273). -/
structure Staged where
  row : Nat
  /-- The chunk's group and partition, and the unit whose slot it keeps (R199, R200). -/
  grp : Nat
  part : Nat
  unit : Nat
  num : Nat
  payload : List Byte
  /-- Own edge at which it was staged. -/
  edge : Nat
  deriving DecidableEq, Repr

/-- A slice load on the load engine (R263, R264): the descriptor, the entry's words before it was `LOADING`, the source
chunks that have arrived, those still out, and the first failure with whether it was a translation's. -/
structure SliceLoad where
  id : Nat
  part : Nat
  ring : Nat
  idx : Nat
  words : List Word
  started : Bool
  oldA : Word
  oldB : Word
  got : SMap (List Byte)
  waiting : Nat
  fail : Option (Nat × Bool)
  /-- What its translations hold until it ends (R85, R308; log 155). -/
  uses : List Use := []
  /-- Source chunks still to be asked for: number, address, bytes. -/
  todo : List (Nat × Nat × Nat) := []
  deriving DecidableEq, Repr

/-- An attention job's working set: its pages' bytes (`none`: masked), its query rows, and its translations. -/
structure AttnWork where
  id : Nat
  pages : List (Option (List Byte))
  q : List (List Byte)
  uses : List Use
  deriving DecidableEq, Repr

/-- Tun, scale plane, staging, load engine and attention pass. -/
structure TunU where
  store : SMap Byte := []
  scale : SMap Byte := []
  staged : List Staged := []
  loads : List SliceLoad := []
  nextLoad : Nat := 0
  /-- Jobs admitted and not ended, in admission order: step numbers. -/
  jobs : List Nat := []
  /-- Chunks taken by the running `PROJECT` job: position and payload. -/
  taken : List (Nat × List Byte) := []
  /-- Activation rows of the running array job, as chunk payloads. -/
  acts : List (List (List Byte)) := []
  /-- Translations the running job holds. -/
  uses : List Use := []
  attn : List AttnWork := []
  deriving DecidableEq, Repr

/-! ## Memory tiers (R302 to R326) -/

/-- A move of one extent (R316). -/
structure ExtMove where
  part : Nat
  /-- Extent table entry. -/
  entry : Nat
  dest : Nat
  /-- Destination frame, and whether it is a shared one. -/
  frame : Nat
  shared : Bool
  /-- 0 copying, 1 to 3 repeat passes, 4 closed, 5 final pass done. -/
  pass : Nat
  /-- 4 KiB blocks written since they were copied, and those of the pass under way. -/
  dirty : List Nat
  copying : List Nat
  pinOp : Nat
  /-- Step of the `TIER_MOVE`; none for an eviction or a lending return. -/
  step : Option Nat
  /-- What an eviction vacates its frame for: a line operation, or the move of an extent. -/
  waiter : Option Nat
  forMove : Option Nat
  /-- The tile buffer held; none while the copy met `POOL_EMPTY`. -/
  buf : Option (Nat × Nat)
  /-- The tier that it leaves (R312). -/
  source : Nat
  deriving DecidableEq, Repr

/-- Extent table (words by entry), moves and frames. -/
structure TierU where
  ext0 : SMap Word := []
  ext1 : SMap Word := []
  moves : List ExtMove := []
  /-- Lending returns in progress: lend-in entry and mailbox. -/
  returns : List (Nat × Nat) := []
  deriving DecidableEq, Repr

/-! ## Sequencers (R327 to R345) -/

/-- What a thread waits for. -/
inductive ThreadWait where
  | none
  /-- A blocking request of this sequence number, with its destination register. -/
  | reply (seq rd : Nat)
  /-- A counter: index, target, beat edges left before the limit, destination register. -/
  | lc (idx target : Nat) (limit : Option Nat) (rd : Nat)
  /-- A beat and wake point. -/
  | beat (b : Nat) (endOfWindow : Bool) (rd : Nat)
  /-- A fence of a scope. -/
  | fence (scope : Nat)
  /-- Halting once its posted requests have replies. -/
  | halting
  deriving DecidableEq, Repr

/-- A hardware thread (R327, R337). -/
structure ThreadSt where
  running : Bool
  pc : Nat
  regs : SMap Word
  seqlc : Nat
  seqwait : Nat
  seqerr : Nat
  seqst : Nat
  /-- Posted requests and tile moves without replies (R336): number and instruction code. -/
  posted : List (Nat × Nat)
  nextSeq : Nat
  wait : ThreadWait
  /-- Address of an LR reservation, with its size. -/
  resv : Option (Nat × Nat)
  deriving DecidableEq, Repr

/-- How a core picks the thread that issues (R327, R328): the thread that last ran, the instructions it has issued since the
core switched to it (0 when the core is to switch), and the threads that woke from a `WAITLC` or `WAITBEAT` and have not
issued since. Before any has run the round begins at thread 0 (log 143). -/
structure CoreTurn where
  last : Nat := 31
  run : Nat := 0
  woken : List Nat := []
  deriving DecidableEq, Repr

/-- An image of a `SEQ_LOAD` that its reads bring in (R341): its number, its mailbox and partition, its fabric address, the
bytes read so far, how many are asked for, and the status of a read that failed. -/
structure ImageLoad where
  id : Nat
  mbx : Nat
  part : Nat
  addr : Nat
  got : List Byte
  want : Nat
  fail : Option Nat
  deriving DecidableEq, Repr

/-- Sequencer cores (R327 to R345): local memory of core c at 2^20·c + local address; images as last loaded. -/
structure SeqU where
  mem : SMap Byte := []
  turns : SMap CoreTurn := []
  threads : SMap ThreadSt := []
  /-- Entry point, threads and stack bytes of each core's image. -/
  image : SMap (Nat × Nat × Nat) := []
  /-- `SEQ_STOP` commands in progress: mailbox and cores. -/
  stops : List (Nat × List Nat) := []
  /-- Images being read, and the number of the next. -/
  images : List ImageLoad := []
  nextImage : Nat := 0
  deriving DecidableEq, Repr

/-! ## Links (R346 to R379, R546) -/

/-- A block in the replay buffer (R357). -/
structure TxBlock where
  bseq : Nat
  flits : List Flit
  slot : Nat
  sends : Nat
  deriving DecidableEq, Repr

/-- A packet being received: header flit words and payload words so far. -/
structure RxPart where
  hdr : Flit
  payload : List Flit
  deriving DecidableEq, Repr

/-- A pending counter wait of an accelerator (R374). -/
structure LcWait where
  id : Nat
  part : Nat
  idx : Nat
  target : Word
  limit : Nat
  /-- Beat edges passed since it arrived. -/
  edges : Nat
  deriving DecidableEq, Repr

/-- An attach message that waits for credits: its flits, and for a grant the line, and whether the agent was a sharer and the
owner before it (R546). -/
structure AttachOut where
  flits : List Flit
  undo : Option (Nat × Bool × Bool)
  deriving DecidableEq, Repr

/-- The codewords of a lane's evaluation (R364): received, not correctable, and the most symbols corrected in one. -/
structure LaneEval where
  words : Nat
  bad : Nat
  worst : Nat
  deriving DecidableEq, Repr

/-- One end of an Azust Link (R346 to R368). -/
structure Link where
  txSeq : Nat
  unacked : List TxBlock
  goBack : Option Nat
  rxSeq : Nat
  /-- A block was found bad and the expected one has not yet arrived good. -/
  rxBad : Bool
  part : Option RxPart
  /-- A whole packet waits for the flit that follows it (R368). -/
  whole : Option Pkt
  /-- An attach message waits for its data flit. -/
  attach : Option Flit
  /-- Own edge of the last `BEAT` flit or of entry to `ACTIVE` (R366). -/
  lastBeat : Nat
  /-- Training (R364): lanes lit here, step under way, phase 0 lock, 1 speed, 2 evaluation, 3 settle. -/
  lit : Nat
  step : Nat
  phase : Nat
  helloSent : Bool
  peerLit : Nat
  peerId : Nat
  version : Nat
  /-- Lanes locked at the current step. -/
  locked : Nat
  /-- Lanes that passed here and at the peer, plus one, by step. -/
  evalOwn : SMap Nat
  evalPeer : SMap Nat
  /-- What each lane's receiver has counted since its taps last moved. -/
  evals : SMap LaneEval
  /-- `READY` has been sent; a `SPEED_ACK` has been given or received, and the switch to the next step is due. -/
  readySent : Bool
  switchDue : Bool
  lcWaits : List LcWait
  /-- Attach-message credits held from the peer, by class. -/
  attachCr : Nat
  attachQ : List AttachOut
  /-- Control slots owed (type and body), a `NAK` owed, an `ACK` owed, blocks sent since the last `ACK` (R352). -/
  slots : List Nat
  nakDue : Bool
  ackDue : Bool
  sinceAck : Nat
  /-- Blocks that wait for the replay buffer (R357): beat frames, and the rest of a packet that cuts through. -/
  txQ : List (List Flit)
  /-- Blocks sent, resent ones too: the number that chooses the lane (R350). -/
  sent : Nat
  deriving DecidableEq, Repr

/-- All links. -/
structure LinkU where
  ports : SMap Link := []
  deriving DecidableEq, Repr

/-! ## Partitions and sealing (R413 to R442) -/

/-- A pair of sender and partition of the replay table (R425): highest counter accepted, and the window of 4,096 values
below it. -/
structure Replay where
  src : Nat
  part : Nat
  top : Nat
  window : BitVec 4096
  deriving DecidableEq, Repr

/-- A Sparge under way (R417): partition, whether HBM is scrubbed, mailbox of the command; phase 1 still waits for a
command of the partition's mailbox; phase 2 has begun; tile buffers that the partition held. -/
structure Sparge where
  part : Nat
  hbm : Bool
  mbx : Nat
  closing : Bool
  quiet : Bool
  tiles : Nat
  deriving DecidableEq, Repr

/-- Keys, seal counters, replay table, the packets that wait for the lock, Sparges and firmware images. -/
structure PartU where
  /-- Partition keys (R428). -/
  keys : SMap (Option (BitVec 256)) := []
  /-- Seal counters by 32·sender + partition (R423). -/
  ctrs : SMap Nat := []
  replay : List Replay := []
  /-- Replay floors by partition (R425). -/
  floors : SMap Nat := []
  /-- Packets that wait to be sealed until the module locks: port and packet. -/
  sealWait : List (Nat × Pkt) := []
  sparges : List Sparge := []
  /-- Beat of the last `PART_CREATE` and Sparges since power-on, by partition (R441). -/
  created : SMap Nat := []
  sparged : SMap Nat := []
  /-- The staged image, and the flash image once it has been written (R436, R437). -/
  staged : Option (List Byte) := none
  flash : Option (List Byte) := none
  /-- `FW_COMMIT` in progress: its mailbox and whether the fuses advance. -/
  commit : Option (Nat × Bool) := none
  /-- SHA-384 of the running image's kernel, service and data sections (R433, R441): none before an image runs. -/
  hashes : List (BitVec 384) := []
  deriving DecidableEq, Repr

/-! ## Mailboxes (R388 to R400) -/

/-- Mailbox commands that were taken and wait for their condition, and those that a core reset holds (R391). -/
structure HostU where
  running : List Nat := []
  held : List Nat := []
  /-- Mailboxes with a command in progress, in the order of their `GO` writes (R390). -/
  order : List Nat := []
  /-- Mailboxes whose command the restart of the service firmware ends: it completes with `TIMEOUT` (R431). -/
  doomed : List Nat := []
  /-- The AER capability shows an Uncorrectable Internal Error (R385). -/
  aer : Bool := false
  /-- The HDM decoder (R382): first host physical address of its range of 256 GiB. `HDM_COMMITTED` shows its commitment. -/
  hdmBase : Nat := 0
  /-- What the host wrote of the decoder's registers: 0 its base, 1 its size, 2 its control (log 94). -/
  hdmRegs : SMap Word := []
  /-- The MSI-X table in BAR2 by its 64-bit words (R386): of vector v, word 2·v its address and word 2·v + 1 its data and, from
  bit 32 on, its control; and the vectors that its Pending Bit Array shows. -/
  msix : SMap Word := []
  msixPend : List Nat := []
  deriving DecidableEq, Repr

/-! ## Governor and fabric health (R445 to R474) -/

/-- A ramp grant: who holds it, its tag, its first beat, the beat at which it ends, and its slope in mW per ms. -/
structure Ramp where
  ep : Nat
  req : Nat
  start : Nat
  stop : Nat
  slope : Nat
  deriving DecidableEq, Repr

/-- Power governor and arbiter. -/
structure PgovU where
  /-- The envelope E in µW (R446). -/
  env : Nat := 0
  /-- The first edge after a core reset sets E to the draw (R452). -/
  fresh : Bool := false
  /-- A write of `PGOV_CAP` during an alert, kept until it ends (R451). -/
  capKept : Option Nat := none
  /-- The request out: its tag, the endpoint asked and the beat. -/
  asked : Option (Nat × Nat × Nat) := none
  nextReq : Nat := 0
  /-- Beat from which the module may ask again, the first candidate of the list to ask, and whether it ramps without an
  answer. -/
  askAt : Nat := 0
  skip : Nat := 0
  solo : Bool := false
  /-- The grant held. -/
  grant : Option Ramp := none
  /-- The arbiter's ledger, the beat since which this module is first in its own view, and the time at which it took the
  role, 1/256 ns. -/
  ledger : List Ramp := []
  firstSince : Option Nat := none
  actingAt : Option Nat := none
  /-- Times of the expulsions granted as arbiter. -/
  expels : List Nat := []
  deriving DecidableEq, Repr

/-- An event of Gravity (R459): kind 0 port, 1 peer, 2 stack; what it counts against, its weight and its bucket. -/
structure GEvent where
  kind : Nat
  idx : Nat
  weight : Nat
  bucket : Nat
  deriving DecidableEq, Repr

/-- An expulsion asked for: tag, peer or port, its number, and the beat. -/
structure Expel where
  req : Nat
  peer : Bool
  idx : Nat
  beat : Nat
  deriving DecidableEq, Repr

/-- Health monitor. -/
structure HealthU where
  events : List GEvent := []
  bucket : Nat := 0
  asks : List Expel := []
  /-- Beat at which the last port of a peer left `ACTIVE`, by entry. -/
  downAt : SMap (Option Nat) := []
  /-- Accelerator slot of the peer of an entry; none for a fabric peer (R462). -/
  slots : SMap (Option Nat) := []
  /-- Ports that a re-admission has dropped since the last edge: an event of theirs in the same cycle still counts (R469). -/
  justDown : List Nat := []
  deriving DecidableEq, Repr

/-! ## The Cask (R475 to R496) -/

/-- The Cask: its own state, kept through every reset of the module. -/
structure CaskU where
  running : Bool := false
  /-- Energy in and out in µW samples: 16,000,000 make 1 mJ. -/
  accIn : Nat := 0
  accOut : Nat := 0
  /-- The samples of the last second and those taken since, oldest first; how many since `SECONDS` last rose, and in all
  since the Cask last started. -/
  window : List Sample := []
  since : Nat := 0
  count : Nat := 0
  seconds : Nat := 0
  seq : Nat := 0
  eventCount : Nat := 0
  /-- Event log, oldest first: code, `SECONDS`, `EVENTS`. -/
  log : List (Nat × Nat × Nat) := []
  /-- Pins: the cover is open, `CASK_CAL_EN_N` is low. -/
  tamper : Bool := false
  calEn : Bool := false
  /-- Sample count at the latest `OVERRANGE`, `CLOCK_FAULT` and `SELFTEST_FAIL`. -/
  overAt : Option Nat := none
  clockAt : Option Nat := none
  selfAt : Option Nat := none
  /-- Difference of the crystal from the internal reference, in parts per 10⁶. -/
  ppm : Int := 0
  /-- Latest readout. -/
  readout : List Word := []
  serial : Nat := 0
  fwImage : List Byte := []
  fwVer : Nat := 0
  /-- Blocks of a firmware image taken so far (R488). -/
  stage : List Byte := []
  /-- The current has not yet fallen to 1.2 × I_max since the latest `OVERRANGE` (R485). -/
  high : Bool := false
  /-- Status frames sent: the gaps after them carry the certificate and the event log in turn (R489; log 164). -/
  frames : Nat := 0
  cal : SMap Word := []
  /-- `CASK_PULSE` pulses given. -/
  pulses : Nat := 0
  deriving DecidableEq, Repr

/-- The CASK shadow block beyond its registers: the certificate and log as received. -/
structure ShadowU where
  cert : List Byte := []
  log : Option (List (Word × Word)) := none
  deriving DecidableEq, Repr

/-! ## Reset, bring-up, management (R497 to R544) -/

/-- The boot record (R513): its `SELF_ID`, `FULL_REQ`, Tun column map, SRAM repair map, the stacks' row repairs, the serial
number and the CRC-32. -/
structure BootRecord where
  selfId : Nat := 0
  full : Bool := false
  cols : List (BitVec 10) := []
  sram : List Nat := []
  rows : List (Nat × Nat) := []
  serial : Word := 0
  crc : Nat := 0
  deriving DecidableEq, Repr

/-- An access of the Ikio monitor to memory. -/
structure IkioAcc where
  write : Bool
  waiting : Nat
  got : SMap (List Byte)
  fail : Option Nat
  deriving DecidableEq, Repr

/-- Reset logic, ROM, calibration store, and the management interfaces. -/
structure ResetU where
  /-- Power-on reset is held (R497); the module is off until its input cycles (R529, R541). -/
  por : Bool := true
  off : Bool := false
  /-- Reset in force: 0 none, 1 core, 2 system (R498). -/
  level : Nat := 0
  /-- A core reset runs until the internal ports reopen (R391). -/
  core : Bool := false
  /-- This bring-up is a full boot (R508). -/
  full : Bool := true
  boot : BootRecord := {}
  /-- The boot record has been written since the last edge: a loss of power leaves it invalid (R513; log 165). -/
  recording : Bool := false
  /-- Repairs in force: of on-die SRAM, and of the stacks' rows in a full boot (R508). -/
  sram : List Nat := []
  rows : List (Nat × Nat) := []
  /-- Power-on reset has been released with `RESET_N` low: the module stays in reset (R503). -/
  pinHeld : Bool := false
  /-- Level of `MGMT_INT_N` that a system reset holds (R504); `P3V3_AUX` is on (R532). -/
  intHeld : Option Bool := none
  aux : Bool := false
  /-- Edges of phase 8 since it began: 1,024 with ballast duty 1, and then duty 0 (R511). -/
  trial : Nat := 0
  /-- Recovery (R439): the source waited on and whether its transfer has begun; the ROM's port for a neighbour's image and
  the lowest port still to try, the bytes read, the next offset to read, the reads out, and the length (0 unknown). -/
  wait : Option Nat := none
  transfer : Bool := false
  port : Option Nat := none
  from_ : Nat := 0
  image : SMap Byte := []
  next : Nat := 0
  asked : Nat := 0
  imageLen : Nat := 0
  /-- Ikio memory access in progress (R522): it writes, its packets without a reply, the bytes read by address, and its
  first failure. -/
  ikio : Option IkioAcc := none
  /-- Calibration store: bytes written over the factory's, by offset; a write of it failed; the values in force, over the
  factory's or over the ROM's default values (R515 to R519). -/
  store : SMap Byte := []
  storeBad : Bool := false
  /-- `FACTORY` and `WRITE_COUNT` in the store, once the module has read or written them. -/
  storeHead : Option (Nat × Nat) := none
  cal : SMap Byte := []
  calRom : Bool := false
  /-- Sections written that take effect later: 0 at each port's next training, 1 and 2 at the next edge (R519). -/
  calNew : List Nat := []
  /-- `CAL_WRITE` in progress: mailbox, section, new bytes. -/
  calWrite : Option (Nat × Nat × List Byte) := none
  mgmtAddr : Nat := 0
  /-- The two-wire target answers (R534). -/
  wire : Bool := false
  /-- Bring-up phase 1 has sensed the laser source units (R348). -/
  sensed : Bool := false
  perst : Bool := false
  /-- Test access port: instruction (0 BYPASS, 1 SAMPLE/PRELOAD, 2 EXTEST, 3 IDCODE) and boundary register. -/
  tap : Nat := 3
  scan : List Bool := []
  deriving DecidableEq, Repr

/-! ## Outputs -/

/-- Level of an electrical output pin; `released` is open drain and not driven, `floating` high impedance (R532). -/
inductive PinLevel where
  | low | high | released | floating | on | off
  deriving DecidableEq, Repr

/-- What the block sends to the outside. -/
inductive Out where
  /-- A block on a lane of a port: ten flits and a control slot in one codeword (R349 to R351). -/
  | block (p lane : Nat) (word : BitVec 5440)
  /-- A training message on a port (R361). -/
  | train (p : Nat) (f : Flit)
  /-- An attach message with its data flit (R372). -/
  | attach (p : Nat) (f : Flit) (data : Option Flit)
  /-- A Translation Request of the ATS client (R77), an Invalidation Completion (R81). -/
  | atsRequest (part pasid va : Nat)
  | invalDone (itag : Nat)
  /-- A read or write of host physical memory over CXL.io. -/
  | hostRead (addr len : Nat)
  | hostWrite (addr : Nat) (bytes : List Byte)
  /-- A CXL.cache access to a host line: address, and the bytes of a write. -/
  | cache (addr len : Nat) (wr : Option (List Byte))
  /-- Zero fill of a 2 MiB frame at a lender (tier 1) or in host memory (tier 2) (R309). -/
  | fill (tier addr : Nat)
  /-- Copied bytes of an extent written at a lender (tier 1) or in host memory (tier 2) (R316). -/
  | tierWrite (tier addr : Nat) (bytes : List Byte)
  /-- A back-invalidation snoop of an HDM line, or of the whole range. -/
  | backInval (line : Option Nat)
  /-- The answer to a host access: a register read, an HDM read or write, a snoop. -/
  | hostData (w : Word)
  | hdmData (addr : Nat) (bytes : List Byte) (cacheable : Bool)
  | hdmDone (addr : Nat) (cacheable : Bool)
  /-- An Uncorrectable Internal Error reported through the AER capability (R385). -/
  | aerInternal
  | snoopRsp (addr : Nat) (retry : Bool)
  /-- A reply addressed to the host endpoint, served over the CXL host path (R17). -/
  | hostReply (p : Pkt)
  /-- An MSI-X message (R387). -/
  | msix (vec : Nat)
  /-- A pool buffer given to a unit, or its request ended with a status (R189, R190). -/
  | buffer (k idx : Nat)
  | poolEnd (k status : Nat)
  /-- A line of the Ikio console; below, a register of the test access port. -/
  | uart (line : String)
  /-- The line just taken goes back on `UART_TX` as it was typed (R521). -/
  | uartEcho
  /-- What the target at a two-wire address answers: it acknowledges, and on a read these bytes follow (R534). -/
  | twoWire (addr : Nat) (bytes : List Byte)
  | tap (bits : List Bool)
  /-- An output pin takes a level. -/
  | pin (name : String) (level : PinLevel)
  /-- A frame of `CASK_LINK` with its CRC-32; an answer of the Cask's own two-wire bus, and its acknowledgement of a write. -/
  | caskFrame (f : CaskFrame) (crc : Nat)
  | caskWire (bytes : List Byte)
  | caskAck
  deriving DecidableEq, Repr

/-- The state of the block. -/
structure State where
  /-- Commands that wait, first in, first out. -/
  pending : List Instr := []
  /-- Every register that does not hold its power-on value, by number and index. -/
  regs : SMap (SMap Word) := []
  /-- What the block has sent, oldest first. -/
  out : List Out := []
  /-- Free values used so far: the model's own field (log 3). -/
  free : Nat := 0
  /-- HBM4E contents; an unlisted byte reads 0 (log 2). -/
  hbm : List Host.Cell := []
  /-- Lines of HBM into which the next record written fails its parity (R90): address / 64. -/
  badLines : List Nat := []
  /-- Lines of HBM of which a tile mover's next read keeps failing (R303). -/
  badReads : List Nat := []
  tm : TimeU := {}
  xl : XlatU := {}
  tr : TrackU := {}
  dir : List DirEntry := []
  xb : XbarU := {}
  pl : PoolU := {}
  ra : RdxU := {}
  st : StepU := {}
  tu : TunU := {}
  ti : TierU := {}
  sq : SeqU := {}
  lk : LinkU := {}
  pa : PartU := {}
  hm : HostU := {}
  pg : PgovU := {}
  he : HealthU := {}
  ck : CaskU := {}
  sh : ShadowU := {}
  rs : ResetU := {}
  deriving DecidableEq, Repr

/-- The state right after reset: power-on reset held, every register at its power-on value, every table empty
(R497, R501). -/
def State.reset : State := {}

/-- Why a command stops the model: no rule of the spec gives the block such a stop, and no meaning raises one. -/
inductive Fault where
  /-- Raised by nobody; safe. -/
  | none
  deriving DecidableEq, Repr

/-- Why a command has no meaning. -/
inductive Refusal where
  /-- The command of this mnemonic is not modelled: raised by its arm of the dispatch; safe. -/
  | notModelled (mnemonic : String)
  deriving DecidableEq, Repr

end Sys2Proof.Machine
end

