-- ==== Sys2Proof/Machine/Ops.lean ====
section
/-! DEFINITION. The named operations on registers, outputs, free values and memory: the one place where a register is
read, written and reset. -/

namespace Sys2Proof.Machine

/-! ## Register reset values -/

/-- Buffers of pool `k` (R189): pool 0 without the switch core's reserve at its power-on value (R181). -/
def poolCount (k : Nat) : Nat := [131072, 16384, 2048, 1024, 32].getD k 0

/-- The columns of the register tables for register number `id`. -/
def regInfoOf (id : Nat) : RegInfo := regInfo.getD id ⟨0, 0, 0, 0, 0, 0⟩

/-- The power-on value of a register (the POR column). -/
def porValue (k : Key) : Nat :=
  if k.id = (POOL_FREE 0).id ∨ k.id = (POOL_LOW_MARK 0).id then
    (if k.idx = 0 then 131072 - 0xC000 else poolCount k.idx)
  else if k.id = (POOL_WARN 0).id then [4096, 512, 64, 32, 2].getD k.idx 0
  else if k.id = (MB_STATUS 0).id then (regInfoOf k.id).por + (if k.idx < 32 then k.idx else 0xFF) * 2 ^ 32
  else if k.idx = 0 then (regInfoOf k.id).por0 else (regInfoOf k.id).por

/-- The power-on value as a word. -/
def porWord (id idx : Nat) : Word := BitVec.ofNat 64 (porValue ⟨id, idx⟩)

/-! ## Registers and fields -/

/-- A register's value. -/
def State.reg (s : State) (k : Key) : Word := mget (porWord k.id k.idx) (mget [] s.regs k.id) k.idx

/-- The state with a register set. -/
def State.setReg (s : State) (k : Key) (v : Word) : State :=
  { s with regs := mset [] s.regs k.id (mset (porWord k.id k.idx) (mget [] s.regs k.id) k.idx v) }

/-- A field's value. -/
def State.get (s : State) (f : Fld) : Nat := bits (s.reg f.key) f.hi f.lo

/-- The state with a field set to `n`, modulo the field's width. -/
def State.put (s : State) (f : Fld) (n : Nat) : State := s.setReg f.key (setBits (s.reg f.key) f.hi f.lo n)

/-- A register's value as a number. -/
def State.rd (s : State) (k : Key) : Nat := (s.reg k).toNat

/-- The state with a register set to a number. -/
def State.wr (s : State) (k : Key) (n : Nat) : State := s.setReg k (BitVec.ofNat 64 n)

/-- One more in a wrapping 64-bit counter. -/
def State.bump (s : State) (k : Key) : State := s.setReg k (s.reg k + 1)

/-- `n` more in a wrapping 64-bit counter. -/
def State.bumpBy (s : State) (k : Key) (n : Nat) : State := s.setReg k (s.reg k + BitVec.ofNat 64 n)

/-- The state with a one-bit field set. -/
def State.flag (s : State) (f : Fld) : State := s.put f 1

/-- A one-bit field. -/
def State.on (s : State) (f : Fld) : Bool := s.get f == 1

/-! ## Outputs and free values -/

/-- The state after sending something. -/
def State.emit (s : State) (o : Out) : State := { s with out := s.out ++ [o] }

/-- A word of the MSI-X table (R386). A vector is masked until the host clears its mask bit (log 112). -/
def State.msixWord (s : State) (i : Nat) : Word := mget (if i % 2 = 1 then 0x100000000 else 0) s.hm.msix i

/-- Send the message of an MSI-X vector (R387), or show it as pending while the vector is masked (R386). -/
def State.sendMsix (s : State) (v : Nat) : State :=
  if (s.msixWord (2 * v + 1)).getLsbD 32 then
    if s.hm.msixPend.contains v then s else { s with hm := { s.hm with msixPend := s.hm.msixPend ++ [v] } }
  else s.emit (.msix v)

/-- A free value, and the state in which it is used up (log 3). -/
def State.take (s : State) : Word × State := (Config.freeValue s.free, { s with free := s.free + 1 })

/-! ## Beat and time -/

/-- The current beat number (R30). -/
def State.beat (s : State) : Nat := s.rd TIME_BEAT_NOW

/-- Own edges counted since power-on: the clock of every wait of so many beats, which a renumbering under R40 leaves alone. -/
def State.edge (s : State) : Nat := s.tm.edges

/-- Locked to the beat (R40). -/
def State.locked (s : State) : Bool := s.on TIME_STATUS_LOCKED

/-- The beat length in 1/256 ns (R31). -/
def State.beatLen (s : State) : Nat := 512 * 256 * 2 ^ s.get TIME_CONFIG_BEAT_LEN

/-- The end of the scheduled window after the edge, in 1/256 ns (R43). -/
def State.windowEnd (s : State) : Nat := s.beatLen * s.get TIME_CONFIG_SCHED_FRAC / 16

/-- Cost entry `k` (R53). -/
def State.cost (s : State) (k : Nat) : Nat := s.get (TIME_COST_COST k)

/-- `a` has reached `b` as 64-bit numbers that wrap (R147). -/
def reached (a b : Word) : Bool := decide ((a - b).toNat < 2 ^ 63)

/-! ## Identifiers -/

/-- This module's endpoint identifier. -/
def State.selfId (s : State) : Nat := s.get XLAT_EP_SELF_SELF_ID

/-- The identifier in endpoint slot `k`: 0 the module, 1 to 4 the accelerators, 5 the host (R64, R548). -/
def State.slotId (s : State) (k : Nat) : Nat :=
  match k with
  | 0 => s.selfId
  | 1 => s.get XLAT_EP_ACCEL_ACCEL0_ID
  | 2 => s.get XLAT_EP_ACCEL_ACCEL1_ID
  | 3 => s.get XLAT_EP_ACCEL_ACCEL2_ID
  | 4 => s.get XLAT_EP_ACCEL_ACCEL3_ID
  | 5 => s.get XLAT_EP_SELF_HOST_ID
  | _ => 0xFFFF

/-- The slot that owns an identifier, when this module owns it (R64); 0xFFFF is unassigned. -/
def State.slotOf (s : State) (e : Nat) : Option Nat :=
  if e = 0xFFFF then none else (List.range 6).find? (fun k => s.slotId k == e)

/-- The module owns the identifier. -/
def State.owns (s : State) (e : Nat) : Bool := (s.slotOf e).isSome

/-- The endpoint is marked in `XBAR_LOST` (R167). -/
def State.lost (s : State) (e : Nat) : Bool := bit (s.reg (XBAR_LOST (e / 64))) (e % 64)

/-- The endpoint is marked in `HEALTH_FENCED` (R465). -/
def State.fenced (s : State) (e : Nat) : Bool := bit (s.reg (HEALTH_FENCED (e / 64))) (e % 64)

/-- The state with an endpoint's mark of one of the two kinds set or cleared. -/
def State.mark (s : State) (k : Nat → Key) (e : Nat) (b : Bool) : State :=
  s.setReg (k (e / 64)) (setBits (s.reg (k (e / 64))) (e % 64) (e % 64) (b2n b))

/-- A partition is active (R74 check 1, R414). -/
def State.partActive (s : State) (n : Nat) : Bool := s.get (PART_STATE_STATE n) == 1

/-- A partition is confidential: its policy is `CONFIDENTIAL_LOCK` (R415). -/
def State.confidential (s : State) (n : Nat) : Bool := s.get (PART_STATE_POLICY n) == 1

/-- The ports of an accelerator slot (0 to 3): attach ports whose `ACCEL_SLOT` names it. -/
def State.slotPorts (s : State) (a : Nat) : List Nat :=
  (List.range 96).filter (fun p => s.get (PORT_CFG_MODE p) == 0 && s.get (XBAR_PORT_CFG_ACCEL_SLOT p) == a)

/-! ## HBM4E -/

/-- The stack of an HBM physical address, and whether it is in service (R302, R303). -/
def State.stackUp (s : State) (a : Nat) : Bool := (s.get MEM_HBM_STATUS_IN_SERVICE).testBit (a / 2 ^ 36 % 4)

/-- The state with bytes written to HBM4E. -/
def State.hbmWrite (s : State) (a : Nat) (bs : List Byte) : State := { s with hbm := writeBytes s.hbm a bs }

/-- Bytes of HBM4E. -/
def State.hbmRead (s : State) (a n : Nat) : List Byte := readBytes s.hbm a n

/-- The state with bytes written to the Tun store. -/
def State.tunWrite (s : State) (a : Nat) (bs : List Byte) : State :=
  { s with tu := { s.tu with store := writeBytes s.tu.store a bs } }

/-- The CXL link is up. -/
def State.cxlUp (s : State) : Bool := s.on GLOBAL_CXL_STATUS_LINK_UP

/-- A write of host physical memory: performed while the link is up, unless the link reports it in error, which is a
free value (R90, R405; log 5). -/
def State.hostWrite (s : State) (a : Nat) (bs : List Byte) : Bool × State :=
  if s.cxlUp then
    let (v, s) := s.take
    (bit v 0, if bit v 0 then s.emit (.hostWrite a bs) else s)
  else (false, s)

/-- A write to memory named by a location bit: 0 HBM physical, 1 host physical; whether it was performed: not outside
memory, nor where a word keeps failing its parity (R90; log 142). -/
def State.locWrite (s : State) (loc a : Nat) (bs : List Byte) : Bool × State :=
  if loc = 1 then s.hostWrite a bs
  else if a + bs.length ≤ 2 ^ 38 ∧ s.stackUp a then
    let bad := fun (l : Nat) => decide (a / 64 ≤ l) && decide (64 * l < a + bs.length)
    if s.badLines.any bad then (false, { s with badLines := s.badLines.filter (fun l => !bad l) }) else (true, s.hbmWrite a bs)
  else (false, s)

/-! ## Reading and writing through BAR0 -/

/-- The register at a BAR0 offset. -/
def findReg (off : Nat) : List AddrRow → Option Key
  | [] => none
  | r :: rest =>
    if r.base ≤ off then
      let d := off - r.base
      let i := if r.s1 = 0 then 0 else d / r.s1
      let e := if r.s1 = 0 then d else d % r.s1
      let j := if r.s2 = 0 then 0 else e / r.s2
      let x := if r.s2 = 0 then e else e % r.s2
      if x = 0 ∧ i < r.c1 ∧ j < r.c2 then some ⟨r.id, r.idx0 + i * r.m1 + j⟩ else findReg off rest
    else findReg off rest

/-- The offset belongs to a unit that `GLOBAL_OPTIONS` reports absent (R198, R53, R543): the Tun's block, its costs, its
ballast and pool 3; the attention pass; tiers and HBM4E, but for the directory. -/
def State.unitAbsent (s : State) (off : Nat) : Bool :=
  let within := fun (a b : Nat) => decide (a ≤ off) && decide (off < b)
  (!s.on GLOBAL_OPTIONS_TUN_PRESENT &&
    (within 0x340000 0x380000 || within 0x2001C0 0x200200 || within 0x40168 0x40178 || within 0x50068 0x50070)) ||
  (!s.on GLOBAL_OPTIONS_ATTN_PRESENT && within 0x348000 0x350000) ||
  (!s.on GLOBAL_OPTIONS_HBM_PRESENT && (within 0x400000 0x470000 || within 0x40178 0x40188))

/-- What a read of BAR0 returns: the register, a route or group window of the selected bank (R197), 0 elsewhere and
for write-only bits. -/
def State.readBar (s : State) (off : Nat) : Word :=
  match findReg off regAddr with
  | none => 0
  | some k =>
    let bank := s.get XBAR_RT_WIN_SEL_BANK
    if k.id = (XBAR_ROUTE 0).id then mget 0 s.xb.routes (65536 * bank + k.idx)
    else if k.id = (XBAR_GROUP 0 0).id then mget 0 s.xb.groups (512 * bank + k.idx)
    else if k.id = (MB_CTRL 0).id then 0
    else s.reg k

/-- A host write by the access columns: RW1C bits written 1 clear, direct RW bits take the value, the rest is ignored
(R6, R10). -/
def State.plainWrite (s : State) (k : Key) (v : Word) : State :=
  let i := regInfoOf k.id
  let clr := BitVec.ofNat 64 i.w1c
  let dir := BitVec.ofNat 64 i.wr
  s.setReg k (((s.reg k &&& ~~~(clr &&& v)) &&& ~~~dir) ||| (v &&& dir))

end Sys2Proof.Machine
end

