-- ==== Sys2Proof/Machine/Flags.lean ====
section
/-! DEFINITION. Status codes and state codes, and the status bits and counters that follow from other state. -/

namespace Sys2Proof.Machine

/-! ## Status codes (R14) -/

def stOK : Nat := 0
def stFAULT : Nat := 1
def stFAULT_DROPPED : Nat := 2
def stTARGET_LOST : Nat := 3
def stMEMBER_LOST : Nat := 4
def stPOOL_EMPTY : Nat := 5
def stSTATE_CONFLICT : Nat := 6
def stACCESS_DENIED : Nat := 7
def stPARITY : Nat := 8
def stTIMEOUT : Nat := 9
def stGRANULE : Nat := 0xA
def stVERSION : Nat := 0xB
def stQUOTA : Nat := 0xC
def stFENCED : Nat := 0xD

/-! ## State codes (R396, R443, R472, R493, R523) -/

def scUNIT_ABSENT : Nat := 1
def scNO_HELLO : Nat := 2
def scCORE_RESET : Nat := 3
def scPART_INACTIVE : Nat := 4
def scNOT_TIME_ROOT : Nat := 0x10
def scGRID_PENDING : Nat := 0x11
def scSCHED_OFF : Nat := 0x12
def scNOT_LOCKED : Nat := 0x13
def scEPOCH_PENDING : Nat := 0x20
def scEPOCH_PAST : Nat := 0x21
def scBANK_DRAINING : Nat := 0x22
def scGROUP_ACTIVE : Nat := 0x30
def scGROUP_QUARANTINE : Nat := 0x31
def scGROUP_NOT_ACTIVE : Nat := 0x32
def scGROUP_NOT_SUSPENDED : Nat := 0x33
def scGROUP_BUSY : Nat := 0x34
def scGROUP_FREE : Nat := 0x35
def scMC_IN_USE : Nat := 0x36
def scMC_FREE : Nat := 0x37
def scTUN_FAILED : Nat := 0x40
def scSLICE_PRESENT : Nat := 0x41
def scSLICE_FREE : Nat := 0x42
def scSLICE_BUSY : Nat := 0x43
def scSLICE_EMPTY : Nat := 0x44
def scBIND_IN_USE : Nat := 0x45
def scBIND_FREE : Nat := 0x46
def scTUN_BUSY : Nat := 0x47
def scKV_NOT_RESIDENT : Nat := 0x48
def scSHARE_IN_USE : Nat := 0x50
def scTIER_IN_USE : Nat := 0x51
def scQUOTA_IN_USE : Nat := 0x52
def scEXTENT_IN_USE : Nat := 0x53
def scEXTENT_BUSY : Nat := 0x54
def scLEND_IN_USE : Nat := 0x55
def scLEND_FREE : Nat := 0x56
def scWINDOW_IN_USE : Nat := 0x57
def scLENT_WINDOW : Nat := 0x58
def scSEQ_RUNNING : Nat := 0x60
def scSEQ_EMPTY : Nat := 0x61
def scSEQ_NOT_RUNNING : Nat := 0x62
def scPORT_NOT_DISABLED : Nat := 0x70
def scPORT_ISOLATED : Nat := 0x71
def scPORT_NOT_ACTIVE : Nat := 0x72
def scRING_ACTIVE : Nat := 0x80
def scRING_FREE : Nat := 0x81
def scRING_BUSY : Nat := 0x82
def scPART_NOT_FREE : Nat := 0x100
def scPART_NOT_ACTIVE : Nat := 0x101
def scPART_SPARGING : Nat := 0x102
def scPART_NOT_SCRUBBED : Nat := 0x103
def scFW_NOT_STAGED : Nat := 0x110
def scFW_WRITING : Nat := 0x111
def scFW_STAGING : Nat := 0x112
def scCONTROL_WINDOW : Nat := 0x200
def scPEER_NOT_LIVE : Nat := 0x201
def scPEER_NOT_FENCED : Nat := 0x202
def scPEER_NOT_PRESENT : Nat := 0x203
def scFENCE_EPOCH_STALE : Nat := 0x204
def scPORT_NOT_ISOLATED : Nat := 0x205
def scCASK_LINK_DOWN : Nat := 0x300
def scCASK_NO_READOUT : Nat := 0x301
def scCASK_NO_CERT : Nat := 0x302
def scBRINGUP : Nat := 0x400
def scFLASH_BUSY : Nat := 0x401

/-! ## Derived status -/

/-- Records in a partition's fault queue (R88). -/
def State.fqDepth (s : State) (n : Nat) : Nat :=
  (s.get (XLAT_FQ_PROD_IDX n) + 2 ^ 32 - s.get (XLAT_FQ_CONS_IDX n)) % 2 ^ 32

/-- `FULL` of a fault queue follows its indices (R88). -/
def State.fqFull (s : State) (n : Nat) : State := s.put (XLAT_FQ_STATUS_FULL n) (b2n (s.fqDepth n == 4096))

/-- `FIBRE_ALLOW_LOW`: a link delay exceeds `TIME_FIBRE_ALLOW` (R55). -/
def State.fibreLow (s : State) : State :=
  s.put TIME_STATUS_FIBRE_ALLOW_LOW (b2n ((List.range 96).any (fun p =>
    s.on (TIME_LINK_DELAY_VALID p) && decide (s.rd TIME_FIBRE_ALLOW < s.get (TIME_LINK_DELAY_DELAY p)))))

/-- The greatest of a register's value and a new one. -/
def State.raise (s : State) (k : Key) (n : Nat) : State := if s.rd k < n then s.wr k n else s

/-- Completion records that a ring's completion queue holds (R404). -/
def State.cqDepth (s : State) (n r : Nat) : Nat :=
  (s.get (RING_CQ_PROD_IDX n r) + 2 ^ 32 - s.get (RING_CQ_CONS_IDX n r)) % 2 ^ 32

/-- A landing counter's value. -/
def State.counter (s : State) (i : Nat) : Word := mget 0 s.tr.lc i

/-- Counter `i` lies in the partition's share (R150, R161). -/
def State.lcShare (s : State) (n i : Nat) : Bool :=
  s.get (TRACK_LC_SHARE_FIRST n) ≤ i && i < s.get (TRACK_LC_SHARE_FIRST n) + s.get (TRACK_LC_SHARE_COUNT n)

/-- The state with a landing counter set. -/
def State.setCounter (s : State) (i : Nat) (v : Word) : State := { s with tr := { s.tr with lc := mset 0 s.tr.lc i v } }

/-- The accelerator at an attach port seals: its `HELLO` set link encryption (R362, R427). -/
def State.sealsPort (s : State) (p : Nat) : Bool := (s.rd (PORT_PEER_CAP p)).testBit 12

/-- An attach port admits a partition (R370); a confidential one only when its accelerator seals (R427). -/
def State.portAdmits (s : State) (p n : Nat) : Bool :=
  (s.get (PORT_CFG_PART_MASK p)).testBit n && (!s.confidential n || s.sealsPort p)

/-- HBM unit number `u` of stack `k` lies in the four runs of a share register (R304, R326). -/
def inRuns (w : Word) (k u : Nat) : Bool :=
  let f := bits w (16 * k + 5) (16 * k)
  let c := bits w (16 * k + 12) (16 * k + 6)
  f ≤ u && u < f + c

/-- The bytes `a` to `a + n - 1` of HBM lie in the partition's HBM share. -/
def State.inHbmShare (s : State) (n a len : Nat) : Bool :=
  0 < len && (List.range ((a + len - 1) / 2 ^ 30 - a / 2 ^ 30 + 1)).all (fun i =>
    let u := a / 2 ^ 30 + i
    u < 256 && inRuns (s.reg (MEM_PART_HBM n)) (u / 64) (u % 64))

end Sys2Proof.Machine
end

