-- ==== Sys2Proof/Machine/Operands.lean ====
section
/-! DEFINITION. The operand forms: the fields of a packet, of a fabric address, of table entries and descriptors, the
checks on a request's form, and the flits that carry a packet. -/

namespace Sys2Proof.Machine

/-! ## Packet header (R99, R100) -/

def Pkt.opcode (p : Pkt) : Nat := bits p.w0 7 0
def Pkt.status (p : Pkt) : Nat := bits p.w0 15 8
def Pkt.part (p : Pkt) : Nat := bits p.w0 20 16
def Pkt.tc (p : Pkt) : Nat := bits p.w0 21 21
def Pkt.dl (p : Pkt) : Nat := bits p.w0 22 22
def Pkt.len (p : Pkt) : Nat := bits p.w0 31 23
def Pkt.src (p : Pkt) : Nat := bits p.w0 47 32
def Pkt.dst (p : Pkt) : Nat := bits p.w0 63 48
def Pkt.tag (p : Pkt) : Nat := bits p.w2 19 0
def Pkt.gen (p : Pkt) : Nat := bits p.w2 23 20
def Pkt.scope (p : Pkt) : Nat := bits p.w2 25 24
def Pkt.sem (p : Pkt) : Nat := bits p.w2 27 26
def Pkt.lcEn (p : Pkt) : Bool := bit p.w2 28
def Pkt.lcMode (p : Pkt) : Bool := bit p.w2 29
def Pkt.lcIdx (p : Pkt) : Nat := bits p.w2 48 32
/-- `RLEN` of a `LOAD` or `TILE_READ`. -/
def Pkt.rlen (p : Pkt) : Nat := bits p.w3 8 0
/-- `GRANT` of a `TILE_READ`. -/
def Pkt.readGrant (p : Pkt) : Nat := bits p.w3 31 16
/-- `KIND`, `SIZE` (in bytes) and `NORET` of an `ATOMIC`. -/
def Pkt.kind (p : Pkt) : Nat := bits p.w3 3 0
def Pkt.sizeCode (p : Pkt) : Nat := bits p.w3 5 4
def Pkt.size (p : Pkt) : Nat := 4 * 2 ^ Pkt.sizeCode p
def Pkt.noret (p : Pkt) : Bool := bit p.w3 6
/-- `GROUP` of `MCAST_STORE`, `REDUCE`, `REDUCE_MEM`. -/
def Pkt.group (p : Pkt) : Nat := bits p.w3 11 0
def Pkt.redOp (p : Pkt) : Nat := bits p.w3 15 12
def Pkt.fmt (p : Pkt) : Nat := bits p.w3 19 16
def Pkt.mode (p : Pkt) : Nat := bits p.w3 20 20
def Pkt.rank (p : Pkt) : Nat := bits p.w3 33 21
def Pkt.chunk (p : Pkt) : Nat := bits p.w3 63 34
/-- `TILE_LEN` and `SIDE` of a `TILE_OPEN`. -/
def Pkt.tileLen (p : Pkt) : Nat := bits p.w3 20 0
def Pkt.side (p : Pkt) : Nat := bits p.w3 21 21
/-- `GRANT` of `TILE_WRITE`, `TILE_CLOSE`, `TILE_GRANT`, `TILE_DONE`. -/
def Pkt.grant (p : Pkt) : Nat := bits p.w3 15 0
def Pkt.abort (p : Pkt) : Bool := bit p.w3 16
def Pkt.bytesDone (p : Pkt) : Nat := bits p.w3 36 16
def Pkt.mcOk (p : Pkt) : Nat := bits p.w3 15 0
def Pkt.mcFail (p : Pkt) : Nat := bits p.w3 31 16
/-- A reply: bit 7 of the opcode (R95). -/
def Pkt.isReply (p : Pkt) : Bool := bit p.w0 7
/-- A sealed packet (R422). -/
def Pkt.sealed (p : Pkt) : Bool := p.sealCtr != 0
/-- Bytes that a request reads or writes: `RLEN` for reads, the operand size for atomics, `LEN` otherwise. -/
def Pkt.extent (p : Pkt) : Nat :=
  if Pkt.opcode p = 1 ∨ Pkt.opcode p = 9 then Pkt.rlen p
  else if Pkt.opcode p = 3 then Pkt.size p
  else if Pkt.opcode p = 8 then Pkt.tileLen p else Pkt.len p
/-- The packet writes its target (R79). -/
def Pkt.writes (p : Pkt) : Bool :=
  let o := Pkt.opcode p
  o == 2 || o == 3 || o == 4 || o == 5 || o == 6 || o == 10 || (o == 8 && Pkt.side p == 1)

/-- The packet with a field of word 0 changed. -/
def Pkt.set0 (p : Pkt) (hi lo n : Nat) : Pkt := { p with w0 := setBits p.w0 hi lo n }
def Pkt.set2 (p : Pkt) (hi lo n : Nat) : Pkt := { p with w2 := setBits p.w2 hi lo n }

/-- Fields of a request that a unit forms. -/
structure ReqForm where
  opcode : Nat
  part : Nat
  tc : Nat := 0
  src : Nat
  dst : Nat
  addr : Word
  tag : Nat := 0
  gen : Nat := 0
  scope : Nat := 3
  sem : Nat := 0
  lcEn : Bool := false
  lcMode : Bool := false
  lcIdx : Nat := 0
  w3 : Word := 0
  payload : List Byte := []
  deriving DecidableEq, Repr

/-- The packet of a request (reserved bits 0, R97; `DL` 0, R174). -/
def ReqForm.pkt (r : ReqForm) : Pkt where
  w0 := mkWord [(7, 0, r.opcode), (20, 16, r.part), (21, 21, r.tc), (31, 23, r.payload.length), (47, 32, r.src),
    (63, 48, r.dst)]
  w1 := r.addr
  w2 := mkWord [(19, 0, r.tag), (23, 20, r.gen), (25, 24, r.scope), (27, 26, r.sem), (28, 28, b2n r.lcEn),
    (29, 29, b2n r.lcMode), (48, 32, r.lcIdx)]
  w3 := r.w3
  payload := r.payload
  bank := false
  sealTag := 0
  sealCtr := 0

/-- A reply to a request (R101): `src` ends the request. -/
def Pkt.reply (q : Pkt) (src opcode status : Nat) (payload : List Byte) (w3 : Word) : Pkt where
  w0 := mkWord [(7, 0, opcode), (15, 8, status), (20, 16, Pkt.part q), (21, 21, Pkt.tc q), (31, 23, payload.length),
    (47, 32, src), (63, 48, Pkt.src q)]
  w1 := q.w1
  w2 := mkWord [(19, 0, Pkt.tag q), (23, 20, Pkt.gen q)]
  w3 := w3
  payload := payload
  bank := q.bank
  sealTag := 0
  sealCtr := 0

/-- The `ACK` with a status that a module forms in a reply's place (R101, R120, R424): `SRC_EP` names the module. -/
def Pkt.asAck (p : Pkt) (src status : Nat) : Pkt :=
  { p with w0 := mkWord [(7, 0, 0x81), (15, 8, status), (20, 16, Pkt.part p), (21, 21, Pkt.tc p), (47, 32, src), (63, 48, Pkt.dst p)],
           w2 := mkWord [(19, 0, Pkt.tag p), (23, 20, Pkt.gen p)], w3 := 0, payload := [], sealTag := 0, sealCtr := 0 }

/-- The bits of word 3 that an opcode defines (R100). -/
def w3Mask (op : Nat) : Nat :=
  match op with
  | 1 => 0x1FF
  | 9 => 0xFFFF01FF
  | 3 => 0x7F
  | 4 => 0xFFF
  | 5 | 6 => 2 ^ 64 - 1
  | 8 => 0x3FFFFF
  | 10 | 0x83 => 0xFFFF
  | 11 => 0x1FFFF
  | 0x84 => 0x1FFFFFFFFF
  | 0x81 => 0xFFFFFFFF
  | _ => 0

/-- A packet that the module forms anew from one it received: reserved bits are 0 (R97, R99, R100). -/
def Pkt.reform (p : Pkt) : Pkt :=
  { p with w2 := p.w2 &&& 0x1FFFF3FFFFFFF, w3 := p.w3 &&& BitVec.ofNat 64 (w3Mask (Pkt.opcode p)) }

/-! ## Fabric address (R66) -/

def faEp (a : Word) : Nat := bits a 63 48
def faWin (a : Word) : Nat := bits a 47 42
def faPage (a : Word) : Nat := bits a 41 30
def faOfs (a : Word) : Nat := bits a 29 0
/-- Bits [47:0]: window and offset. -/
def faLow (a : Word) : Nat := bits a 47 0
/-- A fabric address from an endpoint and window and offset. -/
def faMake (ep low : Nat) : Word := mkWord [(63, 48, ep), (47, 0, low)]

/-! ## Form of a request (R96, R97, R105, R139, R204) -/

/-- Bytes of one element of formats 0 to 8 (R201). -/
def fmtBytes (f : Nat) : Nat := [1, 1, 2, 2, 4, 1, 2, 4, 8].getD f 1

/-- `RED_OP`, `FMT` and `MODE` together are allowed (R204). -/
def redAllowed (op fmt mode : Nat) : Bool :=
  if op = 0 then fmt ≤ 13
  else if op = 1 ∨ op = 2 then fmt ≤ 8
  else if op = 3 then mode == 1 && fmt ≤ 4
  else if op = 4 ∨ op = 5 ∨ op = 6 then 5 ≤ fmt && fmt ≤ 8
  else if op = 7 then mode == 1 && (fmt == 3 || fmt == 4)
  else false

/-- The bytes lie within one 256 B-aligned block. -/
def within256 (a : Word) (n : Nat) : Bool := a.toNat % 256 + n ≤ 256

/-- `KIND` and `SIZE` of an atomic go together (R105). -/
def atomicSizeOk (kind sizeCode : Nat) : Bool :=
  if kind ≤ 1 then sizeCode ≤ 2 else kind ≤ 10 && sizeCode ≤ 1

/-- `SEM` is one that the opcode allows (R139). -/
def semOk (op sem : Nat) : Bool :=
  if op = 1 then sem ≤ 1 else if op = 2 ∨ op = 4 then sem == 0 || sem == 2 else if op = 3 then true else sem == 0

/-- The request keeps R96 and carries no reserved encoding (R97). -/
def Pkt.wellFormed (p : Pkt) : Bool :=
  let n := Pkt.len p
  semOk (Pkt.opcode p) (Pkt.sem p) && Pkt.status p == 0 &&
  match Pkt.opcode p with
  | 1 => n == 0 && 1 ≤ Pkt.rlen p && within256 p.w1 (Pkt.rlen p) && !Pkt.lcEn p
  | 2 | 4 => 1 ≤ n && within256 p.w1 n
  | 3 => atomicSizeOk (Pkt.kind p) (Pkt.sizeCode p) && p.w1.toNat % Pkt.size p == 0 &&
      n == (if Pkt.kind p = 1 then 2 * Pkt.size p else Pkt.size p)
  | 5 => 1 ≤ n && n ≤ 256 && redAllowed (Pkt.redOp p) (Pkt.fmt p) (Pkt.mode p)
  | 6 => 1 ≤ n && within256 p.w1 n && redAllowed (Pkt.redOp p) (Pkt.fmt p) (Pkt.mode p) &&
      (if Pkt.fmt p ≤ 8 ∧ Pkt.redOp p ≠ 7 then
        n % fmtBytes (Pkt.fmt p) == 0 && p.w1.toNat % fmtBytes (Pkt.fmt p) == 0
      else p.w1.toNat % 8 == 0)
  | 8 => n == 0 && p.w1.toNat % 64 == 0 && 64 ≤ Pkt.tileLen p && Pkt.tileLen p ≤ 0x100000 &&
      Pkt.tileLen p % 64 == 0 && !Pkt.lcEn p
  | 9 => n == 0 && 1 ≤ Pkt.rlen p && within256 p.w1 (Pkt.rlen p) && !Pkt.lcEn p
  | 10 => 1 ≤ n && within256 p.w1 n
  | 11 => n == 0 && !Pkt.lcEn p
  | _ => false

/-- The opcode is a reply of R95. -/
def Pkt.replyKnown (p : Pkt) : Bool := 0x80 ≤ Pkt.opcode p && Pkt.opcode p ≤ 0x84

/-- The link version that a request needs (R95, R98). -/
def Pkt.version (p : Pkt) : Nat :=
  if Pkt.opcode p = 4 ∨ Pkt.opcode p = 5 ∨ Pkt.opcode p = 6 then 2
  else if Pkt.opcode p = 3 ∧ Pkt.kind p = 10 then 3 else 1

/-- The virtual channel of a packet (R173). -/
def Pkt.channel (p : Pkt) : Nat := 4 * b2n (Pkt.isReply p) + 2 * Pkt.dl p + Pkt.tc p

/-- Flits that a packet occupies (R102). -/
def Pkt.flits (p : Pkt) : Nat := 1 + cdiv (Pkt.len p) 64

/-! ## CRC-32 (IEEE 802.3, reflected) -/

def crcBit (c : Nat) : Nat := if c % 2 = 1 then Nat.xor (c / 2) 0xEDB88320 else c / 2
def crcByte (c : Nat) (b : Byte) : Nat :=
  crcBit (crcBit (crcBit (crcBit (crcBit (crcBit (crcBit (crcBit (Nat.xor c b.toNat))))))))
/-- CRC-32 of a byte list (R165, R340, R353). -/
def crc32 (bs : List Byte) : Nat := Nat.xor (bs.foldl crcByte 0xFFFFFFFF) 0xFFFFFFFF

/-! ## Flits (R353, R354, R422) -/

/-- A word of a flit. -/
def fw (f : Flit) (i : Nat) : Word := f.getD i 0
/-- The kind of a non-payload flit. -/
def flitKind (f : Flit) : Nat := bits (fw f 7) 63 56
/-- The CRC of a flit over bytes 0 to 47 and 56 to 63. -/
def flitCrc (f : Flit) : Nat := crc32 (wordsBytes (f.take 6) ++ wordBytes (fw f 7))
/-- A flit of a kind with words 0 to 5 and, in a header flit, its parts of words 6 and 7. -/
def mkFlit (kind : Nat) (ws : List Word) (w6hi w7lo : Nat) : Flit :=
  let w7 := mkWord [(63, 56, kind), (55, 0, w7lo)]
  let six := (List.range 6).map (fun i => ws.getD i 0)
  six ++ [mkWord [(31, 0, flitCrc (six ++ [0, w7])), (63, 32, w6hi)], w7]
/-- A flit with nothing to send. -/
def idleFlit : Flit := mkFlit 0 [] 0 0
/-- The flits of a packet (R102, R354, R422). -/
def Pkt.toFlits (p : Pkt) : List Flit :=
  let ctr := p.sealCtr.toNat
  let t := p.sealTag.toNat
  mkFlit 1 [p.w0, p.w1, p.w2, p.w3, BitVec.ofNat 64 t, BitVec.ofNat 64 (t / 2 ^ 64)] (nbits ctr 79 48)
      (b2n p.bank * 2 ^ 55 + nbits ctr 47 0) ::
    (List.range (cdiv (Pkt.len p) 64)).map (fun i => bytesWords 8 ((p.payload.drop (64 * i)).take 64))
/-- The packet that a header flit and its payload flits carry. -/
def Pkt.ofFlits (h : Flit) (pl : List Flit) : Pkt :=
  let n := bits (fw h 0) 31 23
  { w0 := fw h 0, w1 := fw h 1, w2 := fw h 2, w3 := fw h 3, payload := ((pl.flatMap wordsBytes).take n),
    bank := bit (fw h 7) 55,
    sealTag := BitVec.ofNat 128 ((fw h 4).toNat + (fw h 5).toNat * 2 ^ 64),
    sealCtr := BitVec.ofNat 80 (bits (fw h 7) 47 0 + bits (fw h 6) 63 32 * 2 ^ 48) }

/-! ## Route entries and port groups (R162, R163) -/

def rtValid (w : Word) : Bool := bit w 0
def rtLocal (w : Word) : Bool := bit w 1
def rtDlAct (w : Word) : Nat := bits w 3 2
def rtAdapt (w : Word) : Bool := bit w 4
def rtHops (w : Word) : Nat := bits w 13 8
def rtPgrp (w : Word) : Nat := bits w 23 16
def rtAlt (w : Word) : Nat := bits w 31 24

/-- The ports of a group, rising. -/
def groupPorts (w0 w1 : Word) : List Nat := (List.range 96).filter (fun p => if p < 64 then bit w0 p else bit w1 (p - 64))

/-- The hash of R165 over `DST_EP` and `ADDR` with bits [5:0] as 0. -/
def routeHash (p : Pkt) : Nat := crc32 (leBytes 2 (Pkt.dst p) ++ leBytes 8 (p.w1.toNat / 64 * 64))

/-! ## Window directory and page entries (R68, R69) -/

def dirValid (w : Word) : Bool := bit w 0
/-- Permission bits R, W, A, D as a number. -/
def permBits (w : Word) : Nat := bits w 4 1
def dirCount (w : Word) : Nat := bits w 20 8
def dirFirst (w : Word) : Nat := bits w 46 32
def pgValid (w : Word) : Bool := bit w 0
def pgKind (w : Word) : Nat := bits w 7 5
def pgOwner (w : Word) : Nat := bits w 12 8
def pgPasid (w : Word) : Nat := bits w 51 32

/-! ## Multicast entries (R230) -/

def mcValid (w : Word) : Bool := bit w 0
def mcPart (w : Word) : Nat := bits w 5 1
def mcSlots (w : Word) : Nat := bits w 11 6
def mcChildren (w : Word) : Nat := bits w 18 12
def mcDepth (w : Word) : Nat := bits w 24 19
def mcFanout (w : Word) : Nat := bits w 31 25
def mcRootEp (w : Word) : Nat := bits w 47 32
def mcGroup (w : Word) : Nat := bits w 59 48
def mcRoot (w : Word) : Bool := bit w 60
/-- Child record `i` of an entry: port and members below. -/
def mcChild (e : List Word) (i : Nat) : Nat × Nat :=
  let w := e.getD (1 + i / 2) 0
  if i % 2 = 0 then (bits w 6 0, bits w 31 16) else (bits w 38 32, bits w 63 48)

/-! ## Descriptors (R406) -/

def dType (w : Word) : Nat := bits w 7 0
def dVer (w : Word) : Nat := bits w 11 8
def dFence (w : Word) : Bool := bit w 12
def dIrq (w : Word) : Bool := bit w 13
def dCookie (w : Word) : Nat := bits w 63 32
/-- Word `i` of a descriptor, message or payload. -/
def wd (ws : List Word) (i : Nat) : Word := ws.getD i 0
/-- Bits [hi:lo] of word `i`. -/
def wb (ws : List Word) (i hi lo : Nat) : Nat := bits (wd ws i) hi lo

end Sys2Proof.Machine
end

