-- ==== Sys2Proof/Machine/LinkTx.lean ====
section
/-! DEFINITION. The sending side of a link: blocks, control slots, replay buffer (R349 to R358), training messages and
attach messages. No transmission takes time in the model (log 6). -/

namespace Sys2Proof.Machine

/-- The first item of a port's inbox that a test selects, and the state without it. -/
def State.takeRx (s : State) (p : Nat) (sel : RxItem → Bool) : Option (RxItem × State) :=
  (takeFirst sel (mget [] s.xb.rx p)).map (fun x => (x.1, { s with xb := { s.xb with rx := mset [] s.xb.rx p x.2 } }))

/-- A link at rest. -/
def link0 : Link :=
  { txSeq := 0, unacked := [], goBack := none, rxSeq := 0, rxBad := false, part := none, whole := none, attach := none,
    lastBeat := 0, lit := 0, step := 0, phase := 0, helloSent := false, peerLit := 0,
    peerId := 0xFFFF, version := 0, locked := 0, evalOwn := [], evalPeer := [], evals := [], readySent := false,
    switchDue := false, lcWaits := [], attachCr := 0, attachQ := [], slots := [], nakDue := false, ackDue := false,
    sinceAck := 0, txQ := [], sent := 0 }

/-- The link of port `p`. -/
def State.link (s : State) (p : Nat) : Link := mget link0 s.lk.ports p

/-- The state with the link of port `p` set. -/
def State.setLink (s : State) (p : Nat) (l : Link) : State :=
  { s with lk := { s.lk with ports := mset link0 s.lk.ports p l } }

/-- `STATE` of a port: 0 `DISABLED`, 1 `DETECT`, 2 `TRAIN`, 3 `ACTIVE`, 4 `FAILED`, 5 `ISOLATED`. -/
def State.portState (s : State) (p : Nat) : Nat := s.get (PORT_STATUS_STATE p)

/-- The link is `ACTIVE`. -/
def State.active (s : State) (p : Nat) : Bool := s.portState p == 3

/-- An attach-mode port. -/
def State.isAttach (s : State) (p : Nat) : Bool := s.get (PORT_CFG_MODE p) == 0

/-- The link may start a new block: fewer than 255 are unacknowledged, and no `NAK` waits to be answered (R357). -/
def Link.free (l : Link) : Bool := decide (l.unacked.length < 255) && l.goBack.isNone

/-- The control slot of the next block (R351, R352): a `NAK` owed first, an `ACK` after six blocks without one, so that a
`NAK` still leaves one in every eight, then credits, then an `ACK` owed, and `OTHER` with no content when nothing is
owed. -/
def nextSlot (l : Link) : Nat × Link :=
  let ack := 0 * 512 + (l.rxSeq + 511) % 512
  if l.nakDue then (1 * 512 + l.rxSeq % 512, { l with nakDue := false, sinceAck := l.sinceAck + 1 })
  else if l.ackDue && 6 ≤ l.sinceAck then (ack, { l with ackDue := false, sinceAck := 0 })
  else match l.slots with
    | c :: r => (c, { l with slots := r, sinceAck := l.sinceAck + 1 })
    | [] => if l.ackDue then (ack, { l with ackDue := false, sinceAck := 0 }) else (3 * 512, l)

/-- The lane of the link's block `n`: the in-service lanes take the blocks in turn (R350). -/
def State.laneOf (s : State) (p n : Nat) : Nat :=
  let ls := setBitsOf 8 (s.get (PORT_STATUS_LANES p))
  ls.getD (n % ls.length) 0

/-- A block goes out as one codeword (R349, R350). -/
def State.emitBlock (s : State) (p slot : Nat) (fl : List Flit) : State :=
  let l := s.link p
  (s.setLink p { l with sent := l.sent + 1 }).emit (.block p (s.laneOf p l.sent) (fecEncode fl slot))

/-- Send one block of ten flits, or let it wait until the link may start one (R357). -/
def State.sendBlock (s : State) (p : Nat) (fl : List Flit) : State :=
  let l := s.link p
  if Link.free l then
    let (c, l) := nextSlot l
    let slot := l.txSeq * 2048 + c
    (s.setLink p { l with txSeq := (l.txSeq + 1) % 512, unacked := l.unacked ++ [⟨l.txSeq, fl, slot, 1⟩] }).emitBlock p slot fl
  else s.setLink p { l with txQ := l.txQ ++ [fl] }

/-- Fill up to ten flits with `IDLE`. -/
def padBlock (fl : List Flit) : List Flit := (fl ++ List.replicate 10 idleFlit).take 10

/-- Send flits (at most ten) in one block. -/
def State.sendFlits (s : State) (p : Nat) (fl : List Flit) : State := s.sendBlock p (padBlock fl)

/-- Send a packet on a link. -/
def State.sendPkt (s : State) (p : Nat) (q : Pkt) : State := s.sendFlits p (Pkt.toFlits q)

/-- Blocks of `IDLE` flits carry what the link owes; `n` bounds their number. -/
def flushSlots (p : Nat) : Nat → State → State
  | 0, s => s
  | n + 1, s =>
    let l := s.link p
    if (l.nakDue || l.ackDue || !l.slots.isEmpty) && Link.free l then
      flushSlots p n (s.sendFlits p [])
    else s

/-- Send what the link owes (R178, R352). -/
def State.flushLink (s : State) (p : Nat) : State :=
  let l := s.link p
  flushSlots p (l.slots.length + 2) s

/-- Owe control slots on a link. -/
def State.owe (s : State) (p : Nat) (cs : List Nat) : State :=
  let l := s.link p
  s.setLink p { l with slots := l.slots ++ cs }

/-- `CREDIT` slots for `n` flits of channel `v`, at most 63 in each (R351). -/
def creditSlots (v : Nat) : Nat → Nat → List Nat
  | 0, _ => []
  | fuel + 1, n => if n = 0 then [] else (2 * 512 + v * 64 + min n 63) :: creditSlots v fuel (n - min n 63)

/-- `OTHER` slots for `n` attach-message credits of class `c` (1 request, 2 response). -/
def otherSlots (c : Nat) : Nat → Nat → List Nat
  | 0, _ => []
  | fuel + 1, n => if n = 0 then [] else (3 * 512 + c * 128 + min n 63) :: otherSlots c fuel (n - min n 63)

/-- Return receive-buffer credits for flits that left the buffer of an optical port (R177, R178). -/
def State.returnCredit (s : State) (p v n : Nat) : State :=
  if p < 96 ∧ s.active p then (s.owe p (creditSlots v (n + 1) n)).flushLink p else s

/-- A training message (R361): `MSG`, `LANE`, `STEP`, `ARG`, `BODY1`, `BODY2`. -/
def trainFlit (s : State) (msg lane step arg : Nat) (b1 b2 : Word) : Flit :=
  mkFlit 3 [mkWord [(7, 0, msg), (15, 8, lane), (17, 16, step), (31, 24, arg), (63, 48, s.selfId)], b1, b2] 0 0

/-- Send a training message; it flows on the lanes that are locked and takes no credits. -/
def State.sendTrain (s : State) (p msg lane step arg : Nat) (b1 b2 : Word) : State :=
  s.emit (.train p (trainFlit s msg lane step arg b1 b2))

/-- The data flit of an attach message. -/
def dataFlit (bs : List Byte) : Flit := bytesWords 8 bs

/-- A grant has been sent and stands (R546): a grant of its line that another port of the slot still holds leaves it in the
directory when it is never sent. -/
def State.grantSent (s : State) (p : Nat) (m : AttachOut) : State :=
  match m.undo with
  | none => s
  | some (line, _, _) =>
    let own := bits (fw (m.flits.getD 0 []) 0) 7 0 == 0xA1
    let keep := fun (x : AttachOut) => match x.undo with
      | some (l, _, o) => if l = line then { x with undo := some (l, true, o || own) } else x
      | none => x
    ((s.slotPorts (s.get (XBAR_PORT_CFG_ACCEL_SLOT p))).filter (· != p)).foldl (fun s q =>
      s.setLink q { s.link q with attachQ := (s.link q).attachQ.map keep }) s

/-- Send queued attach messages while the accelerator's credits last and the link may start a block (R357, R369, R372). -/
def drainAttach (p : Nat) : Nat → State → State
  | 0, s => s
  | n + 1, s =>
    let l := s.link p
    match l.attachQ with
    | [] => s
    | m :: r =>
      if m.flits.length ≤ l.attachCr ∧ Link.free l = true then
        let s := s.setLink p { l with attachQ := r, attachCr := l.attachCr - m.flits.length }
        drainAttach p n (((s.sendFlits p m.flits).grantSent p m).emit (.attach p (m.flits.getD 0 []) m.flits[1]?))
      else s

/-- Send an attach message of the module (R372): `MSG`, `STATUS`, `ID`, `KEEP_S`, partition, address, value, data. `undo` says
what a grant changed in the directory. -/
def State.sendAttach (s : State) (p msg status id : Nat) (keep : Bool) (part : Nat) (addr value : Word)
    (data : Option (List Byte)) (undo : Option (Nat × Bool × Bool) := none) : State :=
  let f := mkFlit 4 [mkWord [(7, 0, msg), (15, 8, status), (35, 16, id), (36, 36, b2n data.isSome),
    (37, 37, b2n keep), (42, 38, part)], addr, value] 0 0
  let m := f :: (match data with | some d => [dataFlit d] | none => [])
  let l := s.link p
  let s := s.setLink p { l with attachQ := l.attachQ ++ [⟨m, undo⟩] }
  drainAttach p (l.attachQ.length + 1) s

end Sys2Proof.Machine
end

