-- ==== Sys2Proof/Machine/Pools.lean ====
section
/-! DEFINITION. The buffer pool manager (R189 to R196): allocation, release, warning state. -/

namespace Sys2Proof.Machine

/-- Buffers of pool `k` that units other than the switch core may take (R181, R189). -/
def State.poolSize (s : State) (k : Nat) : Nat :=
  if k = 0 then 131072 - s.get XBAR_CONFIG_CELL_RSVD
  else if k = 3 then (if s.on GLOBAL_OPTIONS_TUN_PRESENT && !s.pl.tilesOut then poolCount 3 else 0)
  else poolCount k

/-- A partition's limit and use of pool `k` (R190, R198). -/
def poolLimitF (k n : Nat) : Fld :=
  match k with
  | 0 => POOL_PART_LIMIT_CELL n | 1 => POOL_PART_LIMIT_K1 n | 2 => POOL_PART_LIMIT_K4 n
  | 3 => POOL_PART_LIMIT_TILE64 n | _ => POOL_PART_LIMIT_MIB n
def poolUseF (k n : Nat) : Fld :=
  match k with
  | 0 => POOL_PART_USE_CELL n | 1 => POOL_PART_USE_K1 n | 2 => POOL_PART_USE_K4 n
  | 3 => POOL_PART_USE_TILE64 n | _ => POOL_PART_USE_MIB n

/-- The smallest pool for `n` bytes (R189): pool 3 does not exist without the Tun store. -/
def State.poolFor (s : State) (n : Nat) : Option Nat :=
  if n ≤ 320 then some 0 else if n ≤ 1024 then some 1 else if n ≤ 4096 then some 2
  else if n ≤ 65536 ∧ s.on GLOBAL_OPTIONS_TUN_PRESENT then some 3
  else if n ≤ 1048576 then some 4 else none

/-- The lowest buffer whose bitmap bit is free. -/
def freeBuf : SMap Buf → Nat → Nat
  | [], k => k
  | (a, b) :: r, k => if a = k ∧ b.inUse then freeBuf r (k + 1) else k

/-- The warning state of pool `k` after a change (R191): each entry counts once. -/
def State.poolWarn (s : State) (k : Nat) : State :=
  let low := decide (s.rd (POOL_FREE k) ≤ s.rd (POOL_WARN k))
  let was := (s.get POOL_STATUS_WARN_ACTIVE).testBit k
  let w := setBits (BitVec.ofNat 64 (s.get POOL_STATUS_WARN_ACTIVE)) k k (b2n low)
  let s := s.put POOL_STATUS_WARN_ACTIVE w.toNat
  if low && !was then s.bump (POOL_WARN_COUNT k) else s

/-- Pool `k` is in its warning state. -/
def State.warned (s : State) (k : Nat) : Bool := (s.get POOL_STATUS_WARN_ACTIVE).testBit k

/-- A unit needs pool `k`: it waits for a buffer of it, or holds one (log 56). -/
def State.unitNeeds (s : State) (u : PoolUser) (k : Nat) : Bool :=
  s.pl.waits.any (fun w => w.1 == u && w.2.2 == k) || (mget [] s.pl.bufs k).any (fun b => b.2.holders.contains (.unit u))

/-- An exempt unit takes no new work (R191): a pool that it needs is in its warning state, or a request of it waits. -/
def State.unitHeld (s : State) (u : PoolUser) : Bool :=
  s.pl.waits.any (fun w => w.1 == u) || (List.range 5).any (fun k => s.warned k && s.unitNeeds u k)

/-- The CXL host path takes requests: the link is up, and credits for posted and non-posted requests are not withheld
(R191; log 140). -/
def State.hostOpen (s : State) : Bool := s.cxlUp && !s.unitHeld .cxl

/-- The state with a pool's buffers and free count changed. -/
def State.setBufs (s : State) (k : Nat) (m : SMap Buf) (free : Nat) : State :=
  let s := { s with pl := { s.pl with bufs := mset [] s.pl.bufs k m } }
  let s := s.wr (POOL_FREE k) free
  let s := if free < s.rd (POOL_LOW_MARK k) then s.wr (POOL_LOW_MARK k) free else s
  s.poolWarn k

/-- A buffer of pool `k` can be given to the partition: one is free and the limit is not reached (R190). -/
def State.poolHas (s : State) (k n : Nat) : Bool :=
  0 < s.rd (POOL_FREE k) && freeBuf (mget [] s.pl.bufs k) 0 < s.poolSize k && s.get (poolUseF k n) < s.get (poolLimitF k n)

/-- Take the lowest free buffer of pool `k` for a holder (R189); none when the pool has none or the partition is at its
limit. -/
def State.poolTake (s : State) (k n : Nat) (h : Holder) : Option (Nat × State) :=
  if s.poolHas k n then
    let m := mget [] s.pl.bufs k
    let i := freeBuf m 0
    let old := (mget ⟨n, false, [], false, false⟩ m i).holders
    let m := minsert (merase m i) i ⟨n, true, old ++ [h], false, false⟩
    let s := s.setBufs k m (s.rd (POOL_FREE k) - 1)
    some (i, s.put (poolUseF k n) (s.get (poolUseF k n) + 1))
  else none

/-- A unit outside the exempt ones asks: `POOL_EMPTY` is counted when there is none (R190). -/
def State.poolAsk (s : State) (k n : Nat) (h : Holder) : Option Nat × State :=
  match s.poolTake k n h with
  | some (i, s) => (some i, s)
  | none => (none, s.bump (POOL_EMPTY_COUNT k))

/-- A buffer's holder gives it up and its bitmap bit becomes free; one that holds it no more changes nothing. The 64 KiB pool
stays empty while it is out (R21). -/
def State.poolGive (s : State) (k i : Nat) (h : Holder) : State :=
  let m := mget [] s.pl.bufs k
  match m.find? (fun e => e.1 == i) with
  | none => s
  | some (_, b) =>
    if !b.holders.contains h && !b.holders.isEmpty then s
    else
    let hs := b.holders.erase h
    if b.dup && !hs.isEmpty then { s with pl := { s.pl with bufs := mset [] s.pl.bufs k (minsert (merase m i) i { b with holders := hs }) } }
    else
    let m' := if hs.isEmpty then merase m i else minsert (merase m i) i { b with holders := hs, inUse := false, suspect := false }
    let s := s.setBufs k m' (if b.inUse && !(k == 3 && s.pl.tilesOut) then s.rd (POOL_FREE k) + 1 else s.rd (POOL_FREE k))
    if b.inUse then s.put (poolUseF k b.part) (s.get (poolUseF k b.part) - 1) else s

/-- The exempt units in the order of the round-robin (R192). -/
def exemptUnits : List PoolUser := [.rdx, .tun, .cxl, .maltster]

/-- The units that never receive `POOL_EMPTY` (R191). -/
def PoolUser.exempt (u : PoolUser) : Bool := exemptUnits.contains u

/-- Serve the oldest request that waits for pool `k` of the first unit in turn that can have a buffer (R191, R192). -/
def State.serveOne (s : State) (k : Nat) : Option State :=
  ((List.range 4).map (fun i => (mget 0 s.pl.turn k + i) % 4)).findSome? (fun i =>
    match takeFirst (fun (w : PoolUser × Nat × Nat) => some w.1 == exemptUnits[i]? && w.2.2 == k) s.pl.waits with
    | none => none
    | some ((u, n, _), rest) => match s.poolTake k n (.unit u) with
      | some (b, t) => some (({ t with pl := { t.pl with waits := rest, turn := mset 0 t.pl.turn k ((i + 1) % 4) } } : State).emit (.buffer k b))
      | none => none)

/-- Serve what waits for pool `k` while buffers last; `n` bounds the number. -/
def servePool (k : Nat) : Nat → State → State
  | 0, s => s
  | n + 1, s => match s.serveOne k with | some t => servePool k n t | none => s

/-- The units outside the exempt ones, in the order of their round-robin (R192). -/
def plainUnits : List PoolUser := [.endpoint, .mover, .sequencer]

/-- Serve one request on pool `k` of the first unit in turn outside the exempt ones: a buffer, or `POOL_EMPTY` (R190). -/
def State.askOne (s : State) (k : Nat) : Option State :=
  ((List.range 3).map (fun i => (mget 0 s.pl.askTurn k + i) % 3)).findSome? (fun i =>
    (takeFirst (fun (w : PoolUser × Nat × Nat) => some w.1 == plainUnits[i]? && w.2.2 == k) s.pl.asks).map (fun ((u, n, _), rest) =>
      let s := { s with pl := { s.pl with asks := rest, askTurn := mset 0 s.pl.askTurn k ((i + 1) % 3) } }
      match s.poolAsk k n (.unit u) with
      | (some b, s) => s.emit (.buffer k b)
      | (none, s) => s.emit (.poolEnd k stPOOL_EMPTY)))

/-- Serve the cycle's requests on pool `k` of the units outside the exempt ones; `n` bounds the number. -/
def askPool (k : Nat) : Nat → State → State
  | 0, s => s
  | n + 1, s => match s.askOne k with | some t => askPool k n t | none => s

/-- Serve the requests of the cycle, those of exempt units last (R192; log 139). -/
def State.poolServe (s : State) : State :=
  (List.range 5).foldl (fun s k => servePool k s.pl.waits.length (askPool k s.pl.asks.length s)) s

/-- A buffer of a unit's working set is freed, and a request that waits for it is served (R191, R192), unless a cycle of
requests is under way. -/
def State.poolFree (s : State) (k i : Nat) (h : Holder) : State :=
  let s := s.poolGive k i h
  if s.pl.asks.isEmpty then servePool k s.pl.waits.length s else s

/-- The end of a request of the pool manager: what waits is served, unless another request of the same cycle follows
(R192). -/
def State.poolCycle (s : State) (more : Bool) : State := if more then s else s.poolServe

end Sys2Proof.Machine
end

