-- ==== Sys2Proof/Machine/Keys.lean ====
section
/-! DEFINITION. The module's derived keys and the unwrapping of partition keys (R428, R432, R433). HMAC and HKDF are those
of RFC 2104 and RFC 5869 with SHA-384, which R428 and R433 name (log 131). -/

namespace Sys2Proof.Machine

/-- A byte string as a big-endian number, and a number as `n` big-endian bytes. -/
def beNat (bs : List Byte) : Nat := bs.foldl (fun a b => a * 256 + b.toNat) 0
def beBytes (n v : Nat) : List Byte := (leBytes n v).reverse

/-- The 48 bytes of a SHA-384 value. -/
def hashBytes (h : BitVec 384) : List Byte := beBytes 48 h.toNat

/-- The bytes of an ASCII string. -/
def ascii (t : String) : List Byte := t.toList.map (fun c => BitVec.ofNat 8 c.toNat)

/-- HMAC-SHA-384. -/
def hmac384 (key msg : List Byte) : List Byte :=
  let key := if 128 < key.length then hashBytes (Config.sha384 key) else key
  let pad := fun (x : Byte) => (key ++ List.replicate (128 - key.length) 0).map (fun b => b ^^^ x)
  hashBytes (Config.sha384 (pad 0x5C ++ hashBytes (Config.sha384 (pad 0x36 ++ msg))))

/-- HKDF-SHA-384 without salt: `n` bytes, at most 96. -/
def hkdf384 (secret info : List Byte) (n : Nat) : List Byte :=
  let k := hmac384 (List.replicate 48 0) secret
  let a := hmac384 k (info ++ [1])
  (a ++ hmac384 k (a ++ info ++ [2])).take n

/-- The order of brainpoolP384r1 (RFC 5639). -/
def curveOrder : Nat := 0x8CB91E82A3386D280F5D6F7E50E641DF152F7109ED5456B31F166E6CAC0425A7CF3AB6AF6B7FC3103B883202E9046565

/-- A private scalar that the ROM derives (R433). -/
def deriveKey (info : List Byte) : Nat := beNat (hkdf384 (beBytes 32 Config.deviceSecret.toNat) info 64) % (curveOrder - 1) + 1

/-- SHA-384 of the trusted kernel extension that runs: `hashes` holds the three sections' (R441). -/
def State.kernelHash (s : State) : List Byte := hashBytes (s.pa.hashes.getD 0 0)

/-- The device identity key, the attestation key and the key-agreement key (R432, R433). -/
def identityKey : Nat := deriveKey (ascii "AZN-DIK")
def State.attestKey (s : State) : Nat := deriveKey (ascii "AZN-AK" ++ s.kernelHash)
def State.agreeKey (s : State) : Nat := deriveKey (ascii "AZN-KAK" ++ s.kernelHash)

/-- The key of a partition (R428): none when it has none. -/
def State.partKey (s : State) (n : Nat) : Option (BitVec 256) := mget none s.pa.keys n

/-- A payload with the key stream applied to it. -/
def sealXor (key : BitVec 256) (iv : List Byte) (bs : List Byte) : List Byte :=
  bs.mapIdx (fun i b => b ^^^ Config.gcmStream key iv i)

/-- The partition key that a `PART_CREATE` brings (R428): none when its point is not on the curve or its tag fails. `w` are
payload words 3 to 20, `aad` words 1 and 2. -/
def State.unwrapKey (s : State) (n : Nat) (w aad : List Word) : Option (BitVec 256) :=
  match Config.ecdh s.agreeKey (wordsBytes (w.take 12)) with
  | none => none
  | some shared =>
    let key := BitVec.ofNat 256 (beNat (hkdf384 shared (ascii "AZN-PK" ++ [BitVec.ofNat 8 n]) 32))
    let iv := List.replicate 12 (0 : Byte)
    let plain := sealXor key iv (wordsBytes ((w.drop 12).take 4))
    if Config.gcmTag key iv (wordsBytes aad) plain = BitVec.ofNat 128 (leNat (wordsBytes (w.drop 16))) then
      some (BitVec.ofNat 256 (beNat plain))
    else none

end Sys2Proof.Machine
end

