-- ==== Sys2Proof/Machine/Seal.lean ====
section
/-! DEFINITION. Packet sealing (R422 to R427): sealing at the origin, and the check at the owner with its freshness
and replay tests. -/

namespace Sys2Proof.Machine

/-- The initialisation vector of a seal (R423). -/
def sealIv (ctr src : Nat) : List Byte := leBytes 10 ctr ++ leBytes 2 src

/-- The additional data of a seal: the header with `DL` taken as 0 (R423). -/
def sealAad (p : Pkt) : List Byte := wordsBytes [setBits p.w0 22 22 0, p.w1, p.w2, p.w3]

/-- Seal a packet of a confidential partition with the next counter of its sender (R423). -/
def State.sealPkt (s : State) (p : Pkt) : Pkt × State :=
  let k := 32 * Pkt.src p + Pkt.part p
  let c := max (mget 0 s.pa.ctrs k + 1) (s.beat * 2 ^ 24) % 2 ^ 80
  let key := (s.partKey (Pkt.part p)).getD 0
  let iv := sealIv c (Pkt.src p)
  ({ p with payload := sealXor key iv p.payload, sealTag := Config.gcmTag key iv (sealAad p) p.payload,
            sealCtr := BitVec.ofNat 80 c },
   { s with pa := { s.pa with ctrs := mset 0 s.pa.ctrs k c } })

/-- A discarded packet of R424 and R425. -/
def State.sealFail (s : State) : State := (s.flag PART_STATUS_SEAL_FAIL).bump PART_SEAL_FAIL_COUNT

/-- The beat part of a seal counter is within the freshness limits (R425). -/
def State.fresh (s : State) (c : Nat) : Bool :=
  let b := c / 2 ^ 24
  s.beat ≤ b + s.get TRACK_CONFIG_TIMEOUT + 2 && b ≤ s.beat + 2

/-- The replay test (R425): none when the packet repeats or lies below the floor. A pair that loses its entry raises the
floor of its own partition, so that none of its packets is accepted again (log 61). -/
def State.replayOk (s : State) (src part c : Nat) : Option State :=
  match s.pa.replay.find? (fun r => r.src == src && r.part == part) with
  | some r =>
    let others := s.pa.replay.filter (fun r => !(r.src == src && r.part == part))
    if r.top < c then
      let w : BitVec 4096 := if 4096 < c - r.top then 0 else (r.window <<< (c - r.top)) ||| BitVec.ofNat 4096 (2 ^ (c - r.top - 1))
      some { s with pa := { s.pa with replay := { r with top := c, window := w } :: others } }
    else if c = r.top ∨ 4096 < r.top - c then none
    else if r.window.getLsbD (r.top - c - 1) then none
    else some { s with pa := { s.pa with replay := { r with window := r.window ||| BitVec.ofNat 4096 (2 ^ (r.top - c - 1)) } :: others } }
  | none =>
    if c ≤ mget 0 s.pa.floors part then none
    else
      let new : Replay := ⟨src, part, c, 0⟩
      if s.pa.replay.length < 8192 then some { s with pa := { s.pa with replay := new :: s.pa.replay } }
      else
        let stale := s.pa.replay.find? (fun r => r.top / 2 ^ 24 + s.get TRACK_CONFIG_TIMEOUT + 2 < s.beat)
        let old := s.pa.replay.foldl (fun a r => match a with | some b => if r.top < b.top then some r else some b | none => some r) none
        match stale, old with
        | some r, _ => some { s with pa := { s.pa with replay := new :: s.pa.replay.erase r } }
        | none, some r =>
          let floors := mset 0 s.pa.floors r.part (max (mget 0 s.pa.floors r.part) r.top)
          some { s with pa := { s.pa with replay := new :: s.pa.replay.erase r, floors := floors } }
        | none, none => some s

/-- What the seal check says of a packet (R424). -/
inductive SealVerdict where
  /-- Accepted, with its payload in clear. -/
  | accept (p : Pkt)
  /-- Discarded without a reply. -/
  | discard
  /-- Ended with `ACCESS_DENIED`: sealed for a partition that is not confidential here. -/
  | denied
  deriving DecidableEq, Repr

/-- Check the seal of a packet that arrived from a link (R424, R425). -/
def State.sealCheck (s : State) (p : Pkt) : SealVerdict × State :=
  if s.confidential (Pkt.part p) then
    if Pkt.sealed p then
      let c := p.sealCtr.toNat
      let key := (s.partKey (Pkt.part p)).getD 0
      let iv := sealIv c (Pkt.src p)
      let clear := { p with payload := sealXor key iv p.payload, sealCtr := 0, sealTag := 0 }
      if Config.gcmTag key iv (sealAad p) clear.payload = p.sealTag ∧ s.fresh c = true then
        match s.replayOk (Pkt.src p) (Pkt.part p) c with
        | some s => (.accept clear, s)
        | none => (.discard, s.sealFail)
      else (.discard, s.sealFail)
    else if Pkt.isReply p && Pkt.len p == 0 && Pkt.status p != 0 then (.accept p, s)
    else (.discard, s.sealFail)
  else if Pkt.sealed p then (.denied, s)
  else (.accept p, s)

end Sys2Proof.Machine
end

