-- ==== Sys2Proof/Machine/Issue.lean ====
section
/-! DEFINITION. Issuing a request and sending a reply: the tracker (R125, R126), the hand-over to the switch core or to
the on-die network (R17, R67), releases and fences of an engine instance (R137 to R141). -/

namespace Sys2Proof.Machine

/-- The port number that stands for the on-die network. -/
def onDie : Nat := 98

/-- The internal port that takes a packet for this module's endpoints (R17): 97 contributions and multicast stores for the
module itself, 96 the rest. -/
def State.inner (s : State) (p : Pkt) : Nat :=
  if (Pkt.opcode p = 4 ∨ Pkt.opcode p = 5 ∨ Pkt.opcode p = 6) ∧ Pkt.dst p = s.selfId then 97 else 96

/-- Put a packet where its first consumer in this module takes it, by the internal port (R17). -/
def State.deliver (s : State) (from_ : Nat) (p : Pkt) : State :=
  if s.inner p = 97 then { s with xb := { s.xb with rdxIn := s.xb.rdxIn ++ [⟨from_, p⟩] } }
  else { s with xb := { s.xb with epIn := s.xb.epIn ++ [⟨from_, p⟩] } }

/-- The number that stands for port 97 with a copy for optical port `p` (R18). -/
def viaPort (p : Nat) : Nat := 1000 + p

/-- Hand a packet to the switch core by an internal port: 96, 97, or 97 with a copy for one optical port. -/
def State.toSwitch (s : State) (port : Nat) (p : Pkt) : State :=
  if port = 96 then { s with xb := { s.xb with out96 := s.xb.out96 ++ [p] } }
  else { s with xb := { s.xb with out97 := s.xb.out97 ++ [(p, if 1000 ≤ port then some (port - 1000) else none)] } }

/-- Send a packet through an internal port, sealed for a confidential partition (R423, R424); what would be sealed waits
while the module is not locked. -/
def State.sendOut (s : State) (port : Nat) (p : Pkt) : State :=
  if s.confidential (Pkt.part p) then
    if s.locked then let (q, s) := s.sealPkt p; s.toSwitch port q
    else { s with pa := { s.pa with sealWait := s.pa.sealWait ++ [(port, p)] } }
  else s.toSwitch port p

/-- Send a packet that a unit of this module forms: by the on-die network to an own identifier served here, otherwise
through an internal port. A packet for an attached accelerator that is a reply leaves through port 96 (R17). -/
def State.send (s : State) (port : Nat) (p : Pkt) : State :=
  let own := if Pkt.isReply p then Pkt.dst p == s.selfId else s.owns (Pkt.dst p)
  if own then s.deliver onDie p else s.sendOut port p

/-- Reply to a request under R101: `SRC_EP` is this module's `SELF_ID`, also for a request that an attached accelerator
performed, since the module forms the reply (R371; log 122, DESIGN CHOICE). -/
def State.reply (s : State) (q : Pkt) (opcode status : Nat) (payload : List Byte) (w3 : Word) : State :=
  s.send 96 (Pkt.reply q s.selfId opcode status payload w3)

/-- End a request with a status: an `ACK` that carries it (R103). A `TILE_WRITE` and a `REDUCE` are answered only when
they fail. An end with `PARITY_EXHAUSTED` is counted (R128). -/
def State.ack (s : State) (q : Pkt) (status : Nat) : State :=
  let s := if status = stPARITY then s.bump TRACK_PARITY_EXHAUSTED_COUNT else s
  if status = 0 ∧ (Pkt.opcode q = 10 ∨ Pkt.opcode q = 5) then s else s.reply q 0x81 status [] 0

/-! ## Accumulator slots -/

/-- Accumulator slots in use: those of the group that a row holds, and all (R199, R200, R226). -/
def State.rdxCounts (s : State) (row : Nat) : State :=
  let slots := (s.ra.chunks ++ s.ra.writing).map (fun c => (c.row, c.grp, c.part)) ++ s.tu.staged.map (fun c => (c.row, c.grp, c.part))
  let mine := (row, s.get (RDX_GROUP_A_GROUP_ID row), s.get (RDX_GROUP_A_PARTITION row))
  (s.wr RDX_SLOTS_FREE (4096 - slots.length)).put (RDX_GROUP_B_SLOTS_USED row) (slots.filter (· == mine)).length

/-- A closed chunk's result store has been sent: its slot frees (R214). -/
def State.slotSent (s : State) (chunk : Nat) : State :=
  match takeFirst (fun (c : Chunk) => c.id == chunk) s.ra.writing with
  | some (c, rest) => ({ s with ra := { s.ra with writing := rest } }).rdxCounts c.row
  | none => s

/-! ## Tracker -/

/-- The access's home lies in the issuer's `DEVICE` or `DOMAIN` instance (R135, R136). -/
def State.inDevice (s : State) (p : Pkt) : Bool :=
  Pkt.dst p == s.selfId
def State.inDomain (s : State) (p : Pkt) : Bool := s.owns (Pkt.dst p)

/-- A tag that is neither in use nor held back (R125, R126): which free one is a free value (log 4). -/
def State.freeTag (s : State) : Nat × State :=
  let (v, s) := s.take
  let c := v.toNat % 2 ^ 20
  let taken := s.tr.entries.map (·.1) ++ s.tr.fwd.map (·.1)
  let busy : Nat → Bool := fun t => taken.contains t || s.tr.holds.any (fun h => h.1 == t && s.edge < h.2)
  (if busy c then ((List.range (taken.length + s.tr.holds.length + 1)).find? (fun t => !busy t)).getD 0 else c, s)

/-- The partition may take one more entry (R125). -/
def State.trackRoom (s : State) (n : Nat) : Bool := s.get (TRACK_PART_SHARE_IN_USE n) < s.get (TRACK_PART_SHARE_COUNT n)

/-- The partition whose tracker entry a request takes: that of the extent for a request to a lender, which itself is of
partition 0 (R307, R319); that of the packet otherwise. -/
def State.trackPart (s : State) (p : Pkt) (i : Issuer) : Nat :=
  match i with
  | .tier op _ => match s.tr.ops.find? (fun o => o.1 == op) with | some (_, o) => Pkt.part o.pkt | none => Pkt.part p
  | _ => Pkt.part p

/-- A request of the partition takes its entry at once: one is free, and no earlier request of the partition waits for it
(R125, R144; log 148, DEDUCED). -/
def State.trackOpen (s : State) (n : Nat) : Bool := s.trackRoom n && s.tr.stalled.all (fun e => s.trackPart e.1 e.2 != n)

/-- Open an entry for a packet: its tag and generation. `other` is the source of a tile move (R126). -/
def State.openEntry (s : State) (p : Pkt) (i : Issuer) (other : Nat := 0xFFFF) : (Nat × Nat) × State :=
  let n := s.trackPart p i
  let (t, s) := s.freeTag
  let g := (mget 15 s.tr.gens t + 1) % 16
  let e : TEntry :=
    { part := n, gen := g, sent := s.edge, dst := Pkt.dst p, dst2 := other,
      lostAt := if s.lost (Pkt.dst p) || (other != 0xFFFF && s.lost other) then some s.edge else none, opcode := Pkt.opcode p, sem := Pkt.sem p,
      inDevice := s.inDevice p, inDomain := s.inDomain p, issuer := i }
  let tr :=
    { s.tr with
      entries := minsert (merase s.tr.entries t) t e, gens := mset 15 s.tr.gens t g,
      holds := s.tr.holds.filter (fun h => s.edge < h.2) }
  let s := { s with tr := tr }
  ((t, g), s.put (TRACK_PART_SHARE_IN_USE n) (s.get (TRACK_PART_SHARE_IN_USE n) + 1))

/-- Close an entry; `hold` keeps its tag back for `LOST_WAIT` beats (R126). -/
def State.closeEntry (s : State) (t : Nat) (hold : Bool) : State :=
  match s.tr.entries.find? (fun e => e.1 == t) with
  | none => s
  | some (_, e) =>
    let tr :=
      { s.tr with
        entries := merase s.tr.entries t,
        holds := if hold then (t, s.edge + s.get TRACK_CONFIG_LOST_WAIT) :: s.tr.holds else s.tr.holds }
    let s := { s with tr := tr }
    s.put (TRACK_PART_SHARE_IN_USE e.part) (s.get (TRACK_PART_SHARE_IN_USE e.part) - 1)

/-- A packet with a tag and generation. -/
def Pkt.tagged (p : Pkt) (t g : Nat) : Pkt := Pkt.set2 (Pkt.set2 p 19 0 t) 23 20 g

/-- Send a tracked request under an entry of its own: the issuing module ends it with `ACCESS_DENIED` when it breaks R96 or
names a reserved endpoint (R63, R97). -/
def State.issueNow (s : State) (port : Nat) (p : Pkt) (i : Issuer) : State :=
  let ((t, g), s) := s.openEntry p i
  let q := Pkt.tagged p t g
  if Pkt.wellFormed q && Pkt.dst q != 0 && Pkt.dst q != 0xFFFF then
    (match i with | .result c false => if s.owns (Pkt.dst q) then s.slotSent c else s | _ => s).send (match i with | .copy _ _ c => viaPort c | .boot => viaPort (s.rs.port.getD 0) | _ => port) q
  else s.deliver onDie (Pkt.reply q s.selfId 0x81 stACCESS_DENIED [] 0)

/-- Send a tracked request, or let it stall while the partition has no entry for it (R125). -/
def State.issue (s : State) (port : Nat) (p : Pkt) (i : Issuer) : State :=
  if s.trackOpen (s.trackPart p i) then s.issueNow port p i
  else ({ s with tr := { s.tr with stalled := s.tr.stalled ++ [(p, i)] } }).bump TRACK_STALL_COUNT

/-! ## Engine instances: held requests (R137 to R141) -/

/-- The number of a thread as an engine instance. -/
def engThread (c t : Nat) : Nat := 32 * c + t

/-- The access was issued by the thread. -/
def ofThread (c t : Nat) (i : Issuer) : Bool :=
  match i with | .thread c' t' _ => c == c' && t == t' | _ => false

/-- A scope's instance holds the access (R135): scope 0 none, 1 `DEVICE`, 2 `DOMAIN`, 3 `FABRIC`. -/
def inScope (scope : Nat) (dev dom : Bool) : Bool := if scope = 0 then false else if scope = 1 then dev else if scope = 2 then dom else true

/-- Every earlier access of the thread in a scope has its reply (R137, R336). -/
def State.drained (s : State) (c t scope : Nat) : Bool :=
  s.tr.entries.all (fun e => !(ofThread c t e.2.issuer && inScope scope e.2.inDevice e.2.inDomain)) &&
  s.tr.stalled.all (fun e => !(ofThread c t e.2 && inScope scope (s.inDevice e.1) (s.inDomain e.1))) &&
  (s.tr.moves.map (·.2) ++ s.tr.queued).all (fun m => !(ofThread c t m.owner &&
    (inScope scope (faEp m.src == s.selfId) (s.owns (faEp m.src)) || inScope scope (faEp m.dst == s.selfId) (s.owns (faEp m.dst)))))

/-- No earlier acquire of the thread is open (R141). -/
def State.acquired (s : State) (c t : Nat) : Bool :=
  s.tr.entries.all (fun e => !(ofThread c t e.2.issuer && (e.2.sem == 1 || e.2.sem == 3)))

/-- The request may be sent now (R140, R141). -/
def State.mayIssue (s : State) (c t : Nat) (p : Pkt) : Bool :=
  s.acquired c t && (if Pkt.sem p == 2 || Pkt.sem p == 3 then s.drained c t (Pkt.scope p) else true)

/-- A thread's request: sent, or held behind a release or an acquire; later requests of the thread stay behind a held
one, which keeps R132 (log 7). -/
def State.issueThread (s : State) (c t : Nat) (p : Pkt) (i : Issuer) : State :=
  let h := mget [] s.tr.held (engThread c t)
  if h.isEmpty && s.mayIssue c t p then s.issue 96 p i
  else { s with tr := { s.tr with held := mset [] s.tr.held (engThread c t) (h ++ [.pkt p i]) } }

/-- Send the held requests of a thread that may now go, in order. -/
def releaseHeld (c t : Nat) : Nat → State → State
  | 0, s => s
  | n + 1, s =>
    match mget [] s.tr.held (engThread c t) with
    | .pkt p i :: r =>
      if s.mayIssue c t p then
        releaseHeld c t n (({ s with tr := { s.tr with held := mset [] s.tr.held (engThread c t) r } }).issue 96 p i)
      else s
    | _ => s

end Sys2Proof.Machine
end

