-- ==== Sys2Proof/Machine/Tiers.lean ====
section
/-! DEFINITION. The memory tiers (R302 to R326): extent table, frames, quotas, shared pools, eviction. -/

namespace Sys2Proof.Machine

/-! ## Extent table (R305, R306) -/

def State.ext0 (s : State) (e : Nat) : Word := mget 0 s.ti.ext0 e
def State.ext1 (s : State) (e : Nat) : Word := mget 0 s.ti.ext1 e
def State.extState (s : State) (e : Nat) : Nat := bits (s.ext0 e) 2 0
def State.extPin (s : State) (e : Nat) : Bool := bit (s.ext0 e) 3
def State.extShared (s : State) (e : Nat) : Bool := bit (s.ext0 e) 4
def State.extMoving (s : State) (e : Nat) : Bool := bit (s.ext0 e) 5
def State.extPref (s : State) (e : Nat) : Nat := bits (s.ext0 e) 9 8
def State.extAge (s : State) (e : Nat) : Nat := bits (s.ext0 e) 39 16
def State.extLoc (s : State) (e : Nat) : Nat := (s.ext1 e).toNat

/-- The state with the words of an extent entry set. -/
def State.setExt (s : State) (e : Nat) (w0 w1 : Word) : State :=
  { s with ti := { s.ti with ext0 := mset 0 s.ti.ext0 e w0, ext1 := mset 0 s.ti.ext1 e w1 } }

/-- The state with a field of an extent entry's word 0 set. -/
def State.putExt (s : State) (e hi lo n : Nat) : State := s.setExt e (setBits (s.ext0 e) hi lo n) (s.ext1 e)

/-- Extent `e` of partition `n`'s space (R304). -/
def State.extentAt (s : State) (n e : Nat) : Option Nat :=
  if e < s.get (MEM_PART_EXT_COUNT n) then some (s.get (MEM_PART_EXT_FIRST n) + e) else none

/-- The table entry of an offset in a partition's tier range, when the index is below `COUNT`. -/
def State.extentOf (s : State) (n o : Nat) : Option Nat := s.extentAt n (o / 2 ^ 21)

/-- The partition that owns an extent table entry. -/
def State.extOwner (s : State) (e : Nat) : Nat :=
  ((List.range 32).find? (fun n => s.get (MEM_PART_EXT_FIRST n) ≤ e && e < s.get (MEM_PART_EXT_FIRST n) + s.get (MEM_PART_EXT_COUNT n))).getD 0

/-- The index of a table entry in its partition's tier range (R305). -/
def State.extIndex (s : State) (e : Nat) : Nat := e - s.get (MEM_PART_EXT_FIRST (s.extOwner e))

/-- Every access updates `AGE` (R307). -/
def State.touchExt (s : State) (e : Nat) : State := s.putExt e 39 16 (s.beat / 64)

/-! ## Frames (R310): tier 0 T1, 1 T2, 2 T3 -/

/-- The units of stack `k` of the tier region that are not lent out. -/
def State.t1Units (s : State) (k : Nat) : List Nat :=
  (List.range 64).filter (fun u => inRuns (s.reg MEM_TIER_REGION) k u && s.stackUp (k * 2 ^ 36) &&
    !(List.range 8).any (fun i => s.get (MEM_LEND_OUT_STATE i) == 1 && s.get (MEM_LEND_OUT_STACK i) == k &&
      s.get (MEM_LEND_OUT_FIRST i) ≤ u && u < s.get (MEM_LEND_OUT_FIRST i) + s.get (MEM_LEND_OUT_PAGES i)))

/-- Frames of a tier. -/
def State.frameCount (s : State) (x : Nat) : Nat :=
  match x with
  | 0 => 512 * ((List.range 4).map (fun k => (s.t1Units k).length)).sum
  | 1 => 512 * ((List.range 8).map (fun i => if s.get (MEM_LEND_IN_STATE i) = 1 then s.get (MEM_LEND_IN_PAGES i) else 0)).sum
  | _ => s.rd MEM_T3_FRAMES

/-- The frames that extents and running moves hold in a tier, by location. -/
def State.usedFrames (s : State) (x : Nat) : List Nat :=
  (s.ti.ext0.filterMap (fun e => if bits e.2 2 0 = x + 2 then some (s.extLoc e.1) else none)) ++
    (s.ti.moves.filterMap (fun m => if m.dest = x then some m.frame else none))

/-- Frames of T1 in one stack: its `j`-th frame's address. -/
def State.t1Frame (s : State) (k j : Nat) : Nat := k * 2 ^ 36 + (s.t1Units k).getD (j / 512) 0 * 2 ^ 30 + (j % 512) * 2 ^ 21

/-- The fabric address of frame `j` of lend-in entry `i` (R319). -/
def State.t2Frame (s : State) (i j : Nat) : Nat :=
  s.get (MEM_LEND_IN_LENDER_EP i) * 2 ^ 48 + s.get (MEM_LEND_IN_WIN i) * 2 ^ 42 + j * 2 ^ 21

/-- Pick one of `n` places that are not busy: which one is a free value (log 4). -/
def State.pick (s : State) (n : Nat) (busy : Nat → Bool) : Option Nat × State :=
  let (v, s) := s.take
  if n = 0 then (none, s)
  else if !busy (v.toNat % n) then (some (v.toNat % n), s)
  else ((List.range n).find? (fun i => !busy i), s)

/-- A free T1 frame of a stack. -/
def State.freeT1 (s : State) (k : Nat) : Option Nat × State :=
  let used := s.usedFrames 0
  let (j, s) := s.pick (512 * (s.t1Units k).length) (fun j => used.contains (s.t1Frame k j))
  (j.map (s.t1Frame k), s)

/-- A free frame of a tier: T1 from stack `stack` (7: extent index mod 4) and then the next stacks (R311); T2 from
lend-in entry `lend` (15: any). -/
def State.freeFrame (s : State) (x e stack lend : Nat) : Option Nat × State :=
  match x with
  | 0 =>
    let k := if stack < 4 then stack else s.extIndex e % 4
    [k, (k + 1) % 4, (k + 2) % 4, (k + 3) % 4].foldl (fun (r, s) i => match r with | some f => (some f, s) | none => s.freeT1 i)
      (none, s)
  | 1 =>
    let used := s.usedFrames 1
    let es := (List.range 8).filter (fun i => s.get (MEM_LEND_IN_STATE i) == 1 && (lend == 15 || lend == i))
    es.foldl (fun (r, s) i => match r with
      | some f => (some f, s)
      | none =>
        let (j, s) := s.pick (512 * s.get (MEM_LEND_IN_PAGES i)) (fun j => used.contains (s.t2Frame i j))
        (j.map (s.t2Frame i), s)) (none, s)
  | _ =>
    let used := s.usedFrames 2
    let base := s.get MEM_T3_POOL_BASE * 2 ^ 21
    let (j, s) := s.pick (s.rd MEM_T3_FRAMES) (fun j => used.contains (base + j * 2 ^ 21))
    (j.map (fun j => base + j * 2 ^ 21), s)

/-! ## Quotas (R311) -/

def quotaF (x n : Nat) : Fld := match x with | 0 => MEM_PART_QUOTA_T1 n | 1 => MEM_PART_QUOTA_T2 n | _ => MEM_PART_QUOTA_T3 n
def tuseF (x n : Nat) : Fld := match x with | 0 => MEM_PART_TUSE_T1 n | 1 => MEM_PART_TUSE_T2 n | _ => MEM_PART_TUSE_T3 n

/-- Frames of tier `x` that a partition holds: under quota (`sh` false) or shared. -/
def State.framesOf (s : State) (n x : Nat) (sh : Bool) : Nat :=
  (s.ti.ext0.filter (fun e => bits e.2 2 0 == x + 2 && bit e.2 4 == sh && s.extOwner e.1 == n)).length +
    (s.ti.moves.filter (fun m => m.dest == x && m.shared == sh && m.part == n)).length

/-- Shared frames of a tier in use. -/
def State.sharedUsed (s : State) (x : Nat) : Nat :=
  (s.ti.ext0.filter (fun e => bits e.2 2 0 == x + 2 && bit e.2 4)).length + (s.ti.moves.filter (fun m => m.dest == x && m.shared)).length

/-- Frames beyond the sum of the quotas: the shared pool of a tier. -/
def State.sharedSize (s : State) (x : Nat) : Nat := s.frameCount x - ((List.range 32).map (fun n => s.get (quotaF x n))).sum

/-- Steps 1 and 2 of R311: a frame under quota, or a shared one; T2 is skipped for a confidential partition (R320). -/
def State.obtain (s : State) (n x e stack lend : Nat) : Option (Nat × Bool) × State :=
  if x = 1 ∧ s.confidential n then (none, s)
  else
    let (f, s) := s.freeFrame x e stack lend
    match f with
    | none => (none, s)
    | some f =>
      if s.framesOf n x false < s.get (quotaF x n) then (some (f, false), s)
      else if s.sharedUsed x < s.sharedSize x then (some (f, true), s)
      else (none, s)

/-- Held by a tile or job (R308, R312). -/
def State.extHeld (s : State) (e : Nat) : Bool :=
  s.tr.grants.any (fun g => g.2.uses.contains (.extent e)) || s.tu.uses.contains (.extent e) ||
    s.tu.attn.any (fun w => w.uses.contains (.extent e)) || s.tu.loads.any (fun l => l.uses.contains (.extent e))

/-- The extent that eviction from tier `x` takes (R312): the one whose `AGE` lies farthest behind, then the lowest. -/
def State.victim (s : State) (x : Nat) : Option Nat :=
  let now := s.beat / 64 % 2 ^ 24
  let c := s.ti.ext0.filter (fun e => bits e.2 2 0 == x + 2 && bit e.2 4 && !bit e.2 3 && !bit e.2 5 && !s.extHeld e.1)
  (c.foldl (fun (a : Option (Nat × Nat)) e =>
    let d := (now + 2 ^ 24 - bits e.2 39 16) % 2 ^ 24
    match a with | some (d', e') => if d' < d then some (d, e.1) else some (d', e') | none => some (d, e.1)) none).map (·.2)

/-- When a partition frees a frame under quota, its oldest `SHARED` extent of the tier takes the place (R313). -/
def State.promote (s : State) (n x : Nat) : State :=
  let now := s.beat / 64 % 2 ^ 24
  let c := s.ti.ext0.filter (fun e => bits e.2 2 0 == x + 2 && bit e.2 4 && s.extOwner e.1 == n)
  match c.foldl (fun (a : Option (Nat × Nat)) e =>
    let d := (now + 2 ^ 24 - bits e.2 39 16) % 2 ^ 24
    match a with | some (d', e') => if d' < d then some (d, e.1) else some (d', e') | none => some (d, e.1)) none with
  | some (_, e) => s.putExt e 4 4 0
  | none => s

/-- The frame counters follow the tables: free frames, frames held by each partition, lend-in frames in use. -/
def State.tierCounts (s : State) : State :=
  let s := s.wr MEM_T1_FREE (s.frameCount 0 - (s.usedFrames 0).length)
  let t2 := (List.range 8).filter (fun i => s.get (MEM_LEND_IN_STATE i) == 1)
  let s := s.wr MEM_T2_FREE (s.frameCount 1 - ((s.usedFrames 1).filter (fun f =>
    t2.any (fun i => f / 2 ^ 42 == s.get (MEM_LEND_IN_LENDER_EP i) * 64 + s.get (MEM_LEND_IN_WIN i)))).length)
  let s := s.wr MEM_T3_FREE (s.frameCount 2 - (s.usedFrames 2).length)
  let s := (List.range 32).foldl (fun s n => (List.range 3).foldl (fun s x =>
    s.put (tuseF x n) (s.framesOf n x false + s.framesOf n x true)) s) s
  (List.range 8).foldl (fun s i =>
    let b := s.get (MEM_LEND_IN_LENDER_EP i) * 64 + s.get (MEM_LEND_IN_WIN i)
    s.wr (MEM_LEND_IN_USE i) ((s.ti.ext0.filter (fun e => bits e.2 2 0 == 3 && s.extLoc e.1 / 2 ^ 42 == b)).length)) s

/-- Free the frame of an extent and set a new state for it; a frame freed under quota promotes a shared one (R313). -/
def State.freeExt (s : State) (e newState : Nat) : State :=
  let st := s.extState e
  let sh := s.extShared e
  let n := s.extOwner e
  let s := s.setExt e (setBits (setBits (setBits (s.ext0 e) 2 0 newState) 4 4 0) 5 5 0) 0
  let s := if 2 ≤ st ∧ st ≤ 4 ∧ !sh then s.promote n (st - 2) else s
  s.tierCounts

/-- Give a frame to an extent: state of the tier, location, shared or not. -/
def State.giveFrame (s : State) (e x f : Nat) (shared : Bool) : State :=
  (s.setExt e (setBits (setBits (s.ext0 e) 2 0 (x + 2)) 4 4 (b2n shared)) (BitVec.ofNat 64 f)).tierCounts

/-- Mark the 4 KiB block of a written extent dirty while a move copies it (R316). -/
def State.markDirty (s : State) (e o : Nat) : State :=
  let mv := s.ti.moves.map (fun m => if m.entry = e ∧ !m.dirty.contains (o / 4096) then { m with dirty := m.dirty ++ [o / 4096] } else m)
  { s with ti := { s.ti with moves := mv } }

/-- Every extent on a lender becomes `LOST`, its lend-in entries lost (R322). -/
def State.lendLost (s : State) (ep : Nat) : State :=
  let es := (List.range 8).filter (fun i => s.get (MEM_LEND_IN_STATE i) != 0 && s.get (MEM_LEND_IN_LENDER_EP i) == ep)
  if es.isEmpty then s
  else
    let xs := s.ti.ext0.filter (fun e => bits e.2 2 0 == 3 && s.extLoc e.1 / 2 ^ 48 == ep)
    let s := xs.foldl (fun s e => s.putExt e.1 2 0 5) s
    let s := es.foldl (fun s i => s.put (MEM_LEND_IN_STATE i) 3) s
    (s.flag MEM_HBM_STATUS_LOST_EXT).tierCounts

/-- The lend-in entry of a lender's window (`LENDER_EP` · 64 + `WIN`) is lost (R322). -/
def State.lendGone (s : State) (b : Nat) : Bool :=
  (List.range 8).any (fun i => s.get (MEM_LEND_IN_STATE i) == 3 && s.get (MEM_LEND_IN_LENDER_EP i) * 64 + s.get (MEM_LEND_IN_WIN i) == b)

/-- An access meets an extent on a lost lender, which is `LOST` with what else lies there (R322, R323). -/
def State.extLost (s : State) (e : Nat) : State :=
  let s := s.lendLost (s.extLoc e / 2 ^ 48)
  if s.extState e = 5 then s else ((s.putExt e 2 0 5).flag MEM_HBM_STATUS_LOST_EXT).tierCounts

/-- Every `T3` extent becomes `LOST` when the CXL link is down (R323). -/
def State.t3Lost (s : State) : State :=
  let xs := s.ti.ext0.filter (fun e => bits e.2 2 0 == 4)
  if xs.isEmpty then s
  else ((xs.foldl (fun s e => s.putExt e.1 2 0 5) s).flag MEM_HBM_STATUS_LOST_EXT).tierCounts

end Sys2Proof.Machine
end

