-- ==== Sys2Proof/Machine/Xlat.lean ====
section
/-! DEFINITION. Address translation at the owner: the checks of R74, the translation cache of R76 to R82, the outcome of
a tile (R83, R84) and fault records (R86 to R91). -/

namespace Sys2Proof.Machine

/-! ## Fault records -/

/-- A fault whose record cannot be queued (R90). -/
def State.faultDropped (s : State) (n : Nat) : Nat × State :=
  (stFAULT_DROPPED, (s.bump (XLAT_FQ_OVERFLOW_COUNT n)).flag (XLAT_FQ_STATUS_OVERFLOW n))

/-- The status of a failed translation of a request, after its record is queued or dropped (R88 to R90); a failure
without a record type writes none. -/
def State.fault (s : State) (p : Pkt) (tileLen : Nat) (f : PageFail) : Nat × State :=
  let n := Pkt.part p
  match f.rtype with
  | none => (f.status, s)
  | some ty =>
    if s.get (XLAT_FQ_BASE_EN n) = 0 ∨ s.fqDepth n = 4096 then s.faultDropped n
    else
      let prod := s.get (XLAT_FQ_PROD_IDX n)
      let rec_ : List Word := [
        mkWord [(7, 0, ty), (15, 8, f.status), (20, 16, n), (31, 24, Pkt.opcode p), (47, 32, Pkt.src p), (63, 48, Pkt.dst p)],
        faMake (Pkt.dst p) (faLow p.w1 + f.ofs),
        mkWord [(31, 0, f.ofs), (63, 32, tileLen)],
        mkWord [(19, 0, Pkt.tag p), (63, 24, s.beat)]]
      let (ok, s) := s.locWrite (s.get (XLAT_FQ_BASE_LOC n)) (s.get (XLAT_FQ_BASE_ADDR n) * 4096 + 32 * (prod % 4096))
        (wordsBytes rec_)
      if ok then
        (f.status, ((s.put (XLAT_FQ_PROD_IDX n) (prod + 1)).bump (XLAT_FQ_FAULT_COUNT n)).fqFull n)
      else s.faultDropped n

/-! ## Translation (R74) -/

/-- The outcome of the checks on a tile: the pieces that passed, the pages that failed, and the host regions that the
translation cache lacks (tile offset, partition, PASID, region address). -/
structure Trans where
  pieces : List Piece
  fails : List PageFail
  needs : List (Nat × Nat × Nat × Nat)
  deriving DecidableEq, Repr

/-- A failed page with a fault record of a type. -/
def failAt (ofs ty : Nat) : Trans := ⟨[], [⟨ofs, stFAULT, some ty⟩], []⟩

/-- Outcomes of two parts of a tile together. -/
def Trans.join (a b : Trans) : Trans := ⟨a.pieces ++ b.pieces, a.fails ++ b.fails, a.needs ++ b.needs⟩

/-- A run of `n` bytes from `a` split at multiples of `u`: offset in the run, address, length. -/
def splitUnits (u a n : Nat) : List (Nat × Nat × Nat) :=
  if n = 0 then []
  else (List.range ((a + n - 1) / u - a / u + 1)).map (fun i =>
    let lo := max a ((a / u + i) * u)
    (lo - a, lo, min (a + n) ((a / u + i + 1) * u) - lo))

/-- The translation cache entry of a host address (R76). -/
def atcFind (l : List AtcEntry) (n pasid va : Nat) : Option AtcEntry :=
  l.find? (fun e => e.part == n && e.pasid == pasid && va / e.size == e.va / e.size)

/-- One region of a `HOST` page (R77, R79, R80). -/
def State.hostRegion (s : State) (n pasid ofs va len : Nat) (write : Bool) (uses : List Use) : Trans × State :=
  if !s.on XLAT_ATS_CONFIG_ATS_EN then (failAt ofs 8, s)
  else match atcFind s.xl.atc n pasid va with
    | none => (⟨[], [], [(ofs, n, pasid, va / 2 ^ 21 * 2 ^ 21)]⟩, s)
    | some e =>
      let s := { s with xl := { s.xl with atc := e :: s.xl.atc.erase e } }
      let s := s.bump XLAT_ATC_HIT_COUNT
      if (if write then e.w else e.r) then
        (⟨[⟨ofs, len, 2, e.pa + (va - e.va), pasid, .host n pasid e.va :: uses⟩], [], []⟩, s)
      else (failAt ofs 6, s)

/-- One window page of a tile: checks 2 to 8 of R74. `perm` holds the bits needed: 1 read, 2 write,
4 atomic, 8 reduce. -/
def State.translatePage (s : State) (n slot win : Nat) (perm : Nat) (write : Bool) (part : Nat × Nat × Nat) : Trans × State :=
  let (ofs, low, len) := part
  let di := 384 * n + 64 * slot + win
  let d := mget 0 s.xl.winDir di
  let pg := low / 2 ^ 30 - 4096 * win
  if !dirValid d then (failAt ofs 1, s)
  else if dirCount d ≤ pg then (failAt ofs 2, s)
  else
    let i := dirFirst d + pg
    let w := mget 0 s.xl.page0 i
    if !pgValid w || pgOwner w != n then (failAt ofs 3, s)
    else if Nat.land (Nat.land (permBits d) (permBits w)) perm != perm then (failAt ofs 4, s)
    else
      let o := (mget 0 s.xl.page1 i).toNat + low % 2 ^ 30
      let uses : List Use := [.dir di, .page i]
      match pgKind w with
      | 0 => (⟨[⟨ofs, len, 0, o, 0, uses⟩], [], []⟩, s)
      | 1 =>
        if o + len ≤ 65536 * s.get (TUN_PART_SHARE_COUNT n) then
          (⟨[⟨ofs, len, 1, 65536 * s.get (TUN_PART_SHARE_FIRST n) + o, n, uses⟩], [], []⟩, s)
        else (failAt ofs 5, s)
      | 2 =>
        (splitUnits (2 ^ 21) (o % 2 ^ 64) len).foldl (fun (t, s) c =>
          let (u, s) := s.hostRegion n (pgPasid w) (ofs + c.1) c.2.1 c.2.2 write uses
          (t.join u, s)) (⟨[], [], []⟩, s)
      | 3 => (⟨[⟨ofs, len, 3, o, slot - 1, uses⟩], [], []⟩, s)
      | _ =>
        ((splitUnits (2 ^ 21) o len).foldl (fun (t : Trans) c =>
          match s.extentOf n c.2.1 with
          | none => t.join (failAt ofs 9)
          | some e =>
            if s.extState e = 0 then t.join (failAt ofs 9)
            else t.join ⟨[⟨ofs + c.1, c.2.2, 4, c.2.1, n, .extent e :: uses⟩], [], []⟩) ⟨[], [], []⟩, s)

/-- A whole tile: every page it touches (R83). Each translation counts its own hits (R94; log 137). -/
def State.translate (s : State) (n slot low len perm : Nat) (write : Bool) : Trans × State :=
  (splitUnits (2 ^ 30) low len).foldl (fun (t, s) c =>
    let (u, s) := s.translatePage n slot (low / 2 ^ 42) perm write c
    (t.join u, s)) (⟨[], [], []⟩, s)

/-- The failure with the lowest tile offset (R84). -/
def lowestFail : List PageFail → Option PageFail
  | [] => none
  | f :: r => match lowestFail r with | none => some f | some g => if g.ofs < f.ofs then some g else some f

/-- The failure that decides already: it lies below every open translation (R84). -/
def decided (fails : List PageFail) (needs : List (Nat × Nat × Nat × Nat)) : Option PageFail :=
  match lowestFail fails with
  | none => none
  | some f => if needs.all (fun d => f.ofs < d.1) then some f else none

/-- Send a Translation Request for a region, unless one is out (R77). -/
def State.atsRequest (s : State) (d : Nat × Nat × Nat × Nat) : State :=
  let (_, n, pasid, va) := d
  if s.xl.reqs.contains (n, pasid, va) then s
  else (({ s with xl := { s.xl with reqs := s.xl.reqs ++ [(n, pasid, va)] } }).bump XLAT_ATC_MISS_COUNT).emit
    (.atsRequest n pasid va)

/-- Wait for the host translations of a tile (R77). -/
def State.atsWait (s : State) (who : Waiter) (t : Trans) (write : Bool) : State :=
  let s := t.needs.foldl (fun s d => s.atsRequest d) s
  { s with xl := { s.xl with waits := s.xl.waits ++ [⟨who, t.needs, write, t.fails⟩] } }

/-! ## Requests to translate for -/

/-- The permission bits that a request needs (R68, R69, R71). -/
def Pkt.perm (p : Pkt) : Nat :=
  match Pkt.opcode p with
  | 2 | 4 | 10 => 2
  | 3 => 4
  | 5 | 6 => 8
  | 8 => Pkt.side p + 1
  | _ => 1

/-- Whether the entries and extents that a translation used are held by a request or a tile (R73, R81, R85). -/
def State.useHeld (s : State) (u : Use) : Bool :=
  s.tr.ops.any (fun o => o.2.uses.contains u) || s.tr.grants.any (fun g => g.2.uses.contains u) ||
    s.tu.uses.contains u || s.tu.attn.any (fun w => w.uses.contains u) || s.tu.loads.any (fun l => l.uses.contains u)

end Sys2Proof.Machine
end

