-- ==== Sys2Proof/Machine/Home.lean ====
section
/-! DEFINITION. The home (R103 to R123, R130, R155 to R158, R307 to R309): operations, line queues, the directory, what
one line queue entry performs, and how a request is answered. -/

namespace Sys2Proof.Machine

/-! ## Landing counters (R104, R146 to R149, R374) -/

/-- Answer the pending counter waits of a port that a counter has reached (R374). -/
def State.lcNotifyPort (s : State) (i p : Nat) : State :=
  let l := s.link p
  let hit := l.lcWaits.filter (fun w => w.idx == i && reached (s.counter i) w.target)
  let s := s.setLink p { l with lcWaits := l.lcWaits.filter (fun w => !(w.idx == i && reached (s.counter i) w.target)) }
  hit.foldl (fun s w => s.sendAttach p 0x90 0 w.id false w.part (BitVec.ofNat 64 i) (s.counter i) none) s

/-- Add to a landing counter and answer the waits that it reaches. -/
def State.lcAdd (s : State) (i n : Nat) : State :=
  let s := s.setCounter i (s.counter i + BitVec.ofNat 64 n)
  ((s.lk.ports.filter (fun l => !l.2.lcWaits.isEmpty)).map (·.1)).foldl (fun s p => s.lcNotifyPort i p) s

/-- The counter update of a performed request (R104). -/
def State.lcUpdate (s : State) (p : Pkt) : State :=
  if Pkt.lcEn p then
    s.lcAdd (Pkt.lcIdx p) (if Pkt.lcMode p then 1 else if Pkt.opcode p = 3 then Pkt.size p else Pkt.len p)
  else s

/-- `LC_IDX` lies in the partition's share, or no counter is named (R104). -/
def State.lcAllowed (s : State) (p : Pkt) : Bool := !Pkt.lcEn p || s.lcShare (Pkt.part p) (Pkt.lcIdx p)

/-! ## Counts that follow other state -/

/-- Grants held as owner (R115). -/
def State.setGrants (s : State) (g : SMap Grant) : State :=
  ({ s with tr := { s.tr with grants := g } }).wr TRACK_GRANTS_OPEN g.length

/-- The state with the line queues set. -/
def State.setLines (s : State) (l : List LineQ) : State :=
  ({ s with tr := { s.tr with lines := l } }).wr TRACK_LINE_QUEUES_IN_USE l.length

/-- The state with the directory set. -/
def State.setDir (s : State) (d : List DirEntry) : State := ({ s with dir := d }).wr MEM_DIR_IN_USE d.length

/-! ## Answers -/

/-- One reply of a multicast store's copy or share (R110): members that performed it, members that did not, status. -/
def State.mcReply (s : State) (id okN failN status : Nat) : State :=
  match s.tr.mcs.find? (fun m => m.1 == id) with
  | none => s
  | some (_, m) =>
    let st := if status = 0 then m.status else if m.status = 0 then status else min m.status status
    let m := { m with waiting := m.waiting - 1, ok := m.ok + okN, failed := m.failed + failN, status := st }
    { s with tr := { s.tr with mcs := minsert (merase s.tr.mcs id) id m } }

/-- The result write of a chunk has ended: every contribution ends with its status and the slot frees (R111, R214). -/
def State.resultDone (s : State) (chunk status : Nat) : State :=
  match takeFirst (fun c => c.id == chunk) s.ra.writing with
  | none => s
  | some (c, rest) =>
    let s := ({ s with ra := { s.ra with writing := rest } }).rdxCounts c.row
    c.added.foldl (fun s k => s.ack k.pkt status) s

/-- Release a grant and its cell (R112, R115). -/
def State.dropGrant (s : State) (h : Nat) : State := (s.setGrants (merase s.tr.grants h)).poolFree 0 (match s.tr.grants.find? (fun g => g.1 == h) with | some (_, g) => g.cell | none => 0) (.grant h)

/-- The `TILE_DONE` of a grant (R112, R115): the reply to its `TILE_CLOSE` (R101), or without one that to its
`TILE_OPEN`. -/
def State.tileDone (s : State) (h : Nat) (g : Grant) (status : Nat) : State :=
  let (tc, addr, tag, gen) := match g.closing with
    | some c => (Pkt.tc c, c.w1, Pkt.tag c, Pkt.gen c)
    | none => (g.tc, g.addr, g.tag, g.gen)
  let p : Pkt :=
    { w0 := mkWord [(7, 0, 0x84), (15, 8, status), (20, 16, g.part), (21, 21, tc), (47, 32, s.selfId), (63, 48, g.src)],
      w1 := addr, w2 := mkWord [(19, 0, tag), (23, 20, gen)], w3 := mkWord [(15, 0, h), (36, 16, g.written)],
      payload := [], bank := false, sealTag := 0, sealCtr := 0 }
  (s.dropGrant h).send 96 p

/-- Bytes performed for a `TILE_WRITE` under a grant; a `TILE_CLOSE` that waits for them is answered (R112). -/
def State.tileWritten (s : State) (h n : Nat) : State :=
  match s.tr.grants.find? (fun g => g.1 == h) with
  | none => s
  | some (_, g) =>
    let g := { g with written := g.written + n }
    s.setGrants (minsert (merase s.tr.grants h) h g)

/-- Record a copy that an agent was granted (R155): `own` makes it the owner. -/
def State.dirGrant (s : State) (line agent : Nat) (own : Bool) (name : Word × Nat) : State :=
  let e := (s.dir.find? (fun e => e.line == line)).getD ⟨line, false, 0, 0, false, []⟩
  let e := { e with owned := own || (e.owned && e.sharers == 2 ^ agent),
                    sharers := if own then 2 ^ agent else Nat.lor e.sharers (2 ^ agent),
                    names := minsert (merase e.names agent) agent name }
  s.setDir (e :: s.dir.filter (fun d => d.line != line))

/-- The `CACHE_EN` bit of an agent is 1 (R154). -/
def State.caches (s : State) (agent : Nat) : Bool := (s.get MEM_DIR_CONFIG_CACHE_EN).testBit agent

/-- An HDM access has ended with `PARITY_EXHAUSTED` (R385): the AER capability reports it. -/
def State.hdmError (s : State) : State :=
  let s := (s.flag GLOBAL_CXL_STATUS_HDM_ERR).bump GLOBAL_HDM_ERR_COUNT
  ({ s with hm := { s.hm with aer := true } }).emit .aerInternal

/-- Bytes that nothing constrains. -/
def takeBytes : Nat → State → List Byte × State
  | 0, s => ([], s)
  | n + 1, s =>
    let (v, s) := s.take
    let (r, s) := takeBytes n s
    (BitVec.ofNat 8 v.toNat :: r, s)

/-- Answer what an operation or a refused access came from. The spec gives no data for an HDM read that ends in another way
than `OK` or `PARITY_EXHAUSTED`: they are free (log 127). An end with `PARITY_EXHAUSTED` is counted (R128), where `State.ack`
does not count it. `bytes` holds what was read or the old value. -/
def State.answer (s : State) (src : OpFrom) (p : Pkt) (status : Nat) (bytes : List Byte) : State :=
  match src with
  | .request =>
    if status ≠ 0 then s.ack p status
    else match Pkt.opcode p with
      | 1 | 9 => s.reply p 0x80 0 bytes 0
      | 3 => if Pkt.noret p then s.ack p 0 else s.reply p 0x82 0 bytes 0
      | _ => s.ack p 0
  | .tile h =>
    if Pkt.opcode p = 9 then (if status = 0 then s.reply p 0x80 0 bytes 0 else s.ack p status)
    else if status = 0 then s.tileWritten h (Pkt.len p) else s.ack p status
  | .share id _ => (if status = stPARITY then s.bump TRACK_PARITY_EXHAUSTED_COUNT else s).mcReply id (if status = 0 then 1 else 0) (if status = 0 then 0 else 1) status
  | .result c => s.resultDone c status
  | .hdm cacheable =>
    let a := p.w1.toNat
    let caches := cacheable && status == 0 && s.caches 4
    let s := if status = stPARITY then s.hdmError.bump TRACK_PARITY_EXHAUSTED_COUNT else s
    let s := if caches then s.dirGrant (a / 64) 4 (Pkt.opcode p == 2) (p.w1, 0) else s
    if Pkt.opcode p ≠ 1 then s.emit (.hdmDone a caches)
    else if status = 0 then s.emit (.hdmData a bytes caches)
    else if status = stPARITY then s.emit (.hdmData a (List.replicate (Pkt.rlen p) 0xFF) false)
    else let (bs, s) := takeBytes (Pkt.rlen p) s; s.emit (.hdmData a bs false)
  | .attach port agent own part =>
    let line := (s.tr.ops.find? (fun o => o.2.pkt == p && o.2.src == src)).elim 0 (fun o => o.2.base / 64)
    let had := s.dir.find? (fun e => e.line == line && e.sharers.testBit agent)
    let undo := if status = 0 then some (line, had.isSome, had.any (fun e => e.owned)) else none
    let s := if status = 0 then s.dirGrant line agent own (p.w1, part) else s
    let s := if status = stPARITY then s.bump TRACK_PARITY_EXHAUSTED_COUNT else s
    s.sendAttach port (if own then 0xA1 else 0xA0) status (Pkt.tag p) false part p.w1 0 (if status = 0 then some bytes else none) undo

/-! ## Line queues -/

/-- The key of a line: page kind, space, and address / 64. -/
def lineKey (kind space a : Nat) : Nat := (kind * 2 ^ 20 + space) * 2 ^ 58 + a / 64
/-- The byte address of a line in its space. -/
def lineAddr (line : Nat) : Nat := line % 2 ^ 58 * 64

/-- The bytes of an operation that lie in a line: first address and count. -/
def opSlice (o : HOp) (line : Nat) : Nat × Nat :=
  let a := lineAddr line
  let lo := max a o.base
  (lo, min (a + 64) (o.base + Pkt.extent o.pkt) - lo)

/-- Put an entry in the queue of its line, or let it wait (R121, R122). -/
def State.enqueue (s : State) (op line src tc : Nat) : State :=
  let waiting := s.tr.lineWaits.any (fun w => w.1 == line)
  match s.tr.lines.find? (fun q => q.line == line) with
  | some q =>
    if q.q.length < 64 && !waiting then
      s.setLines (updWhere (fun q => q.line == line) (fun q => { q with q := q.q ++ [op] }) s.tr.lines)
    else { s with tr := { s.tr with lineWaits := s.tr.lineWaits ++ [(line, op, src, tc)] } }
  | none =>
    if s.tr.lines.length < 1024 && !waiting then s.setLines (s.tr.lines ++ [⟨line, [op], .none⟩])
    else { s with tr := { s.tr with lineWaits := s.tr.lineWaits ++ [(line, op, src, tc)] } }

/-- Take an operation out of the queue of a line: as its head, or wherever it stands. -/
def State.dequeue (s : State) (op line : Nat) : State :=
  let drop : LineQ → LineQ := fun q =>
    if q.line = line then { q with q := q.q.erase op, wait := if q.q.head? = some op then .none else q.wait } else q
  let s := s.setLines ((s.tr.lines.map drop).filter (fun q => !q.q.isEmpty))
  { s with tr := { s.tr with lineWaits := s.tr.lineWaits.filter (fun w => !(w.1 == line && w.2.1 == op)) } }

/-- The state with what the head entry of a line waits for. -/
def State.setWait (s : State) (line : Nat) (w : LineWait) : State :=
  s.setLines (updWhere (fun q => q.line == line) (fun q => { q with wait := w }) s.tr.lines)

/-- The state with an operation changed. -/
def State.setOp (s : State) (o : HOp) : State := { s with tr := { s.tr with ops := minsert (merase s.tr.ops o.id) o.id o } }

/-- End an operation: its remaining entries are released, its counter updated and its answer sent (R103, R104). -/
def State.endOp (s : State) (o : HOp) (status : Nat) : State :=
  let s := o.todo.foldl (fun s l => s.dequeue o.id l) s
  let bytes := o.got.flatMap (·.2)
  let s := if status = 0 then s.lcUpdate o.pkt else s
  let s := s.answer o.src o.pkt status bytes
  { s with tr := { s.tr with ops := merase s.tr.ops o.id } }

/-- What performing one line queue entry gives. -/
inductive LineRes where
  | done (bytes : List Byte)
  | fail (status : Nat)
  | wait (w : LineWait)
  deriving DecidableEq, Repr

/-- Apply the outcome of the head entry of a line. -/
def State.finishLine (s : State) (line : Nat) (o : HOp) (r : LineRes) : State :=
  match r with
  | .wait w => s.setWait line w
  | .fail st => s.endOp o st
  | .done bytes =>
    let got := if bytes.isEmpty then o.got else minsert (merase o.got line) line bytes
    let o' := { o with got := got, todo := o.todo.erase line }
    let s := (s.dequeue o.id line).setOp o'
    if o'.todo.isEmpty then s.endOp o' 0 else s

/-- The operation at the head of a line queue. -/
def State.headOp (s : State) (line : Nat) : Option (LineQ × HOp) :=
  match s.tr.lines.find? (fun q => q.line == line) with
  | none => none
  | some q => match q.q with
    | [] => none
    | i :: _ => (s.tr.ops.find? (fun o => o.1 == i)).map (fun o => (q, o.2))

/-! ## Access kinds -/

/-- The access only reads (R155): a load, a tile read, a shared read. -/
def HOp.isLoad (o : HOp) : Bool :=
  match o.src with
  | .attach _ _ own _ => !own
  | _ => Pkt.opcode o.pkt == 1 || Pkt.opcode o.pkt == 9

/-- The bytes that an operation writes into a slice of its target. -/
def HOp.bytesFor (o : HOp) (lo n : Nat) : List Byte := (o.pkt.payload.drop (lo - o.base)).take n

/-- The old value that an atomic returns, and the new one, from the bytes at the home (R105, R106). -/
def atomicApply (p : Pkt) (old : List Byte) : List Byte :=
  let z := Pkt.size p
  leBytes z (atomicNew (Pkt.kind p) z (leNat old) (leNat (p.payload.take z)) (leNat ((p.payload.drop z).take z)))

/-- Perform a line slice on a byte memory: what is read or the old value, and what is written. -/
def HOp.perform (o : HOp) (lo n : Nat) (old : List Byte) : List Byte × Option (List Byte) :=
  match o.src with
  | .attach .. => (old, none)
  | _ =>
    match Pkt.opcode o.pkt with
    | 1 | 9 => (old, none)
    | 3 => (old, some (atomicApply o.pkt old))
    | _ => ([], some (o.bytesFor lo n))

/-! ## The coherence directory -/

/-- The cache agent that an operation is issued by: accelerator 0 to 3, 4 the host, none otherwise (R155). -/
def State.opAgent (s : State) (o : HOp) : Option Nat :=
  match o.src with
  | .attach _ a _ _ => some a
  | .hdm _ => some 4
  | _ => match s.slotOf (Pkt.src o.pkt) with
    | some k => if 1 ≤ k then some (k - 1) else none
    | none => none

/-- Send recalls or invalidations of a line to the agents of a set (R155, R372, R384). -/
def State.sendRecall (s : State) (e : DirEntry) (mask : Nat) (modified keep : Bool) : State :=
  let s := s.bumpBy MEM_DIR_RECALL_COUNT (popCount 5 mask)
  let s := s.setDir (updWhere (fun d => d.line == e.line) (fun d => { d with recalling := mask, keep := keep }) s.dir)
  (setBitsOf 5 mask).foldl (fun s a =>
    if a = 4 then s.emit (.backInval (some e.line))
    else
      let (addr, part) := mget (0, 0) e.names a
      match (s.slotPorts a).find? s.active with
      | some p => s.sendAttach p (if modified then 0xB0 else 0xB1) 0 0 keep part addr 0 none
      | none => s) s

/-- The action before an access to a line (R155): whether the entry waits. -/
def State.dirBefore (s : State) (line : Nat) (agent : Option Nat) (load domain : Bool) : Bool × State :=
  match s.dir.find? (fun e => e.line == line) with
  | none => (false, s)
  | some e =>
    let me := match agent with | some a => 2 ^ a | none => 0
    if e.recalling ≠ 0 then (true, s)
    else if e.owned then
      if e.sharers = me then (false, s) else (true, s.sendRecall e e.sharers true (load && domain))
    else if load then (false, s)
    else
      let others := e.sharers - Nat.land e.sharers me
      if others = 0 then (false, s) else (true, s.sendRecall e others false false)

/-- An access to a line makes its entry the most recently used of its set (R156): entries stand in that order. -/
def State.dirTouch (s : State) (line : Nat) : State :=
  match s.dir.find? (fun e => e.line == line) with
  | none => s
  | some e => s.setDir (e :: s.dir.filter (fun d => d.line != line))

/-- The set of a line, of the directory's 65,536 (R156): how lines spread over the sets is a value of the configuration. -/
def dirSetOf (line : Nat) : Nat := Config.dirSet line % 65536

/-- Room for a new entry in the line's directory set (R156): the line that is being evicted, if one must be. -/
def State.dirRoom (s : State) (line : Nat) : Option Nat × State :=
  if s.dir.any (fun e => e.line == line) then (none, s)
  else
    let set := s.dir.filter (fun e => dirSetOf e.line == dirSetOf line)
    if set.length < 16 then (none, s)
    else match set.getLast? with
      | none => (none, s)
      | some v =>
        if v.recalling ≠ 0 then (some v.line, s)
        else (some v.line, (s.bump MEM_DIR_EVICT_COUNT).sendRecall v v.sharers v.owned false)

/-- Entries that waited for a directory line may be performed again. -/
def State.dirWake (s : State) (line : Nat) : State :=
  s.setLines (updWhere (fun q => q.wait == .dir line) (fun q => { q with wait := .none }) s.tr.lines)

/-- An agent's copy of a line is gone, or `kept` shared; its part of a recall is over. -/
def State.dirDrop (s : State) (line agent : Nat) (kept : Bool) : State :=
  match s.dir.find? (fun e => e.line == line) with
  | none => s
  | some e =>
    let bit_ := 2 ^ agent
    let rec_ := e.recalling - Nat.land e.recalling bit_
    let sh := if kept then e.sharers else e.sharers - Nat.land e.sharers bit_
    let e' := { e with recalling := rec_, sharers := sh, owned := false, keep := e.keep && rec_ != 0 }
    let s := if sh = 0 then s.setDir (s.dir.filter (fun d => d.line != line))
      else s.setDir (updWhere (fun d => d.line == line) (fun _ => e') s.dir)
    if rec_ = 0 then s.dirWake line else s

/-- A write-back from an agent that is not the line's owner is discarded (R157). -/
def State.lateWb (s : State) : State := (s.flag MEM_DIR_STATUS_LATE_WB).bump MEM_DIR_LATE_WB_COUNT

/-- An agent answers for its copy of a line (R155, R157): an owner's data is written at the home, another agent's is
discarded; the owner keeps a shared copy after a recall that lets it. -/
def State.dirAnswer (s : State) (line agent : Nat) (data : Option (List Byte)) : State :=
  match s.dir.find? (fun e => e.line == line) with
  | none => s
  | some e =>
    let s := match data with
      | some d => if e.owned && e.sharers.testBit agent then s.hbmWrite (64 * line) (d.take 64) else s.lateWb
      | none => s
    s.dirDrop line agent (e.keep && e.owned && e.recalling.testBit agent)

/-- Remove an agent from every line without recall (R158). -/
def State.dirForget (s : State) (agent : Nat) : State :=
  (s.dir.filter (fun e => e.sharers.testBit agent)).foldl (fun s e => s.dirDrop e.line agent false) s

/-- A grant that was not sent records no copy (R546): the agent holds what it held before. -/
def State.dirUndo (s : State) (agent : Nat) (u : Nat × Bool × Bool) : State :=
  if u.2.1 then s.setDir (updWhere (fun d => d.line == u.1) (fun (d : DirEntry) => { d with owned := u.2.2 }) s.dir)
  else s.dirDrop u.1 agent false

/-! ## Performing an entry by page kind -/

/-- A line of HBM at physical address `a`. -/
def State.doHbm (s : State) (o : HOp) (lo n a : Nat) : LineRes × State :=
  let (r, w) := o.perform lo n (s.hbmRead a n)
  (.done r, match w with | some b => s.hbmWrite a b | none => s)

/-- A line of an `HBM` page, after its directory action (R155, R156); a coherent read whose agent may no longer cache is
denied (R154, R375). -/
def State.doHbmPage (s : State) (o : HOp) (line lo n : Nat) : LineRes × State :=
  let dl := lineAddr line / 64
  let agent := s.opAgent o
  let (w, s) := s.dirBefore dl agent o.isLoad (agent.isSome || (s.slotOf (Pkt.src o.pkt)).isSome)
  if w then (.wait (.dir dl), s)
  else if (match o.src with | .attach _ a _ _ => !s.caches a | _ => false) then (.fail stACCESS_DENIED, s)
  else
    let caches := match o.src with | .attach .. => true | .hdm c => c && s.caches 4 | _ => false
    let (v, s) := if caches then s.dirRoom dl else (none, s)
    match v with
    | some l => (.wait (.dir l), s)
    | none => (s.dirTouch dl).doHbm o lo n lo

/-- A line of a `HOST` page or of a frame in host memory: a CXL.cache access while the link is up (R103, R381). -/
def State.doHost (s : State) (o : HOp) (lo n pa : Nat) : LineRes × State :=
  if !s.cxlUp then (.fail stTARGET_LOST, s)
  else match Pkt.opcode o.pkt with
    | 1 | 9 | 3 => (.wait .host, s.emit (.cache pa n none))
    | _ => (.wait .host, s.emit (.cache pa n (some (o.bytesFor lo n))))

/-- A request with no live way to its accelerator (R75, R167). -/
def State.noRoute (s : State) : State := (s.flag XBAR_STATUS_NO_ROUTE).bump XBAR_NO_ROUTE_COUNT

/-- A line of an `ACCEL` page: the request forwarded under a forwarding record (R75, R371). -/
def State.doAccel (s : State) (o : HOp) (line lo n : Nat) : LineRes × State :=
  let id := s.slotId (o.space + 1)
  let ports := (s.slotPorts o.space).filter s.active
  match ports.head? with
  | none => (.fail stTARGET_LOST, s.noRoute)
  | some p =>
    if s.lost id then (.fail stTARGET_LOST, s.noRoute)
    else if s.confidential (Pkt.part o.pkt) ∧ !s.sealsPort p then (.fail stACCESS_DENIED, s)
    else if Pkt.opcode o.pkt = 3 ∧ !(s.rd (PORT_PEER_CAP p)).testBit (Pkt.kind o.pkt) then (.fail stACCESS_DENIED, s)
    else
      let taken := s.tr.fwd.map (·.1) ++ s.tr.entries.map (·.1)
      let tag := ((List.range (taken.length + 1)).find? (fun t => !taken.contains t)).getD 0
      let s := { s with tr := { s.tr with fwd := mset 0 s.tr.fwd tag (line + 1) } }
      let op := match Pkt.opcode o.pkt with | 1 | 9 => 1 | 3 => 3 | _ => 2
      let q : ReqForm :=
        { opcode := op, part := Pkt.part o.pkt, tc := Pkt.tc o.pkt, src := s.selfId, dst := id,
          addr := BitVec.ofNat 64 (if op = 3 then o.base else lo), tag := tag, scope := 0,
          w3 := if op = 1 then BitVec.ofNat 64 n else if op = 3 then mkWord [(6, 0, bits o.pkt.w3 6 0)] else 0,
          payload := if op = 1 then [] else if op = 3 then o.pkt.payload else o.bytesFor lo n }
      (.wait (.accel tag), s.sendOut 96 q.pkt)

/-- Ask for the tile buffer of a copy (R316 step 2): none when the pool is empty. -/
def State.copyBuf (s : State) (e : Nat) : Option (Nat × Nat) × State :=
  match s.poolFor 65536 with
  | none => (none, s)
  | some k => let (b, s) := s.poolAsk k (s.extOwner e) (.extent e); (b.map (fun i => (k, i)), s)

/-- Start the move of an extent (R316 steps 1 and 2): its frame is taken, `MOVING` set, and the copy begins. -/
def State.startMove (s : State) (e dest frame : Nat) (shared : Bool) (pinOp : Nat) (step waiter forMove : Option Nat) : State :=
  let s := s.setExt e (setBits (setBits (s.ext0 e) 5 5 1) 7 6 dest) (s.ext1 e)
  let (b, s) := s.copyBuf e
  let m : ExtMove := ⟨s.extOwner e, e, dest, frame, shared, 0, [], List.range 512, pinOp, step, waiter, forMove, b, s.extState e - 2⟩
  ({ s with ti := { s.ti with moves := s.ti.moves ++ [m] } }).tierCounts

/-- Evict from tier `x` (R312) for an allocation of an operation or a move: whether an eviction runs. -/
def State.evict (s : State) (x : Nat) (waiter forMove : Option Nat) : Bool × State :=
  if s.on MEM_TIER_CONFIG_EVICT_EN && decide (x < 2) then
    match s.victim x with
    | none => (false, s.flag MEM_HBM_STATUS_EVICT_FAIL)
    | some e =>
      let (f, s) := s.obtain (s.extOwner e) 2 e 7 15
      match f with
      | none => (false, s.flag MEM_HBM_STATUS_EVICT_FAIL)
      | some (fr, sh) => (true, (s.startMove e 2 fr sh 0 none waiter forMove).bump MEM_EVICT_COUNT)
  else (false, s)

/-- Fill a frame with zeros (R309). -/
def State.zeroFrame (s : State) (x f : Nat) : State :=
  if x = 0 then { s with hbm := s.hbm.filter (fun c => !(f ≤ c.1 && c.1 < f + 2 ^ 21)) } else s.emit (.fill x f)

/-- The line whose head operation waits for a vacated frame. -/
def State.frameLine (s : State) (op : Nat) : Option Nat := (s.tr.lines.find? (fun q => q.wait == .frame && q.q.head? == some op)).map (·.line)

/-- The extent for which the eviction of a move vacates its frame (R309, R312). -/
def State.frameFor (s : State) (m : ExtMove) : Option Nat :=
  (m.waiter.bind s.frameLine).bind (fun line => (s.headOp line).bind (fun x => s.extentOf x.2.space (opSlice x.2 line).1))

/-- An allocation for an extent already waits for a frame: others of it wait for that one (R309). -/
def State.allocating (s : State) (e : Nat) : Bool := s.ti.moves.any (fun m => s.frameFor m == some e)

/-- First-touch allocation (R309, R311): tier `PREF` and then each lower tier; `n` bounds the search. -/
def allocFrame (o e : Nat) : Nat → Nat → State → LineRes × State
  | 0, _, s => (.fail stQUOTA, s.bump MEM_QUOTA_EXCEEDED_COUNT)
  | k + 1, x, s =>
    if 2 < x then (.fail stQUOTA, s.bump MEM_QUOTA_EXCEEDED_COUNT)
    else
      let (f, s) := s.obtain (s.extOwner e) x e 7 15
      match f with
      | some (fr, sh) => (.wait .none, (s.giveFrame e x fr sh).zeroFrame x fr)
      | none =>
        if x = 1 ∧ s.confidential (s.extOwner e) then allocFrame o e k (x + 1) s
        else
          let (go, s) := s.evict x (some o) none
          if go then (.wait .frame, s) else allocFrame o e k (x + 1) s

/-- A line of a `TIER` page at its extent's frame (R307 to R309, R323). -/
def State.doFrame (s : State) (o : HOp) (line lo n e : Nat) : LineRes × State :=
  let a := s.extLoc e + lo % 2 ^ 21
  let dirty := fun (s : State) => if o.isLoad then s else s.markDirty e (lo % 2 ^ 21)
  match s.extState e with
  | 2 => let (r, s) := s.doHbm o lo n a; (r, dirty s)
  | 3 =>
    let ep := s.extLoc e / 2 ^ 48
    if s.fenced ep then (.fail stFENCED, s)
    else if s.lost ep || s.lendGone (s.extLoc e / 2 ^ 42) then (.fail stTARGET_LOST, s.extLost e)
    else
      let op := match Pkt.opcode o.pkt with | 1 | 9 => 1 | 3 => 3 | _ => 2
      let q : ReqForm :=
        { opcode := op, part := 0, tc := Pkt.tc o.pkt, src := s.selfId, dst := ep, addr := BitVec.ofNat 64 a,
          w3 := if op = 1 then BitVec.ofNat 64 n else if op = 3 then mkWord [(6, 0, bits o.pkt.w3 6 0)] else 0,
          payload := if op = 1 then [] else if op = 3 then o.pkt.payload else o.bytesFor lo n }
      let s := dirty s
      (.wait .lender, s.issue 96 q.pkt (.tier o.id line))
  | 4 => if s.cxlUp then s |> dirty |> (fun s => s.doHost o lo n a) else (.fail stTARGET_LOST, s.t3Lost)
  | _ => (.fail stTARGET_LOST, s)

/-- A line of a `TIER` page (R307). An access waits while its extent's move copies its last dirty blocks (R316 step 5); with
the switch due it is performed at the source, and copied first (R317). -/
def State.doTier (s : State) (o : HOp) (line lo n : Nat) : LineRes × State :=
  match s.extentOf o.space lo with
  | none => (.fail stFAULT, s)
  | some e =>
    if s.ti.moves.any (fun m => m.entry == e && m.pass == 4 && !m.dirty.isEmpty && !s.extHeld e) then (.wait .none, s)
    else
      let s := s.touchExt e
      match s.extState e with
      | 0 => (.fail stFAULT, s)
      | 1 =>
        if o.isLoad then (.done (List.replicate n 0), s)
        else if s.allocating e then (.wait .none, s)
        else
          let (r, s) := allocFrame o.id e 3 (s.extPref e) s
          match r with
          | .wait .none => s.doFrame o line lo n e
          | r => (r, s)
      | _ => s.doFrame o line lo n e

/-- Perform the head entry of a line queue (R121). -/
def State.lineDo (s : State) (o : HOp) (line : Nat) : LineRes × State :=
  let (lo, n) := opSlice o line
  match o.kind with
  | 0 => s.doHbmPage o line lo n
  | 1 =>
    let (r, w) := o.perform lo n (readBytes s.tu.store lo n)
    (.done r, match w with | some b => s.tunWrite lo b | none => s)
  | 2 => s.doHost o lo n lo
  | 3 => s.doAccel o line lo n
  | _ => s.doTier o line lo n

/-- The reply of a lender, of the host or of an accelerator to what the head entry of a line waits for. -/
def State.remoteDone (s : State) (line opId : Nat) (status : Nat) (bytes : List Byte) : State :=
  match s.headOp line with
  | some (_, o) =>
    if o.id ≠ opId then s
    else if status ≠ 0 then s.finishLine line o (.fail status)
    else s.finishLine line o (.done bytes)
  | none => s

/-! ## Starting an access at the owner -/

/-- Start the operation of a translated request: the counter share is checked and the line queue entries are taken
(R116, R121). -/
def State.startOp (s : State) (src : OpFrom) (p : Pkt) (c : Piece) : State :=
  if !s.lcAllowed p then s.answer src p stACCESS_DENIED []
  else
    let id := s.tr.nextOp
    let keys := (splitUnits 64 c.base (Pkt.extent p)).map (fun l => lineKey c.kind c.space l.2.1)
    let o : HOp := ⟨id, p, src, c.kind, c.base, c.space, c.uses, keys, [], 0⟩
    let s := { s with tr := { s.tr with nextOp := id + 1, ops := minsert s.tr.ops id o } }
    keys.foldl (fun s k => s.enqueue id k (Pkt.src p) (Pkt.tc p)) s

/-- The window is a lent one and the request does not come from its borrower (R318). -/
def State.lentDenied (s : State) (n slot win src : Nat) : Bool :=
  n == 0 && slot == 0 && (List.range 8).any (fun i =>
    s.get (MEM_LEND_OUT_STATE i) == 1 && s.get (MEM_LEND_OUT_WIN i) == win && s.get (MEM_LEND_OUT_BORROWER_EP i) != src)

/-- A `TILE_OPEN` whose translation passed: the grant, in one cell (R112, R115). -/
def State.openGrant (s : State) (p : Pkt) (cs : List Piece) : State :=
  let n := Pkt.part p
  if 65536 ≤ s.tr.grants.length then (s.bump (POOL_EMPTY_COUNT 0)).ack p stPOOL_EMPTY
  else
    let (h, s) := s.pick 65536 (fun h => s.tr.grants.any (fun g => g.1 == h))
    let h := h.getD 0
    match s.poolAsk 0 n (.grant h) with
    | (none, s) => s.ack p stPOOL_EMPTY
    | (some cell, s) =>
      let g : Grant :=
        { part := n, src := Pkt.src p, tag := Pkt.tag p, gen := Pkt.gen p, tc := Pkt.tc p, addr := p.w1, side := Pkt.side p,
          len := Pkt.tileLen p, written := 0, seen := s.edge, closing := none, cell := cell,
          uses := cs.flatMap (·.uses), pieces := cs }
      let s := s.setGrants (minsert (merase s.tr.grants h) h g)
      let s := { s with tr := { s.tr with idled := s.tr.idled.filter (· != h) } }
      s.reply p 0x83 0 [] (BitVec.ofNat 64 h)

/-- An accelerator does not seal, and the partition is confidential (R427). -/
def State.accelUnsealed (s : State) (a n : Nat) : Bool :=
  s.confidential n && ((s.slotPorts a).filter s.active).any (fun p => !s.sealsPort p)

/-- A request whose translation is complete. Requests of a confidential partition for an accelerator that does not seal
end with `ACCESS_DENIED` (R427). -/
def State.translated (s : State) (src : OpFrom) (p : Pkt) (cs : List Piece) : State :=
  if cs.any (fun c => c.kind == 3 && s.accelUnsealed c.space (Pkt.part p)) then s.answer src p stACCESS_DENIED []
  else if Pkt.opcode p = 8 then s.openGrant p cs
  else match src, cs with
    | .attach .., c :: _ => if c.kind = 0 then s.startOp src p c else s.answer src p stACCESS_DENIED []
    | _, c :: _ => s.startOp src p c
    | _, [] => s.answer src p stACCESS_DENIED []

/-- An access at the owner from check 2 of R116 on: translation, and then the operation, or a wait on host translations,
or the failure with its fault record. -/
def State.access (s : State) (src : OpFrom) (p : Pkt) (perm : Nat) (write : Bool) : State :=
  let n := Pkt.part p
  let slot := (s.slotOf (Pkt.dst p)).getD 0
  let low := faLow p.w1
  if !s.partActive n then s.answer src p stACCESS_DENIED []
  else if s.lentDenied n slot (low / 2 ^ 42) (Pkt.src p) then s.answer src p stACCESS_DENIED []
  else
    let (t, s) := s.translate n slot low (Pkt.extent p) perm write
    match decided t.fails t.needs with
    | some f => let (st, s) := s.fault p (Pkt.extent p) f; s.answer src p st []
    | none => if t.needs.isEmpty then s.translated src p t.pieces else s.atsWait (.access src p) t write

/-- The closed moves of the extents of a translation (R316 step 4). -/
def State.closedIn (s : State) (cs : List Piece) : List ExtMove :=
  s.ti.moves.filter (fun m => decide (4 ≤ m.pass) && cs.any (fun c => c.uses.contains (.extent m.entry)))

/-- No tile or job holds the extent, and no access to it is out at a lower tier (R316 steps 4 and 5, R317). -/
def State.extQuiet (s : State) (e : Nat) : Bool :=
  !s.extHeld e && s.tr.lines.all (fun q => !((q.wait == .lender || q.wait == .host) && (match s.headOp q.line with
    | some (_, o) => o.kind == 4 && s.extentOf o.space (opSlice o q.line).1 == some e
    | none => false)))

/-- Step 6 of a move is due (R316): nothing is dirty any more and nobody holds the extent. -/
def State.switchDue (s : State) (m : ExtMove) : Bool := decide (4 ≤ m.pass) && m.dirty.isEmpty && s.extQuiet m.entry

/-- A translation closes now: an extent that a tile would hold is in the closed part of its move (R316 step 4, R317). -/
def State.extClosed (s : State) (p : Pkt) : Bool :=
  let n := Pkt.part p
  let slot := (s.slotOf (Pkt.dst p)).getD 0
  let (t, _) := s.translate n slot (faLow p.w1) (Pkt.extent p) (Pkt.perm p) (Pkt.writes p)
  !(s.closedIn t.pieces).isEmpty

/-- The control window: window 63 of partition 0 on the module's own slot (R453). -/
def State.isControl (s : State) (p : Pkt) : Bool :=
  Pkt.part p == 0 && faLow p.w1 / 2 ^ 42 == 63 && Pkt.dst p == s.selfId

/-- A control message is taken: no memory is written and the reply is as to a performed store (R453); one of a reserved type
is discarded and counted (R455). -/
def State.takeControl (s : State) (src : OpFrom) (p : Pkt) : State :=
  if (Pkt.opcode p = 2 ∨ Pkt.opcode p = 4) ∧ Pkt.tc p = 1 ∧ (Pkt.len p = 32 ∨ Pkt.len p = 48) then
    if !s.lcAllowed p then s.answer src p stACCESS_DENIED []
    else
      let m := bytesWords 6 p.payload
      let type := wb m 0 7 0
      let s := if 1 ≤ type ∧ type ≤ 11 then { s with xb := { s.xb with ctlIn := s.xb.ctlIn ++ [(Pkt.src p, m)] } }
        else s.bump HEALTH_NOTICE_COUNT
      (s.lcUpdate p).answer src p 0 []
  else s.answer src p stACCESS_DENIED []

/-- A request or a share at its owner: fence, control window, translation (R116). -/
def State.ownerAccess (s : State) (src : OpFrom) (p : Pkt) : State :=
  if s.fenced (Pkt.src p) || s.fenced (Pkt.dst p) then s.answer src p stFENCED []
  else if s.isControl p then s.takeControl src p
  else s.access src p (Pkt.perm p) (Pkt.writes p)

/-- Take the packet at the front of the end-point block when it has an opcode that the row names, after its seal check
(R424); a discarded packet leaves no request, one that is denied is answered, and a reply that is denied ends its request
with `ACCESS_DENIED`. -/
def State.takeEp (s : State) (ops : List Nat) : Option (Option EpItem × State) :=
  match s.xb.epIn with
  | [] => none
  | i :: r =>
    if !ops.contains (Pkt.opcode i.pkt) then none
    else
      let s := { s with xb := { s.xb with epIn := r } }
      if i.port = onDie then some (some i, s)
      else match s.sealCheck i.pkt with
        | (.accept q, s) => some (some { i with pkt := q }, s)
        | (.discard, s) => some (none, s)
        | (.denied, s) =>
        if Pkt.isReply i.pkt then some (some { i with pkt := Pkt.asAck i.pkt s.selfId stACCESS_DENIED }, s) else some (none, s.ack i.pkt stACCESS_DENIED)

end Sys2Proof.Machine
end

