-- ==== Sys2Proof/Machine/Steps.lean ====
section
/-! DEFINITION. Work rings (R401 to R408), completion records, and the bookkeeping of running steps (R49, R57, R58). -/

namespace Sys2Proof.Machine

/-- A ring at rest. -/
def ring0 : Ring := ⟨[], [], [], []⟩

/-- Ring `r` of partition `n`. -/
def State.ring (s : State) (n r : Nat) : Ring := mget ring0 s.st.rings (16 * n + r)
def State.setRing (s : State) (n r : Nat) (x : Ring) : State :=
  { s with st := { s.st with rings := mset ring0 s.st.rings (16 * n + r) x } }

/-- Slots of a ring. -/
def State.ringSize (s : State) (n r : Nat) : Nat := 2 ^ s.get (RING_CFG_SIZE n r)

/-- Every fetch condition of R404 but the last. -/
def State.mayFetch (s : State) (n r : Nat) : Bool :=
  let x := s.ring n r
  let next := (s.get (RING_CONS_IDX n r) + x.fetching.length) % 2 ^ 32
  s.on (RING_BASE_EN n r) && next != s.get (RING_PROD_IDX n r) && !s.on (RING_STATUS_FETCH_ERR n r) &&
    decide (x.fetching.length + x.descs.length < 64) && !s.xb.closed && (!s.on (RING_BASE_LOC n r) || s.cxlUp)

/-- Room for one more completion record (R404). -/
def State.cqRoom (s : State) (n r : Nat) : Bool :=
  s.get (RING_STATUS_OUTSTANDING n r) + s.cqDepth n r < s.ringSize n r

/-- `CQ_FULL`: the room for records alone stops fetching (R404). -/
def State.ringFull (s : State) (n r : Nat) : State := s.put (RING_STATUS_CQ_FULL n r) (b2n (s.mayFetch n r && !s.cqRoom n r))

/-- Write a completion record, with its phase, and advance the producer (R408); the write is performed by `write`. -/
def State.cqWrite (s : State) (n r : Nat) (c : CqRec) (write : Nat → List Byte → State → Bool × State) : Bool × State :=
  let prod := s.get (RING_CQ_PROD_IDX n r)
  let size := s.ringSize n r
  let w0 := setBits c.w0 16 16 (b2n (prod / size % 2 == 0))
  let (ok, s) := write (s.get (RING_CQ_BASE_ADDR n r) * 4096 + 16 * (prod % size)) (wordsBytes [w0, c.w1]) s
  if ok then
    let s := s.put (RING_CQ_PROD_IDX n r) (prod + 1)
    let s := s.put (RING_STATUS_OUTSTANDING n r) (s.get (RING_STATUS_OUTSTANDING n r) - 1)
    let s := s.ringFull n r
    (true, if c.irq then s.sendMsix (s.get (RING_CFG_VEC n r)) else s)
  else (false, s)

/-- End a descriptor: its completion record is written, or waits to be written again (R408). -/
def State.complete (s : State) (n r idx : Nat) (words : List Word) (status sc detail : Nat) : State :=
  let h := wd words 0
  let c : CqRec :=
    ⟨mkWord [(7, 0, status), (15, 8, dType h), (20, 17, r), (63, 32, dCookie h)], mkWord [(15, 0, sc), (47, 16, detail)], dIrq h⟩
  let x := s.ring n r
  let s := s.setRing n r { x with open_ := x.open_.erase idx }
  if x.retry.isEmpty then
    let (ok, s) := s.cqWrite n r c (fun a b s => s.locWrite (s.get (RING_CQ_BASE_LOC n r)) a b)
    if ok then s
    else
      let s := s.flag (RING_STATUS_CQ_ERR n r)
      s.setRing n r { s.ring n r with retry := [c] }
  else s.setRing n r { s.ring n r with retry := x.retry ++ [c] }

/-! ## Commands on rings -/

/-- `RING_PROD_WRITE` (R403). -/
def execRingProdWrite (n : Part) (r : RingId) (v : Word) (s : State) : Host.Outcome State Fault Refusal :=
  let n := n.val
  let r := r.val
  let cons := s.get (RING_CONS_IDX n r)
  let new := (bits v 31 0 + 2 ^ 32 - cons) % 2 ^ 32
  let old := (s.get (RING_PROD_IDX n r) + 2 ^ 32 - cons) % 2 ^ 32
  if old ≤ new ∧ new ≤ s.ringSize n r then .next ((s.put (RING_PROD_IDX n r) (bits v 31 0)).ringFull n r)
  else .next (s.flag (RING_STATUS_PROD_ERR n r))

/-- `RING_CQ_CONS_WRITE` (R408). -/
def execRingCqConsWrite (n : Part) (r : RingId) (v : Word) (s : State) : Host.Outcome State Fault Refusal :=
  let n := n.val
  let r := r.val
  let new := (bits v 31 0 + 2 ^ 32 - s.get (RING_CQ_CONS_IDX n r)) % 2 ^ 32
  if new ≤ s.cqDepth n r then .next ((s.put (RING_CQ_CONS_IDX n r) (bits v 31 0)).ringFull n r)
  else .next (s.flag (RING_STATUS_CONS_ERR n r))

/-- `FQ_CONS_WRITE` (R92). -/
def execFqConsWrite (n : Part) (v : Word) (s : State) : Host.Outcome State Fault Refusal :=
  let n := n.val
  let new := (bits v 31 0 + 2 ^ 32 - s.get (XLAT_FQ_CONS_IDX n)) % 2 ^ 32
  if new ≤ s.fqDepth n then .next ((s.put (XLAT_FQ_CONS_IDX n) (bits v 31 0)).fqFull n)
  else .next (s.flag (XLAT_FQ_STATUS_CONS_ERR n))

/-- `DESCRIPTOR_FETCH` (R404): the read of the next slot is issued. -/
def execDescriptorFetch (n : Part) (r : RingId) (s : State) : Host.Outcome State Fault Refusal :=
  let n := n.val
  let r := r.val
  if s.mayFetch n r && s.cqRoom n r then
    let x := s.ring n r
    let idx := (s.get (RING_CONS_IDX n r) + x.fetching.length) % 2 ^ 32
    let a := s.get (RING_BASE_ADDR n r) * 4096 + 64 * (idx % s.ringSize n r)
    let s := s.setRing n r { x with fetching := x.fetching ++ [idx] }
    let s := s.put (RING_STATUS_OUTSTANDING n r) (s.get (RING_STATUS_OUTSTANDING n r) + 1)
    .next ((if s.on (RING_BASE_LOC n r) then s.emit (.hostRead a 64) else s).ringFull n r)
  else .next (s.ringFull n r)

/-- `FETCH_COMPLETE` (R405): the oldest read comes back; a ring in HBM yields what HBM holds. -/
def execFetchComplete (n : Part) (r : RingId) (a : Reply) (s : State) : Host.Outcome State Fault Refusal :=
  let n := n.val
  let r := r.val
  let x := s.ring n r
  match x.fetching, a with
  | idx :: rest, .ok bytes =>
    let at_ := s.get (RING_BASE_ADDR n r) * 4096 + 64 * (idx % s.ringSize n r)
    let b := if s.on (RING_BASE_LOC n r) then bytes else s.hbmRead at_ 64
    let d : Desc := ⟨idx, bytesWords 8 b, false, false, 0, none, false⟩
    let s := s.setRing n r { x with fetching := rest, descs := x.descs ++ [d] }
    .next ((s.put (RING_CONS_IDX n r) (idx + 1)).ringFull n r)
  | l@(_ :: _), .error =>
    let s := (s.setRing n r { x with fetching := [] }).flag (RING_STATUS_FETCH_ERR n r)
    .next ((s.put (RING_STATUS_OUTSTANDING n r) (s.get (RING_STATUS_OUTSTANDING n r) - l.length)).ringFull n r)
  | [], _ => .next s

/-- `CQ_RECORD_RETRY` (R408): the oldest record whose write failed is written again; `ok`: the write is performed. -/
def execCqRecordRetry (n : Part) (r : RingId) (ok : Bool) (s : State) : Host.Outcome State Fault Refusal :=
  let n := n.val
  let r := r.val
  let x := s.ring n r
  match x.retry with
  | [] => .next s
  | c :: rest =>
    let host := s.on (RING_CQ_BASE_LOC n r)
    let (done, s) := s.cqWrite n r c (fun a b s =>
      if host then (ok && s.cxlUp, if ok && s.cxlUp then s.emit (.hostWrite a b) else s)
      else (ok, if ok then s.hbmWrite a b else s))
    if done then .next (s.setRing n r { s.ring n r with retry := rest }) else .next (s.flag (RING_STATUS_CQ_ERR n r))

/-! ## Steps -/

/-- A step of a number. -/
def State.step? (s : State) (id : Nat) : Option Step := s.st.steps.find? (fun x => x.id == id)
/-- The state with a step changed. -/
def State.setStep (s : State) (x : Step) : State :=
  { s with st := { s.st with steps := updWhere (fun y => y.id == x.id) (fun _ => x) s.st.steps } }

/-- The descriptor at the head of a ring is taken: it leaves the fetched descriptors and is open until it ends. -/
def State.takeHead (s : State) (n r : Nat) : State :=
  let x := s.ring n r
  match x.descs with
  | [] => s
  | d :: rest => (s.setRing n r { x with descs := rest, open_ := x.open_ ++ [d.idx] }).ringFull n r

/-- The descriptor at the head of a ring ends at once (R407). -/
def State.endHead (s : State) (n r : Nat) (d : Desc) (status sc detail : Nat) : State :=
  (s.takeHead n r).complete n r d.idx d.words status sc detail

/-- The ring fence of the head descriptor holds it (R138). -/
def ringFenced (x : Ring) (d : Desc) : Bool := dFence (wd d.words 0) && !(x.open_.isEmpty && x.retry.isEmpty)

/-- Start a step for the head descriptor of a ring. -/
def State.newStep (s : State) (n r : Nat) (d : Desc) (sched : Bool) (cost : Nat) : Nat × State :=
  let id := s.st.nextStep
  let x : Step := ⟨id, n, r, d.idx, d.words, sched, s.edge, cost, 0, 0, 0, 0, none, 0, 0, 0⟩
  let s := s.takeHead n r
  (id, { s with st := { s.st with steps := s.st.steps ++ [x], nextStep := id + 1 } })

/-- The first failure of a step by offset stands (R410). -/
def Step.failAt (x : Step) (ofs status : Nat) : Step :=
  { x with fail := match x.fail with | some (o, st) => if ofs < o then some (ofs, status) else some (o, st) | none => some (ofs, status) }

/-- The first failure of a step in time stands (R238). -/
def Step.failFirst (x : Step) (status : Nat) : Step :=
  { x with fail := match x.fail with | some f => some f | none => some (0, status) }

/-- The status of a step's first failure, `OK` without one. -/
def Step.failStatus (x : Step) : Nat := match x.fail with | some (_, st) => st | none => 0

/-- A scheduled step of an earlier beat runs: it holds admission (R49, R58). -/
def State.heldBack (s : State) : Bool := s.st.steps.any (fun x => x.sched && decide (x.edge < s.edge))

/-- A step that held admission has ended at `now`; when it was the last, `TIME_SLIP_MAX` takes the time since the first
edge plus `SCAN` that found admission held (R58; log 114). -/
def State.holdEnd (s : State) (now : Nat) : State :=
  let s := { s with st := { s.st with heldTill := max s.st.heldTill now } }
  if s.heldBack then s
  else match s.st.holdFrom with
    | some t => ({ s with st := { s.st with holdFrom := none } }).raise TIME_SLIP_MAX (s.tm.clock + now - (t + s.cost 0))
    | none => s

/-- End a step at `now` (1/256 ns after the latest edge) with a status and its state code: window overruns are counted
(R57), the opening of admission is held till then (R49), and its completion record is written. -/
def State.endStepSc (s : State) (x : Step) (now status sc detail : Nat) : State :=
  let s := { s with st := { s.st with steps := s.st.steps.filter (fun y => y.id != x.id) } }
  let late := x.sched && ((x.edge == s.edge && decide (s.windowEnd < now)) || (x.edge + 1 == s.edge && decide (now ≤ s.cost 0)))
  let s := if late then s.bump TIME_OVERRUN_COUNT else s
  let s := if x.sched && decide (x.edge < s.edge) then s.holdEnd now else s
  s.complete x.part x.ring x.idx x.words status sc detail

/-- End a step with a status that has no state code. -/
def State.endStep (s : State) (x : Step) (now status detail : Nat) : State := s.endStepSc x now status 0 detail

/-- `BEAT_SLIP` (R58): a scheduled step of an earlier beat runs at the edge plus `SCAN`; counted once per edge. -/
def execBeatSlip (id : Nat) (s : State) : Host.Outcome State Fault Refusal :=
  match s.step? id with
  | none => .next s
  | some x =>
    if x.sched && decide (x.edge < s.edge) && decide (x.slipAt < s.edge) then
      let s := s.setStep { x with slipAt := s.edge }
      .next ((s.flag TIME_STATUS_SLIP).bump TIME_SLIP_COUNT)
    else .next s

end Sys2Proof.Machine
end

