-- ==== Sys2Proof/Machine/Threads.lean ====
section
/-! DEFINITION. Sequencer threads and cores (R327 to R337, R343): registers, completions, halting. -/

namespace Sys2Proof.Machine

/-- A halted thread. -/
def thread0 : ThreadSt := ⟨false, 0, [], 0, 0, 0, 0, [], 0, .none, none⟩

/-- The state of a thread. -/
def State.thread (s : State) (c t : Nat) : ThreadSt := mget thread0 s.sq.threads (engThread c t)
def State.setThread (s : State) (c t : Nat) (x : ThreadSt) : State :=
  { s with sq := { s.sq with threads := mset thread0 s.sq.threads (engThread c t) x } }

/-- A general register: x0 reads 0 and discards writes. -/
def ThreadSt.x (h : ThreadSt) (r : Nat) : Nat := if r = 0 then 0 else (mget 0 h.regs r).toNat
def ThreadSt.setX (h : ThreadSt) (r v : Nat) : ThreadSt :=
  if r = 0 then h else { h with regs := mset 0 h.regs r (BitVec.ofNat 64 v) }

/-- The partition of a core (R345). -/
def State.corePart (s : State) (c : Nat) : Nat := s.get (SEQ_CORE_STATE_PARTITION c)

/-- No request of a core's threads lacks a reply (R343). -/
def State.coreIdle (s : State) (c : Nat) : Bool :=
  (List.range 32).all (fun t => (s.thread c t).posted.isEmpty && (mget [] s.tr.held (engThread c t)).isEmpty) &&
  s.tr.entries.all (fun e => match e.2.issuer with | .thread c' _ _ => c' != c | _ => true) &&
  s.tr.stalled.all (fun e => match e.2 with | .thread c' _ _ => c' != c | _ => true)

/-- A core with no thread running and no request open is `LOADED` (R343). -/
def State.coreSettle (s : State) (c : Nat) : State :=
  if 2 ≤ s.get (SEQ_CORE_STATE_STATE c) ∧ s.get (SEQ_CORE_STATE_RUN_MASK c) = 0 ∧ s.coreIdle c = true then
    s.put (SEQ_CORE_STATE_STATE c) 1
  else s

/-- Who issues next on a core. -/
def State.coreTurn (s : State) (c : Nat) : CoreTurn := mget {} s.sq.turns c
def State.setTurn (s : State) (c : Nat) (x : CoreTurn) : State := { s with sq := { s.sq with turns := mset {} s.sq.turns c x } }

/-- Halt a thread: it is neither the running one any more nor one that a wait made ready (R328). -/
def State.haltThread (s : State) (c t : Nat) : State :=
  let x := s.coreTurn c
  let s := s.setTurn c { x with run := if x.last = t then 0 else x.run, woken := x.woken.erase t }
  let s := s.setThread c t { s.thread c t with running := false, wait := .none }
  let m := s.get (SEQ_CORE_STATE_RUN_MASK c)
  (s.put (SEQ_CORE_STATE_RUN_MASK c) (m - (if m.testBit t then 2 ^ t else 0))).coreSettle c

/-- A failed posted request is latched in `seqerr` (R337): first status and instruction, saturating count. -/
def latchErr (w status code : Nat) : Nat :=
  let n := nbits w 47 16
  let first := if n = 0 then status + code * 256 else w % 65536
  first + min (n + 1) (2 ^ 32 - 1) * 65536

/-- A posted request of a thread has ended (R334, R336). -/
def State.postedDone (s : State) (c t seq status : Nat) : State :=
  let h := s.thread c t
  match takeFirst (fun (q : Nat × Nat) => q.1 == seq) h.posted with
  | none => s.coreSettle c
  | some ((_, code), rest) =>
    let h := { h with posted := rest, seqerr := if status = 0 then h.seqerr else latchErr h.seqerr status code }
    let s := if status = 0 then s else s.bump SEQ_POST_FAIL_COUNT
    let s := s.setThread c t h
    if h.wait = .halting ∧ rest.isEmpty then s.haltThread c t else s.coreSettle c

/-- A blocking request of a thread has ended: its register takes the value, or 0 on failure, and `seqst` the status. -/
def State.blockedDone (s : State) (c t rd status : Nat) (bytes : List Byte) : State :=
  let h := s.thread c t
  let h := { (h.setX rd (if status = 0 then leNat (bytes.take 8) else 0)) with seqst := status, wait := .none }
  (s.setThread c t h).coreSettle c

/-- A request of a thread has ended. -/
def State.threadReply (s : State) (c t seq status : Nat) (bytes : List Byte) : State :=
  let h := s.thread c t
  match h.wait with
  | .reply q rd => if q = seq then s.blockedDone c t rd status bytes else s.postedDone c t seq status
  | _ => s.postedDone c t seq status

/-! ## The thread that issues (R327, R328) -/

/-- The thread could issue an instruction: it runs, waits for nothing, and its last request has been sent (R333, R334). -/
def State.canRun (s : State) (c t : Nat) : Bool :=
  (s.thread c t).running && (s.thread c t).wait == .none && (mget [] s.tr.held (engThread c t)).isEmpty &&
    s.tr.stalled.all (fun e => !ofThread c t e.2)

/-- The thread of a core that issues the next instruction (R327, R328): the running one until the core is to switch; then a
woken one, in rising number, or another ready one, round robin after the thread that last ran; that thread itself when
no other is ready. -/
def State.turn (s : State) (c : Nat) : Option Nat :=
  let x := s.coreTurn c
  if x.run ≠ 0 ∧ s.canRun c x.last then some x.last
  else match (List.range 32).find? (fun t => x.woken.contains t && s.canRun c t) with
    | some t => some t
    | none => ((List.range 32).map (fun i => (x.last + 1 + i) % 32)).find? (fun t => s.canRun c t)

/-- The thread can issue an instruction now: it could, and it is its turn (R327). -/
def State.ready (s : State) (c t : Nat) : Bool := s.canRun c t && s.turn c == some t

/-- A thread has issued an instruction: after a fabric instruction, or 16 others on end, the core switches (R327). -/
def State.issued (s : State) (c t : Nat) (fabric : Bool) : State :=
  let x := s.coreTurn c
  let n := (if x.last = t then x.run else 0) + 1
  s.setTurn c ⟨t, if fabric || decide (16 ≤ n) then 0 else n, x.woken.erase t⟩

/-- A `WAITLC` or a `WAITBEAT` of the thread has ended: it goes ahead of the others (R328). -/
def State.wake (s : State) (c t : Nat) : State :=
  let x := s.coreTurn c
  s.setTurn c { x with woken := t :: x.woken.erase t }

end Sys2Proof.Machine
end

