-- ==== Sys2Proof/Machine/Moves.lean ====
section
/-! DEFINITION. Tile movers (R112 to R114): one tile move at a time on each of 64 movers. -/

namespace Sys2Proof.Machine

/-- The state with a running move changed. -/
def State.setMove (s : State) (id : Nat) (m : Move) : State :=
  { s with tr := { s.tr with moves := minsert (merase s.tr.moves id) id m } }

/-- A packet of a tile move. -/
def movePkt (s : State) (m : Move) (op dst : Nat) (addr w3 : Word) (lc : Bool) (payload : List Byte) : Pkt :=
  ReqForm.pkt
    { opcode := op, part := m.part, tc := m.tc, src := s.selfId, dst := dst, addr := addr, tag := m.tag, gen := m.gen,
      lcEn := lc && m.lcEn, lcMode := lc && m.lcMode, lcIdx := if lc && m.lcEn then m.lcIdx else 0, w3 := w3,
      payload := payload }

/-- What a tile of a step contributes when it ends (R410), or what a thread's move does (R336). -/
def State.moveOwner (s : State) (o : Issuer) (status bytes : Nat) : State :=
  match o with
  | .step id ofs =>
    match s.step? id with
    | none => s
    | some x =>
      let x := { x with outstanding := x.outstanding - 1 }
      if status = 0 then s.setStep { x with bytes := x.bytes + bytes }
      else
        let queued := s.tr.queued.filter (fun m => match m.owner with | .step i _ => i == id | _ => false)
        let s := { s with tr := { s.tr with queued := s.tr.queued.filter (fun m => match m.owner with | .step i _ => i != id | _ => true) } }
        s.setStep ({ x with outstanding := x.outstanding - queued.length }.failAt ofs status)
  | .thread c t seq => s.postedDone c t seq status
  | _ => s

/-- End a move (R112): its tracker entry frees and its owner learns the status. -/
def State.endMove (s : State) (id : Nat) (m : Move) (status : Nat) (hold : Bool) : State :=
  let s := s.closeEntry m.tag hold
  let s := { s with tr := { s.tr with moves := merase s.tr.moves id } }
  s.moveOwner m.owner status m.bytes

/-- Close a side: `TILE_CLOSE`, with `ABORT` when the move has failed. -/
def State.closeSide (s : State) (m : Move) (addr : Word) (g : Nat) (abort : Bool) : State :=
  s.send 96 (movePkt s m 11 (faEp addr) addr (mkWord [(15, 0, g), (16, 16, b2n abort)]) false [])

/-- The move has failed: both granted sides are closed with `ABORT` (R113, R114), also when they have had their plain
close. -/
def State.abortMove (s : State) (id : Nat) (m : Move) : State :=
  if m.aborted then s.setMove id m
  else
    let s := match m.grantS with | some g => if m.doneS then s else s.closeSide m m.src g true | none => s
    let s := match m.grantD with | some g => if m.doneD.isSome then s else s.closeSide m m.dst g true | none => s
    s.setMove id { m with closed := true, aborted := true }

/-- Send every `TILE_READ` of a move (R112 step 2). -/
def State.issueReads (s : State) (id : Nat) (m : Move) (g : Nat) : State :=
  let cs := splitUnits 256 m.src.toNat m.len
  let s := cs.foldl (fun s c =>
    s.send 96 (movePkt s m 9 (faEp m.src) (BitVec.ofNat 64 c.2.1) (mkWord [(8, 0, c.2.2), (31, 16, g)]) false [])) s
  s.setMove id { m with issued := true, reads := cs.length }

/-- What a move does next, from what it has heard: start reading, close, abort or end. A move waits for the `TILE_DONE` of
both sides, and a failure that the source reports stands (log 123, DESIGN CHOICE). -/
def State.moveNext (s : State) (id : Nat) (m : Move) : State :=
  let openS := m.grantS.isSome || m.failS.isSome
  let openD := m.grantD.isSome || m.failD.isSome
  if !(openS && openD) then s.setMove id m
  else
    let failed := match m.failS, m.failD, m.fail with | some a, _, _ => some a | none, some b, _ => some b | none, none, c => c
    match failed with
    | some st =>
      let doneS := m.doneS || m.grantS.isNone
      let doneD := m.doneD.isSome || m.grantD.isNone
      if doneS && doneD then s.endMove id m st false else s.abortMove id m
    | none =>
      if !m.issued then s.issueReads id m (m.grantS.getD 0)
      else if !m.closed && m.reads == 0 then
        let s := s.closeSide m m.src (m.grantS.getD 0) false
        let s := s.closeSide m m.dst (m.grantD.getD 0) false
        s.setMove id { m with closed := true }
      else match m.doneS, m.doneD with
        | true, some st => s.endMove id m st false
        | _, _ => s.setMove id m

/-- A `TILE_GRANT` for a move. -/
def State.moveGranted (s : State) (id : Nat) (m : Move) (p : Pkt) : State :=
  if p.w1 = m.src ∧ m.grantS.isNone ∧ m.failS.isNone then s.moveNext id { m with grantS := some (Pkt.grant p) }
  else if p.w1 = m.dst ∧ m.grantD.isNone ∧ m.failD.isNone then s.moveNext id { m with grantD := some (Pkt.grant p) }
  else s

/-- A failure reply for a move: of a `TILE_OPEN` before both sides have answered, of the close of a side that was closed with
`ABORT`, of another packet otherwise. -/
def State.moveFailed (s : State) (id : Nat) (m : Move) (addr : Word) (status : Nat) : State :=
  if addr = m.src ∧ m.grantS.isNone ∧ m.failS.isNone then s.moveNext id { m with failS := some status }
  else if addr = m.dst ∧ m.grantD.isNone ∧ m.failD.isNone then s.moveNext id { m with failD := some status }
  else if m.aborted ∧ addr = m.src ∧ m.grantS.isSome ∧ m.doneS = false then s.moveNext id { m with doneS := true }
  else if m.aborted ∧ addr = m.dst ∧ m.grantD.isSome ∧ m.doneD.isNone then s.moveNext id { m with doneD := some status }
  else s.moveNext id { m with fail := match m.fail with | some f => some f | none => some status, reads := m.reads - 1 }

/-- The `DATA` of a `TILE_READ`: its bytes are written at the destination (R112 step 3). -/
def State.moveData (s : State) (id : Nat) (m : Move) (p : Pkt) : State :=
  let m := { m with reads := m.reads - 1 }
  if m.fail.isSome || m.closed then s.moveNext id m
  else
    let at_ := m.dst.toNat + (p.w1.toNat - m.src.toNat)
    let s := (splitUnits 256 at_ p.payload.length).foldl (fun s c =>
      s.send 96 (movePkt s m 10 (faEp m.dst) (BitVec.ofNat 64 c.2.1) (mkWord [(15, 0, m.grantD.getD 0)]) true
        ((p.payload.drop c.1).take c.2.2))) s
    s.moveNext id m

/-- A `TILE_DONE` for a move; one that comes before the close ends the move as a failure (R115). -/
def State.moveDone (s : State) (id : Nat) (m : Move) (p : Pkt) : State :=
  let st := Pkt.status p
  let early := if !m.closed && m.fail.isNone then some (if st = 0 then stTIMEOUT else st) else m.fail
  let bad := if st ≠ 0 ∧ m.fail.isNone then some st else early
  if p.w1 = m.src ∧ !m.doneS ∧ (m.src ≠ m.dst ∨ m.grantS = some (Pkt.grant p)) then s.moveNext id { m with doneS := true, fail := bad }
  else s.moveNext id { m with doneD := some st, bytes := Pkt.bytesDone p, fail := bad }

/-- The tile belongs to a descriptor. -/
def Move.ofStep (m : Move) : Bool := match m.owner with | .step _ _ => true | _ => false

/-- `TILE_MOVE_START` (R112, R410): a free mover takes the first tile of its queue when the partition has a tracker
entry; descriptor tiles stand ahead of a thread's (R410). Both sides are opened at once. -/
def execTileMoveStart (mover : Fin 64) (s : State) : Host.Outcome State Fault Refusal :=
  if s.tr.moves.any (fun m => m.2.mover == mover.val) then .next s
  else
    let pick := match takeFirst (fun (m : Move) => m.mover == mover.val && m.ofStep) s.tr.queued with
      | some r => some r
      | none => takeFirst (fun (m : Move) => m.mover == mover.val) s.tr.queued
    match pick with
    | none => .next s
    | some (m, rest) =>
      if s.trackOpen m.part then
        let id := s.tr.nextMove
        let s := { s with tr := { s.tr with queued := rest, nextMove := id + 1 } }
        let open_ := fun (m : Move) (addr : Word) (side : Nat) => movePkt s m 8 (faEp addr) addr (mkWord [(20, 0, m.len), (21, 21, side)]) false []
        let ((t, g), s) := s.openEntry (open_ m m.dst 1) (.tile id) (faEp m.src)
        let m := { m with tag := t, gen := g }
        let s := s.setMove id m
        let bad := fun (a : Word) => faEp a == 0 || faEp a == 0xFFFF
        let s := if bad m.src then s.deliver onDie (Pkt.reply (open_ m m.src 0) s.selfId 0x81 stACCESS_DENIED [] 0) else s.send 96 (open_ m m.src 0)
        .next (if bad m.dst then s.deliver onDie (Pkt.reply (open_ m m.dst 1) s.selfId 0x81 stACCESS_DENIED [] 0) else s.send 96 (open_ m m.dst 1))
      else .next (s.bump TRACK_STALL_COUNT)

/-- A tile move that waits for its mover. -/
def newMove (mover part : Nat) (src dst : Word) (len tc : Nat) (lcEn lcMode : Bool) (lcIdx : Nat) (owner : Issuer) : Move :=
  { mover := mover, part := part, tag := 0, gen := 0, src := src, dst := dst, len := len, tc := tc, lcEn := lcEn,
    lcMode := lcMode, lcIdx := lcIdx, grantS := none, grantD := none, failS := none, failD := none, fail := none,
    reads := 0, issued := false, closed := false, aborted := false, doneS := false, doneD := none, bytes := 0, owner := owner }

/-- Queue the tiles of a `TILE_MOVE` descriptor (R410): T = min(1 MiB, 64 × ⌈LEN / (64 × MOVERS)⌉), tile j on mover
(partition + j) mod 64. -/
def State.startTileMove (s : State) (id : Nat) : State :=
  match s.step? id with
  | none => s
  | some x =>
    let len := wb x.words 3 26 0
    let t := min (2 ^ 20) (64 * cdiv len (64 * wb x.words 3 33 27))
    let src := (wd x.words 1).toNat
    let dst := (wd x.words 2).toNat
    let tiles := (List.range (cdiv len t)).map (fun j =>
      newMove ((x.part + j) % 64) x.part (BitVec.ofNat 64 (src + j * t)) (BitVec.ofNat 64 (dst + j * t)) (min t (len - j * t))
        (wb x.words 3 34 34) (bit (wd x.words 3) 35) (bit (wd x.words 3) 36) (wb x.words 3 53 37) (.step id (j * t)))
    let s := { s with tr := { s.tr with queued := s.tr.queued ++ tiles } }
    s.setStep { x with outstanding := tiles.length, phase := 1 }

/-- `TILE_MOVE_END` (R410): every started tile has ended. -/
def execTileMoveEnd (id now : Nat) (s : State) : Host.Outcome State Fault Refusal :=
  match s.step? id with
  | none => .next s
  | some x =>
    if dType (wd x.words 0) = 1 ∧ x.phase = 1 ∧ x.outstanding = 0 then
      .next (s.endStep x now x.failStatus x.bytes)
    else .next s

end Sys2Proof.Machine
end

