-- ==== Sys2Proof/Machine/PoolCmds.lean ====
section
/-! DEFINITION. The commands of the buffer pool manager: POOL_ALLOC, POOL_RELEASE, CELL_BATCH_FREE, AUDIT_SWEEP
(R189 to R195). -/

namespace Sys2Proof.Machine

/-- `POOL_ALLOC` (R189 to R192): a unit asks for a buffer of `size` bytes. It is served in its
turn at the end of the cycle; `more` says that another request of the cycle follows. -/
def execPoolAlloc (u : PoolUser) (n : Part) (size : InCycle Nat) (s : State) : Host.Outcome State Fault Refusal :=
  match s.poolFor size.arg with
  | none => .next (s.poolCycle size.more)
  | some k =>
    if PoolUser.exempt u then .next (({ s with pl := { s.pl with waits := s.pl.waits ++ [(u, n.val, k)] } }).poolCycle size.more)
    else .next (({ s with pl := { s.pl with asks := s.pl.asks ++ [(u, n.val, k)] } }).poolCycle size.more)

/-- `POOL_ERR_INFO` of an event (R193 to R195): 1 double free, 2 range, 3 leak, 4 duplicate holder. -/
def State.poolErr (s : State) (kind k i : Nat) : State :=
  s.setReg POOL_ERR_INFO (mkWord [(55, 48, kind), (42, 40, k), (16, 0, i)])

/-- A double free of pool `k` (R193). -/
def State.doubleFree (s : State) (k i : Nat) : State :=
  let s := s.put POOL_STATUS_DOUBLE_FREE (Nat.lor (s.get POOL_STATUS_DOUBLE_FREE) (2 ^ k))
  (s.bump (POOL_DOUBLE_FREE_COUNT k)).poolErr 1 k i

/-- The record of a buffer that is in use or held. -/
def State.buf (s : State) (k i : Nat) : Option Buf := ((mget [] s.pl.bufs k).find? (fun e => e.1 == i)).map (·.2)

/-- `POOL_RELEASE` (R192, R193): a buffer of pool 1 to 4 is freed by its holder, before the requests of the same cycle; a
buffer already free is left alone. -/
def execPoolRelease (k : Fin 5) (index : InCycle Nat) (s : State) : Host.Outcome State Fault Refusal :=
  if k.val = 0 ∨ poolCount k.val ≤ index.arg then .next (s.poolCycle index.more)
  else match s.buf k.val index.arg with
    | some b =>
      if b.inUse then .next ((s.poolGive k.val index.arg (b.holders.head?.getD (.unit .endpoint))).poolCycle index.more)
      else .next ((s.doubleFree k.val index.arg).poolCycle index.more)
    | none => .next ((s.doubleFree k.val index.arg).poolCycle index.more)

/-- One cell of a batch (R194): its bitmap bit becomes free; `gives` tells that its recorded holder gives it up, so that
a cell freed twice keeps the holder that it was given to. -/
def State.freeCell (s : State) (i : Nat) (gives : Bool) : State :=
  match s.buf 0 i with
  | none => s
  | some b =>
    if gives then s.poolGive 0 i (b.holders.head?.getD (.unit .endpoint))
    else if b.inUse && !b.dup then
      let m := mget [] s.pl.bufs 0
      let m' := if b.holders.isEmpty then merase m i else minsert (merase m i) i { b with inUse := false, suspect := false }
      let s := s.setBufs 0 m' (s.rd (POOL_FREE 0) + 1)
      s.put (poolUseF 0 b.part) (s.get (poolUseF 0 b.part) - 1)
    else s

/-- A cell's holder gives it up without its bitmap bit becoming free (R194, R195). -/
def State.loseCell (s : State) (i : Nat) : State :=
  match s.buf 0 i with
  | none => s
  | some b =>
    let m := mget [] s.pl.bufs 0
    { s with pl := { s.pl with bufs := mset [] s.pl.bufs 0 (minsert (merase m i) i { b with holders := b.holders.drop 1 }) } }

/-- `CELL_BATCH_FREE` (R194): the summary word `w` frees cells `first` to `first + 63`; `held` marks the cells whose
holders give them up with this batch. In a batch that fails its checks no cell is freed, so that the auditor finds them
without a holder. -/
def execCellBatchFree (first : InCycle Nat) (w held : Word) (s : State) : Host.Outcome State Fault Refusal :=
  if first.arg % 64 = 0 ∧ first.arg + 64 ≤ poolCount 0 then
    .next (((setBitsOf 64 w.toNat).foldl (fun s i => s.freeCell (first.arg + i) (bit held i)) s).poolCycle first.more)
  else
    let s := ((setBitsOf 64 w.toNat).filter (fun i => bit held i)).foldl (fun s i => s.loseCell (first.arg + i)) s
    .next ((((s.flag POOL_STATUS_RANGE_ERR).bump POOL_RANGE_ERR_COUNT).poolErr 2 0 first.arg).poolCycle first.more)

/-- End the request of a holder of a cell that was given out twice (R195). -/
def State.endHolder (s : State) (i : Nat) (h : Holder) : State :=
  match h with
  | .unit _ => s.emit (.poolEnd 0 stPARITY)
  | .grant g => match s.tr.grants.find? (fun e => e.1 == g) with
    | some (_, x) => (s.bump TRACK_PARITY_EXHAUSTED_COUNT).tileDone g x stPARITY
    | none => s
  | .chunk row num rank =>
    let mine := s.ra.parked.filter (fun p => p.cell == i)
    let waiting := (s.ra.chunks.filter (fun c => c.row == row && c.num == num)).flatMap (fun c => c.held.filter (fun k => k.rank == rank && k.cell == some i))
    let chunks := updWhere (fun c => c.row == row && c.num == num)
      (fun (c : Chunk) => { c with held := c.held.filter (fun k => !(k.rank == rank && k.cell == some i)) }) s.ra.chunks
    let s := { s with ra := { s.ra with chunks := chunks, parked := s.ra.parked.filter (fun p => p.cell != i) } }
    let s := mine.foldl (fun s p => s.ack p.pkt stPARITY) s
    (waiting.foldl (fun s k => s.ack k.pkt stPARITY) s).poolGive 0 i h
  | _ => s.poolGive 0 i h

/-- The auditor's action on one buffer (R195). -/
def State.auditBuf (s : State) (k i : Nat) : State :=
  match s.buf k i with
  | none => s
  | some b =>
    let set := fun (s : State) (x : Buf) =>
      { s with pl := { s.pl with bufs := mset [] s.pl.bufs k (minsert (merase (mget [] s.pl.bufs k) i) i x) } }
    match b.inUse, b.holders with
    | true, [] =>
      if b.suspect then
        (((s.poolGive k i (.unit .endpoint)).flag POOL_STATUS_LEAK).bump POOL_LEAK_COUNT).poolErr 3 k i
      else set s { b with suspect := true }
    | true, [_] => s
    | true, h1 :: h2 :: _ =>
      if b.dup then s
      else
        let s := set s { b with dup := true }
        let s := (s.endHolder i h1).endHolder i h2
        ((s.flag POOL_STATUS_DUP_HOLD).bump POOL_DUP_COUNT).poolErr 4 k i
    | false, [] => s
    | false, _ =>
      let s := s.setBufs k (minsert (merase (mget [] s.pl.bufs k) i) i { b with inUse := true, suspect := false }) (s.rd (POOL_FREE k) - 1)
      (s.put (poolUseF k b.part) (s.get (poolUseF k b.part) + 1)).doubleFree k i

/-- `AUDIT_SWEEP` (R195): every 4,096 beats every pool's bitmap is compared with what its holders record. -/
def execAuditSweep (s : State) : Host.Outcome State Fault Refusal :=
  if s.pl.lastSweep + 4096 ≤ s.edge then
    let s := (List.range 5).foldl (fun s k => (mget [] s.pl.bufs k).foldl (fun s e => s.auditBuf k e.1) s) s
    let s := { s with pl := { s.pl with lastSweep := s.edge } }
    .next (s.wr POOL_AUDIT_BEAT s.beat).poolServe
  else .next s

end Sys2Proof.Machine
end

