-- ==== Sys2Proof/Machine/Reduce.lean ====
section
/-! DEFINITION. The reduction array (R199 to R219, R242, R273, R550) and multicast replication (R18, R109, R110, R232,
R244): REDUCE, REDUCE_MEM, CHUNK_TIMEOUT, PARKED_CONTRIBUTION_OPEN, MCAST_STORE, MCAST_ACK_COMBINE. -/

namespace Sys2Proof.Machine

/-! ## Accumulators (R206, R207) -/

/-- An accumulator before the first contribution. -/
def acc0 : Acc := ⟨0, false, false, false, true⟩

/-- Add an element to an accumulator whose least significant bit weighs 2^`lsb` (R206). -/
def Acc.add (lsb : Int) (a : Acc) (v : FVal) : Acc :=
  match v with
  | .nan => { a with nan := true, negz := false }
  | .inf false => { a with pinf := true, negz := false }
  | .inf true => { a with ninf := true, negz := false }
  | .num neg m e => { a with sum := a.sum + sgn neg m * 2 ^ (e - lsb).toNat, negz := a.negz && neg && m == 0 }

/-- The value of an accumulator (R207). -/
def Acc.value (lsb : Int) (a : Acc) : FVal :=
  if a.nan || (a.pinf && a.ninf) then .nan
  else if a.pinf then .inf false
  else if a.ninf then .inf true
  else if a.sum = 0 then .num a.negz 0 lsb
  else .num (decide (a.sum < 0)) a.sum.natAbs lsb

/-- `SUM` is exact in EXACT mode and for integer formats (R205). -/
def exactSum (op fmt mode : Nat) : Bool := op == 0 && (mode == 0 || (5 ≤ fmt && fmt ≤ 8))

/-- Contributions must be added in rank order (R205, R211, R212). The operators of R205 whose result no order changes are added at
once in MODE ORDERED too (log 150, DESIGN CHOICE). -/
def inOrder (op fmt mode : Nat) : Bool := mode == 1 && (op == 3 || op == 7 || (op == 0 && !(5 ≤ fmt && fmt ≤ 8)))

/-- `MIN`, `MAX` and the bit operators on raw elements (R210). -/
def rawOp (op fmt a b : Nat) : Nat :=
  let w := elemBits fmt
  let int := decide (5 ≤ fmt)
  match op with
  | 1 | 2 =>
    if int then (if (toSigned w a < toSigned w b) = (op = 1) then a else b)
    else
      let f := elemFmt fmt
      if isNan f a || isNan f b then canonNan f
      else if (fkey f a < fkey f b) = (op = 1) then a else b
  | 4 => Nat.land a b
  | 5 => Nat.lor a b
  | _ => Nat.xor a b

/-- One element in binary32 (R211 step 1). -/
def toF32 (v : FVal) : Nat := (fencode fFP32 v).1

/-! ## `MERGE_LSE` (R203, R212) -/

/-- m, s and o of a contribution as binary32 patterns. -/
def lseOf (fmt : Nat) (p : List Byte) : List Nat :=
  let o := unpack (elemBits fmt) ((p.length - 8) * 8 / elemBits fmt) (p.drop 8)
  leNat (p.take 4) :: leNat ((p.drop 4).take 4) :: o.map (fun b => toF32 (fdecode (elemFmt fmt) b))

def fMinusInf : Nat := 0xFF800000
def fPlusInf : Nat := 0x7F800000

/-- m or s is NaN or +∞. -/
def lseBad (t : List Nat) : Bool :=
  isNan fFP32 (t.getD 0 0) || isNan fFP32 (t.getD 1 0) || t.getD 0 0 == fPlusInf || t.getD 1 0 == fPlusInf

/-- A result of canonical NaNs. -/
def lseNan (t : List Nat) : List Nat := t.map (fun _ => canonNan fFP32)

/-- Merge one more triple (R212). An accumulated m that is NaN marks a result that is NaN throughout. -/
def lseMerge (a b : List Nat) : List Nat :=
  let m := a.getD 0 0
  let mr := b.getD 0 0
  if isNan fFP32 m then a
  else if lseBad b then lseNan a
  else if mr = fMinusInf then a
  else if m = fMinusInf then b
  else
    let mn := if fkey fFP32 m < fkey fFP32 mr then mr else m
    let x := fexp (fsub fFP32 m mn)
    let y := fexp (fsub fFP32 mr mn)
    let mix := fun (u v : Nat) => fadd fFP32 (fmul fFP32 u x) (fmul fFP32 v y)
    mn :: mix (a.getD 1 0) (b.getD 1 0) :: List.zipWith mix (a.drop 2) (b.drop 2)

/-! ## A chunk's arithmetic -/

/-- Add a contribution's elements to a chunk. -/
def Chunk.fold (op fmt mode : Nat) (c : Chunk) (p : List Byte) : Chunk :=
  let first := c.added.isEmpty
  if exactSum op fmt mode then
    let vs := elemValues fmt p
    { c with accs := List.zipWith (Acc.add (lsbWeight fmt)) (if first then vs.map (fun _ => acc0) else c.accs) vs }
  else if op = 7 then
    let t := lseOf fmt p
    { c with vals := if first then (if lseBad t then lseNan t else t) else lseMerge c.vals t }
  else if op = 0 ∨ op = 3 then
    let vs := (elemValues fmt p).map toF32
    { c with vals := if first then vs else List.zipWith (if op = 0 then fadd fFP32 else fmul fFP32) c.vals vs }
  else
    let vs := rawElems fmt p
    { c with vals := if first then vs else List.zipWith (rawOp op fmt) c.vals vs }

/-- The result payload of a chunk and its saturations (R207 to R212, R550). -/
def Chunk.result (op fmt mode : Nat) (c : Chunk) : List Byte × Nat :=
  if exactSum op fmt mode then encodeResult fmt (c.accs.map (Acc.value (lsbWeight fmt)))
  else if op = 7 then
    let o := (c.vals.drop 2).map (fun b => (encodeScalar fmt (fdecode fFP32 b)).1)
    (leBytes 4 (c.vals.getD 0 0) ++ leBytes 4 (c.vals.getD 1 0) ++ pack (elemBits fmt) o, 0)
  else if op = 0 ∨ op = 3 then encodeResult fmt (c.vals.map (fdecode fFP32))
  else if op = 1 ∨ op = 2 then
    (pack (elemBits fmt) (c.vals.map (fun b => if fmt ≤ 4 ∧ isNan (elemFmt fmt) b then canonNan (elemFmt fmt) else b)), 0)
  else (pack (elemBits fmt) c.vals, 0)

/-! ## Multicast groups (R230) -/

/-- The multicast entry of a group and partition. -/
def State.mcEntry (s : State) (n g : Nat) : List Word := mget [] s.ra.mc (32 * g + n)

/-- The endpoint of a multicast group's root as this module's entry names it; this module where it holds none. -/
def State.mcRootOf (s : State) (n g : Nat) : Nat :=
  let e := s.mcEntry n g
  if mcValid (wd e 0) then mcRootEp (wd e 0) else s.selfId

/-! ## Chunks -/

/-- A row's operator, format and mode. -/
def State.rowOp (s : State) (g : Nat) : Nat × Nat × Nat := (s.get (RDX_GROUP_A_RED_OP g), s.get (RDX_GROUP_A_FMT g), s.get (RDX_GROUP_A_MODE g))

/-- A time span in whole ns: a part of a ns is rounded by a free bit (log 8). -/
def State.spanNs (s : State) (d : Nat) : Nat × State :=
  let (v, s) := s.take
  (d / 256 + (if d % 256 = 0 then 0 else b2n (bit v 0)), s)

/-- A chunk belongs to the group that a row holds: a chunk of a group dissolved since is another's (R200). -/
def State.chunkOf (s : State) (g : Nat) (c : Chunk) : Bool :=
  c.row == g && c.grp == s.get (RDX_GROUP_A_GROUP_ID g) && c.part == s.get (RDX_GROUP_A_PARTITION g)

/-- The open chunk of a row's group and a number (R200). -/
def State.chunk? (s : State) (g num : Nat) : Option Chunk := s.ra.chunks.find? (fun c => s.chunkOf g c && c.num == num)

/-- Two records of one chunk (R200). -/
def Chunk.same (c d : Chunk) : Bool := c.row == d.row && c.grp == d.grp && c.part == d.part && c.num == d.num

/-- The open chunks without one. -/
def State.dropChunk (s : State) (c : Chunk) : State :=
  ({ s with ra := { s.ra with chunks := s.ra.chunks.filter (fun d => !c.same d) } }).rdxCounts c.row

/-- The group is bound to the Tun (R273). -/
def State.bound (s : State) (n grp : Nat) : Bool :=
  (List.range 16).any (fun b => s.on (TUN_BIND_VALID b) && s.get (TUN_BIND_PARTITION b) == n && s.get (TUN_BIND_GROUP_ID b) == grp)

/-- The state with the staged chunks set (R273). -/
def State.setStaged (s : State) (l : List Staged) : State := ({ s with tu := { s.tu with staged := l } }).wr TUN_STAGED l.length

/-- A staged chunk is discarded (R273). -/
def State.stageDrop (s : State) : State := (s.flag TUN_STATUS_STAGE_DROP).bump TUN_STAGE_DROP_COUNT

/-- Chunk number `num` of a group is one that a `PROJECT` job takes (R274). -/
def projectWants (x : Step) (grp part num : Nat) : Bool :=
  let n := cdiv (wb x.words 4 33 17) ([256, 0, 128, 128, 64, 256, 0, 0, 0, 224, 224, 256, 256, 256].getD (wb x.words 3 14 11) 1)
  dType (wd x.words 0) == 3 && wb x.words 3 10 8 == 2 && x.part == part &&
    wb x.words 3 40 29 == grp && decide ((num + 2 ^ 30 - wb x.words 4 63 34) % 2 ^ 30 < n)

/-- A chunk that an admitted `PROJECT` job waits for has ended without a result (R275). -/
def State.projectFail (s : State) (c : Chunk) (status : Nat) : State :=
  { s with st := { s.st with steps := updWhere (fun x => projectWants x c.grp c.part c.num && x.phase < 2) (fun x => x.failFirst status) s.st.steps } }

/-- A contribution ends with a status; its cell frees. -/
def State.endContrib (s : State) (g num : Nat) (k : Contrib) (status : Nat) : State :=
  let s := match k.cell with | some i => s.poolFree 0 i (.chunk g num k.rank) | none => s
  s.ack k.pkt status

/-- End an open chunk without a result (R216, R217, R219): every contribution that it holds or that waits for it ends. -/
def State.endChunk (s : State) (c : Chunk) (status : Nat) : State :=
  let s := s.dropChunk c
  let s := (c.added ++ c.held).foldl (fun s k => s.endContrib c.row c.num k status) s
  let mine := fun (p : Parked) => p.row == c.row && Pkt.group p.pkt == c.grp && Pkt.part p.pkt == c.part && Pkt.chunk p.pkt == c.num
  let wait := s.ra.parked.filter mine
  let s := { s with ra := { s.ra with parked := s.ra.parked.filter (fun p => !mine p) } }
  let s := wait.foldl (fun s p => s.endContrib c.row c.num ⟨Pkt.rank p.pkt, p.pkt, some p.cell⟩ status) s
  s.projectFail c status

/-- The slowest-member registers of a closing chunk (R242). -/
def State.recordSlow (s : State) (c : Chunk) : State :=
  let g := c.row
  let (ns, s) := s.spanNs (c.lastAt - c.firstAt)
  let s := (s.put (RDX_COLL_SLOW_LAST_RANK g) c.lastRank).put (RDX_COLL_SLOW_LAST_SPREAD g) ns
  let s := if s.get (RDX_COLL_SPREAD_MAX_SPREAD g) < ns then
      (s.put (RDX_COLL_SPREAD_MAX_RANK g) c.lastRank).put (RDX_COLL_SPREAD_MAX_SPREAD g) ns else s
  if c.lastRank = s.get (RDX_COLL_C_WATCH_RANK g) then s.bump (RDX_COLL_WATCH_COUNT g) else s

/-- The packet that carries a chunk's result: the multicast store of R214, or the write of R111, which goes to the owner
as a `REDUCE_MEM` of rank 0 and so needs `PERM_D` there (R71; log 57, DESIGN CHOICE). -/
def State.resultPkt (s : State) (c : Chunk) (payload : List Byte) : Pkt :=
  let r := c.rank0.getD ⟨0, 0, 0, 0, [], false, 0, 0⟩
  let n := s.get (RDX_GROUP_A_PARTITION c.row)
  let mc := s.get (RDX_GROUP_A_MC_GROUP c.row)
  let op := if c.mem then 6 else 4
  ReqForm.pkt
    { opcode := op, part := n, tc := Pkt.tc r, src := s.selfId,
      dst := if c.mem then faEp r.w1 else s.mcRootOf n mc,
      addr := if c.mem then r.w1 else faMake 0 (faLow r.w1),
      lcEn := Pkt.lcEn r, lcMode := Pkt.lcMode r, lcIdx := Pkt.lcIdx r,
      w3 := if op = 4 then BitVec.ofNat 64 mc else r.w3, payload := payload }

/-- Close a chunk to which every rank has been added (R214, R273): its result is staged, multicast or written. -/
def State.closeChunk (s : State) (c : Chunk) : State :=
  let g := c.row
  let n := s.get (RDX_GROUP_A_PARTITION g)
  let (op, fmt, mode) := s.rowOp g
  let (payload, sat) := c.result op fmt mode
  let s := if sat = 0 then s else (s.flag RDX_STATUS_SAT).bumpBy RDX_SAT_COUNT sat
  let s := (s.bump RDX_CHUNK_COUNT).recordSlow c
  let p := s.resultPkt c payload
  let s := s.dropChunk c
  if c.mem then
    let s := ({ s with ra := { s.ra with writing := s.ra.writing ++ [c] } }).rdxCounts g
    if s.owns (Pkt.dst p) then s.ownerAccess (.result c.id) p
    else s.issue 97 p (.result c.id true)
  else if s.bound n (s.get (RDX_GROUP_A_GROUP_ID g)) then
    if s.tu.staged.any (fun x => x.row == g && x.grp == c.grp && x.part == c.part && x.num == c.num) then s.stageDrop
    else
      (s.setStaged (s.tu.staged ++ [⟨g, c.grp, c.part, c.unit, c.num, payload, s.edge⟩])).rdxCounts g
  else
    let s := ({ s with ra := { s.ra with writing := s.ra.writing ++ [c] } }).rdxCounts g
    s.issue 97 p (.result c.id false)

/-- Add a contribution that has its turn, and those held behind it (R214); `fuel` bounds their number. -/
def addTurn (op fmt mode : Nat) : Nat → Chunk → Contrib → State → Chunk × State
  | 0, c, _, s => (c, s)
  | fuel + 1, c, k, s =>
    let s := match k.cell with | some i => s.poolFree 0 i (.chunk c.row c.num k.rank) | none => s
    let c := c.fold op fmt mode k.pkt.payload
    let kept : Contrib := ⟨k.rank, { k.pkt with payload := [] }, none⟩
    let c := { c with added := c.added ++ [kept], next := c.next + 1, rank0 := if k.rank = 0 then some k.pkt else c.rank0 }
    if inOrder op fmt mode then
      match takeFirst (fun (h : Contrib) => h.rank == c.next) c.held with
      | some (h, rest) => addTurn op fmt mode fuel { c with held := rest } h s
      | none => (c, s)
    else (c, s)

/-- A new chunk, in the unit with the fewest open chunks (R199): every chunk that keeps its slot counts (R214, R273). The kind of
the first contribution decides how the result leaves (log 151, DESIGN CHOICE). -/
def State.openChunk (s : State) (g : Nat) (p : Pkt) (at_ : Nat) : Chunk :=
  let units := (s.ra.chunks ++ s.ra.writing).map (·.unit) ++ s.tu.staged.map (·.unit)
  let load := fun u => (units.filter (· == u)).length
  let least := ((List.range 64).map load).min?.getD 0
  { row := g, grp := Pkt.group p, part := Pkt.part p, num := Pkt.chunk p, unit := ((List.range 64).find? (fun u => load u == least)).getD 0,
    mem := Pkt.opcode p == 6, openBeat := s.edge, firstAt := at_, lastAt := at_, lastRank := Pkt.rank p, len := Pkt.len p,
    addr := p.w1.toNat, accs := [], vals := [], next := 0, added := [], held := [], rank0 := none, id := s.ra.nextChunk }

/-- A contribution that passed R213 joins its chunk, which is open or may be opened. `cell`: the cell in which it
already waits. No state when it must wait in a cell and there is none (R191). -/
def State.joinChunk (s : State) (g : Nat) (p : Pkt) (at_ : Nat) (cell : Option Nat) (parity : Bool) : Option State :=
  let (op, fmt, mode) := s.rowOp g
  let new := (s.chunk? g (Pkt.chunk p)).isNone
  let c := (s.chunk? g (Pkt.chunk p)).getD (s.openChunk g p at_)
  let s := if new then { s with ra := { s.ra with nextChunk := s.ra.nextChunk + 1 } } else s
  let c := { c with lastAt := at_, lastRank := Pkt.rank p }
  let put := fun (s : State) (c : Chunk) =>
    ({ s with ra := { s.ra with chunks := s.ra.chunks.filter (fun (d : Chunk) => !c.same d) ++ [c] } }).rdxCounts g
  if inOrder op fmt mode && Pkt.rank p != c.next then
    match cell with
    | some i => some (put s { c with held := c.held ++ [⟨Pkt.rank p, p, some i⟩] })
    | none => match s.poolTake 0 (Pkt.part p) (.chunk g c.num (Pkt.rank p)) with
      | some (i, s) => some (put s { c with held := c.held ++ [⟨Pkt.rank p, p, some i⟩] })
      | none => none
  else
    let k : Contrib := ⟨Pkt.rank p, p, cell⟩
    if parity then
      let s := (put s c).endContrib g c.num k stPARITY
      some (((s.endChunk c stPARITY).flag RDX_STATUS_PARITY).bump RDX_PARITY_COUNT)
    else
      let (c, s) := addTurn op fmt mode (c.held.length + 1) c k s
      let s := put s c
      if c.added.length = s.get (RDX_GROUP_A_MEMBERS g) then some (s.closeChunk c) else some s

/-! ## The checks of R213 -/

/-- The group table row of a contribution. -/
def State.contribRow (s : State) (p : Pkt) : Option Nat :=
  (List.range 256).find? (fun g => s.get (RDX_GROUP_A_STATE g) != 0 && s.get (RDX_GROUP_A_GROUP_ID g) == Pkt.group p &&
    s.get (RDX_GROUP_A_PARTITION g) == Pkt.part p)

/-- The status of the first check of R213 that a contribution fails in its row. -/
def State.contribCheck (s : State) (g : Nat) (p : Pkt) : Nat :=
  let (op, fmt, mode) := s.rowOp g
  if s.get (RDX_GROUP_A_STATE g) = 2 then stMEMBER_LOST
  else if !(Pkt.redOp p == op && Pkt.fmt p == fmt && Pkt.mode p == mode && redAllowed op fmt mode) then stACCESS_DENIED
  else if s.get (RDX_GROUP_A_MEMBERS g) ≤ Pkt.rank p then stACCESS_DENIED
  else if !(if op = 7 then lenSuitsLse fmt (Pkt.len p) else lenSuits fmt (Pkt.len p)) then stACCESS_DENIED
  else match s.chunk? g (Pkt.chunk p) with
    | none => 0
    | some c =>
      let sameAddr := if Pkt.opcode p = 6 then c.addr == p.w1.toNat else c.addr % 2 ^ 48 == faLow p.w1
      if c.len ≠ Pkt.len p ∨ !sameAddr then stACCESS_DENIED
      else if (c.added ++ c.held).any (fun k => k.rank == Pkt.rank p) then stACCESS_DENIED
      else 0

/-- A contribution refused under R213. -/
def State.reject (s : State) (p : Pkt) (status : Nat) : State :=
  ((s.flag RDX_STATUS_REJECT).bump RDX_REJECT_COUNT).ack p status

/-- A `REDUCE_MEM` that is a chunk's result on its way to memory (R111): it goes to the endpoint of its own address,
which this module owns, and this module is not its group's root, nor was it in the last `LOST_WAIT` beats (log 57). -/
def State.isResult (s : State) (p : Pkt) : Bool :=
  Pkt.opcode p == 6 && Pkt.rank p == 0 && Pkt.dst p == faEp p.w1 && s.owns (Pkt.dst p) && (s.contribRow p).isNone &&
    decide (mget 0 s.ra.quarantine (32 * Pkt.group p + Pkt.part p) ≤ s.edge)

/-- A contribution at the root (R116, R213, R214, R218), or a result write at its owner (R111). No state when it must wait
for a cell. One that would open a chunk also waits behind others of its group that do (log 152, DESIGN CHOICE). -/
def State.contribute (s : State) (p : Pkt) (now : Nat) (parity : Bool) : Option State :=
  let at_ := s.tm.clock + now
  if s.isResult p then some (s.ownerAccess .request p)
  else if s.fenced (Pkt.src p) || s.fenced (Pkt.dst p) then some (s.ack p stFENCED)
  else if !s.partActive (Pkt.part p) then some (s.ack p stACCESS_DENIED)
  else match s.contribRow p with
    | none => some (s.reject p stACCESS_DENIED)
    | some g =>
      let st := s.contribCheck g p
      if st ≠ 0 then some (s.reject p st)
      else
        let open_ := (s.chunk? g (Pkt.chunk p)).isSome
        let full := s.get (RDX_GROUP_B_SLOTS g) ≤ s.get (RDX_GROUP_B_SLOTS_USED g)
        if !open_ && (decide full || s.ra.parked.any (fun w => w.row == g && Pkt.group w.pkt == Pkt.group p && Pkt.part w.pkt == Pkt.part p)) then
          match s.poolTake 0 (Pkt.part p) (.chunk g (Pkt.chunk p) (Pkt.rank p)) with
          | some (i, s) =>
            let w : Parked := ⟨g, p, i, at_⟩
            some (({ s with ra := { s.ra with parked := s.ra.parked ++ [w] } }).bump RDX_PARK_COUNT)
          | none => none
        else s.joinChunk g p at_ none parity

/-- Take the packet at the front of the reduction array's input when it has the opcode, after its seal check (R424). -/
def State.takeRdx (s : State) (op : Nat) : Option (Option Pkt × State) :=
  match s.xb.rdxIn with
  | [] => none
  | i :: r =>
    if Pkt.opcode i.pkt ≠ op then none
    else
      let s := { s with xb := { s.xb with rdxIn := r } }
      if i.port = onDie then some (some i.pkt, s)
      else match s.sealCheck i.pkt with
        | (.accept q, s) => some (some q, s)
        | (.discard, s) => some (none, s)
        | (.denied, s) => some (none, s.ack i.pkt stACCESS_DENIED)

/-- A multicast store, a contribution or a result for another endpoint of this module, which port 96 takes (R17): a store or a
result write is performed at that endpoint; there is no group to which a contribution could belong (log 153, DEDUCED). -/
def State.beginInner (s : State) (op : Nat) : State :=
  match s.takeEp [op] with
  | some (some i, s) => if op = 5 then s.ack i.pkt stACCESS_DENIED else s.ownerAccess .request i.pkt
  | some (none, s) => s
  | none => s

/-- The contribution of an opcode at the front of the array's input, or without one at the end-point block's. -/
def State.beginContribution (s : State) (op now : Nat) (parity : Bool) : State :=
  match s.takeRdx op with
  | none => s.beginInner op
  | some (none, s) => s
  | some (some p, s') => match s'.contribute p now parity with
    | some t => t
    | none => s

/-- `REDUCE` (R213, R214): `now` is the time since the latest edge, in 1/256 ns; `parity`: a word of the chunk's
accumulator has failed its parity twice over (R219). -/
def execReduce (now : Nat) (parity : Bool) (s : State) : Host.Outcome State Fault Refusal := .next (s.beginContribution 5 now parity)

/-- `REDUCE_MEM` (R71, R111, R213): a contribution at the root, or the result at the owner of its address. -/
def execReduceMem (now : Nat) (parity : Bool) (s : State) : Host.Outcome State Fault Refusal := .next (s.beginContribution 6 now parity)

/-- `CHUNK_TIMEOUT` (R216): a chunk of the row, of its group or of one dissolved since, has been open too long. -/
def execChunkTimeout (g : Row) (chunk : Nat) (s : State) : Host.Outcome State Fault Refusal :=
  match s.ra.chunks.find? (fun c => c.row == g.val && c.num == chunk && decide (c.openBeat + s.get RDX_CONFIG_CHUNK_LIMIT ≤ s.edge)) with
  | none => .next s
  | some c => .next (((s.endChunk c stTIMEOUT).flag RDX_STATUS_CHUNK_TIMEOUT).bump RDX_TIMEOUT_COUNT)

/-- Parked contributions of a row join their chunks while they may: the longest wait first (R218, R220); one whose chunk
is open needs no slot. `parity`: chunk numbers of which an accumulator word has failed twice over (R219). `fuel` bounds
the contributions. -/
def unpark (g now : Nat) (parity : List Nat) : Nat → State → State
  | 0, s => s
  | fuel + 1, s =>
    let full := s.get (RDX_GROUP_B_SLOTS g) ≤ s.get (RDX_GROUP_B_SLOTS_USED g)
    match takeFirst (fun (w : Parked) => w.row == g && (!decide full || (s.chunk? g (Pkt.chunk w.pkt)).isSome)) s.ra.parked with
    | none => s
    | some (w, rest) =>
      let s := { s with ra := { s.ra with parked := rest } }
      let free := fun (s : State) => s.poolFree 0 w.cell (.chunk g (Pkt.chunk w.pkt) (Pkt.rank w.pkt))
      let st := if s.contribRow w.pkt = some g then s.contribCheck g w.pkt else stACCESS_DENIED
      let s := if st ≠ 0 then (free s).reject w.pkt st
        else (s.joinChunk g w.pkt w.at_ (some w.cell) (parity.contains (Pkt.chunk w.pkt))).getD s
      unpark g now parity fuel s

/-- `PARKED_CONTRIBUTION_OPEN` (R218 to R220): a slot of the group is free. `parity`: numbers of chunks of which an
accumulator word has failed its parity twice over. -/
def execParkedContributionOpen (g : Row) (free : SlotsFree) (s : State) : Host.Outcome State Fault Refusal :=
  .next (unpark g.val free.now free.parity s.ra.parked.length s)

/-! ## Multicast stores -/

/-- The barrier row that takes its release from a multicast group (R244). -/
def State.barrierRow (s : State) (n mc : Nat) : Option Nat :=
  (List.range 256).find? (fun g => s.get (RDX_COLL_A_STATE g) != 0 && s.on (RDX_COLL_A_BARRIER g) &&
    s.get (RDX_COLL_A_PARTITION g) == n && s.get (RDX_COLL_A_MC_GROUP g) == mc)

/-- A share performed at one endpoint slot of this module (R76, R110). -/
def State.share (s : State) (id k : Nat) (p : Pkt) : State := s.ownerAccess (.share id k) (Pkt.set0 p 63 48 (s.slotId k))

/-- A copy to one child (R18, R232). -/
def State.copyTo (s : State) (id : Nat) (p : Pkt) (child : Nat × Nat) : State :=
  let q := Pkt.reform (Pkt.set0 (Pkt.set0 (Pkt.set0 p 63 48 (s.get (PORT_STATUS_PEER_ID child.1))) 47 32 s.selfId) 22 22 0)
  s.issue 97 q (.copy id child.2 child.1)

/-- Replicate a multicast store under this module's entry (R18, R109, R110). -/
def State.replicate (s : State) (p : Pkt) (e : List Word) : State :=
  let w := wd e 0
  let id := s.tr.nextMc
  let kids := (List.range (mcChildren w)).map (mcChild e)
  let slots := setBitsOf 6 (mcSlots w)
  let bar := if slots.isEmpty then none else s.barrierRow (Pkt.part p) (Pkt.group p)
  let m : Mc := ⟨id, p, kids.length + (if bar.isSome then 1 else slots.length), 0, 0, 0⟩
  let s := { s with tr := { s.tr with nextMc := id + 1, mcs := minsert s.tr.mcs id m } }
  let s := kids.foldl (fun s c => s.copyTo id p c) s
  match bar with
  | some g =>
    let x : Nat × Nat × Nat × Nat := (g, leNat (p.payload.take 8), id, slots.length)
    { s with ra := { s.ra with relIn := s.ra.relIn ++ [x] } }
  | none => slots.foldl (fun s k => s.share id k p) s

/-- `MCAST_STORE` (R109, R110, R232): at the root, and at every module below it. -/
def execMcastStore (s : State) : Host.Outcome State Fault Refusal :=
  match s.takeRdx 4 with
  | none => .next (s.beginInner 4)
  | some (none, s) => .next s
  | some (some p, s) =>
    let e := s.mcEntry (Pkt.part p) (Pkt.group p)
    if s.fenced (Pkt.src p) then .next (s.ack p stFENCED)
    else if mcValid (wd e 0) then .next (s.replicate p e)
    else .next (s.reply p 0x81 stACCESS_DENIED [] (mkWord [(31, 16, 1)]))

/-- `MCAST_ACK_COMBINE` (R110): every copy and share has replied; one `ACK` goes upstream. -/
def execMcastAckCombine (op : Nat) (s : State) : Host.Outcome State Fault Refusal :=
  match s.tr.mcs.find? (fun m => m.1 == op) with
  | some (_, m) =>
    if m.waiting = 0 then
      let s := { s with tr := { s.tr with mcs := merase s.tr.mcs op } }
      .next (s.reply m.pkt 0x81 (if m.failed = 0 then 0 else m.status) [] (mkWord [(15, 0, m.ok), (31, 16, m.failed)]))
    else .next s
  | none => .next s

end Sys2Proof.Machine
end

