-- ==== Sys2Proof/Machine/BootRead.lean ====
section
/-! DEFINITION. The ROM's reads of a boot image from a fabric neighbour (R514), and what the Ikio monitor says (R521). -/

namespace Sys2Proof.Machine

/-- The offset of window 62 of partition 0 (R514). -/
def bootWin : Nat := 62 * 2 ^ 42

/-- Bytes to read: the header's block before the length is known. -/
def ResetU.want (r : ResetU) : Nat := if r.imageLen = 0 then 256 else r.imageLen

/-- Send reads while fewer than 64 are out and bytes are left; `n` bounds their number. -/
def bootAsk : Nat → State → State
  | 0, s => s
  | n + 1, s =>
    match s.rs.port with
    | none => s
    | some p =>
      if s.rs.asked < 64 ∧ s.rs.next < s.rs.want then
        let ep := s.get (PORT_STATUS_PEER_ID p)
        let len := min 256 (s.rs.want - s.rs.next)
        let q : ReqForm :=
          { opcode := 1, part := 0, tc := 0, src := s.rs.boot.selfId, dst := ep, addr := faMake ep (bootWin + s.rs.next),
            w3 := BitVec.ofNat 64 len }
        let s := { s with rs := { s.rs with asked := s.rs.asked + 1, next := s.rs.next + len } }
        bootAsk n (s.issue 96 q.pkt .boot)
      else s

/-- Start on the lowest `ACTIVE` fabric port still to try (R514). -/
def State.bootTry (s : State) : State :=
  if s.rs.wait = some 3 ∧ s.rs.port = none then
    match (List.range 96).find? (fun p => s.rs.from_ ≤ p && s.active p && !s.isAttach p) with
    | some p => bootAsk 64 { s with rs := { s.rs with port := some p, transfer := true, image := [], next := 0, asked := 0, imageLen := 0 } }
    | none => s
  else s

/-- The ROM's entries end and their tags rest. -/
def State.bootDrop (s : State) : State :=
  (s.tr.entries.filter (fun e => e.2.issuer == .boot)).foldl (fun s e => s.closeEntry e.1 true) s

/-- A read of the ROM has ended: any status other than `OK` moves it to the next port (R514). The length is the header's,
at most the greatest that R434 allows. -/
def State.bootReply (s : State) (status : Nat) (addr : Word) (bytes : List Byte) : State :=
  if status = 0 then
    let o := faLow addr - bootWin
    let r := s.rs
    let r := { r with image := writeBytes r.image o bytes, asked := r.asked - 1 }
    let r := if o = 0 then { r with imageLen := max 256 (min 0x4000000 (leNat ((bytes.drop 12).take 4))) } else r
    bootAsk 64 { s with rs := r }
  else
    let at_ := match s.rs.port with | some p => p + 1 | none => s.rs.from_
    let s := s.bootDrop
    ({ s with rs := { s.rs with port := none, from_ := at_, transfer := false } }).bootTry

/-- The reply belongs to a read of the ROM (R20). -/
def State.isBootReply (s : State) (p : Pkt) : Bool :=
  Pkt.isReply p && (match s.tr.entries.find? (fun e => e.1 == Pkt.tag p) with
    | some (_, e) => e.issuer == .boot && e.gen == Pkt.gen p
    | none => false)

/-! ## The boot record (R513) -/

/-- The contents of a boot record as bytes (log 165). -/
def BootRecord.bytes (r : BootRecord) : List Byte :=
  wordsBytes [r.serial, mkWord [(15, 0, r.selfId), (16, 16, b2n r.full)]] ++ r.cols.flatMap (fun c => leBytes 2 c.toNat) ++
    r.sram.flatMap (leBytes 4) ++ r.rows.flatMap (fun e => leBytes 4 e.1 ++ leBytes 4 e.2)

/-- The boot record is valid: its CRC matches and its serial is the identity OTP's. -/
def State.bootValid (s : State) : Bool := s.rs.boot.crc == crc32 s.rs.boot.bytes && s.rs.boot.serial == s.reg GLOBAL_SERIAL

/-- Write the boot record. -/
def State.putRecord (s : State) (r : BootRecord) : State :=
  let r := { r with serial := s.reg GLOBAL_SERIAL }
  { s with rs := { s.rs with boot := { r with crc := crc32 r.bytes }, recording := true } }

/-! ## Ikio -/

/-- A line of the monitor. -/
def State.say_ (s : State) (l : String) : State := s.emit (.uart l)

/-- A hexadecimal digit. -/
def hexDigit (n : Nat) : Char := ['0', '1', '2', '3', '4', '5', '6', '7', '8', '9', 'a', 'b', 'c', 'd', 'e', 'f'].getD n '0'

/-- The low `n` digits of a number. -/
def hexDigits : Nat → Nat → List Char
  | 0, _ => []
  | n + 1, v => hexDigits n (v / 16) ++ [hexDigit (v % 16)]

/-- A number of `n` digits with its prefix. -/
def hex (n v : Nat) : String := "0x" ++ String.ofList (hexDigits n v)

/-- Status names (R14). -/
def statusName (st : Nat) : String :=
  ["OK", "FAULT", "FAULT_DROPPED", "TARGET_LOST", "MEMBER_LOST", "POOL_EMPTY", "STATE_CONFLICT", "ACCESS_DENIED",
   "PARITY_EXHAUSTED", "TIMEOUT", "TRANSLATION_GRANULE", "VERSION_UNSUPPORTED", "QUOTA_EXCEEDED", "FENCED"].getD st "ERR"

/-- The last line of a response (R521). -/
def State.sayEnd (s : State) (st : Nat) : State := s.say_ (if st = 0 then "OK" else "ERR " ++ statusName st)

/-- A packet of the monitor's memory access has ended: after the last one the response goes out, each byte as a number, in the
order of their addresses. -/
def State.ikioReply (s : State) (status : Nat) (addr : Word) (bytes : List Byte) : State :=
  match s.rs.ikio with
  | none => s
  | some a =>
    let a := { a with waiting := a.waiting - 1, got := if status = 0 then minsert (merase a.got addr.toNat) addr.toNat bytes else a.got,
                      fail := match a.fail with | some f => some f | none => if status = 0 then none else some status }
    if a.waiting = 0 then
      let s := { s with rs := { s.rs with ikio := none } }
      let text := " ".intercalate ((a.got.flatMap (·.2)).map (fun b => hex 2 b.toNat))
      match a.fail with
      | some st => s.sayEnd st
      | none => (if a.write then s else s.say_ text).sayEnd 0
    else { s with rs := { s.rs with ikio := some a } }

end Sys2Proof.Machine
end

