-- ==== Sys2Proof/Machine/Time.lean ====
section
/-! DEFINITION. The time base (R30 to R41): beat frames, election, lock, holdover and grid changes. -/

namespace Sys2Proof.Machine

/-- The default of a port's time record. -/
def portTime0 : PortTime := {}

/-- What a port has heard of the time grid. -/
def State.pt (s : State) (p : Nat) : PortTime := mget portTime0 s.tm.ports p
def State.setPt (s : State) (p : Nat) (t : PortTime) : State :=
  { s with tm := { s.tm with ports := mset portTime0 s.tm.ports p t } }

/-- `TX_OFS` of the frame of the own edge counted `e` on port `p` (R34; log 12): the free value of the present system-reset
epoch. -/
def State.txOfs (s : State) (p e : Nat) : Nat := (Config.txOfs (s.get GLOBAL_RESET_CAUSE_SYS_COUNT) p e).toNat

/-- The value that stands for a time that does not fit (R36). -/
def noFit : Nat := 0x80000000

/-- A signed time as a 32-bit field (R36). -/
def fitTime (i : Int) : Nat := if -(2 ^ 31 : Int) < i ∧ i < 2 ^ 31 then ofSigned 32 i else noFit

/-- The time of the own edge numbered `b`, by the grid's changes before the edge numbered `n` at time `t`, from which on
the length is `len` (R36). -/
def edgeBack (b n t : Int) (len : Nat) : List GridMark → Int
  | [] => t - (n - b) * len
  | m :: r => if m.beat ≤ b then t - (n - b) * len else edgeBack b m.beat m.clock m.was r

/-- The time of the own edge that carries number `b` in the own count, past or to come, since power-on (R36). -/
def State.edgeTime (s : State) (b : Int) : Int := edgeBack b s.beat s.tm.clock s.beatLen s.tm.marks

/-- A new grid from the latest edge on (R33, R40). -/
def State.setGrid (s : State) (len frac : Nat) : State :=
  let m : GridMark := ⟨s.beat, s.tm.clock, s.beatLen⟩
  let s := { s with tm := { s.tm with marks := m :: s.tm.marks } }
  (s.put TIME_CONFIG_BEAT_LEN len).put TIME_CONFIG_SCHED_FRAC frac

/-- What the number of an own edge is more than its count since power-on. -/
def State.edgeOff (s : State) : Int := (s.beat : Int) - s.edge

/-- The count of the edge whose frame carried number `m`, and by how much it came later than the count of today has it; the
present spell first, then the earlier ones. `hi` ends the spell, which begins after the one that follows in the list. -/
def eraOf (m : Int) (hi : Nat) (off late : Int) : List EdgeEra → Option (Nat × Int)
  | [] => if m - off ≤ hi ∧ 0 ≤ m - off then some ((m - off).toNat, late) else none
  | e :: r => if m - off ≤ hi ∧ (e.last : Int) < m - off then some ((m - off).toNat, late) else eraOf m e.last e.off e.late r

/-- `TX_OFS` for beat `m` as R36 counts it: the time from the own edge that carries `m` in the present count to the
transmission of the frame that carried `m`; none where no such frame has been sent. -/
def State.sentOfs (s : State) (p m : Nat) : Option Int :=
  (eraOf m s.edge s.edgeOff 0 s.tm.eras).map (fun e =>
    s.edgeTime (e.1 + s.edgeOff) + e.2 + s.txOfs p e.1 - s.edgeTime m)

/-- A spell of the own edges ends: those to come differ from it. -/
def State.endEra (s : State) : State := { s with tm := { s.tm with eras := ⟨s.edge, s.edgeOff, 0⟩ :: s.tm.eras } }

/-- The own edges are renumbered, so that the latest carries `n` (R40). -/
def State.renumber (s : State) (n : Nat) : State :=
  let by_ : Int := (n : Int) - s.beat
  let s := s.endEra
  let s := { s with tm := { s.tm with marks := s.tm.marks.map (fun (m : GridMark) => { m with beat := m.beat + by_ }) } }
  s.wr TIME_BEAT_NOW n

/-- The own edges move earlier by `t` at once (R40). -/
def State.stepPhase (s : State) (t : Int) : State :=
  let back := fun (c : Nat) => ((c : Int) - t).toNat
  let s := s.endEra
  let marks := s.tm.marks.map (fun (m : GridMark) => { m with clock := back m.clock })
  let eras := s.tm.eras.map (fun (e : EdgeEra) => { e with late := e.late + t })
  { s with tm := { s.tm with clock := back s.tm.clock, marks := marks, eras := eras } }

/-- The parent port; 127 when there is none. -/
def State.parent (s : State) : Nat := s.get TIME_STATUS_PARENT_PORT

/-- The beat frame of the current edge for a port (R34). -/
def State.beatFrame (s : State) (p : Nat) : Flit :=
  let t := s.pt p
  let role := s.get TIME_STATUS_ROLE
  let prio := if role = 2 then s.get TIME_CONFIG_ROOT_PRIO else if s.parent = 127 then 0xFF else (s.pt s.parent).rootPrio
  mkFlit 2 [
    BitVec.ofNat 64 s.beat,
    mkWord [(31, 0, s.txOfs p s.edge),
      (63, 32, match t.echoBeat with | some n => fitTime (t.arrived - s.edgeTime n) | none => 0)],
    (match t.echoBeat with | some n => BitVec.ofNat 64 n | none => BitVec.ofNat 64 (2 ^ 64 - 1)),
    mkWord [(15, 0, s.get TIME_STATUS_ROOT_ID), (23, 16, prio), (31, 24, s.get TIME_STATUS_STRATUM),
      (33, 32, s.get TIME_CONFIG_BEAT_LEN), (39, 36, s.get TIME_CONFIG_SCHED_FRAC), (40, 40, s.get TIME_STATUS_LOCKED),
      (41, 41, s.get TIME_PENDING_PEND_VALID), (43, 42, s.get TIME_PENDING_PEND_BEAT_LEN),
      (47, 44, s.get TIME_PENDING_PEND_SCHED_FRAC), (63, 48, s.selfId)],
    BitVec.ofNat 64 (s.rd TIME_PENDING_AT),
    BitVec.ofNat 64 s.tm.myTerm] 0 0

/-- The beat frame of a port goes out at once, or behind the packet that cuts through to it (R355). -/
def State.sendBeat (s : State) (p : Nat) : State :=
  let on : Cut → Bool := fun c => c.outPort == p && !c.dead
  if s.xb.cuts.any on then
    { s with xb := { s.xb with cuts := updWhere on (fun c => { c with beats := c.beats ++ [s.beatFrame p] }) s.xb.cuts } }
  else s.sendFlits p [s.beatFrame p]

/-- Beat frames on every port in service (R34). -/
def State.sendBeatFrames (s : State) : State :=
  (List.range 96).foldl (fun s p => if s.active p then s.sendBeat p else s) s

/-- The packets that waited for the lock are sealed and sent (R423). -/
def State.flushSeal (s : State) : State :=
  let w := s.pa.sealWait
  w.foldl (fun s e => s.sendOut e.1 e.2) { s with pa := { s.pa with sealWait := [] } }

/-- Role, parent and lock given up (R39, R40). -/
def State.dropTime (s : State) (role : Nat) : State :=
  let s := (((s.put TIME_STATUS_ROLE role).put TIME_STATUS_LOCKED 0).put TIME_STATUS_PARENT_PORT 0x7F).put TIME_STATUS_ROOT_ID 0xFFFF
  let s := s.put TIME_STATUS_STRATUM 0xFF
  { s with tm := { s.tm with lockStep := 0, goodRun := 0, goodSeen := false, excursion := false } }

/-- A candidate parent: a port in service whose latest frame names a root that may be adopted (R35, R37, R38). The frame
counts while it is at most 8 of the module's own beats old, the age that R39 gives the parent port (log 117, DESIGN
CHOICE). -/
def State.timeCand (s : State) (p : Nat) : Bool :=
  let t := s.pt p
  s.active p && !t.accel && t.echoBeat.isSome && decide (s.edge < t.heardAt + 8) && decide (t.rootPrio < 0xFF) &&
    decide (t.stratum < 63) && mget 0 s.tm.terms t.rootId == t.term &&
    !(t.rootId == s.selfId && s.get TIME_STATUS_ROLE != 2)

/-- Lexicographic order of a root's priority and identifier (R37). -/
def rootKey (prio id : Nat) : Nat := prio * 65536 + id

/-- The best root heard (R37). -/
def State.bestRoot (s : State) : Option Nat :=
  (((List.range 96).filter s.timeCand).map (fun p => rootKey (s.pt p).rootPrio (s.pt p).rootId)).min?

/-- The parent for the best root: lowest stratum, then link delay, then port (R38). -/
def State.bestParent (s : State) (key : Nat) : Option Nat :=
  let c := ((List.range 96).filter s.timeCand).filter (fun p => rootKey (s.pt p).rootPrio (s.pt p).rootId == key)
  let rank := fun p => ((s.pt p).stratum * 2 ^ 33 + (if s.on (TIME_LINK_DELAY_VALID p) then s.get (TIME_LINK_DELAY_DELAY p) else 2 ^ 32)) * 128 + p
  ((c.map rank).min?).map (· % 128)

/-- The best root heard that beats the module's own claim (R37). -/
def State.betterRoot (s : State) : Option Nat :=
  let own := s.get TIME_CONFIG_ROOT_PRIO
  s.bestRoot.filter (fun k => decide (own = 0xFF) || decide (k < rootKey own s.selfId))

/-- The best root that the module may adopt: a root and a module in election hold their own claim against it, the others
take the best they hear (R37 to R39; log 118). -/
def State.rootToAdopt (s : State) : Option Nat :=
  if s.get TIME_STATUS_ROLE = 2 ∨ s.tm.electing = true then s.betterRoot else s.bestRoot

/-- Adopt the best root heard (R38); a module in holdover adopts none in its 16 beats (R39). A change of the parent port
gives up the lock and begins at step 1, also for the same root (log 119, DESIGN CHOICE). -/
def State.adopt (s : State) : State :=
  if s.get TIME_STATUS_ROLE = 3 ∧ s.tm.electing = false then s
  else match s.rootToAdopt with
    | none => s
    | some k =>
      match s.bestParent k with
      | none => s
      | some p =>
        let t := s.pt p
        let s := if s.parent = p then s else s.dropTime 0
        let s := ((s.put TIME_STATUS_PARENT_PORT p).put TIME_STATUS_ROOT_ID t.rootId).put TIME_STATUS_STRATUM (t.stratum + 1)
        { s with tm := { s.tm with myTerm := t.term, quiet := 0, electing := false } }

/-- The frame just taken on the parent port leaves the module no root to adopt: it has no parent any more, sends `STRATUM`
0xFF for 16 beats and takes part in election (R37 to R39; log 55). -/
def State.leaveParent (s : State) (p : Nat) : State :=
  if s.parent = p ∧ s.rootToAdopt.isNone = true then
    let s := s.dropTime 0
    { s with tm := { s.tm with quiet := 16, electing := false } }
  else s

/-- Loss of lock (R40). -/
def State.unlock (s : State) : State :=
  let s := (s.put TIME_STATUS_LOCKED 0).put TIME_STATUS_ROLE 0
  { s with tm := { s.tm with lockStep := 0, goodRun := 0, goodSeen := false, excursion := false } }

/-- The frequency correction that follows a measurement: the spec bounds it by ±200 ppm and gives no value (R40; log 8). -/
def State.discipline (s : State) : State :=
  let (v, s) := s.take
  s.put TIME_OFFSET_FREQ_ADJ (ofSigned 32 ((v.toNat % 400001 : Nat) - (200000 : Int)))

/-- A pending grid change that the parent announces is taken up, while its beat has not begun (R33). -/
def State.takePending (s : State) (grid : Word) (pendAt : Nat) : State :=
  if bit grid 41 && !s.on TIME_PENDING_PEND_VALID && decide (s.beat < pendAt) then
    (((s.put TIME_PENDING_PEND_VALID 1).put TIME_PENDING_PEND_BEAT_LEN (bits grid 43 42)).put
      TIME_PENDING_PEND_SCHED_FRAC (bits grid 47 44)).wr TIME_PENDING_AT pendAt
  else s

/-- A measurement of a locked module beyond ±2 ns begins an excursion, unless one is under way (R41). -/
def State.watchOffset (s : State) (t : Int) : State :=
  if 512 < t.natAbs then
    if s.tm.excursion then s
    else ({ s with tm := { s.tm with excursion := true } }.flag TIME_STATUS_ALIGN_ALARM).bump TIME_ALARM_COUNT
  else { s with tm := { s.tm with excursion := false } }

/-- What a frame on the parent port does to the grid and the lock (R40, R41): beat number `n` of the frame, its grid
word, and the measured offset to the parent in 1/256 ns. -/
def State.followParent (s : State) (n : Nat) (grid : Word) (theta : Option Int) : State :=
  if s.locked then
    match theta with
    | none => s
    | some t =>
      let s := ((s.put TIME_OFFSET_OFFSET (ofSigned 32 t)).discipline).watchOffset t
      if 51200 < t.natAbs then s.unlock else s
  else if s.tm.lockStep = 0 then
    let s := (s.setGrid (bits grid 33 32) (bits grid 39 36)).renumber n
    { s with tm := { s.tm with lockStep := 1 } }
  else match theta with
    | none => s
    | some t =>
      if s.tm.lockStep = 1 then
        let s := (s.put TIME_OFFSET_OFFSET 0).stepPhase t
        { s with tm := { s.tm with lockStep := 2, goodRun := 0, goodSeen := false } }
      else
        let s := (s.put TIME_OFFSET_OFFSET (ofSigned 32 t)).discipline
        if t.natAbs ≤ 2048 then { s with tm := { s.tm with goodSeen := true } }
        else { s with tm := { s.tm with goodRun := 0, goodSeen := false } }

/-- `BEAT_FRAME` (R36, R38): the first frame in the port's inbox is taken; `arrival` is the time from the
module's latest edge to its arrival, in 1/256 ns. The halved measurements are rounded by a free bit (log 8). -/
def execBeatFrame (p : Port) (arrival : BitVec 32) (s : State) : Host.Outcome State Fault Refusal :=
  match s.takeRx p.val (fun i => match i with | .beat _ => true | _ => false) with
  | some (.beat f, s) =>
    let q := p.val
    let n := (fw f 0).toNat
    let acc := s.isAttach q
    let came := s.tm.clock + arrival.toNat
    let a4 := fitTime (came - s.edgeTime n)
    let t : PortTime :=
      { heardAt := s.edge, echoBeat := some n, arrived := came, rootId := bits (fw f 3) 15 0,
        rootPrio := bits (fw f 3) 23 16, stratum := bits (fw f 3) 31 24, term := bits (fw f 5) 31 0, accel := acc }
    let s := s.setPt q t
    let s := s.setLink q { s.link q with lastBeat := s.edge }
    let s := if acc || t.rootId == 0xFFFF then s
      else { s with tm := { s.tm with terms := mset 0 s.tm.terms t.rootId (max (mget 0 s.tm.terms t.rootId) t.term) } }
    let m := fw f 2
    let a1 := match s.sentOfs q m.toNat with | some t => fitTime t | none => noFit
    let b2 := bits (fw f 1) 63 32
    let b3 := bits (fw f 1) 31 0
    let valid := m != BitVec.ofNat 64 (2 ^ 64 - 1) && a4 != noFit && b2 != noFit && b3 != noFit && a1 != noFit
    let x := toSigned 32 b2 - toSigned 32 a1
    let y := toSigned 32 a4 - toSigned 32 b3
    let (v, s) := s.take
    let theta := (x - y + (b2n (bit v 0) : Nat)) / 2
    let d := (x + y + (b2n (bit v 1) : Nat)) / 2
    let s := if valid then (s.setReg (TIME_LINK_DELAY q) (mkWord [(31, 0, d.toNat), (32, 32, 1)])).fibreLow else s
    let s := s.adopt.leaveParent q
    .next (if s.parent = q then
      (s.followParent n (fw f 3) (if valid then some theta else none)).takePending (fw f 3) (fw f 4).toNat else s)
  | _ => .next s

/-- `LOCK_ACQUIRED` (R40): the offset has stayed within ±8 ns for 64 beats; what waited for the lock is sealed and
sent (R423). -/
def execLockAcquired (s : State) : Host.Outcome State Fault Refusal :=
  if !s.locked && s.parent != 127 && s.tm.lockStep == 2 && decide (64 ≤ s.tm.goodRun) then
    let s := (s.put TIME_STATUS_LOCKED 1).put TIME_STATUS_ROLE 1
    .next ({ s with tm := { s.tm with excursion := false } }).flushSeal
  else .next s

/-- `HOLDOVER` (R39): no frame on the parent port for 8 beats. -/
def execHoldover (s : State) : Host.Outcome State Fault Refusal :=
  if s.parent != 127 && decide ((s.pt s.parent).heardAt + 8 ≤ s.edge) then
    let s := s.dropTime 3
    .next { s with tm := { s.tm with quiet := 16, electing := false } }
  else .next s

/-- `ELECTION` (R37, R39): a module without a parent that takes part adopts a better root or becomes root. A module whose
`SELF_ID` is unassigned, 0xFFFF, does not become root: it has no identifier for its pair (log 120, DESIGN CHOICE). -/
def execElection (s : State) : Host.Outcome State Fault Refusal :=
  let own := s.get TIME_CONFIG_ROOT_PRIO
  if s.get TIME_STATUS_ROLE = 2 then
    if own = 0xFF then .next (s.dropTime 0).adopt else .next s.adopt
  else if s.parent = 127 ∧ s.tm.electing = true then
    let s1 := s.adopt
    if s1.parent ≠ 127 then .next s1
    else if own < 0xFF ∧ s.selfId ≠ 0xFFFF then
      let term := ((s.tm.terms.map (·.2)).foldl max s.tm.myTerm) + 1
      let s := s.dropTime 2
      let s := ((((s.put TIME_STATUS_LOCKED 1).put TIME_STATUS_STRATUM 0).put TIME_STATUS_ROOT_ID s.selfId).put TIME_OFFSET_OFFSET 0)
      let tm :=
        { s.tm with
          myTerm := term % 2 ^ 32, electing := false, quiet := 0,
          terms := mset 0 s.tm.terms s.selfId (term % 2 ^ 32) }
      .next ({ s with tm := tm }).flushSeal
    else .next s
  else .next s

/-- The pending grid comes into force at its beat (R33). -/
def State.applyGrid (s : State) : State :=
  if s.on TIME_PENDING_PEND_VALID && decide (s.rd TIME_PENDING_AT ≤ s.beat) then
    (s.setGrid (s.get TIME_PENDING_PEND_BEAT_LEN) (s.get TIME_PENDING_PEND_SCHED_FRAC)).put TIME_PENDING_PEND_VALID 0
  else s

/-- `GRID_CHANGE_APPLY` (R33): the edge of a pending change's beat applies it before anything else; the command applies one
whose beat is reached in another way, by a renumbering. -/
def execGridChangeApply (s : State) : Host.Outcome State Fault Refusal := .next s.applyGrid

/-- The time base's part of a beat edge (R30, R33, R39, R40): the beat number rises, a grid change whose beat begins
applies, runs of good measurements are counted, and the beats of `STRATUM` 0xFF run out. A beat without a measurement on
the parent port leaves the run as the latest measurement left it, and counts (log 121, DESIGN CHOICE). -/
def State.timeEdge (s : State) : State :=
  let len := s.beatLen
  let s := s.setReg TIME_BEAT_NOW (s.reg TIME_BEAT_NOW + 1)
  let s := ({ s with tm := { s.tm with clock := s.tm.clock + len, edges := s.tm.edges + 1 } }).applyGrid
  let tm := s.tm
  let run := if tm.goodSeen then tm.goodRun + 1 else tm.goodRun
  let alone := s.parent = 127 ∧ s.get TIME_STATUS_ROLE ≠ 2
  let quiet := if alone then tm.quiet - 1 else tm.quiet
  { s with tm := { tm with goodRun := run, quiet := quiet, electing := if alone ∧ quiet = 0 then true else tm.electing } }

end Sys2Proof.Machine
end

