-- ==== Sys2Proof/Machine/Switch.lean ====
section
/-! DEFINITION. The switch core (R16 to R20, R162 to R187): choice of the output, storing and sending, combining, epoch
switches; and the command PACKET_SWITCH. -/

namespace Sys2Proof.Machine

/-! ## Ports -/

/-- The accelerator slot at an attach port. -/
def State.slotAt (s : State) (p : Nat) : Option Nat := if s.isAttach p then some (s.get (XBAR_PORT_CFG_ACCEL_SLOT p)) else none

/-- The entry of the peer table for the peer at a port (R462): that of its accelerator slot, or of its `PEER_ID`. -/
def State.peerOf (s : State) (p : Nat) : Option Nat :=
  let k := s.slotAt p
  (List.range 96).find? (fun i => s.get (HEALTH_PEER_A_STATE i) != 0 && mget none s.he.slots i == k &&
    (k.isSome || s.get (HEALTH_PEER_A_PEER_EP i) == s.get (PORT_STATUS_PEER_ID p)))

/-- The peer at a port is fenced (R465). -/
def State.portFenced (s : State) (p : Nat) : Bool :=
  match s.peerOf p with | some i => s.get (HEALTH_PEER_A_STATE i) == 3 | none => false

/-- The switch core counts the port in service (R166, R465). -/
def State.inService (s : State) (p : Nat) : Bool := s.active p && !s.portFenced p

/-- A port's rate (R180, R347), in units of 25 Gb/s; an internal port's is beyond every link's. -/
def State.rate (s : State) (p : Nat) : Nat :=
  if 96 ≤ p then 2 ^ 20 else popCount 8 (s.get (PORT_STATUS_LANES p)) * 2 ^ s.get (PORT_STATUS_SPEED p)

/-- Flits queued for an output, those of packets that cut through to it among them. -/
def State.queuedFlits (s : State) (o : Nat) : Nat :=
  (((s.xb.xq.filter (fun q => q.outPort == o)).map (fun q => Pkt.flits q.pkt)) ++
    ((s.xb.cuts.filter (fun c => c.outPort == o)).map (fun c => Pkt.flits c.pkt))).sum

/-- A route entry of a bank. -/
def State.route (s : State) (bank : Bool) (e : Nat) : Word := mget 0 s.xb.routes (65536 * b2n bank + e)
/-- The ports of a group of a bank. -/
def State.group (s : State) (bank : Bool) (g : Nat) : List Nat :=
  groupPorts (mget 0 s.xb.groups (512 * b2n bank + 2 * g)) (mget 0 s.xb.groups (512 * b2n bank + 2 * g + 1))

/-- Member `h mod n` of a list of ports. -/
def memberAt (l : List Nat) (h : Nat) : Option Nat := if l.isEmpty then none else l[h % l.length]?

/-- The in-service member with the fewest flits queued; on a tie the lowest (R165). -/
def State.leastLoaded (s : State) (l : List Nat) : Option Nat :=
  (((l.filter s.inService).map (fun p => s.queuedFlits p * 128 + p)).min?).map (· % 128)

/-- The output port of a forwarded packet (R165) among a primary and an alternate group. -/
def State.pickPort (s : State) (p : Pkt) (adapt : Bool) (prim alt : List Nat) : Option Nat :=
  let h := routeHash p
  let ordered := 1 ≤ Pkt.opcode p && Pkt.opcode p ≤ 4
  let first := if adapt && !ordered then (match s.leastLoaded prim with | some q => some q | none => memberAt prim h) else memberAt prim h
  let ok := fun q => match q with | some q => s.inService q | none => false
  if ok first then first
  else if ok (memberAt alt h) then memberAt alt h
  else match memberAt (prim.filter s.inService) h with
    | some q => some q
    | none => memberAt (alt.filter s.inService) h

/-! ## Credits and sending -/

/-- Credits held for a channel's reserve at the peer, and shared ones (R177; log 46). -/
def State.reserve (s : State) (o ch : Nat) : Nat := mget 0 s.xb.credit (8 * o + ch)
def State.shared (s : State) (o : Nat) : Nat := mget 0 s.xb.credit (768 + o)
/-- Credits with which a packet of a channel may go. -/
def State.credits (s : State) (o ch : Nat) : Nat := s.reserve o ch + s.shared o
def State.setCredit (s : State) (k n : Nat) : State := { s with xb := { s.xb with credit := mset 0 s.xb.credit k n } }

/-- Credits come back on a channel: its reserve of 5 fills first, the rest is shared. -/
def State.gainCredits (s : State) (o ch n : Nat) : State :=
  let r := min n (5 - s.reserve o ch)
  (s.setCredit (8 * o + ch) (s.reserve o ch + r)).setCredit (768 + o) (s.shared o + (n - r))

/-- A packet of a channel takes credits: shared ones first (log 46, DESIGN CHOICE). -/
def State.useCredits (s : State) (o ch n : Nat) : State :=
  let k := min n (s.shared o)
  (s.setCredit (768 + o) (s.shared o - k)).setCredit (8 * o + ch) (s.reserve o ch - (n - k))

/-- Work of port 97 is held back while a pool that the array needs is in its warning state, while a request of the array waits,
or while the packet's partition is at its limit of cells (R191), and port 96 holds the class in which a request waits for a line queue (R122). -/
def State.internalHeld (s : State) (o : Nat) (p : Pkt) : Bool :=
  if o = 97 then s.warned 0 || s.unitHeld .rdx || decide (s.get (poolLimitF 0 (Pkt.part p)) ≤ s.get (poolUseF 0 (Pkt.part p)))
  else !Pkt.isReply p && s.tr.lineWaits.any (fun w => w.2.2.2 == Pkt.tc p)

/-- A packet is cutting through to the output. -/
def State.cutting (s : State) (o : Nat) : Bool := s.xb.cuts.any (fun c => c.outPort == o && !c.dead)

/-- The output can take the whole packet now (R20, R177, R179): an open internal port, or a link in service that may start a
block and for which the credits last. -/
def State.canSend (s : State) (o : Nat) (p : Pkt) : Bool :=
  if 96 ≤ o then !s.xb.closed && !s.internalHeld o p
  else s.inService o && Link.free (s.link o) && !s.cutting o && decide (Pkt.flits p ≤ s.credits o (Pkt.channel p))

/-- Start a packet on its output. -/
def State.sendOn (s : State) (o inPort : Nat) (p : Pkt) : State :=
  if 97 ≤ o then { s with xb := { s.xb with rdxIn := s.xb.rdxIn ++ [⟨inPort, p⟩] } }
  else if 96 ≤ o then { s with xb := { s.xb with epIn := s.xb.epIn ++ [⟨inPort, p⟩] } }
  else (s.useCredits o (Pkt.channel p) (Pkt.flits p)).sendPkt o p

/-- The row of the collective table whose queue a scheduled request joins (R241); 256 is the further queue. -/
def State.drrRow (s : State) (p : Pkt) : Nat :=
  let n := Pkt.part p
  let live := (List.range 256).filter (fun g => s.get (RDX_COLL_A_STATE g) == 1 || s.get (RDX_COLL_A_STATE g) == 2)
  let hit := if Pkt.opcode p = 5 ∨ Pkt.opcode p = 6 then
      live.find? (fun g => s.get (RDX_COLL_A_GROUP_ID g) == Pkt.group p && s.get (RDX_COLL_A_PARTITION g) == n)
    else if Pkt.opcode p = 4 then
      live.find? (fun g => s.get (RDX_COLL_A_MC_GROUP g) == Pkt.group p && s.get (RDX_COLL_A_PARTITION g) == n)
    else none
  hit.getD 256

/-- Cells that hold stored packets; a combined atomic waits in its table entry (log 125). -/
def State.cellsUsed (s : State) : Nat := (s.xb.xq.filter (fun q => q.inPort != 98)).length

/-- Packets held here that are tagged with the inactive bank (R171): in receive buffers, stored, cutting through, and
atomics held for combining. A packet in the buffer of an attach port has no tag yet (R168). -/
def State.oldHeld (s : State) : Nat :=
  let old := fun (b : Bool) => b != (s.get XBAR_CONFIG_ACTIVE_BANK == 1)
  (((s.xb.rx.filter (fun e => !s.isAttach e.1)).flatMap (·.2)).filter (fun i => match i with | .pkt q => old q.bank | _ => false)).length +
    (s.xb.xq.filter (fun q => old q.pkt.bank)).length + (s.xb.cuts.filter (fun c => old c.pkt.bank)).length +
    (s.xb.comb.filter (fun c => !c.sent && old c.bank)).length

/-- Counts of what the switch core holds (R171, R181): a packet of the inactive bank keeps `DRAINING` set. -/
def State.xqCounts (s : State) : State :=
  let n := s.oldHeld
  let s := (s.wr XBAR_CELLS_IN_USE s.cellsUsed).wr XBAR_OLD_HELD n
  if n = 0 then s else s.flag XBAR_STATUS_DRAINING

/-- Rank of a packet under R175: scheduled before open, replies before requests, `DL` 1 before `DL` 0. -/
def rank175 (p : Pkt) : Nat := 4 * Pkt.tc p + 2 * b2n (Pkt.isReply p) + Pkt.dl p

/-- Two requests of one class touch a common line of one endpoint (R132, R184). -/
def sameLine (p q : Pkt) : Bool :=
  Pkt.dst p == Pkt.dst q && Pkt.tc p == Pkt.tc q &&
    decide (p.w1.toNat / 64 ≤ (q.w1.toNat + (Pkt.extent q - 1)) / 64) && decide (q.w1.toNat / 64 ≤ (p.w1.toNat + (Pkt.extent p - 1)) / 64)

/-- The first stored packet of each input channel for an output (R181), when it can be sent; a request stays behind a
combined atomic of its line, and a combined atomic behind a request of its line (R132, R184). -/
def State.heads (s : State) (o : Nat) : List Stored :=
  let q := s.xb.xq.filter (fun q => q.outPort == o)
  (q.foldl (fun (a : List Stored × List Stored) x =>
    let behind := a.2.any (fun y => (y.inPort == x.inPort && y.ch == x.ch) ||
      ((x.inPort == 98 || y.inPort == 98) && !Pkt.isReply x.pkt && !Pkt.isReply y.pkt && sameLine y.pkt x.pkt))
    (if behind then a.1 else a.1 ++ [x], a.2 ++ [x])) ([], [])).1.filter (fun x => s.canSend o x.pkt)

/-- The first of a list of packets for each row. -/
def rowFirsts (l : List Stored) : List Stored :=
  l.foldl (fun (a : List Stored) x => if a.any (fun y => y.row == x.row) then a else a ++ [x]) []

/-- The number that selects an output's deficits for a `DL` class (R241). -/
def drrKey (o r : Nat) : Nat := 2 * o + r % 2

/-- A row's queue in weighted deficit round-robin (R241) among the heads `hs` that can go: `k` is the key of output and
`DL`, `fuel` bounds the visits. A queue whose head cannot go is passed over (log 126). -/
def drrPick (k : Nat) (hs : List Stored) : Nat → State → Option Stored × State
  | 0, s => (hs.head?, s)
  | fuel + 1, s =>
    let at_ := mget 0 s.xb.drrAt k
    let d := mget 0 s.xb.deficit (257 * k + at_)
    match hs.find? (fun x => x.row == at_ && decide (64 * Pkt.flits x.pkt ≤ d)) with
    | some x =>
      (some x, { s with xb := { s.xb with deficit := mset 0 s.xb.deficit (257 * k + at_) (d - 64 * Pkt.flits x.pkt) } })
    | none =>
      let rows := hs.map (·.row)
      let nxt := match (rows.filter (fun r => at_ < r)).min? with | some r => r | none => rows.min?.getD 0
      let w := if nxt = 256 then s.rd RDX_COLL_OTHER_WEIGHT else s.get (RDX_COLL_A_WEIGHT nxt)
      let xb :=
        { s.xb with
          drrAt := mset 0 s.xb.drrAt k nxt,
          deficit := mset 0 s.xb.deficit (257 * k + nxt) (mget 0 s.xb.deficit (257 * k + nxt) + 320 * w) }
      drrPick k hs fuel { s with xb := xb }

/-- A row's queue that is left empty has no deficit (R241); `left` are the packets that remain for the output. -/
def State.drrEmpty (s : State) (k : Nat) (x : Stored) (left : List Stored) : State :=
  if left.any (fun y => y.row == x.row && rank175 y.pkt == rank175 x.pkt) then s
  else { s with xb := { s.xb with deficit := mset 0 s.xb.deficit (257 * k + x.row) 0 } }

/-- The next in round-robin order after the input served last (R175). -/
def roundRobin (last : Nat) (hs : List Stored) : Option Stored :=
  let place := fun (x : Stored) => if last ≤ x.inPort then x.inPort else x.inPort + 100
  hs.foldl (fun (a : Option Stored) x => match a with | some y => if place x < place y then some x else a | none => some x) none

/-- The choice among heads of one rank `r` at an output (R175, R241), which is an optical port or, as number 98, the outward
path of port 97 where `rows` holds. -/
def State.pickHead (s : State) (o r : Nat) (rows : Bool) (hs : List Stored) (all : List Stored) : Option Stored × State :=
  if rows = true ∧ 4 ≤ r ∧ r < 6 then
    drrPick (drrKey o r) ((rowFirsts (all.filter (fun x => rank175 x.pkt == r))).filter (fun x => hs.contains x)) 600 s
  else match roundRobin (mget 0 s.xb.lastIn (8 * o + r)) hs with
    | none => (none, s)
    | some x => (some x, { s with xb := { s.xb with lastIn := mset 0 s.xb.lastIn (8 * o + r) (x.inPort + 1) } })

/-- The stored packet that an output sends next (R175, R241). -/
def State.nextStored (s : State) (o : Nat) : Option Stored × State :=
  let hs := s.heads o
  let all := s.xb.xq.filter (fun x => x.outPort == o)
  (([7, 6, 5, 4, 3, 2, 1, 0] : List Nat).findSome? (fun r =>
    match s.pickHead o r (decide (o < 96)) (hs.filter (fun x => rank175 x.pkt == r)) all with
    | (some x, t) => some (some x, t)
    | (none, _) => none)).getD (none, s)

/-- Take a packet out of the stored ones. -/
def State.unstore (s : State) (x : Stored) : State :=
  let s := { s with xb := { s.xb with xq := s.xb.xq.erase x } }
  let r := rank175 x.pkt
  if x.outPort < 96 ∧ 4 ≤ r ∧ r < 6 then s.drrEmpty (drrKey x.outPort r) x (s.xb.xq.filter (fun y => y.outPort == x.outPort)) else s

/-- The packet of a rank that leaves port 97 next, and the rest (R175, R215, R241): results and copies are the inputs. A row
that is freed moves its packets here to the further queue, while those queued for an optical port keep theirs (log 158,
DESIGN CHOICE). -/
def State.next97 (s : State) (r : Nat) : Option ((Pkt × Option Nat) × State) :=
  let view := fun (e : Pkt × Option Nat) => (⟨b2n e.2.isSome, 97, s.drrRow e.1, Pkt.channel e.1, e.1⟩ : Stored)
  let all := (s.xb.out97.map view).filter (fun x => rank175 x.pkt == r)
  let firsts := all.foldl (fun (a : List Stored) x => if a.any (fun y => y.inPort == x.inPort) then a else a ++ [x]) []
  let (x, s) := s.pickHead 98 r true (if 4 ≤ r ∧ r < 6 then all else firsts) all
  match x with
  | none => none
  | some x => match takeFirst (fun (e : Pkt × Option Nat) => view e == x) s.xb.out97 with
    | some (e, rest) =>
      let s := { s with xb := { s.xb with out97 := rest } }
      some (e, if 4 ≤ r ∧ r < 6 then s.drrEmpty (drrKey 98 r) x (rest.map view) else s)
    | none => none

/-- Send stored packets of an output while credits last (R175, R179); `n` bounds their number. -/
def drainOut (o : Nat) : Nat → State → State
  | 0, s => s
  | n + 1, s =>
    match s.nextStored o with
    | (none, _) => s
    | (some x, s) => drainOut o n ((s.unstore x).sendOn o x.inPort x.pkt).xqCounts

/-- Send what an output holds. Cycles in which it still lacks credits are counted by a free value (log 9). -/
def State.drain (s : State) (o : Nat) : State :=
  let s := drainOut o s.xb.xq.length s
  if o < 96 ∧ s.xb.xq.any (fun x => x.outPort == o && decide (s.credits o (Pkt.channel x.pkt) < Pkt.flits x.pkt)) then
    let (v, s) := s.take
    s.bumpBy (XBAR_PORT_CREDIT_WAIT o) (v.toNat % 2 ^ 32)
  else s

/-- The state in which a packet starts on its output at once, when it cuts through (R180): the output is idle and would
send it before every queued packet, and its rate is no higher than the input's. Blocks that the link may not start yet (R357)
are no condition, unless other packets wait in them. -/
def State.cutThrough (s : State) (x : Stored) (busy : Bool) : Option State :=
  if busy || decide (s.rate x.inPort < s.rate x.outPort) || !(s.link x.outPort).txQ.isEmpty then none
  else
    let s' := if x.outPort < 96 then s.setLink x.outPort { s.link x.outPort with unacked := [], goBack := none } else s
    match ({ s' with xb := { s'.xb with xq := s'.xb.xq ++ [x] } }).nextStored x.outPort with
    | (some y, t) => if y = x then some (({ t with lk := s.lk }).unstore x) else none
    | (none, _) => none

/-- A packet bound for an output: it cuts through, or it is stored (R180, R181). `ch` is the channel on which it came. -/
def State.forward (s : State) (inPort ch o : Nat) (p : Pkt) (busy : Bool) : State :=
  let x : Stored := ⟨inPort, o, s.drrRow p, ch, p⟩
  match s.cutThrough x busy with
  | some t => (t.bump (XBAR_PORT_CT_COUNT o)).sendOn o inPort p
  | none =>
    let s := s.bump (XBAR_PORT_SF_COUNT o)
    let s := ({ s with xb := { s.xb with xq := s.xb.xq ++ [x] } }).xqCounts
    if busy then s else s.drain o

/-! ## Combining (R182 to R185) -/

/-- Combinable requests agree in these fields, and in `RLEN`, or `KIND` and `SIZE` (R182). -/
def combKey (p : Pkt) : List Nat :=
  [Pkt.opcode p, Pkt.dst p, p.w1.toNat, Pkt.part p, Pkt.tc p, Pkt.scope p, Pkt.sem p,
    if Pkt.opcode p = 1 then Pkt.rlen p else Pkt.kind p * 4 + Pkt.sizeCode p]

/-- The request may combine on the port (R182). -/
def State.combinable (s : State) (o : Nat) (p : Pkt) : Bool :=
  o < 96 && !s.confidential (Pkt.part p) &&
    ((Pkt.opcode p == 1 && s.on (XBAR_PORT_CFG_COMB_READ o)) ||
     (Pkt.opcode p == 3 && s.on (XBAR_PORT_CFG_COMB_ATOMIC o) && Pkt.kind p != 1 && Pkt.kind p != 10 && !Pkt.lcEn p))

/-- One step of combining two operands of a kind (R185). -/
def combOp (kind size a b : Nat) : Nat := if kind = 0 then b else atomicNew kind size a b 0

/-- The request that a combining entry sends (R183, R185). -/
def State.combPkt (s : State) (c : Comb) : Pkt :=
  let p := Pkt.reform (Pkt.tagged (Pkt.set0 c.pkt 47 32 s.selfId) c.tag c.gen)
  if Pkt.opcode p = 3 then
    let ops := c.attached.map (·.operand)
    let z := Pkt.size p
    let v := match ops with | [] => 0 | a :: r => r.foldl (combOp (Pkt.kind p) z) a
    { p with w3 := setBits p.w3 6 6 (b2n (c.attached.all (·.noret))), payload := leBytes z v }
  else p

/-- The count of a port's combining entries, closed ones that wait for their reply among them (R197; log 149, DESIGN
CHOICE). -/
def State.combCount (s : State) (o : Nat) : State :=
  s.wr (XBAR_PORT_COMB_IN_USE o) (s.xb.comb.filter (fun c => c.port == o)).length

/-- Close an entry to attachment; a held atomic is sent, or waits in its entry for credits (R184; log 125). -/
def State.closeComb (s : State) (c : Comb) : State :=
  let s := { s with xb := { s.xb with comb := updWhere (fun d => d.id == c.id) (fun d => { d with closed := true, sent := true }) s.xb.comb } }
  if c.sent then s else
    let p := { s.combPkt c with bank := c.bank }
    s.forward 98 (Pkt.channel p) c.port p false

/-- A request leaving through an optical port meets the combining table: none when it has been attached or held. -/
def State.combine (s : State) (o : Nat) (p : Pkt) : Option Pkt × State :=
  let same := s.xb.comb.find? (fun c => c.port == o && !c.closed && combKey c.pkt == combKey p)
  let att : Attached := ⟨Pkt.src p, Pkt.tag p, Pkt.gen p, Pkt.noret p, leNat (p.payload.take (Pkt.size p))⟩
  match (if s.combinable o p then same else none) with
  | some c =>
    let c' := { c with attached := c.attached ++ [att] }
    let s := { s with xb := { s.xb with comb := updWhere (fun d => d.id == c.id) (fun _ => c') s.xb.comb } }
    let s := s.bump (XBAR_PORT_COMB_COUNT o)
    (none, if 64 ≤ c'.attached.length then s.closeComb c' else s)
  | none =>
    let hit : List Comb := s.xb.comb.filter (fun c => c.port == o && !c.closed && sameLine c.pkt p)
    let s := hit.foldl (fun s c => s.closeComb c) s
    let waits := s.xb.comb.any (fun c => c.port == o && combKey c.pkt == combKey p)
    if s.combinable o p && !waits && decide ((s.xb.comb.filter (fun c => c.port == o)).length < 1024) &&
        s.trackOpen (Pkt.part p) && !s.xb.closed then
      let id := s.xb.nextComb
      let ((t, g), s) := s.openEntry p (.comb o id)
      let c : Comb := ⟨o, id, p, p.bank, [att], false, Pkt.opcode p == 1, t, g⟩
      let s := ({ s with xb := { s.xb with comb := s.xb.comb ++ [c], nextComb := id + 1 } }).combCount o
      if Pkt.opcode p = 1 then (some (s.combPkt c), s) else (none, s)
    else (some p, s)

/-! ## Switching a packet -/

/-- The switch core ends a request (R17, R20): while the internal ports are closed, the reply to a request of this module's
tracker is one that it discards and counts. -/
def State.swAck (s : State) (p : Pkt) (status : Nat) : State :=
  if s.xb.closed && Pkt.src p == s.selfId then s.bump XBAR_ORPHAN_REPLIES else s.ack p status

/-- A packet without a live way (R167): a request ends with `TARGET_LOST`, a reply is discarded. -/
def State.dead (s : State) (p : Pkt) : State :=
  let s := s.noRoute
  if Pkt.isReply p then s else s.swAck p stTARGET_LOST

/-- A packet leaves through an optical port: version check, combining, output (R98, R174, R180 to R184). -/
def State.leave (s : State) (inPort ch o : Nat) (p : Pkt) (busy : Bool) : State :=
  if Pkt.isReply p then s.forward inPort ch o p busy
  else if s.get (PORT_STATUS_VERSION o) < Pkt.version p then s.swAck p stVERSION
  else match s.combine o p with
    | (none, s) => s
    | (some q, s) => s.forward inPort ch o q busy

/-- `DL` as the route sets it (R174). -/
def dlAct (w : Word) (p : Pkt) : Pkt :=
  match rtDlAct w with | 1 => Pkt.set0 p 22 22 1 | 2 => Pkt.set0 p 22 22 0 | _ => p

/-- A packet for this module's internal ports (R17, R20). -/
def State.toInternal (s : State) (inPort ch : Nat) (p : Pkt) : State :=
  if s.xb.closed then
    if Pkt.isReply p then s.bump XBAR_ORPHAN_REPLIES else s.swAck p stTARGET_LOST
  else s.forward inPort ch (s.inner p) p false

/-- Where a packet goes: a reply to the ROM's reads, taken in (R20); nowhere (R167); an internal port; an optical port, as
it leaves by it. -/
inductive Way where
  | boot
  | dead
  | internal
  | port (o : Nat) (p : Pkt)
  deriving DecidableEq, Repr

/-- Choose the way of a packet (R17, R165, R167). A packet for an attached accelerator that leaves by its attach ports is
spread over them as `ADAPT` of its entry says (R164, R197). -/
def State.way (s : State) (inPort : Nat) (p : Pkt) : Way :=
  let w := s.route p.bank (Pkt.dst p)
  let out := fun (q : Pkt) (o : Option Nat) => match o with | some o => Way.port o q | none => .dead
  if s.xb.closed && s.isBootReply p then .boot
  else if !rtValid w || s.lost (Pkt.dst p) then .dead
  else if rtLocal w then
    match s.slotOf (Pkt.dst p) with
    | none => .dead
    | some k =>
      if 1 ≤ k ∧ k ≤ 4 ∧ (Pkt.isReply p = true ∨ inPort = 96 ∧ Pkt.src p = s.selfId) then
        out p (s.pickPort p (rtAdapt w) (s.slotPorts (k - 1)) [])
      else .internal
  else
    let q := dlAct w p
    out q (s.pickPort q (rtAdapt w) (s.group p.bank (rtPgrp w)) (s.group p.bank (rtAlt w)))

/-- Send a packet its way. `ch` is the channel on which it came. -/
def State.routeOut (s : State) (inPort ch : Nat) (p : Pkt) (busy : Bool) : State :=
  match s.way inPort p with
  | .boot => s.deliver inPort p
  | .dead => s.dead p
  | .internal => s.toInternal inPort ch p
  | .port o q => s.leave inPort ch o q busy

/-- The checks on a request at the first module (R63, R97), at an attach port (R370), and of the fence (R465): the
status with which it ends. -/
def State.refused (s : State) (inPort : Nat) (p : Pkt) : Option Nat :=
  let slot := s.get (XBAR_PORT_CFG_ACCEL_SLOT inPort)
  if Pkt.isReply p then none
  else if inPort < 96 ∧ s.isAttach inPort ∧
      (Pkt.src p ≠ s.slotId (slot + 1) ∨ !s.portAdmits inPort (Pkt.part p) ∨ Pkt.dl p = 1) then
    some stACCESS_DENIED
  else if !Pkt.wellFormed p ∨ Pkt.dst p = 0 ∨ Pkt.dst p = 0xFFFF then some stACCESS_DENIED
  else if s.fenced (Pkt.dst p) then some stFENCED
  else none

/-- A reply that is discarded for its form (R97). -/
def badReply (p : Pkt) : Bool := Pkt.isReply p && (!Pkt.replyKnown p || Pkt.dst p == 0 || Pkt.dst p == 0xFFFF)

/-- A packet with the bank that its first module tags it with (R168). -/
def State.tagBank (s : State) (inPort : Nat) (p : Pkt) : Pkt :=
  if 96 ≤ inPort || s.isAttach inPort then { p with bank := s.get XBAR_CONFIG_ACTIVE_BANK == 1 } else p

/-- Switch a packet taken from an input (R17). -/
def State.switchPkt (s : State) (inPort : Nat) (p : Pkt) (busy : Bool) : State :=
  if inPort < 96 ∧ s.portFenced inPort then s.bump HEALTH_FENCE_DROP_COUNT
  else if badReply p then s.bump XBAR_BAD_REPLY_COUNT
  else match s.refused inPort p with
    | some st => s.swAck p st
    | none => s.routeOut inPort (Pkt.channel p) (s.tagBank inPort p) busy

/-- A copy of the output stage for one optical port (R18), after the check of the fence (R465). -/
def State.switchCopy (s : State) (o : Nat) (p : Pkt) (busy : Bool) : State :=
  let p := s.tagBank 97 p
  if s.fenced (Pkt.dst p) then s.swAck p stFENCED
  else if s.inService o then s.leave 97 (Pkt.channel p) o p busy else s.dead p

/-- The state after a packet was switched, unless it would have to be stored and no cell of the reserve is free (R181). -/
def State.ifCell (s t : State) : Option State :=
  if t.cellsUsed ≤ max (s.get XBAR_CONFIG_CELL_RSVD) s.cellsUsed then some t.xqCounts else none

/-- The first packet of a rank at an input is no longer marked as judged. -/
def State.unjudge (s : State) (i r : Nat) : State := { s with xb := { s.xb with judged := s.xb.judged.erase (i, r) } }

/-- The first packet of a rank at an input has been judged not to cut through (R180): it will be stored. -/
def State.judge (s : State) (i r : Nat) : State :=
  if s.xb.judged.contains (i, r) then s else { s with xb := { s.xb with judged := s.xb.judged ++ [(i, r)] } }

/-- The result store of a chunk has left the output stage, so the chunk's slot frees (R214). -/
def State.resultOut (s : State) (p : Pkt) : State :=
  match s.tr.entries.find? (fun e => e.1 == Pkt.tag p && e.2.gen == Pkt.gen p) with
  | some (_, e) => (match e.issuer with | .result c false => s.slotSent c | _ => s)
  | none => s

/-- Switch the first packet of a rank that waits at an input: none where no packet of the rank does, or no cell is free. A
packet judged before is stored (R180). -/
def State.switchFirst (s : State) (i r : Nat) (busy : Bool) : Option State :=
  let busy := busy || s.xb.judged.contains (i, r)
  if i < 96 then
    match s.takeRx i (fun x => match x with | .pkt q => rank175 q == r | _ => false) with
    | some (.pkt q, t) => s.ifCell (((t.unjudge i r).returnCredit i (Pkt.channel q) (Pkt.flits q)).switchPkt i q busy)
    | _ => none
  else if i = 96 then
    match takeFirst (fun q => rank175 q == r) s.xb.out96 with
    | some (q, rest) => s.ifCell ((({ s with xb := { s.xb with out96 := rest } }).unjudge 96 r).switchPkt 96 q busy)
    | none => none
  else match s.next97 r with
    | some ((q, none), t) => s.ifCell ((t.resultOut q).switchPkt 97 q busy)
    | some ((q, some o), t) => s.ifCell (t.switchCopy o q busy)
    | none => none

/-! ## Packets in transit (R180, R367, R368) -/

/-- The packet whose header flit has arrived on a port and whose last flit, or the flit after it, has not. -/
def State.inTransit (s : State) (i : Nat) : Option Pkt :=
  let l := s.link i
  match l.part, l.whole with
  | some x, _ => some (Pkt.ofFlits x.hdr [])
  | none, some q => some { q with payload := [] }
  | none, none => none

/-- A packet of a rank waits at an input for a cell. -/
def State.waitsAt (s : State) (i r : Nat) : Bool :=
  if i < 96 then (mget [] s.xb.rx i).any (fun x => match x with | .pkt q => rank175 q == r | _ => false)
  else i == 96 && s.xb.out96.any (fun q => rank175 q == r)

/-- Switch the packet that ranks first, of those at an input that need no cell that is not free; the packets passed over
have been judged (R180). -/
def switchRanks (i : Nat) (busy : Bool) : List Nat → State → Bool × State
  | [], s => (false, s)
  | r :: rs, s => match s.switchFirst i r busy with
    | some t => (true, t)
    | none => switchRanks i busy rs (if s.waitsAt i r then s.judge i r else s)

/-- The packet in transit is the next of its channel at the port. -/
def State.transitFirst (s : State) (i : Nat) (p : Pkt) : Bool :=
  (mget [] s.xb.rx i).all (fun x => match x with | .pkt q => Pkt.channel q != Pkt.channel p | _ => true)

/-- A packet in transit begins on its output when it cuts through: it goes straight to an optical port, meets no combining
entry, and is behind no packet of its channel (R180; log 138). -/
def State.startCut (s : State) (i : Nat) (busy : Bool) : Option State :=
  match s.inTransit i with
  | none => none
  | some p =>
    if !s.transitFirst i p || s.xb.judged.contains (i, rank175 p) || s.xb.cuts.any (fun c => c.inPort == i) || s.portFenced i || badReply p || (s.refused i p).isSome then none
    else match s.way i (s.tagBank i p) with
      | .port o q =>
        let plain := Pkt.isReply q || (decide (Pkt.version q ≤ s.get (PORT_STATUS_VERSION o)) && !s.combinable o q &&
          s.xb.comb.all (fun c => c.port != o || c.closed || !sameLine c.pkt q))
        if plain then
          match s.cutThrough ⟨i, o, s.drrRow q, Pkt.channel p, q⟩ busy with
          | some t =>
            let t := (t.bump (XBAR_PORT_CT_COUNT o)).useCredits o (Pkt.channel q) (Pkt.flits q)
            let c : Cut := ⟨i, o, q, false, []⟩
            some ({ t with xb := { t.xb with cuts := t.xb.cuts ++ [c] } } : State).xqCounts
          | none => none
        else none
      | _ => none

/-- A flit that voids the packet before it (R353). -/
def stompFlit : Flit := mkFlit 5 [] 0 0

/-- The packet that cuts through from a port ends: it goes out whole, with zeros for payload that never came, and with a
`STOMP` behind it when it is void (R367, R368), and the beat frames that came due meanwhile follow it (R355); nothing of it
goes to an output that has dropped. -/
def State.cutEnd (s : State) (i : Nat) (payload : List Byte) (stomp : Bool) : State :=
  match takeFirst (fun (c : Cut) => c.inPort == i) s.xb.cuts with
  | none => s
  | some (c, rest) =>
    let s := { s with xb := { s.xb with cuts := rest } }
    if c.dead then s.xqCounts
    else
      let p := { c.pkt with payload := (payload ++ List.replicate (Pkt.len c.pkt) 0).take (Pkt.len c.pkt) }
      let s := s.sendFlits c.outPort (Pkt.toFlits p ++ (if stomp then [stompFlit] else []))
      (c.beats.foldl (fun s f => s.sendFlits c.outPort [f]) s).xqCounts

/-- `PACKET_SWITCH` (R17): the waiting packet that R175 ranks first, of those that need no cell that is not free, is switched
and the credits of its buffer are returned, so that no channel waits for another (R44, R176); without one, a packet in
transit may cut through, and the port's output sends what it holds. `busy`: the output is sending a packet. -/
def execPacketSwitch (p : XPort) (busy : Bool) (s : State) : Host.Outcome State Fault Refusal :=
  let i := p.val
  match switchRanks i busy [7, 6, 5, 4, 3, 2, 1, 0] s with
  | (true, t) => .next t
  | (false, s) => match (if i < 96 then s.startCut i busy else none) with
    | some t => .next t
    | none =>
      let s := match (if i < 96 then s.inTransit i else none) with
        | some p => if s.transitFirst i p && s.xb.cuts.all (fun c => c.inPort != i) then s.judge i (rank175 p) else s
        | none => s
      .next (if busy && i < 96 then s else s.drain i)

/-- The packets queued for a port that left service move to the ports that R165 now selects, in order, held atomics with
them (R166). -/
def State.requeue (s : State) (o : Nat) : State :=
  let s := (s.xb.comb.filter (fun c => c.port == o && !c.closed && !c.sent)).foldl (fun s c => s.closeComb c) s
  let moved := s.xb.xq.filter (fun x => x.outPort == o)
  let s := moved.foldl (fun s x => s.unstore x) s
  (moved.foldl (fun s x => s.routeOut x.inPort x.ch x.pkt true) s).xqCounts

/-- `COMB_WINDOW_CLOSE` (R184): a combining entry's window ends. -/
def execCombWindowClose (p : Port) (id : Nat) (s : State) : Host.Outcome State Fault Refusal :=
  match s.xb.comb.find? (fun c => c.port == p.val && c.id == id && !c.closed) with
  | some c => .next (s.closeComb c).xqCounts
  | none => .next s

/-- Take out a combining entry and answer its requesters with an operation on each (R186). -/
def State.answerComb (s : State) (id : Nat) (f : Comb → Nat → Attached → State → State) : State :=
  match s.xb.comb.find? (fun c => c.id == id) with
  | none => s
  | some c =>
    let s := ({ s with xb := { s.xb with comb := s.xb.comb.filter (fun d => d.id != id) } }).combCount c.port
    (c.attached.mapIdx (fun i a => (i, a))).foldl (fun s x => f c x.1 x.2 s) s

/-- The request of an attached requester, as its reply names it. -/
def combReq (c : Comb) (a : Attached) : Pkt := Pkt.tagged (Pkt.set0 c.pkt 47 32 a.src) a.tag a.gen

/-- The status ends each attached request (R186). -/
def State.failComb (s : State) (id src status : Nat) : State :=
  s.answerComb id (fun c _ a s => s.send 96 (Pkt.reply (combReq c a) src 0x81 status [] 0))

/-- The old value of requester `i` (R185). -/
def combOld (c : Comb) (v i : Nat) : Nat :=
  let z := Pkt.size c.pkt
  ((c.attached.take i).map (·.operand)).foldl (combOp (Pkt.kind c.pkt) z) v

/-- `COMBINED_REPLY` (R186): the reply to a combined request at the front of the end-point block ends the tracker entry
and answers every attached requester, after its seal check (R424). -/
def execCombinedReply (s : State) : Host.Outcome State Fault Refusal :=
  match s.xb.epIn with
  | i :: _ =>
    if Pkt.isReply i.pkt && Pkt.dst i.pkt == s.selfId then
      match s.tr.entries.find? (fun e => e.1 == Pkt.tag i.pkt && e.2.gen == Pkt.gen i.pkt) with
      | some (t, e) =>
        match e.issuer, s.takeEp [Pkt.opcode i.pkt] with
        | .comb _ id, some (some j, s) =>
          let s := s.closeEntry t false
          let p := j.pkt
          if Pkt.status p ≠ 0 then .next (s.failComb id (Pkt.src p) (Pkt.status p))
          else .next (s.answerComb id (fun c k a s =>
            let q := combReq c a
            if Pkt.opcode c.pkt = 1 then s.send 96 (Pkt.reply q (Pkt.src p) 0x80 0 p.payload 0)
            else if a.noret then s.send 96 (Pkt.reply q (Pkt.src p) 0x81 0 [] 0)
            else s.send 96 (Pkt.reply q (Pkt.src p) 0x82 0 (leBytes (Pkt.size c.pkt) (combOld c (leNat p.payload) k)) 0)))
        | .comb _ _, some (none, s) => .next s
        | _, _ => .next s
      | none => .next s
    else .next s
  | [] => .next s

/-! ## Epoch switches (R168 to R171) -/

/-- `BANK_SWITCH` (R169, R170): at the first edge numbered `XBAR_EPOCH_AT` or later the spare bank becomes active. -/
def execBankSwitch (s : State) : Host.Outcome State Fault Refusal :=
  if s.on XBAR_STATUS_PEND && decide (s.rd XBAR_EPOCH_AT ≤ s.beat) then
    let s := s.put XBAR_CONFIG_ACTIVE_BANK (1 - s.get XBAR_CONFIG_ACTIVE_BANK)
    let s := ((s.put XBAR_EPOCH_EPOCH (s.get XBAR_EPOCH_EPOCH + 1)).put XBAR_STATUS_PEND 0).flag XBAR_STATUS_DRAINING
    .next ({ s with xb := { s.xb with switchedAt := s.edge } }).xqCounts
  else .next s

/-- `DRAIN_END` (R171): `EPOCH_HOLD` beats have passed since the switch and no packet of the old bank is held. -/
def execDrainEnd (s : State) : Host.Outcome State Fault Refusal :=
  if s.on XBAR_STATUS_DRAINING && decide (s.xb.switchedAt + s.get XBAR_CONFIG_EPOCH_HOLD ≤ s.edge) && s.rd XBAR_OLD_HELD == 0 then
    .next (s.put XBAR_STATUS_DRAINING 0)
  else .next s

end Sys2Proof.Machine
end

