-- ==== Sys2Proof/Machine/Jobs.lean ====
section
/-! DEFINITION. What scheduled steps share: their packets, direct operand reads (R151, R271), cost terms (R53, R54,
R223, R224, R240, R277, R295) and the verdict of an offer for admission (R48 to R51). -/

namespace Sys2Proof.Machine

/-! ## Direct operand reads -/

/-- A run of an endpoint's addresses that this module owns, by its slot. -/
def State.slotTrans (s : State) (n slot addr len : Nat) : Trans :=
  if s.partActive n then (s.translate n slot (addr % 2 ^ 48) len 1 false).1 else ⟨[], [⟨0, stACCESS_DENIED, none⟩], []⟩

/-- What an engine's direct read of a run of this module's own addresses translates to (R151, R271). -/
def State.ownTrans (s : State) (n : Nat) (addr len : Nat) : Trans := s.slotTrans n 0 addr len

/-- The address names this module's own memory. -/
def State.ownAddr (s : State) (a : Word) : Bool := faEp a == s.selfId && s.selfId != 0xFFFF && s.selfId != 0

/-- The bytes of a piece of kind `HBM` or `TUN`. -/
def State.pieceBytes (s : State) (c : Piece) : List Byte :=
  if c.kind = 0 then s.hbmRead c.base c.len else readBytes s.tu.store c.base c.len

/-- The bytes of a run of own `HBM` and `TUN` pages; none when any part is elsewhere or fails its translation. -/
def State.jobBytes (s : State) (n : Nat) (addr : Word) (len : Nat) : Option (List Byte) :=
  if s.ownAddr addr then
    let t := s.ownTrans n addr.toNat len
    if t.fails.isEmpty && t.needs.isEmpty && t.pieces.all (fun c => decide (c.kind ≤ 1)) then some (t.pieces.flatMap s.pieceBytes) else none
  else none

/-- A fault record of an engine's own read (R84, R86): the spec names no opcode and tag for it, so both are free. -/
def State.jobFault (s : State) (n : Nat) (addr : Word) (len : Nat) (f : PageFail) : Nat × State :=
  let (v, s) := s.take
  let p : Pkt := ReqForm.pkt { opcode := bits v 7 0, part := n, src := s.selfId, dst := faEp addr, addr := addr, tag := bits v 27 8 }
  s.fault p len f

/-! ## Packets of a step -/

/-- The number of a step's own tracker entry among its packets (R237). -/
def wholeEntry : Nat := 8192

/-- The row of the collective table of a group (R236). -/
def State.collRow (s : State) (n grp : Nat) : Option Nat :=
  (List.range 256).find? (fun g => s.get (RDX_COLL_A_STATE g) != 0 && s.get (RDX_COLL_A_GROUP_ID g) == grp && s.get (RDX_COLL_A_PARTITION g) == n)

/-- The row is suspended, or gone. -/
def State.rowDown (s : State) (n grp : Nat) : Bool :=
  match s.collRow n grp with | some g => s.get (RDX_COLL_A_STATE g) == 2 | none => true

/-- The tracker entry of a whole step (R237): opened when the partition has room, otherwise the step waits for one. -/
def State.openWhole (s : State) (x : Step) (dst : Nat) : Bool × State :=
  let p : Pkt := ReqForm.pkt { opcode := 5, part := x.part, tc := 1, src := s.selfId, dst := dst, addr := 0 }
  if s.trackOpen x.part then
    let ((t, g), s) := s.openEntry p (.step x.id wholeEntry)
    (true, s.setStep { x with tag := t, gen := g })
  else (false, ({ s with tr := { s.tr with stalled := s.tr.stalled ++ [(p, Issuer.step x.id wholeEntry)] } }).bump TRACK_STALL_COUNT)

/-- The step holds its tracker entry. -/
def State.hasWhole (s : State) (x : Step) : Bool := s.tr.entries.any (fun e => e.1 == x.tag && e.2.issuer == Issuer.step x.id wholeEntry)

/-- Free the tracker entry of a whole step, and forget it where it still waits for one. -/
def State.closeWhole (s : State) (x : Step) : State :=
  let s := { s with tr := { s.tr with stalled := s.tr.stalled.filter (fun e => e.2 != Issuer.step x.id wholeEntry) } }
  if s.hasWhole x then s.closeEntry x.tag false else s

/-- One packet of a step under an entry of its own. -/
def State.stepPkt (s : State) (port : Nat) (x : Step) (i : Nat) (f : ReqForm) : State := s.issue port f.pkt (.step x.id i)

/-- The word 3 of a contribution (R99). -/
def redWord (group op fmt mode rank chunk : Nat) : Word :=
  mkWord [(11, 0, group), (15, 12, op), (19, 16, fmt), (20, 20, mode), (33, 21, rank), (63, 34, chunk)]

/-! ## Reads of a sequencer image (R341) -/

/-- Replace an image being read. -/
def State.setImage (s : State) (l : ImageLoad) : State :=
  { s with sq := { s.sq with images := updWhere (fun (x : ImageLoad) => x.id == l.id) (fun _ => l) s.sq.images } }

/-- The next `READ` of an image, up to a boundary of 256 B, while bytes are missing. -/
def State.imageNext (s : State) (l : ImageLoad) : State :=
  let a := l.addr + l.got.length
  let n := min (256 - a % 256) (l.want - l.got.length)
  let s := s.setImage l
  if n = 0 then s
  else
    let a := BitVec.ofNat 64 a
    let f : ReqForm := { opcode := 1, part := l.part, src := s.selfId, dst := faEp a, addr := a, w3 := BitVec.ofNat 64 n }
    s.issue 96 f.pkt (.image l.id)

/-- A read of an image has ended: the next goes out, or the image has failed. -/
def State.imageReply (s : State) (id status : Nat) (bytes : List Byte) : State :=
  match s.sq.images.find? (fun l => l.id == id) with
  | none => s
  | some l => if status = 0 then s.imageNext { l with got := l.got ++ bytes } else s.setImage { l with fail := some status }

/-! ## Cost terms -/

def cSCAN : Nat := 0
def cLAUNCH : Nat := 1
def cOUT : Nat := 2
def cIN : Nat := 3
def cHOP : Nat := 4
def cPKT : Nat := 5
def cIPORT : Nat := 6
def cMOVER : Nat := 7
def cWRITE : Nat := 9
def cLAND : Nat := 10
def cRDXCYCLE : Nat := 11
def cRDXFILL : Nat := 12
def cTUNCYCLE : Nat := 13
def cTUNFILL : Nat := 14
def cHBMKIB : Nat := 15
def cHBMFIRST : Nat := 16

/-- A term of `n` times `TUN_CYCLE`, `RDX_CYCLE` or `MOVER` under the throttle in force, rounded up (R448). -/
def State.throttled (s : State) (n k : Nat) : Nat := cdiv (n * s.cost k * 16) (s.get PGOV_STATUS_THROTTLE)

/-- The route entry for an endpoint in the active bank. -/
def State.routeNow (s : State) (e : Nat) : Word := s.route (s.get XBAR_CONFIG_ACTIVE_BANK == 1) e

/-- P(h) (R54, R240): nothing for no link (log 135). -/
def State.pathCost (s : State) (h : Nat) : Nat :=
  if h = 0 then 0 else s.cost cOUT + h * s.rd TIME_FIBRE_ALLOW + (h - 1) * s.cost cHOP + s.cost cIN

/-- ⌈q / k⌉ × `PKT`, with k the ports in service of the primary group of an endpoint's route; without one, R54 and R240
give no value (log 14). -/
def State.portTerm (s : State) (q e : Nat) : Nat :=
  let k := ((s.group (s.get XBAR_CONFIG_ACTIVE_BANK == 1) (rtPgrp (s.routeNow e))).filter s.inService).length
  if k = 0 then Config.openTerm 0 q else cdiv q k * s.cost cPKT

/-- c(e) (R223). -/
def redCycles (op fmt mode e : Nat) : Nat :=
  if op = 7 then 8 + 2 * cdiv e 128
  else if op = 0 ∧ mode = 0 ∧ (fmt = 3 ∨ fmt = 4 ∨ 9 ≤ fmt) then cdiv e 32
  else cdiv e 128

/-- Elements of a contribution of `len` bytes (R201 to R203). -/
def elemCount (op fmt len : Nat) : Nat :=
  if op = 7 then (len - 8) * 8 / elemBits fmt
  else if isMx fmt then (len - 8) / blockBytes fmt * 32 else len * 8 / elemBits fmt

/-- The beat as it is charged with an `ATTN_JOB` in it: the reduction terms charged already rise (R295). -/
def State.attnNow (s : State) : State :=
  { s with st := { s.st with attnBeat := some s.edge, charged := s.st.charged + s.st.attnMore, attnMore := 0 } }

/-- An `ATTN_JOB` runs, has run or was admitted in this beat (R295). -/
def State.attnCharged (s : State) : Bool := s.st.attnBeat == some s.edge || s.st.steps.any (fun x => dType (wd x.words 0) == 4)

/-- The reduction term of R224, under R295. -/
def State.redTerm (s : State) (k n ce : Nat) : Nat :=
  s.cost cRDXFILL + max (s.throttled (cdiv k (if s.attnCharged then 48 else 64) * (n + 1) * ce) cRDXCYCLE) (n * k * s.cost cIPORT)

/-- X of R240 for `q` packets, from a multicast entry. -/
def State.xTerm (s : State) (n grp q : Nat) : Nat :=
  let w := wd (s.mcEntry n grp) 0
  if mcValid w then max (q * s.cost cPKT) (mcFanout w * q * s.cost cIPORT) else Config.openTerm 1 q

/-- Q of R240, from a multicast entry. -/
def State.qTerm (s : State) (n grp : Nat) : Nat :=
  let w := wd (s.mcEntry n grp) 0
  if mcValid w then mcDepth w * (s.cost cOUT + s.rd TIME_FIBRE_ALLOW + s.cost cIN) else Config.openTerm 2 0

/-- The cost of a scheduled `TILE_MOVE` (R54, R410). -/
def State.tileCost (s : State) (ws : List Word) : Nat :=
  let b := wb ws 3 26 0
  let e := faEp (wd ws 2)
  s.cost cLAUNCH + s.pathCost (rtHops (s.routeNow e)) +
    max (s.throttled (cdiv b (128 * wb ws 3 33 27)) cMOVER) (max (s.portTerm (cdiv b 256) e) (cdiv b 256 * s.cost cIPORT)) +
    s.cost cWRITE + s.cost cLAND + s.rd TIME_GUARD

/-! ## Offers -/

/-- What the checks of an offered step say. -/
inductive Offer where
  /-- The step ends at once: status, state code, detail. -/
  | refuse (status sc detail : Nat)
  /-- Not offered in this beat; a deferral (R50). -/
  | defer
  /-- Not admitted yet; no deferral (R59). -/
  | hold
  /-- To be judged by its cost; the barrier row whose release it follows. -/
  | cost (c : Nat) (bar : Option Nat)
  deriving DecidableEq, Repr

/-- A gate's fields: enabled, counter, target. -/
def State.gateOpen (s : State) (en : Bool) (idx : Nat) (target : Word) : Bool := !en || reached (s.counter idx) target

/-- The gate of a descriptor (R235, R269, R284, R409). -/
def State.gateOf (s : State) (ws : List Word) : Bool :=
  match dType (wd ws 0) with
  | 1 => s.gateOpen (bit (wd ws 4) 17) (wb ws 4 16 0) (wd ws 5)
  | 2 => s.gateOpen (bit (wd ws 5) 17) (wb ws 5 16 0) (wd ws 6)
  | 3 => s.gateOpen (bit (wd ws 5) 17) (wb ws 5 16 0) (wd ws 6)
  | 4 => s.gateOpen (bit (wd ws 6) 17) (wb ws 6 16 0) (wd ws 7)
  | _ => true

end Sys2Proof.Machine
end

