-- ==== Sys2Proof/Machine/Coll.lean ====
section
/-! DEFINITION. Collective steps (R235 to R240), scheduled barriers (R59, R60, R243, R244) and the suspension of rows
(R245): BARRIER_ARRIVAL, BARRIER_TIMEOUT, COLL_STEP_END. -/

namespace Sys2Proof.Machine

/-! ## The descriptor (R235) -/

def coKind (ws : List Word) : Nat := wb ws 3 13 12
def coGroup (ws : List Word) : Nat := wb ws 3 11 0
def coBar (ws : List Word) : Bool := bit (wd ws 3) 14
def coCount (ws : List Word) : Nat := wb ws 4 12 0
def coLen (ws : List Word) : Nat := wb ws 4 24 16

/-- No reserved encoding and every field in its range (R13, R204, R235). -/
def collWellFormed (ws : List Word) : Bool :=
  coKind ws != 3 && 1 ≤ coCount ws && coCount ws ≤ 4096 && 1 ≤ coLen ws && coLen ws ≤ 256 &&
    1 ≤ wb ws 4 31 25 && wb ws 4 31 25 ≤ 64 && redAllowed (wb ws 4 58 55) (wb ws 4 54 51) (wb ws 4 59 59)

/-- The barrier row of a row (R243). -/
def State.barRowOf (s : State) (g : Nat) : Option Nat :=
  match s.collRow (s.get (RDX_COLL_A_PARTITION g)) (s.get (RDX_COLL_A_BAR_GROUP g)) with
  | some b => if s.on (RDX_COLL_A_BARRIER b) then some b else none
  | none => none

/-- The release of the current arrival at a barrier has arrived (R59). -/
def State.released (s : State) (b : Nat) : Bool :=
  let (gen, _) := mget (0, 0, 0) s.ra.released b
  gen != 0 && gen % 2 ^ 30 == s.get (RDX_COLL_C_BAR_GEN b) && s.ra.bar.all (fun e => e.1 != b)

/-- The cost of a collective step (R240); `g` is its row, none for `MCAST`. -/
def State.collCost (s : State) (n : Nat) (ws : List Word) (g : Option Nat) : Nat :=
  let q := coCount ws
  let k := coKind ws
  let mc := match g with | some g => s.get (RDX_COLL_A_MC_GROUP g) | none => coGroup ws
  let root := match g with | some g => s.get (RDX_COLL_B_ROOT_EP g) | none => s.mcRootOf n mc
  let members := match g with | some g => s.get (RDX_COLL_B_MEMBERS g) | none => 0
  let op := wb ws 4 58 55
  let fmt := wb ws 4 54 51
  let mode := wb ws 4 59 59
  let sT := max (s.throttled (cdiv (q * coLen ws) (128 * wb ws 4 31 25)) cMOVER) (max (s.portTerm q root) (q * s.cost cIPORT))
  let t := if k = 2 then 0 else s.redTerm q members (redCycles op fmt mode (elemCount op fmt (coLen ws)))
  let x := if k = 1 then 0 else s.xTerm n mc q
  s.cost cLAUNCH + s.pathCost (rtHops (s.routeNow root)) + max sT (max t x) + (if k = 1 then 0 else s.qTerm n mc) +
    s.cost cWRITE + s.cost cLAND + s.rd TIME_GUARD

/-- The checks of an offered collective step (R236). -/
def State.collOffer (s : State) (n : Nat) (ws : List Word) (gate : Bool) : Offer :=
  let aligned := (wd ws 1).toNat % 256 == 0 && (wd ws 2).toNat % 256 == 0
  if coKind ws = 2 then
    if !mcValid (wd (s.mcEntry n (coGroup ws)) 0) then .refuse stACCESS_DENIED 0 0
    else if !aligned || coBar ws then .refuse stACCESS_DENIED 0 0
    else if !gate then .defer
    else .cost (s.collCost n ws none) none
  else match s.collRow n (coGroup ws) with
    | none => .refuse stACCESS_DENIED 0 0
    | some g =>
      let bar := if coBar ws then some (s.barRowOf g) else none
      let barUp := match bar with | some (some b) => s.get (RDX_COLL_A_STATE b) == 1 | some none => !s.on (RDX_COLL_A_BAR_EN g) | none => true
      if !s.on (RDX_COLL_A_MEMBER g) then .refuse stACCESS_DENIED 0 0
      else if s.get (RDX_COLL_A_STATE g) ≠ 1 ∨ !barUp then .refuse stMEMBER_LOST 0 0
      else if !(decide (wb ws 3 28 16 < s.get (RDX_COLL_B_MEMBERS g)) && decide (coCount ws ≤ s.get (RDX_COLL_B_SLOTS g)) && aligned &&
          (!coBar ws || s.on (RDX_COLL_A_BAR_EN g))) then .refuse stACCESS_DENIED 0 0
      else if !gate then .defer
      else match bar with
        | some (some b) => if s.released b then .cost (s.collCost n ws (some g)) (some b) else .hold
        | _ => .cost (s.collCost n ws (some g)) none

/-! ## Running a step -/

/-- The row of a step, or its barrier row, is suspended (R238). -/
def State.collDown (s : State) (x : Step) : Bool :=
  coKind x.words != 2 && (s.rowDown x.part (coGroup x.words) ||
    (coBar x.words && (match s.collRow x.part (coGroup x.words) with
      | some g => (match s.barRowOf g with | some b => s.get (RDX_COLL_A_STATE b) != 1 | none => true)
      | none => true)))

/-- A step that sends nothing more: a packet of it has failed, or a row of it is suspended (R238, R245, R275, R298). -/
def State.stepStopped (s : State) (x : Step) : Bool := x.fail.isSome || (dType (wd x.words 0) == 2 && s.collDown x)

/-- The packet of chunk `i` (R235, R237). -/
def State.chunkForm (s : State) (x : Step) (i : Nat) (bytes : List Byte) : ReqForm :=
  let ws := x.words
  let k := coKind ws
  let addr := BitVec.ofNat 64 ((wd ws 2).toNat + 256 * i)
  let root := if k = 2 then s.mcRootOf x.part (coGroup ws)
    else match s.collRow x.part (coGroup ws) with | some g => s.get (RDX_COLL_B_ROOT_EP g) | none => s.selfId
  { opcode := if k = 0 then 5 else if k = 1 then 6 else 4, part := x.part, tc := 1, src := s.selfId, dst := root,
    addr := if k = 1 then addr else faMake 0 (faLow addr), tag := x.tag, gen := x.gen,
    lcEn := bit (wd ws 4) 49, lcMode := bit (wd ws 4) 50, lcIdx := wb ws 4 48 32,
    w3 := if k = 2 then BitVec.ofNat 64 (coGroup ws)
      else redWord (coGroup ws) (wb ws 4 58 55) (wb ws 4 54 51) (wb ws 4 59 59) (wb ws 3 28 16) ((wb ws 3 61 32 + i) % 2 ^ 30),
    payload := bytes }

/-- Send chunk `i`, whose bytes have been read; a step that has failed, or whose row is suspended, sends nothing more
(R238, R245). -/
def State.sendChunk (s : State) (id i : Nat) (bytes : List Byte) : State :=
  match s.step? id with
  | none => s
  | some x =>
    if s.stepStopped x then s
    else
      let s := s.setStep { x with todo := x.todo - 1, outstanding := if coKind x.words = 0 then x.outstanding else x.outstanding + 1 }
      let f := s.chunkForm x i bytes
      if coKind x.words = 0 then s.send 97 f.pkt else s.stepPkt 97 x i f

/-- Read and send every chunk of a step: its own `HBM` and `TUN` pages directly, anything else by a request. -/
def State.runColl (s : State) (id : Nat) : State :=
  match s.step? id with
  | none => s
  | some x =>
    (List.range (coCount x.words)).foldl (fun s i =>
      let a := BitVec.ofNat 64 ((wd x.words 1).toNat + 256 * i)
      match s.jobBytes x.part a (coLen x.words) with
      | some b => s.sendChunk id i b
      | none => match s.step? id with
        | some y =>
          if s.stepStopped y then s
          else (s.setStep { y with outstanding := y.outstanding + 1 }).stepPkt 96 y i
            { opcode := 1, part := y.part, tc := 1, src := s.selfId, dst := faEp a, addr := a, w3 := BitVec.ofNat 64 (coLen y.words) }
        | none => s) s

/-- Start an admitted collective step. -/
def State.startColl (s : State) (id : Nat) : State :=
  match s.step? id with
  | none => s
  | some x =>
    let x := { x with phase := 1, todo := coCount x.words }
    let s := s.setStep x
    if coKind x.words = 0 then
      let dst := match s.collRow x.part (coGroup x.words) with | some g => s.get (RDX_COLL_B_ROOT_EP g) | none => s.selfId
      let (ok, s) := s.openWhole x dst
      if ok then s.runColl id else s
    else s.runColl id

/-- `COLL_STEP_END` (R238): the step ends with the first of its events that applies. -/
def execCollStepEnd (id now : Nat) (s : State) : Host.Outcome State Fault Refusal :=
  match s.step? id with
  | none => .next s
  | some x =>
    let done := bit (wd x.words 5) 18
    let status :=
      if s.collDown x then some stMEMBER_LOST
      else match x.fail with
        | some (_, st) => some st
        | none =>
          if done then (if reached (s.counter (wb x.words 5 35 19)) (wd x.words 7) then some 0 else none)
          else if x.todo = 0 ∧ x.outstanding = 0 then some 0 else none
    match (if dType (wd x.words 0) = 2 ∧ x.phase = 1 then status else none) with
    | some st => .next ((s.closeWhole x).endStep x now st 0)
    | none => .next s

/-! ## Scheduled barriers -/

/-- A step with `BAR` 1 of a row whose barrier is row `b`. -/
def State.gatedOn (s : State) (b n : Nat) (ws : List Word) : Bool :=
  dType (wd ws 0) == 2 && coBar ws && coKind ws != 2 &&
    (match s.collRow n (coGroup ws) with | some g => s.on (RDX_COLL_A_BAR_EN g) && s.barRowOf g == some b | none => false)

/-- The seen descriptor at the head of a ring. -/
def State.headDesc (s : State) (n r : Nat) : Option Desc :=
  match (s.ring n r).descs with | d :: _ => if d.seen then some d else none | [] => none

/-- The partition's rings whose head is gated on a barrier row. -/
def State.gatedRings (s : State) (b : Nat) : List Nat :=
  let n := s.get (RDX_COLL_A_PARTITION b)
  (List.range 16).filter (fun r => match s.headDesc n r with | some d => s.gatedOn b n d.words | none => false)

/-- `BARRIER_ARRIVAL` (R59, R243): at an edge plus `SCAN` a waiting member sends its arrival. The contribution holds no
tracker entry and its `TAG` is free (log 15). -/
def execBarrierArrival (g : Row) (now : Nat) (s : State) : Host.Outcome State Fault Refusal :=
  let b := g.val
  let n := s.get (RDX_COLL_A_PARTITION b)
  let running := s.st.steps.any (fun x => dType (wd x.words 0) == 2 && coKind x.words != 2 && x.part == n &&
    (match s.collRow n (coGroup x.words) with | some r => s.barRowOf r == some b | none => false))
  if s.get (RDX_COLL_A_STATE b) = 1 ∧ s.on (RDX_COLL_A_BARRIER b) = true ∧ s.cost cSCAN ≤ now ∧ s.gatedRings b ≠ [] ∧
      running = false ∧ s.ra.bar.all (fun e => e.1 != b) = true then
    let gen := s.get (RDX_COLL_C_BAR_GEN b)
    let (v, s) := s.take
    let f : ReqForm :=
      { opcode := 5, part := n, tc := 1, src := s.selfId, dst := s.get (RDX_COLL_B_ROOT_EP b), addr := 0,
        tag := bits v 19 0, gen := bits v 23 20,
        w3 := redWord (s.get (RDX_COLL_A_GROUP_ID b)) 2 8 0 (s.get (RDX_COLL_A_OWN_RANK b)) gen, payload := leBytes 8 gen }
    let w : BarWait := ⟨gen, s.edge, s.tm.clock + s.cost cSCAN⟩
    let s := { s with ra := { s.ra with bar := minsert (merase s.ra.bar b) b w } }
    .next ((s.put (RDX_COLL_C_BAR_GEN b) (gen + 1)).send 97 f.pkt)
  else .next s

/-- `BARRIER_TIMEOUT` (R60): the release of an arrival has not come in `TIME_BARRIER_LIMIT` beats. The arrival stays
outstanding: no other is sent until its release comes, and the command ends again whatever is gated on it meanwhile
(log 113, DESIGN CHOICE). -/
def execBarrierTimeout (g : Row) (s : State) : Host.Outcome State Fault Refusal :=
  let b := g.val
  match s.ra.bar.find? (fun e => e.1 == b) with
  | some (_, w) =>
    if w.edge + s.rd TIME_BARRIER_LIMIT ≤ s.edge then
      let n := s.get (RDX_COLL_A_PARTITION b)
      .next ((s.gatedRings b).foldl (fun s r => match s.headDesc n r with
        | some d => s.endHead n r d stTIMEOUT 0 0
        | none => s) s)
    else .next s
  | none => .next s

/-- A barrier's release is recorded (R59, R244): its generation, when it came, how long the module waited for it, and
the share of the multicast store that carried it. -/
def State.takeRelease (s : State) (b now : Nat) : State :=
  match takeFirst (fun (e : Nat × Nat × Nat × Nat) => e.1 == b) s.ra.relIn with
  | none => s
  | some ((_, gen, mc, shares), rest) =>
    let hit := s.ra.bar.find? (fun e => e.1 == b && e.2.gen == gen)
    let s := match hit with
      | some (_, w) =>
        let (ns, s) := s.spanNs (s.tm.clock + now - w.at_)
        s.bumpBy TIME_BARRIER_WAIT ns
      | none => s
    let ra :=
      { s.ra with
        relIn := rest, bar := if hit.isSome then merase s.ra.bar b else s.ra.bar,
        released := mset (0, 0, 0) s.ra.released b (gen + 1, s.edge, now) }
    ({ s with ra := ra }).mcReply mc shares 0 0

/-! ## Suspension (R245) -/

/-- Member table entry `i`. -/
def State.member (s : State) (i : Nat) : Nat := bits (s.reg (RDX_COLL_MEMBER (i / 4))) (16 * (i % 4) + 15) (16 * (i % 4))

/-- Suspend an active row; open chunks of a root row end with `MEMBER_LOST` (R217), and so do the steps gated on a
barrier row (R60, R245). -/
def State.suspendRow (s : State) (g ep cause : Nat) : State :=
  if s.get (RDX_COLL_A_STATE g) ≠ 1 then s
  else
    let s := s.put (RDX_COLL_A_STATE g) 2
    let s := if s.on (RDX_COLL_A_ROOT g) then s.put (RDX_GROUP_A_STATE g) 2 else s
    let s := s.setReg (RDX_COLL_SUSPEND g) (mkWord [(63, 48, ep), (42, 40, cause), (39, 0, s.beat)])
    let s := (s.flag RDX_COLL_STATUS_SUSPENDED).bump RDX_COLL_SUSPEND_COUNT
    let s := (s.gatedRings g).foldl (fun s r => match s.headDesc (s.get (RDX_COLL_A_PARTITION g)) r with
      | some d => s.endHead (s.get (RDX_COLL_A_PARTITION g)) r d stMEMBER_LOST 0 0
      | none => s) s
    (s.ra.chunks.filter (s.chunkOf g)).foldl (fun s c => s.endChunk c stMEMBER_LOST) s

/-- The row names an endpoint as a member or as its root. -/
def State.rowNames (s : State) (g ep : Nat) : Bool :=
  s.get (RDX_COLL_B_ROOT_EP g) == ep || (List.range (s.get (RDX_COLL_B_MEMBERS g))).any (fun i => s.member (s.get (RDX_COLL_B_MEMBER_BASE g) + i) == ep)

/-- Suspend every active row that names an endpoint: cause 1 lost, 2 fenced (R245). -/
def State.suspendFor (s : State) (ep cause : Nat) : State :=
  ((List.range 256).filter (fun g => s.get (RDX_COLL_A_STATE g) == 1 && s.rowNames g ep)).foldl (fun s g => s.suspendRow g ep cause) s

end Sys2Proof.Machine
end

