-- ==== Sys2Proof/Machine/Mail.lean ====
section
/-! DEFINITION. Mailboxes (R388 to R398): the command and response areas, the checks of R394, completion, bulk buffers;
and the command MB_HELLO. -/

namespace Sys2Proof.Machine

/-- Word `i` of the command area of mailbox `m`; word 0 is the header and word `i` payload word `i`. -/
def State.cmd (s : State) (m i : Nat) : Word := s.reg (MB_CMD m i)
/-- `OPCODE` and `LEN` of the command. -/
def State.cmdOp (s : State) (m : Nat) : Nat := bits (s.cmd m 0) 15 0
def State.cmdLen (s : State) (m : Nat) : Nat := bits (s.cmd m 0) 23 16
/-- The selector's index and count (R393). -/
def State.cmdIdx (s : State) (m : Nat) : Nat := bits (s.cmd m 1) 31 8
def State.cmdCount (s : State) (m : Nat) : Nat := bits (s.cmd m 1) 63 32

/-- What a row of R399 and of R391 says of a command: opcode, minor version, allowed from partition mailboxes, whether
it names a partition in its selector, the least `LEN`, carried out during a core reset, the presence bits of its units
(R3), the phase from which those units are ready (R507, R512), and whether it has a bulk buffer (R393). -/
structure MbSpec where
  opcode : Nat
  need : Nat
  tenant : Bool := false
  minor : Nat := 0
  naming : Bool := true
  kept : Bool := false
  units : List Fld := []
  ready : Nat := 6
  bulk : Bool := false
  deriving DecidableEq, Repr

/-- The opcodes that R399 defines. -/
def mbOpcodes : List Nat :=
  [1, 0x101, 0x102] ++ (List.range 9).map (· + 0x201) ++ (List.range 6).map (· + 0x301) ++ (List.range 7).map (· + 0x401) ++
    (List.range 11).map (· + 0x501) ++ (List.range 5).map (· + 0x601) ++ (List.range 13).map (· + 0x701) ++
    (List.range 4).map (· + 0x801) ++ (List.range 4).map (· + 0x901) ++ [0xA01, 0xA02] ++ (List.range 7).map (· + 0xB01) ++
    (List.range 5).map (· + 0xC01) ++ [0xD01, 0xE01, 0xE02]

/-- The partition that a command acts on: a partition mailbox's own where the command names none. -/
def State.cmdPart (s : State) (c : MbSpec) (m : Nat) : Nat := if m < 32 ∧ !c.naming then m else bits (s.cmd m 1) 4 0

/-- Write response words from word `k` on. -/
def putRsp (m : Nat) : Nat → List Word → State → State
  | _, [], s => s
  | k, w :: r, s => putRsp m (k + 1) r (s.setReg (MB_RSP m k) w)

/-- Forget the command of a mailbox: nothing waits for it any longer, and its image is read no further. -/
def State.mbForget (s : State) (m : Nat) : State :=
  let hm := { s.hm with running := s.hm.running.erase m, held := s.hm.held.erase m, doomed := s.hm.doomed.erase m, order := s.hm.order.erase m }
  { s with hm := hm, sq := { s.sq with images := s.sq.images.filter (fun l => l.mbx != m) } }

/-- Complete the command of a mailbox (R387, R389, R392): response, `DONE`, count, `BUSY`, message. A command that the
restart of the service firmware ends completes with `TIMEOUT` (R431); number 33 stands for no mailbox. -/
def State.mbComplete (s : State) (m status0 sc0 : Nat) (payload0 : List Word) : State :=
  if 33 ≤ m then s else
  let late := s.hm.doomed.contains m
  let status := if late then stTIMEOUT else status0
  let sc := if late then 0 else sc0
  let payload := if late then [] else payload0
  let h := mkWord [(15, 0, s.cmdOp m), (23, 16, payload.length), (31, 24, status), (47, 32, bits (s.cmd m 0) 47 32), (63, 48, sc)]
  let s := putRsp m 0 (h :: payload) s
  let s := ((s.flag (MB_STATUS_DONE m)).bump (MB_DONE_COUNT m)).put (MB_STATUS_BUSY m) 0
  let s := s.mbForget m
  let closed := updWhere (fun (x : Sparge) => x.part == m) (fun x => { x with closing := false }) s.pa.sparges
  let s := { s with pa := { s.pa with sparges := closed } }
  if s.on (MB_VECTOR_VALID m) then s.sendMsix (s.get (MB_VECTOR_VEC m)) else s

/-- Bring-up phase. -/
def State.phase (s : State) : Nat := s.get GLOBAL_BOOT_STATUS_PHASE

/-- Phase 1 of a Sparge lets the command in progress of the partition's own mailbox end (R417). -/
def State.closing (s : State) (n : Nat) : Bool := s.pa.sparges.any (fun x => x.part == n && x.closing)

/-- The checks of R394 and R512 before a command's own rules: the first that fails gives status and state code. -/
def State.mbCheck (s : State) (c : MbSpec) (m : Nat) (valid : Bool) : Option (Nat × Nat) :=
  let hello := c.opcode == 1
  if s.get (MB_STATUS_VER_MAJOR m) = 0 ∧ !hello then some (stSTATE_CONFLICT, scNO_HELLO)
  else if s.get (MB_STATUS_VER_MAJOR m) ≠ 0 ∧ s.get (MB_STATUS_VER_MINOR m) < c.minor then some (stVERSION, 0)
  else if m < 32 ∧ (!c.tenant ∨ (c.naming ∧ bits (s.cmd m 1) 4 0 ≠ m)) then some (stACCESS_DENIED, 0)
  else if m < 32 ∧ !s.partActive m ∧ !s.closing m then some (stSTATE_CONFLICT, scPART_INACTIVE)
  else if !(decide (c.need ≤ s.cmdLen m) && decide (s.cmdLen m ≤ 223) && valid) then some (stACCESS_DENIED, 0)
  else if !(c.units.all s.on) then some (stSTATE_CONFLICT, scUNIT_ABSENT)
  else if s.rs.core ∧ !c.kept then some (stSTATE_CONFLICT, scCORE_RESET)
  else if s.rs.wait.isSome ∨ s.phase < (if m < 32 then 9 else c.ready) then some (stSTATE_CONFLICT, scBRINGUP)
  else none

/-- What a command's own rules give. -/
inductive MbRes where
  /-- It completes with `OK`, the response payload and its effect. -/
  | done (payload : List Word) (s : State)
  /-- It is refused, without side effects. -/
  | fail (status sc : Nat)
  /-- It ends with a status after an effect. -/
  | ends (status : Nat) (s : State)
  /-- It stays `BUSY`. -/
  | wait (s : State)
  /-- It stays `BUSY`, and its row carries it on. -/
  | again (s : State)
  deriving DecidableEq, Repr

/-- Opcodes of the commands that name no partition and change the module's own state, and of those that change nothing that
another command changes. -/
def mbGlobal : List Nat :=
  [0x101, 0x102, 0x201, 0x202, 0x301, 0x306, 0x401, 0x402, 0x403, 0x404, 0x405, 0x406, 0x501, 0x702, 0x703, 0x709, 0x70A, 0x70B, 0x70C,
   0x70D, 0x901, 0x902, 0x903, 0x904, 0xB05, 0xB06, 0xC01, 0xC02, 0xC03, 0xC04, 0xC05, 0xE02]
def mbReads : List Nat := [1, 0x207, 0x208, 0x304, 0x50A, 0x603, 0x708, 0xB04, 0xB07, 0xD01, 0xE01]

/-- The partition whose state the command of a mailbox changes: the one that it names; the lending commands change
partition 0's window and page entries (R318). -/
def State.cmdTouches (s : State) (m : Nat) : Option Nat :=
  if 0x70A ≤ s.cmdOp m ∧ s.cmdOp m ≤ 0x70D then some 0
  else if mbGlobal.contains (s.cmdOp m) then none else some (bits (s.cmd m 1) 4 0)

/-- Two commands change the same resource (R390): they change one partition's state, or they are of one family that names
none (log 132). -/
def State.sameResource (s : State) (a b : Nat) : Bool :=
  let x := s.cmdOp a
  let y := s.cmdOp b
  !mbReads.contains x && !mbReads.contains y &&
    ((mbGlobal.contains x && mbGlobal.contains y && x / 256 == y / 256) ||
      ((s.cmdTouches a).isSome && s.cmdTouches a == s.cmdTouches b))

/-- The command of a mailbox has not taken effect yet, and no core reset holds it: new commands do not wait for one that is
held (R391). -/
def State.mbWaits (s : State) (m : Nat) : Bool :=
  !s.hm.running.contains m && !s.hm.held.contains m && !s.pa.sparges.any (fun x => x.mbx == m)

/-- The command of a mailbox may take effect (R390): none that waits with an earlier `GO` changes the same resource. -/
def State.mbTurn (s : State) (m : Nat) : Bool :=
  (s.hm.order.takeWhile (fun k => k != m)).all (fun k => !(s.mbWaits k && s.sameResource k m))

/-- Location, address and length of a bulk buffer. -/
def State.bulkLoc (s : State) (m : Nat) : Nat := bits (s.cmd m 2) 0 0
def State.bulkAddr (s : State) (m : Nat) : Nat := bits (s.cmd m 2) 63 6 * 64
def State.bulkLen (s : State) (m : Nat) : Nat := (s.cmd m 3).toNat

/-- The Maltster delays a bulk command (R191; log 140): a pool that it needs, the one of the buffer's size among them, is in
its warning state. -/
def State.bulkHeld (s : State) (m : Nat) : Bool :=
  s.unitHeld .maltster || (match s.poolFor (s.bulkLen m) with | some k => s.warned k | none => false)

/-- Carry out the command of a mailbox when it is in progress there and not taken yet: the checks, and then its own
rules, in the order of R390 (log 132). A command that a core reset holds stays (R391), and so does a bulk command that the
Maltster delays. -/
def State.mbRun (s : State) (c : MbSpec) (m : Nat) (valid : Bool) (body : MbRes) : State :=
  if !s.on (MB_STATUS_BUSY m) ∨ s.cmdOp m ≠ c.opcode ∨ s.hm.running.contains m ∨ s.hm.held.contains m ∨
      (c.bulk = true ∧ s.bulkHeld m = true) ∨ !s.mbTurn m then s
  else match s.mbCheck c m valid with
    | some (st, sc) => s.mbComplete m st sc []
    | none => match body with
      | .done p t => t.mbComplete m 0 0 p
      | .fail st sc => s.mbComplete m st sc []
      | .ends st t => t.mbComplete m st 0 []
      | .again t => t
      | .wait t => { t with hm := { t.hm with running := t.hm.running ++ [m] } }

/-- A command of a mailbox as an outcome. -/
def State.mb (s : State) (c : MbSpec) (m : Nat) (valid : Bool) (body : MbRes) : Host.Outcome State Fault Refusal := .next (s.mbRun c m valid body)

/-- A command is refused while its partition is `SPARGING` (R416), but for the one that phase 1 lets end (R417). -/
def State.spargeGuard (s : State) (m n : Nat) (r : MbRes) : MbRes :=
  if s.get (PART_STATE_STATE n) = 2 ∧ !(m == n && s.closing n) then .fail stSTATE_CONFLICT scPART_SPARGING else r

/-- Refusal with a state code. -/
def conflict (sc : Nat) : MbRes := .fail stSTATE_CONFLICT sc
/-- Refusal with `ACCESS_DENIED`. -/
def denied : MbRes := .fail stACCESS_DENIED 0

/-! ## Waiting for the directory (R158) -/

/-- A directory line of a partition: it lies in its HBM share, or an agent named it in the partition (R158). -/
def State.dirMine (s : State) (n : Nat) (e : DirEntry) : Bool :=
  s.inHbmShare n (64 * e.line) 64 || e.names.any (fun a => a.2.2 == n)

/-- Every copy of a partition's lines is recalled or invalidated, but where a recall is out already (R158). -/
def State.recallPart (s : State) (n : Nat) : State :=
  (s.dir.filter (fun e => s.dirMine n e && e.recalling == 0)).foldl (fun s e => s.sendRecall e e.sharers e.owned false) s

/-- While `DIR_CONFIG_SET` waits, copies of agents that may no longer cache are recalled or invalidated; it completes when
none is left. A Sparge recalls what is still held of its partition's lines. -/
def State.dirSettle (s : State) : State :=
  let s := (s.pa.sparges.filter (·.quiet)).foldl (fun s x => s.recallPart x.part) s
  let ms := s.hm.running.filter (fun m => s.cmdOp m == 0x306 && !s.hm.held.contains m)
  if ms.isEmpty then s
  else
    let off := Nat.xor 31 (s.get MEM_DIR_CONFIG_CACHE_EN)
    let out := s.dir.filter (fun e => Nat.land e.sharers off != 0)
    if out.isEmpty then ms.foldl (fun s m => s.mbComplete m 0 0 []) s
    else (out.filter (fun e => e.recalling == 0)).foldl (fun s e => s.sendRecall e (Nat.land e.sharers off) e.owned false) s

/-! ## Bulk buffers (R393) -/

/-- The units that a location bit names (R3): 0 names HBM4E. -/
def locUnits (loc : Nat) : List Fld := if loc = 0 then [GLOBAL_OPTIONS_HBM_PRESENT] else []

/-- The buffer lies where its mailbox may place it: host memory, or for a partition mailbox its HBM share; an HBM buffer
of the primary mailbox lies in HBM4E. Where HBM4E is absent, R3 refuses the command. -/
def State.bulkOk (s : State) (m : Nat) : Bool :=
  s.bulkLoc m == 1 || !s.on GLOBAL_OPTIONS_HBM_PRESENT || (if m < 32 then s.inHbmShare m (s.bulkAddr m) (s.bulkLen m) else decide (s.bulkAddr m + s.bulkLen m ≤ 2 ^ 38))

/-- The bytes of a bulk buffer: what HBM holds, or what the host's memory answered; the status of a failed read is that
of R401's like case: `TARGET_LOST` while the link is down, `PARITY_EXHAUSTED` otherwise (log 18). -/
def State.bulkRead (s : State) (m : Nat) (a : Reply) : Except Nat (List Byte) :=
  if s.bulkLoc m = 0 then (match a with | .ok _ => .ok (s.hbmRead (s.bulkAddr m) (s.bulkLen m)) | .error => .error stPARITY)
  else if !s.cxlUp then .error stTARGET_LOST
  else match a with
    | .ok bs => .ok ((bs ++ List.replicate (s.bulkLen m) 0).take (s.bulkLen m))
    | .error => .error stPARITY

/-- Copy bytes into a bulk buffer; the status of the write. -/
def State.bulkWrite (s : State) (m : Nat) (bs : List Byte) : Nat × State :=
  if s.bulkLoc m = 1 ∧ !s.cxlUp then (stTARGET_LOST, s)
  else
    let (ok, s) := s.locWrite (s.bulkLoc m) (s.bulkAddr m) bs
    (if ok then 0 else stPARITY, s)

/-! ## Negotiation -/

/-- `MB_HELLO` (R398). -/
def execMbHello (m : Mbx) (s : State) : Host.Outcome State Fault Refusal :=
  let m := m.val
  let minor := min (bits (s.cmd m 1) 15 8) 2
  let t := (s.put (MB_STATUS_VER_MAJOR m) 1).put (MB_STATUS_VER_MINOR m) minor
  let id := s.get (MB_STATUS_MB_ID m)
  let w1 := mkWord [(7, 0, 1), (15, 8, minor), (23, 16, 2), (31, 24, id), (36, 32, if m < 32 then m else 0)]
  let w2 := mkWord [(31, 0, s.get PART_FW_SERVICE_VER), (63, 32, s.get PART_FW_KERNEL_VER)]
  s.mb { opcode := 1, need := 1, tenant := true, naming := false, kept := true } m true
    (if bits (s.cmd m 1) 7 0 ≠ 1 then .fail stVERSION 0 else .done [w1, w2, s.reg GLOBAL_OPTIONS] t)

end Sys2Proof.Machine
end

