-- ==== Sys2Proof/Machine/Requests.lean ====
section
/-! DEFINITION. The owner's commands: requests, line queues, the directory's limit, translation events,
and CXL.cache answers (R74 to R85, R103 to R105, R121 to R123, R155 to R158, R307 to R309, R323). -/

namespace Sys2Proof.Machine

/-! ## Requests (R103, R105) -/

/-- The request of one of the named opcodes at the front of the end-point block begins at its owner. -/
def State.beginRequest (s : State) (ops : List Nat) : State :=
  match s.takeEp ops with
  | none => s
  | some (none, s) => s
  | some (some i, s) => s.ownerAccess .request i.pkt

/-- `LOAD` (R103). -/
def execLoad (s : State) : Host.Outcome State Fault Refusal := .next (s.beginRequest [1])
/-- `STORE` (R103). -/
def execStore (s : State) : Host.Outcome State Fault Refusal := .next (s.beginRequest [2])
/-- `ATOMIC` (R105). -/
def execAtomic (s : State) : Host.Outcome State Fault Refusal := .next (s.beginRequest [3])

/-! ## Line queues (R121, R122) -/

/-- A free entry for a line: one of the 64 of its queue, or one of the 1,024 queues (R121). -/
def State.lineRoom (s : State) (line : Nat) : Bool :=
  match s.tr.lines.find? (fun q => q.line == line) with
  | some q => decide (q.q.length < 64)
  | none => decide (s.tr.lines.length < 1024)

/-- The waiting request of a line that takes the next free entry, and the others: the first one of the next waiting source,
in round-robin order (R122). -/
def State.lineTurn (s : State) (line : Nat) : Option ((Nat × Nat × Nat × Nat) × List (Nat × Nat × Nat × Nat)) :=
  let srcs := (s.tr.lineWaits.filter (fun w => w.1 == line)).map (·.2.2.1)
  let src := match (srcs.filter (fun x => mget 0 s.tr.lastSrc line ≤ x)).min? with | some x => x | none => srcs.min?.getD 0
  takeFirst (fun (w : Nat × Nat × Nat × Nat) => w.1 == line && w.2.2.1 == src) s.tr.lineWaits

/-- An operation stands last in the queue of a line. -/
def State.lineAdd (s : State) (line op : Nat) : State :=
  match s.tr.lines.find? (fun q => q.line == line) with
  | some _ => s.setLines (updWhere (fun q => q.line == line) (fun q => { q with q := q.q ++ [op] }) s.tr.lines)
  | none => s.setLines (s.tr.lines ++ [⟨line, [op], .none⟩])

/-- `LINE_QUEUE_ADMIT` (R122): a waiting request of the line takes a free entry, one source at a time in round-robin
order; `waitNs` is how long it waited. -/
def execLineQueueAdmit (line waitNs : Nat) (s : State) : Host.Outcome State Fault Refusal :=
  if s.lineRoom line then
    match s.lineTurn line with
    | none => .next s
    | some (w, rest) =>
      let tr := { s.tr with lineWaits := rest, lastSrc := mset 0 s.tr.lastSrc line (w.2.2.1 + 1) }
      .next ((({ s with tr := tr }).raise TRACK_LINE_WAIT_MAX waitNs).lineAdd line w.2.1)
  else .next s

/-- `LINE_ENTRY_PERFORM` (R121): the home performs the head entry of a line queue, unless it waits. -/
def execLineEntryPerform (line : Nat) (s : State) : Host.Outcome State Fault Refusal :=
  match s.headOp line with
  | some (q, o) =>
    if q.wait = .none then
      let (r, s) := s.lineDo o line
      .next (s.finishLine line o r).dirSettle
    else .next s
  | none => .next s

/-- The tracker entry of the request that an operation has sent to a lender for a line (R319). -/
def State.lenderTag (s : State) (op line : Nat) : Option Nat :=
  (s.tr.entries.find? (fun e => e.2.issuer == Issuer.tier op line)).map (·.1)

/-- `LOWER_LIMIT_TIMEOUT` (R323): the lender or the host has not answered a tier access in time. The entry at the tracker
closes, so that a lender's late reply is discarded (R126); a request not sent yet does not count. -/
def execLowerLimitTimeout (line : Nat) (s : State) : Host.Outcome State Fault Refusal :=
  match s.headOp line with
  | some (q, o) =>
    let tag := s.lenderTag o.id line
    if o.kind = 4 ∧ ((q.wait = .lender ∧ tag.isSome = true) ∨ q.wait = .host) then
      let s := (s.flag MEM_HBM_STATUS_LOWER_TIMEOUT).bump MEM_LOWER_TIMEOUT_COUNT
      let s := if q.wait = .lender then s.closeEntry (tag.getD 0) true else s
      .next (s.finishLine line o (.fail stTIMEOUT))
    else .next s
  | none => .next s

/-- The head accesses of line queues end with a status. -/
def State.failHeads (s : State) (qs : List LineQ) (st : Nat) : State :=
  qs.foldl (fun s q => match s.headOp q.line with | some (_, o) => s.finishLine q.line o (.fail st) | none => s) s

/-- `RECALL_TIMEOUT` (R157): an agent has not answered a recall or an invalidation of line `line` (address / 64 in HBM):
the waiting access ends with `TIMEOUT` and the agent is removed from the line. -/
def execRecallTimeout (line : Nat) (agent : Fin 5) (s : State) : Host.Outcome State Fault Refusal :=
  match s.dir.find? (fun e => e.line == line) with
  | none => .next s
  | some e =>
    if e.recalling.testBit agent.val then
      let waiting := s.tr.lines.filter (fun q => q.wait == .dir line)
      let s := (s.flag MEM_DIR_STATUS_RECALL_TIMEOUT).bump MEM_DIR_RECALL_TIMEOUT_COUNT
      .next ((s.dirDrop line agent.val false).failHeads waiting stTIMEOUT).dirSettle
    else .next s

/-- The host address that an access of a line on a `HOST` page, or on a frame in host memory, goes to (R103, R307). -/
def State.hostPa (s : State) (o : HOp) (line : Nat) : Nat :=
  let lo := (opSlice o line).1
  if o.kind = 4 then (match s.extentOf o.space lo with | some e => s.extLoc e + lo % 2 ^ 21 | none => lo) else lo

/-- `CXL_CACHE_RESPONSE` (R103, R323): the host answers the CXL.cache access that the head entry of a line waits for;
an atomic's new value is written while the line is held. -/
def execCxlCacheResponse (line : Nat) (a : Reply) (s : State) : Host.Outcome State Fault Refusal :=
  match s.headOp line with
  | some (q, o) =>
    if q.wait ≠ .host then .next s
    else match a with
      | .error => .next (s.finishLine line o (.fail stPARITY))
      | .ok bytes =>
        let n := (opSlice o line).2
        if Pkt.opcode o.pkt = 3 then
          if o.got.any (fun g => g.1 == line) then
            .next (s.finishLine line o (.done []))
          else
            let old := (bytes ++ List.replicate n 0).take n
            let o' := { o with got := [(line, old)] }
            .next ((s.setOp o').emit (.cache (s.hostPa o line) n (some (atomicApply o.pkt old))))
        else .next (s.finishLine line o (.done (if Pkt.opcode o.pkt = 1 ∨ Pkt.opcode o.pkt = 9 then (bytes ++ List.replicate n 0).take n else [])))
  | none => .next s

/-- An answer of agent `a` to a recall or an invalidation; data that come when no recall is out are a late write-back
(R157). -/
def State.recallAnswer (s : State) (e : Option DirEntry) (a : Nat) (data : Option (List Byte)) : State :=
  match e with
  | some e => if e.recalling.testBit a then (s.dirAnswer e.line a data).dirSettle else if data.isSome then s.lateWb else s
  | none => if data.isSome then s.lateWb else s

/-- `BACK_INVALIDATION_RESPONSE` (R384): the host gives up its copy of an HDM line, with data when it was modified. -/
def execBackInvalidationResponse (line : Nat) (data : Option (List Byte)) (s : State) : Host.Outcome State Fault Refusal :=
  .next (s.recallAnswer (s.dir.find? (fun e => e.line == line)) 4 data)

/-- `HOST_SNOOP` (R380, R385): the module keeps no host line between accesses; while it holds one it answers retry. -/
def execHostSnoop (addr : Nat) (s : State) : Host.Outcome State Fault Refusal :=
  let held := s.tr.lines.any (fun q => q.wait == .host && (match s.headOp q.line with
    | some (_, o) => s.hostPa o q.line / 64 == addr / 64
    | none => false))
  .next (s.emit (.snoopRsp addr held))

/-! ## Host translations (R77 to R82, R549) -/

/-- A wait on host translations is over: the access goes on, or ends with its lowest failure (R84). A prefetch
completes its mailbox command (R549); a job's or a load's own commands go on from the failures that stay recorded here. -/
def State.waitDone (s : State) (w : AtsWait) : State :=
  match w.who with
  | .access src p =>
    match lowestFail w.fails with
    | some f => let (st, s) := s.fault p (Pkt.extent p) f; s.answer src p st []
    | none =>
      let perm := match src with | .attach _ _ own _ => if own then 3 else 1 | _ => Pkt.perm p
      let n := Pkt.part p
      let (t, s) := s.translate n ((s.slotOf (Pkt.dst p)).getD 0) (faLow p.w1) (Pkt.extent p) perm w.write
      match decided t.fails t.needs with
      | some f => let (st, s) := s.fault p (Pkt.extent p) f; s.answer src p st []
      | none => if t.needs.isEmpty then s.translated src p t.pieces else s.atsWait w.who t w.write
  | .prefetch m => s.mbComplete m ((lowestFail w.fails).map (·.status) |>.getD 0) 0 []
  | .image _ | .job _ => { s with xl := { s.xl with waits := s.xl.waits ++ [w] } }

/-- The outcome of a Translation Request reaches every wait on the regions of the `size` bytes that it maps: `f` gives its
failure, if any. A wait on a region whose own request is still out goes on too, since the cache holds its translation now,
so that no later access to its line overtakes it (R132; log 146). -/
def State.regionDone (s : State) (n pasid va size : Nat) (f : Bool → Option (Nat × Option Nat)) : State :=
  let hit := fun (d : Nat × Nat × Nat × Nat) => d.2.1 == n && d.2.2.1 == pasid && d.2.2.2 / size == va / size
  let waits := s.xl.waits.map (fun w =>
    let mine := w.needs.filter hit
    { w with needs := w.needs.filter (fun d => !hit d),
             fails := w.fails ++ mine.filterMap (fun d => (f w.write).map (fun x => (⟨d.1, x.1, x.2⟩ : PageFail))) })
  let isDone := fun (w : AtsWait) => match w.who with
    | .access .. => w.needs.isEmpty || (decided w.fails w.needs).isSome
    | .prefetch _ => w.needs.isEmpty
    | .image _ | .job _ => false
  let s := { s with xl := { s.xl with waits := waits.filter (fun w => !isDone w), reqs := s.xl.reqs.filter (· != (n, pasid, va)) } }
  (waits.filter isDone).foldl (fun s w => s.waitDone w) s

/-- `TRANSLATION_COMPLETION` (R78, R79): accepted only when it maps 2 MiB or 1 GiB. -/
def execTranslationCompletion (n : Part) (pasid : Nat) (va : Word) (a : AtsAnswer) (s : State) : Host.Outcome State Fault Refusal :=
  let n := n.val
  let v := va.toNat
  if !s.xl.reqs.contains (n, pasid, v) then .next s
  else match a with
    | .error => .next (s.regionDone n pasid v (2 ^ 21) (fun _ => some (stFAULT, some 8)))
    | .none => .next (s.regionDone n pasid v (2 ^ 21) (fun _ => some (stFAULT, some 6)))
    | .mapped size r w pa =>
      if size = 2 ^ 21 ∨ size = 2 ^ 30 then
        let base := v / size * size
        let e : AtcEntry := ⟨n, pasid, base, size, r, w, pa.toNat / size * size⟩
        let atc := (e :: s.xl.atc.filter (fun x => !(x.part == n && x.pasid == pasid && x.va == base && x.size == size))).take 8192
        let s := { s with xl := { s.xl with atc := atc } }
        .next (s.regionDone n pasid v size (fun write => if (if write then w else r) then none else some (stFAULT, some 6)))
      else .next ((s.bump XLAT_GRANULE_COUNT).regionDone n pasid v (2 ^ 21) (fun _ => some (stGRANULE, some 7)))

/-- `ATS_TIMEOUT` (R80): no Translation Completion within `ATS_TIMEOUT`. -/
def execAtsTimeout (n : Part) (pasid : Nat) (va : Word) (s : State) : Host.Outcome State Fault Refusal :=
  let v := va.toNat
  if s.xl.reqs.contains (n.val, pasid, v) then
    .next ((s.bump XLAT_ATS_TIMEOUT_COUNT).regionDone n.val pasid v (2 ^ 21) (fun _ => some (stTIMEOUT, none)))
  else .next s

/-- `INVALIDATE_REQUEST` (R81): matching entries leave the cache at once; without a PASID every one's. -/
def execInvalidateRequest (itag : Nat) (pasid : Option Nat) (va : Word) (size : Nat) (s : State) : Host.Outcome State Fault Refusal :=
  let v := va.toNat
  let hit := fun (e : AtcEntry) => (match pasid with | some q => e.pasid == q | none => true) &&
    decide (e.va < v + size) && decide (v < e.va + e.size)
  let uses := (s.xl.atc.filter hit).map (fun e => Use.host e.part e.pasid e.va)
  .next { s with xl := { s.xl with atc := s.xl.atc.filter (fun e => !hit e), invals := s.xl.invals ++ [⟨itag, uses⟩] } }

/-- `INVALIDATION_COMPLETION` (R81, R85): sent once every request and tile that used a removed entry has completed. -/
def execInvalidationCompletion (itag : Nat) (s : State) : Host.Outcome State Fault Refusal :=
  match takeFirst (fun (i : Inval) => i.itag == itag) s.xl.invals with
  | none => .next s
  | some (i, rest) =>
    if i.uses.any s.useHeld then .next s
    else .next ((({ s with xl := { s.xl with invals := rest } }).bump XLAT_INVAL_COUNT).emit (.invalDone itag))

end Sys2Proof.Machine
end

