-- ==== Sys2Proof/Machine/Health.lean ====
section
/-! DEFINITION. Link drops (R366 to R368, R506, R546), Gravity, the peer table, loss and fences (R459 to R467), and the
control messages that the Maltster sends (R453 to R456). -/

namespace Sys2Proof.Machine

/-! ## Control messages (R453, R454) -/

/-- A control message: type, tag, subject, amount, slope, start, length, epoch, endpoints. -/
structure Ctl where
  type : Nat
  req : Nat := 0
  subject : Nat := 0
  amount : Nat := 0
  slope : Nat := 0
  start : Nat := 0
  length : Nat := 0
  epoch : Nat := 0
  eps : List Nat := []
  deriving DecidableEq, Repr

/-- The six words of a control message. -/
def State.ctlWords (s : State) (c : Ctl) : List Word :=
  let ep := fun i => c.eps.getD i 0
  [mkWord [(7, 0, c.type), (15, 8, c.eps.length), (31, 16, c.req), (47, 32, c.subject), (63, 48, s.selfId)],
   mkWord [(31, 0, c.amount), (63, 32, c.slope)], BitVec.ofNat 64 c.start, mkWord [(31, 0, c.length), (63, 32, c.epoch)],
   mkWord [(15, 0, ep 0), (31, 16, ep 1), (47, 32, ep 2), (63, 48, ep 3)],
   mkWord [(15, 0, ep 4), (31, 16, ep 5), (47, 32, ep 6), (63, 48, ep 7)]]

/-- The offset of the control window (R453). -/
def ctlOfs : Nat := 0xFC0000000000

/-- Send a control message to the control window of a module: 48 bytes, of which R453 allows 32 or 48 (log 23). -/
def State.sendCtl (s : State) (dst : Nat) (c : Ctl) : State :=
  s.issue 96 (ReqForm.pkt
    { opcode := 2, part := 0, tc := 1, src := s.selfId, dst := dst, addr := faMake dst ctlOfs,
      payload := wordsBytes (s.ctlWords c) }) (.control c.type c.req)

/-- Send a notice to `NOTIFY_GROUP` when `NOTIFY_EN` is 1 (R463). -/
def State.notice (s : State) (c : Ctl) : State :=
  if s.on HEALTH_CONFIG_NOTIFY_EN then
    let g := s.get HEALTH_CONFIG_NOTIFY_GROUP
    s.issue 96 (ReqForm.pkt
      { opcode := 4, part := 0, tc := 1, src := s.selfId, dst := s.mcRootOf 0 g, addr := faMake 0 ctlOfs,
        w3 := BitVec.ofNat 64 g, payload := wordsBytes (s.ctlWords c) }) (.control c.type 0)
  else s

/-- Arbiter candidate `i`. -/
def State.candidate (s : State) (i : Nat) : Nat := bits (s.reg PGOV_ARB_LIST) (16 * i + 15) (16 * i)

/-- The candidates that are marked neither lost nor fenced (R456). -/
def State.liveCandidates (s : State) : List Nat :=
  ((List.range 4).map s.candidate).filter (fun e => e != 0xFFFF && !s.lost e && !s.fenced e)

/-- The acting arbiter in this module's view (R456). -/
def State.arbiter (s : State) : Option Nat := s.liveCandidates.head?

/-- Follow the module's own view of the arbiter (R456): since when it is first, and the end of the role. -/
def State.arbView (s : State) : State :=
  if s.arbiter == some s.selfId && s.selfId != 0xFFFF then
    match s.pg.firstSince with
    | some _ => s
    | none => { s with pg := { s.pg with firstSince := some s.edge } }
  else
    let s := { s with pg := { s.pg with firstSince := none, actingAt := none } }
    s.put PGOV_STATUS_ARB_ACTING 0

/-- A tag for a request to the arbiter (log 25). -/
def State.newReq (s : State) : Nat × State := (s.pg.nextReq, { s with pg := { s.pg with nextReq := (s.pg.nextReq + 1) % 65536 } })

/-! ## Gravity (R459 to R461) -/

/-- The score of a port (0), peer (1) or stack (2). -/
def State.score (s : State) (kind idx : Nat) : Nat := ((s.he.events.filter (fun e => e.kind == kind && e.idx == idx)).map (·.weight)).sum

/-- A score as a 16-bit field: a greater one reads as the largest value. -/
def score16 (n : Nat) : Nat := min n 65535

/-- The mark field of a port or peer. -/
def suspectF (peer : Bool) (i : Nat) : Fld := if peer then HEALTH_PEER_A_SUSPECT i else HEALTH_PORT_GRAVITY_SUSPECT i

/-- The threshold of a port or peer. -/
def State.expelAt (s : State) (peer : Bool) : Nat := if peer then s.get HEALTH_CONFIG_FENCE_AT else s.get HEALTH_CONFIG_ISOLATE_AT

/-- The registers that show a score, and the mark that clears below the threshold (R461). -/
def State.showScore (s : State) (kind idx : Nat) : State :=
  let n := score16 (s.score kind idx)
  if kind = 0 then
    let s := s.put (HEALTH_PORT_GRAVITY_GRAVITY idx) n
    if n < s.expelAt false then s.put (suspectF false idx) 0 else s
  else if kind = 1 then
    let s := s.put (HEALTH_PEER_A_GRAVITY idx) n
    if n < s.expelAt true then s.put (suspectF true idx) 0 else s
  else s.setReg HEALTH_SELF_GRAVITY (setBits (s.reg HEALTH_SELF_GRAVITY) (16 * idx + 15) (16 * idx) n)

/-- The device can still be expelled: a port in use, a `LIVE` peer. -/
def State.canExpel (s : State) (peer : Bool) (i : Nat) : Bool :=
  if peer then s.get (HEALTH_PEER_A_STATE i) == 1 else s.portState i != 5 && s.portState i != 0

/-- Ask the acting arbiter for an expulsion (R460), at each event that counts against a device at its threshold (R461). A
request about a port names the peer at it (log 24). -/
def State.askExpel (s : State) (peer : Bool) (i : Nat) : State :=
  if s.expelAt peer ≤ s.score (if peer then 1 else 0) i ∧ s.canExpel peer i = true then
    let (q, s) := s.newReq
    let a : Expel := ⟨q, peer, i, s.edge⟩
    let s := { s with he := { s.he with asks := s.he.asks ++ [a] } }
    match s.arbiter with
    | some e => s.sendCtl e { type := 5, req := q, subject := if peer then s.get (HEALTH_PEER_A_PEER_EP i) else s.get (PORT_STATUS_PEER_ID i) }
    | none => s
  else s

/-- A hard event (R459): it counts once, and with a weight against each target (kind, index). -/
def State.hardEvent (s : State) (weight : Nat) (targets : List (Nat × Nat)) : State :=
  let es := targets.map (fun t => (⟨t.1, t.2, weight, s.he.bucket⟩ : GEvent))
  let s := ({ s with he := { s.he with events := s.he.events ++ es } }).bump HEALTH_EVENT_COUNT
  let s := targets.foldl (fun s t => s.showScore t.1 t.2) s
  targets.foldl (fun s t => if t.1 = 2 then s else s.askExpel (t.1 == 1) t.2) s

/-- An uncorrectable error of an HBM4E stack persists (R303). -/
def State.hbmUncorr (s : State) (stack : Nat) : State :=
  ((s.flag MEM_HBM_STATUS_UNCORR).bump MEM_HBM_UNCORR_COUNT).hardEvent 1 [(2, stack)]

/-- The read of a bulk buffer has failed: that of one in HBM4E is an error of its stack (R303). -/
def State.bulkFault (s : State) (m : Nat) : State := if s.bulkLoc m = 0 then s.hbmUncorr (s.bulkAddr m / 2 ^ 36 % 4) else s

/-- Set the Gravity of a port or peer to 0, with its mark and requests (R461, R468). -/
def State.clearGravity (s : State) (peer : Bool) (i : Nat) : State :=
  let k := if peer then 1 else 0
  let he :=
    { s.he with
      events := s.he.events.filter (fun e => !(e.kind == k && e.idx == i)),
      asks := s.he.asks.filter (fun a => !(a.peer == peer && a.idx == i)) }
  (({ s with he := he }).put (suspectF peer i) 0).showScore k i

/-- A refused or unanswered expulsion marks the device SUSPECT (R461). -/
def State.suspect (s : State) (peer : Bool) (i : Nat) : State :=
  if !s.canExpel peer i ∨ s.on (suspectF peer i) then s
  else ((s.put (suspectF peer i) 1).flag HEALTH_STATUS_ALARM).bump HEALTH_SUSPECT_COUNT

/-! ## Link drops (R366, R367) -/

/-- `CLK_MODE` 10: the recovered clock of an `ACTIVE` fabric port, or the module's own oscillator (R506). -/
def State.pickClock (s : State) : State :=
  if s.get GLOBAL_STRAPS_CLK_MODE = 2 then
    let ok := fun p => s.active p && !s.isAttach p
    let cur := s.get GLOBAL_STRAPS_CLK_PORT
    if cur < 96 ∧ ok cur = true then s.put GLOBAL_STRAPS_CLK_ACTIVE 2
    else match (List.range 96).find? ok with
      | some p => (s.put GLOBAL_STRAPS_CLK_PORT p).put GLOBAL_STRAPS_CLK_ACTIVE 2
      | none => (s.put GLOBAL_STRAPS_CLK_PORT 0x7F).put GLOBAL_STRAPS_CLK_ACTIVE 1
  else s

/-- Remove an operation and its line queue entries without an answer. -/
def State.dropOp (s : State) (id : Nat) : State :=
  match s.tr.ops.find? (fun o => o.1 == id) with
  | none => s
  | some (_, o) =>
    let s := o.todo.foldl (fun s l => s.dequeue o.id l) s
    { s with tr := { s.tr with ops := merase s.tr.ops id } }

/-- The reads of an accelerator taken from a port. -/
def fromAttach (p : Nat) (src : OpFrom) : Bool := match src with | .attach q _ _ _ => q == p | _ => false

/-- A request message of R373. -/
def attachReq (f : Flit) : Bool := let m := bits (fw f 0) 7 0; m == 0x10 || m == 0x11 || m == 0x20 || m == 0x21 || m == 0x23

/-- The request messages of a dropped attach port end without an answer, and grants not yet sent record no copy (R546). -/
def State.attachDrop (s : State) (p : Nat) : State :=
  let ids := (s.tr.ops.filter (fun o => fromAttach p o.2.src)).map (·.1)
  let s := ids.foldl (fun s i => s.dropOp i) s
  let xl := { s.xl with waits := s.xl.waits.filter (fun w => match w.who with | .access src _ => !fromAttach p src | _ => true) }
  let s := { s with xl := xl }
  let agent := s.get (XBAR_PORT_CFG_ACCEL_SLOT p)
  let s := ((s.link p).attachQ.reverse.filterMap (·.undo)).foldl (fun s u => s.dirUndo agent u) s
  let keep := fun (i : RxItem) => match i with | .attach f _ => !attachReq f | _ => true
  { s with xb := { s.xb with rx := mset [] s.xb.rx p ((mget [] s.xb.rx p).filter keep) } }

/-- The packet that a block carries, when it carries one. -/
def blockPkt (fl : List Flit) : Option Pkt :=
  match fl with
  | f :: rest => if flitKind f = 1 then some (Pkt.ofFlits f (rest.take (cdiv (bits (fw f 0) 31 23) 64))) else none
  | [] => none

/-- What a link that goes down does with what it holds (R367, R368): unacknowledged packets are lost, and one that was cutting
through to it; a packet that was arriving is discarded, or completed on its output with zeros and a `STOMP`; packets not
yet sent move to other ports (R166). -/
def State.linkOut (s : State) (p : Nat) (state : Nat) : State :=
  let l := s.link p
  let lost := ((l.unacked.map (·.flits) ++ l.txQ).filter (fun b => (blockPkt b).isSome)).length +
    (s.xb.cuts.filter (fun c => c.outPort == p && !c.dead)).length
  let cut := (if l.part.isSome then 1 else 0) + (if l.whole.isSome then 1 else 0)
  let s := if s.isAttach p then s.attachDrop p else s
  let s := s.bumpBy (PORT_LOST_PKT_COUNT p) lost
  let s := if cut = 0 then s else (s.bumpBy (PORT_STOMP_COUNT p) cut).flag (PORT_STATUS_STOMP p)
  let came := match l.part, l.whole with | some x, _ => x.payload.flatMap wordsBytes | none, some q => q.payload | none, none => []
  let s := match s.inTransit p with | some q => if s.transitFirst p q then s.unjudge p (rank175 q) else s | none => s
  let s := s.cutEnd p came true
  let cuts := updWhere (fun (c : Cut) => c.outPort == p) (fun c => { c with dead := true }) s.xb.cuts
  let s := ({ s with xb := { s.xb with cuts := cuts } }).setLink p link0
  let s := (List.range 8).foldl (fun s ch => s.setCredit (8 * p + ch) 0) (s.setCredit (768 + p) 0)
  let s := s.put (PORT_STATUS_STATE p) state
  let s := (((s.put (PORT_STATUS_LANES p) 0).put (PORT_STATUS_VERSION p) 0).put (PORT_STATUS_SPEED p) 0).put (PORT_STATUS_REDUCED p) 0
  (s.requeue p).pickClock

/-- The ports of a peer. -/
def State.peerPorts (s : State) (i : Nat) : List Nat := (List.range 96).filter (fun p => s.peerOf p == some i)

/-- The weight of a drop by its cause (R459). -/
def dropWeight (cause : Nat) : Nat := match cause with | 1 | 4 | 5 | 9 => 4 | 2 | 3 => 8 | _ => 0

/-- A drop counts against the port and its peer (R459). -/
def State.dropCounts (s : State) (p : Nat) (peer : Option Nat) (cause : Nat) : State :=
  s.hardEvent (dropWeight cause) ((0, p) :: (match peer with | some i => [(1, i)] | none => []))

/-- A link drops with a cause (R366, R367): the port returns to `DETECT`, or to another state by a command. A drop by
command starts no declaration of R463 (log 27). -/
def State.dropTo (s : State) (p cause state : Nat) : State :=
  let was := s.active p
  let peer := s.peerOf p
  let s := (s.put (PORT_STATUS_DROP_CAUSE p) cause).bump (PORT_DROP_COUNT p)
  let s := if cause = 1 then s.flag (PORT_STATUS_LOS p) else if cause = 2 then s.flag (PORT_STATUS_HB_LOSS p)
    else if cause = 3 ∨ cause = 4 then s.flag (PORT_STATUS_REPLAY_EXH p) else s
  let s := s.linkOut p state
  let s := match peer with
    | some i => if was ∧ cause ≠ 6 ∧ (s.peerPorts i).all (fun q => !s.active q) then
        { s with he := { s.he with downAt := mset none s.he.downAt i (some s.edge) } } else s
    | none => s
  if dropWeight cause = 0 then s else s.dropCounts p peer cause

/-- A link drops and its port returns to `DETECT`. -/
def State.dropLink (s : State) (p cause : Nat) : State := s.dropTo p cause 1

/-- What drops an `ACTIVE` link has been detected; on a port that a re-admission drops in the same cycle it still counts
(R469; log 111). -/
def State.linkEvent (s : State) (p cause : Nat) (seen : Bool) : State :=
  if s.active p then (if seen then s.dropLink p cause else s)
  else if s.he.justDown.contains p then
    ({ s with he := { s.he with justDown := s.he.justDown.erase p } }).dropCounts p (s.peerOf p) cause
  else s

/-! ## Marks (R463 to R466) -/

/-- Accesses out at a lost lender end with `TARGET_LOST` (R323). -/
def State.lenderLost (s : State) (ep : Nat) : State :=
  (s.tr.lines.filter (fun q => q.wait == .lender)).foldl (fun s q => match s.headOp q.line with
    | some (_, o) => match s.extentOf o.space (opSlice o q.line).1 with
      | some e => if s.extLoc e / 2 ^ 48 = ep then s.finishLine q.line o (.fail stTARGET_LOST) else s
      | none => s
    | none => s) s

/-- Mark an endpoint lost: trackers note the moment, rows are suspended, its lent extents are lost (R126, R245, R322). -/
def State.markLost (s : State) (ep : Nat) : State :=
  if ep = 0 ∨ ep = 0xFFFF then s
  else
    let s := s.mark XBAR_LOST ep true
    let es := s.tr.entries.map (fun e => if (e.2.dst = ep ∨ e.2.dst2 = ep) ∧ e.2.lostAt.isNone then (e.1, { e.2 with lostAt := some s.edge }) else e)
    let s := { s with tr := { s.tr with entries := es } }
    (((s.suspendFor ep 1).lenderLost ep).lendLost ep).arbView

/-- Mark an endpoint fenced (R464): its loss mark clears, rows are suspended, an agent of this module leaves the
directory (R158). -/
def State.markFenced (s : State) (ep : Nat) : State :=
  if ep = 0 ∨ ep = 0xFFFF then s
  else
    let s := ((s.mark XBAR_LOST ep false).mark HEALTH_FENCED ep true).suspendFor ep 2
    let s := match s.slotOf ep with | some k => if 1 ≤ k then (s.dirForget (k - 1)).dirSettle else s | none => s
    s.arbView

/-- Clear both marks of an endpoint. -/
def State.unmark (s : State) (ep : Nat) : State := ((s.mark XBAR_LOST ep false).mark HEALTH_FENCED ep false).arbView

/-- A peer's identifier and endpoint set (R462). -/
def State.peerSet (s : State) (i : Nat) : List Nat :=
  let b := s.reg (HEALTH_PEER_B i)
  ((s.get (HEALTH_PEER_A_PEER_EP i) :: (List.range 4).map (fun a => bits b (16 * a + 15) (16 * a))) ++
    [s.get (HEALTH_PEER_C_OWNED_HOST i)]).eraseDups.filter (fun e => e != 0 && e != 0xFFFF)

/-- The notice about a peer: its identifier is the subject, its other endpoints are listed. -/
def State.peerNotice (s : State) (i type epoch : Nat) : State :=
  s.notice { type := type, subject := s.get (HEALTH_PEER_A_PEER_EP i), epoch := epoch, eps := (s.peerSet i).drop 1 }

/-- Fence a peer under a new epoch (R464). -/
def State.fencePeer (s : State) (i : Nat) : State :=
  let e := (s.get HEALTH_FENCE_EPOCH_EPOCH + 1) % 2 ^ 32
  let s := ((s.put HEALTH_FENCE_EPOCH_EPOCH e).put (HEALTH_PEER_C_EPOCH i) e).put (HEALTH_PEER_A_STATE i) 3
  let s := (s.peerSet i).foldl (fun s ep => s.markFenced ep) s
  let s := (s.peerPorts i).foldl (fun s p => s.requeue p) s
  let he := { s.he with asks := s.he.asks.filter (fun a => !(a.peer && a.idx == i)) }
  let s := (({ s with he := he }).put (suspectF true i) 0).hardEvent 16 [(1, i)]
  (s.flag HEALTH_STATUS_FENCED_SEEN).peerNotice i 9 e

/-- Free a peer entry. -/
def State.freePeer (s : State) (i : Nat) : State :=
  let s := s.clearGravity true i
  let s := { s with he := { s.he with downAt := mset none s.he.downAt i none, slots := mset none s.he.slots i none } }
  let ones := BitVec.ofNat 64 (2 ^ 64 - 1)
  ((s.setReg (HEALTH_PEER_A i) (mkWord [(63, 48, 0xFFFF)])).setReg (HEALTH_PEER_B i) ones).setReg (HEALTH_PEER_C i) (mkWord [(15, 0, 0xFFFF)])

/-- A `LIVE` entry frees when every port of its peer is `DISABLED` (R462). -/
def State.settlePeer (s : State) (i : Nat) : State :=
  if s.get (HEALTH_PEER_A_STATE i) = 1 ∧ (s.peerPorts i).all (fun p => s.portState p == 0) then s.freePeer i else s

/-- Send `OWNED` to the peer of an entry (R462): the six identifiers in slot order (log 26). -/
def State.sendOwned (s : State) (i : Nat) : State :=
  s.sendCtl (s.get (HEALTH_PEER_A_PEER_EP i)) { type := 11, eps := (List.range 6).map s.slotId }

/-- A port has reached `ACTIVE` (R462, R464, R506): its peer has an entry, a lost peer is fenced, and a fabric peer is
told what this module owns. -/
def State.portUp (s : State) (p : Nat) : State :=
  let s := s.pickClock.bootTry
  let s := match s.peerOf p with
    | some i =>
      let s := { s with he := { s.he with downAt := mset none s.he.downAt i none } }
      if s.get (HEALTH_PEER_A_STATE i) = 2 then s.fencePeer i else s
    | none =>
      let id := match s.slotAt p with | some a => s.slotId (a + 1) | none => s.get (PORT_STATUS_PEER_ID p)
      match (List.range 96).find? (fun i => s.get (HEALTH_PEER_A_STATE i) == 0) with
      | some i =>
        let s := { s with he := { s.he with slots := mset none s.he.slots i (s.slotAt p) } }
        (s.put (HEALTH_PEER_A_PEER_EP i) id).put (HEALTH_PEER_A_STATE i) 1
      | none => s
  if s.isAttach p then s
  else match s.peerOf p with
    | some i => s.sendOwned i
    | none => s

/-- Isolate a port (R460): it leaves service and its transmitter is dark. -/
def State.isolate (s : State) (p : Nat) : State :=
  let s := s.linkOut p 5
  let he := { s.he with asks := s.he.asks.filter (fun a => !(!a.peer && a.idx == p)) }
  ((({ s with he := he }).put (suspectF false p) 0).flag HEALTH_STATUS_ISOLATED_SEEN).bump HEALTH_EXPEL_COUNT

/-- The entry of a `LIVE` accelerator shows the identifier of its slot (R462; log 161). -/
def State.showSlot (s : State) (i : Nat) : State :=
  match mget none s.he.slots i with
  | some a => if s.get (HEALTH_PEER_A_STATE i) = 1 then s.put (HEALTH_PEER_A_PEER_EP i) (s.slotId (a + 1)) else s
  | none => s

/-- Readmit or forget a peer (R466): its marks clear, and the ports of a fenced one drop once; the entry of one whose ports are
all `DISABLED` frees (R462). -/
def State.readmit (s : State) (i : Nat) : State :=
  let lost := s.get (HEALTH_PEER_A_STATE i) == 2
  let s := s.put (HEALTH_PEER_A_STATE i) 1
  let s := (s.peerSet i).foldl (fun s ep => s.unmark ep) s
  let s := (s.peerNotice i 10 0).clearGravity true i
  if lost then s.freePeer i
  else
    let up := (s.peerPorts i).filter s.active
    let s := up.foldl (fun s p => s.dropLink p 6) s
    (({ s with he := { s.he with justDown := up } }).showSlot i).settlePeer i

/-- Declare a peer dead (R463). -/
def State.declareDead (s : State) (i : Nat) : State :=
  let s := s.put (HEALTH_PEER_A_STATE i) 2
  let s := { s with he := { s.he with downAt := mset none s.he.downAt i none } }
  let s := (s.peerSet i).foldl (fun s ep => s.markLost ep) s
  (s.flag HEALTH_STATUS_LOST_SEEN).peerNotice i 8 0

/-- `PEER_DEAD` (R463): no port of a `LIVE` peer has returned for `DEAD_HOLD` beats. -/
def execPeerDead (i : Port) (s : State) : Host.Outcome State Fault Refusal :=
  match mget none s.he.downAt i.val with
  | some b =>
    if s.get (HEALTH_PEER_A_STATE i.val) = 1 ∧ b + s.get HEALTH_CONFIG_DEAD_HOLD ≤ s.edge ∧
        (s.peerPorts i.val).all (fun p => !s.active p) then .next (s.declareDead i.val)
    else .next s
  | none => .next s

/-- `GRAVITY_BUCKET_EXPIRE` (R459): a 60 s bucket ends, and events of the bucket ten before it leave the scores. -/
def execGravityBucketExpire (s : State) : Host.Outcome State Fault Refusal :=
  let b := s.he.bucket + 1
  let s := { s with he := { s.he with bucket := b, events := s.he.events.filter (fun e => decide (b < e.bucket + 10)) } }
  let s := (List.range 96).foldl (fun s p => s.showScore 0 p) s
  let s := ((List.range 96).filter (fun i => s.get (HEALTH_PEER_A_STATE i) != 0)).foldl (fun s i => s.showScore 1 i) s
  .next ((List.range 4).foldl (fun s k => s.showScore 2 k) s)

end Sys2Proof.Machine
end

