-- ==== Sys2Proof/Machine/Attach.lean ====
section
/-! DEFINITION. What reaches the module from its accelerators as attach messages (R372 to R377, R546, R427), and what
the host reaches through CXL (R381 to R384, R539). -/

namespace Sys2Proof.Machine

/-! ## Taking a message -/

/-- An attach message: `MSG`, `ID`, partition, address, value, limit, data. -/
structure AMsg where
  msg : Nat
  id : Nat
  part : Nat
  addr : Word
  value : Word
  limit : Nat
  data : Option (List Byte)
  deriving DecidableEq, Repr

/-- The fields of an attach flit (R372). -/
def attachMsg (f : Flit) (d : Option Flit) : AMsg :=
  let w := fw f 0
  ⟨bits w 7 0, bits w 35 16, bits w 42 38, fw f 1, fw f 2, bits (fw f 3) 15 0, d.map wordsBytes⟩

/-- The message is one that R373 lets an accelerator send. -/
def fromAccel (m : Nat) : Bool := [0x10, 0x11, 0x20, 0x21, 0x23, 0x22, 0x30, 0x31, 0x32].contains m

/-- Return attach-message credits of a class for a flit and its data flit (R372). -/
def State.returnAttach (s : State) (p cls : Nat) (d : Option Flit) : State :=
  if s.active p then (s.owe p (otherSlots cls 3 (1 + b2n d.isSome))).flushLink p else s

/-- Class of a message: 1 request, 2 response. -/
def attachClass (m : Nat) : Nat := if [0x22, 0x30, 0x31, 0x32].contains m then 2 else 1

/-- An attach message of an inbox. -/
def isAttachItem (i : RxItem) : Bool := match i with | .attach _ _ => true | _ => false

/-- The first attach message in an attach port's inbox, when it is `m`, and the state without it. -/
def State.takeAttach (s : State) (p m : Nat) : Option (AMsg × State) :=
  match s.takeRx p isAttachItem with
  | some (.attach f d, t) =>
    if (attachMsg f d).msg = m ∧ s.isAttach p then some (attachMsg f d, t.returnAttach p (attachClass m) d) else none
  | _ => none

/-- The accelerator (0 to 3) at an attach port. -/
def State.agentAt (s : State) (p : Nat) : Nat := s.get (XBAR_PORT_CFG_ACCEL_SLOT p)

/-- A request message (R373, R377): while the internal ports are closed it is answered with `TARGET_LOST`, and with `ACCESS_DENIED` when
the port does not let in its partition; `answer` is the message that answers it, if any. -/
def State.onRequest (s : State) (p m : Nat) (answer : Option Nat) (f : AMsg → State → State) : Host.Outcome State Fault Refusal :=
  match s.takeAttach p m with
  | none => .next s
  | some (x, s) =>
    let say := fun (s : State) (st : Nat) => match answer with | some a => s.sendAttach p a st x.id false x.part x.addr 0 none | none => s
    if s.xb.closed then .next (say s stTARGET_LOST)
    else if !s.portAdmits p x.part then .next (say s stACCESS_DENIED)
    else .next (f x s)

/-- A response message (R377): discarded while the internal ports are closed. -/
def State.onResponse (s : State) (p m : Nat) (f : AMsg → State → State) : Host.Outcome State Fault Refusal :=
  match s.takeAttach p m with
  | none => .next s
  | some (x, s) => .next (if s.xb.closed then s else f x s)

/-! ## Counters (R374) -/

/-- `LC_WAIT` (R374). -/
def execLcWait (p : Port) (s : State) : Host.Outcome State Fault Refusal :=
  s.onRequest p.val 0x10 (some 0x90) (fun x s =>
    let p := p.val
    let i := bits x.addr 16 0
    let l := s.link p
    let done := fun (st : Nat) (v : Word) => s.sendAttach p 0x90 st x.id false x.part x.addr v none
    if !s.lcShare x.part i then done stACCESS_DENIED 0
    else if 256 ≤ l.lcWaits.length then done stPOOL_EMPTY 0
    else if reached (s.counter i) x.value then done 0 (s.counter i)
    else s.setLink p { l with lcWaits := l.lcWaits ++ [⟨x.id, x.part, i, x.value, x.limit, 0⟩] })

/-- `LC_WAIT_TIMEOUT` (R374): `LIMIT` beat edges have passed. -/
def execLcWaitTimeout (p : Port) (id : Nat) (s : State) : Host.Outcome State Fault Refusal :=
  let l := s.link p.val
  match takeFirst (fun (w : LcWait) => w.id == id && w.limit != 0 && decide (w.limit ≤ w.edges)) l.lcWaits with
  | none => .next s
  | some (w, rest) =>
    let s := s.setLink p.val { l with lcWaits := rest }
    .next (s.sendAttach p.val 0x90 stTIMEOUT w.id false w.part (BitVec.ofNat 64 w.idx) (s.counter w.idx) none)

/-- `ATTACH_LC_READ` (R373). -/
def execAttachLcRead (p : Port) (s : State) : Host.Outcome State Fault Refusal :=
  s.onRequest p.val 0x11 (some 0x91) (fun x s =>
    let i := bits x.addr 16 0
    let ok := s.lcShare x.part i
    s.sendAttach p.val 0x91 (if ok then 0 else stACCESS_DENIED) x.id false x.part x.addr (if ok then s.counter i else 0) none)

/-! ## Coherent reads (R375) -/

/-- `RD_SHARED` or `RD_OWN`: the line is read as a load or as a store of the accelerator. The address is that of its line
(log 49). -/
def State.attachRead (s : State) (p : Nat) (own : Bool) (x : AMsg) : State :=
  let a := s.agentAt p
  let addr := BitVec.ofNat 64 (x.addr.toNat / 64 * 64)
  let q : ReqForm :=
    { opcode := 1, part := x.part, src := s.slotId (a + 1), dst := faEp addr, addr := addr, tag := x.id, w3 := 64 }
  let src := OpFrom.attach p a own x.part
  if !(s.get MEM_DIR_CONFIG_CACHE_EN).testBit a || s.confidential x.part || !s.owns (faEp addr) then
    s.answer src q.pkt stACCESS_DENIED []
  else s.access src q.pkt (if own then 3 else 1) own

/-- `RD_SHARED` (R375). -/
def execRdShared (p : Port) (s : State) : Host.Outcome State Fault Refusal :=
  s.onRequest p.val 0x20 (some 0xA0) (fun x s => s.attachRead p.val false x)

/-- `RD_OWN` (R375). -/
def execRdOwn (p : Port) (s : State) : Host.Outcome State Fault Refusal :=
  s.onRequest p.val 0x21 (some 0xA1) (fun x s => s.attachRead p.val true x)

/-! ## The directory's messages (R155, R157, R376) -/

/-- The directory entry by which an agent holds the line that a message names. -/
def State.dirNamed (s : State) (a : Nat) (x : AMsg) : Option DirEntry :=
  s.dir.find? (fun e => e.sharers.testBit a && decide ((mget (0, 0) e.names a).1.toNat / 64 = x.addr.toNat / 64))

/-- `DROP` (R373): the accelerator's clean copy is gone. -/
def execDrop (p : Port) (s : State) : Host.Outcome State Fault Refusal :=
  s.onRequest p.val 0x23 none (fun x s =>
    let a := s.agentAt p.val
    match s.dirNamed a x with
    | some e => if e.recalling.testBit a then s else (s.dirAnswer e.line a none).dirSettle
    | none => s)

/-- `WB` (R157, R376): the owner's data are written at the home, ahead of what waits on a recall of the line; any other
agent's are discarded. -/
def execWb (p : Port) (s : State) : Host.Outcome State Fault Refusal :=
  s.onResponse p.val 0x22 (fun x s =>
    let a := s.agentAt p.val
    let ack := fun (s : State) (st : Nat) => s.sendAttach p.val 0xA2 st x.id false x.part x.addr 0 none
    match s.dirNamed a x with
    | some e =>
      if e.owned then
        let s := match x.data with | some d => s.hbmWrite (64 * e.line) (d.take 64) | none => s
        if e.recalling.testBit a then ack s 0
        else ack (s.dirAnswer e.line a none).dirSettle 0
      else ack s.lateWb stACCESS_DENIED
    | none => ack s.lateWb stACCESS_DENIED)

/-- `RECALL_RSP` (R376): the recall is answered, with data when the copy was modified. -/
def execRecallRsp (p : Port) (s : State) : Host.Outcome State Fault Refusal :=
  s.onResponse p.val 0x30 (fun x s => s.recallAnswer (s.dirNamed (s.agentAt p.val) x) (s.agentAt p.val) x.data)

/-- `INVAL_RSP` (R155): the copy is gone. -/
def execInvalRsp (p : Port) (s : State) : Host.Outcome State Fault Refusal :=
  s.onResponse p.val 0x31 (fun x s => s.recallAnswer (s.dirNamed (s.agentAt p.val) x) (s.agentAt p.val) none)

/-- `RESET_ACK` (R377): taken without effect. -/
def execResetAck (p : Port) (s : State) : Host.Outcome State Fault Refusal := s.onResponse p.val 0x32 (fun _ s => s)

/-- `ATTACH_DISCARD` (R373): a flit that no accelerator may send, or on a fabric port, is discarded with its data flit. Its
credits are those of its class, or of requests where its `MSG` is in no class (log 50). -/
def execAttachDiscard (p : Port) (s : State) : Host.Outcome State Fault Refusal :=
  let p := p.val
  match s.takeRx p isAttachItem with
  | some (.attach f d, t) =>
    let m := (attachMsg f d).msg
    if s.isAttach p && fromAccel m then .next s
    else
      .next ((t.bump (PORT_ATTACH_DISCARD_COUNT p)).returnAttach p (attachClass m) d)
  | _ => .next s

/-! ## The CXL link (R381, R539) -/

/-- Accesses that wait for the host end with `TARGET_LOST` (R103, R381). -/
def State.hostWaitsLost (s : State) : State :=
  (s.tr.lines.filter (fun q => q.wait == .host)).foldl (fun s q => match s.headOp q.line with
    | some (_, o) => s.finishLine q.line o (.fail stTARGET_LOST)
    | none => s) s

/-- `CQ_FULL` of every ring in service follows the fetch conditions (R404). -/
def State.ringsFull (s : State) : State :=
  (List.range 512).foldl (fun s i => if s.on (RING_BASE_EN (i / 16) (i % 16)) then s.ringFull (i / 16) (i % 16) else s) s

/-- The link goes down (R381): what waits for the host ends, `T3` extents are lost, and the loss is counted. The width and
rate in use read 0. -/
def State.cxlDown (s : State) : State :=
  if s.cxlUp then
    let s := ((s.put GLOBAL_CXL_STATUS_LINK_UP 0).put GLOBAL_CXL_STATUS_LANES 0).put GLOBAL_CXL_STATUS_RATE 0
    (s.bump GLOBAL_CXL_DOWN_COUNT).hostWaitsLost.t3Lost.ringsFull
  else s

/-- The link comes up with a width and a rate code. -/
def State.cxlTrained (s : State) (x16 gt64 : Bool) : State :=
  let s := (s.put GLOBAL_CXL_STATUS_LINK_UP 1).put GLOBAL_CXL_STATUS_LANES (if x16 then 16 else 8)
  (s.put GLOBAL_CXL_STATUS_RATE (if gt64 then 2 else 1)).ringsFull

/-- `CXL_LINK_DOWN` (R381). -/
def execCxlLinkDown (s : State) : Host.Outcome State Fault Refusal := .next s.cxlDown

/-- `CXL_LINK_UP` (R381): the link trains again, after its bring-up phase and while `PERST_N` is high. -/
def execCxlLinkUp (x16 gt64 : Bool) (s : State) : Host.Outcome State Fault Refusal :=
  if 6 ≤ s.phase ∧ s.rs.perst = false ∧ s.cxlUp = false then .next (s.cxlTrained x16 gt64) else .next s

/-- `PERST_N` (R539): low holds the link down. -/
def execPerstN (low : Bool) (s : State) : Host.Outcome State Fault Refusal :=
  let s := { s with rs := { s.rs with perst := low } }
  .next (if low then s.cxlDown else s)

/-! ## Host-managed device memory (R382 to R385) -/

/-- Unit `u` of HBM4E (1 GiB) is closed to the host (R383). -/
def State.hdmClosed (s : State) (u : Nat) : Bool :=
  let k := u / 64
  let v := u % 64
  256 ≤ u || u == 255 || !s.stackUp (k * 2 ^ 36) || inRuns (s.reg MEM_TIER_REGION) k v ||
    (List.range 8).any (fun i => s.get (MEM_LEND_OUT_STATE i) != 0 && s.get (MEM_LEND_OUT_STACK i) == k &&
      s.get (MEM_LEND_OUT_FIRST i) ≤ v && v < s.get (MEM_LEND_OUT_FIRST i) + s.get (MEM_LEND_OUT_PAGES i)) ||
    (List.range 32).any (fun n => s.confidential n && inRuns (s.reg (MEM_PART_HBM n)) k v)

/-- The HDM decoder claims a host physical address (R382): it is committed and the address lies in its 256 GiB. -/
def State.hdmClaims (s : State) (pa : Nat) : Bool :=
  s.on GLOBAL_CXL_STATUS_HDM_COMMITTED && decide (s.hm.hdmBase ≤ pa) && decide (pa < s.hm.hdmBase + 2 ^ 38)

/-- `HDM_ACCESS` (R382 to R385): a host access within one line that the decoder claims: performed as an access of partition
0 by the host endpoint, or denied. -/
def execHdmAccess (pa len : Nat) (wr : Option (List Byte)) (cacheable : Bool) (s : State) : Host.Outcome State Fault Refusal :=
  let addr := pa - s.hm.hdmBase
  if !s.hostOpen || !s.hdmClaims pa || len == 0 || decide (64 < addr % 64 + len) then .next s
  else if s.hdmClosed (addr / 2 ^ 30) then
    let s := (s.flag GLOBAL_CXL_STATUS_HDM_DENIED).bump GLOBAL_HDM_DENIED_COUNT
    .next (s.emit (if wr.isSome then .hdmDone addr false else .hdmData addr (List.replicate len 0xFF) false))
  else
    let q : ReqForm :=
      { opcode := if wr.isSome then 2 else 1, part := 0, src := s.slotId 5, dst := s.selfId, addr := BitVec.ofNat 64 addr,
        w3 := if wr.isSome then 0 else BitVec.ofNat 64 len,
        payload := match wr with | some d => (d ++ List.replicate len 0).take len | none => [] }
    .next (s.startOp (.hdm cacheable) q.pkt ⟨0, len, 0, addr, 0, []⟩)

end Sys2Proof.Machine
end

