-- ==== Sys2Proof/Machine/Tun.lean ====
section
/-! DEFINITION. The Tun (R248 to R277): array jobs, their arithmetic, reduce-and-project, and slice loads. -/

namespace Sys2Proof.Machine

/-! ## Formats and layouts (R250, R261, R262) -/

/-- Input positions that the array takes in one cycle (R250); 0 for a reserved code. -/
def tunKt (f : Nat) : Nat :=
  match f with | 13 => 1024 | 9 | 10 | 11 | 12 | 5 => 512 | 2 | 3 => 256 | _ => 0

/-- e_f of R262. -/
def chunkElems (f : Nat) : Nat :=
  match f with | 2 | 3 => 128 | 4 => 64 | 9 | 10 => 224 | _ => 256

/-- Payload bytes of a chunk of `e` elements (R262). -/
def chunkBytes (f e : Nat) : Nat := if isMx f then 8 + cdiv e 32 * blockBytes f else e * elemBits f / 8

/-- The chunks of a row of `e` elements: index and element count. -/
def rowChunks (f e : Nat) : List (Nat × Nat) :=
  (List.range (cdiv e (chunkElems f))).map (fun i => (i, min (chunkElems f) (e - i * chunkElems f)))

/-- Bytes from the start of a row of `e` elements to its last byte. -/
def rowSpan (f e : Nat) : Nat :=
  let c := cdiv e (chunkElems f)
  256 * (c - 1) + chunkBytes f (e - (c - 1) * chunkElems f)

/-! ## The descriptor (R269) -/

def tjKind (ws : List Word) : Nat := wb ws 3 10 8
def tjSlice (ws : List Word) : Nat := wb ws 3 7 0
def tjIn (ws : List Word) : Nat := wb ws 3 14 11
def tjOut (ws : List Word) : Nat := wb ws 3 18 15
def tjRows (ws : List Word) : Nat := wb ws 3 28 19
def tjN (ws : List Word) : Nat := wb ws 4 16 0
def tjK (ws : List Word) : Nat := wb ws 4 33 17
def tjOutKind (ws : List Word) : Nat := wb ws 3 53 53

/-- The enumerated fields of a `TUN_JOB` hold no reserved encoding (R13, R250, R251, R269). -/
def tunEnums (ws : List Word) : Bool :=
  tjKind ws ≤ 3 && tunKt (tjIn ws) != 0 && (if tjKind ws = 3 then tjOut ws == 0 else [3, 4, 9, 10].contains (tjOut ws))

/-- Encodings and ranges that every `TUN_JOB` keeps (R250, R251, R269). -/
def tunWellFormed (ws : List Word) : Bool :=
  let load := tjKind ws == 3
  tunEnums ws && (tjKind ws != 2 || (wd ws 1 == 0 && wb ws 2 63 48 == 0)) &&
    1 ≤ tjRows ws && tjRows ws ≤ (if tjKind ws = 1 then 512 else 1) &&
    1 ≤ tjN ws && tjN ws ≤ 65536 && 1 ≤ tjK ws && tjK ws ≤ 65536 &&
    (!(11 ≤ tjIn ws) || tjK ws % 32 == 0) && (load || !isMx (tjOut ws) || tjN ws % 32 == 0) &&
    (tjKind ws == 2 || wb ws 7 31 0 % 256 == 0) && (tjKind ws != 1 || wb ws 7 63 32 % 256 == 0) &&
    (wd ws 1).toNat % 256 == 0 && (wd ws 2).toNat % 256 == 0

/-- Tun cycles of a job (R266). -/
def tunCycles (ws : List Word) : Nat :=
  cdiv (tjN ws) 512 * cdiv (tjK ws) (tunKt (tjIn ws)) * (if tjKind ws = 1 then max (tjRows ws) 4 else 1)

/-- The limits of R267. -/
def tunFits (ws : List Word) : Bool :=
  let kt := tunKt (tjIn ws)
  decide (tjRows ws * (cdiv (tjK ws) kt * kt) * elemBits (tjIn ws) ≤ 8 * 1048576) && decide (tjRows ws * (cdiv (tjN ws) 512 * 512) ≤ 262144)

/-! ## Admission (R270, R277) -/

/-- The input row of a `PROJECT` job's group. -/
def State.tunInRow (s : State) (n : Nat) (ws : List Word) : Option Nat := s.collRow n (wb ws 3 40 29)
/-- The row of a `PROJECT` job's output group. -/
def State.tunOutRow (s : State) (n : Nat) (ws : List Word) : Option Nat := s.collRow n (wb ws 3 52 41)

/-- Y of R277 for `q` stores to an endpoint. -/
def State.storeCost (s : State) (q e : Nat) : Nat :=
  s.pathCost (rtHops (s.routeNow e)) + max (s.portTerm q e) (q * s.cost cIPORT) + s.cost cWRITE + s.cost cLAND

/-- Y of R277 for `q` contributions of `e` elements to the group of row `g`. -/
def State.contribCost (s : State) (n g q ce : Nat) : Nat :=
  let root := s.get (RDX_COLL_B_ROOT_EP g)
  let mc := s.get (RDX_COLL_A_MC_GROUP g)
  s.pathCost (rtHops (s.routeNow root)) + max (s.portTerm q root) (q * s.cost cIPORT) +
    s.redTerm q (s.get (RDX_COLL_B_MEMBERS g)) ce + s.xTerm n mc q + s.qTerm n mc + s.cost cWRITE + s.cost cLAND

/-- I of R277. -/
def State.inCost (s : State) (n : Nat) (ws : List Word) : Nat :=
  let c := cdiv (tjK ws) (chunkElems (tjIn ws))
  if tjKind ws = 2 then
    let g := (s.tunInRow n ws).getD 0
    s.pathCost (wb ws 7 5 0) + s.redTerm c (s.get (RDX_COLL_B_MEMBERS g))
      (redCycles 0 (tjIn ws) (s.get (RDX_GROUP_A_MODE g)) (chunkElems (tjIn ws)))
  else
    let b := tjRows ws * c * 256
    let tun := match (s.ownTrans n (wd ws 1).toNat 1).pieces with | p :: _ => p.kind == 1 | [] => false
    if tun then s.throttled (cdiv b 65536) cTUNCYCLE else s.cost cHBMFIRST + cdiv b 1024 * s.cost cHBMKIB

/-- The cost of an array job (R277). -/
def State.tunCost (s : State) (n : Nat) (ws : List Word) : Nat :=
  let q := tjRows ws * cdiv (tjN ws) (chunkElems (tjOut ws))
  let grp := wb ws 3 52 41
  let y := if tjKind ws = 2 then
      (if tjOutKind ws = 0 then s.xTerm n grp q + s.qTerm n grp + s.cost cWRITE + s.cost cLAND
       else
        let g := (s.tunOutRow n ws).getD 0
        s.contribCost n g q (redCycles (s.get (RDX_GROUP_A_RED_OP g)) (tjOut ws) (s.get (RDX_GROUP_A_MODE g)) (chunkElems (tjOut ws))))
    else s.storeCost q (faEp (wd ws 2))
  s.cost cLAUNCH + s.inCost n ws + s.cost cTUNFILL + s.throttled (tunCycles ws) cTUNCYCLE + y + s.rd TIME_GUARD

/-- Check 6 of R270. -/
def State.projectIn (s : State) (n : Nat) (ws : List Word) : Nat :=
  if !s.bound n (wb ws 3 40 29) then stACCESS_DENIED
  else match s.tunInRow n ws with
    | none => stACCESS_DENIED
    | some g =>
      if s.get (RDX_COLL_A_STATE g) = 2 then stMEMBER_LOST
      else if s.on (RDX_COLL_A_ROOT g) && s.get (RDX_GROUP_A_RED_OP g) == 0 && s.get (RDX_GROUP_A_FMT g) == tjIn ws &&
          decide (cdiv (tjK ws) (chunkElems (tjIn ws)) ≤ s.get (RDX_GROUP_B_SLOTS g)) then 0
      else stACCESS_DENIED

/-- Check 7 of R270. Only a root's group table holds the format, so the format is compared where this module is the
root (log 16). -/
def State.projectOut (s : State) (n : Nat) (ws : List Word) : Nat :=
  if tjOutKind ws = 0 then (if mcValid (wd (s.mcEntry n (wb ws 3 52 41)) 0) then 0 else stACCESS_DENIED)
  else match s.tunOutRow n ws with
    | none => stACCESS_DENIED
    | some g =>
      if s.get (RDX_COLL_A_STATE g) = 2 then stMEMBER_LOST
      else if s.on (RDX_COLL_A_MEMBER g) && (!s.on (RDX_COLL_A_ROOT g) || s.get (RDX_GROUP_A_FMT g) == tjOut ws) &&
          decide (wb ws 5 49 37 < s.get (RDX_COLL_B_MEMBERS g)) && mcValid (wd (s.mcEntry n (s.get (RDX_COLL_A_MC_GROUP g))) 0) then 0
      else stACCESS_DENIED

/-- The checks of an offered array job (R270). -/
def State.tunOffer (s : State) (n : Nat) (ws : List Word) (gate : Bool) : Offer :=
  let e := tjSlice ws
  let st := s.get (TUN_SLICE_A_STATE e)
  if s.on TUN_STATUS_FAILED then .refuse stSTATE_CONFLICT scTUN_FAILED 0
  else if !tunWellFormed ws || !tunFits ws then .refuse stACCESS_DENIED 0 0
  else if st = 0 then .refuse stSTATE_CONFLICT scSLICE_EMPTY 0
  else if st = 1 then .defer
  else if !(s.get (TUN_SLICE_A_PARTITION e) == n && s.get (TUN_SLICE_A_IN_FMT e) == tjIn ws &&
      decide (tjN ws ≤ s.get (TUN_SLICE_A_N e)) && decide (tjK ws ≤ s.get (TUN_SLICE_A_K e))) then .refuse stACCESS_DENIED 0 0
  else
    let a := if tjKind ws = 2 then s.projectIn n ws else 0
    let b := if tjKind ws = 2 ∧ a = 0 then s.projectOut n ws else a
    if b ≠ 0 then .refuse b 0 0 else if !gate then .defer else .cost (s.tunCost n ws) none

/-! ## Arithmetic (R252 to R254) -/

/-- A binary32 result of the Tun: a zero is +0 (R253). -/
def tunRound (v : FVal) : Nat := let b := (fencode fFP32 v).1; if b % 2 ^ 31 = 0 then 0 else b

/-- The exact sum of a group's products (R252 step 3). -/
def groupSum (ps : List (FVal × FVal)) : FVal := ps.foldl (fun a p => vadd a (vmul p.1 p.2)) (.num false 0 0)

/-- The binary32 accumulation over groups (R252 step 4). -/
def tunDot (groups : List (List (FVal × FVal))) : Nat :=
  groups.foldl (fun acc g => tunRound (vadd (fdecode fFP32 acc) (groupSum g))) 0

/-- The value of an unscaled element. -/
def plainValue (f b : Nat) : FVal :=
  if f = 5 then let i := toSigned 8 b; .num (decide (i < 0)) i.natAbs 0 else fdecode (elemFmt f) b

/-- The weight of output `o` for input `k` in the Tun layout (R261): `base` and `nt` are the slice's first row and its
output tiles. -/
def State.weight (s : State) (f base nt o k : Nat) : FVal :=
  let kt := tunKt f
  let w := elemBits f
  let t := base + k / kt * nt + o / 512
  let j := o % 512
  let kk := k % kt
  let a := 262144 * t + kt * w / 8 * j + kk * w / 8
  let b := leNat (readBytes s.tu.store a 2) / 2 ^ (kk * w % 8) % 2 ^ w
  if isMx f then mxValue f (mget 0 s.tu.scale (16384 * t + 32 * j + kk / 32)).toNat b else plainValue f b

/-- The values of an activation row's first `k` positions. -/
def rowValues (f k : Nat) (chunks : List (List Byte)) : List FVal := (chunks.flatMap (elemValues f)).take k

/-- The output accumulators of one row of a job. -/
def State.tunRow (s : State) (ws : List Word) (chunks : List (List Byte)) : List Nat :=
  let f := tjIn ws
  let e := tjSlice ws
  let base := s.get (TUN_SLICE_B_BASE e)
  let nt := cdiv (s.get (TUN_SLICE_A_N e)) 512
  let acts := rowValues f (tjK ws) chunks
  (List.range (tjN ws)).map (fun o =>
    tunDot (chunksOf 32 (acts.length + 1) (acts.mapIdx (fun k a => (s.weight f base nt o k, a)))))

/-- A row of accumulators as output chunks (R254, R262). -/
def outChunks (f : Nat) (vs : List Nat) : List (List Byte) :=
  (chunksOf (chunkElems f) (vs.length + 1) vs).map (fun c => (encodeResult f (c.map (fdecode fFP32))).1)

/-! ## Running an array job -/

/-- The job at the head of the Tun (R266, R295). -/
def State.tunHead (s : State) : Option Step := match s.tu.jobs with | id :: _ => s.step? id | [] => none

/-- Activation rows: first addresses and spans. -/
def tunSources (ws : List Word) (rows : Nat) : List (Nat × Nat) :=
  (List.range rows).map (fun r => ((wd ws 1).toNat + r * wb ws 7 31 0, rowSpan (tjIn ws) (tjK ws)))

/-- The translations of those runs that are own memory, taken as one tile from address `a0`. -/
def State.runsTrans (s : State) (n a0 : Nat) (runs : List (Nat × Nat)) : Trans :=
  (runs.filter (fun r => s.ownAddr (BitVec.ofNat 64 r.1))).foldl (fun t r =>
    let u := s.ownTrans n r.1 r.2
    let d := r.1 - a0
    t.join ⟨u.pieces.map (fun c => { c with ofs := c.ofs + d }), u.fails.map (fun f => { f with ofs := f.ofs + d }),
      u.needs.map (fun x => (x.1 + d, x.2))⟩) ⟨[], [], []⟩

/-- The lowest offset at which a part is not of kind `HBM` or `TUN` here. -/
def foreignAt (t : Trans) : Option Nat := ((t.pieces.filter (fun c => decide (1 < c.kind))).map (·.ofs) ++ t.needs.map (·.1)).min?

/-- A failure before a foreign part decides; otherwise a foreign part does (R84, R271). -/
def runsFail (t : Trans) : Option PageFail :=
  match lowestFail t.fails, foreignAt t with
  | some f, some o => if f.ofs < o then some f else some ⟨o, stACCESS_DENIED, none⟩
  | some f, none => some f
  | none, some o => some ⟨o, stACCESS_DENIED, none⟩
  | none, none => none

/-- The runs homed elsewhere, as failures of a tile from address `a0` (R271). -/
def State.alienRuns (s : State) (a0 : Nat) (runs : List (Nat × Nat)) : List PageFail :=
  (runs.filter (fun r => !s.ownAddr (BitVec.ofNat 64 r.1))).map (fun r => ⟨r.1 - a0, stACCESS_DENIED, none⟩)

/-- The chunk payloads of one row of own memory. -/
def State.readRow (s : State) (n f e addr : Nat) : List (List Byte) :=
  (rowChunks f e).map (fun c => (s.jobBytes n (BitVec.ofNat 64 (addr + 256 * c.1)) (chunkBytes f c.2)).getD [])

/-- `TUN_JOB_START` (R266, R271): the job at the head of the Tun starts and translates its activation pages. -/
def execTunJobStart (s : State) : Host.Outcome State Fault Refusal :=
  match s.tunHead with
  | none => .next s
  | some x =>
    let ws := x.words
    if dType (wd ws 0) ≠ 3 ∨ x.phase ≠ 0 ∨ x.fail.isSome then .next s
    else if tjKind ws = 2 then
      .next ((s.setStep { x with phase := 1 }).put TUN_STATUS_STATE 2)
    else
      let a0 := (wd ws 1).toNat
      let src := tunSources ws (tjRows ws)
      let len := (tjRows ws - 1) * wb ws 7 31 0 + rowSpan (tjIn ws) (tjK ws)
      let t := s.runsTrans x.part a0 src
      match runsFail { t with fails := t.fails ++ s.alienRuns a0 src } with
      | some f =>
        let (st, s) := s.jobFault x.part (wd ws 1) len f
        .next (s.setStep ({ x with phase := 1 }.failFirst st))
      | none =>
        let acts := src.map (fun r => s.readRow x.part (tjIn ws) (tjK ws) r.1)
        let tu := { s.tu with acts := acts, uses := t.pieces.flatMap (·.uses) }
        .next ((({ s with tu := tu }).setStep { x with phase := 1 }).put TUN_STATUS_STATE 1)

/-- Input chunks of a `PROJECT` job. -/
def projectCount (ws : List Word) : Nat := cdiv (tjK ws) (chunkElems (tjIn ws))

/-- The position of a chunk number in a `PROJECT` job's range. -/
def projectPos (ws : List Word) (num : Nat) : Nat := (num + 2 ^ 30 - wb ws 4 63 34) % 2 ^ 30

/-- `PROJECT_CHUNK_TAKE` (R274): the running `PROJECT` job takes a staged chunk of a position it has not taken, whose slot
frees. -/
def execProjectChunkTake (chunk : Nat) (s : State) : Host.Outcome State Fault Refusal :=
  match s.tunHead with
  | none => .next s
  | some x =>
    if dType (wd x.words 0) = 3 ∧ tjKind x.words = 2 ∧ x.phase = 1 ∧ x.fail.isNone = true ∧ projectPos x.words chunk < projectCount x.words ∧
        s.tu.taken.all (fun c => c.1 != projectPos x.words chunk) = true then
      match takeFirst (fun (c : Staged) => c.grp == wb x.words 3 40 29 && c.part == x.part && c.num == chunk) s.tu.staged with
      | none => .next s
      | some (c, rest) =>
        let ws := x.words
        let i := projectPos ws chunk
        let want := min (chunkElems (tjIn ws)) (tjK ws - i * chunkElems (tjIn ws))
        let s := (s.setStaged rest).rdxCounts c.row
        if c.payload.length ≠ chunkBytes (tjIn ws) want then .next (s.setStep (x.failFirst stACCESS_DENIED))
        else
          let s := { s with tu := { s.tu with taken := s.tu.taken ++ [(i, c.payload)] } }
          .next (if s.tu.taken.length = projectCount ws then s.put TUN_STATUS_STATE 1 else s)
    else .next s

/-- `STAGED_CHUNK_EXPIRE` (R273, R276). -/
def execStagedChunkExpire (g : Row) (chunk : Nat) (s : State) : Host.Outcome State Fault Refusal :=
  match takeFirst (fun (c : Staged) => c.row == g.val && c.num == chunk) s.tu.staged with
  | some (c, rest) =>
    if c.edge + s.get RDX_CONFIG_CHUNK_LIMIT ≤ s.edge then .next (((s.setStaged rest).rdxCounts g.val).stageDrop) else .next s
  | none => .next s

/-- Every chunk of a `PROJECT` job is staged or taken. -/
def State.projectStaged (s : State) (x : Step) : Bool :=
  (List.range (projectCount x.words)).all (fun i =>
    (s.tu.jobs.head? == some x.id && s.tu.taken.any (fun c => c.1 == i)) ||
    s.tu.staged.any (fun c => c.grp == wb x.words 3 40 29 && c.part == x.part && projectPos x.words c.num == i))

/-- `PROJECT_TIMEOUT` (R275): an admitted `PROJECT` job whose chunks are not all staged in time will end with
`TIMEOUT`. -/
def execProjectTimeout (s : State) : Host.Outcome State Fault Refusal :=
  let late := fun (x : Step) => s.tu.jobs.contains x.id && dType (wd x.words 0) == 3 && tjKind x.words == 2 && decide (x.phase < 2) &&
    decide (x.edge + s.get RDX_CONFIG_CHUNK_LIMIT ≤ s.edge) && !s.projectStaged x
  .next { s with st := { s.st with steps := updWhere late (fun x => x.failFirst stTIMEOUT) s.st.steps } }

/-- Emit packets of a job that each have a tracker entry. -/
def State.emitPkts (s : State) (id port : Nat) (fs : List ReqForm) : State :=
  match s.step? id with
  | none => s
  | some x =>
    let s := s.setStep { x with phase := 2, outstanding := fs.length }
    (fs.mapIdx (fun i f => (i, f))).foldl (fun s e => s.stepPkt port x e.1 e.2) s

/-- The next contribution of a job leaves, of those it has not sent yet (`todo`). -/
def State.emitMore (s : State) (id : Nat) (fs : List ReqForm) : State :=
  match s.step? id with
  | none => s
  | some y =>
    match (fs.drop (fs.length - y.todo)).head? with
    | none => s
    | some f => (s.setStep { y with todo := y.todo - 1 }).send 97 { f with tag := y.tag, gen := y.gen }.pkt

/-- Emit the next contribution of a job under one tracker entry (R237, R272, R292; log 144); without room for the entry the
job stalls until it has one (R125). -/
def State.emitContribs (s : State) (id dst : Nat) (fs : List ReqForm) : State :=
  match s.step? id with
  | none => s
  | some x =>
    if x.phase = 2 then s.emitMore id fs
    else if s.tr.stalled.any (fun e => e.2 == Issuer.step id wholeEntry) then s
    else
      let (ok, s) := if s.hasWhole x then (true, s) else s.openWhole x dst
      match s.step? id with
      | some y => if ok then (s.setStep { y with phase := 2, todo := fs.length }).emitMore id fs else s
      | none => s

/-- A job's output has begun: its Tun cycles count, once (R280). -/
def State.countBusy (s t : State) (id cycles : Nat) : State :=
  let out := fun (s : State) => (s.step? id).any (fun x => x.phase == 2)
  if !out s && out t then t.bumpBy TUN_BUSY_CYCLES cycles else t

/-- A job that ends before its output: how many of its cycles the Tun has spent on it is a free value (log 128). -/
def State.partBusy (s : State) (cycles : Nat) : State :=
  let (v, s) := s.take
  s.bumpBy TUN_BUSY_CYCLES (v.toNat % (cycles + 1))

/-- The landing counter fields of a job (R269, R284): the word that holds them. -/
def jobForm (s : State) (x : Step) (w : Word) (op dst : Nat) (addr w3 : Word) (payload : List Byte) : ReqForm :=
  { opcode := op, part := x.part, tc := 1, src := s.selfId, dst := dst, addr := addr, lcEn := bit w 35, lcMode := bit w 36,
    lcIdx := bits w 34 18, w3 := w3, payload := payload }

/-- A `PROJECT` job's groups: one is suspended or gone (R275). -/
def State.projectDown (s : State) (x : Step) : Bool :=
  tjKind x.words == 2 && (s.rowDown x.part (wb x.words 3 40 29) || (tjOutKind x.words == 1 && s.rowDown x.part (wb x.words 3 52 41)))

/-- The job emits contributions under one tracker entry (R272). -/
def tunSingle (ws : List Word) : Bool := tjKind ws == 2 && tjOutKind ws == 1

/-- `TUN_JOB_OUTPUT` (R268, R272): the last tile of the last row has been accumulated and the output rows leave; of
contributions, the next one, so that a failure can come before the last (R275; log 144). Its `RED_OP` and `MODE` are those of
the row of the group that this module holds, root or not (log 159, DEDUCED). -/
def execTunJobOutput (s : State) : Host.Outcome State Fault Refusal :=
  match s.tunHead with
  | none => .next s
  | some x =>
    let ws := x.words
    let n := x.part
    let proj := tjKind ws = 2
    let due := decide (x.phase = 1) || (decide (x.phase = 2) && tunSingle ws && decide (0 < x.todo))
    if dType (wd ws 0) ≠ 3 ∨ due = false ∨ x.fail.isSome = true ∨ s.projectDown x = true ∨ (proj ∧ s.tu.taken.length ≠ projectCount ws) then .next s
    else
      let rows := if proj then [(List.range (projectCount ws)).map (fun i => ((s.tu.taken.find? (fun c => c.1 == i)).map (·.2)).getD [])]
        else s.tu.acts
      let outs := rows.map (fun r => outChunks (tjOut ws) (s.tunRow ws r))
      let w := wd ws 5
      let dst := (wd ws 2).toNat
      let busy := fun (t : State) => s.countBusy t x.id (tunCycles ws)
      let grp := wb ws 3 52 41
      if !proj then
        let fs := (outs.mapIdx (fun r cs => cs.mapIdx (fun i b =>
          let a := BitVec.ofNat 64 (dst + r * wb ws 7 63 32 + 256 * i)
          jobForm s x w 2 (faEp a) a 0 b))).flatten
        .next (busy (s.emitPkts x.id 96 fs))
      else
        let cs := outs.flatten
        if tjOutKind ws = 0 then
          .next (busy (s.emitPkts x.id 97 (cs.mapIdx (fun i b =>
            jobForm s x w 4 (s.mcRootOf n grp) (faMake 0 (dst % 2 ^ 48 + 256 * i)) (BitVec.ofNat 64 grp) b))))
        else
          let g := (s.tunOutRow n ws).getD 0
          let root := s.get (RDX_COLL_B_ROOT_EP g)
          .next (busy (s.emitContribs x.id root (cs.mapIdx (fun i b =>
            jobForm s x w 5 root (faMake 0 (dst % 2 ^ 48)) (redWord grp (s.get (RDX_GROUP_A_RED_OP g)) (tjOut ws)
              (s.get (RDX_GROUP_A_MODE g)) (wb ws 5 49 37) ((wb ws 7 35 6 + i) % 2 ^ 30)) b))))

/-- The status with which an array job ends now, if it does (R275). -/
def State.tunEnds (s : State) (x : Step) (parity : Bool) : Option Nat :=
  let single := tunSingle x.words
  match x.fail with
  | some (_, st) =>
    if x.phase < 2 then some st else if single then some (if 0 < x.todo then st else 0) else if x.outstanding = 0 then some st else none
  | none =>
    if s.projectDown x then some stMEMBER_LOST
    else if parity ∧ x.phase = 1 then some stPARITY
    else if x.phase = 2 ∧ (if single then x.todo = 0 else x.outstanding = 0) then some 0
    else none

/-- An attention job that has come to the head of the Tun resolves its pages (R301, `STATE`). -/
def State.tunNext (s : State) : State :=
  match s.tunHead with
  | some x => if dType (wd x.words 0) = 4 ∧ x.phase = 0 then s.put TUN_ATTN_STATUS_STATE 1 else s
  | none => s

/-- A word read from HBM4E that keeps failing is reported (R303). -/
def State.wordFault (s : State) (w : Option WordFault) : State :=
  match w with | some (.hbm k) => s.hbmUncorr k.val | _ => s

/-- The Tun is free of its running job. -/
def State.tunClear (s : State) (x : Step) : State :=
  let tu := if x.phase = 0 then { s.tu with jobs := s.tu.jobs.erase x.id }
    else { s.tu with jobs := s.tu.jobs.erase x.id, taken := [], acts := [], uses := [], attn := [] }
  { s with tu := tu, xl := { s.xl with waits := s.xl.waits.filter (fun w => w.who != .job x.id) } }

/-- A job or load that ends with `PARITY_EXHAUSTED` is flagged and counted (R280). -/
def State.tunParity (s : State) (st : Nat) : State :=
  if st = stPARITY then (s.flag TUN_STATUS_PARITY).bump TUN_PARITY_COUNT else s

/-- `TUN_JOB_END` (R275): an array job ends with the first of its events. `parity`: a word of the running job's operands
has failed after two reads. -/
def execTunJobEnd (now : Nat) (parity : Option WordFault) (s : State) : Host.Outcome State Fault Refusal :=
  let js := (s.tu.jobs.filterMap s.step?).filter (fun x => dType (wd x.words 0) == 3)
  match js.find? (fun x => (s.tunEnds x (parity.isSome && s.tu.jobs.head? == some x.id)).isSome) with
  | none => .next s
  | some x =>
    let st := (s.tunEnds x parity.isSome).getD 0
    let begun := x.phase == 1 && !(s.tu.acts.isEmpty && s.tu.taken.isEmpty)
    let s := if x.fail.isNone ∧ st = stPARITY then s.wordFault parity else s
    let s := if begun then s.partBusy (tunCycles x.words) else s
    let s := (s.closeWhole x).tunClear x
    let s := if x.phase = 0 then s else s.put TUN_STATUS_STATE 0
    .next (((s.tunParity st).bump TUN_JOB_COUNT).tunNext.endStep x now st 0)

/-! ## Slice loads (R263, R264) -/

/-- The running slice load. -/
def State.loadNow (s : State) : Option SliceLoad := s.tu.loads.find? (·.started)

/-- The state with a slice load changed. -/
def State.setLoad (s : State) (l : SliceLoad) : State :=
  { s with tu := { s.tu with loads := updWhere (fun m => m.id == l.id) (fun _ => l) s.tu.loads } }

/-- End a slice load: its entry takes two words, and its descriptor completes. -/
def State.endLoad (s : State) (l : SliceLoad) (a b : Word) (status : Nat) : State :=
  let e := tjSlice l.words
  let s := (s.setReg (TUN_SLICE_A e) a).setReg (TUN_SLICE_B e) b
  let s := { s with tu := { s.tu with loads := s.tu.loads.filter (fun m => m.id != l.id) } }
  (s.put TUN_STATUS_LOADING 0).complete l.part l.ring l.idx l.words status 0 0

/-- The store row of a slice base (R258, R269). -/
def State.loadBase (s : State) (l : SliceLoad) : Nat := 65536 * s.get (TUN_PART_SHARE_FIRST l.part) + (wd l.words 2).toNat

/-- Tiles of a slice (R260). -/
def sliceTiles (ws : List Word) : Nat := cdiv (tjN ws) 512 * cdiv (tjK ws) (tunKt (tjIn ws))

/-- The conditions of R264 that end a load with `ACCESS_DENIED`. -/
def State.loadDenied (s : State) (l : SliceLoad) : Bool :=
  let n := l.part
  let t := sliceTiles l.words
  let base := s.loadBase l
  let row := base / 262144
  decide (768 < t) || decide (base % 262144 ≠ 0) ||
    decide (65536 * (s.get (TUN_PART_SHARE_FIRST n) + s.get (TUN_PART_SHARE_COUNT n)) < base + 262144 * t) ||
    (List.range 256).any (fun e => e != tjSlice l.words && s.get (TUN_SLICE_A_STATE e) != 0 && s.get (TUN_SLICE_A_PARTITION e) == n &&
      decide (s.get (TUN_SLICE_B_BASE e) < row + t) && decide (row < s.get (TUN_SLICE_B_BASE e) + s.get (TUN_SLICE_B_TILES e)))

/-- The words of a slice entry (R280). -/
def sliceA (st n : Nat) (ws : List Word) : Word := mkWord [(63, 62, st), (61, 57, n), (56, 53, tjIn ws), (52, 36, tjN ws), (35, 19, tjK ws)]
def sliceB (ws : List Word) (row : Nat) : Word := mkWord [(41, 32, sliceTiles ws), (9, 0, row)]

/-- The next source chunk of a load is asked for (R264). -/
def State.loadNext (s : State) (l : SliceLoad) : State :=
  match l.todo with
  | [] => s.setLoad l
  | c :: rest =>
    let a := BitVec.ofNat 64 c.2.1
    let f : ReqForm := { opcode := 1, part := l.part, src := s.selfId, dst := faEp a, addr := a, w3 := BitVec.ofNat 64 c.2.2 }
    (s.setLoad { l with todo := rest, waiting := 1 }).issue 96 f.pkt (.job l.id c.1)

/-- `SLICE_LOAD_START` (R263, R264): the load engine starts its first load once no admitted job names the entry. Source
rows on this module's `HBM` and `TUN` pages are read directly, others by requests, one at a time in rising order, so that
the lowest page that fails decides and writes the one record (R84; log 129). What it translated itself it holds until it ends
(log 155, DEDUCED), and it waits for the switch of an extent whose move is closed (R308, R316 step 4). -/
def execSliceLoadStart (s : State) : Host.Outcome State Fault Refusal :=
  match s.tu.loads with
  | [] => .next s
  | l :: _ =>
    let ws := l.words
    let e := tjSlice ws
    let named := (s.tu.jobs.filterMap s.step?).any (fun x => dType (wd x.words 0) == 3 && tjSlice x.words == e)
    if l.started || named then .next s
    else
      let a := s.reg (TUN_SLICE_A e)
      let b := s.reg (TUN_SLICE_B e)
      let src := tunSources ws (tjN ws)
      let own := src.all (fun r => s.ownAddr (BitVec.ofNat 64 r.1))
      let t := s.runsTrans l.part (wd ws 1).toNat src
      if !(s.closedIn t.pieces).isEmpty then .next s
      else match decided t.fails t.needs with
      | some f =>
        let (st, s) := s.jobFault l.part (wd ws 1) ((tjN ws - 1) * wb ws 7 31 0 + rowSpan (tjIn ws) (tjK ws)) f
        .next (s.endLoad l a b st)
      | none =>
        if s.loadDenied l then .next (s.endLoad l a b stACCESS_DENIED)
        else
          let s := (s.setReg (TUN_SLICE_A e) (sliceA 1 l.part ws)).setReg (TUN_SLICE_B e) (sliceB ws (s.loadBase l / 262144))
          let s := s.put TUN_STATUS_LOADING 1
          let uses := t.pieces.flatMap (·.uses)
          let cs := rowChunks (tjIn ws) (tjK ws)
          let all := (src.mapIdx (fun r x => cs.map (fun c => (r * cs.length + c.1, x.1 + 256 * c.1, chunkBytes (tjIn ws) c.2)))).flatten
          if own && (foreignAt t).isNone then
            let got := all.map (fun c => (c.1, (s.jobBytes l.part (BitVec.ofNat 64 c.2.1) c.2.2).getD []))
            .next (s.setLoad { l with started := true, oldA := a, oldB := b, got := got, uses := uses })
          else
            .next (s.loadNext { l with started := true, oldA := a, oldB := b, todo := all, uses := uses })

/-- Statuses of a translation that failed (R74). -/
def transStatus (status : Nat) : Bool := [stFAULT, stFAULT_DROPPED, stGRANULE, stACCESS_DENIED, stTIMEOUT].contains status

/-- A read of a slice load has ended: the next goes out, or the load has failed: in its translation, unless `held`, when no
reply has come (R264, R118). -/
def State.loadReply (s : State) (id chunk status : Nat) (bytes : List Byte) (held : Bool) : State :=
  match s.tu.loads.find? (fun l => l.id == id) with
  | none => s
  | some l =>
    if status = 0 then s.loadNext { l with waiting := 0, got := minsert (merase l.got chunk) chunk bytes }
    else s.setLoad { l with waiting := 0, todo := [], fail := some (status, !held && transStatus status) }

/-- Write a loaded slice in the Tun layout (R261): the store, the scale plane, and the bytes written. -/
def State.writeSlice (s : State) (l : SliceLoad) : State :=
  let ws := l.words
  let f := tjIn ws
  let w := elemBits f
  let kt := tunKt f
  let nt := cdiv (tjN ws) 512
  let base := s.loadBase l / 262144
  let nc := cdiv (tjK ws) (chunkElems f)
  (List.range (tjN ws)).foldl (fun s o =>
    let chunks := (List.range nc).map (fun i => mget [] l.got (o * nc + i))
    let els := (chunks.flatMap (rawElems f)).take (tjK ws)
    (chunksOf kt (els.length + 1) els).zipIdx.foldl (fun s x =>
      let t := base + x.2 * nt + o / 512
      let bs := pack w x.1
      let sc : List Byte := if isMx f then
          (List.range (cdiv x.1.length 32)).map (fun b =>
            let k := x.2 * kt + 32 * b
            (chunks.getD (k / chunkElems f) []).getD (k % chunkElems f / 32) 0)
        else []
      let tu :=
        { s.tu with
          store := writeBytes s.tu.store (262144 * t + kt * w / 8 * (o % 512)) bs,
          scale := writeBytes s.tu.scale (16384 * t + 32 * (o % 512)) sc }
      ({ s with tu := tu }).bumpBy TUN_LOAD_BYTES (bs.length + sc.length)) s) s

/-- `SLICE_LOAD_END` (R263, R264, R303): the running load ends. `parity`: a source word, or one of the store, has failed
after two reads when writing had begun. -/
def execSliceLoadEnd (parity : Option WordFault) (s : State) : Host.Outcome State Fault Refusal :=
  match s.loadNow with
  | none => .next s
  | some l => match l.fail, parity with
    | some (st, true), _ => .next ((s.tunParity st).endLoad l l.oldA l.oldB st)
    | some (st, false), _ => .next ((s.tunParity st).endLoad l 0 0 st)
    | none, some w => .next (((s.wordFault (some w)).tunParity stPARITY).endLoad l 0 0 stPARITY)
    | none, none =>
      if l.waiting = 0 ∧ l.todo.isEmpty = true then
        let s := s.writeSlice l
        .next (s.endLoad l (sliceA 2 l.part l.words) (sliceB l.words (s.loadBase l / 262144)) 0)
      else .next s

end Sys2Proof.Machine
end

