-- ==== Sys2Proof/Machine/Attn.lean ====
section
/-! DEFINITION. The attention pass (R281 to R299): admission, page resolution, arithmetic and output of an attention
job. -/

namespace Sys2Proof.Machine

/-! ## The descriptor and page layout (R281 to R284) -/

def aTokens (ws : List Word) : Nat := wb ws 4 16 0
def aFmt (ws : List Word) : Nat := wb ws 4 20 17
def aD (ws : List Word) : Nat := wb ws 4 29 21
def aRows (ws : List Word) : Nat := wb ws 4 36 30
def aSpec (ws : List Word) : Nat := wb ws 4 43 37
def aOut (ws : List Word) : Nat := wb ws 4 47 44
def aOutKind (ws : List Word) : Nat := wb ws 4 48 48
def aScale (ws : List Word) : Nat := wb ws 5 31 0

/-- Pages of a job (R283). -/
def aPages (ws : List Word) : Nat := cdiv (aTokens ws) 64
/-- Page size (R281). -/
def aPageSize (ws : List Word) : Nat := aD ws * (if aFmt ws = 3 then 256 else if aFmt ws = 13 then 68 else 132)
/-- c_q (R284) and c_o (R292). -/
def aCq (ws : List Word) : Nat := cdiv (aD ws) (chunkElems (aFmt ws))
def aEo (ws : List Word) : Nat := if aOut ws = 4 then 62 else 124
def aCo (ws : List Word) : Nat := cdiv (aD ws) (aEo ws)

/-- The enumerated fields of an `ATTN_JOB` hold no reserved encoding (R13, R284). -/
def attnEnums (ws : List Word) : Bool :=
  [3, 9, 10, 13].contains (aFmt ws) && [3, 4].contains (aOut ws) && wb ws 4 50 49 != 3

/-- Encodings and ranges (R282, R284, R285 order 2). -/
def attnWellFormed (ws : List Word) : Bool :=
  attnEnums ws && (aOutKind ws != 1 || wb ws 3 63 48 == 0) &&
    aD ws % 32 == 0 && 32 ≤ aD ws && aD ws ≤ 256 && 1 ≤ aTokens ws && aTokens ws ≤ 65536 &&
    1 ≤ aRows ws && aRows ws ≤ 64 && 1 ≤ aSpec ws && aSpec ws ≤ 64 && aRows ws % aSpec ws == 0 &&
    0 < aScale ws && aScale ws < 0x7F800000 &&
    (wd ws 1).toNat % 256 == 0 && (wd ws 2).toNat % 256 == 0 && (wd ws 3).toNat % 256 == 0

/-- B of R296. -/
def attnBytes (ws : List Word) : Nat := aPages ws * (aPageSize ws + 8) + aRows ws * aCq ws * 256
/-- σ of R296. -/
def attnSpread (ws : List Word) : Nat := 2 ^ wb ws 4 50 49

/-- Tun cycles of a job: those of U of R296. -/
def attnCycles (ws : List Word) : Nat := cdiv (aTokens ws) 512 * max (aRows ws) 4 * (1 + cdiv 512 (tunKt (aFmt ws)))

/-- The cost of an attention job (R296), whose own reduction term it raises (R295). -/
def State.attnCost (s : State) (n : Nat) (ws : List Word) (g : Option Nat) : Nat :=
  let nb := cdiv (aTokens ws) 512
  let r := aRows ws
  let h := cdiv (attnBytes ws) (1024 * attnSpread ws) * s.cost cHBMKIB
  let u := s.throttled (attnCycles ws) cTUNCYCLE
  let v := s.throttled (nb * cdiv r 8 * (6 + cdiv (aD ws) 128) * 2) cRDXCYCLE
  let q := r * aCo ws
  let s := s.attnNow
  let y := match g with
    | some g => s.contribCost n g q (redCycles 7 (aOut ws) 1 (aEo ws))
    | none => s.storeCost q (faEp (wd ws 3))
  s.cost cLAUNCH + s.cost cHBMFIRST + max h (max u v) + s.cost cTUNFILL + s.cost cRDXFILL + y + s.rd TIME_GUARD

/-- The checks of an offered attention job (R285). -/
def State.attnOffer (s : State) (n : Nat) (ws : List Word) (gate : Bool) : Offer :=
  if s.on TUN_STATUS_FAILED then .refuse stSTATE_CONFLICT scTUN_FAILED 0
  else if !attnWellFormed ws then .refuse stACCESS_DENIED 0 0
  else if aOutKind ws = 0 then (if gate then .cost (s.attnCost n ws none) none else .defer)
  else match s.collRow n (wb ws 6 48 37) with
    | none => .refuse stACCESS_DENIED 0 0
    | some g =>
      if !s.on (RDX_COLL_A_MEMBER g) then .refuse stACCESS_DENIED 0 0
      else if s.get (RDX_COLL_A_STATE g) = 2 then .refuse stMEMBER_LOST 0 0
      else if s.get (RDX_COLL_B_MEMBERS g) ≤ wb ws 4 63 51 then .refuse stACCESS_DENIED 0 0
      else if gate then .cost (s.attnCost n ws (some g)) none else .defer

/-! ## Resolving the pages (R286, R287, R297) -/

/-- What has been found of a job's pages: their bytes, their translations, bytes by stack, the first failure as page
and cause with its status, and whether it was not resident. -/
structure AttnFind where
  pages : List (Option (List Byte)) := []
  uses : List Use := []
  banks : List (Nat × Nat) := []
  fail : Option (Nat × Nat) := none
  /-- A page waits for the switch of its extent (R316 step 4). -/
  wait : Bool := false
  /-- A page's translation that needs Translation Requests (R77). -/
  ask : Option Trans := none
  deriving DecidableEq, Repr

/-- Stack and length of the HBM pieces of a translation. -/
def hbmBytes (l : List (Nat × Nat)) : List (Nat × Nat) := l.map (fun x => (x.1 / 2 ^ 36 % 4, x.2))

/-- The HBM address of a piece that the pass may read: an `HBM` page, or a `TIER` page in T1. -/
def State.kvAddr (s : State) (c : Piece) : Option Nat :=
  if c.kind = 0 then some c.base
  else if c.kind = 4 then (match s.extentOf c.space c.base with
    | some e => if s.extState e = 2 then some (s.extLoc e + c.base % 2 ^ 21) else none
    | none => none)
  else none

/-- Resolve page `i` of a job's list (R286 step 3). A page of an extent whose move is closed waits for the switch (R316 step
4); one checked as the switch is due is seen as before it, unless the job waits already, `late` (R299, R317). The translation comes
before the page's kind and home: a host page's may still fail, for which `hostFails` holds what its Translation Requests left. -/
def State.resolvePage (s : State) (n : Nat) (ws : List Word) (late : Bool) (hostFails : Option (List PageFail)) (f : AttnFind) (i : Nat)
    (entry : Word) : AttnFind × State :=
  let mask := fun (uses : List Use) (s : State) => ({ f with pages := f.pages ++ [none], uses := f.uses ++ uses }, s.bump TUN_ATTN_SKIP_COUNT)
  let stop := fun (cause st : Nat) (s : State) => ({ f with fail := some (i * 256 + cause, st) }, s)
  if f.fail.isSome || f.wait || f.ask.isSome then (f, s)
  else if bits entry 63 48 = 0 then
    let s := s.flag TUN_ATTN_STATUS_MISSING
    if bit (wd ws 6) 49 then mask [] s else stop 1 stACCESS_DENIED s
  else if bits entry 7 0 ≠ 0 ∨ (s.slotOf (faEp entry)).isNone then stop 3 stACCESS_DENIED s
  else
    let t := s.slotTrans n ((s.slotOf (faEp entry)).getD 0) entry.toNat (aPageSize ws)
    let t := if t.needs.isEmpty then t else match hostFails with
      | some fs => if fs.isEmpty then t else { t with fails := t.fails ++ fs, needs := [] }
      | none => t
    match decided t.fails t.needs with
    | some x => let (st, s) := s.jobFault n entry (aPageSize ws) x; stop 3 st s
    | none =>
      if !t.needs.isEmpty then ({ f with ask := some t }, s)
      else if !s.ownAddr entry || t.pieces.any (fun c => c.kind != 0 && c.kind != 4) then stop 3 stACCESS_DENIED s
      else if (s.closedIn t.pieces).any (fun m => late || !s.switchDue m) then ({ f with wait := true }, s)
      else
        let as := t.pieces.map (fun c => (s.kvAddr c, c.len))
        if as.any (fun a => a.1.isNone) then
          let s := (s.flag TUN_ATTN_STATUS_NOT_RESIDENT).bump TUN_ATTN_NOT_RESIDENT_COUNT
          if bit (wd ws 6) 50 then mask (t.pieces.flatMap (·.uses)) s else stop 2 stSTATE_CONFLICT s
        else
          let as := as.map (fun a => (a.1.getD 0, a.2))
          let s := (t.pieces.flatMap (·.uses)).foldl (fun s u => match u with | .extent e => s.touchExt e | _ => s) s
          let bs := as.flatMap (fun a => s.hbmRead a.1 a.2)
          let s := s.bumpBy TUN_ATTN_TOKEN_COUNT (min 64 (aTokens ws - 64 * i))
          ({ f with pages := f.pages ++ [some bs], uses := f.uses ++ t.pieces.flatMap (·.uses),
                    banks := f.banks ++ hbmBytes as }, s)

/-- A run of own memory that a job reads first (R286 step 1): its translation, or its failure. -/
def State.attnRun (s : State) (n : Nat) (a : Word) (len : Nat) : Trans × Option PageFail :=
  if s.ownAddr a then
    let t := s.ownTrans n a.toNat len
    (t, runsFail t)
  else (⟨[], [], []⟩, some ⟨0, stACCESS_DENIED, none⟩)

/-- The chunks of a job's query rows: addresses and bytes (R262, R286). -/
def queryChunks (ws : List Word) : List (Nat × Nat) :=
  (List.range (aRows ws)).flatMap (fun r =>
    (rowChunks (aFmt ws) (aD ws)).map (fun c => ((wd ws 1).toNat + 256 * aCq ws * r + 256 * c.1, chunkBytes (aFmt ws) c.2)))

/-- Stack and length of the HBM pieces among some. -/
def hbmPart (cs : List Piece) : List (Nat × Nat) := hbmBytes ((cs.filter (fun c => c.kind == 0)).map (fun c => (c.base, c.len)))

/-- `ATTN_JOB_START` (R286, R287, R297): the attention job at the head of the Tun resolves its pages; while one of them
waits for the switch of its extent, so does the job (R316), and while one waits for host translations (R77). The bytes counted are those of its `HBM` pages (R301; log 141). -/
def execAttnJobStart (s : State) : Host.Outcome State Fault Refusal :=
  match s.tunHead with
  | none => .next s
  | some x =>
    let ws := x.words
    let n := x.part
    let mine := takeFirst (fun (w : AtsWait) => w.who == .job x.id) s.xl.waits
    let out := match mine with | some (w, _) => !w.needs.isEmpty && (decided w.fails w.needs).isNone | none => false
    if dType (wd ws 0) ≠ 4 ∨ x.phase ≠ 0 ∨ x.fail.isSome ∨ out = true then .next s
    else
      let hostFails := mine.map (fun w => w.1.fails)
      let s := match mine with | some (_, rest) => { s with xl := { s.xl with waits := rest } } | none => s
      let fails := fun (cause st : Nat) (s : State) => s.setStep { x with phase := 1, fail := some (cause, st) }
      let qLen := (aRows ws - 1) * (256 * aCq ws) + rowSpan (aFmt ws) (aD ws)
      let (tp, fp) := s.attnRun n (wd ws 2) (8 * aPages ws)
      let (tq, fq) := s.attnRun n (wd ws 1) qLen
      match fp, fq with
      | some f, _ => let (st, s) := s.jobFault n (wd ws 2) (8 * aPages ws) f; .next (fails 3 st s)
      | none, some f => let (st, s) := s.jobFault n (wd ws 1) qLen f; .next (fails 3 st s)
      | none, none =>
        let entries := bytesWords (aPages ws) (tp.pieces.flatMap s.pieceBytes)
        let list := hbmPart tp.pieces
        let first := list ++ (queryChunks ws).flatMap (fun c => hbmPart (s.ownTrans n c.1 c.2).pieces)
        let f0 : AttnFind := { uses := (tp.pieces ++ tq.pieces).flatMap (·.uses), banks := first }
        let s0 := s
        let (f, s) := (entries.mapIdx (fun i e => (i, e))).foldl (fun a e => a.2.resolvePage n ws (x.todo == 1) hostFails a.1 e.1 e.2) (f0, s)
        if f.ask.isSome then .next (match f.ask with | some t => s0.atsWait (.job x.id) t false | none => s0)
        else if f.wait then .next (s0.setStep { x with todo := 1 })
        else match f.fail with
        | some (c, st) => .next ((fails c st s).bumpBy TUN_ATTN_HBM_BYTES (list.map (·.2)).sum)
        | none =>
          let q := (List.range (aRows ws)).map (fun r =>
            (s.readRow n (aFmt ws) (aD ws) ((wd ws 1).toNat + 256 * aCq ws * r)).flatten)
          let load := fun k => ((f.banks.filter (fun x => x.1 == k)).map (·.2)).sum
          let bad := (List.range 4).any (fun k => decide (cdiv (attnBytes ws) (attnSpread ws) < load k))
          let s := if bad then (s.flag TUN_ATTN_STATUS_SPREAD_MISS).bump TUN_ATTN_SPREAD_MISS_COUNT else s
          let s := s.bumpBy TUN_ATTN_HBM_BYTES (f.banks.map (·.2)).sum
          let w : AttnWork := ⟨x.id, f.pages, q, f.uses⟩
          let s := { s with tu := { s.tu with attn := [w] } }
          .next ((s.setStep { x with phase := 1, todo := 0 }).put TUN_ATTN_STATUS_STATE 2)

/-! ## Arithmetic (R288 to R291) -/

/-- A packed element at a bit offset. -/
def elemAt (bs : List Byte) (w o : Nat) : Nat := leNat ((bs.drop (o / 8)).take 2) / 2 ^ (o % 8) % 2 ^ w

/-- An element of a KV page with its block scale at a byte offset. -/
def kvElem (f : Nat) (bs : List Byte) (o scale : Nat) : FVal :=
  let b := elemAt bs (elemBits f) o
  if isMx f then mxValue f (bs.getD scale 0).toNat b else plainValue f b

/-- K of token `t` of a page, dimension `d` (R281). -/
def kvK (f dim : Nat) (bs : List Byte) (t d : Nat) : FVal :=
  kvElem f bs ((t * dim + d) * elemBits f) (128 * dim * elemBits f / 8 + t * dim / 32 + d / 32)

/-- V of dimension `d`, token `t` of a page (R281). -/
def kvV (f dim : Nat) (bs : List Byte) (t d : Nat) : FVal :=
  kvElem f bs ((64 * dim + d * 64 + t) * elemBits f) (128 * dim * elemBits f / 8 + 2 * dim + 2 * d + t / 32)

/-- Tokens of block `n` that row `r` sees, with their pages (R288). -/
def visible (ws : List Word) (pages : List (Option (List Byte))) (r n : Nat) : List (Nat × List Byte) :=
  let v := aTokens ws + r % aSpec ws + 1 - aSpec ws
  ((List.range 512).map (fun i => 512 * n + i)).filterMap (fun t =>
    if t < v ∧ t < aTokens ws then (pages.getD (t / 64) none).map (fun p => (t, p)) else none)

/-- The weights of one V block rounded to the page format, as exact values (R289 step 4). -/
def roundP (f : Nat) (ps : List Nat) : List FVal :=
  let vs := ps.map (fdecode fFP32)
  if isMx f then
    let (sc, es, _) := encodeBlock f vs
    es.map (fun b => mxValue f sc b)
  else vs.map (fun v => fdecode fBF16 (fencode fBF16 v).1)

/-- The block triple of a row (R289, R290): m, s and o as binary32 patterns; NaN in m marks a row that is NaN. -/
def blockTriple (ws : List Word) (q : List FVal) (vis : List (Nat × List Byte)) : List Nat :=
  let f := aFmt ws
  let dim := aD ws
  let empty := fMinusInf :: 0 :: List.replicate dim 0
  let scores := vis.map (fun x =>
    let dot := tunDot (chunksOf 32 (dim + 1) (q.mapIdx (fun d a => (kvK f dim x.2 (x.1 % 64) d, a))))
    fmul fFP32 dot (aScale ws))
  if scores.any (fun b => isNan fFP32 b || b == fPlusInf) then canonNan fFP32 :: canonNan fFP32 :: List.replicate dim (canonNan fFP32)
  else
    let m := scores.foldl (fun a b => if fkey fFP32 a < fkey fFP32 b then b else a) fMinusInf
    if m = fMinusInf then empty
    else
      let ps := scores.map (fun b => fexp (fsub fFP32 b m))
      let runs := (List.range 16).filterMap (fun c =>
        let g := (vis.zip ps).filter (fun x => x.1.1 % 512 / 32 == c)
        if g.isEmpty then none else some ((g.map (·.1)).zip (roundP f (g.map (·.2)))))
      let rounded := runs.flatMap (fun g => g.map (fun x => toF32 x.2))
      let s := match rounded with | [] => 0 | a :: r => r.foldl (fadd fFP32) a
      let o := (List.range dim).map (fun d =>
        tunDot (runs.map (fun g => g.map (fun x => (kvV f dim x.1.2 (x.1.1 % 64) d, x.2)))))
      m :: s :: o

/-- The triple of a row (R291). -/
def rowTriple (ws : List Word) (w : AttnWork) (r : Nat) : List Nat :=
  let bs := w.q.getD r []
  let f := aFmt ws
  let q := (rowValues f (aD ws) (((rowChunks f (aD ws)).foldl (fun (a : List (List Byte) × List Byte) c =>
    let n := chunkBytes f c.2
    (a.1 ++ [a.2.take n], a.2.drop n)) ([], bs)).1))
  let ts := (List.range (cdiv (aTokens ws) 512)).map (fun n => blockTriple ws q (visible ws w.pages r n))
  match ts with
  | [] => []
  | t :: rest => rest.foldl lseMerge (if lseBad t then lseNan t else t)

/-- The contributions of a row (R292). -/
def rowOutput (ws : List Word) (t : List Nat) : List (List Byte) :=
  (chunksOf (aEo ws) (t.length + 1) (t.drop 2)).map (fun o =>
    leBytes 4 (t.getD 0 0) ++ leBytes 4 (t.getD 1 0) ++
      pack (elemBits (aOut ws)) (o.map (fun b => (fencode (elemFmt (aOut ws)) (fdecode fFP32 b)).1)))

/-- The row of an attention job's output group is suspended or gone (R298). -/
def State.attnDown (s : State) (x : Step) : Bool := aOutKind x.words == 1 && s.rowDown x.part (wb x.words 6 48 37)

/-- `ATTN_OUTPUT` (R291, R292): the last block of the last row has been merged and the rows leave; of contributions, the
next one, so that a failure can come before the last (R298; log 144). The job has used its Tun cycles (log 58). -/
def execAttnOutput (s : State) : Host.Outcome State Fault Refusal :=
  match s.tunHead, s.tu.attn with
  | some x, w :: _ =>
    let ws := x.words
    let due := decide (x.phase = 1) || (decide (x.phase = 2) && aOutKind ws == 1 && decide (0 < x.todo))
    if dType (wd ws 0) ≠ 4 ∨ due = false ∨ x.fail.isSome ∨ s.attnDown x = true then .next s
    else
      let out := fun (t : State) =>
        let t := s.countBusy t x.id (attnCycles ws)
        if (t.step? x.id).any (fun y => y.phase == 2) then t.put TUN_ATTN_STATUS_STATE 3 else t
      let outs := (List.range (aRows ws)).flatMap (fun r => rowOutput ws (rowTriple ws w r))
      let dst := (wd ws 3).toNat
      if aOutKind ws = 0 then
        .next (out (s.emitPkts x.id 96 (outs.mapIdx (fun u b =>
          let a := BitVec.ofNat 64 (dst + 256 * u)
          jobForm s x (wd ws 6) 2 (faEp a) a 0 b))))
      else
        let grp := wb ws 6 48 37
        let root := match s.collRow x.part grp with | some g => s.get (RDX_COLL_B_ROOT_EP g) | none => s.selfId
        .next (out (s.emitContribs x.id root (outs.mapIdx (fun u b =>
          jobForm s x (wd ws 6) 5 root (faMake 0 (dst % 2 ^ 48 + 256 * u))
            (redWord grp 7 (aOut ws) 1 (wb ws 4 63 51) ((wb ws 5 61 32 + u) % 2 ^ 30)) b))))
  | _, _ => .next s

/-- An attention job whose output has all been sent and answered ends with `OK` (R298). -/
def State.attnDone (_s : State) (x : Step) : Option (Nat × Nat) :=
  if x.phase = 2 ∧ (if aOutKind x.words = 1 then x.todo = 0 else x.outstanding = 0) then some (0, 0) else none

/-- The status with which an attention job ends now, if it does, and its cause as page · 256 + cause (R298, R301); `parity`:
the page of a word that has failed. -/
def State.attnEnds (s : State) (x : Step) (parity : Option Nat) : Option (Nat × Nat) :=
  match x.fail with
  | some (c, st) =>
    if x.phase < 2 then some (st, c)
    else if aOutKind x.words = 1 then (if 0 < x.todo then some (st, 5) else some (0, 0))
    else if x.outstanding = 0 then some (st, 5) else none
  | none =>
    if s.attnDown x then some (stMEMBER_LOST, 6)
    else match parity with
      | some page => if x.phase = 1 then some (stPARITY, 256 * page + 4) else s.attnDone x
      | none => s.attnDone x

/-- `ATTN_JOB_END` (R298, R303). `parity`: a word of the running job has failed after two reads, of page `page` of the list
where it is a page's, and 0 otherwise (R301). -/
def execAttnJobEnd (now : Nat) (parity : Option (WordFault × Fin 1024)) (s : State) : Host.Outcome State Fault Refusal :=
  let js := (s.tu.jobs.filterMap s.step?).filter (fun x => dType (wd x.words 0) == 4)
  let bad := fun (x : Step) => if s.tu.jobs.head? == some x.id then parity.map (·.2.val) else none
  match js.find? (fun x => (s.attnEnds x (bad x)).isSome) with
  | none => .next s
  | some x =>
    let (st, c) := (s.attnEnds x (bad x)).getD (0, 0)
    let head := s.tu.jobs.head? == some x.id
    let s := if x.fail.isNone ∧ st = stPARITY then s.wordFault (parity.map (·.1)) else s
    let s := if x.phase = 1 ∧ s.tu.attn.isEmpty = false then s.partBusy (attnCycles x.words) else s
    let s := (s.closeWhole x).tunClear x
    let s := if head then s.put TUN_ATTN_STATUS_STATE 0 else s
    let s := if st = 0 then s else
      s.setReg TUN_ATTN_FAIL_INFO (mkWord [(28, 24, x.part), (23, 16, c % 256), (9, 0, c / 256)])
    let s := if st = stPARITY then (s.flag TUN_ATTN_STATUS_PARITY).bump TUN_ATTN_PARITY_COUNT else s
    .next ((s.bump TUN_ATTN_JOB_COUNT).tunNext.endStepSc x now st (if st = stSTATE_CONFLICT then scKV_NOT_RESIDENT else 0) 0)

end Sys2Proof.Machine
end

