-- ==== Sys2Proof/Machine/Seq.lean ====
section
/-! DEFINITION. The fabric instructions of sequencer threads (R332 to R339) and thread exceptions (R329). The operand is
the instruction that the thread issues (log 20). -/

namespace Sys2Proof.Machine

/-! ## Fields of an instruction (R332) -/

def iOp (i : BitVec 32) : Nat := nbits i.toNat 6 0
def iRd (i : BitVec 32) : Nat := nbits i.toNat 11 7
def iF3 (i : BitVec 32) : Nat := nbits i.toNat 14 12
def iRs1 (i : BitVec 32) : Nat := nbits i.toNat 19 15
def iRs2 (i : BitVec 32) : Nat := nbits i.toNat 24 20
def iTop (i : BitVec 32) : Nat := nbits i.toNat 31 25

/-! ## Exceptions -/

/-- A thread raises an exception and halts (R329). -/
def State.seqFault (s : State) (c t cause : Nat) : State :=
  let pc := (s.thread c t).pc
  let s := s.setReg SEQ_FAULT_INFO (mkWord [(49, 32, pc), (26, 22, t), (21, 12, c), (7, 0, cause)])
  ((s.flag SEQ_STATUS_FAULT).bump SEQ_FAULT_COUNT).haltThread c t

/-- Exception codes of the RISC-V Privileged Specification (R329). -/
def exFetch : Nat := 1
def exIllegal : Nat := 2
def exBreak : Nat := 3
def exLoadAlign : Nat := 4
def exLoad : Nat := 5
def exStoreAlign : Nat := 6
def exStore : Nat := 7
def exCall : Nat := 11

/-- `THREAD_EXCEPTION` (R329). -/
def execThreadException (c : Core) (t : Thread) (cause : BitVec 8) (s : State) : Host.Outcome State Fault Refusal :=
  if (s.thread c.val t.val).running then .next (s.seqFault c.val t.val cause.toNat) else .next s

/-- A thread issues a fabric instruction: the word is the named instruction, a reserved bit makes it illegal, and a
program counter outside instruction memory faults (R329, R330, R332); the core then switches (R327). An instruction that
must wait to be issued gives up the turn, too, and is issued again at its next (log 130). -/
def State.fabric (s : State) (c : Core) (t : Thread) (names reserved : Bool) (body : State → State) :
    Host.Outcome State Fault Refusal :=
  if !names || !s.ready c.val t.val then .next s
  else
    let s := s.issued c.val t.val true
    if 0x10000 < (s.thread c.val t.val).pc + 4 then .next (s.seqFault c.val t.val exFetch)
    else if reserved then .next (s.seqFault c.val t.val exIllegal)
    else .next (body s)

/-- The thread goes on to its next instruction, four bytes on. -/
def ThreadSt.next4 (h : ThreadSt) : ThreadSt := { h with pc := h.pc + 4 }

/-- A blocking instruction ends at once: its register takes a value and `seqst` a status (log 21). -/
def State.blockEnd (s : State) (c t rd v status : Nat) : State :=
  s.setThread c t { ((s.thread c t).next4.setX rd v) with seqst := status }

/-- The traffic class of a thread's request (R333). -/
def State.seqTc (s : State) (c : Nat) (b : Bool) : Nat := if s.on (SEQ_PART_CORES_SCHED_EN (s.corePart c)) && b then 1 else 0

/-- Posted requests and moves without replies have reached 16 (R336). -/
def State.postFull (s : State) (c t : Nat) : Bool := decide (16 ≤ (s.thread c t).posted.length)

/-- Send a blocking request, unless it is misaligned (R334). -/
def State.seqBlock (s : State) (c t rd : Nat) (aligned : Bool) (f : ReqForm) : State :=
  if !aligned then s.blockEnd c t rd 0 stACCESS_DENIED
  else
    let h := s.thread c t
    let q := h.nextSeq
    let s := s.setThread c t { h.next4 with nextSeq := q + 1, wait := .reply q rd }
    s.issueThread c t f.pkt (.thread c t q)

/-- Send a posted request of an instruction code of `seqerr` (R334, R337). -/
def State.seqPost (s : State) (c t code : Nat) (aligned : Bool) (f : ReqForm) : State :=
  let h := s.thread c t
  let q := h.nextSeq
  let s := s.setThread c t { h.next4 with nextSeq := q + 1, posted := h.posted ++ [(q, code)] }
  if aligned then s.issueThread c t f.pkt (.thread c t q) else s.postedDone c t q stACCESS_DENIED

/-! ## Loads, stores, atomics -/

/-- `RLD` (R332, R334). -/
def execRld (c : Core) (t : Thread) (ins : BitVec 32) (s : State) : Host.Outcome State Fault Refusal :=
  let w := ins.toNat
  s.fabric c t (iOp ins == 0x0B && decide (iF3 ins ≤ 3)) (iRs2 ins != 0 || nbits w 28 28 != 0 || nbits w 31 30 != 0) fun s =>
    let a := (s.thread c t).x (iRs1 ins)
    let n := 2 ^ iF3 ins
    s.seqBlock c t (iRd ins) (a % n == 0)
      { opcode := 1, part := s.corePart c, tc := s.seqTc c (nbits w 29 29 == 1), src := s.selfId, dst := faEp (BitVec.ofNat 64 a),
        addr := BitVec.ofNat 64 a, scope := nbits w 26 25, sem := nbits w 27 27, w3 := BitVec.ofNat 64 n }

/-- `RST` (R332, R334). At 16 posted requests it waits (R336). -/
def execRst (c : Core) (t : Thread) (ins : BitVec 32) (s : State) : Host.Outcome State Fault Refusal :=
  let w := ins.toNat
  s.fabric c t (iOp ins == 0x0B && decide (4 ≤ iF3 ins)) (iRd ins != 0 || nbits w 31 30 != 0) fun s =>
    let h := s.thread c t
    let a := h.x (iRs1 ins)
    let n := 2 ^ (iF3 ins - 4)
    let lc := nbits w 28 28 == 1
    if s.postFull c t then s
    else s.seqPost c t 0 (a % n == 0)
      { opcode := 2, part := s.corePart c, tc := s.seqTc c (nbits w 29 29 == 1), src := s.selfId, dst := faEp (BitVec.ofNat 64 a),
        addr := BitVec.ofNat 64 a, scope := nbits w 26 25, sem := 2 * nbits w 27 27,
        lcEn := lc && nbits h.seqlc 17 17 == 1, lcMode := lc && nbits h.seqlc 18 18 == 1,
        lcIdx := if lc then nbits h.seqlc 16 0 else 0, payload := leBytes n (h.x (iRs2 ins)) }

/-- `RAMO` (R332, R334): posted when rd is x0. -/
def execRamo (c : Core) (t : Thread) (ins : BitVec 32) (s : State) : Host.Outcome State Fault Refusal :=
  let w := ins.toNat
  let k := nbits w 28 25
  s.fabric c t (iOp ins == 0x2B) (decide (10 < k)) fun s =>
    let h := s.thread c t
    let a := h.x (iRs1 ins)
    let sz := nbits w 12 12
    let n := 4 * 2 ^ sz
    let rd := iRd ins
    let f : ReqForm :=
      { opcode := 3, part := s.corePart c, tc := s.seqTc c (nbits w 31 31 == 1), src := s.selfId, dst := faEp (BitVec.ofNat 64 a),
        addr := BitVec.ofNat 64 a, scope := nbits w 30 29, sem := nbits w 14 13,
        w3 := mkWord [(3, 0, k), (5, 4, sz), (6, 6, b2n (rd == 0))],
        payload := (if k = 1 then leBytes n (h.x rd) else []) ++ leBytes n (h.x (iRs2 ins)) }
    if rd = 0 then (if s.postFull c t then s else s.seqPost c t 1 (a % n == 0) f)
    else s.seqBlock c t rd (a % n == 0) f

/-! ## Waits and fences -/

/-- `WAITLC` (R334, R335). -/
def execWaitlc (c : Core) (t : Thread) (ins : BitVec 32) (s : State) : Host.Outcome State Fault Refusal :=
  s.fabric c t (iOp ins == 0x5B && iF3 ins == 0) (iTop ins != 0) fun s =>
    let h := s.thread c t
    let i := h.x (iRs1 ins)
    let target := h.x (iRs2 ins)
    if !s.lcShare (s.corePart c) i then s.blockEnd c t (iRd ins) stACCESS_DENIED stACCESS_DENIED
    else if reached (s.counter i) (BitVec.ofNat 64 target) then s.blockEnd c t (iRd ins) 0 0
    else
      let limit := if nbits h.seqwait 15 0 = 0 then none else some (nbits h.seqwait 15 0)
      s.setThread c t { h.next4 with wait := .lc i target limit (iRd ins) }

/-- End a `WAITLC` with a status (R328, R335). -/
def State.endWaitlc (s : State) (c t rd status : Nat) : State :=
  (s.setThread c t { ((s.thread c t).setX rd status) with seqst := status, wait := .none }).wake c t

/-- `WAITLC_WAKE` (R335): the counter has reached the target. -/
def execWaitlcWake (c : Core) (t : Thread) (s : State) : Host.Outcome State Fault Refusal :=
  match (s.thread c t).wait with
  | .lc i target _ rd => if reached (s.counter i) (BitVec.ofNat 64 target) then .next (s.endWaitlc c t rd 0) else .next s
  | _ => .next s

/-- `WAITLC_TIMEOUT` (R335): the limit passes; a target reached by then ends the wait with `OK`. -/
def execWaitlcTimeout (c : Core) (t : Thread) (s : State) : Host.Outcome State Fault Refusal :=
  match (s.thread c t).wait with
  | .lc i target (some 0) rd =>
    if reached (s.counter i) (BitVec.ofNat 64 target) then .next (s.endWaitlc c t rd 0)
    else .next ((s.bump SEQ_WAIT_TIMEOUT_COUNT).endWaitlc c t rd stTIMEOUT)
  | _ => .next s

/-- `WAITBEAT` (R334). -/
def execWaitbeat (c : Core) (t : Thread) (ins : BitVec 32) (s : State) : Host.Outcome State Fault Refusal :=
  let w := ins.toNat
  s.fabric c t (iOp ins == 0x5B && iF3 ins == 1) (iRs2 ins != 0 || nbits w 31 26 != 0) fun s =>
    let h := s.thread c t
    let b := h.x (iRs1 ins)
    if reached (s.reg TIME_BEAT_NOW) (BitVec.ofNat 64 b) then s.blockEnd c t (iRd ins) s.beat 0
    else s.setThread c t { h.next4 with wait := .beat b (nbits w 25 25 == 1) (iRd ins) }

/-- `WAITBEAT_WAKE` (R334): the chosen point of beat B has come. -/
def execWaitbeatWake (c : Core) (t : Thread) (s : State) : Host.Outcome State Fault Refusal :=
  let h := s.thread c t
  match h.wait with
  | .beat b _ rd =>
    if reached (s.reg TIME_BEAT_NOW) (BitVec.ofNat 64 b) then
      .next ((s.setThread c t { (h.setX rd s.beat) with seqst := 0, wait := .none }).wake c t)
    else .next s
  | _ => .next s

/-- `FENCE.S` (R137, R334): ends at once when nothing in its scope is open. -/
def execFenceS (c : Core) (t : Thread) (ins : BitVec 32) (s : State) : Host.Outcome State Fault Refusal :=
  let w := ins.toNat
  s.fabric c t (iOp ins == 0x5B && iF3 ins == 2) (iRd ins != 0 || iRs1 ins != 0 || iRs2 ins != 0 || nbits w 31 27 != 0) fun s =>
    let sc := nbits w 26 25
    if s.drained c t sc then s.blockEnd c t 0 0 0
    else s.setThread c t { (s.thread c t).next4 with wait := .fence sc }

/-! ## Landing counters -/

/-- Set a landing counter and answer the waits that it reaches (R149). -/
def State.lcPut (s : State) (i : Nat) (v : Word) : State := (s.setCounter i v).lcAdd i 0

/-- `LCSET` (R334). -/
def execLcset (c : Core) (t : Thread) (ins : BitVec 32) (s : State) : Host.Outcome State Fault Refusal :=
  s.fabric c t (iOp ins == 0x5B && iF3 ins == 3) (iTop ins != 0) fun s =>
    let h := s.thread c t
    let i := h.x (iRs1 ins)
    if s.lcShare (s.corePart c) i then (s.lcPut i (BitVec.ofNat 64 (h.x (iRs2 ins)))).blockEnd c t (iRd ins) 0 0
    else s.blockEnd c t (iRd ins) stACCESS_DENIED stACCESS_DENIED

/-- `LCREAD` (R334). -/
def execLcread (c : Core) (t : Thread) (ins : BitVec 32) (s : State) : Host.Outcome State Fault Refusal :=
  s.fabric c t (iOp ins == 0x5B && iF3 ins == 4) (iTop ins != 0 || iRs2 ins != 0) fun s =>
    let i := (s.thread c t).x (iRs1 ins)
    if s.lcShare (s.corePart c) i then s.blockEnd c t (iRd ins) (s.counter i).toNat 0
    else s.blockEnd c t (iRd ins) 0 stACCESS_DENIED

/-! ## Posting tiles and steps -/

/-- Where core `c`'s local memory lies in the sequencers' memory. -/
def coreBase (c : Nat) : Nat := 2 ^ 20 * c

/-- The exception of a read of an aligned block of data memory, if any (R330, R338, R339). -/
def dataFault (a n : Nat) : Option Nat :=
  if a % n ≠ 0 then some exLoadAlign else if 0x10000 ≤ a ∧ a + n ≤ 0x30000 then none else some exLoad

/-- `POSTTILE` (R338): a full queue, or 16 posted requests, makes the thread wait; so does an acquire whose reply has not
come (R141). -/
def execPosttile (c : Core) (t : Thread) (ins : BitVec 32) (s : State) : Host.Outcome State Fault Refusal :=
  s.fabric c t (iOp ins == 0x5B && iF3 ins == 5) (iTop ins != 0 || iRs2 ins != 0) fun s =>
    let h := s.thread c t
    let a := h.x (iRs1 ins)
    match dataFault a 32 with
    | some x => s.seqFault c t x
    | none =>
      let ws := bytesWords 4 (readBytes s.sq.mem (coreBase c + a) 32)
      let len := wb ws 2 20 0
      let mine := s.tr.queued.filter (fun m => m.mover == c.val % 64 && (match m.owner with | .thread .. => true | _ => false))
      if (wd ws 0).toNat % 64 ≠ 0 ∨ (wd ws 1).toNat % 64 ≠ 0 ∨ len % 64 ≠ 0 ∨ len < 64 ∨ 0x100000 < len then
        s.setThread c t (h.next4.setX (iRd ins) stACCESS_DENIED)
      else if 64 ≤ mine.length ∨ s.postFull c t ∨ s.acquired c t = false then s
      else
        let q := h.nextSeq
        let m := newMove (c.val % 64) (s.corePart c) (wd ws 0) (wd ws 1) len (s.seqTc c (bit (wd ws 2) 21)) (bit (wd ws 2) 41)
          (bit (wd ws 2) 42) (wb ws 2 40 24) (.thread c t q)
        let s := { s with tr := { s.tr with queued := s.tr.queued ++ [m] } }
        s.setThread c t { (h.next4.setX (iRd ins) 0) with nextSeq := q + 1, posted := h.posted ++ [(q, 2)] }

/-- `POSTSTEP` (R141, R339). Where the ring's memory does not take the write, nothing is posted and the status that rd receives
is free (log 22). -/
def execPoststep (c : Core) (t : Thread) (ins : BitVec 32) (s : State) : Host.Outcome State Fault Refusal :=
  s.fabric c t (iOp ins == 0x5B && iF3 ins == 6) (iTop ins != 0) fun s =>
    let h := s.thread c t
    let a := h.x (iRs1 ins)
    let r := h.x (iRs2 ins)
    let n := s.corePart c
    match dataFault a 64 with
    | some x => s.seqFault c t x
    | none =>
      let prod := s.get (RING_PROD_IDX n r)
      if 15 < r ∨ s.on (RING_BASE_EN n r) = false then s.blockEnd c t (iRd ins) stACCESS_DENIED stACCESS_DENIED
      else if s.acquired c t = false then s
      else if s.ringSize n r ≤ (prod + 2 ^ 32 - s.get (RING_CONS_IDX n r)) % 2 ^ 32 then
        s.blockEnd c t (iRd ins) stSTATE_CONFLICT stSTATE_CONFLICT
      else
        let at_ := s.get (RING_BASE_ADDR n r) * 4096 + 64 * (prod % s.ringSize n r)
        let (ok, s) := s.locWrite (s.get (RING_BASE_LOC n r)) at_ (readBytes s.sq.mem (coreBase c + a) 64)
        if ok then ((s.put (RING_PROD_IDX n r) (prod + 1)).ringFull n r).blockEnd c t (iRd ins) 0 0
        else
          let (v, s) := s.take
          s.blockEnd c t (iRd ins) (bits v 7 0) (bits v 7 0)

/-- `HALT` (R334): the thread halts once its posted requests have their replies. -/
def execHalt (c : Core) (t : Thread) (ins : BitVec 32) (s : State) : Host.Outcome State Fault Refusal :=
  s.fabric c t (iOp ins == 0x5B && iF3 ins == 7) (iTop ins != 0 || iRd ins != 0 || iRs1 ins != 0 || iRs2 ins != 0) fun s =>
    let h := s.thread c t
    if h.posted.isEmpty then s.haltThread c t else s.setThread c t { h with wait := .halting }

end Sys2Proof.Machine
end

