-- ==== Sys2Proof/Machine/Local.lean ====
section
/-! DEFINITION. Standard RISC-V instructions of sequencer threads on their core's local memory (R329 to R331, R337):
RV64IMA, with the compressed forms as the instructions they expand to. The spec names the base and the extensions only;
their meaning is that of the RISC-V specifications (log 20). -/

namespace Sys2Proof.Machine

/-! ## Integer arithmetic -/

def x64 (n : Nat) : Nat := n % 2 ^ 64
/-- The low 32 bits, sign-extended to 64. -/
def sext32 (n : Nat) : Nat := ofSigned 64 (toSigned 32 n)

/-- A register operation on `w`-bit operands. -/
def aluOp (op : AluOp) (w a b : Nat) : Nat :=
  let a := a % 2 ^ w
  let b := b % 2 ^ w
  let sa := toSigned w a
  let sb := toSigned w b
  match op with
  | .add => (a + b) % 2 ^ w
  | .sub => (a + 2 ^ w - b) % 2 ^ w
  | .sll => a * 2 ^ (b % w) % 2 ^ w
  | .slt => b2n (decide (sa < sb))
  | .sltu => b2n (decide (a < b))
  | .xor => Nat.xor a b
  | .srl => a / 2 ^ (b % w)
  | .sra => ofSigned w (sa / ((2 ^ (b % w) : Nat) : Int))
  | .or => Nat.lor a b
  | .and => Nat.land a b
  | .mul => a * b % 2 ^ w
  | .mulh => ofSigned w (sa * sb / ((2 ^ w : Nat) : Int))
  | .mulhsu => ofSigned w (sa * (b : Int) / ((2 ^ w : Nat) : Int))
  | .mulhu => a * b / 2 ^ w
  | .div => if b = 0 then 2 ^ w - 1 else ofSigned w (sa.tdiv sb)
  | .divu => if b = 0 then 2 ^ w - 1 else a / b
  | .rem => if b = 0 then a else ofSigned w (sa.tmod sb)
  | .remu => if b = 0 then a else a % b

/-- The operation has a 32-bit form. -/
def aluHasW (op : AluOp) : Bool :=
  match op with
  | .add | .sub | .sll | .srl | .sra | .mul | .div | .divu | .rem | .remu => true
  | _ => false

/-- The operation has an immediate form, and the immediate is one that it encodes. -/
def aluImmOk (op : AluOp) (w : Bool) (imm : Nat) : Bool :=
  match op with
  | .add => true
  | .slt | .sltu | .xor | .or | .and => !w
  | .sll | .srl | .sra => decide (imm < (if w then 32 else 64))
  | _ => false

def aluRun (op : AluOp) (w : Bool) (a b : Nat) : Nat := if w then sext32 (aluOp op 32 a b) else aluOp op 64 a b

def brTaken (op : BrOp) (a b : Nat) : Bool :=
  match op with
  | .eq => a == b
  | .ne => a != b
  | .lt => decide (toSigned 64 a < toSigned 64 b)
  | .ge => decide (toSigned 64 b ≤ toSigned 64 a)
  | .ltu => decide (a < b)
  | .geu => decide (b ≤ a)

def amoNew (op : AmoOp) (w old b : Nat) : Nat :=
  let lt := decide (toSigned w old < toSigned w b)
  match op with
  | .swap => b
  | .add => (old + b) % 2 ^ w
  | .xor => Nat.xor old b
  | .and => Nat.land old b
  | .or => Nat.lor old b
  | .min => if lt then old else b
  | .max => if lt then b else old
  | .minu => min old b
  | .maxu => max old b

/-! ## CSRs (R337) -/

/-- The value of a CSR; none where there is no such CSR. -/
def State.csr (s : State) (c t : Nat) (csr : Nat) : Option Nat :=
  let h := s.thread c t
  if csr = 0x800 then some h.seqlc
  else if csr = 0x801 then some h.seqwait
  else if csr = 0x802 then some h.seqerr
  else if csr = 0x803 then some h.seqst
  else if csr = 0xCC0 then some s.beat
  else if csr = 0xCC1 then some (t + c * 32 + s.corePart c * 65536)
  else none

/-! ## Local memory (R330, R331) -/

/-- The exception of a local access, if any: stores and atomics reach data memory only. -/
def localFault (a n : Nat) (write : Bool) : Option Nat :=
  if a % n ≠ 0 then some (if write then exStoreAlign else exLoadAlign)
  else if write then (if 0x10000 ≤ a ∧ a + n ≤ 0x30000 then none else some exStore)
  else if a + n ≤ 0x30000 then none else some exLoad

/-- Bytes of a core's local memory. -/
def State.localRead (s : State) (c a n : Nat) : Nat := leNat (readBytes s.sq.mem (coreBase c + a) n)

/-- Write a core's data memory: reservations of its other threads on the bytes are lost. -/
def State.localWrite (s : State) (c t a n v : Nat) : State :=
  let s := { s with sq := { s.sq with mem := writeBytes s.sq.mem (coreBase c + a) (leBytes n v) } }
  (List.range 32).foldl (fun s k =>
    match (s.thread c k).resv with
    | some (b, m) => if k ≠ t ∧ b < a + n ∧ a < b + m then s.setThread c k { s.thread c k with resv := none } else s
    | none => s) s

/-- The thread goes on at another address. -/
def State.goTo (s : State) (c t pc : Nat) : State := s.setThread c t { s.thread c t with pc := x64 pc }

/-- The thread's register takes a value and it goes on. -/
def State.setGo (s : State) (c t rd v pc : Nat) : State := s.setThread c t { ((s.thread c t).setX rd (x64 v)) with pc := x64 pc }

/-- A sign-extended immediate added to a number. -/
def addImm (a w imm : Nat) : Nat := ofSigned 64 ((a : Int) + toSigned w imm)

/-- One standard instruction; `step` is its length. -/
def State.localDo (s : State) (c t step : Nat) (op : LocalOp) : State :=
  let h := s.thread c t
  let pc := h.pc
  let next := pc + step
  match op with
  | .load k u rd rs1 imm =>
    let n := 2 ^ k.val
    let a := addImm (h.x rs1) 12 imm.toNat
    if k.val = 3 ∧ u = true then s.seqFault c t exIllegal
    else match localFault a n false with
      | some x => s.seqFault c t x
      | none =>
        let v := s.localRead c a n
        s.setGo c t rd (if u then v else ofSigned 64 (toSigned (8 * n) v)) next
  | .store k rs1 rs2 imm =>
    let n := 2 ^ k.val
    let a := addImm (h.x rs1) 12 imm.toNat
    match localFault a n true with
    | some x => s.seqFault c t x
    | none => (s.localWrite c t a n (h.x rs2)).goTo c t next
  | .lr d rd rs1 =>
    let n := if d then 8 else 4
    let a := h.x rs1
    match localFault a n false with
    | some x => s.seqFault c t x
    | none =>
      let s := s.setThread c t { h with resv := some (a, n) }
      s.setGo c t rd (ofSigned 64 (toSigned (8 * n) (s.localRead c a n))) next
  | .sc d rd rs1 rs2 =>
    let n := if d then 8 else 4
    let a := h.x rs1
    match localFault a n true with
    | some x => s.seqFault c t x
    | none =>
      let ok := h.resv == some (a, n)
      let s := if ok then s.localWrite c t a n (h.x rs2) else s
      (s.setThread c t { s.thread c t with resv := none }).setGo c t rd (b2n !ok) next
  | .amo op d rd rs1 rs2 =>
    let n := if d then 8 else 4
    let a := h.x rs1
    match localFault a n true with
    | some x => s.seqFault c t x
    | none =>
      let old := s.localRead c a n
      let s := s.localWrite c t a n (amoNew op (8 * n) old (h.x rs2 % 2 ^ (8 * n)))
      s.setGo c t rd (ofSigned 64 (toSigned (8 * n) old)) next
  | .fence => s.goTo c t next
  | .alu op w rd rs1 rs2 =>
    if w && !aluHasW op then s.seqFault c t exIllegal
    else s.setGo c t rd (aluRun op w (h.x rs1) (h.x rs2)) next
  | .alui op w rd rs1 imm =>
    if !aluImmOk op w imm.toNat then s.seqFault c t exIllegal
    else s.setGo c t rd (aluRun op w (h.x rs1) (ofSigned 64 (toSigned 12 imm.toNat))) next
  | .lui rd imm => s.setGo c t rd (sext32 (imm.toNat * 4096)) next
  | .auipc rd imm => s.setGo c t rd (pc + sext32 (imm.toNat * 4096)) next
  | .jal rd imm => s.setGo c t rd next (addImm pc 21 (imm.toNat / 2 * 2))
  | .jalr rd rs1 imm => s.setGo c t rd next (addImm (h.x rs1) 12 imm.toNat / 2 * 2)
  | .branch op rs1 rs2 imm =>
    s.goTo c t (if brTaken op (h.x rs1) (h.x rs2) then addImm pc 13 (imm.toNat / 2 * 2) else next)
  | .csrr rd csr =>
    match s.csr c t csr.toNat with
    | some v => s.setGo c t rd v next
    | none => s.seqFault c t exIllegal
  | .ecall => s.seqFault c t exCall
  | .ebreak => s.seqFault c t exBreak

/-- `LOCAL_ACCESS` (R327, R329 to R331). -/
def execLocalAccess (c : Core) (t : Thread) (op : LocalOp) (compressed : Bool) (s : State) : Host.Outcome State Fault Refusal :=
  if !s.ready c.val t.val then .next s
  else
    let s := s.issued c.val t.val false
    if 0x10000 < (s.thread c.val t.val).pc + (if compressed then 2 else 4) then .next (s.seqFault c.val t.val exFetch)
    else .next (s.localDo c.val t.val (if compressed then 2 else 4) op)

/-- `CSR_WRITE` (R337): the CSR's old value goes to rd. Any write of `seqerr` clears it. -/
def execCsrWrite (c : Core) (t : Thread) (op : CsrOp) (rd : Fin 32) (csr : BitVec 12) (v : Word) (s : State) :
    Host.Outcome State Fault Refusal :=
  let c := c.val
  let t := t.val
  if !s.ready c t then .next s
  else
    let s := s.issued c t false
    if 0x10000 < (s.thread c t).pc + 4 then .next (s.seqFault c t exFetch)
    else if csr = 0x800 ∨ csr = 0x801 ∨ csr = 0x802 then
      let old := (s.csr c t csr.toNat).getD 0
      let o := BitVec.ofNat 64 old
      let new := (match op with | .rw => v | .rs => o ||| v | .rc => o &&& ~~~v).toNat
      let h := s.thread c t
      let h := if csr = 0x800 then { h with seqlc := nbits new 18 0 }
        else if csr = 0x801 then { h with seqwait := nbits new 15 0 } else { h with seqerr := 0 }
      .next ((s.setThread c t h).setGo c t rd.val old (h.pc + 4))
    else .next (s.seqFault c t exIllegal)

end Sys2Proof.Machine
end

