-- ==== Sys2Proof/Machine/MbXlat.lean ====
section
/-! DEFINITION. Mailbox commands of the time base and of translation (R32, R62 to R73, R93, R547 to R549). -/

namespace Sys2Proof.Machine

/-! ## Shared forms -/

/-- Payload word `i` after the selector: word 0 is payload word 2. -/
def State.arg (s : State) (m i : Nat) : Word := s.cmd m (2 + i)

/-- A register with the bits of a mask written from a word (R393). -/
def State.setMask (s : State) (k : Key) (mask : Nat) (v : Word) : State :=
  let b := BitVec.ofNat 64 mask
  s.setReg k ((s.reg k &&& ~~~b) ||| (v &&& b))

/-- A count of 0 means 1 (R548). -/
def State.cmdRun (s : State) (m : Nat) : Nat := max 1 (s.cmdCount m)

/-- A specification of a command of the primary mailbox alone. -/
def primary (opcode need : Nat) (naming : Bool := false) : MbSpec := { opcode := opcode, need := need, naming := naming }

/-- A specification of a command of every mailbox. -/
def tenant (opcode need : Nat) : MbSpec := { opcode := opcode, need := need, tenant := true }

/-! ## Time base -/

/-- `TIME_GRID_SET` (R32, R33). -/
def execTimeGridSet (m : Mbx) (s : State) : Host.Outcome State Fault Refusal :=
  let m := m.val
  let w := s.arg m 0
  let t := ((s.put TIME_PENDING_PEND_VALID 1).put TIME_PENDING_PEND_BEAT_LEN (bits w 1 0)).put TIME_PENDING_PEND_SCHED_FRAC (bits w 7 4)
  s.mb { primary 0x101 2 with kept := true } m true
    (if s.get TIME_STATUS_ROLE ≠ 2 then conflict scNOT_TIME_ROOT
     else if s.on TIME_PENDING_PEND_VALID then conflict scGRID_PENDING
     else .done [] (t.wr TIME_PENDING_AT (s.beat + 256)))

/-- `TIME_CONFIG_SET` (R62, R393). -/
def execTimeConfigSet (m : Mbx) (s : State) : Host.Outcome State Fault Refusal :=
  let m := m.val
  let t := (s.setMask TIME_CONFIG 0xFF00 (s.arg m 0)).setReg TIME_GUARD (s.arg m 1)
  let t := ((t.setReg TIME_FIBRE_ALLOW (s.arg m 2)).setReg TIME_DEFER_LIMIT (s.arg m 3)).setReg TIME_BARRIER_LIMIT (s.arg m 4)
  s.mb { primary 0x102 6 with kept := true } m true (.done [] t.fibreLow)

/-! ## Endpoints and shares -/

/-- `XLAT_EP_SET` (R64): no identifier is 0, no two are equal; fabric peers are told (R462), and a new `SELF_ID` is written
to the boot record (R513). -/
def execXlatEpSet (m : Mbx) (s : State) : Host.Outcome State Fault Refusal :=
  let m := m.val
  let a := s.arg m 0
  let b := s.arg m 1
  let ids := (bits a 15 0 :: (List.range 4).map (fun i => bits b (16 * i + 15) (16 * i))) ++ [bits a 31 16]
  let set := ids.filter (fun e => e != 0xFFFF)
  let t := (s.setMask XLAT_EP_SELF 0xFFFFFFFF a).setReg XLAT_EP_ACCEL b
  let peers := (List.range 96).filter (fun i => s.get (HEALTH_PEER_A_STATE i) != 0 && mget none s.he.slots i == none)
  let t := (List.range 96).foldl (fun t i => t.showSlot i) t
  let t := peers.foldl (fun t i => t.sendOwned i) t
  let t := if bits a 15 0 = s.selfId then t else t.putRecord { s.rs.boot with selfId := bits a 15 0 }
  s.mb (primary 0x201 3) m true
    (if set.contains 0 ∨ set.eraseDups.length ≠ set.length then denied else .done [] t.arbView)

/-- `XLAT_ATS_SET` (R94). -/
def execXlatAtsSet (m : Mbx) (s : State) : Host.Outcome State Fault Refusal :=
  let m := m.val
  let w := s.arg m 0
  s.mb (primary 0x202 2) m (decide (1 ≤ bits w 31 16)) (.done [] (s.setMask XLAT_ATS_CONFIG 0xFFFF0001 w))

/-- `XLAT_FQ_SET` (R399). -/
def execXlatFqSet (m : Mbx) (s : State) : Host.Outcome State Fault Refusal :=
  let m := m.val
  let n := bits (s.cmd m 1) 4 0
  let t := ((s.setMask (XLAT_FQ_BASE n) 0xFFFFFFFFFFFFF003 (s.arg m 0)).wr (XLAT_FQ_PROD n) 0).wr (XLAT_FQ_CONS n) 0
  let units := if bit (s.arg m 0) 0 then locUnits (bits (s.arg m 0) 1 1) else []
  s.mb { primary 0x203 2 true with units := units } m true (.done [] (t.fqFull n))

/-- Ranges of entries that overlap; an empty range overlaps none. -/
def overlaps (f1 c1 f2 c2 : Nat) : Bool := decide (0 < c1) && decide (0 < c2) && decide (f1 < f2 + c2) && decide (f2 < f1 + c1)

/-- Another partition's range of a share register overlaps. -/
def State.shareOverlap (s : State) (n : Nat) (first count : Nat → Fld) (f c : Nat) : Bool :=
  (List.range 32).any (fun k => k != n && overlaps f c (s.get (first k)) (s.get (count k)))

/-- An index lies in the part of an old range that a new one gives up. -/
def givenUp (f c f' c' i : Nat) : Bool := decide (f ≤ i) && decide (i < f + c) && !(decide (f' ≤ i) && decide (i < f' + c'))

/-- `XLAT_SHARE_SET` (R547). -/
def execXlatShareSet (m : Mbx) (s : State) : Host.Outcome State Fault Refusal :=
  let m := m.val
  let n := bits (s.cmd m 1) 4 0
  let w := s.arg m 0
  let f := bits w 14 0
  let c := bits w 31 16
  let of_ := s.get (XLAT_PART_PAGES_FIRST n)
  let oc := s.get (XLAT_PART_PAGES_COUNT n)
  s.mb (primary 0x209 2 true) m true (s.spargeGuard m n
    (if 32768 < f + c ∨ s.shareOverlap n XLAT_PART_PAGES_FIRST XLAT_PART_PAGES_COUNT f c = true then denied
     else if s.xl.page0.any (fun e => pgValid e.2 && givenUp of_ oc f c e.1) then conflict scSHARE_IN_USE
     else .done [] (s.setMask (XLAT_PART_PAGES n) 0xFFFF7FFF w)))

/-! ## Windows and pages (R68 to R73, R548) -/

/-- The kind is allowed on an endpoint slot (R70); an `ACCEL` page needs an assigned slot (R72). -/
def State.kindOn (s : State) (slot kind : Nat) : Bool :=
  match kind with
  | 0 | 1 | 4 => slot == 0
  | 2 => slot == 0 || slot == 5
  | 3 => 1 ≤ slot && slot ≤ 4 && s.slotId slot != 0xFFFF
  | _ => false

/-- The run of page entries lies in the partition's share. -/
def State.inPageShare (s : State) (n f c : Nat) : Bool :=
  s.get (XLAT_PART_PAGES_FIRST n) ≤ f && f + c ≤ s.get (XLAT_PART_PAGES_FIRST n) + s.get (XLAT_PART_PAGES_COUNT n)

/-- A window of a lending agreement (R318). -/
def State.lentWindow (s : State) (win : Nat) : Bool :=
  (List.range 8).any (fun i => s.get (MEM_LEND_OUT_STATE i) == 1 && s.get (MEM_LEND_OUT_WIN i) == win)

/-- A page entry of a lent window. -/
def State.lentPage (s : State) (i : Nat) : Bool :=
  (List.range 64).any (fun win => s.lentWindow win &&
    (let d := mget 0 s.xl.winDir win; dirValid d && dirFirst d ≤ i && i < dirFirst d + dirCount d))

/-- End a change: at once when nothing uses the old entries, or later (R73). -/
def State.changeWait (s : State) (m : Nat) (uses : List Use) : MbRes :=
  if uses.any s.useHeld then
    let c : TrChange := ⟨m, uses⟩
    .wait { s with xl := { s.xl with changes := s.xl.changes ++ [c] } }
  else .done [] s

/-- A directory entry may stand in a window of `slot` (R68, R72; log 136). -/
def State.dirOk (s : State) (n slot : Nat) (d : Word) : Bool :=
  !dirValid d || (1 ≤ dirCount d && dirCount d ≤ 4096 && s.inPageShare n (dirFirst d) (dirCount d) &&
    (s.xl.page0.filter (fun e => decide (dirFirst d ≤ e.1) && decide (e.1 < dirFirst d + dirCount d) && pgValid e.2)).all
      (fun e => s.kindOn slot (pgKind e.2)))

/-- The reserved bits of a directory entry and of a page entry's word 0 read 0. -/
def dirMask : Word := 0x7FFF001FFF1F
def pageMask : Word := 0xFFFFF00001FFF

/-- `XLAT_WINDOW_SET` (R68, R72, R73, R318, R453, R548). -/
def execXlatWindowSet (m : Mbx) (s : State) : Host.Outcome State Fault Refusal :=
  let m := m.val
  let n := bits (s.cmd m 1) 4 0
  let slot := s.cmdIdx m / 64
  let win := s.cmdIdx m % 64
  let c := s.cmdRun m
  let es := (List.range (min c 223)).map (fun i => (384 * n + 64 * slot + win + i, s.arg m i &&& dirMask))
  let t := es.foldl (fun t e => { t with xl := { t.xl with winDir := mset 0 t.xl.winDir e.1 e.2 } }) s
  s.mb (tenant 0x204 (1 + c)) m (decide (slot ≤ 5) && decide (win + c ≤ 64)) (s.spargeGuard m n
    (if n = 0 ∧ slot = 0 ∧ win + c = 64 then conflict scCONTROL_WINDOW
     else if n = 0 ∧ slot = 0 ∧ (List.range (min c 64)).any (fun i => s.lentWindow (win + i)) = true then conflict scLENT_WINDOW
     else if !es.all (fun e => s.dirOk n slot e.2) then denied
     else t.changeWait m (es.map (fun e => Use.dir e.1))))

/-- The units that the valid entries of a `XLAT_PAGE_SET` name (R3, R70). -/
def State.pageUnits (s : State) (m c : Nat) : List Fld :=
  ((List.range (min c 223)).filter (fun i => pgValid (s.arg m (2 * i)))).flatMap (fun i => match pgKind (s.arg m (2 * i)) with
    | 0 | 4 => [GLOBAL_OPTIONS_HBM_PRESENT]
    | 1 => [GLOBAL_OPTIONS_TUN_PRESENT]
    | 2 => [GLOBAL_OPTIONS_CXL_PRESENT]
    | _ => [])

/-- A page entry that a `XLAT_PAGE_SET` may write (R70, R72); the `PASID` of a kind other than `HOST` is kept as it is given
(R69; log 147, DESIGN CHOICE). -/
def State.pageOk (s : State) (n i : Nat) (w0 w1 : Word) : Bool :=
  let k := pgKind w0
  let o := w1.toNat
  let aligned := if k = 1 then o % 65536 == 0 else o % 2 ^ 30 == 0
  pgOwner w0 == n && aligned && (k != 0 || s.inHbmShare n o (2 ^ 30)) &&
    (k != 1 || decide (o < 65536 * s.get (TUN_PART_SHARE_COUNT n))) &&
    (!pgValid w0 || (s.xl.winDir.filter (fun d => d.1 / 384 == n && dirValid d.2 && decide (dirFirst d.2 ≤ i) &&
      decide (i < dirFirst d.2 + dirCount d.2))).all (fun d => s.kindOn (d.1 % 384 / 64) k))

/-- The state with both words of a page entry set. -/
def State.setPage (s : State) (i : Nat) (w0 w1 : Word) : State :=
  { s with xl := { s.xl with page0 := mset 0 s.xl.page0 i w0, page1 := mset 0 s.xl.page1 i w1 } }

/-- `XLAT_PAGE_SET` (R69, R70, R72, R73, R318, R548). A page command names no window, and window 63 of partition 0 has
no page (log 31). -/
def execXlatPageSet (m : Mbx) (s : State) : Host.Outcome State Fault Refusal :=
  let m := m.val
  let n := bits (s.cmd m 1) 4 0
  let f := s.cmdIdx m
  let c := s.cmdRun m
  let es := (List.range (min c 223)).map (fun i => (f + i, s.arg m (2 * i) &&& pageMask, s.arg m (2 * i + 1)))
  let t := es.foldl (fun t e => t.setPage e.1 e.2.1 e.2.2) s
  s.mb { tenant 0x205 (1 + 2 * c) with units := s.pageUnits m c } m
    (decide (f + c ≤ 32768) && es.all (fun e => decide (pgKind e.2.1 ≤ 4))) (s.spargeGuard m n
    (if n = 0 ∧ es.any (fun e => s.lentPage e.1) = true then conflict scLENT_WINDOW
     else if !(s.inPageShare n f c && es.all (fun e => s.pageOk n e.1 e.2.1 e.2.2)) then denied
     else t.changeWait m (es.map (fun e => Use.page e.1))))

/-- `XLAT_PAGE_CLEAR` (R73): the entries are `VALID` 0. It and `XLAT_PAGE_GET` name entries of the partition's own share
(log 29). -/
def execXlatPageClear (m : Mbx) (s : State) : Host.Outcome State Fault Refusal :=
  let m := m.val
  let n := bits (s.cmd m 1) 4 0
  let f := s.cmdIdx m
  let c := s.cmdRun m
  let is := (List.range (min c 32768)).map (· + f)
  let t := is.foldl (fun t i => t.setPage i 0 0) s
  s.mb (tenant 0x206 1) m (decide (f + c ≤ 32768)) (s.spargeGuard m n
    (if !s.inPageShare n f c then denied else t.changeWait m (is.map Use.page)))

/-- `XLAT_PAGE_GET` (R393, R548): as many entries as a response holds (log 30). -/
def execXlatPageGet (m : Mbx) (s : State) : Host.Outcome State Fault Refusal :=
  let m := m.val
  let f := s.cmdIdx m
  let c := s.cmdRun m
  let ws := (List.range (min c 63)).flatMap (fun i => [mget 0 s.xl.page0 (f + i), mget 0 s.xl.page1 (f + i)])
  s.mb (tenant 0x207 1) m (decide (f + c ≤ 32768) && decide (2 * c ≤ 127))
    (if !s.inPageShare (bits (s.cmd m 1) 4 0) f c then denied else .done ws s)

/-- `TRANSLATION_CHANGE_DONE` (R73): nothing uses the old entries any more. -/
def execTranslationChangeDone (m : Mbx) (s : State) : Host.Outcome State Fault Refusal :=
  let mine := s.xl.changes.filter (fun c => c.mbx == m.val)
  if mine.isEmpty ∨ s.hm.held.contains m.val ∨ mine.any (fun c => c.uses.any s.useHeld) then .next s
  else .next ({ s with xl := { s.xl with changes := s.xl.changes.filter (fun c => c.mbx != m.val) } }.mbComplete m.val 0 0 [])

/-- `XLAT_ATS_PREFETCH` (R82, R549). It writes no fault record, whichever check fails (log 145, DESIGN CHOICE). -/
def execXlatAtsPrefetch (m : Mbx) (s : State) : Host.Outcome State Fault Refusal :=
  let m := m.val
  let n := bits (s.cmd m 1) 4 0
  let a := s.arg m 0
  let len := bits (s.arg m 1) 31 0
  let write := bit (s.arg m 1) 32
  let body :=
    match s.slotOf (faEp a) with
    | none => denied
    | some slot =>
      if 2 ^ 42 < faLow a % 2 ^ 42 + len then denied
      else if !s.partActive n then denied
      else
        let (t, s) := s.translate n slot (faLow a) len (if write then 2 else 1) write
        if t.needs.isEmpty then .ends (match lowestFail t.fails with | some f => f.status | none => 0) s
        else .wait (s.atsWait (.prefetch m) t write)
  s.mb (tenant 0x208 3) m (decide (1 ≤ len) && decide (len ≤ 0x80000000)) body

end Sys2Proof.Machine
end

