-- ==== Sys2Proof/Machine/MbFabric.lean ====
section
/-! DEFINITION. Mailbox commands of the tracker, the landing counters, the directory, the switch core and the buffer
pools (R128, R149, R158, R161, R164 to R171, R190, R197, R198, R400). -/

namespace Sys2Proof.Machine

/-! ## Tracker and counters -/

/-- `TRACK_CONFIG_SET` (R128). -/
def execTrackConfigSet (m : Mbx) (s : State) : Host.Outcome State Fault Refusal :=
  let m := m.val
  let w := s.arg m 0
  s.mb (primary 0x301 2) m (bits w 47 32 != 0 && bits w 31 16 != 0 && bits w 15 0 != 0) (.done [] (s.setMask TRACK_CONFIG 0xFFFFFFFFFFFF w))

/-- `TRACK_SHARE_SET` (R128). -/
def execTrackShareSet (m : Mbx) (s : State) : Host.Outcome State Fault Refusal :=
  let m := m.val
  let n := bits (s.cmd m 1) 4 0
  let t := s.setMask (TRACK_PART_SHARE n) 0x1FFFFF (s.arg m 0)
  s.mb (primary 0x302 2 true) m true (s.spargeGuard m n
    (if 1048576 < ((List.range 32).map (fun k => t.get (TRACK_PART_SHARE_COUNT k))).sum then denied else .done [] t))

/-- `LC_SHARE_SET` (R161). -/
def execLcShareSet (m : Mbx) (s : State) : Host.Outcome State Fault Refusal :=
  let m := m.val
  let n := bits (s.cmd m 1) 4 0
  let w := s.arg m 0
  let f := bits w 16 0
  let c := bits w 49 32
  s.mb (primary 0x303 2 true) m true (s.spargeGuard m n
    (if 131072 < f + c ∨ s.shareOverlap n TRACK_LC_SHARE_FIRST TRACK_LC_SHARE_COUNT f c = true then denied
     else .done [] (s.setMask (TRACK_LC_SHARE n) 0x3FFFF0001FFFF w)))

/-- `LC_READ` (R147, R400). -/
def execLcRead (m : Mbx) (s : State) : Host.Outcome State Fault Refusal :=
  let m := m.val
  let i := s.cmdIdx m
  let v := s.counter i
  s.mb (tenant 0x304 2) m true
    (if !s.lcShare (bits (s.cmd m 1) 4 0) i then denied
     else .done [v, BitVec.ofNat 64 (b2n (reached v (s.arg m 0)))] s)

/-- `LC_SET` (R149). -/
def execLcSet (m : Mbx) (s : State) : Host.Outcome State Fault Refusal :=
  let m := m.val
  let i := s.cmdIdx m
  s.mb (tenant 0x305 2) m true
    (if !s.lcShare (bits (s.cmd m 1) 4 0) i then denied else .done [] (s.lcPut i (s.arg m 0)))

/-- `DIR_CONFIG_SET` (R158, R160). -/
def execDirConfigSet (m : Mbx) (s : State) : Host.Outcome State Fault Refusal :=
  let m := m.val
  let w := s.arg m 0
  let c := { primary 0x306 2 with units := [GLOBAL_OPTIONS_HBM_PRESENT] }
  .next (s.mbRun c m (bits w 31 16 != 0) (.wait (s.setMask MEM_DIR_CONFIG 0xFFFF001F w))).dirSettle

/-! ## Route banks (R162 to R171) -/

/-- The run of a load in a table of `n` entries of `z` bytes: first entry and count, when the buffer's length fits. -/
def State.loadRun (s : State) (m n z : Nat) : Option (Nat × Nat) :=
  let c := if s.cmdCount m = 0 then s.bulkLen m / z else s.cmdCount m
  if s.bulkLen m = c * z ∧ s.cmdIdx m + c ≤ n then some (s.cmdIdx m, c) else none

/-- A load of the spare bank is refused in these states (R171). -/
def State.bankBusy (s : State) (r : MbRes) : MbRes :=
  if s.on XBAR_STATUS_PEND then conflict scEPOCH_PENDING
  else if s.on XBAR_STATUS_DRAINING then conflict scBANK_DRAINING
  else r

/-- The spare bank. -/
def State.spareBank (s : State) : Nat := 1 - s.get XBAR_CONFIG_ACTIVE_BANK

/-- Port group `g` of a bank has a member. -/
def State.groupFull (s : State) (bank g : Nat) : Bool :=
  mget 0 s.xb.groups (512 * bank + 2 * g) != 0 || mget 0 s.xb.groups (512 * bank + 2 * g + 1) != 0

/-- A route entry may be loaded for an endpoint (R164). -/
def State.routeOk (s : State) (bank e : Nat) (w : Word) : Bool :=
  !bit w 0 || (e != 0 && e != 0xFFFF && bit w 1 == s.owns e && bits w 3 2 != 3 && (bit w 1 || s.groupFull bank (bits w 23 16)))

/-- A load's bytes, given to `f`, or the status of a failed read. -/
def State.bulkBody (s : State) (m : Nat) (a : Reply) (f : List Byte → MbRes) : MbRes :=
  match s.bulkRead m a with
  | .error st => .ends st (s.bulkFault m)
  | .ok bs => f bs

/-- `XBAR_ROUTE_LOAD` (R164, R171). -/
def execXbarRouteLoad (m : Mbx) (host : Reply) (s : State) : Host.Outcome State Fault Refusal :=
  let m := m.val
  let b := s.spareBank
  s.mb { primary 0x401 3 with kept := true, units := locUnits (s.bulkLoc m), bulk := true } m (s.bulkOk m) (s.bankBusy
    (match s.loadRun m 65536 8 with
    | none => denied
    | some (f, c) => s.bulkBody m host fun bs =>
      let es := (List.range c).zip (bytesWords c bs)
      if es.all (fun e => s.routeOk b (f + e.1) e.2) then
        .done [] (es.foldl (fun s e => { s with xb := { s.xb with routes := mset 0 s.xb.routes (65536 * b + f + e.1) (e.2 &&& 0xFFFF3F1F) } }) s)
      else denied))

/-- `XBAR_GROUP_LOAD` (R163, R164, R171). -/
def execXbarGroupLoad (m : Mbx) (host : Reply) (s : State) : Host.Outcome State Fault Refusal :=
  let m := m.val
  let b := s.spareBank
  s.mb { primary 0x402 3 with kept := true, units := locUnits (s.bulkLoc m), bulk := true } m (s.bulkOk m) (s.bankBusy
    (match s.loadRun m 256 16 with
    | none => denied
    | some (f, c) => s.bulkBody m host fun bs =>
      let es := (List.range (2 * c)).zip (bytesWords (2 * c) bs)
      let t := es.foldl (fun s e =>
        let w := if e.1 % 2 = 1 then e.2 &&& 0xFFFFFFFF else e.2
        { s with xb := { s.xb with groups := mset 0 s.xb.groups (512 * b + 2 * f + e.1) w } }) s
      let mine := t.xb.routes.filter (fun e => e.1 / 65536 == b && bit e.2 0 && !bit e.2 1)
      if mine.all (fun e => t.groupFull b (bits e.2 23 16)) then .done [] t else denied))

/-- `XBAR_EPOCH_SWITCH` (R169). -/
def execXbarEpochSwitch (m : Mbx) (s : State) : Host.Outcome State Fault Refusal :=
  let m := m.val
  let b := (s.arg m 0).toNat
  s.mb { primary 0x403 2 with kept := true } m true
    (if s.on XBAR_STATUS_PEND then conflict scEPOCH_PENDING
     else if b ≤ s.beat + 1 then conflict scEPOCH_PAST
     else if !s.locked then conflict scNOT_LOCKED
     else .done [] ((s.flag XBAR_STATUS_PEND).wr XBAR_EPOCH_AT b))

/-- `XBAR_CONFIG_SET` (R6, R181, R197): the first write of `CELL_RSVD` since power-on reset sets and locks it. -/
def execXbarConfigSet (m : Mbx) (s : State) : Host.Outcome State Fault Refusal :=
  let m := m.val
  let w := s.arg m 0
  let t := s.setMask XBAR_CONFIG 0xFFFF00003FF00000 w
  let t := if s.xb.rsvdLocked then t
    else
      let t := t.put XBAR_CONFIG_CELL_RSVD (bits w 47 30)
      let t := { t with xb := { t.xb with rsvdLocked := true } }
      let cells := mget [] t.pl.bufs 0
      (t.setBufs 0 cells (t.poolSize 0 - (cells.filter (fun e => e.2.inUse)).length)).poolServe
  s.mb { primary 0x404 2 with kept := true } m
    (bits w 63 48 != 0 && decide (bits w 47 30 ≤ 131072) && bits w 29 20 != 0) (.done [] t)

/-- `XBAR_PORT_SET` (R197). -/
def execXbarPortSet (m : Mbx) (s : State) : Host.Outcome State Fault Refusal :=
  let m := m.val
  let w := s.arg m 0
  let a := bits w 4 2
  s.mb { primary 0x405 2 with kept := true } m (decide (s.cmdIdx m < 98) && (decide (a < 4) || a == 7))
    (.done [] (s.setMask (XBAR_PORT_CFG (s.cmdIdx m)) 0x1F w))

/-! ## Pools -/

/-- The unit of pool `k`: pool 3 is absent with the Tun store (R189, R198). -/
def poolUnits (k : Nat) : List Fld := if k = 3 then [GLOBAL_OPTIONS_TUN_PRESENT] else []

/-- `POOL_WARN_SET` (R191, R198). -/
def execPoolWarnSet (m : Mbx) (s : State) : Host.Outcome State Fault Refusal :=
  let m := m.val
  let k := s.cmdIdx m
  s.mb { primary 0x406 2 with kept := true, units := poolUnits k } m (decide (k < 5))
    (.done [] ((s.setReg (POOL_WARN k) (s.arg m 0)).poolWarn k))

/-- `POOL_LIMIT_SET` (R190). -/
def execPoolLimitSet (m : Mbx) (s : State) : Host.Outcome State Fault Refusal :=
  let m := m.val
  let n := bits (s.cmd m 1) 4 0
  s.mb { primary 0x407 2 true with kept := true } m true (s.spargeGuard m n
    (.done [] (s.setMask (POOL_PART_LIMIT n) 0x3FFFFFFFFFFFFFFF (s.arg m 0)).poolServe))

end Sys2Proof.Machine
end

