-- ==== Sys2Proof/Machine/MbColl.lean ====
section
/-! DEFINITION. Mailbox commands of the reduction array, the collective rows and the multicast groups (R226 to R234). -/

namespace Sys2Proof.Machine

/-- A command that needs the reduction array, which is ready at the end of phase 8 (R3, R512). -/
def MbSpec.rdx (c : MbSpec) : MbSpec := { c with units := [GLOBAL_OPTIONS_RDX_PRESENT], ready := 9 }

/-- `RDX_CONFIG_SET` (R226, R247, R393). -/
def execRdxConfigSet (m : Mbx) (s : State) : Host.Outcome State Fault Refusal :=
  let m := m.val
  let w := s.arg m 0
  let o := (s.arg m 1).toNat
  s.mb (primary 0x501 3).rdx m (bits w 31 16 != 0 && decide (1 ≤ o) && decide (o ≤ 63))
    (.done [] ((s.setMask RDX_CONFIG 0xFFFF0000 w).wr RDX_COLL_OTHER_WEIGHT o))

/-! ## Rows (R227 to R229, R233, R234) -/

/-- `COLL_MEMBERS_SET` (R233): entries four to a word from payload word 2 (log 32). -/
def execCollMembersSet (m : Mbx) (s : State) : Host.Outcome State Fault Refusal :=
  let m := m.val
  let f := s.cmdIdx m
  let c := s.cmdCount m
  let busy := (List.range 256).any (fun g => s.get (RDX_COLL_A_STATE g) == 1 &&
    overlaps f c (s.get (RDX_COLL_B_MEMBER_BASE g)) (s.get (RDX_COLL_B_MEMBERS g)))
  let t := (List.range (min c 888)).foldl (fun t k =>
    let v := bits (s.arg m (k / 4)) (16 * (k % 4) + 15) (16 * (k % 4))
    let i := f + k
    t.setReg (RDX_COLL_MEMBER (i / 4)) (setBits (t.reg (RDX_COLL_MEMBER (i / 4))) (16 * (i % 4) + 15) (16 * (i % 4)) v)) s
  s.mb (tenant 0x502 (1 + cdiv c 4)).rdx m (decide (f + c ≤ 16384) && decide (c ≤ 888)) (s.spargeGuard m (bits (s.cmd m 1) 4 0)
    (if busy then conflict scGROUP_ACTIVE else .done [] t))

/-- The words of a `COLL_FORM` or `COLL_REFORM` (R393, log 33): those of `RDX_COLL_A` to `RDX_COLL_C`, and before them
those of the group-table row where the command carries them. -/
structure RowWords where
  ga : Word
  a : Word
  b : Word
  c : Word
  deriving DecidableEq, Repr

/-- The row's words as the command carries them. -/
def State.rowWords (s : State) (m : Nat) : RowWords :=
  if s.cmdLen m < 6 then ⟨0, s.arg m 0, s.arg m 1, s.arg m 2⟩ else ⟨s.arg m 0, s.arg m 2, s.arg m 3, s.arg m 4⟩

/-- Every field in its range; a root row carries its group-table row (R204, R226, R247). -/
def RowWords.ok (w : RowWords) (len : Nat) : Bool :=
  let root := bit w.a 61
  let members := bits w.b 47 34
  bits w.a 16 11 != 0 && decide (1 ≤ members) && decide (members ≤ 8192) && decide (bits w.b 33 20 + members ≤ 16384) &&
    decide (1 ≤ bits w.b 12 0) && decide (bits w.b 12 0 ≤ 4096) && (!root || (decide (6 ≤ len) && redAllowed (bits w.ga 13 10) (bits w.ga 17 14) (bits w.ga 18 18)))

/-- The row may stand beside the others (R226, R227, R234). -/
def State.rowFits (s : State) (n g : Nat) (w : RowWords) : Bool :=
  let root := bit w.a 61
  let twin := (List.range 256).any (fun k => k != g && s.get (RDX_COLL_A_STATE k) != 0 &&
    s.get (RDX_COLL_A_GROUP_ID k) == bits w.a 59 48 && s.get (RDX_COLL_A_PARTITION k) == n)
  let slots := (((List.range 256).filter (fun k => k != g && s.get (RDX_GROUP_A_STATE k) == 1)).map (fun k => s.get (RDX_GROUP_B_SLOTS k))).sum
  !twin && (!root || decide (slots + bits w.b 12 0 ≤ 4096)) &&
    (!(root && bit w.a 42) || (bits w.ga 13 10 == 2 && bits w.ga 17 14 == 8 && !bit w.ga 18 && decide (bits w.b 47 34 ≤ 2048)))

/-- Write a row and make it active; at the root the group-table row describes the same group (R227). -/
def State.writeRow (s : State) (n g : Nat) (w : RowWords) : State :=
  let s := ((s.setMask (RDX_COLL_A g) 0x3FFF07FFFFFFFFFF w.a).put (RDX_COLL_A_PARTITION g) n).put (RDX_COLL_A_STATE g) 1
  let s := (s.setMask (RDX_COLL_B g) 0xFFFFFFFFFFF01FFF w.b).put (RDX_COLL_C_WATCH_RANK g) (bits w.c 12 0)
  let s := { s with ra := { s.ra with bar := merase s.ra.bar g, released := merase s.ra.released g } }
  if bit w.a 61 then
    let ga := mkWord [(63, 62, 1), (61, 48, bits w.b 47 34), (47, 36, bits w.a 28 17), (35, 24, bits w.a 59 48), (23, 19, n),
      (18, 10, bits w.ga 18 10)]
    ((s.setReg (RDX_GROUP_A g) ga).put (RDX_GROUP_B_SLOTS g) (bits w.b 12 0)).rdxCounts g
  else s.put (RDX_GROUP_A_STATE g) 0

/-- A command on a row that another partition holds is refused. -/
def State.rowOwned (s : State) (m n g : Nat) (r : MbRes) : MbRes :=
  if s.get (RDX_COLL_A_STATE g) ≠ 0 ∧ s.get (RDX_COLL_A_PARTITION g) ≠ n then denied else s.spargeGuard m n r

/-- `COLL_FORM` (R227, R229, R233, R234). -/
def execCollForm (m : Mbx) (s : State) : Host.Outcome State Fault Refusal :=
  let m := m.val
  let n := bits (s.cmd m 1) 4 0
  let g := s.cmdIdx m
  let w := s.rowWords m
  let u := s.get (RDX_COLL_PART_USE_ROWS n)
  s.mb (tenant 0x503 4).rdx m (decide (g < 256) && w.ok (s.cmdLen m)) (s.spargeGuard m n
    (if s.get (RDX_COLL_A_STATE g) ≠ 0 then conflict scGROUP_ACTIVE
     else if s.edge < mget 0 s.ra.quarantine (32 * bits w.a 59 48 + n) then conflict scGROUP_QUARANTINE
     else if s.get (RDX_COLL_PART_LIMIT_ROWS n) ≤ u ∨ s.rowFits n g w = false then denied
     else .done [] ((s.writeRow n g w).put (RDX_COLL_PART_USE_ROWS n) (u + 1))))

/-- `COLL_SUSPEND` (R233, R245): the spec names no endpoint for `LOST_EP`, which takes a free value. -/
def execCollSuspend (m : Mbx) (s : State) : Host.Outcome State Fault Refusal :=
  let m := m.val
  let g := s.cmdIdx m
  let (v, t) := s.take
  s.mb (tenant 0x504 1).rdx m (decide (g < 256)) (s.rowOwned m (bits (s.cmd m 1) 4 0) g
    (if s.get (RDX_COLL_A_STATE g) ≠ 1 then conflict scGROUP_NOT_ACTIVE else .done [] (t.suspendRow g (bits v 15 0) 3)))

/-- `COLL_REFORM` (R233, R234). -/
def execCollReform (m : Mbx) (s : State) : Host.Outcome State Fault Refusal :=
  let m := m.val
  let n := bits (s.cmd m 1) 4 0
  let g := s.cmdIdx m
  let w := s.rowWords m
  let since := (s.beat + 2 ^ 40 - s.get (RDX_COLL_SUSPEND_BEAT g)) % 2 ^ 40
  s.mb (tenant 0x505 4).rdx m (decide (g < 256) && w.ok (s.cmdLen m)) (s.rowOwned m n g
    (if s.get (RDX_COLL_A_STATE g) ≠ 2 then conflict scGROUP_NOT_SUSPENDED
     else if s.get TRACK_CONFIG_LOST_WAIT ≤ since then
       (if s.rowFits n g w then .done [] ((s.writeRow n g w).put (RDX_COLL_C_BAR_GEN g) 0) else denied)
     else conflict scGROUP_QUARANTINE))

/-- A descriptor is a step of a group's row: a collective step, a `PROJECT` job that takes or contributes its chunks, an
attention job that contributes. -/
def namesGroup (grp : Nat) (ws : List Word) : Bool :=
  match dType (wd ws 0) with
  | 2 => coKind ws != 2 && coGroup ws == grp
  | 3 => wb ws 3 10 8 == 2 && (wb ws 3 40 29 == grp || (wb ws 3 53 53 == 1 && wb ws 3 52 41 == grp))
  | 4 => aOutKind ws == 1 && wb ws 6 48 37 == grp
  | _ => false

/-- A step of the row is queued or running here. -/
def State.rowBusy (s : State) (n g : Nat) : Bool :=
  let grp := s.get (RDX_COLL_A_GROUP_ID g)
  s.st.steps.any (fun x => x.part == n && namesGroup grp x.words) ||
    (List.range 16).any (fun r => (s.ring n r).descs.any (fun d => namesGroup grp d.words))

/-- `COLL_DISSOLVE` (R233): the group number rests for `LOST_WAIT` beats. A row that is already free has the one state
code given (log 34). Chunks of the group that are open stay so until `CHUNK_TIMEOUT` (log 154, DESIGN CHOICE). -/
def execCollDissolve (m : Mbx) (s : State) : Host.Outcome State Fault Refusal :=
  let m := m.val
  let n := bits (s.cmd m 1) 4 0
  let g := s.cmdIdx m
  let key := 32 * s.get (RDX_COLL_A_GROUP_ID g) + n
  let t := s.put (RDX_COLL_A_STATE g) 0
  let t := if s.on (RDX_COLL_A_ROOT g) then t.put (RDX_GROUP_A_STATE g) 0 else t
  let ra :=
    { t.ra with
      bar := merase t.ra.bar g, released := merase t.ra.released g,
      quarantine := mset 0 t.ra.quarantine key (s.edge + s.get TRACK_CONFIG_LOST_WAIT) }
  let t := ({ t with ra := ra }).put (RDX_COLL_PART_USE_ROWS n) (s.get (RDX_COLL_PART_USE_ROWS n) - 1)
  s.mb (tenant 0x506 1).rdx m (decide (g < 256)) (s.rowOwned m n g
    (if s.get (RDX_COLL_A_STATE g) = 0 ∨ s.rowBusy n g then conflict scGROUP_BUSY else .done [] t))

/-- `COLL_WEIGHT_SET` (R233). -/
def execCollWeightSet (m : Mbx) (s : State) : Host.Outcome State Fault Refusal :=
  let m := m.val
  let g := s.cmdIdx m
  let w := bits (s.arg m 0) 16 11
  s.mb { (tenant 0x507 3).rdx with minor := 2 } m (decide (g < 256) && w != 0) (s.rowOwned m (bits (s.cmd m 1) 4 0) g
    (if s.get (RDX_COLL_A_STATE g) = 0 then conflict scGROUP_FREE
     else .done [] ((s.put (RDX_COLL_A_WEIGHT g) w).put (RDX_COLL_C_WATCH_RANK g) (bits (s.arg m 1) 12 0))))

/-- `COLL_PART_SET` (R229). -/
def execCollPartSet (m : Mbx) (s : State) : Host.Outcome State Fault Refusal :=
  let m := m.val
  let n := bits (s.cmd m 1) 4 0
  let w := s.arg m 0
  s.mb (primary 0x50B 2 true).rdx m (decide (bits w 44 32 ≤ 4096) && decide (bits w 8 0 ≤ 256))
    (s.spargeGuard m n (.done [] (s.setMask (RDX_COLL_PART_LIMIT n) 0x1FFF000001FF w)))

/-! ## Multicast groups (R230, R231) -/

/-- Words of a multicast entry with `c` children. -/
def mcWords (c : Nat) : Nat := 1 + cdiv c 2

/-- The port and the member count of child `i`. -/
def mcChildPort (ws : List Word) (i : Nat) : Nat := bits (wd ws (1 + i / 2)) (32 * (i % 2) + 6) (32 * (i % 2))
def mcChildBelow (ws : List Word) (i : Nat) : Nat := bits (wd ws (1 + i / 2)) (32 * (i % 2) + 31) (32 * (i % 2) + 16)

/-- The entry of a `MC_GROUP_SET` is acceptable (R231). -/
def State.mcOk (s : State) (ws : List Word) : Bool :=
  let c := bits (wd ws 0) 18 12
  let ports := (List.range c).map (mcChildPort ws)
  let ep := bits (wd ws 0) 47 32
  let held := (s.ra.mc.map (fun e => bits (wd e.2 0) 18 12)).sum
  ports.all (fun p => decide (p < 96) && !s.isAttach p) && ports.eraseDups.length == c &&
    (List.range 6).all (fun k => !(bits (wd ws 0) 11 6).testBit k || s.slotId k != 0xFFFF) &&
    ep != 0 && ep != 0xFFFF && (!bit (wd ws 0) 60 || ep == s.selfId) && decide (held + c ≤ 65536)

/-- `MC_GROUP_SET` (R229 to R231, R233): the selector names group and partition. A word 0 whose `VALID` is 0 passes the same
checks and stores nothing (log 157, DESIGN CHOICE). -/
def execMcGroupSet (m : Mbx) (s : State) : Host.Outcome State Fault Refusal :=
  let m := m.val
  let n := bits (s.cmd m 1) 4 0
  let g := s.cmdIdx m
  let c := bits (s.arg m 0) 18 12
  let w0 := setBits (setBits (s.arg m 0 &&& 0x1FFFFFFFFFFFFFFF) 5 1 n) 59 48 g
  let ws := w0 :: (List.range (cdiv (min c 96) 2)).map (fun i => s.arg m (1 + i) &&& 0xFFFF007FFFFF007F)
  let below := (List.range (min c 96)).all (fun i => mcChildBelow ws i != 0)
  let fan := bits w0 31 25
  let u := s.get (RDX_COLL_PART_USE_MC n)
  s.mb (tenant 0x508 (1 + mcWords c)).rdx m (decide (g < 4096) && decide (c ≤ 96) && below && decide (1 ≤ fan) && decide (fan ≤ 102)) (s.spargeGuard m n
    (if mcValid (wd (s.mcEntry n g) 0) then conflict scMC_IN_USE
     else if !s.mcOk ws ∨ s.get (RDX_COLL_PART_LIMIT_MC n) ≤ u then denied
     else if !bit w0 0 then .done [] s
     else .done [] (({ s with ra := { s.ra with mc := mset [] s.ra.mc (32 * g + n) ws } }).put (RDX_COLL_PART_USE_MC n) (u + 1))))

/-- `MC_GROUP_CLEAR` (R233). -/
def execMcGroupClear (m : Mbx) (s : State) : Host.Outcome State Fault Refusal :=
  let m := m.val
  let n := bits (s.cmd m 1) 4 0
  let g := s.cmdIdx m
  let t := ({ s with ra := { s.ra with mc := mset [] s.ra.mc (32 * g + n) [] } }).put (RDX_COLL_PART_USE_MC n) (s.get (RDX_COLL_PART_USE_MC n) - 1)
  s.mb (tenant 0x509 1).rdx m (decide (g < 4096)) (s.spargeGuard m n
    (if mcValid (wd (s.mcEntry n g) 0) then .done [] t else conflict scMC_FREE))

/-- `MC_GROUP_GET` (R230, R393). -/
def execMcGroupGet (m : Mbx) (s : State) : Host.Outcome State Fault Refusal :=
  let m := m.val
  let e := s.mcEntry (bits (s.cmd m 1) 4 0) (s.cmdIdx m)
  s.mb (tenant 0x50A 1).rdx m (decide (s.cmdIdx m < 4096)) (.done (if e.isEmpty then [0] else e) s)

end Sys2Proof.Machine
end

