-- ==== Sys2Proof/Machine/MbSeq.lean ====
section
/-! DEFINITION. Mailbox commands of the sequencers (R340 to R343), the ports (R378) and the work rings (R401, R402). -/

namespace Sys2Proof.Machine

/-! ## Sequencers -/

/-- A command that needs the sequencers, which are ready at the end of phase 8 (R3, R512). -/
def MbSpec.seq (c : MbSpec) : MbSpec := { c with units := [GLOBAL_OPTIONS_SEQ_PRESENT], ready := 9 }

/-- The state of a core (R343): 0 `EMPTY`, 1 `LOADED`, 2 `RUNNING`, 3 `STOPPING`. -/
def State.coreState (s : State) (c : Nat) : Nat := s.get (SEQ_CORE_STATE_STATE c)

/-- Leave a core `EMPTY`. -/
def State.emptyCore (s : State) (c : Nat) : State :=
  let s := { s with sq := { s.sq with image := merase s.sq.image c } }
  (s.put (SEQ_CORE_STATE_STATE c) 0).put (SEQ_CORE_STATE_RUN_MASK c) 0

/-- The cores of a partition's share. -/
def State.shareCores (s : State) (n : Nat) : List Nat :=
  (List.range (s.get (SEQ_PART_CORES_COUNT n))).map (· + s.get (SEQ_PART_CORES_FIRST n))

/-- `SEQ_SHARE_SET` (R343, R345). A core in no share shows partition 0. -/
def execSeqShareSet (m : Mbx) (s : State) : Host.Outcome State Fault Refusal :=
  let m := m.val
  let n := bits (s.cmd m 1) 4 0
  let w := s.arg m 0
  let f := bits w 9 0
  let c := bits w 26 16
  let old := s.shareCores n
  let new := (List.range c).map (· + f)
  let t := s.setMask (SEQ_PART_CORES n) 0x107FF03FF w
  let t := (old.filter (fun k => !new.contains k)).foldl (fun t k => (t.emptyCore k).put (SEQ_CORE_STATE_PARTITION k) 0) t
  let t := new.foldl (fun t k => t.put (SEQ_CORE_STATE_PARTITION k) n) t
  s.mb (primary 0x801 2 true).seq m true (s.spargeGuard m n
    (if 1024 < f + c ∨ s.shareOverlap n SEQ_PART_CORES_FIRST SEQ_PART_CORES_COUNT f c = true then denied
     else if (old ++ new).any (fun k => 2 ≤ s.coreState k) then conflict scSEQ_RUNNING
     else .done [] t))

/-- The cores that a command names, counted from the partition's `FIRST`; a count of 0 means 1 (log 37). -/
def State.namedCores (s : State) (m n : Nat) : Option (List Nat) :=
  let c := s.cmdRun m
  if s.cmdIdx m + c ≤ s.get (SEQ_PART_CORES_COUNT n) then
    some ((List.range c).map (fun i => s.get (SEQ_PART_CORES_FIRST n) + s.cmdIdx m + i))
  else none

/-- Start a core (R342): no thread of it has run or waited yet. -/
def State.startCore (s : State) (n c : Nat) : State :=
  let s := s.setTurn c {}
  let (entry, threads, stack) := mget (0, 0, 0) s.sq.image c
  let s := (List.range threads).foldl (fun s t =>
    let h := ((thread0.setX 2 (0x30000 - t * stack)).setX 10 (c - s.get (SEQ_PART_CORES_FIRST n))).setX 11 t
    s.setThread c t { h with running := true, pc := entry }) s
  (s.put (SEQ_CORE_STATE_STATE c) 2).put (SEQ_CORE_STATE_RUN_MASK c) (2 ^ threads - 1)

/-- Bytes of an image's text and data (R340). -/
def imageText (w : Word) : Nat := bits w 31 0
def imageData (w : Word) : Nat := bits w 63 32

/-- The magic number and the lengths of a header are in range. -/
def imageShape (h : List Word) : Bool :=
  let w1 := h.getD 1 0
  bits (h.getD 0 0) 31 0 == 0x51530001 && imageText w1 % 4 == 0 && decide (imageText w1 ≤ 65536) && imageData w1 % 8 == 0 &&
    decide (imageData w1 + bits (h.getD 3 0) 31 0 ≤ 131072)

/-- The status of an image that has been read, as R341 checks it after its shape. -/
def imageStatus (h : List Word) (body : List Byte) : Nat :=
  let w2 := h.getD 2 0
  let w3 := h.getD 3 0
  let threads := bits w2 37 32
  let stack := bits w3 63 32
  if !(bits w2 31 0 % 2 == 0 && decide (bits w2 31 0 < 65536) && decide (1 ≤ threads) && decide (threads ≤ 32) && stack % 16 == 0 &&
      decide (stack * threads ≤ 131072 - (imageData (h.getD 1 0) + bits w3 31 0))) then stACCESS_DENIED
  else if bits (h.getD 0 0) 47 32 ≠ 1 ∨ bits w2 47 41 ≠ 0 then stVERSION
  else if crc32 body ≠ bits (h.getD 4 0) 31 0 then stACCESS_DENIED
  else 0

/-- Place an image in a core (R341). -/
def State.placeImage (s : State) (h : List Word) (body : List Byte) (c : Nat) : State :=
  let text := imageText (h.getD 1 0)
  let mem := writeBytes s.sq.mem (coreBase c) (body.take text)
  let data := body.drop text
  let mem := writeBytes mem (coreBase c + 0x10000) (data ++ List.replicate (131072 - data.length) 0)
  let sq :=
    { s.sq with
      mem := mem, image := mset (0, 0, 0) s.sq.image c (bits (h.getD 2 0) 31 0, bits (h.getD 2 0) 37 32, bits (h.getD 3 0) 63 32) }
  ({ s with sq := sq }).put (SEQ_CORE_STATE_STATE c) 1

/-- What reading a run of an image gives (R341). -/
inductive ImageRead where
  | ok (bs : List Byte) (s : State)
  | fail (status : Nat) (s : State)
  /-- Translation Requests or reads are out. -/
  | wait (s : State)
  deriving DecidableEq, Repr

/-- Read `n` bytes of an image from its start by `READ`s, one at a time in rising order (log 43): each is refused, fails or
brings its bytes as any read of its partition. -/
def State.imageFar (s : State) (m part : Nat) (addr : Word) (n : Nat) : ImageRead :=
  match s.sq.images.find? (fun l => l.mbx == m) with
  | none =>
    let l : ImageLoad := ⟨s.sq.nextImage, m, part, addr.toNat, [], n, none⟩
    .wait (({ s with sq := { s.sq with images := s.sq.images ++ [l], nextImage := l.id + 1 } }).imageNext l)
  | some l => match l.fail with
    | some st => .fail st s
    | none =>
      if n ≤ l.got.length then .ok (l.got.take n) s
      else if l.got.length < l.want then .wait s
      else .wait (s.imageNext { l with want := n })

/-- Read `n` bytes of the image of a `SEQ_LOAD` from its start. An image on this module is translated as one tile; its `HBM`
and `TUN` pages yield what memory holds, unless a word fails its parity. Bytes that lie elsewhere are asked for. -/
def State.imageRead (s : State) (m part : Nat) (addr : Word) (n : Nat) (parity : Option WordFault) : ImageRead :=
  if !s.ownAddr addr then s.imageFar m part addr n
  else if !s.partActive part then .fail stACCESS_DENIED s
  else
    let (t, s) := s.translate part 0 (faLow addr) n 1 false
    match lowestFail t.fails with
    | some f => let (st, s) := s.jobFault part addr n f; .fail st s
    | none =>
      if !t.needs.isEmpty then .wait (s.atsWait (.image m) t false)
      else if t.pieces.all (fun c => decide (c.kind ≤ 1)) then
        if parity.isSome then .fail stPARITY (s.wordFault parity) else .ok (t.pieces.flatMap s.pieceBytes) s
      else s.imageFar m part addr n

/-- The outcome of the Translation Requests of a `SEQ_LOAD`: still out, failed, or none left over. -/
def State.imageWait (s : State) (m : Nat) : Option (AtsWait × State) :=
  match takeFirst (fun (w : AtsWait) => w.who == .image m) s.xl.waits with
  | some (w, rest) => some (w, { s with xl := { s.xl with waits := rest } })
  | none => none

/-- Bytes of an image whose header is `h`: the header, the text and the data (R340). -/
def imageSize (h : List Word) : Nat := 64 + imageText (h.getD 1 0) + imageData (h.getD 1 0)

/-- `SEQ_LOAD` (R341): payload word 2 is the image's fabric address and bit 0 of word 3 the start flag (log 42). The
image's length is known once its header has been read; of one longer than a core's memories no more is read (log 43). -/
def execSeqLoad (m : Mbx) (parity : Option WordFault) (s : State) : Host.Outcome State Fault Refusal :=
  let m := m.val
  let n := bits (s.cmd m 1) 4 0
  let addr := s.arg m 0
  let body :=
    match s.namedCores m n with
    | none => denied
    | some cs =>
      if cs.any (fun c => 2 ≤ s.coreState c) then conflict scSEQ_RUNNING
      else
        let bad := fun (st : Nat) (s : State) => MbRes.ends st (cs.foldl (fun s c => s.emptyCore c) s)
        match s.imageWait m with
        | some (w, s') =>
          if !w.needs.isEmpty then .again s
          else match lowestFail w.fails with
            | some f => let (st, s) := s'.jobFault n addr 64 f; bad st s
            | none => .again s'
        | none => match s.imageRead m n addr 64 parity with
          | .wait s => .again s
          | .fail st s => bad st s
          | .ok hb s =>
            let h := bytesWords 8 hb
            match s.imageRead m n addr (min (imageSize h) 196672) parity with
            | .wait s => .again s
            | .fail st s => bad st s
            | .ok bs s =>
              let img := bs.drop 64
              let st := if imageShape h then imageStatus h img else stACCESS_DENIED
              if st ≠ 0 then bad st s
              else
                let s := cs.foldl (fun s c => s.placeImage h img c) s
                let s := if s.hm.doomed.contains m then s else s.bump SEQ_LOAD_COUNT
                .done [] (if bit (s.arg m 1) 0 then cs.foldl (fun s c => s.startCore n c) s else s)
  s.mb (tenant 0x802 3).seq m true (s.spargeGuard m n body)

/-- `SEQ_START` (R342, R343). -/
def execSeqStart (m : Mbx) (s : State) : Host.Outcome State Fault Refusal :=
  let m := m.val
  let n := bits (s.cmd m 1) 4 0
  s.mb (tenant 0x803 1).seq m true (s.spargeGuard m n
    (match s.namedCores m n with
    | none => denied
    | some cs => match cs.find? (fun c => s.coreState c != 1) with
      | some c => conflict (if s.coreState c = 0 then scSEQ_EMPTY else scSEQ_RUNNING)
      | none => .done [] (cs.foldl (fun s c => s.startCore n c) s)))

/-- Complete a `SEQ_STOP` once every core is `LOADED`, or emptied by a reset or a Sparge. -/
def State.stopDone (s : State) (m : Nat) : State :=
  match s.sq.stops.find? (fun x => x.1 == m) with
  | some (_, cs) =>
    if cs.all (fun c => decide (s.coreState c ≤ 1)) && !s.hm.held.contains m then
      ({ s with sq := { s.sq with stops := s.sq.stops.filter (fun x => x.1 != m) } }).mbComplete m 0 0 []
    else s
  | none => s

/-- `SEQ_STOP` (R343): waits end and threads halt. -/
def execSeqStop (m : Mbx) (s : State) : Host.Outcome State Fault Refusal :=
  let m := m.val
  let n := bits (s.cmd m 1) 4 0
  let r := s.mbRun (tenant 0x804 1).seq m true (s.spargeGuard m n
    (match s.namedCores m n with
    | none => denied
    | some cs =>
      if cs.any (fun c => s.coreState c != 2) then conflict scSEQ_NOT_RUNNING
      else
        let s := cs.foldl (fun s c =>
          let s := s.put (SEQ_CORE_STATE_STATE c) 3
          (setBitsOf 32 (s.get (SEQ_CORE_STATE_RUN_MASK c))).foldl (fun s t => s.haltThread c t) s) s
        .wait { s with sq := { s.sq with stops := s.sq.stops ++ [(m, cs)] } }))
  .next (r.stopDone m)

/-- `SEQ_STOP_DONE` (R343): every core of the command is `LOADED`. -/
def execSeqStopDone (m : Mbx) (s : State) : Host.Outcome State Fault Refusal := .next (s.stopDone m.val)

/-! ## Ports -/

/-- A command on one port, whose light engine is present (R2, R3), and once the ports have been through phase 7 (R512). -/
def State.portMb (s : State) (m opcode need : Nat) (valid : Bool) (r : MbRes) : Host.Outcome State Fault Refusal :=
  let p := s.cmdIdx m
  s.mb { primary opcode need with kept := true, ready := 8, units := [⟨GLOBAL_OPTIONS, 8 + p / 8, 8 + p / 8⟩] } m (decide (p < 96) && valid) r

/-- The port is `DISABLED` or `FAILED`. -/
def State.portIdle (s : State) (p : Nat) : Bool := s.portState p == 0 || s.portState p == 4

/-- `PORT_MODE_SET` (R378, R379). -/
def execPortModeSet (m : Mbx) (s : State) : Host.Outcome State Fault Refusal :=
  let m := m.val
  let p := s.cmdIdx m
  let w := s.arg m 0
  s.portMb m 0x901 2 (bits w 5 4 != 0)
    (if s.portIdle p then .done [] (s.setMask (PORT_CFG p) 0xFFFFFFFF00000032 w) else conflict scPORT_NOT_DISABLED)

/-- `PORT_ENABLE` (R360, R378). -/
def execPortEnable (m : Mbx) (s : State) : Host.Outcome State Fault Refusal :=
  let m := m.val
  let p := s.cmdIdx m
  s.portMb m 0x902 1 true
    (if s.portIdle p then .done [] ((s.put (PORT_CFG_ENABLE p) 1).linkOut p 1) else conflict scPORT_NOT_DISABLED)

/-- `PORT_DISABLE` (R366, R378, R462): `DOWN` is sent, unless the transmitter is dark already, and a link that is up or
training drops with `COMMAND`. -/
def execPortDisable (m : Mbx) (s : State) : Host.Outcome State Fault Refusal :=
  let m := m.val
  let p := s.cmdIdx m
  let t := s.put (PORT_CFG_ENABLE p) 0
  let t := if s.portState p = 0 then t else t.sendTrain p 0x09 0xFF 0 6 0 0
  let t := if s.portState p = 2 ∨ s.portState p = 3 then t.dropTo p 6 0 else t.linkOut p 0
  let t := match t.peerOf p with | some i => t.settlePeer i | none => t
  s.portMb m 0x903 1 true (if s.portState p = 5 then conflict scPORT_ISOLATED else .done [] t)

/-- `PORT_RETRAIN` (R367, R378). -/
def execPortRetrain (m : Mbx) (s : State) : Host.Outcome State Fault Refusal :=
  let m := m.val
  let p := s.cmdIdx m
  s.portMb m 0x904 1 true
    (if s.active p then .done [] ((s.sendTrain p 0x08 0xFF 0 0 0 0).dropLink p 6) else conflict scPORT_NOT_ACTIVE)

/-! ## Work rings -/

/-- An array of a ring lies where its partition may place it (R401). -/
def State.ringArray (s : State) (n : Nat) (w : Word) (len : Nat) : Bool := bit w 1 || s.inHbmShare n (bits w 63 12 * 4096) len

/-- Put a ring in service (R401): its settings, and all four indices 0. -/
def State.ringUp (s : State) (n r : Nat) (b c q : Word) : State :=
  let s := (s.setReg (RING_BASE n r) ((b &&& 0xFFFFFFFFFFFFF002) ||| 1)).setReg (RING_CFG n r) (c &&& 0x3FF0F1F)
  let s := s.setReg (RING_CQ_BASE n r) (q &&& 0xFFFFFFFFFFFFF002)
  let s := (((s.setReg (RING_PROD n r) 0).setReg (RING_CONS n r) 0).setReg (RING_CQ_PROD n r) 0).setReg (RING_CQ_CONS n r) 0
  (s.setRing n r ring0).ringFull n r

/-- `RING_SET` (R401); `a` says whether the write of the zeros is performed. -/
def execRingSet (m : Mbx) (a : Reply) (s : State) : Host.Outcome State Fault Refusal :=
  let m := m.val
  let n := bits (s.cmd m 1) 4 0
  let r := s.cmdIdx m
  let b := s.arg m 0
  let c := s.arg m 1
  let q := s.arg m 2
  let size := bits c 4 0
  let zeros := List.replicate (16 * 2 ^ size) (0 : Byte)
  let body :=
    if !(decide (4 ≤ size) && decide (size ≤ 16) && s.ringArray n b (64 * 2 ^ size) && s.ringArray n q (16 * 2 ^ size)) then denied
    else if bits c 11 8 ≠ 1 then .fail stVERSION 0
    else if s.on (RING_BASE_EN n r) then conflict scRING_ACTIVE
    else if bit q 1 && !s.cxlUp then .fail stTARGET_LOST 0
    else match a with
      | .error => .fail stPARITY 0
      | .ok _ =>
        let t := if bit q 1 then s.emit (.hostWrite (bits q 63 12 * 4096) zeros) else s.hbmWrite (bits q 63 12 * 4096) zeros
        .done [] (t.ringUp n r b c q)
  let units := locUnits (bits b 1 1) ++ locUnits (bits q 1 1)
  s.mb { tenant 0xA01 4 with units := units } m (decide (r < 16)) (s.spargeGuard m n body)

/-- `RING_CLEAR` (R402). -/
def execRingClear (m : Mbx) (s : State) : Host.Outcome State Fault Refusal :=
  let m := m.val
  let n := bits (s.cmd m 1) 4 0
  let r := s.cmdIdx m
  s.mb (tenant 0xA02 1) m (decide (r < 16)) (s.spargeGuard m n
    (if !s.on (RING_BASE_EN n r) then conflict scRING_FREE
     else if s.get (RING_STATUS_OUTSTANDING n r) ≠ 0 then conflict scRING_BUSY
     else .done [] (((s.put (RING_BASE_EN n r) 0).setRing n r ring0).ringFull n r)))

end Sys2Proof.Machine
end

