-- ==== Sys2Proof/Machine/TierMoves.lean ====
section
/-! DEFINITION. Moves of extents (R311 to R317, R321): EXTENT_MOVE_START, EXTENT_COPY_DONE, EXTENT_TILE_RETRY,
EXTENT_SWITCH, TIER_MOVE_END. The packets of a copy are not followed one by one (log 19). -/

namespace Sys2Proof.Machine

/-! ## The descriptor (R314) -/

def tmExt (ws : List Word) : Nat := wb ws 1 18 0
def tmCount (ws : List Word) : Nat := wb ws 1 31 19
def tmDest (ws : List Word) : Nat := wb ws 1 33 32
def tmPin (ws : List Word) : Nat := wb ws 1 38 37
def tmLend (ws : List Word) : Nat := wb ws 1 60 57

/-- No reserved encoding, and every field in its range (R13, R314). -/
def tierWellFormed (ws : List Word) : Bool :=
  1 ≤ tmCount ws && tmCount ws ≤ 4096 && !(4 ≤ wb ws 1 36 34 && wb ws 1 36 34 ≤ 6) && tmPin ws != 3 &&
    !(8 ≤ tmLend ws && tmLend ws ≤ 14)

/-- A taken `TIER_MOVE` begins (R315). -/
def State.startTier (s : State) (id : Nat) : State :=
  match s.step? id with
  | none => s
  | some x =>
    let x := { x with phase := 1, todo := tmCount x.words }
    if (tmDest x.words = 1 ∧ s.confidential x.part) ∨ (bit (wd x.words 1) 39 ∧ !s.lcShare x.part (wb x.words 1 56 40)) then
      s.setStep ({ x with todo := 0 }.failFirst stACCESS_DENIED)
    else s.setStep x

/-- The `TIER_MOVE` of a partition whose next extent is index `i` of the range. -/
def State.tierStep (s : State) (n i : Nat) : Option Step :=
  s.st.steps.find? (fun x => dType (wd x.words 0) == 5 && x.part == n && x.phase == 1 && decide (0 < x.todo) &&
    tmExt x.words + (tmCount x.words - x.todo) == i)

/-- `PIN_OP` on an extent. -/
def State.applyPin (s : State) (e op : Nat) : State :=
  if op = 1 then s.putExt e 3 3 1 else if op = 2 then s.putExt e 3 3 0 else s

/-- The step ends with a failure; no later extent starts (R315). -/
def State.tierFail (s : State) (x : Step) (status : Nat) : State := s.setStep ({ x with todo := 0 }.failFirst status)

/-- An extent of a step has finished (R315). -/
def State.tierDone (s : State) (x : Step) : State := if bit (wd x.words 1) 39 then s.lcAdd (wb x.words 1 56 40) 1 else s

/-- Moves of descriptors and of lending returns under way. -/
def State.engineMoves (s : State) : Nat := (s.ti.moves.filter (fun m => m.waiter.isNone && m.forMove.isNone)).length

/-- The extent waits for an eviction that vacates its frame. -/
def State.awaitsFrame (s : State) (e : Nat) : Bool := s.ti.moves.any (fun m => m.forMove == some e)

/-- The lend-in entry whose lender holds an extent. -/
def State.lendOf (s : State) (e : Nat) : Option Nat :=
  (List.range 8).find? (fun i => s.get (MEM_LEND_IN_STATE i) != 0 && s.extLoc e / 2 ^ 42 == s.get (MEM_LEND_IN_LENDER_EP i) * 64 + s.get (MEM_LEND_IN_WIN i))

/-- A lending return ends for its mailbox with a status (R321). -/
def State.endReturn (s : State) (i status : Nat) : State :=
  let mine := s.ti.returns.filter (fun r => r.1 == i)
  let s := { s with ti := { s.ti with returns := s.ti.returns.filter (fun r => r.1 != i) } }
  mine.foldl (fun s r => s.mbComplete r.2 status 0 []) s

/-- No extent uses a lend-in entry: `T2` extents on its lender's window, and `LOST` ones that lay there. -/
def State.lendUnused (s : State) (i : Nat) : Bool :=
  s.ti.ext0.all (fun e => !((bits e.2 2 0 == 3 || bits e.2 2 0 == 5) && s.lendOf e.1 == some i)) &&
    !s.ti.moves.any (fun m => m.dest == 1 && m.frame / 2 ^ 42 == s.get (MEM_LEND_IN_LENDER_EP i) * 64 + s.get (MEM_LEND_IN_WIN i))

/-- Free a lend-in entry. -/
def State.freeLend (s : State) (i : Nat) : State := (s.setReg (MEM_LEND_IN i) 0).tierCounts

/-- Returns whose lender holds no extent any more complete, and their entries free (R321, R324). -/
def State.settleReturns (s : State) : State :=
  s.ti.returns.foldl (fun s r => if s.lendUnused r.1 then (s.freeLend r.1).endReturn r.1 0 else s) s

/-- The lend-in entry whose running return waits for an extent to leave its lender (R321). -/
def State.returning (s : State) (k : Nat) : Option Nat :=
  match s.lendOf k with
  | some i => if s.extState k = 3 ∧ s.get (MEM_LEND_IN_STATE i) = 2 ∧ s.ti.returns.any (fun r => r.1 == i) = true then some i else none
  | none => none

/-- T1 has no frame for an extent of a lending return: it moves to T3, or the return ends (R321). One that is `MOVING` by now, or
for which no engine is free, is taken again later (R315, R317). -/
def State.returnToT3 (s : State) (k i : Nat) : State :=
  if s.extMoving k || decide (8 ≤ s.engineMoves) then s
  else
    let (f, s) := s.obtain (s.extOwner k) 2 k 7 15
    match f with
    | some (fr, sh) => s.startMove k 2 fr sh 0 none none none
    | none => (s.bump MEM_QUOTA_EXCEEDED_COUNT).endReturn i stQUOTA

/-- `EXTENT_MOVE_START` (R315, R316 step 1, R321): the next extent of a `TIER_MOVE`, or an extent of a lending return,
with index `e` in the partition's range, is taken by the move engine. -/
def execExtentMoveStart (n : Part) (e : Nat) (s : State) : Host.Outcome State Fault Refusal :=
  let n := n.val
  match s.tierStep n e with
  | some x =>
    match s.extentAt n e with
    | none => .next (s.tierFail x stACCESS_DENIED)
    | some k =>
      let st := s.extState k
      let d := tmDest x.words
      if st = 0 then .next (s.tierFail x stACCESS_DENIED)
      else if st = 5 then .next (s.tierFail x stTARGET_LOST)
      else if s.extMoving k then .next s
      else if d = 3 ∨ st = d + 2 then .next (((s.applyPin k (tmPin x.words)).setStep { x with todo := x.todo - 1 }).tierDone x)
      else if 8 ≤ s.engineMoves ∨ s.awaitsFrame k = true then .next s
      else
        let (f, s) := s.obtain n d k (wb x.words 1 36 34) (tmLend x.words)
        match f with
        | some (fr, sh) =>
          .next ((s.setStep { x with todo := x.todo - 1, outstanding := x.outstanding + 1 }).startMove k d fr sh (tmPin x.words) (some x.id) none none)
        | none =>
          let (go, s) := s.evict d none (some k)
          if go then .next s else .next ((s.bump MEM_QUOTA_EXCEEDED_COUNT).tierFail x stQUOTA)
  | none =>
    match s.extentAt n e with
    | none => .next s
    | some k =>
      match s.returning k with
      | some i =>
        if s.rs.core = false ∧ s.extMoving k = false ∧ s.engineMoves < 8 ∧ s.awaitsFrame k = false then
          let (f, s) := s.obtain n 0 k 7 15
          match f with
          | some (fr, sh) => .next (s.startMove k 0 fr sh 0 none none none)
          | none =>
            let (go, s) := s.evict 0 none (some k)
            .next (if go then s else s.returnToT3 k i)
        else .next s
      | none => .next s

/-- The move of an extent. -/
def State.moveOf (s : State) (e : Nat) : Option ExtMove := s.ti.moves.find? (fun m => m.entry == e)
/-- The state with the move of an extent changed. -/
def State.setExtMove (s : State) (m : ExtMove) : State :=
  { s with ti := { s.ti with moves := updWhere (fun x => x.entry == m.entry) (fun _ => m) s.ti.moves } }

/-- Give back the tile buffer of a copy. -/
def State.freeCopy (s : State) (m : ExtMove) : State :=
  match m.buf with | some (k, i) => s.poolFree k i (.extent m.entry) | none => s

/-- Take a move out of the list: `MOVING` and `DEST` are cleared, its buffer is given back, its frame no longer held. -/
def State.closeMove (s : State) (m : ExtMove) : State :=
  let s := s.freeCopy m
  let s := { s with ti := { s.ti with moves := s.ti.moves.filter (fun x => x.entry != m.entry) } }
  (s.setExt m.entry (setBits (setBits (s.ext0 m.entry) 5 5 0) 7 6 3) (s.ext1 m.entry)).tierCounts

/-- A move is given up: a destination frame that it held under quota is free for a shared extent (R313, R325). -/
def State.abandonMove (s : State) (m : ExtMove) : State :=
  let s := s.closeMove m
  if m.shared then s else (s.promote m.part m.dest).tierCounts

/-- An eviction has failed: the search of what waited for it goes on below the tier that the move was to leave (R311,
R312); for an extent that is `ZERO` no more there is none, and the access is performed anew (R309). -/
def State.evictFailed (s : State) (m : ExtMove) : State :=
  let x := m.source
  let s := s.flag MEM_HBM_STATUS_EVICT_FAIL
  let s := match m.waiter with
    | some op => match s.frameLine op with
      | some line => match s.headOp line with
        | some (_, o) => match s.extentOf o.space (opSlice o line).1 with
          | some e =>
            if s.extState e ≠ 1 then s.setWait line .none
            else
              let (r, s) := allocFrame op e 3 (x + 1) s
              s.finishLine line o r
          | none => s
        | none => s
      | none => s
    | none => s
  match m.forMove with
  | some k => match s.st.steps.find? (fun y => dType (wd y.words 0) == 5 && y.phase == 1 && decide (0 < y.todo) &&
        s.extentAt y.part (tmExt y.words + (tmCount y.words - y.todo)) == some k) with
    | some y => (s.bump MEM_QUOTA_EXCEEDED_COUNT).tierFail y stQUOTA
    | none => match s.returning k with | some i => s.returnToT3 k i | none => s
  | none => s

/-- A move ends with a failure status; the extent stays at its source (R316). -/
def State.moveFails (s : State) (m : ExtMove) (status : Nat) : State :=
  let s := s.abandonMove m
  match m.step with
  | some id => match s.step? id with
    | some y => s.tierFail { y with outstanding := y.outstanding - 1 } status
    | none => s
  | none =>
    if m.waiter.isSome || m.forMove.isSome then s.evictFailed m
    else match s.lendOf m.entry with
      | some i => s.endReturn i status
      | none => s

/-- The lender of a move's frame is lost (R322): nothing may come to lie there. -/
def State.destLost (s : State) (m : ExtMove) : Bool := m.dest == 1 && (s.lost (m.frame / 2 ^ 48) || s.lendGone (m.frame / 2 ^ 42))

/-- Why a copy cannot go on, whatever its data: a lost or fenced lender, a CXL link that is down (R316, R323). -/
def State.copyBars (s : State) (m : ExtMove) : Option Nat :=
  let ends := (if s.extState m.entry = 3 then [s.extLoc m.entry / 2 ^ 48] else []) ++ (if m.dest = 1 then [m.frame / 2 ^ 48] else [])
  if ends.any s.lost || s.destLost m then some stTARGET_LOST
  else if ends.any s.fenced then some stFENCED
  else if (s.extState m.entry = 4 ∨ m.dest = 2) ∧ !s.cxlUp then some stTARGET_LOST
  else if s.extState m.entry = 5 then some stTARGET_LOST
  else none

/-- Copy blocks of an extent to the destination: what HBM holds, zeros, or what the lower tier answered, block by block. -/
def State.copyBlocks (s : State) (m : ExtMove) (blocks : List Nat) (data : List Byte) : State :=
  let st := s.extState m.entry
  (blocks.mapIdx (fun i b => (i, b))).foldl (fun s x =>
    let bytes := if st = 1 then List.replicate 4096 0
      else if st = 2 then s.hbmRead (s.extLoc m.entry + 4096 * x.2) 4096
      else ((data.drop (4096 * x.1)).take 4096 ++ List.replicate 4096 0).take 4096
    let at_ := m.frame + 4096 * x.2
    if m.dest = 0 then s.hbmWrite at_ bytes else s.emit (.tierWrite m.dest at_ bytes)) s

/-- A read or a write of a copy has failed (R303, R316, R323): its status, and what the module flags and counts. None where
the extent's place allows no such failure. -/
def State.copyFailed (s : State) (m : ExtMove) (a : CopyEnd) : Option (Nat × State) :=
  match a with
  | .ok _ => none
  | .hbm => if s.extState m.entry = 2 then some (stPARITY, s.hbmUncorr (s.extLoc m.entry / 2 ^ 36 % 4)) else none
  | .late =>
    if 3 ≤ s.extState m.entry ∨ 1 ≤ m.dest then some (stTIMEOUT, (s.flag MEM_HBM_STATUS_LOWER_TIMEOUT).bump MEM_LOWER_TIMEOUT_COUNT)
    else none
  | .failed st => some (st.toNat, s)

/-- `EXTENT_COPY_DONE` (R316 steps 2 to 5): a pass of the copy ends; `a` holds what the lower tier read, or tells how a
read or write failed. -/
def execExtentCopyDone (n : Part) (e : Nat) (a : CopyEnd) (s : State) : Host.Outcome State Fault Refusal :=
  match (s.extentAt n.val e).bind s.moveOf with
  | none => .next s
  | some m =>
    if m.buf.isNone ∨ 5 ≤ m.pass ∨ (m.pass = 4 ∧ s.extQuiet m.entry = false) then .next s
    else match s.copyBars m, a with
      | some st, _ => .next (s.moveFails m st)
      | none, .ok data =>
        if m.pass = 4 then
          .next ((s.copyBlocks m m.dirty data).freeCopy m |>.setExtMove { m with dirty := [], pass := 5, buf := none })
        else
          let s := (s.copyBlocks m m.copying data).freeCopy m
          let (b, s) := s.copyBuf m.entry
          if 64 < m.dirty.length ∧ m.pass < 3 then
            .next (s.setExtMove { m with copying := m.dirty, dirty := [], pass := m.pass + 1, buf := b })
          else .next (s.setExtMove { m with copying := [], pass := 4, buf := b })
      | none, a => match s.copyFailed m a with
        | some (st, s) => .next (s.moveFails m st)
        | none => .next s

/-- `EXTENT_TILE_RETRY` (R316): a copy that met `POOL_EMPTY` asks for its tile buffer again. -/
def execExtentTileRetry (n : Part) (e : Nat) (s : State) : Host.Outcome State Fault Refusal :=
  match (s.extentAt n.val e).bind s.moveOf with
  | none => .next s
  | some m =>
    if m.buf.isSome ∨ 5 ≤ m.pass then .next s
    else
      let (b, s) := s.copyBuf m.entry
      .next (s.setExtMove { m with buf := b })

/-- A move of an extent into tier `x` may start now (R315): the extent is neither `MOVING`, `UNMAPPED`, `LOST` nor there already, and
fewer than 8 moves run. -/
def State.canMove (s : State) (k x : Nat) : Bool :=
  !s.extMoving k && decide (s.engineMoves < 8) && ([1, 2, 3, 4] : List Nat).contains (s.extState k) && s.extState k != x + 2

/-- A vacated frame goes to what waited for it (R312); an extent that has got its frame otherwise leaves it free, and one that may
not move now is taken again as R315 has it. -/
def State.vacated (s : State) (m : ExtMove) (x f : Nat) : State :=
  let s := match m.waiter with
    | some op => match s.frameLine op with
      | some line => match s.headOp line with
        | some (_, o) => match s.extentOf o.space (opSlice o line).1 with
          | some e => (if s.extState e = 1 then (s.giveFrame e x f true).zeroFrame x f else s).setWait line .none
          | none => s
        | none => s
      | none => s
    | none => s
  match m.forMove with
  | some k => match s.st.steps.find? (fun y => dType (wd y.words 0) == 5 && y.phase == 1 && decide (0 < y.todo) &&
        s.extentAt y.part (tmExt y.words + (tmCount y.words - y.todo)) == some k) with
    | some y =>
      if s.canMove k x then
        (s.setStep { y with todo := y.todo - 1, outstanding := y.outstanding + 1 }).startMove k x f true (tmPin y.words) (some y.id) none none
      else s
    | none => if (s.returning k).isSome && s.canMove k x then s.startMove k x f true 0 none none none else s
  | none => s

/-- `EXTENT_SWITCH` (R316 step 6, R317): the holders have ended and the final pass is done; blocks written since are copied
first. -/
def execExtentSwitch (n : Part) (e : Nat) (s : State) : Host.Outcome State Fault Refusal :=
  match (s.extentAt n.val e).bind s.moveOf with
  | none => .next s
  | some m =>
    if m.pass = 5 ∧ m.dirty.isEmpty = false then
      let (b, s) := s.copyBuf m.entry
      .next (s.setExtMove { m with pass := 4, buf := b })
    else if !s.switchDue m then .next s
    else if s.extState m.entry = 5 ∨ s.destLost m = true then .next (s.moveFails m stTARGET_LOST)
    else
      let old := s.extState m.entry
      let loc := s.extLoc m.entry
      let sh := s.extShared m.entry
      let s := s.closeMove m
      let w := setBits (setBits (s.ext0 m.entry) 2 0 (m.dest + 2)) 4 4 (b2n m.shared)
      let s := (s.setExt m.entry w (BitVec.ofNat 64 m.frame)).applyPin m.entry m.pinOp
      let s := if 2 ≤ old ∧ !sh then s.promote m.part (old - 2) else s
      let s := s.tierCounts.bump MEM_MOVE_COUNT
      match m.step with
      | some id => match s.step? id with
        | some y => .next ((s.setStep { y with outstanding := y.outstanding - 1 }).tierDone y)
        | none => .next s
      | none => .next ((s.vacated m (old - 2) loc).settleReturns)

/-- `TIER_MOVE_END` (R315): every extent of the descriptor has finished, or the first failure stands. -/
def execTierMoveEnd (id : Nat) (s : State) : Host.Outcome State Fault Refusal :=
  match s.step? id with
  | none => .next s
  | some x =>
    if dType (wd x.words 0) = 5 ∧ x.phase = 1 ∧ x.todo = 0 ∧ x.outstanding = 0 then
      .next (s.endStep x 0 x.failStatus 0)
    else .next s

/-- End moves without a completion (R325): each extent goes back to its source. -/
def State.dropMoves (s : State) (p : ExtMove → Bool) : State := (s.ti.moves.filter p).foldl (fun s m => s.abandonMove m) s

end Sys2Proof.Machine
end

