-- ==== Sys2Proof/Machine/MbTier.lean ====
section
/-! DEFINITION. Mailbox commands of the Tun (R258, R265) and of the memory tiers (R304, R310, R311, R318 to R324). -/

namespace Sys2Proof.Machine

/-! ## Tun -/

/-- A command that needs the Tun, which is ready at the end of phase 8 (R3, R512). -/
def MbSpec.tun (c : MbSpec) : MbSpec := { c with units := [GLOBAL_OPTIONS_TUN_PRESENT], ready := 9 }

/-- `TUN_SHARE_SET` (R258, R265). -/
def execTunShareSet (m : Mbx) (s : State) : Host.Outcome State Fault Refusal :=
  let m := m.val
  let n := bits (s.cmd m 1) 4 0
  let w := s.arg m 0
  let f := bits w 11 0
  let c := bits w 43 32
  s.mb (primary 0x601 2 true).tun m true (s.spargeGuard m n
    (if 3072 < f + c ∨ s.shareOverlap n TUN_PART_SHARE_FIRST TUN_PART_SHARE_COUNT f c = true then denied
     else if (List.range 256).any (fun e => s.get (TUN_SLICE_A_STATE e) != 0 && s.get (TUN_SLICE_A_PARTITION e) == n) then conflict scSLICE_PRESENT
     else .done [] (s.setMask (TUN_PART_SHARE n) 0xFFF00000FFF w)))

/-- A partition mailbox names its own entries only (R265). -/
def ownEntry (m : Nat) (mine : Bool) (r : MbRes) : MbRes := if m < 32 ∧ !mine then denied else r

/-- An admitted array job names the slice. -/
def State.sliceNamed (s : State) (e : Nat) : Bool :=
  (s.tu.jobs.filterMap s.step?).any (fun x => dType (wd x.words 0) == 3 && tjSlice x.words == e)

/-- `TUN_SLICE_CLEAR` (R265). -/
def execTunSliceClear (m : Mbx) (s : State) : Host.Outcome State Fault Refusal :=
  let m := m.val
  let n := bits (s.cmd m 1) 4 0
  let e := s.cmdIdx m
  let st := s.get (TUN_SLICE_A_STATE e)
  s.mb (tenant 0x602 1).tun m (decide (e < 256)) (s.spargeGuard m n
    (ownEntry m (st == 0 || s.get (TUN_SLICE_A_PARTITION e) == n)
      (if st = 0 then conflict scSLICE_FREE
       else if st ≠ 2 ∨ s.sliceNamed e then conflict scSLICE_BUSY
       else .done [] ((s.setReg (TUN_SLICE_A e) 0).setReg (TUN_SLICE_B e) 0))))

/-- `TUN_SLICE_GET` (R265, R393). -/
def execTunSliceGet (m : Mbx) (s : State) : Host.Outcome State Fault Refusal :=
  let m := m.val
  let e := s.cmdIdx m
  s.mb (tenant 0x603 1).tun m (decide (e < 256))
    (ownEntry m (s.get (TUN_SLICE_A_STATE e) == 0 || s.get (TUN_SLICE_A_PARTITION e) == bits (s.cmd m 1) 4 0)
      (.done [s.reg (TUN_SLICE_A e), s.reg (TUN_SLICE_B e)] s))

/-- `TUN_BIND_SET` (R265, R273). -/
def execTunBindSet (m : Mbx) (s : State) : Host.Outcome State Fault Refusal :=
  let m := m.val
  let n := bits (s.cmd m 1) 4 0
  let b := s.cmdIdx m
  let grp := bits (s.arg m 0) 11 0
  let rootRow := match s.collRow n grp with | some g => s.get (RDX_COLL_A_STATE g) == 1 && s.on (RDX_COLL_A_ROOT g) | none => false
  s.mb { (tenant 0x604 2).tun with minor := 1 } m (decide (b < 16)) (s.spargeGuard m n
    (ownEntry m (!s.on (TUN_BIND_VALID b) || s.get (TUN_BIND_PARTITION b) == n)
      (if s.on (TUN_BIND_VALID b) then conflict scBIND_IN_USE
       else if !rootRow then conflict scGROUP_NOT_ACTIVE
       else .done [] (s.setReg (TUN_BIND b) (mkWord [(17, 17, 1), (16, 12, n), (11, 0, grp)])))))

/-- Unbind entry `b`: the staged chunks of its group are discarded and their slots free; `count` says whether each is
counted as a discard (R273, R276). -/
def State.unbind (s : State) (b : Nat) (count : Bool) : State :=
  let mine := fun (c : Staged) => c.part == s.get (TUN_BIND_PARTITION b) && c.grp == s.get (TUN_BIND_GROUP_ID b)
  let gone := s.tu.staged.filter mine
  let s := (s.setReg (TUN_BIND b) 0).setStaged (s.tu.staged.filter (fun c => !mine c))
  gone.foldl (fun s c => let s := s.rdxCounts c.row; if count then s.stageDrop else s) s

/-- `TUN_BIND_CLEAR` (R265, R276; log 35). -/
def execTunBindClear (m : Mbx) (s : State) : Host.Outcome State Fault Refusal :=
  let m := m.val
  let n := bits (s.cmd m 1) 4 0
  let b := s.cmdIdx m
  let busy := (s.tu.jobs.filterMap s.step?).any (fun x => dType (wd x.words 0) == 3 && tjKind x.words == 2 &&
    x.part == s.get (TUN_BIND_PARTITION b) && wb x.words 3 40 29 == s.get (TUN_BIND_GROUP_ID b))
  s.mb { (tenant 0x605 1).tun with minor := 1 } m (decide (b < 16)) (s.spargeGuard m n
    (ownEntry m (!s.on (TUN_BIND_VALID b) || s.get (TUN_BIND_PARTITION b) == n)
      (if !s.on (TUN_BIND_VALID b) then conflict scBIND_FREE
       else if busy then conflict scTUN_BUSY
       else .done [] (s.unbind b true))))

/-! ## Shares, regions and quotas (R304, R310, R311, R324) -/

/-- A command that needs HBM4E (R3, R4). -/
def MbSpec.hbm (c : MbSpec) : MbSpec := { c with units := [GLOBAL_OPTIONS_HBM_PRESENT] }

/-- First unit and count of stack `k` in a word of `MEM_PART_HBM`'s layout. -/
def runOf (w : Word) (k : Nat) : Nat × Nat := (bits w (16 * k + 5) (16 * k), bits w (16 * k + 12) (16 * k + 6))

/-- The runs end with their stack, below the reserved unit, and name only stacks in service (R302, R303). -/
def State.runsOk (s : State) (w : Word) : Bool :=
  (List.range 4).all (fun k => let (f, c) := runOf w k
    c == 0 || (decide (f + c ≤ (if k = 3 then 63 else 64)) && (s.get MEM_HBM_STATUS_IN_SERVICE).testBit k))

/-- The runs of two words overlap. -/
def runsMeet (a b : Word) : Bool :=
  (List.range 4).any (fun k => overlaps (runOf a k).1 (runOf a k).2 (runOf b k).1 (runOf b k).2)

/-- The bits of a share word that are not reserved. -/
def runsMask : Nat := 0x1FFF1FFF1FFF1FFF

/-- `MEM_SHARE_SET` (R303, R304, R324). -/
def execMemShareSet (m : Mbx) (s : State) : Host.Outcome State Fault Refusal :=
  let m := m.val
  let n := bits (s.cmd m 1) 4 0
  let w := s.arg m 0
  let meet := runsMeet w (s.reg MEM_TIER_REGION) || (List.range 32).any (fun k => k != n && runsMeet w (s.reg (MEM_PART_HBM k)))
  s.mb (primary 0x701 2 true).hbm m true (s.spargeGuard m n
    (if !s.runsOk w || meet then denied
     else if s.xl.page0.any (fun e => pgValid e.2 && pgKind e.2 == 0 && pgOwner e.2 == n) then conflict scSHARE_IN_USE
     else .done [] (s.setMask (MEM_PART_HBM n) runsMask w)))

/-- `TIER_REGION_SET` (R304, R310, R324). -/
def execTierRegionSet (m : Mbx) (s : State) : Host.Outcome State Fault Refusal :=
  let m := m.val
  let w := s.arg m 0
  let meet := (List.range 32).any (fun k => runsMeet w (s.reg (MEM_PART_HBM k)))
  let lent := (List.range 8).any (fun i => s.get (MEM_LEND_OUT_STATE i) == 1)
  s.mb (primary 0x702 2).hbm m true
    (if !s.runsOk w || meet then denied
     else if lent || !(s.usedFrames 0).isEmpty then conflict scTIER_IN_USE
     else .done [] (s.setMask MEM_TIER_REGION runsMask w).tierCounts)

/-- `TIER_T3_SET` (R310, R324). -/
def execTierT3Set (m : Mbx) (s : State) : Host.Outcome State Fault Refusal :=
  let m := m.val
  let f := (s.arg m 1).toNat
  s.mb (primary 0x703 3).hbm m (decide (f ≤ 524288))
    (if !(s.usedFrames 2).isEmpty then conflict scTIER_IN_USE
     else .done [] (((s.setMask MEM_T3_POOL 0xFFFFFFFFFFE00000 (s.arg m 0)).wr MEM_T3_FRAMES f).tierCounts))

/-- `TIER_QUOTA_SET` (R311, R320, R324). -/
def execTierQuotaSet (m : Mbx) (s : State) : Host.Outcome State Fault Refusal :=
  let m := m.val
  let n := bits (s.cmd m 1) 4 0
  let t := s.setMask (MEM_PART_QUOTA n) 0xFFFFFFFFFFFFFF (s.arg m 0)
  let q := fun x => t.get (quotaF x n)
  let beyond := (List.range 3).any (fun x => s.frameCount x < ((List.range 32).map (fun k => t.get (quotaF x k))).sum)
  s.mb (primary 0x704 2 true).hbm m (decide (q 0 ≤ 131072) && decide (q 1 ≤ 131072) && decide (q 2 ≤ 524288)) (s.spargeGuard m n
    (if beyond ∨ (s.confidential n = true ∧ 0 < q 1) then denied
     else if (List.range 3).any (fun x => q x < s.framesOf n x false) then conflict scQUOTA_IN_USE
     else .done [] t))

/-- `TIER_EXT_SHARE_SET` (R305, R324): a partition's entries are its own and lie in the table (log 36). -/
def execTierExtShareSet (m : Mbx) (s : State) : Host.Outcome State Fault Refusal :=
  let m := m.val
  let n := bits (s.cmd m 1) 4 0
  let w := s.arg m 0
  let f := bits w 18 0
  let c := bits w 51 32
  let of_ := s.get (MEM_PART_EXT_FIRST n)
  let oc := s.get (MEM_PART_EXT_COUNT n)
  s.mb (primary 0x705 2 true).hbm m true (s.spargeGuard m n
    (if 524288 < f + c ∨ s.shareOverlap n MEM_PART_EXT_FIRST MEM_PART_EXT_COUNT f c = true then denied
     else if s.ti.ext0.any (fun e => decide (of_ ≤ e.1) && decide (e.1 < of_ + oc) && bits e.2 2 0 != 0) then conflict scEXTENT_IN_USE
     else .done [] (s.setMask (MEM_PART_EXT n) 0xFFFFF0007FFFF w)))

/-- `TIER_CONFIG_SET` (R326). -/
def execTierConfigSet (m : Mbx) (s : State) : Host.Outcome State Fault Refusal :=
  let m := m.val
  let w := s.arg m 0
  s.mb (primary 0x709 2).hbm m (bits w 31 16 != 0) (.done [] (s.setMask MEM_TIER_CONFIG 0xFFFF0001 w))

/-! ## Extents (R306, R324): the selector names a run of the partition's extents; a count of 0 means 1 (log 37) -/

/-- The table entries that an extent command names, when they lie in the partition's range. -/
def State.namedExtents (s : State) (m n : Nat) : Option (List Nat) :=
  let c := s.cmdRun m
  if s.cmdIdx m + c ≤ s.get (MEM_PART_EXT_COUNT n) then
    some ((List.range c).map (fun i => s.get (MEM_PART_EXT_FIRST n) + s.cmdIdx m + i))
  else none

/-- `TIER_EXTENT_SET` (R306, R324): one word for each extent (log 39). -/
def execTierExtentSet (m : Mbx) (s : State) : Host.Outcome State Fault Refusal :=
  let m := m.val
  let n := bits (s.cmd m 1) 4 0
  let c := s.cmdRun m
  let ws := (List.range (min c 222)).map (s.arg m)
  s.mb (tenant 0x706 (1 + c)).hbm m (ws.all (fun w => decide (bits w 2 0 ≤ 1) && bits w 9 8 != 3)) (s.spargeGuard m n
    (match s.namedExtents m n with
    | none => denied
    | some es =>
      if es.any (fun e => 2 ≤ s.extState e || s.extMoving e) then conflict scEXTENT_BUSY
      else
        .done [] ((es.zip ws).foldl (fun s x =>
          s.setExt x.1 (setBits (setBits (setBits (s.ext0 x.1) 2 0 (bits x.2 2 0)) 9 8 (bits x.2 9 8)) 7 6 3) (s.ext1 x.1)) s)))

/-- `TIER_EXTENT_FREE` (R322, R324). -/
def execTierExtentFree (m : Mbx) (s : State) : Host.Outcome State Fault Refusal :=
  let m := m.val
  let n := bits (s.cmd m 1) 4 0
  s.mb (tenant 0x707 1).hbm m true (s.spargeGuard m n
    (match s.namedExtents m n with
    | none => denied
    | some es =>
      if es.any (fun e => s.extMoving e || s.extHeld e) then conflict scEXTENT_BUSY
      else .done [] (es.foldl (fun s e => if s.extState e = 0 then s else s.freeExt e 0) s).settleReturns))

/-- The words of an extent entry as a command returns them: `LOC` is 0 without a frame, `DEST` 3 without a move. -/
def State.extWords (s : State) (e : Nat) : List Word :=
  let w := s.ext0 e
  let w := if s.extMoving e then w else setBits w 7 6 3
  [w, if 2 ≤ s.extState e ∧ s.extState e ≤ 4 then s.ext1 e else 0]

/-- `TIER_EXTENT_GET` (R324): up to 64 entries, as far as a response holds them (log 38). -/
def execTierExtentGet (m : Mbx) (s : State) : Host.Outcome State Fault Refusal :=
  let m := m.val
  s.mb (tenant 0x708 1).hbm m (decide (s.cmdRun m ≤ 64))
    (match s.namedExtents m (bits (s.cmd m 1) 4 0) with
    | none => denied
    | some es => .done ((es.flatMap s.extWords).take 127) s)

/-! ## Lending (R318 to R321, R324) -/

/-- A lending command names one of eight entries. -/
def State.lendMb (s : State) (m opcode need : Nat) (valid : Bool) (r : MbRes) : Host.Outcome State Fault Refusal :=
  s.mb { (primary opcode need).hbm with minor := 1 } m (decide (s.cmdIdx m < 8) && valid) r

/-- `TIER_LEND_OFFER` (R318, R453): which page entries of partition 0 the window takes is a free value (log 41); units
outside the region or with a frame in use are refused (log 40). -/
def execTierLendOffer (m : Mbx) (s : State) : Host.Outcome State Fault Refusal :=
  let m := m.val
  let i := s.cmdIdx m
  let w := s.arg m 0
  let k := bits w 13 12
  let u := bits w 5 0
  let c := bits w 22 16
  let win := bits w 29 24
  let units := (List.range c).map (· + u)
  let region := s.t1Units k
  let used := (s.usedFrames 0).any (fun a => a / 2 ^ 36 == k && units.contains (a / 2 ^ 30 % 64))
  let first := s.get (XLAT_PART_PAGES_FIRST 0)
  let taken := fun j => (List.range c).any (fun x => pgValid (mget 0 s.xl.page0 (first + j + x)))
  let (j, t) := s.pick (s.get (XLAT_PART_PAGES_COUNT 0) + 1 - c) taken
  s.lendMb m 0x70A 2 (decide (1 ≤ c) && decide (c ≤ 64))
    (if win = 63 then conflict scCONTROL_WINDOW
     else if s.get (MEM_LEND_OUT_STATE i) ≠ 0 then conflict scLEND_IN_USE
     else if dirValid (mget 0 s.xl.winDir win) then conflict scWINDOW_IN_USE
     else if !units.all region.contains || used then denied
     else match j with
       | none => denied
       | some j =>
         let p := first + j
         let t := units.foldl (fun t x => t.setPage (p + (x - u)) (mkWord [(0, 0, 1), (1, 1, 1), (2, 2, 1)])
           (BitVec.ofNat 64 (k * 2 ^ 36 + x * 2 ^ 30))) t
         let d := mkWord [(0, 0, 1), (1, 1, 1), (2, 2, 1), (20, 8, c), (46, 32, p)]
         let t := { t with xl := { t.xl with winDir := mset 0 t.xl.winDir win d } }
         .done [] (t.setReg (MEM_LEND_OUT i) (mkWord [(63, 62, 1), (47, 32, bits w 47 32), (29, 24, win), (22, 16, c), (13, 12, k), (5, 0, u)])).tierCounts)

/-- `TIER_LEND_CLOSE` (R73, R321). -/
def execTierLendClose (m : Mbx) (s : State) : Host.Outcome State Fault Refusal :=
  let m := m.val
  let i := s.cmdIdx m
  let win := s.get (MEM_LEND_OUT_WIN i)
  let d := mget 0 s.xl.winDir win
  let ps := (List.range (dirCount d)).map (· + dirFirst d)
  let t := ps.foldl (fun t p => t.setPage p 0 0) s
  let t := { t with xl := { t.xl with winDir := mset 0 t.xl.winDir win 0 } }
  s.lendMb m 0x70B 1 true
    (if s.get (MEM_LEND_OUT_STATE i) ≠ 1 then conflict scLEND_FREE
     else ((t.setReg (MEM_LEND_OUT i) 0).tierCounts).changeWait m (.dir win :: ps.map Use.page))

/-- `TIER_LEND_ACCEPT` (R319). -/
def execTierLendAccept (m : Mbx) (s : State) : Host.Outcome State Fault Refusal :=
  let m := m.val
  let i := s.cmdIdx m
  let w := s.arg m 0
  let c := bits w 22 16
  s.lendMb m 0x70C 2 (decide (1 ≤ c) && decide (c ≤ 64))
    (if s.get (MEM_LEND_IN_STATE i) ≠ 0 then conflict scLEND_IN_USE
     else .done [] (s.setReg (MEM_LEND_IN i) (mkWord [(63, 62, 1), (47, 32, bits w 47 32), (22, 16, c), (5, 0, bits w 5 0)])).tierCounts)

/-- `TIER_LEND_RETURN` (R321, R324): its extents move by `EXTENT_MOVE_START`; it completes when none uses the lender. -/
def execTierLendReturn (m : Mbx) (s : State) : Host.Outcome State Fault Refusal :=
  let m := m.val
  let i := s.cmdIdx m
  let t := if s.get (MEM_LEND_IN_STATE i) = 1 then (s.put (MEM_LEND_IN_STATE i) 2).tierCounts else s
  let t := { t with ti := { t.ti with returns := t.ti.returns ++ [(i, m)] } }
  match s.lendMb m 0x70D 1 true (if s.get (MEM_LEND_IN_STATE i) = 0 then conflict scLEND_FREE else .wait t) with
  | .next u => .next u.settleReturns
  | r => r

end Sys2Proof.Machine
end

