-- ==== Sys2Proof/Machine/Clear.lean ====
section
/-! DEFINITION. Ending work without completions, by partition: what a Sparge (R417, R418) and a core reset (R502) share.
`p` selects partitions. -/

namespace Sys2Proof.Machine

/-- Free every buffer whose holder a test selects, in every pool. -/
def State.dropBufs (s : State) (sel : Buf → Holder → Bool) : State :=
  (List.range 5).foldl (fun s k =>
    (mget [] s.pl.bufs k).foldl (fun s e => (e.2.holders.filter (sel e.2)).foldl (fun s h => s.poolGive k e.1 h) s) s) s

/-- Chunks, held and parked contributions and staged chunks of the selected partitions end with no status sent
(R225, R279). -/
def State.dropChunks (s : State) (p : Nat → Bool) : State :=
  let rows := (s.ra.chunks ++ s.ra.writing).map (·.row) ++ s.tu.staged.map (·.row)
  let ra :=
    { s.ra with
      chunks := s.ra.chunks.filter (fun c => !p c.part), parked := s.ra.parked.filter (fun c => !p (Pkt.part c.pkt)),
      writing := s.ra.writing.filter (fun c => !p c.part) }
  let s := ({ s with ra := ra }).setStaged (s.tu.staged.filter (fun c => !p c.part))
  rows.foldl (fun s g => s.rdxCounts g) s

/-- A Sparge ends the open chunks of a partition as R216 does, but with no status sent (R225): each is flagged and
counted as a time-out. -/
def State.spargeChunks (s : State) (n : Nat) : State :=
  let k := (s.ra.chunks.filter (fun c => c.part == n)).length
  if k = 0 then s else (s.flag RDX_STATUS_CHUNK_TIMEOUT).bumpBy RDX_TIMEOUT_COUNT k

/-- The selected steps, and jobs of the Tun among them, end without completions (R246, R279, R299). -/
def State.dropStepsOf (s : State) (sel : Step → Bool) : State :=
  let gone := (s.st.steps.filter sel).map (·.id)
  let started := (s.st.steps.filter (fun x => sel x && decide (1 ≤ x.phase))).map (·.id)
  let array := s.tu.jobs.any (fun j => started.contains j)
  let pass := s.tunHead.any (fun x => sel x && dType (wd x.words 0) == 4)
  let tu :=
    { s.tu with
      jobs := s.tu.jobs.filter (fun j => !gone.contains j), taken := if array then [] else s.tu.taken,
      acts := if array then [] else s.tu.acts, uses := if array then [] else s.tu.uses,
      attn := s.tu.attn.filter (fun w => !gone.contains w.id) }
  let xl := { s.xl with waits := s.xl.waits.filter (fun w => match w.who with | .job id => !gone.contains id | _ => true) }
  let s := { s with tu := tu, xl := xl, st := { s.st with steps := s.st.steps.filter (fun x => !sel x) } }
  let s := if array then s.put TUN_STATUS_STATE 0 else s
  (if pass then s.put TUN_ATTN_STATUS_STATE 0 else s).tunNext

/-- Running and queued steps, jobs and slice loads of the selected partitions end without completions (R246, R279,
R299). -/
def State.dropSteps (s : State) (p : Nat → Bool) : State :=
  let loading := s.tu.loads.any (fun l => p l.part && l.started)
  let s := { s with tu := { s.tu with loads := s.tu.loads.filter (fun l => !p l.part) } }
  (if loading then s.put TUN_STATUS_LOADING 0 else s).dropStepsOf (fun x => p x.part)

/-- Fetched descriptors of the selected partitions are discarded without records; `OUTSTANDING` reads 0 (R411, R418). -/
def State.dropDescs (s : State) (p : Nat → Bool) : State :=
  ((List.range 32).filter p).foldl (fun s n => (List.range 16).foldl (fun s r =>
    let x := s.ring n r
    (s.setRing n r { x with fetching := [], descs := [], open_ := [] }).put (RING_STATUS_OUTSTANDING n r) 0) s) s

/-- The cores of the selected partitions halt and are left `EMPTY`, with memories, registers and CSRs cleared (R344). -/
def State.dropCores (s : State) (p : Nat → Bool) : State :=
  let mine := fun (c : Nat) => p (s.corePart c)
  let sq :=
    { s.sq with
      threads := s.sq.threads.filter (fun h => !mine (h.1 / 32)),
      mem := s.sq.mem.filter (fun b => !mine (b.1 / 2 ^ 20)),
      turns := s.sq.turns.filter (fun x => !mine x.1),
      images := s.sq.images.filter (fun l => !p l.part) }
  let tr := { s.tr with held := s.tr.held.filter (fun h => !mine (h.1 / 32)) }
  let s := { s with sq := sq, tr := tr }
  ((List.range 1024).filter (fun c => mine c && s.coreState c != 0)).foldl (fun s c => s.emptyCore c) s

/-- Extent moves of the selected partitions end; what waited for a frame that one of them vacates searches on (R325). -/
def State.endMoves (s : State) (p : Nat → Bool) : State :=
  (s.ti.moves.filter (fun m => p m.part)).foldl (fun s m => (s.abandonMove m).evictFailed m) s

/-- The home's own access at a lender: a line queue entry already taken, which is performed (R417). -/
def isTier (i : Issuer) : Bool := match i with | .tier _ _ => true | _ => false

/-- Tracker entries, stalled requests, tile moves, grants held as owner, multicast stores and combining entries of the
selected partitions are freed; the tags rest for `LOST_WAIT` beats (R187, R418). -/
def State.dropRequests (s : State) (p : Nat → Bool) : State :=
  let hold := s.edge + s.get TRACK_CONFIG_LOST_WAIT
  let gone := s.tr.entries.filter (fun e => p e.2.part && !isTier e.2.issuer)
  let tr :=
    { s.tr with
      entries := s.tr.entries.filter (fun e => !p e.2.part || isTier e.2.issuer), holds := gone.map (fun e => (e.1, hold)) ++ s.tr.holds,
      stalled := s.tr.stalled.filter (fun q => !p (s.trackPart q.1 q.2) || isTier q.2),
      moves := s.tr.moves.filter (fun m => !p m.2.part), queued := s.tr.queued.filter (fun m => !p m.part),
      mcs := s.tr.mcs.filter (fun m => !p (Pkt.part m.2.pkt)) }
  let combs := s.xb.comb.filter (fun c => p (Pkt.part c.pkt))
  let s := { s with tr := tr, xb := { s.xb with comb := s.xb.comb.filter (fun c => !p (Pkt.part c.pkt)) } }
  let s := combs.foldl (fun s c => s.combCount c.port) s
  let s := ((List.range 32).filter p).foldl (fun s n =>
    s.put (TRACK_PART_SHARE_IN_USE n) (s.tr.entries.filter (fun e => e.2.part == n)).length) s
  (s.tr.grants.filter (fun g => p g.2.part)).foldl (fun s g => s.dropGrant g.1) s.xqCounts

/-- Barrier arrivals and releases of the selected partitions' rows are forgotten. -/
def State.dropBarriers (s : State) (p : Nat → Bool) : State :=
  let mine := fun (g : Nat) => p (s.get (RDX_COLL_A_PARTITION g))
  { s with ra := { s.ra with bar := s.ra.bar.filter (fun b => !mine b.1), relIn := s.ra.relIn.filter (fun b => !mine b.1) } }

/-- Everything of the above. -/
def State.dropWork (s : State) (p : Nat → Bool) : State :=
  (((((((s.dropDescs p).dropSteps p).dropBarriers p).dropChunks p).dropCores p).endMoves p).dropRequests p)

end Sys2Proof.Machine
end

