-- ==== Sys2Proof/Machine/Part.lean ====
section
/-! DEFINITION. Partitions (R413 to R421, R428): creation, the Sparge and destruction. -/

namespace Sys2Proof.Machine

/-- The state of a partition (R413): 0 `FREE`, 1 `ACTIVE`, 2 `SPARGING`, 3 `SCRUBBED`. -/
def State.partState (s : State) (n : Nat) : Nat := s.get (PART_STATE_STATE n)

/-- `PART_CREATE` (R414, R415, R428). -/
def execPartCreate (m : Mbx) (s : State) : Host.Outcome State Fault Refusal :=
  let m := m.val
  let n := bits (s.cmd m 1) 4 0
  let conf := bit (s.arg m 0) 0
  let key := s.unwrapKey n ((List.range 18).map (fun i => s.cmd m (3 + i))) [s.cmd m 1, s.cmd m 2]
  let up := fun (s : State) =>
    let s := { s with pa := { s.pa with created := mset 0 s.pa.created n s.beat } }
    ((s.put (PART_STATE_STATE n) 1).put (PART_STATE_POLICY n) (b2n conf)).put (PART_STATE_CREATED_BEAT n) s.beat
  s.mb { primary 0xB01 2 true with kept := true } m (decide (s.cmdLen m = if conf then 20 else 2))
    (if n = 0 then denied
     else match s.partState n with
      | 1 => conflict scPART_NOT_FREE
      | 2 => conflict scPART_SPARGING
      | _ =>
        if conf then match key with
          | some k => .done [] (up { s with pa := { s.pa with keys := mset none s.pa.keys n (some k) } })
          | none => denied
        else .done [] (up s))

/-- `PART_GET` (R414). -/
def execPartGet (m : Mbx) (s : State) : Host.Outcome State Fault Refusal :=
  let m := m.val
  let n := bits (s.cmd m 1) 4 0
  s.mb { tenant 0xB04 1 with kept := true } m true (.done [s.reg (PART_STATE n), s.reg (PART_SPARGE_INFO n)] s)

/-! ## The Sparge (R417 to R420) -/

/-- Waiting accesses of the partition end under check 1 of R74: translations, and counter waits of accelerators. -/
def State.endWaits (s : State) (n : Nat) : State :=
  let mine := fun (w : AtsWait) => match w.who with | .access _ p => Pkt.part p == n | _ => false
  let gone := s.xl.waits.filter mine
  let s := { s with xl := { s.xl with waits := s.xl.waits.filter (fun w => !mine w) } }
  let s := gone.foldl (fun s w => match w.who with | .access src p => s.answer src p stACCESS_DENIED [] | _ => s) s
  (s.lk.ports.map (·.1)).foldl (fun s p =>
    let l := s.link p
    let s := s.setLink p { l with lcWaits := l.lcWaits.filter (fun w => w.part != n) }
    (l.lcWaits.filter (fun w => w.part == n)).foldl (fun s w =>
      s.sendAttach p 0x90 stACCESS_DENIED w.id false n (BitVec.ofNat 64 w.idx) 0 none) s) s

/-- Phase 2 (R417): work ends without completions, buffers return, cached lines are recalled. -/
def State.spargeQuiet (s : State) (x : Sparge) : State :=
  let n := x.part
  let tiles := ((mget [] s.pl.bufs 3).filter (fun b => b.2.part == n && b.2.inUse)).length
  let s := ((s.endWaits n).spargeChunks n).dropWork (fun k => k == n)
  let s := s.dropBufs (fun b _ => b.part == n)
  let s := ({ s with pl := { s.pl with waits := s.pl.waits.filter (fun w => w.2.1 != n) } }).poolServe
  let s := s.recallPart n
  let y := { x with quiet := true, tiles := tiles }
  { s with pa := { s.pa with sparges := updWhere (fun z => z.part == n) (fun _ => y) s.pa.sparges } }

/-- `PART_SPARGE` (R299, R414, R417, R419): an attention job of the partition ends at once. While phase 1 waits for the partition's mailbox the command stays, and its row
carries it on. -/
def execPartSparge (m : Mbx) (s : State) : Host.Outcome State Fault Refusal :=
  let m := m.val
  let n := bits (s.cmd m 1) 4 0
  let begin_ : Sparge := ⟨n, bit (s.arg m 0) 0 || s.confidential n, m, s.on (MB_STATUS_BUSY n), false, 0⟩
  let start := fun (s : State) => { s with pa := { s.pa with sparges := s.pa.sparges ++ [begin_] } }
  s.mb (primary 0xB02 2 true) m true
    (match s.pa.sparges.find? (fun x => x.mbx == m) with
     | some x => if x.closing then .again s else .wait (s.spargeQuiet x)
     | none => match s.partState n with
      | 1 =>
        let t := (start (s.put (PART_STATE_STATE n) 2)).dropStepsOf (fun x => x.part == n && dType (wd x.words 0) == 4)
        if begin_.closing then .again t else .wait (t.spargeQuiet begin_)
      | 2 => conflict scPART_SPARGING
      | _ => conflict scPART_NOT_ACTIVE)

/-- Clear a mailbox's registers and areas. -/
def State.clearMbx (s : State) (m : Nat) : State :=
  let ks := [MB_STATUS m, MB_CTRL m, MB_DONE_COUNT m, MB_VECTOR m] ++ (List.range 224).map (MB_CMD m) ++ (List.range 128).map (MB_RSP m)
  (ks.foldl (fun s k => s.setReg k (porWord k.id k.idx)) s).mbForget m

/-- Take a collective row and its multicast entries from the partition (R246). -/
def State.freeRows (s : State) (n : Nat) : State :=
  let rows := (List.range 256).filter (fun g => s.get (RDX_COLL_A_STATE g) != 0 && s.get (RDX_COLL_A_PARTITION g) == n)
  let s := rows.foldl (fun s g => (s.put (RDX_COLL_A_STATE g) 0).put (RDX_GROUP_A_STATE g) 0) s
  let ra :=
    { s.ra with
      released := s.ra.released.filter (fun b => !rows.contains b.1), bar := s.ra.bar.filter (fun b => !rows.contains b.1),
      mc := s.ra.mc.filter (fun e => e.1 % 32 != n) }
  (({ s with ra := ra }).put (RDX_COLL_PART_USE_ROWS n) 0).put (RDX_COLL_PART_USE_MC n) 0

/-- The Tun's bindings, slices and store share of the partition (R279). -/
def State.clearTun (s : State) (n : Nat) : State :=
  let f := s.get (TUN_PART_SHARE_FIRST n)
  let c := s.get (TUN_PART_SHARE_COUNT n)
  let s := ((List.range 16).filter (fun b => s.on (TUN_BIND_VALID b) && s.get (TUN_BIND_PARTITION b) == n)).foldl (fun s b => s.unbind b false) s
  let s := ((List.range 256).filter (fun e => s.get (TUN_SLICE_A_STATE e) != 0 && s.get (TUN_SLICE_A_PARTITION e) == n)).foldl
    (fun s e => (s.setReg (TUN_SLICE_A e) 0).setReg (TUN_SLICE_B e) 0) s
  let out := fun (unit : Nat) (b : Nat × Byte) => !(decide (unit * f ≤ b.1) && decide (b.1 < unit * (f + c)))
  { s with tu := { s.tu with store := s.tu.store.filter (out 65536), scale := s.tu.scale.filter (out 4096) } }

/-- Windows, pages, cached translations, fault queue and counters of the partition (R418). -/
def State.clearXlat (s : State) (n : Nat) : State :=
  let f := s.get (XLAT_PART_PAGES_FIRST n)
  let c := s.get (XLAT_PART_PAGES_COUNT n)
  let off := fun (mine : Nat → Bool) (l : SMap Word) => (l.map (fun e => if mine e.1 then (e.1, e.2 &&& ~~~(1 : Word)) else e)).filter (fun e => e.2 != 0)
  let xl :=
    { s.xl with
      winDir := off (fun k => k / 384 == n) s.xl.winDir,
      page0 := off (fun k => decide (f ≤ k) && decide (k < f + c)) s.xl.page0,
      atc := s.xl.atc.filter (fun e => e.part != n) }
  let s := (({ s with xl := xl }).put (XLAT_FQ_BASE_EN n) 0).wr (XLAT_FQ_PROD n) 0
  (((s.wr (XLAT_FQ_CONS n) 0).wr (XLAT_FQ_OVERFLOW_COUNT n) 0).wr (XLAT_FQ_FAULT_COUNT n) 0).fqFull n

/-- Phases 3 and 4 (R417, R418): what the partition had in each unit is cleared. -/
def State.spargeClear (s : State) (x : Sparge) : State :=
  let n := x.part
  let f := s.get (TRACK_LC_SHARE_FIRST n)
  let c := s.get (TRACK_LC_SHARE_COUNT n)
  let s := (s.clearXlat n).dropRequests (fun k => k == n)
  let s := { s with tr := { s.tr with lc := s.tr.lc.filter (fun e => !(decide (f ≤ e.1) && decide (e.1 < f + c))) } }
  let s := ((s.freeRows n).clearTun n).endMoves (fun k => k == n)
  let s := (s.ti.ext0.filter (fun e => s.extOwner e.1 == n)).foldl (fun s e => s.freeExt e.1 0) s
  let s := (s.dropCores (fun k => k == n)).dropDescs (fun k => k == n)
  let s := (List.range 16).foldl (fun s r => ((s.put (RING_BASE_EN n r) 0).setRing n r ring0).ringFull n r) s
  let s := if x.hbm then { s with hbm := s.hbm.filter (fun b => !s.inHbmShare n b.1 1) } else s
  let pa :=
    { s.pa with
      keys := mset none s.pa.keys n none, replay := s.pa.replay.filter (fun e => e.part != n), floors := mset 0 s.pa.floors n 0,
      sealWait := s.pa.sealWait.filter (fun q => Pkt.part q.2 != n) }
  ({ s with pa := pa }).clearMbx n

/-- Bytes of the HBM share: units of 1 GiB. -/
def State.hbmShareBytes (s : State) (n : Nat) : Nat :=
  2 ^ 30 * (s.get (MEM_PART_HBM_S0_COUNT n) + s.get (MEM_PART_HBM_S1_COUNT n) + s.get (MEM_PART_HBM_S2_COUNT n) + s.get (MEM_PART_HBM_S3_COUNT n))

/-- The least duration of a Sparge in ns (R417, R419): phase 3, and the longer part of phase 4. -/
def State.spargeLeast (s : State) (x : Sparge) : Nat :=
  let tun := if s.on GLOBAL_OPTIONS_TUN_PRESENT then 65536 * (s.get (TUN_PART_SHARE_COUNT x.part) + x.tiles) else 0
  let hbm := if x.hbm then s.hbmShareBytes x.part else 0
  6000 + max (tun * 1000 / 2 ^ 23) (hbm / 12000)

/-- `SPARGE_COMPLETE` (R417 to R420): the last phase of the Sparge of partition `n` ends `durationNs` after `GO`. -/
def execSpargeComplete (n : Part) (durationNs : Nat) (s : State) : Host.Outcome State Fault Refusal :=
  let n := n.val
  match s.pa.sparges.find? (fun x => x.part == n) with
  | none => .next s
  | some x =>
    let open_ := s.tr.ops.any (fun o => Pkt.part o.2.pkt == n) || s.dir.any (fun e => s.dirMine n e)
    if !x.quiet || open_ || s.rs.core || s.hm.held.contains x.mbx || decide (durationNs < s.spargeLeast x) then .next s
    else
      let s := s.spargeClear x
      let pa :=
        { s.pa with
          sparges := s.pa.sparges.filter (fun y => y.part != n),
          sparged := mset 0 s.pa.sparged n (mget 0 s.pa.sparged n + 1) }
      let s := ({ s with pa := pa }).put (PART_SPARGE_INFO_COUNT n) (s.get (PART_SPARGE_INFO_COUNT n) + 1)
      let s := ((s.put (PART_SPARGE_INFO_DURATION n) durationNs).put (PART_STATE_HBM_SCRUB n) (b2n x.hbm)).put (PART_STATE_STATE n) (if n = 0 then 1 else 3)
      .next (s.mbComplete x.mbx 0 0 [BitVec.ofNat 64 (durationNs % 2 ^ 32)])

/-! ## Destruction -/

/-- Every share and limit of a partition becomes 0 (R413, R414). -/
def State.zeroShares (s : State) (n : Nat) : State :=
  let s := (s.shareCores n).foldl (fun s c => (s.emptyCore c).put (SEQ_CORE_STATE_PARTITION c) 0) s
  let s := [XLAT_PART_PAGES n, TRACK_LC_SHARE n, POOL_PART_LIMIT n, RDX_COLL_PART_LIMIT n, TUN_PART_SHARE n, MEM_PART_HBM n,
    MEM_PART_EXT n, MEM_PART_QUOTA n, SEQ_PART_CORES n].foldl (fun s k => s.setReg k 0) s
  (s.put (TRACK_PART_SHARE_COUNT n) 0).tierCounts

/-- `PART_DESTROY` (R414). -/
def execPartDestroy (m : Mbx) (s : State) : Host.Outcome State Fault Refusal :=
  let m := m.val
  let n := bits (s.cmd m 1) 4 0
  s.mb (primary 0xB03 1 true) m true
    (if n = 0 then denied
     else match s.partState n with
      | 3 => .done [] ((s.zeroShares n).put (PART_STATE_STATE n) 0)
      | 2 => conflict scPART_SPARGING
      | _ => conflict scPART_NOT_SCRUBBED)

end Sys2Proof.Machine
end

