-- ==== Sys2Proof/Machine/Firmware.lean ====
section
/-! DEFINITION. Signed images, update, attestation (R432 to R441), the calibration store (R515 to R520), and the
readouts of the Cask through the mailbox (R492). -/

namespace Sys2Proof.Machine

/-! ## Images (R434, R435) -/

/-- A section of an image: offset and length. -/
def section_ (h : List Word) (k : Nat) : Nat × Nat := (wb h (2 + k) 31 0, wb h (2 + k) 63 32)

/-- Bytes of an image. -/
def slice (bs : List Byte) (o n : Nat) : List Byte := (bs.drop o).take n

/-- Check 5 of R435: sections lie at 4 KiB boundaries after the header, within `IMAGE_LEN`, without overlap. -/
def imageShapeOk (h : List Word) (have_ : Nat) : Bool :=
  let len := wb h 1 63 32
  let ss := (List.range 3).map (section_ h)
  decide (len ≤ 0x4000000) && decide (len ≤ have_) && decide ((section_ h 0).2 ≤ 131072) &&
    ss.all (fun x => x.1 % 4096 == 0 && decide (512 ≤ x.1) && decide (x.1 + x.2 ≤ len)) &&
    !(overlaps (section_ h 0).1 (section_ h 0).2 (section_ h 1).1 (section_ h 1).2 ||
      overlaps (section_ h 0).1 (section_ h 0).2 (section_ h 2).1 (section_ h 2).2 ||
      overlaps (section_ h 1).1 (section_ h 1).2 (section_ h 2).1 (section_ h 2).2)

/-- The status of an image under R435: the first check that fails decides. -/
def State.imageStatus (s : State) (bs : List Byte) : Nat :=
  let h := bytesWords 64 (bs.take 512)
  let slot := wb h 0 51 48
  let pub := slice bs 192 96
  let hashOk := fun k => decide (Config.sha384 (slice bs (section_ h k).1 (section_ h k).2) = BitVec.ofNat 384 (beNat (slice bs (48 + 48 * k) 48)))
  if wb h 0 31 0 ≠ 0x4E440001 then stACCESS_DENIED
  else if wb h 0 47 32 ≠ 1 then stVERSION
  else if 4 ≤ slot ∨ (s.get PART_SVN_REVOKED).testBit slot ∨ Config.sha384 pub ≠ Config.rootHash slot then stACCESS_DENIED
  else if !Config.ecdsaOk pub (Config.sha384 (bs.take 288)) (slice bs 288 96) then stACCESS_DENIED
  else if !imageShapeOk h bs.length then stACCESS_DENIED
  else if !(List.range 3).all hashOk then stACCESS_DENIED
  else if wb h 1 31 0 < s.get PART_SVN_FUSED_SVN then stACCESS_DENIED
  else 0

/-! ## Update (R436 to R438) -/

/-- `FW_STAGE` (R436, R437): the image is copied and verified; one that fails leaves none staged. -/
def execFwStage (m : Mbx) (host : Reply) (s : State) : Host.Outcome State Fault Refusal :=
  let m := m.val
  let unstaged := ({ s with pa := { s.pa with staged := none } }).put PART_STATUS_STAGED 0
  s.mb { primary 0xB05 3 with kept := true, units := locUnits (s.bulkLoc m), bulk := true } m (s.bulkOk m)
    (if s.on PART_STATUS_WRITING then conflict scFW_WRITING
     else match s.bulkRead m host with
      | .error st => .ends st (unstaged.bulkFault m)
      | .ok bs =>
        let st := s.imageStatus bs
        if st ≠ 0 then .ends st unstaged
        else
          let h := bytesWords 64 (bs.take 512)
          .done [wd h 1, wd h 5] (({ s with pa := { s.pa with staged := some bs } }).put PART_STATUS_STAGED 1))

/-- `FW_COMMIT` (R437, R438, R520): it waits while `CAL_WRITE` runs. -/
def execFwCommit (m : Mbx) (s : State) : Host.Outcome State Fault Refusal :=
  let m := m.val
  let adv := bit (s.arg m 0) 0
  s.mb { primary 0xB06 2 with kept := true } m true
    (if s.rs.calWrite.isSome then .again s
     else match s.pa.staged with
     | none => conflict scFW_NOT_STAGED
     | some bs =>
       let svn := wb (bytesWords 2 (bs.take 16)) 1 31 0
       if adv && decide (255 < svn) then denied
       else .wait (({ s with pa := { s.pa with commit := some (m, adv) } }).put PART_STATUS_WRITING 1))

/-- `FW_COMMIT_DONE` (R437, R438): the read-back matched, or a sector still failed after 2 rewrites: the flash then holds no
image that verifies. -/
def execFwCommitDone (matched : Bool) (s : State) : Host.Outcome State Fault Refusal :=
  match s.pa.commit with
  | none => .next s
  | some (m, adv) =>
    let s := ({ s with pa := { s.pa with commit := none } }).put PART_STATUS_WRITING 0
    if !matched then
      let s := { s with pa := { s.pa with flash := some [] } }
      .next ((s.flag PART_STATUS_FW_INVALID).mbComplete m stPARITY 0 [])
    else
      let svn := wb (bytesWords 2 ((s.pa.staged.getD []).take 16)) 1 31 0
      let s := ({ s with pa := { s.pa with flash := s.pa.staged } }).put PART_STATUS_FW_INVALID 0
      let s := if adv && decide (s.get PART_SVN_FUSED_SVN < svn) && decide (svn ≤ 255) then s.put PART_SVN_FUSED_SVN svn else s
      .next (s.mbComplete m 0 0 [])

/-! ## Attestation (R440, R441) -/

/-- The words 0 to 55 of the report of a partition. -/
def State.reportWords (s : State) (n : Nat) (nonce : List Word) : List Word :=
  let hash := fun (h : BitVec 384) => bytesWords 6 (hashBytes h)
  let check := match s.partKey n with
    | none => List.replicate 6 (0 : Word)
    | some key => hash (Config.sha384 (ascii "AZN-KCV" ++ beBytes 32 key.toNat))
  [mkWord [(31, 0, 0x41540001), (47, 32, 1), (52, 48, n), (53, 53, s.get (PART_STATE_POLICY n)), (55, 54, s.partState n)],
   mkWord [(31, 0, s.rd GLOBAL_PART), (63, 32, bits (s.reg GLOBAL_OPTIONS) 31 0)], s.reg GLOBAL_SERIAL,
   mkWord [(31, 0, s.get PART_FW_KERNEL_VER), (63, 32, s.get PART_FW_SERVICE_VER)],
   mkWord [(31, 0, s.get PART_SVN_IMAGE_SVN), (39, 32, s.get PART_SVN_FUSED_SVN), (40, 40, s.get PART_STATUS_RECOVERED)],
   s.reg TIME_BEAT_NOW] ++ hash Config.romHash ++ (List.range 3).flatMap (fun k => hash (s.pa.hashes.getD k 0)) ++ check ++
  [BitVec.ofNat 64 (mget 0 s.pa.created n), BitVec.ofNat 64 (mget 0 s.pa.sparged n % 2 ^ 32)] ++ nonce ++
  bytesWords 12 ((List.range 96).map (Config.ecPoint s.attestKey))

/-- Words signed by a key: with the 12 words of the signature over them. -/
def signWords (key : Nat) (ws : List Word) : List Word :=
  ws ++ bytesWords 12 ((List.range 96).map (Config.ecdsaSign key (Config.sha384 (wordsBytes ws))))

/-- The key that a certificate of the module names (R432, R440). -/
def State.certKey (s : State) (kind : Nat) : Nat := if kind = 1 then s.attestKey else if kind = 2 then s.agreeKey else identityKey

/-- A certificate as a response: its length and bytes, as far as a response holds them. -/
def certWords (n : Nat) (bs : List Byte) : List Word := BitVec.ofNat 64 n :: bytesWords (min 126 (cdiv n 8)) bs

/-- `ATTEST_GET` (R440, R441). -/
def execAttestGet (m : Mbx) (s : State) : Host.Outcome State Fault Refusal :=
  let m := m.val
  let kind := bits (s.arg m 0) 1 0
  let spec : MbSpec := { tenant 0xB07 (if kind = 0 then 8 else 2) with naming := false, kept := true }
  let n := s.cmdPart spec m
  let nonce := (List.range 6).map (fun i => s.cmd m (3 + i))
  let len := Config.certLen (s.certKey kind) kind
  s.mb spec m true
    (.done (if kind = 0 then signWords s.attestKey (s.reportWords n nonce)
      else certWords len ((List.range (min 1008 len)).map (Config.certByte (s.certKey kind) kind))) s)

/-! ## The calibration store (R515 to R520) -/

/-- Offset and length of a section; 3 is the whole store. -/
def calSection (k : Nat) : Nat × Nat := [(0x40, 6144), (0x1840, 512), (0x1A40, 2048), (0, 65536)].getD k (0, 0)

/-- A byte that holds part of a field of a section; every other byte of the store behind its header is 0 (R515). -/
def calNamed (i : Nat) : Bool :=
  (decide (0x40 ≤ i) && decide (i < 0x1840) && decide (i % 8 < 6)) || (decide (0x1840 ≤ i) && decide (i < 0x1A40) && decide (i % 8 < 2)) ||
    (decide (0x1A40 ≤ i) && decide (i < 0x2240) && decide (i % 8 < 6))

/-- A byte of the store behind its header, and of the values in force. -/
def State.storeByte (s : State) (i : Nat) : Byte :=
  if calNamed i then ((s.rs.store.find? (fun e => e.1 == i)).map (·.2)).getD (Config.calFactory i) else 0
def State.calByte (s : State) (i : Nat) : Byte :=
  if calNamed i then
    ((s.rs.cal.find? (fun e => e.1 == i)).map (·.2)).getD (if s.rs.calRom then Config.calDefault i else Config.calFactory i)
  else 0

/-- Put the store's bytes of a range in force. -/
def State.calApply (s : State) (o n : Nat) : State :=
  let cal := (List.range n).foldl (fun c i => minsert (merase c (o + i)) (o + i) (s.storeByte (o + i))) s.rs.cal
  { s with rs := { s.rs with cal := cal } }

/-- The values in force as the bytes of a section. -/
def State.calBytes (s : State) (k : Nat) : List Byte :=
  let values := fun (o n : Nat) => (List.range n).map (fun i => s.calByte (o + i))
  if k < 3 then values (calSection k).1 (calSection k).2
  else
    let body := values 0x40 (65536 - 0x40)
    wordsBytes ([mkWord [(31, 0, 0x43414C01), (47, 32, 1), (50, 48, s.get CAL_STATUS_FACTORY)],
      mkWord [(31, 0, crc32 body), (63, 32, s.rd CAL_WRITE_COUNT)], s.reg GLOBAL_SERIAL] ++ List.replicate 5 0) ++ body

/-- `CAL_READ` (R517). -/
def execCalRead (m : Mbx) (s : State) : Host.Outcome State Fault Refusal :=
  let m := m.val
  let k := s.cmdIdx m
  s.mb { primary 0xE01 3 with kept := true, units := locUnits (s.bulkLoc m), bulk := true } m (decide (k ≤ 3) && s.bulkOk m)
    (if s.bulkLen m < (calSection k).2 then denied
     else match s.bulkWrite m (s.calBytes k) with
      | (0, t) => .done [] t
      | (st, t) => .ends st t)

/-- The reserved bits of a section's words are 0. -/
def calReserved (k : Nat) (w : Word) : Bool := if k = 1 then bits w 63 16 == 0 else bits w 63 48 == 0

/-- `CAL_WRITE` (R518, R520). -/
def execCalWrite (m : Mbx) (host : Reply) (s : State) : Host.Outcome State Fault Refusal :=
  let m := m.val
  let k := s.cmdIdx m
  let len := (calSection k).2
  s.mb { primary 0xE02 3 with kept := true, units := locUnits (s.bulkLoc m), bulk := true } m (decide (k < 3) && s.bulkOk m)
    (if s.bulkLen m ≠ len then denied
     else if s.on PART_STATUS_WRITING then conflict scFLASH_BUSY
     else match s.bulkRead m host with
      | .error st => .ends st (s.bulkFault m)
      | .ok bs =>
        if (bytesWords (len / 8) bs).all (calReserved k) then
          .wait (({ s with rs := { s.rs with calWrite := some (m, k, bs) } }).put CAL_STATUS_WRITING 1)
        else denied)

/-- The store with a new section, its `FACTORY` bit cleared and `WRITE_COUNT` one higher (R518 steps 2 and 3). -/
def State.calProgram (s : State) (k : Nat) (bs : List Byte) : State :=
  let o := (calSection k).1
  let st := (bs.mapIdx (fun i b => (o + i, b))).foldl (fun st e => minsert (merase st e.1) e.1 e.2) s.rs.store
  let h := s.rs.storeHead.getD (s.get CAL_STATUS_FACTORY, s.rd CAL_WRITE_COUNT)
  let w := setBits (BitVec.ofNat 64 h.1) k k 0
  { s with rs := { s.rs with store := st, storeHead := some (w.toNat, (h.2 + 1) % 2 ^ 32) } }

/-- The registers show the store's header. -/
def State.calHead (s : State) : State :=
  match s.rs.storeHead with
  | some (f, n) => (s.put CAL_STATUS_FACTORY f).wr CAL_WRITE_COUNT n
  | none => s

/-- `CAL_WRITE_DONE` (R518, R519): the read-back matched, or failed after 2 rewrites. -/
def execCalWriteDone (matched : Bool) (s : State) : Host.Outcome State Fault Refusal :=
  match s.rs.calWrite with
  | none => .next s
  | some (m, k, bs) =>
    let s := ({ s with rs := { s.rs with calWrite := none, storeBad := !matched } }).put CAL_STATUS_WRITING 0
    if !matched then .next ((s.flag CAL_STATUS_WRITE_FAIL).mbComplete m stPARITY 0 [])
    else
      let s := (s.calProgram k bs).calHead
      let s := { s with rs := { s.rs with calNew := s.rs.calNew.erase k ++ [k] } }
      .next (s.mbComplete m 0 0 [])

/-! ## Readouts of the Cask (R492) -/

/-- `CASK_READOUT` (R492). -/
def execCaskReadout (m : Mbx) (s : State) : Host.Outcome State Fault Refusal :=
  let m := m.val
  let mode := bits (s.arg m 0) 1 0
  let spec : MbSpec := { tenant 0xD01 2 with naming := false, kept := true, units := [GLOBAL_OPTIONS_CASK_PRESENT] }
  s.mb spec m (decide (mode < 3))
    (if !s.on CASK_STATUS_LINK_UP then conflict scCASK_LINK_DOWN
     else match mode with
      | 0 =>
        if s.on CASK_STATUS_READOUT_VALID then .done (s.reg CASK_READOUT_BEAT :: (List.range 24).map (fun w => s.reg (CASK_READOUT w))) s
        else conflict scCASK_NO_READOUT
      | 1 =>
        if s.on CASK_STATUS_CERT_VALID then .done (certWords s.sh.cert.length s.sh.cert) s else conflict scCASK_NO_CERT
      | _ => match s.sh.log with
        | none => conflict scCASK_NO_READOUT
        | some l =>
          let es := (l.drop (s.cmdIdx m)).take 60
          .done (BitVec.ofNat 64 es.length :: es.flatMap (fun e => [e.1, e.2])) s)

end Sys2Proof.Machine
end

