-- ==== Sys2Proof/Machine/Cask.lean ====
section
/-! DEFINITION. The Cask (R475 to R489): samples, readouts, events, its own two-wire interface; and its shadow block in
the module (R490, R495, R496). -/

namespace Sys2Proof.Machine

/-- The state with the Cask's state set. -/
def State.setCask (s : State) (c : CaskU) : State := { s with ck := c }

/-- An entry in the event log (R481): the log holds 64, `EVENTS` saturates. -/
def CaskU.logEvent (c : CaskU) (code : Nat) (counted : Bool) : CaskU :=
  let n := if counted then min 0xFFFFFFFF (c.eventCount + 1) else c.eventCount
  let l := c.log ++ [(code, c.seconds, n)]
  { c with eventCount := n, log := l.drop (l.length - 64) }

/-- An event of the running Cask. -/
def State.caskEvent (s : State) (f : CaskU → CaskU) : Host.Outcome State Fault Refusal :=
  .next (if s.ck.running then s.setCask (f s.ck) else s)

/-! ## Measuring (R475, R477, R484, R485) -/

/-- Energy registers in mJ. -/
def CaskU.energyIn (c : CaskU) : Nat := c.accIn / 16000000
def CaskU.energyOut (c : CaskU) : Nat := c.accOut / 16000000

/-- The calibration constants. -/
def CaskU.calWords (c : CaskU) : List Word := (List.range 8).map (mget 0 c.cal)

/-- The power of a sample in µW. -/
def sampleUw (v : Sample) : Int := (v.mv : Int) * v.ma

/-- A sample under the calibration in force (R482; log 45). -/
def CaskU.measured (c : CaskU) (v : Sample) : Sample :=
  { v with mv := Config.caskVolt c.calWords v.mv, ma := Config.caskAmp c.calWords v.ma }

/-- The last `n` samples of a run. -/
def lastSamples (n : Nat) (l : List Sample) : List Sample := (l.reverse.take n).reverse

/-- `CASK_SAMPLE` (R475, R477, R487): power times one sample period is added, and a pulse is given for each 0.1 Wh. `OVERRANGE`
lasts until the current falls to 48 A. -/
def execCaskSample (v : Sample) (s : State) : Host.Outcome State Fault Refusal :=
  let c := s.ck
  if !c.running then .next s
  else
    let v := c.measured v
    let p := sampleUw v
    let w := c.window ++ [v]
    let high := c.high && (decide (48000 < v.ma) || decide (v.ma < -48000))
    let c :=
      { c with
        high := high, overAt := if high then some (c.count + 1) else c.overAt,
        accIn := c.accIn + p.toNat, accOut := c.accOut + (-p).toNat, since := c.since + 1, count := c.count + 1,
        window := lastSamples (max 16000 (c.since + 1)) w, calEn := v.calEn }
    let n := c.energyIn / 360000
    let fresh := n - c.pulses
    let s := s.setCask { c with pulses := n }
    .next ((List.range fresh).foldl (fun s _ => (s.emit (.pin "CASK_PULSE" .low)).emit (.pin "CASK_PULSE" .released)) s)

/-- A mean of samples in units of `unit`: a part of a unit is rounded by a free bit (log 8); without samples it is a free
value. -/
def State.mean (s : State) (unit : Nat) (l : List Int) : Int × State :=
  let (v, s) := s.take
  if l.isEmpty then (v.toInt, s)
  else
    let n : Int := l.length * unit
    (l.sum / n + (if l.sum % n = 0 then 0 else if bit v 0 then 1 else 0), s)

/-- Words 7 and 8 of a readout over a run of samples (R485). -/
def State.caskMeans (s : State) (l : List Sample) : Word × Word × State :=
  let (u, s) := s.mean 1 (l.map (fun v => (v.mv : Int)))
  let (i, s) := s.mean 1 (l.map (·.ma))
  let (q, s) := s.mean 1000 (l.map (fun v => sampleUw v))
  (mkWord [(31, 0, ofSigned 32 u), (63, 32, ofSigned 32 i)], mkWord [(31, 0, ofSigned 32 q), (63, 32, s.ck.eventCount)], s)

/-- A condition arose in the last second. -/
def CaskU.recent (c : CaskU) (at_ : Option Nat) : Bool := match at_ with | some t => decide (c.count ≤ t + 16000) | none => false

/-- The last second's samples. -/
def CaskU.second (c : CaskU) : List Sample := lastSamples 16000 c.window

/-- The crystal differs by more than 1 % (R480). -/
def clockBad (ppm : Int) : Bool := decide (10000 < ppm) || decide (ppm < -10000)

/-- `FLAGS` (R485). -/
def CaskU.flags (c : CaskU) : Nat :=
  b2n c.tamper + 2 * b2n c.calEn + 4 * b2n (c.recent c.overAt) + 8 * b2n (c.second.any (fun v => decide (v.mv < 46000))) +
    16 * b2n (c.recent c.clockAt || clockBad c.ppm) + 32 * b2n (c.recent c.selfAt)

/-- The code of the newest log entry. -/
def CaskU.lastEvent (c : CaskU) : Nat := match c.log.getLast? with | some e => e.1 | none => 0

/-- `FW_ID` and `CAL_ID` (R483). -/
def CaskU.fwId (c : CaskU) : Nat := crc32 c.fwImage
def CaskU.calId (c : CaskU) : Nat := crc32 (wordsBytes c.calWords)

/-- Word 9 of a readout. -/
def CaskU.flagWord (c : CaskU) : Word := mkWord [(5, 0, c.flags), (31, 16, c.lastEvent), (63, 32, c.calId)]

/-- The bytes of a frame, over which its CRC-32 goes (log 164). -/
def frameBytes (f : CaskFrame) : List Byte :=
  match f with
  | .status a b c d e f g => wordsBytes [a, b, c, d, e, f, g]
  | .readout ws => wordsBytes ws
  | .cert der => leBytes 2 der.length ++ der
  | .log l => wordsBytes (l.flatMap (fun e => [e.1, e.2]))

/-- A frame leaves on `CASK_LINK` (R489). -/
def State.caskSend (s : State) (f : CaskFrame) : State := s.emit (.caskFrame f (crc32 (frameBytes f)))

/-- `SIGNED_READOUT` (R484 to R486): at the rise of `SECONDS`, after 16,000 samples. -/
def execSignedReadout (s : State) : Host.Outcome State Fault Refusal :=
  let c := s.ck
  if !c.running ∨ c.since < 16000 then .next s
  else
    let c := { c with since := c.since - 16000, seconds := c.seconds + 1, seq := c.seq + 1 }
    let (w7, w8, s) := (s.setCask c).caskMeans (lastSamples 16000 (c.window.take (c.window.length - c.since)))
    let ws := [mkWord [(31, 0, 0x43410001), (47, 32, 1)], BitVec.ofNat 64 c.serial, mkWord [(31, 0, c.fwId), (47, 32, c.fwVer)],
      BitVec.ofNat 64 c.seq, BitVec.ofNat 64 c.seconds, BitVec.ofNat 64 c.energyIn, BitVec.ofNat 64 c.energyOut, w7, w8,
      c.flagWord, 0, 0]
    let r := signWords Config.caskKey ws
    .next ((s.setCask { c with readout := r }).caskSend (.readout r))

/-- The certificate's bytes. -/
def caskCert : List Byte := (List.range (Config.certLen Config.caskKey 4)).map (Config.certByte Config.caskKey 4)

/-- The event log as 64 entries laid out as `CASK_LOG`, oldest first (R488, R496). -/
def CaskU.logWords (c : CaskU) : List (Word × Word) :=
  ((c.log ++ List.replicate (64 - c.log.length) (0, 0, 0)).take 64).map
    (fun (e : Nat × Nat × Nat) => (BitVec.ofNat 64 e.2.1, mkWord [(15, 0, e.1), (47, 16, e.2.2)]))

/-- What goes out in the gap after a status frame (R489; log 164): in every 2,000 the certificate once and the log once. -/
def State.caskGap (s : State) : State :=
  let n := (s.ck.frames + 1) % 2000
  let s := s.setCask { s.ck with frames := n }
  if n = 1000 then s.caskSend (.cert caskCert) else if n = 0 then s.caskSend (.log s.ck.logWords) else s

/-- `STATUS_FRAME_SEND` (R489): means over the last 1 ms; the gap behind it carries the certificate and the event log. -/
def execStatusFrameSend (s : State) : Host.Outcome State Fault Refusal :=
  let c := s.ck
  if !c.running then .next s
  else
    let (w7, w8, s) := s.caskMeans (lastSamples 16 c.window)
    .next (s.caskSend (.status (BitVec.ofNat 64 c.seq) (BitVec.ofNat 64 c.seconds) (BitVec.ofNat 64 c.energyIn)
      (BitVec.ofNat 64 c.energyOut) w7 w8 c.flagWord)).caskGap

/-! ## Supply and events (R478 to R481) -/

/-- `CASK_POWER_DOWN` (R479, R529): the save is logged and the Cask stops. The part of a mJ beyond the registers is kept
or lost by a free bit. A readout that is being formed is not sent, and its `SEQ` is used (R494; log 163). The input below 40 V
lets a module that tripped or was cut off start again. -/
def execCaskPowerDown (s : State) : Host.Outcome State Fault Refusal :=
  let s := { s with rs := { s.rs with off := false } }
  if !s.ck.running then .next s
  else
    let (v, s) := s.take
    let c := if 16000 ≤ s.ck.since then { s.ck with seconds := s.ck.seconds + 1, seq := s.ck.seq + 1 } else s.ck
    let c := c.logEvent 1 false
    let whole := fun (a : Nat) => if bit v 0 then a / 16000000 * 16000000 else a
    .next (s.setCask
      { c with
        running := false, accIn := whole c.accIn, accOut := whole c.accOut, window := [], since := 0, count := 0, readout := [],
        overAt := none, clockAt := none, selfAt := none, stage := [], high := false, frames := 0 })

/-- `CASK_POWER_UP` (R479, R481). -/
def execCaskPowerUp (selftestOk : Bool) (s : State) : Host.Outcome State Fault Refusal :=
  if s.ck.running then .next s
  else
    let c := ({ s.ck with running := true }).logEvent 2 false
    .next (s.setCask (if selftestOk then c else ({ c with selfAt := some 0 }).logEvent 8 false))

/-- `CLOCK_FAULT` (R480): the difference of the crystal from the internal reference, and an event above 1 %. A fault that ends
has lasted until now (R485). -/
def execClockFault (ppm : Int) (s : State) : Host.Outcome State Fault Refusal :=
  s.caskEvent fun c =>
    let d := { c with ppm := ppm, clockAt := if clockBad ppm || clockBad c.ppm then some c.count else c.clockAt }
    if clockBad ppm then d.logEvent 7 false else d

/-- `TAMPER_OPEN` (R481). -/
def execTamperOpen (s : State) : Host.Outcome State Fault Refusal :=
  s.caskEvent fun c => if c.tamper then c else ({ c with tamper := true }).logEvent 3 true

/-- `TAMPER_CLOSE` (R481). -/
def execTamperClose (s : State) : Host.Outcome State Fault Refusal :=
  s.caskEvent fun c => if c.tamper then ({ c with tamper := false }).logEvent 4 false else c

/-- `OVERRANGE` (R481). -/
def execOverrange (s : State) : Host.Outcome State Fault Refusal :=
  s.caskEvent fun c => ({ c with high := true, overAt := some c.count }).logEvent 9 false

/-! ## The two-wire interface (R482, R488) -/

/-- What the running Cask answers on its own bus. -/
def State.caskAnswer (s : State) (bs : List Byte) : Host.Outcome State Fault Refusal :=
  .next (if s.ck.running then s.emit (.caskWire bs) else s)

/-- `CASK_TW_READ` (R488). -/
def execCaskTwRead (a : Fin 32) (s : State) : Host.Outcome State Fault Refusal :=
  let c := s.ck
  let (w7, w8, t) := s.caskMeans (lastSamples 16 c.window)
  let n := fun (v : Nat) => s.caskAnswer (leBytes 8 v)
  match a.val with
  | 0 => n (c.flags + 65536 * c.lastEvent)
  | 1 => n c.seq
  | 2 => n c.energyIn
  | 3 => n c.energyOut
  | 4 => if c.running then t.caskAnswer (wordBytes w7) else .next s
  | 5 => if c.running then t.caskAnswer (wordBytes w8) else .next s
  | 6 => n (c.fwId + 2 ^ 32 * c.fwVer)
  | 7 => n c.calId
  | 8 => n c.serial
  | 9 => n c.seconds
  | 10 => n (ofSigned 32 c.ppm)
  | 11 => n c.log.length
  | _ => n 0

/-- `n` free words. -/
def State.takeWords : Nat → State → List Word × State
  | 0, s => ([], s)
  | n + 1, s => let (v, s) := s.take; let (r, s) := State.takeWords n s; (v :: r, s)

/-- `CASK_READ_READOUT` (R488): before the first readout since it started, what is returned is free. -/
def execCaskReadReadout (s : State) : Host.Outcome State Fault Refusal :=
  if !s.ck.running then .next s
  else if s.ck.readout.isEmpty then let (ws, s) := State.takeWords 24 s; s.caskAnswer (wordsBytes ws)
  else s.caskAnswer (wordsBytes s.ck.readout)

/-- `CASK_READ_CERT` (R488): two bytes of length and the DER bytes. -/
def execCaskReadCert (s : State) : Host.Outcome State Fault Refusal :=
  s.caskAnswer (leBytes 2 caskCert.length ++ caskCert)

/-- `CASK_READ_LOG` (R488): 64 entries laid out as `CASK_LOG`, oldest first. -/
def execCaskReadLog (s : State) : Host.Outcome State Fault Refusal :=
  s.caskAnswer (frameBytes (.log s.ck.logWords))

/-- `CASK_CAL_READ` (R488). -/
def execCaskCalRead (a : Fin 8) (s : State) : Host.Outcome State Fault Refusal := s.caskAnswer (wordBytes (mget 0 s.ck.cal a.val))

/-- Both pins are in their unsealed state (R482). -/
def CaskU.unsealed (c : CaskU) : Bool := c.tamper && c.calEn

/-- A write on the running Cask's own bus: it is acknowledged whatever becomes of it, and one that R482 refuses is
discarded (R488). -/
def State.caskWrite (s : State) (f : CaskU → CaskU) : Host.Outcome State Fault Refusal :=
  .next (if s.ck.running then (s.setCask (if s.ck.unsealed then f s.ck else s.ck)).emit .caskAck else s)

/-- `CASK_CAL_WRITE` (R482, R488): the samples from here on use the new gains. -/
def execCaskCalWrite (a : Fin 8) (v : Word) (s : State) : Host.Outcome State Fault Refusal :=
  s.caskWrite fun c => ({ c with cal := mset 0 c.cal a.val v }).logEvent 5 true

/-- The signature of a firmware image verifies under the metrology key (R482). -/
def caskFwOk (image : List Byte) : Bool :=
  Config.ecdsaOk Config.metrologyKey (Config.sha384 (Config.caskFwBody image)) (Config.caskFwSig image)

/-- `CASK_FW_UPDATE` (R482, R483, R488): one block of 256 bytes at address 0x50; with the last one (log 162) the image replaces
the firmware when its signature verifies, and is discarded otherwise. -/
def execCaskFwUpdate (last : Bool) (block : List Byte) (s : State) : Host.Outcome State Fault Refusal :=
  s.caskWrite fun c =>
    let image := c.stage ++ (block ++ List.replicate 256 0).take 256
    if !last then { c with stage := image }
    else if caskFwOk image then ({ c with stage := [], fwImage := image, fwVer := Config.caskFwVer image % 65536 }).logEvent 6 true
    else { c with stage := [] }

/-! ## The shadow block (R490, R495, R496) -/

/-- A good frame's contents. -/
def State.shadow (s : State) (f : CaskFrame) : State :=
  match f with
  | .status _ secs ein eout w7 w8 w9 =>
    let s := ((s.setReg CASK_SECONDS secs).setReg CASK_ENERGY_IN ein).setReg CASK_ENERGY_OUT eout
    let s := ((s.setReg CASK_INSTANT w7).put CASK_POWER_POWER (bits w8 31 0)).put CASK_EVENTS_EVENTS (bits w8 63 32)
    (s.put CASK_STATUS_FLAGS (bits w9 5 0)).put CASK_STATUS_LAST_EVENT (bits w9 31 16)
  | .readout ws =>
    let s := (List.range 24).foldl (fun s w => s.setReg (CASK_READOUT w) (wd ws w)) s
    let s := (s.setReg CASK_READOUT_BEAT (s.reg TIME_BEAT_NOW)).put CASK_STATUS_READOUT_VALID 1
    ((s.setReg CASK_SERIAL (wd ws 1)).put CASK_IDENT_FW_ID (wb ws 2 31 0)).put CASK_IDENT_FW_VER (wb ws 2 47 32)
  | .cert der => ({ s with sh := { s.sh with cert := der } }).put CASK_STATUS_CERT_VALID 1
  | .log ws =>
    let l := ws.take 64
    let s := { s with sh := { s.sh with log := some l } }
    (List.range 64).foldl (fun s i => (s.setReg (CASK_LOG_W0 i) (l.getD i (0, 0)).1).setReg (CASK_LOG_W1 i) (l.getD i (0, 0)).2) s

/-- `STATUS_FRAME` (R490): a frame that reaches the trusted kernel; during a power-on or system reset it is lost (R494). -/
def execStatusFrame (crcOk : Bool) (f : CaskFrame) (s : State) : Host.Outcome State Fault Refusal :=
  if s.rs.por ∨ s.rs.level = 2 then .next s
  else if !crcOk then .next (s.bump CASK_LINK_ERR_COUNT)
  else .next (((s.shadow f).bump CASK_FRAME_SEQ).put CASK_STATUS_LINK_UP 1)

/-- `CASK_LINK_TIMEOUT` (R490): no good frame for 10 ms. -/
def execCaskLinkTimeout (s : State) : Host.Outcome State Fault Refusal := .next (s.put CASK_STATUS_LINK_UP 0)

end Sys2Proof.Machine
end

