-- ==== Sys2Proof/Machine/Govern.lean ====
section
/-! DEFINITION. The power governor, the ramp arbiter and expulsions (R445 to R468, R541): the governor's part of a beat
edge, the alert, the control messages taken from the control window, and the mailbox commands of both units. -/

namespace Sys2Proof.Machine

/-! ## Envelope, throttle, ballast (R446 to R450) -/

/-- The rise of a slope in mW per ms over one beat, in µW; a part of a µW is rounded by a free bit (log 8). -/
def State.rise (s : State) (slope : Nat) : Nat × State :=
  let (v, s) := s.take
  let d := slope * s.beatLen
  (d / 256000 + (if d % 256000 = 0 then 0 else b2n (bit v 0)), s)

/-- `PGOV_CAP`, `BALLAST_BAND` and the ballast estimate at a duty, in µW. -/
def State.capUw (s : State) : Nat := s.get PGOV_CAP_CAP * 1000000
def State.bandUw (s : State) : Nat := s.get PGOV_CONFIG_BALLAST_BAND * 1000000
def State.ballastUw (s : State) (duty : Nat) : Nat := duty * s.rd PGOV_BALLAST_W * 62500

/-- Set the envelope E. -/
def State.setEnv (s : State) (e : Nat) : State := ({ s with pg := { s.pg with env := e } }).put PGOV_POWER_ENVELOPE (e / 1000)

/-- A grant is in force at a beat (R458). -/
def Ramp.inForce (r : Ramp) (b : Nat) : Bool := decide (r.start ≤ b) && decide (b < r.stop)

/-- The new envelope at the edge that ends beat `b` (R446): the first row that holds decides. -/
def State.nextEnv (s : State) (b d : Nat) (w : Int) : Nat × State :=
  let e := s.pg.env
  let c := s.capUw
  let low := decide (s.get PGOV_STATUS_THROTTLE < 16)
  let up := fun (slope : Nat) => let (r, s) := s.rise slope; (min c (e + r), s)
  let rest :=
    if low && s.pg.grant.isNone && s.locked && s.pg.solo then up (s.rd PGOV_SOLO_SLOPE)
    else if w < (e : Int) - s.bandUw then
      let (r, s) := s.rise (s.rd PGOV_SLOPE_DOWN)
      ((max (w + s.bandUw) ((e : Int) - r)).toNat, s)
    else (e, s)
  if s.on PGOV_STATUS_ALERT || s.pg.fresh then (d, s)
  else if c < e then let (r, s) := s.rise (s.rd PGOV_CAP_SLEW); (max c (e - r), s)
  else match s.pg.grant with
    | some g => if low && g.inForce b then up g.slope else rest
    | none => rest

/-- `CAP_LAG` follows the draw of the last beat and the cap (R450). -/
def State.capLag (s : State) : State :=
  let lag := decide (s.capUw < s.get PGOV_POWER_MEASURED * 1000)
  let was := s.on PGOV_STATUS_CAP_LAG
  let s := s.put PGOV_STATUS_CAP_LAG (b2n lag)
  if lag && !was then (s.flag PGOV_STATUS_CAP_LAG_SEEN).bump PGOV_CAP_LAG_COUNT else s

/-- A new cap (R450, R451): kept until the end of an alert. -/
def State.setCap (s : State) (w : Nat) : State :=
  if s.on PGOV_STATUS_ALERT then { s with pg := { s.pg with capKept := some (w % 65536) } }
  else (s.put PGOV_CAP_CAP w).capLag

/-- The throttle after the rules of R447 and R541, for a draw of `d`. -/
def State.nextThrottle (s : State) (d : Nat) : Nat :=
  let t := s.get PGOV_STATUS_THROTTLE
  let e := s.pg.env
  let t := if e + s.bandUw < d then t - 2 else if e < d then t - 1 else if d + s.bandUw < e then min 16 (t + 1) else t
  max 1 (if s.on GLOBAL_THERMAL_HOT then t - 1 else t)

/-- The Tun runs no ballast: absent, failed, in reset, before the compute phase is over, in the alert, or hot (R278, R449,
R510, R541). -/
def State.noBallast (s : State) : Bool :=
  !s.on GLOBAL_OPTIONS_TUN_PRESENT || s.on TUN_STATUS_FAILED || s.rs.core || decide (s.get GLOBAL_BOOT_STATUS_PHASE < 9) ||
    s.on PGOV_STATUS_ALERT || s.on GLOBAL_THERMAL_HOT

/-- Phase 8 measures the ballast (R511): the Tun is present, no core reset holds it, and its duty is 1 for 1,024 beats and then
0. -/
def State.trialOn (s : State) : Bool :=
  s.get GLOBAL_BOOT_STATUS_PHASE == 8 && s.on GLOBAL_OPTIONS_TUN_PRESENT && !s.rs.core && decide (s.rs.trial < 1024)

/-- The ballast duty for a work draw `w`, and whether the floor is missed (R449). -/
def State.setBallast (s : State) (w : Int) : State :=
  let floor := (min s.pg.env s.capUw : Int) - s.bandUw
  let reach := fun (duty : Nat) => decide (floor ≤ w + s.ballastUw duty)
  let duty := if s.trialOn then 1 else if s.noBallast then 0 else ((List.range 17).find? reach).getD 16
  let s := s.put TUN_STATUS_BALLAST_DUTY duty
  let s := if s.get GLOBAL_BOOT_STATUS_PHASE = 8 ∧ s.rs.core = false then { s with rs := { s.rs with trial := min 2048 (s.rs.trial + 1) } } else s
  if reach (if s.noBallast then 0 else 16) then s
  else (s.flag PGOV_STATUS_FLOOR_MISS).bump PGOV_FLOOR_MISS_COUNT

/-! ## The module's own ramps (R458) -/

/-- The grant held ends. -/
def State.dropRamp (s : State) : State :=
  (({ s with pg := { s.pg with grant := none } }).put PGOV_STATUS_GRANT_ACTIVE 0).put PGOV_GRANT_SLOPE 0

/-- The module gives its grant back with `RAMP_DONE`. -/
def State.rampDone (s : State) : State :=
  match s.pg.grant with
  | some g => (s.dropRamp).sendCtl g.ep { type := 4, req := g.req }
  | none => s

/-- The candidate to ask: the first live one from place `skip` of the list on, or else the acting arbiter. -/
def State.askWhom (s : State) : Option Nat :=
  match ((List.range 4).filter (fun i => decide (s.pg.skip ≤ i))).map s.candidate |>.find? (fun e => s.liveCandidates.contains e) with
  | some e => some e
  | none => s.arbiter

/-- Ask for a ramp (R458): below full throttle, with no grant and none pending, locked, with room below the cap. Where no
candidate of the list lives, nobody is asked, and the wait expires without an answer (log 160). -/
def State.askRamp (s : State) : State :=
  if s.get PGOV_STATUS_THROTTLE < 16 ∧ s.pg.grant = none ∧ s.pg.asked = none ∧ s.locked = true ∧ s.pg.askAt ≤ s.edge ∧
      s.pg.env < s.capUw then
    let whom := s.askWhom
    let (q, s) := s.newReq
    let mw := min ((s.capUw - s.pg.env) / 1000) (s.get PGOV_CONFIG_RAMP_STEP * 1000)
    let s := { s with pg := { s.pg with asked := some (q, whom.getD 0xFFFF, s.edge), skip := 0 } }
    match whom with
    | none => s
    | some e => s.sendCtl e { type := 1, req := q, amount := mw, slope := s.rd PGOV_SLOPE_UP }
  else s

/-- The registers of a grant that comes into force. -/
def State.showRamp (s : State) : State :=
  match s.pg.grant with
  | some g => if g.inForce s.beat then ((s.put PGOV_STATUS_GRANT_ACTIVE 1).put PGOV_GRANT_SLOPE g.slope).wr PGOV_GRANT_END g.stop else s
  | none => s

/-- 600 s in 1/256 ns. -/
def span600 : Nat := 600 * 10 ^ 9 * 256

/-- The arbiter's records follow the time: ended grants leave the ledger, expulsions older than 600 s the count (R457,
R461). -/
def State.arbAge (s : State) : State :=
  let pg :=
    { s.pg with
      ledger := s.pg.ledger.filter (fun r => decide (s.beat < r.stop)),
      expels := s.pg.expels.filter (fun t => decide (s.tm.clock < t + span600)) }
  ({ s with pg := pg }).wr HEALTH_EXPEL_USED pg.expels.length

/-- A draw in mW as µW. -/
def uwOf (mw : Nat) : Nat := mw * 1000

/-- The governor with the envelope `e` of this edge: its throttle, ballast, notices, and what it asks the arbiter. -/
def State.govShape (s : State) (e d : Nat) (w : Int) : State :=
  let s := ({ s with pg := { s.pg with fresh := false } }).setEnv e
  let s := (s.put PGOV_STATUS_THROTTLE (s.nextThrottle d)).setBallast w
  let s := s.capLag.showRamp
  let s := match s.pg.grant with
    | some g => if (g.inForce s.beat && s.get PGOV_STATUS_THROTTLE == 16) || decide (s.capUw ≤ s.pg.env) then s.rampDone else s
    | none => s
  s.askRamp.arbAge

/-- The governor's part of the edge that ended beat `b`, of mean draw `mw` (R445 to R450, R458, R541). -/
def State.govEdge (s : State) (b mw : Nat) : State :=
  let w : Int := (uwOf mw : Int) - s.ballastUw (s.get TUN_STATUS_BALLAST_DUTY)
  let r := (s.put PGOV_POWER_MEASURED mw).nextEnv b (uwOf mw) w
  r.2.govShape r.1 (uwOf mw) w

/-- `GRANT_END` (R458): the grant's last beat has passed. -/
def execGrantEnd (s : State) : Host.Outcome State Fault Refusal :=
  match s.pg.grant with
  | some g => .next (if g.stop ≤ s.beat then s.dropRamp else s)
  | none => .next s

/-- `ARB_WAIT_EXPIRE` (R458): no arbiter answered within `ARB_WAIT` beats. -/
def execArbWaitExpire (s : State) : Host.Outcome State Fault Refusal :=
  match s.pg.asked with
  | some (_, _, b) =>
    if b + s.get PGOV_CONFIG_ARB_WAIT ≤ s.edge then
      let s := { s with pg := { s.pg with asked := none, solo := true, askAt := s.edge + s.get PGOV_CONFIG_ARB_WAIT } }
      .next ((s.flag PGOV_STATUS_ARB_TIMEOUT).bump PGOV_ARB_TIMEOUT_COUNT)
    else .next s
  | none => .next s

/-! ## The alert (R451) and the junction (R541) -/

/-- `PWR_CAP_ALERT` (R451): `PWR_CAP_ALERT_N` has been low for 1 µs. -/
def execPwrCapAlert (s : State) : Host.Outcome State Fault Refusal :=
  if s.on PGOV_STATUS_ALERT ∨ s.rs.por ∨ s.rs.level = 2 then .next s
  else
    let s := (s.put PGOV_STATUS_THROTTLE (s.get PGOV_CONFIG_ALERT_THROTTLE)).put TUN_STATUS_BALLAST_DUTY 0
    let s := ((s.flag PGOV_STATUS_ALERT).flag PGOV_STATUS_ALERT_SEEN).bump PGOV_ALERT_COUNT
    .next s.rampDone

/-- `PWR_CAP_ALERT_END` (R451): E is the draw of the last beat, and a kept cap takes effect. -/
def execPwrCapAlertEnd (s : State) : Host.Outcome State Fault Refusal :=
  if !s.on PGOV_STATUS_ALERT then .next s
  else
    let s := (s.put PGOV_STATUS_ALERT 0).setEnv (s.get PGOV_POWER_MEASURED * 1000)
    match s.pg.capKept with
    | some w => .next (({ s with pg := { s.pg with capKept := none } }).setCap w)
    | none => .next s

/-- What sensor `i` shows (R515, R541): its reading with its offset in force, in 1/64 °C. -/
def State.sensorTemp (s : State) (sensors : List (BitVec 16)) (i : Nat) : Int :=
  (sensors.getD i (BitVec.ofNat 16 0x8000)).toInt + toSigned 16 (leNat [s.calByte (0x1840 + 8 * i), s.calByte (0x1841 + 8 * i)])

/-- The highest junction temperature of the 32 sensors, within the range of `JUNCTION_MAX`. -/
def State.junctionMax (s : State) (sensors : List (BitVec 16)) : Int :=
  min 32767 ((List.range 32).foldl (fun a i => max a (s.sensorTemp sensors i)) (-32768))

/-- `HOT_ENTER` (R541): the sensors have been read, and the highest junction is at or above 100 °C. -/
def execHotEnter (sensors : List (BitVec 16)) (s : State) : Host.Outcome State Fault Refusal :=
  let j := s.junctionMax sensors
  if s.rs.por ∨ j < 6400 then .next s
  else
    let was := s.on GLOBAL_THERMAL_HOT
    let s := (s.put GLOBAL_THERMAL_JUNCTION_MAX (ofSigned 16 j)).flag GLOBAL_THERMAL_HOT
    .next (if was then s else s.bump GLOBAL_HOT_COUNT)

/-- `HOT_EXIT` (R541): the sensors have been read, and the highest junction is below 95 °C after `HOT`. -/
def execHotExit (sensors : List (BitVec 16)) (s : State) : Host.Outcome State Fault Refusal :=
  let j := s.junctionMax sensors
  if !s.on GLOBAL_THERMAL_HOT ∨ 6080 ≤ j then .next s
  else .next ((s.put GLOBAL_THERMAL_JUNCTION_MAX (ofSigned 16 j)).put GLOBAL_THERMAL_HOT 0)

/-! ## Taking control messages (R453 to R455) -/

/-- Fields of a control message. -/
def ctType (m : List Word) : Nat := wb m 0 7 0
def ctReq (m : List Word) : Nat := wb m 0 31 16
def ctSubject (m : List Word) : Nat := wb m 0 47 32
def ctSender (m : List Word) : Nat := wb m 0 63 48
/-- The endpoints listed, at most 8. -/
def ctList (m : List Word) : List Nat :=
  (List.range (min 8 (wb m 0 15 8))).map (fun i => wb m (4 + i / 4) (16 * (i % 4) + 15) (16 * (i % 4)))

/-- Take the first control message when it is of a type. -/
def State.takeCtl (s : State) (type : Nat) (f : List Word → State → State) : Host.Outcome State Fault Refusal :=
  match s.xb.ctlIn with
  | m :: r => if ctType m.2 = type then .next (f m.2 (({ s with xb := { s.xb with ctlIn := r } }).bump HEALTH_NOTICE_COUNT)) else .next s
  | [] => .next s

/-! ## The arbiter (R456, R457, R461) -/

/-- `ARBITER_TAKEOVER` (R456): first in its own view for `PGOV_GRANT_MAX_LEN` beats. -/
def execArbiterTakeover (s : State) : Host.Outcome State Fault Refusal :=
  match s.pg.firstSince with
  | some b =>
    if b + s.rd PGOV_GRANT_MAX_LEN ≤ s.edge ∧ !s.on PGOV_STATUS_ARB_ACTING then
      .next (({ s with pg := { s.pg with actingAt := some s.tm.clock } }).put PGOV_STATUS_ARB_ACTING 1)
    else .next s
  | none => .next s

/-- The sum of the slopes of the ledger's grants in force at a beat. -/
def slopeAt (l : List Ramp) (b : Nat) : Nat := ((l.filter (fun r => r.inForce b)).map (·.slope)).sum

/-- The slope fits over a whole interval below the rack's total. -/
def slopeFits (l : List Ramp) (rack slope t len : Nat) : Bool :=
  (t :: (l.map (·.start)).filter (fun b => decide (t < b) && decide (b < t + len))).all (fun b => decide (slopeAt l b + slope ≤ rack))

/-- The length of a grant in beats: `AMOUNT` / slope in whole ms, as beats, up to the greatest (R457). -/
def State.rampBeats (s : State) (amount slope : Nat) : Nat :=
  let most := s.rd PGOV_GRANT_MAX_LEN
  if slope = 0 then most else min most (cdiv (cdiv amount slope * 256000000) s.beatLen)

/-- `RAMP_REQ` (R456, R457). -/
def execRampReq (s : State) : Host.Outcome State Fault Refusal :=
  s.takeCtl 1 fun m s =>
    let s := s.arbAge
    if !s.on PGOV_STATUS_ARB_ACTING ∨ 64 ≤ s.pg.ledger.length then s.sendCtl (ctSender m) { type := 3, req := ctReq m }
    else
      let rack := s.rd PGOV_RACK_SLOPE_UP
      let slope := min (wb m 1 63 32) rack
      let len := s.rampBeats (wb m 1 31 0) slope
      let t0 := s.beat + s.get PGOV_CONFIG_ARB_LEAD
      let starts := t0 :: (s.pg.ledger.map (·.stop)).filter (fun b => decide (t0 < b))
      let start := ((starts.filter (fun t => slopeFits s.pg.ledger rack slope t len)).min?).getD t0
      let r : Ramp := ⟨ctSender m, ctReq m, start, start + len, slope⟩
      let s := ({ s with pg := { s.pg with ledger := s.pg.ledger ++ [r] } }).bump PGOV_ARB_GRANTS_OUT
      s.sendCtl (ctSender m) { type := 2, req := ctReq m, slope := slope, start := start, length := len }

/-- `RAMP_GRANT` (R458). -/
def execRampGrant (s : State) : Host.Outcome State Fault Refusal :=
  s.takeCtl 2 fun m s =>
    match s.pg.asked with
    | some (q, e, _) =>
      if q = ctReq m then
        let start := (wd m 2).toNat
        let g : Ramp := ⟨e, q, start, start + wb m 3 31 0, wb m 1 63 32⟩
        (({ s with pg := { s.pg with asked := none, solo := false, grant := some g } }).bump PGOV_GRANT_COUNT).showRamp
      else s
    | none => s

/-- `RAMP_BUSY` (R458): ask again after `ARB_WAIT` beats, the next candidate when the sender is not acting. -/
def execRampBusy (s : State) : Host.Outcome State Fault Refusal :=
  s.takeCtl 3 fun m s =>
    match s.pg.asked with
    | some (q, e, _) =>
      if q = ctReq m then
        let next := if s.arbiter = some e then 0 else ((List.range 4).find? (fun i => s.candidate i == e)).elim 0 (· + 1)
        { s with pg := { s.pg with asked := none, solo := false, askAt := s.edge + s.get PGOV_CONFIG_ARB_WAIT, skip := next } }
      else s
    | none => s

/-- `RAMP_DONE` (R457): the grant leaves the ledger. -/
def execRampDone (s : State) : Host.Outcome State Fault Refusal :=
  s.takeCtl 4 fun m s =>
    { s with pg := { s.pg with ledger := s.pg.ledger.filter (fun r => !(r.ep == ctSender m && r.req == ctReq m)) } }

/-- `EXPEL_REQ` (R461): granted while the budget lasts; spent for the first 600 s in the role. -/
def execExpelReq (s : State) : Host.Outcome State Fault Refusal :=
  s.takeCtl 5 fun m s =>
    let s := s.arbAge
    let settled := match s.pg.actingAt with | some t => decide (t + span600 ≤ s.tm.clock) | none => false
    if s.on PGOV_STATUS_ARB_ACTING && settled && decide (s.pg.expels.length < s.get HEALTH_CONFIG_EXPEL_BUDGET) then
      let s := ({ s with pg := { s.pg with expels := s.pg.expels ++ [s.tm.clock] } }).arbAge
      s.sendCtl (ctSender m) { type := 6, req := ctReq m }
    else s.sendCtl (ctSender m) { type := 7, req := ctReq m }

/-! ## Expulsions asked for (R460, R461) -/

/-- `EXPEL_GRANT` (R460): the action is taken on a device that can still be expelled. -/
def execExpelGrant (s : State) : Host.Outcome State Fault Refusal :=
  s.takeCtl 6 fun m s =>
    match takeFirst (fun (a : Expel) => a.req == ctReq m) s.he.asks with
    | none => s
    | some (a, rest) =>
      let s := { s with he := { s.he with asks := rest } }
      if !s.canExpel a.peer a.idx then s
      else if a.peer then (s.fencePeer a.idx).bump HEALTH_EXPEL_COUNT
      else s.isolate a.idx

/-- `EXPEL_DENY` (R461). -/
def execExpelDeny (s : State) : Host.Outcome State Fault Refusal :=
  s.takeCtl 7 fun m s =>
    match takeFirst (fun (a : Expel) => a.req == ctReq m) s.he.asks with
    | none => s
    | some (a, rest) => ({ s with he := { s.he with asks := rest } }).suspect a.peer a.idx

/-- `EXPEL_ANSWER_TIMEOUT` (R461): requests without an answer for `ARB_WAIT` beats. -/
def execExpelAnswerTimeout (s : State) : Host.Outcome State Fault Refusal :=
  let late := fun (a : Expel) => decide (a.beat + s.get PGOV_CONFIG_ARB_WAIT ≤ s.edge)
  let gone := s.he.asks.filter late
  let s := { s with he := { s.he with asks := s.he.asks.filter (fun a => !late a) } }
  .next (gone.foldl (fun s a => s.suspect a.peer a.idx) s)

/-! ## Notices (R462 to R466) -/

/-- The endpoints that a notice names. -/
def ctAll (m : List Word) : List Nat := ctSubject m :: ctList m

/-- `NOTICE_LOST` (R463). -/
def execNoticeLost (s : State) : Host.Outcome State Fault Refusal :=
  s.takeCtl 8 fun m s => (ctAll m).foldl (fun s e => s.markLost e) s

/-- `NOTICE_FENCED` (R464). -/
def execNoticeFenced (s : State) : Host.Outcome State Fault Refusal :=
  s.takeCtl 9 fun m s => (ctAll m).foldl (fun s e => s.markFenced e) s

/-- `NOTICE_READMIT` (R466): the marks of own peers that are `LOST` or `FENCED` stay. -/
def execNoticeReadmit (s : State) : Host.Outcome State Fault Refusal :=
  s.takeCtl 10 fun m s =>
    let own := ((List.range 96).filter (fun i => s.get (HEALTH_PEER_A_STATE i) == 2 || s.get (HEALTH_PEER_A_STATE i) == 3)).flatMap s.peerSet
    ((ctAll m).filter (fun e => e != 0 && e != 0xFFFF && !own.contains e)).foldl (fun s e => s.unmark e) s

/-- `OWNED` (R462): the sender's identifiers, in slot order (log 26), become its peer entry's endpoint set. -/
def execOwned (s : State) : Host.Outcome State Fault Refusal :=
  s.takeCtl 11 fun m s =>
    let ep := fun i => (ctList m).getD i 0xFFFF
    match (List.range 96).find? (fun i => s.get (HEALTH_PEER_A_STATE i) != 0 && s.get (HEALTH_PEER_A_PEER_EP i) == ctSender m) with
    | some i =>
      (s.setReg (HEALTH_PEER_B i) (mkWord [(15, 0, ep 1), (31, 16, ep 2), (47, 32, ep 3), (63, 48, ep 4)])).put (HEALTH_PEER_C_OWNED_HOST i) (ep 5)
    | none => s

/-! ## Mailbox commands (R468, R473, R474) -/

/-- `PGOV_SET` (R468): the RW registers of the block other than `PGOV_CAP`, in rising offset. -/
def execPgovSet (m : Mbx) (s : State) : Host.Outcome State Fault Refusal :=
  let m := m.val
  let a := s.arg m
  let t := s.setMask PGOV_CONFIG 0xFFFFFFFF001FFFFF (a 0)
  let t := [(PGOV_SLOPE_UP, 1), (PGOV_SLOPE_DOWN, 2), (PGOV_CAP_SLEW, 3), (PGOV_SOLO_SLOPE, 4), (PGOV_RACK_SLOPE_UP, 5),
    (PGOV_GRANT_MAX_LEN, 6), (PGOV_ARB_LIST, 7)].foldl (fun t k => t.setReg k.1 (a k.2)) t
  let alert := bits (a 0) 20 16
  s.mb { primary 0xC01 9 with kept := true } m (decide (1 ≤ bits (a 0) 63 48) && decide (1 ≤ alert) && decide (alert ≤ 16))
    (.done [] t.arbView)

/-- `PGOV_CAP_SET` (R450, R468). -/
def execPgovCapSet (m : Mbx) (s : State) : Host.Outcome State Fault Refusal :=
  let m := m.val
  s.mb { primary 0xC02 2 with kept := true } m true (.done [] (s.setCap (bits (s.arg m 0) 15 0)))

/-- `HEALTH_BUDGET_SET` (R468, R474): marks of devices now below their threshold clear (R461). -/
def execHealthBudgetSet (m : Mbx) (s : State) : Host.Outcome State Fault Refusal :=
  let m := m.val
  let t := s.setMask HEALTH_CONFIG 0x1FFFFFFFFFFF (s.arg m 0)
  let t := (List.range 96).foldl (fun t p => t.showScore 0 p) t
  let t := ((List.range 96).filter (fun i => t.get (HEALTH_PEER_A_STATE i) != 0)).foldl (fun t i => t.showScore 1 i) t
  s.mb { primary 0xC05 2 with kept := true, minor := 2 } m true (.done [] t)

/-- A command on a port or a peer entry: bit 0 of payload word 2 chooses, and an absent port's units are named (R3,
R468). -/
def State.healthMb (s : State) (m opcode : Nat) (r : MbRes) : Host.Outcome State Fault Refusal :=
  let i := s.cmdIdx m
  let peer := bit (s.arg m 0) 0
  s.mb { primary opcode 2 with kept := true, units := if peer then [] else [⟨GLOBAL_OPTIONS, 8 + i / 8, 8 + i / 8⟩] } m (decide (i < 96)) r

/-- `HEALTH_ISOLATE` (R464, R468). -/
def execHealthIsolate (m : Mbx) (s : State) : Host.Outcome State Fault Refusal :=
  let m := m.val
  let i := s.cmdIdx m
  s.healthMb m 0xC04
    (if bit (s.arg m 0) 0 then
      (if s.get (HEALTH_PEER_A_STATE i) = 1 then .done [] ((s.fencePeer i).bump HEALTH_EXPEL_COUNT) else conflict scPEER_NOT_LIVE)
     else if s.portState i = 5 then conflict scPORT_ISOLATED
     else if s.portState i = 0 then conflict scPORT_NOT_ACTIVE
     else .done [] (s.isolate i))

/-- `HEALTH_READMIT` (R466, R468). -/
def execHealthReadmit (m : Mbx) (s : State) : Host.Outcome State Fault Refusal :=
  let m := m.val
  let i := s.cmdIdx m
  let w := s.arg m 0
  let forget := bit w 1
  s.healthMb m 0xC03
    (if bit w 0 then
      match s.get (HEALTH_PEER_A_STATE i) with
      | 0 => conflict scPEER_NOT_PRESENT
      | 3 => if bits w 63 32 = s.get (HEALTH_PEER_C_EPOCH i) then .done [] (s.readmit i) else conflict scFENCE_EPOCH_STALE
      | 2 => if forget then .done [] (s.readmit i) else conflict scPEER_NOT_FENCED
      | _ => conflict scPEER_NOT_FENCED
     else if s.portState i = 5 then .done [] ((s.put (PORT_STATUS_STATE i) 1).clearGravity false i)
     else conflict scPORT_NOT_ISOLATED)

end Sys2Proof.Machine
end

