-- ==== Sys2Proof/Machine/LinkRx.lean ====
section
/-! DEFINITION. The receiving side of a link (R349 to R358, R368): FEC blocks, control slots, link replay; and what takes
a link out of service (R25, R348, R366). -/

namespace Sys2Proof.Machine

/-! ## Flits of a block -/

/-- Payload and data flits that follow a non-payload flit (R353, R372). -/
def flitTail (f : Flit) : Nat :=
  if flitKind f = 1 then cdiv (bits (fw f 0) 31 23) 64 else if flitKind f = 4 then bits (fw f 0) 36 36 else 0

/-- A non-payload flit passes its CRC and carries a defined kind (R353, R356). -/
def flitOk (f : Flit) : Bool := flitKind f ≤ 5 && bits (fw f 6) 31 0 == flitCrc f

/-- Every non-payload flit of a block is good; `n` flits of the block belong to what came before (R356). -/
def flitsOk : Nat → List Flit → Bool
  | _, [] => true
  | n + 1, _ :: r => flitsOk n r
  | 0, f :: r => flitOk f && flitsOk (flitTail f) r

/-- Payload or data flits that the link still expects. -/
def Link.due (l : Link) : Nat :=
  match l.part, l.attach with
  | some x, _ => flitTail x.hdr - x.payload.length
  | none, some _ => 1
  | none, none => 0

/-- Put an item in a port's inbox. -/
def State.rxPut (s : State) (p : Nat) (i : RxItem) : State :=
  { s with xb := { s.xb with rx := mset [] s.xb.rx p (mget [] s.xb.rx p ++ [i]) } }

/-- A flit that follows a whole packet shows whether it stands (R368): the packet is delivered, or voided by `STOMP`; one
that cuts through ends on its output in the same way. -/
def State.rxSettle (s : State) (p : Nat) (stomp : Bool) : State :=
  let l := s.link p
  match l.whole with
  | none => s
  | some q =>
    let s := s.setLink p { l with whole := none }
    let credit := creditSlots (Pkt.channel q) (Pkt.flits q + 1) (Pkt.flits q)
    if stomp then (((s.unjudge p (rank175 q)).rxPut p .stomp).owe p credit).cutEnd p q.payload true
    else if s.xb.cuts.any (fun c => c.inPort == p) then (s.owe p credit).cutEnd p q.payload false
    else (s.rxPut p (.pkt q)).xqCounts

/-- Deliver one flit of a good block (R353, R356, R368). -/
def State.rxFlit (s : State) (p : Nat) (f : Flit) : State :=
  let l := s.link p
  match l.part, l.attach with
  | some x, _ =>
    let x := { x with payload := x.payload ++ [f] }
    if flitTail x.hdr ≤ x.payload.length then s.setLink p { l with part := none, whole := some (Pkt.ofFlits x.hdr x.payload) }
    else s.setLink p { l with part := some x }
  | none, some a => (s.setLink p { l with attach := none }).rxPut p (.attach a (some f))
  | none, none =>
    let s := s.rxSettle p (flitKind f == 5)
    let l := s.link p
    match flitKind f with
    | 1 => if flitTail f = 0 then s.setLink p { l with whole := some (Pkt.ofFlits f []) } else s.setLink p { l with part := some ⟨f, []⟩ }
    | 2 => s.rxPut p (.beat f)
    | 3 => s.rxPut p (.train f)
    | 4 => if flitTail f = 0 then s.rxPut p (.attach f none) else s.setLink p { l with attach := some f }
    | _ => s

/-- A packet discarded or stomped (R368). -/
def State.stomped (s : State) (p : Nat) : State := (s.bump (PORT_STOMP_COUNT p)).flag (PORT_STATUS_STOMP p)

/-- The flits that reach a port that is not `ACTIVE` (R368): `TRAIN` flits are taken, packets are discarded and counted. -/
def rxIdle (p : Nat) : Nat → List Flit → State → State
  | _, [], s => s
  | n + 1, _ :: r, s => rxIdle p n r s
  | 0, f :: r, s =>
    let s := if !flitOk f then s else match flitKind f with
      | 3 => s.rxPut p (.train f)
      | 1 => s.stomped p
      | _ => s
    rxIdle p (if flitOk f then flitTail f else 0) r s

/-! ## Control slots (R351, R352, R357) -/

/-- Blocks that waited for the replay buffer are sent (R357). -/
def sendWaiting (p : Nat) : Nat → State → State
  | 0, s => s
  | n + 1, s =>
    let l := s.link p
    match l.txQ with
    | [] => s
    | fl :: r => if Link.free l then sendWaiting p n ((s.setLink p { l with txQ := r }).sendBlock p fl) else s

/-- The link may start blocks again: what waits goes out, beat frames first, then messages, then packets (R355, R357). -/
def State.linkGo (s : State) (p : Nat) : State :=
  let s := sendWaiting p (s.link p).txQ.length s
  (drainAttach p (s.link p).attachQ.length s).drain p

/-- An `ACK` frees the blocks up to the one it names; one already acknowledged is ignored (R357). -/
def State.ackSlot (s : State) (p n : Nat) : State :=
  let l := s.link p
  if l.unacked.any (fun b => b.bseq == n) then
    let rest := (l.unacked.dropWhile (fun b => b.bseq != n)).drop 1
    (s.setLink p { l with unacked := rest }).linkGo p
  else s

/-- A `NAK` makes the sender go back, or drops the link after a block's third send (R357, R358). -/
def State.nakSlot (s : State) (p n : Nat) : State :=
  let l := s.link p
  match l.unacked.find? (fun b => b.bseq == n) with
  | none => s
  | some b => if 3 ≤ b.sends then s.dropLink p 3 else s.setLink p { l with goBack := some n }

/-- A control slot of a good block. -/
def State.ctlSlot (s : State) (p slot : Nat) : State :=
  let n := nbits slot 8 0
  match nbits slot 10 9 with
  | 0 => s.ackSlot p n
  | 1 => s.nakSlot p n
  | 2 =>
    (s.gainCredits p (nbits slot 8 6) (nbits slot 5 0)).drain p
  | _ =>
    if s.isAttach p ∧ (nbits slot 8 7 = 1 ∨ nbits slot 8 7 = 2) then
      let l := s.link p
      let s := s.setLink p { l with attachCr := l.attachCr + nbits slot 5 0 }
      drainAttach p l.attachQ.length s
    else s

/-! ## Commands -/

/-- The outcome of a received word counts (R379). -/
def State.fecCount (s : State) (p : Nat) (d : Option (Nat × Nat)) : State :=
  match d with
  | none => s.bump (PORT_FEC_UNCORR_COUNT p)
  | some (_, k) => if k = 0 then s else s.bump (PORT_FEC_CORR_COUNT p)

/-- The codeword counts in the evaluation of its lane, up to 65,536 of them (R364). -/
def State.evalCount (s : State) (p lane : Nat) (d : Option (Nat × Nat)) : State :=
  let l := s.link p
  let e := mget ⟨0, 0, 0⟩ l.evals lane
  if l.phase = 2 ∧ l.locked.testBit lane = true ∧ e.words < 65536 then
    let e : LaneEval := match d with
      | none => { e with words := e.words + 1, bad := e.bad + 1 }
      | some (_, k) => { e with words := e.words + 1, worst := max e.worst k }
    s.setLink p { l with evals := mset ⟨0, 0, 0⟩ l.evals lane e }
  else s

/-- A block on a link in service: its flits and control slot are delivered when it is good (R356). -/
def State.takeBlock (s : State) (p : Nat) (d : Option (Nat × Nat)) : State :=
  let l := s.link p
  let expected := match d with | some (m, _) => nbits (fecSlot m) 19 11 == l.rxSeq | none => false
  match (match d with | some (m, _) => if expected && flitsOk l.due (fecFlits m) then some m else none | none => none) with
  | some m =>
    let s := s.setLink p { l with rxSeq := (l.rxSeq + 1) % 512, rxBad := false, ackDue := true }
    let s := (fecFlits m).foldl (fun s f => s.rxFlit p f) s
    let s := s.ctlSlot p (fecSlot m)
    if s.active p then s.flushLink p else s
  | none =>
    if l.rxBad && d.isSome && !expected then s
    else (s.setLink p { l with rxBad := true, nakDue := true }).flushLink p

/-- `FEC_BLOCK` (R349, R350, R356): a codeword arrives on a lane of a port; on a link in service only the lanes in service
carry blocks. -/
def execFecBlock (p : Port) (lane : Fin 8) (flits : BitVec 5120) (slot : BitVec 20) (check : BitVec 300) (s : State) :
    Host.Outcome State Fault Refusal :=
  let p := p.val
  let d := fecDecode (fecJoin flits slot check)
  if s.active p then
    .next (if (s.get (PORT_STATUS_LANES p)).testBit lane.val then (s.fecCount p d).takeBlock p d else s)
  else
    let s := (s.fecCount p d).evalCount p lane.val d
    .next (match d with | some (m, _) => rxIdle p 0 (fecFlits m) s | none => s)

/-- The slot of a resent block: unchanged for credits, a current `ACK` otherwise (R357). -/
def resentSlot (rxSeq slot : Nat) : Nat :=
  if nbits slot 10 9 ≤ 1 then slot / 2048 * 2048 + (rxSeq + 511) % 512 else slot

/-- `LINK_REPLAY` (R357, R358): the sender resends the block that a `NAK` named and every later one. -/
def execLinkReplay (p : Port) (s : State) : Host.Outcome State Fault Refusal :=
  let p := p.val
  let l := s.link p
  match l.goBack with
  | none => .next s
  | some n =>
    let keep := l.unacked.takeWhile (fun b => b.bseq != n)
    let again := (l.unacked.dropWhile (fun b => b.bseq != n)).map (fun b =>
      { b with sends := b.sends + 1, slot := resentSlot l.rxSeq b.slot })
    let s := s.setLink p { l with goBack := none, unacked := keep ++ again }
    let s := s.bumpBy (PORT_REPLAY_COUNT p) again.length
    .next ((again.foldl (fun s b => s.emitBlock p b.slot b.flits) s).linkGo p)

/-- `ACK_TIMEOUT` (R358): the oldest unacknowledged block has waited 10 µs. -/
def execAckTimeout (p : Port) (s : State) : Host.Outcome State Fault Refusal :=
  .next (s.linkEvent p.val 4 (!(s.link p.val).unacked.isEmpty))

/-- `STOMP` (R368): the packet before it has been discarded. -/
def execStomp (p : Port) (s : State) : Host.Outcome State Fault Refusal :=
  match s.takeRx p.val (fun i => i == .stomp) with
  | some (_, s) => .next (s.stomped p.val)
  | none => .next s

/-- `LOS` (R366): an in-service lane has lost its light. -/
def execLos (p : Port) (s : State) : Host.Outcome State Fault Refusal :=
  .next (s.linkEvent p.val 1 true)

/-- `HEARTBEAT_LOSS` (R366): no `BEAT` flit during 8 beats. -/
def execHeartbeatLoss (p : Port) (s : State) : Host.Outcome State Fault Refusal :=
  .next (s.linkEvent p.val 2 (decide ((s.link p.val).lastBeat + 8 ≤ s.edge)))

/-- The laser source unit that feeds a port (R24, R25). -/
def lsuOf (p : Nat) : Nat := p / 8 % 4

/-- The laser source units have been sensed: bring-up phase 1 has ended since the last reset of the ports (R348). -/
def State.lsuSensed (s : State) : Bool := s.rs.sensed

/-- `LSU_FAIL` (R25, R348): a unit fails, or is removed, and the links of its 24 ports drop. -/
def execLsuFail (u : Fin 4) (present : Bool) (s : State) : Host.Outcome State Fault Refusal :=
  let u := u.val
  if s.lsuSensed then
    let s := s.setReg PORT_LSU (setBits (setBits (s.reg PORT_LSU) u u (b2n present)) (4 + u) (4 + u) 0)
    .next ((List.range 96).foldl (fun s p => if lsuOf p == u && (s.portState p == 2 || s.portState p == 3) then s.dropLink p 1 else s) s)
  else .next s

/-- `LSU_READY` (R348): a unit is in and ready; its ports wait for light in `DETECT`. -/
def execLsuReady (u : Fin 4) (s : State) : Host.Outcome State Fault Refusal :=
  let u := u.val
  if s.lsuSensed then .next (s.setReg PORT_LSU (setBits (setBits (s.reg PORT_LSU) u u 1) (4 + u) (4 + u) 1))
  else .next s

end Sys2Proof.Machine
end

