-- ==== Sys2Proof/Machine/Train.lean ====
section
/-! DEFINITION. Training (R360 to R365): from light to `ACTIVE`, and the messages that end a link. -/

namespace Sys2Proof.Machine

/-! ## Messages -/

/-- The first training message in a port's inbox, when it is one of `MSG` `m`, and the state without it. -/
def State.takeTrain (s : State) (p m : Nat) : Option (Flit × State) :=
  match s.takeRx p (fun i => match i with | .train _ => true | _ => false) with
  | some (.train f, t) => if bits (fw f 0) 7 0 = m then some (f, t) else none
  | _ => none

/-- A training message of the link, carried out in `TRAIN` and dropped in every other state (R360). -/
def State.onTrain (s : State) (p : Port) (m : Nat) (f : Flit → Link → State → State) : Host.Outcome State Fault Refusal :=
  match s.takeTrain p.val m with
  | none => .next s
  | some (x, s) => .next (if s.portState p.val = 2 then f x (s.link p.val) s else s)

/-- The module's training message for the whole link at step `k`. -/
def State.say (s : State) (p msg k arg : Nat) (b1 b2 : Word) : State := s.sendTrain p msg 0xFF k arg b1 b2

/-- Highest step of the module: S3 (R346). -/
def topStep : Nat := 3

/-- Kinds of atomics performed, coherent caching and link encryption, as `HELLO` says them (R362): kinds 0 to 10; caching
while `CACHE_EN` of the slot is 1; link encryption where it is present (log 60). -/
def State.helloCaps (s : State) (p : Nat) : Word :=
  let a := s.get (XBAR_PORT_CFG_ACCEL_SLOT p)
  mkWord [(10, 0, 0x7FF), (11, 11, b2n (s.isAttach p && (s.get MEM_DIR_CONFIG_CACHE_EN).testBit a)),
    (12, 12, b2n (s.on GLOBAL_OPTIONS_CONF_LINK))]

/-- Send `HELLO` once (R362). -/
def State.sendHello (s : State) (p : Nat) : State :=
  let l := s.link p
  if l.helloSent then s
  else
    let id := if s.isAttach p then s.slotId (s.get (XBAR_PORT_CFG_ACCEL_SLOT p) + 1) else 0xFFFF
    let b1 := mkWord [(7, 0, 1), (15, 8, s.get (PORT_CFG_VER_CAP p)), (23, 16, l.lit), (25, 24, topStep), (47, 32, id)]
    (s.setLink p { l with helloSent := true }).say p 1 l.step (s.get (PORT_CFG_MODE p)) b1 (s.helloCaps p)

/-! ## Lanes, steps and settling (R364, R365) -/

/-- The width in service of a set of lanes that pass: 8 lanes, lanes 0 to 3, lanes 4 to 7, or none. -/
def lanesOf (m : Nat) : Nat :=
  if m % 256 = 255 then 255 else if m % 16 = 15 then 15 else if m / 16 % 16 = 15 then 0xF0 else 0

/-- Lanes that pass at both ends at a step: at S0 the lanes lit at both ends that locked. -/
def Link.pass (l : Link) (k : Nat) : Nat :=
  if k = 0 then (if l.step = 0 then Nat.land (Nat.land l.lit l.peerLit) l.locked else mget 0 l.evalOwn 0 - 1)
  else Nat.land (mget 0 l.evalOwn k - 1) (mget 0 l.evalPeer k - 1)

/-- The step has been evaluated at both ends. -/
def Link.evaluated (l : Link) (k : Nat) : Bool := k == 0 || (k ≤ l.step && mget 0 l.evalPeer k != 0 && mget 0 l.evalOwn k != 0)

/-- The step and lanes with the highest rate among those evaluated; on a tie 8 lanes (R347, R365). -/
def Link.best (l : Link) : Option (Nat × Nat) :=
  let all := (List.range 4).filter (fun k => l.evaluated k && lanesOf (l.pass k) != 0)
  let rank := fun k => let w := popCount 8 (lanesOf (l.pass k)); w * 2 ^ k * 16 + w
  all.foldl (fun a k => match a with
    | some (j, _) => if rank j < rank k then some (k, lanesOf (l.pass k)) else a
    | none => some (k, lanesOf (l.pass k))) none

/-- End the phases and send `READY` for the step and lanes that stand, or drop the link when no step completed (R364). -/
def State.settle (s : State) (p : Nat) : State :=
  let l := s.link p
  if l.readySent then s
  else match (if l.version = 0 then none else l.best) with
    | none => s.dropLink p 9
    | some (k, lanes) =>
      (s.setLink p { l with readySent := true, phase := 3 }).say p 7 k lanes (BitVec.ofNat 64 l.version) 0

/-- The receive buffer of a port as `CREDIT` slots (R177, R352): the reserve of 5 flits on each channel, and the 2,008
shared flits, which stand under channel 0 (log 46). -/
def bufferSlots : List Nat := (List.range 8).flatMap (fun v => creditSlots v 2 5) ++ creditSlots 0 40 2008

/-- The port enters `ACTIVE` (R352, R364): its buffers are offered as credits, and its peer gets its entry. -/
def State.activate (s : State) (p : Nat) : State :=
  let l := s.link p
  match (if l.version = 0 then none else l.best) with
  | none => s.dropLink p 9
  | some (k, lanes) =>
    let slots := if s.isAttach p then bufferSlots ++ otherSlots 1 2 32 ++ otherSlots 2 2 32 else bufferSlots
    let s := (((s.put (PORT_STATUS_LANES p) lanes).put (PORT_STATUS_SPEED p) k).put (PORT_STATUS_VERSION p) l.version).put
      (PORT_STATUS_REDUCED p) (b2n (!(k == 3 && lanes == 255)))
    let s := s.put (PORT_STATUS_STATE p) 3
    let s := (s.setLink p { link0 with lastBeat := s.edge, slots := slots }).flushLink p
    s.portUp p

/-- This end sends `SPEED_REQ`: the lower `SENDER_ID` of a fabric link, the module on an attach link (R364). -/
def State.asksSpeed (s : State) (p : Nat) (l : Link) : Bool := s.isAttach p || decide (s.selfId < l.peerId)

/-- Go on after a step that both ends completed: ask for the next, whatever passed, or settle after the highest (R364,
R365). -/
def State.nextStep (s : State) (p : Nat) : State :=
  let l := s.link p
  if topStep ≤ l.step then s.settle p
  else
    let s := s.setLink p { l with phase := 1 }
    if s.asksSpeed p l then s.say p 2 (l.step + 1) 0 0 0 else s

/-- Both ends have evaluated the step. -/
def State.evalDone (s : State) (p : Nat) : State :=
  let l := s.link p
  if l.evaluated l.step && 0 < l.step then s.nextStep p else s

/-! ## Transmit taps (R362, R364) -/

/-- Preset taps on the lanes of a set: the preset's values are free (log 47). -/
def State.presetTaps (s : State) (p lanes : Nat) : State :=
  (setBitsOf 8 lanes).foldl (fun s l => let (v, s) := s.take; s.wr (PORT_TAPS p l) (v.toNat % 2 ^ 32)) s

/-- Ask the far transmitter to move a tap of a lane, or ask no more: which requests a receiver makes is free (log 47). -/
def State.askTap (s : State) (p lane : Nat) : State :=
  let (v, s) := s.take
  if bit v 8 then
    let action := bits v 3 2 % 3
    s.sendTrain p 4 lane (s.link p).step (mkWord [(1, 0, bits v 1 0), (3, 2, action), (6, 4, bits v 6 4)]).toNat 0 0
  else s

/-! ## Commands -/

/-- `LIGHT_DETECT` (R360, R510, R519): light on lanes 0 to 3 or 4 to 7 starts training on an enabled port in `DETECT`,
from bring-up phase 7 and with its own laser source ready; new optical bias is in force from now on. -/
def execLightDetect (p : Port) (lanes : BitVec 8) (s : State) : Host.Outcome State Fault Refusal :=
  let p := p.val
  let m := lanes.toNat
  if s.portState p = 1 ∧ 7 ≤ s.phase ∧ lanesOf m ≠ 0 ∧ (s.get PORT_LSU_READY).testBit (lsuOf p) then
    let s := (s.put (PORT_STATUS_STATE p) 2).bump (PORT_TRAIN_COUNT p)
    let s := if s.rs.calNew.contains 0 then s.calApply (0x40 + 64 * p) 64 else s
    let keep := fun (i : RxItem) => match i with | .train _ => false | _ => true
    let s := { s with xb := { s.xb with rx := mset [] s.xb.rx p ((mget [] s.xb.rx p).filter keep) } }
    .next ((s.setLink p { link0 with lit := m }).presetTaps p m)
  else .next s

/-- `BLOCK_LOCK` (R349, R364): a lit lane finds its blocks; at S0 the link then speaks, later its taps are trained. -/
def execBlockLock (p : Port) (lane : Fin 8) (s : State) : Host.Outcome State Fault Refusal :=
  let l := s.link p.val
  if s.portState p.val = 2 ∧ l.lit.testBit lane.val = true then
    let s := s.setLink p.val { l with locked := Nat.lor l.locked (2 ^ lane.val), evals := merase l.evals lane.val }
    .next (if l.step = 0 then s.sendHello p.val else s.askTap p.val lane.val)
  else .next s

/-- `HELLO` (R363): mode and version are settled, or the port fails. -/
def execHello (p : Port) (s : State) : Host.Outcome State Fault Refusal :=
  s.onTrain p 1 (fun f _ s =>
    let p := p.val
    let s := s.sendHello p
    let l := s.link p
    let w := fw f 1
    let id := bits (fw f 0) 63 48
    let s := (s.put (PORT_STATUS_PEER_ID p) id).setReg (PORT_PEER_CAP p) (fw f 2)
    let v := min (s.get (PORT_CFG_VER_CAP p)) (bits w 15 8)
    let failed := fun (s : State) (cause : Nat) =>
      ((s.linkOut p 4).put (PORT_STATUS_DROP_CAUSE p) cause).flag (PORT_STATUS_MISMATCH p)
    if bits (fw f 0) 31 24 ≠ (if s.isAttach p then 2 else 1) then failed (s.say p 9 l.step 7 0 0) 7
    else if v < 1 ∨ v < bits w 7 0 then failed s 8
    else
      let l := { l with peerLit := bits w 23 16, peerId := id, version := v }
      let s := s.setLink p l
      if lanesOf (Nat.land l.lit l.peerLit) = 0 then s.dropLink p 9
      else s.nextStep p)

/-- `SPEED_REQ` (R364): accepted when it names the next step, at most the module's highest; refused otherwise, and the
link settles. -/
def execSpeedReq (p : Port) (s : State) : Host.Outcome State Fault Refusal :=
  s.onTrain p 2 (fun f l s =>
    let k := bits (fw f 0) 17 16
    if k = l.step + 1 ∧ k ≤ topStep ∧ !l.readySent then
      (s.setLink p.val { l with switchDue := true, phase := 1 }).say p.val 3 k 0 0 0
    else (s.say p.val 3 k 1 0 0).settle p.val)

/-- `SPEED_ACK` (R364). -/
def execSpeedAck (p : Port) (s : State) : Host.Outcome State Fault Refusal :=
  s.onTrain p 3 (fun f l s =>
    if bits (fw f 0) 31 24 = 0 then s.setLink p.val { l with switchDue := true } else s.settle p.val)

/-- `SPEED_SWITCH` (R364): both ends go to the next step, with preset taps, and search for blocks again. -/
def execSpeedSwitch (p : Port) (s : State) : Host.Outcome State Fault Refusal :=
  let l := s.link p.val
  if s.portState p.val = 2 ∧ l.switchDue = true then
    let evalOwn := if l.step = 0 then mset 0 l.evalOwn 0 (l.pass 0 + 1) else l.evalOwn
    .next ((s.setLink p.val { l with step := l.step + 1, locked := 0, evals := [], switchDue := false, phase := 2, evalOwn := evalOwn }).presetTaps
      p.val (Nat.land l.lit l.peerLit))
  else .next s

/-- `TAP_REQ` (R362, R364): the transmitter moves a tap of a lane and answers. By how much it moves, where its limit
lies and what a preset holds are free (log 47). -/
def execTapReq (p : Port) (s : State) : Host.Outcome State Fault Refusal :=
  s.onTrain p 4 (fun f _ s =>
    let p := p.val
    let lane := bits (fw f 0) 15 8
    let step := bits (fw f 0) 17 16
    let arg := bits (fw f 0) 31 24
    let answer := fun (s : State) (a : Nat) => s.sendTrain p 5 lane step a 0 0
    if 8 ≤ lane ∨ nbits arg 3 2 = 3 then answer s 2
    else
      let tap := nbits arg 1 0
      let r := s.reg (PORT_TAPS p lane)
      let v := toSigned 8 (bits r (8 * tap + 7) (8 * tap))
      let (x, s) := s.take
      let set := fun (s : State) (i : Int) => s.setReg (PORT_TAPS p lane) (setBits r (8 * tap + 7) (8 * tap) (ofSigned 8 i))
      let n := bits x 7 0
      match nbits arg 3 2 with
      | 0 => answer (s.presetTaps p (2 ^ lane)) 0
      | 1 => if bit x 8 || v == 127 then answer s 1 else answer (set s (v + 1 + (n % (127 - v).toNat : Nat))) 0
      | _ => if bit x 8 || v == -128 then answer s 1 else answer (set s (v - 1 - (n % (v + 128).toNat : Nat))) 0)

/-- `TAP_RSP` (R364): the outcome of a tap request; the lane's evaluation counts from here, and the receiver may ask
again. -/
def execTapRsp (p : Port) (s : State) : Host.Outcome State Fault Refusal :=
  s.onTrain p 5 (fun f l s =>
    let lane := bits (fw f 0) 15 8 % 8
    (s.setLink p.val { l with evals := merase l.evals lane }).askTap p.val lane)

/-- The lanes that an evaluation covers: lit at both ends and locked (R365). -/
def Link.evalLanes (l : Link) : Nat := Nat.land l.locked (Nat.land l.lit l.peerLit)

/-- A lane passes (R364): no codeword was beyond correction, and none took more than 8 symbols. -/
def LaneEval.pass (e : LaneEval) : Bool := e.bad == 0 && e.worst ≤ 8

/-- `LANE_EVALUATION` (R364, R365): evaluation ends here once every lane that it covers has had 65,536 codewords; a lane
that is not lit at both ends or has not locked fails. -/
def execLaneEvaluation (p : Port) (step : Fin 4) (s : State) : Host.Outcome State Fault Refusal :=
  let l := s.link p.val
  let lanes := setBitsOf 8 (Link.evalLanes l)
  let seen := fun (i : Nat) => mget ⟨0, 0, 0⟩ l.evals i
  if s.portState p.val = 2 ∧ l.phase = 2 ∧ l.step = step.val ∧ mget 0 l.evalOwn l.step = 0 ∧ lanes.all (fun i => 65536 ≤ (seen i).words) = true then
    let m := ((lanes.filter (fun i => LaneEval.pass (seen i))).map (2 ^ ·)).sum
    let l := { l with evalOwn := mset 0 l.evalOwn l.step (m + 1) }
    .next (((s.setLink p.val l).say p.val 6 l.step m 0 0).evalDone p.val)
  else .next s

/-- `EVAL_DONE` (R364): the lanes that pass at the peer. -/
def execEvalDone (p : Port) (s : State) : Host.Outcome State Fault Refusal :=
  s.onTrain p 6 (fun f l s =>
    let k := bits (fw f 0) 17 16
    (s.setLink p.val { l with evalPeer := mset 0 l.evalPeer k (bits (fw f 0) 31 24 + 1) }).evalDone p.val)

/-- `READY` (R364): the peer has settled; this end settles too, and the port enters `ACTIVE`. -/
def execReady (p : Port) (s : State) : Host.Outcome State Fault Refusal :=
  s.onTrain p 7 (fun _ _ s =>
    let s := s.settle p.val
    if s.portState p.val = 2 then s.activate p.val else s)

/-- `TRAIN_PHASE_TIMEOUT` (R364): training ends at the best step that completed, or the link drops; in the last phase
the port enters `ACTIVE` at that step (log 48). -/
def execTrainPhaseTimeout (p : Port) (s : State) : Host.Outcome State Fault Refusal :=
  if s.portState p.val = 2 then .next (if (s.link p.val).readySent then s.activate p.val else s.settle p.val) else .next s

/-- A message by which the peer takes the link down (R366). -/
def State.peerDown (s : State) (p m : Nat) : Host.Outcome State Fault Refusal :=
  match s.takeTrain p m with
  | none => .next s
  | some (_, s) => .next (if s.portState p = 2 then s.dropLink p 5 else s.linkEvent p 5 true)

/-- `RETRAIN` (R366). -/
def execRetrain (p : Port) (s : State) : Host.Outcome State Fault Refusal := s.peerDown p.val 8

/-- `DOWN` (R366). -/
def execDown (p : Port) (s : State) : Host.Outcome State Fault Refusal := s.peerDown p.val 9

end Sys2Proof.Machine
end

