-- ==== Sys2Proof/Machine/Reset.lean ====
section
/-! DEFINITION. The resets (R20, R21, R497 to R505): what each level clears, and the events that begin and end them. -/

namespace Sys2Proof.Machine

/-! ## Registers -/

/-- Every register reset by its column: bits that `keep` selects stay, the others take their power-on value (R501). -/
def State.maskRegs (s : State) (keep : RegInfo → Nat) : State :=
  let word := fun (id : Nat) (e : Nat × Word) =>
    let k := BitVec.ofNat 64 (keep (regInfoOf id))
    (e.1, (e.2 &&& k) ||| (porWord id e.1 &&& ~~~k))
  let row := fun (r : Nat × SMap Word) => (r.1, (r.2.map (word r.1)).filter (fun e => e.2 != porWord r.1 e.1))
  { s with regs := (s.regs.map row).filter (fun r => !r.2.isEmpty) }

/-! ## Core reset (R20, R21, R502) -/

/-- Opcodes carried out through a core reset (R391). -/
def keptOps : List Nat :=
  [1, 0x101, 0x102, 0x401, 0x402, 0x403, 0x404, 0x405, 0x406, 0x407, 0x901, 0x902, 0x903, 0x904, 0xB01, 0xB04, 0xB05, 0xB06,
    0xB07, 0xC01, 0xC02, 0xC03, 0xC04, 0xC05, 0xD01, 0xE01, 0xE02]

/-- Commands in progress are held, but for those that a core reset leaves alone (R391). A prefetch and an image load lose
their translations with the unit and are taken anew afterwards. -/
def State.holdCommands (s : State) : State :=
  let held := (List.range 33).filter (fun m => s.on (MB_STATUS_BUSY m) && !keptOps.contains (s.cmdOp m))
  let again := fun (m : Nat) => held.contains m && ([0x208, 0x802] : List Nat).contains (s.cmdOp m)
  { s with hm := { s.hm with held := held, running := s.hm.running.filter (fun m => !again m) } }

/-- `DOMAIN_RESET` on every attach port, a back-invalidation of the HDM range, and an empty directory; pending counter
waits end (R158, R377, R502). -/
def State.domainReset (s : State) : State :=
  let s := ((List.range 96).filter (fun p => s.active p && s.isAttach p)).foldl (fun s p =>
    s.sendAttach p 0xB2 0 0 false 0 0 0 none) s
  let s := if s.cxlUp then s.emit (.backInval none) else s
  let s := (s.lk.ports.map (·.1)).foldl (fun s p => s.setLink p { s.link p with lcWaits := [] }) s
  { s with dir := [] }

/-- Buffers of the units in reset go back to the free lists; the 64 KiB pool empties (R21). -/
def State.resetPools (s : State) : State :=
  let s := s.dropBufs (fun _ h => h != .unit .cxl && h != .unit .maltster)
  let keep := fun (w : PoolUser × Nat × Nat) => w.1 == .cxl || w.1 == .maltster
  let s := { s with pl := { s.pl with waits := s.pl.waits.filter keep, tilesOut := true } }
  s.poolServe.setBufs 3 (mget [] s.pl.bufs 3) 0

/-- The Ikio memory access in progress ends (R522). -/
def State.endIkio (s : State) : State :=
  if s.rs.ikio.isSome then ({ s with rs := { s.rs with ikio := none } }).sayEnd stSTATE_CONFLICT else s

/-- Packets stored for the internal ports end as those that would be sent there (R20): requests with `TARGET_LOST`, replies are
discarded and counted. -/
def State.endInternal (s : State) : State :=
  let gone := s.xb.xq.filter (fun x => decide (96 ≤ x.outPort))
  let s := gone.foldl (fun s x => s.unstore x) s
  (gone.foldl (fun s x => if Pkt.isReply x.pkt then s.bump XBAR_ORPHAN_REPLIES else s.swAck x.pkt stTARGET_LOST) s).xqCounts

/-- The units that a core reset clears, and the queues of port 97 (R241); while the ports are already closed, what waits at port
96 is answers of the switch core (R20), which stay (R61, R93, R127, R150, R187, R225, R246, R279, R300, R325, R344, R411). -/
def State.clearCore (s : State) : State :=
  let all := fun (_ : Nat) => true
  let s := ((((s.dropDescs all).dropSteps all).dropBarriers all).dropChunks all).dropCores all
  let s := s.dropMoves (fun _ => true)
  let combs := s.xb.comb
  let tr : TrackU := { gens := s.tr.gens, nextOp := s.tr.nextOp, nextMove := s.tr.nextMove, nextMc := s.tr.nextMc }
  let xl :=
    { s.xl with
      atc := [], reqs := [], waits := [], invals := s.xl.invals.map (fun i => { i with uses := [] }),
      changes := s.xl.changes.map (fun c => { c with uses := [] }) }
  let xb :=
    { s.xb with
      comb := [], out96 := if s.xb.closed then s.xb.out96 else [], out97 := [], epIn := [], rdxIn := [], closed := true,
      deficit := s.xb.deficit.filter (fun e => decide (e.1 < 257 * drrKey 98 0)),
      judged := s.xb.judged.filter (fun e => decide (e.1 < 96)) }
  let tu : TunU := { nextLoad := s.tu.nextLoad, store := s.tu.store, scale := s.tu.scale }
  let st :=
    { s.st with
      rings := (s.st.rings.map (fun r => (r.1, ring0))).filter (fun r => r.2 != ring0), steps := [], charged := 0, admAt := none,
      heldTill := 0, holdFrom := none, attnBeat := none, attnMore := 0 }
  let s := { s with tr := tr, xl := xl, xb := xb, tu := tu, st := st, pa := { s.pa with sealWait := [] } }
  (combs.foldl (fun s c => s.combCount c.port) s).endInternal

/-- `CORE_RESET` (R20, R21, R498, R501 to R503): ignored during a longer reset. -/
def execCoreReset (s : State) : Host.Outcome State Fault Refusal :=
  if s.rs.por ∨ s.rs.level ≠ 0 then .next s
  else
    let beat := s.reg TIME_BEAT_NOW
    let s := s.holdCommands.domainReset.endIkio.clearCore.resetPools
    let s := s.maskRegs RegInfo.coreKeep
    let s := { s with rs := { s.rs with level := 1, core := true, trial := 0 } }
    let s := (s.flag GLOBAL_RESET_CAUSE_CORE_SEEN).put GLOBAL_RESET_CAUSE_LAST 2
    let s := s.put GLOBAL_RESET_CAUSE_CORE_COUNT (s.get GLOBAL_RESET_CAUSE_CORE_COUNT + 1)
    .next (s.setReg GLOBAL_CORE_RESET_BEAT beat)

/-- `INTERNAL_PORTS_REOPEN` (R500): the Tun store is zeroed, the 64 KiB pool refills, held commands resume; the ports open
once bring-up has reached phase 9. -/
def execInternalPortsReopen (s : State) : Host.Outcome State Fault Refusal :=
  if s.rs.core = true ∧ s.rs.level = 0 ∧ s.rs.por = false then
    let run := decide (s.phase = 9)
    let s := { s with rs := { s.rs with core := false }, tu := { s.tu with store := [], scale := [] }, pl := { s.pl with tilesOut := false } }
    let used := ((mget [] s.pl.bufs 3).filter (fun b => b.2.inUse)).length
    let s := s.setBufs 3 (mget [] s.pl.bufs 3) (s.poolSize 3 - used)
    let s := { s with hm := { s.hm with held := [] }, xb := { s.xb with closed := !run }, pg := { s.pg with fresh := true } }
    .next s.poolServe.ringsFull.dirSettle
  else .next s

/-! ## Bring-up begins -/

/-- Reset ends and bring-up starts in phase 0: a full boot when the boot record is invalid or asks for one (R508). -/
def State.startBringup (s : State) : State :=
  { s with rs := { s.rs with por := false, level := 0, pinHeld := false, intHeld := none, full := !(s.bootValid && !s.rs.boot.full) } }

/-! ## Output pins (R504, R532, R533) -/

/-- The alarm bits of the two-wire `STATUS`; `MGMT_INT_N` is low while one is 1 (R533, R535). -/
def State.twAlarms (s : State) : Nat :=
  2 ^ 8 * s.get PGOV_STATUS_CAP_LAG + 2 ^ 9 * s.get PGOV_STATUS_ALERT + 2 ^ 10 * s.get GLOBAL_THERMAL_HOT +
    2 ^ 11 * s.get GLOBAL_BOOT_STATUS_HALTED

/-- The level of `MGMT_INT_N` (R533): true while it is released. A system reset holds the last one (R504). -/
def State.mgmtIntN (s : State) : Bool :=
  if s.rs.por = false ∧ s.rs.level = 2 then s.rs.intHeld.getD (s.twAlarms == 0) else s.twAlarms == 0

/-- The electrical output pins of R532 between their transfers. -/
inductive OutPin where
  | resetN | mgmtSda | mgmtIntN | uartTx | tdo | p3v3Aux
  deriving DecidableEq, Repr

/-- The level at which an output pin stands: while power-on reset is held, its level of R532. -/
def State.pinLevel (s : State) (p : OutPin) : PinLevel :=
  match p with
  | .resetN => if s.rs.por = false ∧ s.rs.level = 2 then .low else .released
  | .mgmtSda => .released
  | .mgmtIntN => if s.rs.por = true ∨ s.mgmtIntN = true then .released else .low
  | .uartTx => .high
  | .tdo => .floating
  | .p3v3Aux => if s.rs.aux then .on else .off

/-- The name of a pin. -/
def pinName (p : OutPin) : String :=
  match p with
  | .resetN => "RESET_N" | .mgmtSda => "MGMT_SDA" | .mgmtIntN => "MGMT_INT_N" | .uartTx => "UART_TX" | .tdo => "TDO"
  | .p3v3Aux => "P3V3_AUX"

/-- A pin takes the level at which it now stands. -/
def State.showPin (s : State) (p : OutPin) : State := s.emit (.pin (pinName p) (s.pinLevel p))

/-! ## System reset -/

/-- A write of the flash that a reset or a loss of power cuts short: an image then verifies no longer (R439); a store whose
sector was being erased or programmed passes its checks no longer, and one that was being read back is whole. Which of them a
`CAL_WRITE` had come to is a free bit (R518, R519; log 166). -/
def State.cutFlash (s : State) : State :=
  let s := if s.pa.commit.isSome then { s with pa := { s.pa with flash := some [] } } else s
  match s.rs.calWrite with
  | none => s
  | some (_, k, bs) =>
    let (v, s) := s.take
    if bit v 0 then { s with rs := { s.rs with storeBad := true } }
    else { s.calProgram k bs with rs := { (s.calProgram k bs).rs with storeBad := false } }

/-- The fuses keep their values (R432, R545). -/
def State.keepFuses (s : State) (old : Word) : State := s.put ⟨PART_SVN, 43, 32⟩ (bits old 43 32)

/-- Registers that follow kept settings after a reset of the switch core and of the ports (R6, R196, R379). -/
def State.afterClear (s : State) : State :=
  let s := s.wr (POOL_FREE 0) (s.poolSize 0)
  let s := s.wr (POOL_LOW_MARK 0) (s.poolSize 0)
  ((List.range 96).filter (fun p => s.on (PORT_CFG_ENABLE p))).foldl (fun s p => s.put (PORT_STATUS_STATE p) 1) s

/-- `SYSTEM_RESET` (R498 to R504): everything but the flash, the debug logic, the straps, the release and the Cask. -/
def execSystemReset (s : State) : Host.Outcome State Fault Refusal :=
  if s.rs.por ∨ s.rs.level = 2 then .next s
  else
    let held := s.mgmtIntN
    let s := s.endIkio.cutFlash
    let fuses := s.reg PART_SVN
    let rs : ResetU :=
      { por := false, level := 2, boot := s.rs.boot, store := s.rs.store, storeBad := s.rs.storeBad, mgmtAddr := s.rs.mgmtAddr,
        perst := s.rs.perst, tap := s.rs.tap, scan := s.rs.scan, storeHead := s.rs.storeHead, recording := s.rs.recording,
        intHeld := some held, aux := s.rs.aux }
    let pa : PartU := { flash := s.pa.flash, sparged := s.pa.sparged }
    let t : State :=
      { pending := s.pending, regs := s.regs, out := s.out, free := s.free, tm := { clock := s.tm.clock, edges := s.tm.edges }, ck := s.ck,
        xb := { rsvdLocked := s.xb.rsvdLocked }, pa := pa, rs := rs }
    let t := ((t.maskRegs RegInfo.sysKeep).keepFuses fuses).afterClear
    let t := t.put GLOBAL_STRAPS_CLK_ACTIVE (t.get GLOBAL_STRAPS_CLK_MODE)
    let t := (t.flag GLOBAL_RESET_CAUSE_SYS_SEEN).put GLOBAL_RESET_CAUSE_LAST 1
    let t := t.put GLOBAL_RESET_CAUSE_SYS_COUNT (t.get GLOBAL_RESET_CAUSE_SYS_COUNT + 1)
    .next (t.showPin .resetN)

/-- `RESET_END` (R499, R500): the module's drive has ended and the pin is high; after a system reset bring-up starts, and after
a power-on reset that `RESET_N` prolonged (R503). -/
def execResetEnd (s : State) : Host.Outcome State Fault Refusal :=
  if s.rs.por then .next (if s.rs.pinHeld then s.startBringup else s)
  else match s.rs.level with
    | 0 => .next s
    | 1 => .next ((({ s with rs := { s.rs with level := 0 } }).emit (.pin "RESET_N" .low)).showPin .resetN)
    | _ => .next (s.startBringup.showPin .resetN)

/-! ## Power-on reset and loss of power -/

/-- Power-on reset is held: all but the Cask, the flash and the fuses takes its power-on value, and the output pins theirs
(R501, R504, R532). A boot record that was being written is left invalid (R513). `off`: until the input cycles; `aux`: the
input stands above 46 V. -/
def State.powerOff (s : State) (off trip aux : Bool) : State :=
  let s := s.cutFlash
  let torn : BootRecord := if s.rs.recording then { s.rs.boot with crc := (crc32 s.rs.boot.bytes + 1) % 2 ^ 32 } else s.rs.boot
  let rs : ResetU :=
    { off := off, boot := torn, store := s.rs.store, storeBad := s.rs.storeBad, storeHead := s.rs.storeHead, perst := s.rs.perst, aux := aux }
  let pa : PartU := { flash := s.pa.flash }
  let t : State :=
    { pending := s.pending, out := s.out, free := s.free, tm := { clock := s.tm.clock, edges := s.tm.edges }, ck := s.ck, pa := pa, rs := rs }
  let t := (t.keepFuses (s.reg PART_SVN)).put GLOBAL_THERMAL_TRIP_SEEN (b2n (trip || s.on GLOBAL_THERMAL_TRIP_SEEN))
  ([.resetN, .mgmtSda, .mgmtIntN, .uartTx, .tdo, .p3v3Aux] : List OutPin).foldl (fun t p => t.showPin p) t

/-- `POWER_ON_RESET` (R497, R503). Whether the input fell below 46 V or a rail left regulation is free, and with it
`P3V3_AUX` (log 168). -/
def execPowerOnReset (s : State) : Host.Outcome State Fault Refusal :=
  let (v, s) := s.take
  .next (s.powerOff s.rs.off false (bit v 0 && !s.rs.off))

/-- `POR_RELEASE` (R497, R505): the straps and `MGMT_ADDR` are sampled, and bring-up starts, or the module stays in reset while
`RESET_N` is low (R503); it stays off after a thermal trip or with its breaker open. -/
def execPorRelease (bootSrc clkMode : BitVec 2) (pins : PorPins) (s : State) : Host.Outcome State Fault Refusal :=
  if s.rs.por = true ∧ s.rs.off = false ∧ s.rs.pinHeld = false then
    let s := (s.put GLOBAL_STRAPS_BOOT_SRC bootSrc.toNat).put GLOBAL_STRAPS_CLK_MODE clkMode.toNat
    let s := s.put GLOBAL_STRAPS_CLK_ACTIVE clkMode.toNat
    let s := { s with rs := { s.rs with mgmtAddr := pins.addr.toNat, aux := true } }
    .next (if pins.resetLow then { s with rs := { s.rs with pinHeld := true } } else s.startBringup)
  else .next s

/-- `THERMAL_TRIP` (R541): every rail but the Cask's turns off. -/
def execThermalTrip (s : State) : Host.Outcome State Fault Refusal := .next (if s.rs.por then s else s.powerOff true true false)

/-- `BREAKER_OPEN` (R528, R529). -/
def execBreakerOpen (s : State) : Host.Outcome State Fault Refusal := .next (s.powerOff true false false)

/-- `HOT_SWAP_CHARGE` (R529): insertion into a live busbar, with power-on reset held; the input has risen anew. -/
def execHotSwapCharge (s : State) : Host.Outcome State Fault Refusal := .next (s.powerOff false false true)

end Sys2Proof.Machine
end

