-- ==== Sys2Proof/Machine/Boot.lean ====
section
/-! DEFINITION. Bring-up (R505 to R520): its phases, the image and the sources of recovery (R439, R514), the boot record. -/

namespace Sys2Proof.Machine

/-- The phase shown in `GLOBAL_BOOT_STATUS`. -/
def State.setPhase (s : State) (k : Nat) : State := s.put GLOBAL_BOOT_STATUS_PHASE k

/-- Bring-up halts with a cause (R505, R506, R509, R512). -/
def State.haltBoot (s : State) (cause : Nat) : State := (s.flag GLOBAL_BOOT_STATUS_HALTED).put GLOBAL_BOOT_STATUS_HALT_CAUSE cause

/-- Bring-up runs: no reset is held, and it has not halted. -/
def State.booting (s : State) : Bool := !s.rs.por && s.rs.level != 2 && !s.on GLOBAL_BOOT_STATUS_HALTED

/-! ## Images and their sources (R439, R514) -/

/-- The image of a source has verified: it runs, and bring-up goes on with phase 1. Its section hashes fix the derived keys
(R433, R441). -/
def State.bootImage (s : State) (source : Nat) (bs : List Byte) : State :=
  let h := bytesWords 64 (bs.take 512)
  let w0 := wd h 0
  let w1 := wd h 1
  let hashes := (List.range 3).map (fun k => Config.sha384 (slice bs (section_ h k).1 (section_ h k).2))
  let s := (s.setReg PART_FW (wd h 5)).put PART_SVN_IMAGE_SVN (bits w1 31 0)
  let s := (s.put PART_SVN_KEY_SLOT (bits w0 51 48)).put GLOBAL_BOOT_STATUS_SOURCE source
  let s := (s.put PART_STATUS_RECOVERED (b2n (source != 0))).put GLOBAL_BOOT_STATUS_WAIT_CXL 0
  let rs := { s.rs with wait := none, transfer := false, port := none, from_ := 0, image := [], next := 0, asked := 0, imageLen := 0 }
  ({ s with pa := { s.pa with hashes := hashes }, rs := rs }).setPhase 1

/-- The ROM turns to a source. Flash and UART are read in phase 0; the other two run phases 1 and 2 first; a neighbour is
skipped without a valid boot record. -/
def State.trySource (s : State) (k : Nat) : State :=
  let k := if k = 3 ∧ s.bootValid = false then 0 else k
  let s := s.bootDrop.put GLOBAL_BOOT_STATUS_WAIT_CXL 0
  let rs := { s.rs with wait := some k, transfer := false, port := none, from_ := 0, image := [], next := 0, asked := 0, imageLen := 0 }
  ({ s with rs := rs }).setPhase (if k = 1 ∨ k = 3 then 1 else 0)

/-- The source after the one that failed. -/
def State.nextSource (s : State) : State :=
  match s.rs.wait with
  | none => s.trySource (s.get GLOBAL_STRAPS_BOOT_SRC)
  | some k => s.trySource ((k + 1) % 4)

/-- The transfer of a recovery image has ended, and the image is verified under R435 (R439, R514). The bytes that came over
UART or from the host's memory are `bytes`, as many as were asked for; a neighbour's are those that its reads brought.
`sound`: what the transfer itself checks did not fail. -/
def State.imageCame (s : State) (bytes : List Byte) (sound : Bool) : State :=
  match s.rs.wait with
  | none => s
  | some k =>
    let bs := if k = 3 then readBytes s.rs.image 0 (min s.rs.imageLen s.rs.next)
      else bytes.take (if k = 2 then s.rs.imageLen else s.get GLOBAL_BOOT_HOST_LEN_LEN)
    if s.imageStatus bs = 0 ∧ sound = true then (if k = 3 then s.bootDrop else s).bootImage k bs else s.nextSource

/-- The bytes of the source waited on: those of the UART line or those of the host's memory. -/
def State.imageBytes (s : State) (line host : List Byte) : List Byte := if s.rs.wait = some 2 then line else host

/-- What a transfer checks by itself (log 133): over UART the CRC-32 that followed the bytes, where the transfer came to its
end or the CRC came; over CXL that no read of host memory ended in error. -/
def State.imageSound (s : State) (line : List Byte) (crc : Option (BitVec 32)) (ok whole : Bool) : Bool :=
  match s.rs.wait with
  | some 2 => (match crc with | some c => decide (c.toNat = crc32 (line.take s.rs.imageLen)) | none => !whole)
  | some 1 => ok
  | _ => true

/-- `IMAGE_TRANSFER_END` (R514): the last byte has arrived. `line` and `crc` are what came over UART, `host` and `ok` what
the reads of host memory brought and whether none ended in error. -/
def execImageTransferEnd (line : List Byte) (crc : Option (BitVec 32)) (host : List Byte) (ok : Bool) (s : State) :
    Host.Outcome State Fault Refusal :=
  let whole := s.rs.wait != some 3 || (s.rs.imageLen != 0 && s.rs.asked == 0 && decide (s.rs.want ≤ s.rs.next))
  if s.booting = true ∧ s.rs.transfer = true ∧ whole = true then
    .next (s.imageCame (s.imageBytes line host) (s.imageSound line crc ok true))
  else .next s

/-- `IMAGE_TRANSFER_STALL` (R514): a transfer has stalled for 1 s; what arrived is verified. -/
def execImageTransferStall (line : List Byte) (crc : Option (BitVec 32)) (host : List Byte) (ok : Bool) (s : State) :
    Host.Outcome State Fault Refusal :=
  if s.booting = true ∧ s.rs.transfer = true then
    .next (s.imageCame (s.imageBytes line host) (s.imageSound line crc ok false))
  else .next s

/-- `BOOT_SOURCE_WAIT_EXPIRE` (R439): 30 s on a source other than flash without a transfer. -/
def execBootSourceWaitExpire (s : State) : Host.Outcome State Fault Refusal :=
  match s.rs.wait with
  | some (_ + 1) => if s.booting = true ∧ s.rs.transfer = false then .next s.nextSource else .next s
  | _ => .next s

/-- `BOOT_HOST_GO` (R514, R524): accepted while `WAIT_CXL` is 1; with `GO` the ROM reads the image. -/
def execBootHostGo (v : Word) (s : State) : Host.Outcome State Fault Refusal :=
  if s.on GLOBAL_BOOT_STATUS_WAIT_CXL then
    let s := s.put GLOBAL_BOOT_HOST_LEN_LEN (bits v 31 0)
    if bit v 63 ∧ s.rs.transfer = false then
      .next (({ s with rs := { s.rs with transfer := true } }).emit
        (.hostRead (s.get GLOBAL_BOOT_HOST_ADDR_ADDR * 4096) (bits v 31 0)))
    else .next s
  else .next s

/-! ## Leaving `HOLD` (R510, R514) -/

/-- The module is released: in `HOLD` it goes on, and a ROM that waits for a neighbour enables its fabric ports. -/
def State.leaveHold (s : State) : State :=
  if s.on GLOBAL_BOOT_STATUS_RELEASED ∧ s.phase = 6 then
    let s := s.setPhase 7
    if s.rs.wait = some 3 then
      (((List.range 96).filter (fun p => !s.isAttach p)).foldl (fun s p =>
        let s := s.put (PORT_CFG_ENABLE p) 1
        if s.portState p = 0 ∨ s.portState p = 4 then s.put (PORT_STATUS_STATE p) 1 else s) s).bootTry
    else s
  else s

/-- `HOLD` is released, now or for when it is reached (R510, R535). -/
def State.release (s : State) : State := (s.flag GLOBAL_BOOT_STATUS_RELEASED).leaveHold

/-- Bring-up reaches `HOLD`, and passes through when it has been released. -/
def State.reachHold (s : State) : State := (s.setPhase 6).leaveHold

/-! ## The phases (R507) -/

/-- Phase 0: the flash image is read and verified under R435, on a retry of flash too. `bytes` are those that the factory
programmed, while the module has not written the region itself (R545). -/
def State.endMaltster (s : State) (bytes : List Byte) : State :=
  if s.rs.wait = none ∨ s.rs.wait = some 0 then
    let bs := s.pa.flash.getD bytes
    let s := { s with pa := { s.pa with flash := some bs } }
    if s.imageStatus bs = 0 then s.bootImage 0 bs else s.nextSource
  else s

/-- Phase 1: reference, calibration store, laser source units (R348, R505, R506, R516). With `CLK_MODE` 10 the module starts
on its own oscillator. The store's header is what the factory wrote until the module has read it, and then what the module
made of it (R518). -/
def State.endClock (s : State) (board store : Bool) (factory : BitVec 3) (writes : BitVec 32) (present ready : BitVec 4) : State :=
  let mode := s.get GLOBAL_STRAPS_CLK_MODE
  if mode = 3 then s.haltBoot 1
  else if mode = 0 ∧ board = false then s.haltBoot 2
  else
    let s := s.put GLOBAL_STRAPS_CLK_ACTIVE (if mode = 2 then 1 else mode)
    let s := s.pickClock
    let good := store && !s.rs.storeBad
    let head := s.rs.storeHead.getD (factory.toNat, writes.toNat)
    let s := { s with rs := { s.rs with wire := true, sensed := true, calRom := !good, cal := if good then s.rs.store else [], calNew := [], storeHead := some head } }
    let s := (s.put CAL_STATUS_VALID (b2n good)).put CAL_STATUS_DEFAULTS (b2n !good)
    let s := s.calHead
    let s := (s.put PORT_LSU_PRESENT present.toNat).put PORT_LSU_READY (Nat.land present.toNat ready.toNat)
    s.setPhase 2

/-- The repairs of phase 2 (R508): a full boot takes those that its tests found; a fast boot applies the record's, and adds
what its march test found besides, which rewrites the record. -/
def State.repairSram (s : State) (faults : List Nat) : State :=
  if s.rs.full then { s with rs := { s.rs with sram := faults.eraseDups } }
  else
    let old := s.rs.boot.sram
    let more := (faults.filter (fun x => !old.contains x)).eraseDups
    let s := { s with rs := { s.rs with sram := old ++ more } }
    if more.isEmpty then s else s.putRecord { s.rs.boot with sram := old ++ more }

/-- What follows phase 2: the CXL link or `HOLD` while the ROM waits for an image, phase 3 otherwise, or phase 5 where there
is no HBM4E (R511). -/
def State.endSram (s : State) : State :=
  if s.rs.wait = some 1 then s.setPhase 5
  else if s.rs.wait = some 3 then s.reachHold
  else s.setPhase (if s.on GLOBAL_OPTIONS_HBM_PRESENT then 3 else 5)

/-- Phase 5: the link trains unless `PERST_N` holds it down (R539). -/
def State.endCxl (s : State) (up x16 gt64 : Bool) : State :=
  let s := if up && !s.rs.perst then s.cxlTrained x16 gt64 else s
  if s.rs.wait = some 1 then s.flag GLOBAL_BOOT_STATUS_WAIT_CXL else s.reachHold

/-- The values of `TIME_COST` (R53). -/
def costTable : List Nat :=
  [10240, 7680, 25600, 28160, 46080, 410, 9, 183, 40960, 30720, 5120, 183, 15360, 366, 30720, 103, 51200]

/-- The failing columns of the Tun, each once, in rising order. -/
def columnMap (cols : List (BitVec 10)) : List Nat := (List.range 520).filter (fun c => cols.contains (BitVec.ofNat 10 c))

/-- The repair map of the Tun (R248, R249, R280). -/
def State.mapColumns (s : State) (cols : List Nat) : State :=
  let col := fun i => if i < cols.length then cols.getD i 0x3FF else 0x3FF
  let pack := fun (k n : Nat) => mkWord ((List.range n).map (fun i => (10 * i + 9, 10 * i, col (k + i))))
  let s := (s.setReg TUN_REPAIR_A (pack 0 6)).put TUN_REPAIR_B_COL6_COL7 (pack 6 2).toNat
  let s := s.put TUN_REPAIR_B_COUNT (min 9 cols.length)
  if 8 < cols.length then s.flag TUN_STATUS_FAILED else s

/-- Write the boot record (R513): at the end of a full boot, which rebuilds it, and after a repair that a fast boot adds. A
valid record holds the last `SELF_ID`. -/
def State.writeRecord (s : State) (cols : List (BitVec 10)) : State :=
  if s.rs.full then
    let id := if s.bootValid then s.rs.boot.selfId else s.selfId
    s.putRecord { selfId := id, full := false, cols := cols, sram := s.rs.sram, rows := s.rs.rows }
  else s.putRecord { s.rs.boot with cols := cols }

/-- Phase 8: columns mapped, costs loaded, ballast measured (a part of a W is rounded by a free bit, log 8); then the
internal ports open and bring-up is done. A fast boot keeps the record's map and adds what failed anew. -/
def State.endCompute (s : State) (cols : List (BitVec 10)) (mw1 mw0 : Nat) : State :=
  let all := if s.rs.full then cols else s.rs.boot.cols ++ cols.filter (fun c => !s.rs.boot.cols.contains c)
  let s := s.mapColumns (columnMap all)
  let s := (costTable.mapIdx (fun i v => (i, v))).foldl (fun s e => s.wr (TIME_COST e.1) e.2) s
  let d := if s.on GLOBAL_OPTIONS_TUN_PRESENT then 16 * (mw1 - mw0) else 0
  let (v, s) := s.take
  let s := s.wr PGOV_BALLAST_W (d / 1000 + (if d % 1000 = 0 then 0 else b2n (bit v 0)))
  let s := if s.rs.full ∨ s.rs.boot.cols.length < all.length then s.writeRecord all else s
  let s := (s.put GLOBAL_RESET_CAUSE_FULL_BOOT (b2n s.rs.full)).flag GLOBAL_BOOT_STATUS_DONE
  let s := s.put TUN_STATUS_BALLAST_DUTY 0
  (({ s with xb := { s.xb with closed := false } }).setPhase 9).ringsFull

/-- Phase 4: the stacks that passed are in service, and a full boot keeps the rows that their repairs replaced (R508, R513). -/
def State.endStacks (s : State) (ok : BitVec 4) (rows : List (Nat × Nat)) : State :=
  let s := { s with rs := { s.rs with rows := if s.rs.full then rows else s.rs.rows } }
  (s.put MEM_HBM_STATUS_IN_SERVICE ok.toNat).setPhase 5

/-- Phase 8 begins, and with it the 1,024 beats at duty 1 (R511). -/
def State.startCompute (s : State) : State := { s.setPhase 8 with rs := { s.rs with trial := 0 } }

/-- `BRINGUP_PHASE_END` (R507 to R517): the work of the phase under way has ended. -/
def execBringupPhaseEnd (work : PhaseWork) (s : State) : Host.Outcome State Fault Refusal :=
  if s.booting then
    match s.phase, work with
    | 0, .romSelftest => .next (s.haltBoot 4)
    | 0, .image bytes => .next (s.endMaltster bytes)
    | 1, .clock board store factory writes present ready => .next (s.endClock board store factory writes present ready)
    | 2, .sramBad => .next (s.haltBoot 3)
    | 2, .pass => .next (s.repairSram []).endSram
    | 2, .sram faults => .next (s.repairSram faults).endSram
    | 3, .pass => .next (s.setPhase 4)
    | 4, .hbm4e ok rows => .next (s.endStacks ok rows)
    | 5, .cxl up x16 gt64 => .next (s.endCxl up x16 gt64)
    | 7, .pass => .next (if s.rs.wait = none then s.startCompute else s)
    | 8, .compute cols mw1 mw0 => .next (if s.rs.core then s else s.endCompute cols mw1 mw0)
    | _, _ => .next s
  else .next s

end Sys2Proof.Machine
end

