-- ==== Sys2Proof/Machine/Access.lean ====
section
/-! DEFINITION. The host's reads and writes of BAR0 and BAR2 (R5 to R10, R386 to R390). -/

namespace Sys2Proof.Machine

/-- Bytes of BAR0 (R386), and its CXL component registers. -/
def barSize : Nat := 2 ^ 26

/-- Bytes of BAR2, whose offset o the rows name as offset 2^26 + o (R386; log 112). -/
def bar2Size : Nat := 0x10000
def cxlComponent (off : Nat) : Bool := decide (0x700000 ≤ off) && decide (off < 0x710000)

/-- The registers of the HDM decoder among the component registers (R382, R386): 0 its base, 1 its size, 2 its control, in
the layout of CXL 3.1 (log 94); their place there is free. -/
def hdmWord (off : Nat) : Option Nat :=
  let o := off / 8 - 0xE0200 - (Config.hdmDecoder % 0x1F0 + 2)
  if 0xE0200 + (Config.hdmDecoder % 0x1F0 + 2) ≤ off / 8 ∧ o < 3 then some o else none

/-! ## Reads -/

/-- The registers of access RC (R6), and what a read clears them to: `POOL_LOW_MARK` to the present free count. -/
def State.readClear (s : State) (k : Key) : State :=
  if k.id = (POOL_LOW_MARK 0).id then s.setReg k (s.reg (POOL_FREE k.idx))
  else if [TIME_SLIP_MAX.id, TRACK_LINE_WAIT_MAX.id, (RDX_COLL_SPREAD_MAX 0).id].contains k.id then s.setReg k 0
  else s

/-- The temperatures move by themselves between the events of R541 (log 44): a read shows a free value on the side of its
thresholds on which `HOT` stands, below 100 °C without it, and with it from 95 °C to below the trip at 115 °C. -/
def State.senseHeat (s : State) : State :=
  let (v, s) := s.take
  let n := bits v 15 0
  let j : Int := if s.on GLOBAL_THERMAL_HOT then 6080 + (n % 1280 : Nat) else 6399 - (n % 39168 : Nat)
  (s.put GLOBAL_THERMAL_JUNCTION_MAX (ofSigned 16 j)).put GLOBAL_THERMAL_INLET (bits v 31 16)

/-- A 64-bit word of BAR2 (R386): the MSI-X table, and the Pending Bit Array at 0x8000. -/
def State.readBar2 (s : State) (o : Nat) : Word :=
  if o < 0x4000 then s.msixWord (o / 8)
  else if 0x8000 ≤ o ∧ o < 0x8080 then mkWord ((List.range 64).map (fun i => (i, i, b2n (s.hm.msixPend.contains (8 * (o - 0x8000) + i)))))
  else 0

/-- Write a 64-bit word of BAR2: bits [1:0] of an address and all of a control but its mask are reserved. A message that was
pending goes out once its vector is unmasked. -/
def State.writeBar2 (s : State) (o : Nat) (v : Word) : State :=
  if o < 0x4000 then
    let i := o / 8
    let w := v &&& (if i % 2 = 1 then 0x1FFFFFFFF else 0xFFFFFFFFFFFFFFFC)
    let s := { s with hm := { s.hm with msix := mset (if i % 2 = 1 then 0x100000000 else 0) s.hm.msix i w } }
    if i % 2 = 1 ∧ bit w 32 = false ∧ s.hm.msixPend.contains (i / 2) = true then
      ({ s with hm := { s.hm with msixPend := s.hm.msixPend.erase (i / 2) } }).emit (.msix (i / 2))
    else s
  else s

/-- Read an aligned 64-bit offset of BAR0 or BAR2: its value, and the state after it (R6, R8). The registers of an absent unit
read 0 (R543). The CXL component registers have the layout of CXL 3.1, so what they hold is a free value, but for the HDM
decoder's: its control shows in bit 10 that it is committed. -/
def State.readOff (s : State) (off : Nat) : Word × State :=
  if barSize ≤ off then (s.readBar2 (off - barSize), s)
  else if cxlComponent off then (match hdmWord off with
    | some 2 => (setBits (mget 0 s.hm.hdmRegs 2) 10 10 (s.get GLOBAL_CXL_STATUS_HDM_COMMITTED), s)
    | some i => (mget 0 s.hm.hdmRegs i, s)
    | none => s.take)
  else if s.unitAbsent off then (0, s)
  else match findReg off regAddr with
    | none => (0, s)
    | some k =>
      let s := if k = GLOBAL_THERMAL then s.senseHeat else s
      (s.readBar off, s.readClear k)

/-- The access is one that BAR0 answers (R5). -/
def goodAccess (off width : Nat) : Bool := width == 8 && off % 8 == 0 && decide (off < barSize + bar2Size)

/-- `RC_READ` (R8): a host read. -/
def execRcRead (off : Nat) (s : State) : Host.Outcome State Fault Refusal :=
  if s.hostOpen = true ∧ goodAccess off 8 = true then
    let (v, s) := s.readOff off
    .next (s.emit (.hostData v))
  else .next s

/-- `BAR0_BAD_ACCESS` (R5): a wrong width or alignment reads all ones and writes nothing. -/
def execBar0BadAccess (off width : Nat) (write : Bool) (s : State) : Host.Outcome State Fault Refusal :=
  if s.hostOpen = true ∧ goodAccess off width = false ∧ write = false then .next (s.emit (.hostData (BitVec.allOnes 64)))
  else .next s

/-! ## Writes -/

/-- The state in which an outcome leaves the block. -/
def afterOutcome (s : State) (o : Host.Outcome State Fault Refusal) : State := match o with | .next t => t | _ => s

/-- A write of `GO` (R389, R390): the command of a free mailbox is taken; one of no defined opcode completes at once
(R394 check 1). -/
def State.mbGo (s : State) (m : Nat) : State :=
  if s.on (MB_STATUS_BUSY m) then s.flag (MB_STATUS_OVERRUN m)
  else
    let s := { s with hm := { s.hm with order := s.hm.order ++ [m] } }.put (MB_STATUS_BUSY m) 1
    if mbOpcodes.contains (s.cmdOp m) then s else s.mbComplete m stACCESS_DENIED 0 []

/-- A register that accepts direct host writes (R10). -/
def directWrite (k : Key) : Bool :=
  (regInfoOf k.id).w1c != 0 || (regInfoOf k.id).wr != 0 ||
    [(MB_CTRL 0).id, (RING_PROD 0 0).id, (RING_CQ_CONS 0 0).id, (XLAT_FQ_CONS 0).id, GLOBAL_BOOT_HOST_ADDR.id, GLOBAL_BOOT_HOST_LEN.id].contains k.id

/-- A host write of a register (R6, R10, R388, R390): the registers whose writes do more than their access columns say, and
the others by these columns. -/
def State.writeReg (s : State) (k : Key) (v : Word) : State :=
  let ring := fun (f : Part → RingId → State → Host.Outcome State Fault Refusal) =>
    afterOutcome s (f (Fin.ofNat 32 (k.idx / 16)) (Fin.ofNat 16 k.idx) s)
  if k.id = (MB_CTRL 0).id then (if bit v 0 then s.mbGo k.idx else s)
  else if k.id = (MB_CMD 0 0).id then (if s.on (MB_STATUS_BUSY (k.idx / 224)) then s else s.setReg k v)
  else if k.id = (RING_PROD 0 0).id then ring (fun n r => execRingProdWrite n r v)
  else if k.id = (RING_CQ_CONS 0 0).id then ring (fun n r => execRingCqConsWrite n r v)
  else if k.id = (RING_STATUS 0 0).id then (s.plainWrite k v).ringFull (k.idx / 16) (k.idx % 16)
  else if k.id = (XLAT_FQ_CONS 0).id then afterOutcome s (execFqConsWrite (Fin.ofNat 32 k.idx) v s)
  else if k = GLOBAL_BOOT_HOST_ADDR then (if s.on GLOBAL_BOOT_STATUS_WAIT_CXL then s.put GLOBAL_BOOT_HOST_ADDR_ADDR (bits v 63 12) else s)
  else if k = GLOBAL_BOOT_HOST_LEN then afterOutcome s (execBootHostGo v s)
  else s.plainWrite k v

/-- A write of a register of the HDM decoder (R382; log 94): while it is committed its base and size stay, and, locked
(control bit 8), its control too; a control with bit 9 set commits the range of 256 GiB at its base, and one with bit 9
clear ends its commitment. -/
def State.hdmWrite (s : State) (i : Nat) (v : Word) : State :=
  if s.on GLOBAL_CXL_STATUS_HDM_COMMITTED ∧ (i < 2 ∨ bit (mget 0 s.hm.hdmRegs 2) 8 = true) then s
  else
    let t : State := { s with hm := { s.hm with hdmRegs := mset 0 s.hm.hdmRegs i v } }
    if i < 2 then t
    else if bit v 9 && (mget 0 s.hm.hdmRegs 1).toNat == 2 ^ 38 then
      let base := bits (mget 0 s.hm.hdmRegs 0) 63 28 * 2 ^ 28
      let base := if s.on GLOBAL_CXL_STATUS_HDM_COMMITTED then s.hm.hdmBase else base
      ({ t with hm := { t.hm with hdmBase := base } }).put GLOBAL_CXL_STATUS_HDM_COMMITTED 1
    else t.put GLOBAL_CXL_STATUS_HDM_COMMITTED 0

/-- Write an aligned 64-bit offset of BAR0 or BAR2. Of the CXL component registers the HDM decoder's act on the model. -/
def State.writeOff (s : State) (off : Nat) (v : Word) : State :=
  if barSize ≤ off then s.writeBar2 (off - barSize) v
  else if cxlComponent off then (match hdmWord off with | some i => s.hdmWrite i v | none => s)
  else if s.unitAbsent off then s
  else match findReg off regAddr with
    | none => s
    | some k => s.writeReg k v

/-- `REGISTER_WRITE` (R6, R10): an aligned 64-bit host write. None is served while bring-up is halted (R512). -/
def execRegisterWrite (off : Nat) (v : Word) (s : State) : Host.Outcome State Fault Refusal :=
  .next (if s.hostOpen = true ∧ goodAccess off 8 = true ∧ s.on GLOBAL_BOOT_STATUS_HALTED = false then s.writeOff off v else s)

end Sys2Proof.Machine
end

