-- ==== Sys2Proof/Machine/Admission.lean ====
section
/-! DEFINITION. Admission of scheduled steps (R45 to R52, R407), and what lets held work go on: fences, releases, barrier
releases (R59, R137, R140, R244). -/

namespace Sys2Proof.Machine

/-! ## The descriptor at a ring's head -/

/-- The ranges of a `TILE_MOVE` (R409). -/
def tileWellFormed (ws : List Word) : Bool :=
  let len := wb ws 3 26 0
  (wd ws 1).toNat % 64 == 0 && (wd ws 2).toNat % 64 == 0 && len % 64 == 0 && 64 ≤ len && len ≤ 0x4000000 &&
    1 ≤ wb ws 3 33 27 && wb ws 3 33 27 ≤ 64

/-- A scheduled step (R407). -/
def scheduledStep (ws : List Word) : Bool :=
  match dType (wd ws 0) with
  | 1 => bit (wd ws 3) 34
  | 2 => true
  | 3 => tjKind ws != 3
  | 4 => true
  | _ => false

/-- Status and state code with which a descriptor ends when it is taken: `DVER`, reserved encodings (R13; of a job once
R270 and R285 have found the Tun in service), absent units (R3, R4, R407). -/
def State.descCheck (s : State) (n r : Nat) (ws : List Word) : Option (Nat × Nat) :=
  let unit := fun (f : Fld) => if s.on f then none else some (stSTATE_CONFLICT, scUNIT_ABSENT)
  let form := fun (ok : Bool) (u : Option (Nat × Nat)) => if ok then u else some (stACCESS_DENIED, 0)
  if dVer (wd ws 0) ≠ s.get (RING_CFG_DVER n r) then some (stVERSION, 0)
  else match dType (wd ws 0) with
    | 0 => none
    | 1 => form (tileWellFormed ws) none
    | 2 => form (collWellFormed ws) (unit GLOBAL_OPTIONS_RDX_PRESENT)
    | 3 => form (decide (tjKind ws ≤ 3) && (s.on TUN_STATUS_FAILED || tunEnums ws)) (unit GLOBAL_OPTIONS_TUN_PRESENT)
    | 4 => form (s.on TUN_STATUS_FAILED || attnEnums ws) (unit GLOBAL_OPTIONS_ATTN_PRESENT)
    | 5 => form (tierWellFormed ws) (unit GLOBAL_OPTIONS_HBM_PRESENT)
    | _ => some (stACCESS_DENIED, 0)

/-- The checks of an offered step. -/
def State.offerOf (s : State) (n : Nat) (ws : List Word) (gate : Bool) : Offer :=
  match dType (wd ws 0) with
  | 1 => if gate then .cost (s.tileCost ws) none else .defer
  | 2 => s.collOffer n ws gate
  | 3 => s.tunOffer n ws gate
  | _ => s.attnOffer n ws gate

/-- The cost of an offered step without the throttle (R51, R448). -/
def State.fullCost (s : State) (n : Nat) (ws : List Word) (gate : Bool) : Nat :=
  match (s.put PGOV_STATUS_THROTTLE 16).offerOf n ws gate with | .cost c _ => c | _ => 0

/-- The deferral that brings a descriptor to `k` is the last that `TIME_DEFER_LIMIT` allows (R50); a limit of 0 acts as 1
(log 115, DESIGN CHOICE). -/
def State.deferSpent (s : State) (k : Nat) : Bool := decide (s.rd TIME_DEFER_LIMIT ≤ k)

/-- Count a deferral of the head of a ring, once in a beat (R50). -/
def State.deferHead (s : State) (n r : Nat) : State :=
  let x := s.ring n r
  match x.descs with
  | [] => s
  | d :: rest =>
    if d.deferBeat = some s.edge then s
    else
      let d' : Desc := { d with defers := d.defers + 1, deferBeat := some s.edge, spent := s.deferSpent (d.defers + 1) }
      (s.setRing n r { x with descs := d' :: rest }).bump TIME_DEFER_COUNT

/-- What a step's cost would rise by in a beat with an `ATTN_JOB` (R295). -/
def State.attnRise (s : State) (n : Nat) (d : Desc) (c : Nat) : Nat :=
  match s.attnNow.offerOf n d.words d.gate with | .cost k _ => k - c | _ => 0

/-- A fitting step is admitted: its cost is charged and it starts. -/
def State.admitStep (s : State) (n r : Nat) (d : Desc) (c : Nat) : State :=
  let s := { s with st := { s.st with charged := s.st.charged + c, attnMore := s.st.attnMore + s.attnRise n d c } }
  let (id, s) := s.newStep n r d true c
  match dType (wd d.words 0) with
  | 1 => s.startTileMove id
  | 2 => s.startColl id
  | _ => ({ s with tu := { s.tu with jobs := s.tu.jobs ++ [id] } } : State).tunNext

/-- The admission start A of R49: the edge plus `SCAN`, or the end of the last step of an earlier beat. -/
def State.admitFrom (s : State) : Nat := max (s.cost cSCAN) s.st.heldTill

/-- The arrival of a barrier's release in this beat (R49, R59). -/
def State.releasedAt (s : State) (bar : Option Nat) : Nat :=
  match bar with
  | some b => let (_, e, now) := mget (0, 0, 0) s.ra.released b; if e = s.edge then now else 0
  | none => 0

/-- The ring yields no descriptor: a `TIER_MOVE` of it still has extents to start (R315), or its slice load has not started
(R263). -/
def State.ringHeld (s : State) (n r : Nat) : Bool :=
  s.st.steps.any (fun x => x.part == n && x.ring == r && dType (wd x.words 0) == 5 && decide (0 < x.todo)) ||
    s.tu.loads.any (fun l => l.part == n && l.ring == r && !l.started)

/-- Offer the head of one ring at `now` (R45, R48 to R51); whether it ended or was admitted. A step whose cost without
the throttle exceeds the window is refused, and that cost is what its completion carries (log 116, DESIGN CHOICE). -/
def State.offerHead (s : State) (now n r : Nat) : Bool × State :=
  let x := s.ring n r
  match x.descs with
  | [] => (false, s)
  | d :: _ =>
    let ws := d.words
    if !d.seen || s.ringHeld n r || ringFenced x d || d.deferBeat == some s.edge || d.spent || !scheduledStep ws || !s.partActive n then (false, s)
    else match s.descCheck n r ws with
      | some (st, sc) => (true, s.endHead n r d st sc 0)
      | none =>
        if s.get TIME_CONFIG_SCHED_FRAC = 0 then (true, s.endHead n r d stSTATE_CONFLICT scSCHED_OFF 0)
        else match s.offerOf n ws d.gate with
          | .refuse st sc detail => (true, s.endHead n r d st sc detail)
          | .hold => (false, s)
          | .defer => (false, s.deferHead n r)
          | .cost c bar =>
            let t := if dType (wd ws 0) = 4 then s.attnNow else s
            let full := s.fullCost n ws d.gate
            if s.windowEnd - s.cost cSCAN < full then (true, s.endHead n r d stACCESS_DENIED 0 full)
            else if 3 ≤ dType (wd ws 0) ∧ s.unitHeld .tun = true then (false, s)
            else if max s.admitFrom (s.releasedAt bar) + t.st.charged + c ≤ s.windowEnd ∧ now ≤ s.windowEnd then (true, t.admitStep n r d c)
            else (false, s.deferHead n r)

/-- Partition and ring in the order of a pass (R48). -/
def State.passOrder (s : State) : List (Nat × Nat) :=
  (List.range 32).flatMap (fun i => (List.range 16).map (fun r => ((s.st.first + i) % 32, r)))

/-- One pass at `now`: one descriptor of each ring. -/
def State.pass (s : State) (now : Nat) : Bool × State :=
  s.passOrder.foldl (fun a k => let (b, s) := a.2.offerHead now k.1 k.2; (a.1 || b, s)) (false, s)

/-- Passes until one ends and admits nothing (R48); `fuel` bounds their number. -/
def passes (now : Nat) : Nat → State → State
  | 0, s => s
  | n + 1, s => let (b, s) := s.pass now; if b then passes now n s else s

/-- Admission has opened at `now`: locked, past A, and no scheduled step of an earlier beat still runs (R49, R52). -/
def State.admissionOpen (s : State) (now : Nat) : Bool :=
  s.locked && decide (s.admitFrom ≤ now) && !s.heldBack &&
    !(s.st.admAt.isSome && decide (0 < s.windowEnd) && decide (s.windowEnd < now))

/-- Admission at `now`: every ring is offered in passes (R48). -/
def State.runAdmission (s : State) (now : Nat) : State :=
  if s.admissionOpen now then
    let s := { s with st := { s.st with admAt := some s.admitFrom } }
    passes now ((s.st.rings.map (fun e => e.2.descs.length)).sum + 1) s
  else s

/-- `ADMISSION_PASS` (R48); `now` is the time since the edge in 1/256 ns. -/
def execAdmissionPass (now : Nat) (s : State) : Host.Outcome State Fault Refusal := .next (s.runAdmission now)

/-- `DEFER_LIMIT_TIMEOUT` (R50): the head of a ring has been deferred for the last time and ends. -/
def execDeferLimitTimeout (n : Part) (r : RingId) (s : State) : Host.Outcome State Fault Refusal :=
  match (s.ring n.val r.val).descs with
  | d :: _ =>
    if d.spent then .next (s.endHead n.val r.val d stTIMEOUT 0 0) else .next s
  | [] => .next s

/-- `BARRIER_RELEASE` (R59, R244): the release is recorded and the steps gated on it are offered from its arrival. -/
def execBarrierRelease (g : Row) (now : Nat) (s : State) : Host.Outcome State Fault Refusal :=
  if s.ra.relIn.any (fun e => e.1 == g.val) then .next ((s.takeRelease g.val now).runAdmission now) else .next s

/-- `FENCE_COMPLETE` (R137, R138): the fence of a thread, or the ring fence of a head descriptor, completes once every
earlier access or descriptor has ended. -/
def execFenceComplete (e : Engine) (s : State) : Host.Outcome State Fault Refusal :=
  match e with
  | .thread c t =>
    let h := s.thread c.val t.val
    match h.wait with
    | .fence scope =>
      if (mget [] s.tr.held (engThread c.val t.val)).isEmpty && s.drained c.val t.val scope then
        .next (s.setThread c.val t.val { h with wait := .none, seqst := 0 })
      else .next s
    | _ => .next s
  | .ring n r =>
    let x := s.ring n.val r.val
    match x.descs with
    | d :: rest =>
      if dFence (wd d.words 0) && !ringFenced x d then
        let d' : Desc := { d with words := setBits (wd d.words 0) 12 12 0 :: d.words.drop 1 }
        .next (s.setRing n.val r.val { x with descs := d' :: rest })
      else .next s
    | [] => .next s

/-- `RELEASE_SEND` (R140): a held release of a thread goes once every earlier access in its scope has replied, and what
it held behind it follows. The requests of a ring's descriptors carry no release. -/
def execReleaseSend (e : Engine) (s : State) : Host.Outcome State Fault Refusal :=
  match e with
  | .thread c t => .next (releaseHeld c.val t.val (mget [] s.tr.held (engThread c.val t.val)).length s)
  | .ring _ _ => .next s

end Sys2Proof.Machine
end

