-- ==== Sys2Proof/Machine/Edge.lean ====
section
/-! DEFINITION. The beat edge (R30, R34, R47): the beat number rises, beat frames go out, the rings are scanned, the
governor acts, and the waits that count edges move on. -/

namespace Sys2Proof.Machine

/-! ## The ring scan (R47, R407) -/

/-- At the edge every fetched descriptor counts as seen, and its gate is what its counter says now (R47, R236, R239). -/
def State.seeDescs (s : State) : State :=
  let see := fun (d : Desc) => ({ d with seen := true, gate := s.gateOf d.words } : Desc)
  { s with st := { s.st with rings := s.st.rings.map (fun r => (r.1, { r.2 with descs := r.2.descs.map see })) } }

/-- A `SLICE_LOAD` is taken by the load engine (R263), unless it is refused (R249, R269). -/
def State.takeLoad (s : State) (n r : Nat) (d : Desc) : State :=
  if s.on TUN_STATUS_FAILED then s.endHead n r d stSTATE_CONFLICT scTUN_FAILED 0
  else if !tunWellFormed d.words then s.endHead n r d stACCESS_DENIED 0 0
  else
    let s := s.takeHead n r
    let id := s.tu.nextLoad
    let l : SliceLoad := ⟨id, n, r, d.idx, d.words, false, 0, 0, [], 0, none, [], []⟩
    { s with tu := { s.tu with loads := s.tu.loads ++ [l], nextLoad := id + 1 } }

/-- The scan of one ring: descriptors from its head on that end at once or are taken in the open class; a scheduled step
stays for admission. `fuel` bounds their number. -/
def scanRing (n r : Nat) : Nat → State → State
  | 0, s => s
  | k + 1, s =>
    let x := s.ring n r
    match x.descs with
    | [] => s
    | d :: _ =>
      if s.ringHeld n r || ringFenced x d then s
      else match s.descCheck n r d.words with
        | some (st, sc) => scanRing n r k (s.endHead n r d st sc 0)
        | none =>
          if scheduledStep d.words then
            if s.get TIME_CONFIG_SCHED_FRAC = 0 then scanRing n r k (s.endHead n r d stSTATE_CONFLICT scSCHED_OFF 0) else s
          else match dType (wd d.words 0) with
            | 0 => scanRing n r k (s.endHead n r d 0 0 0)
            | 5 => let (id, s) := s.newStep n r d false 0; scanRing n r k (s.startTier id)
            | 1 => if d.gate then (let (id, s) := s.newStep n r d false 0; scanRing n r k (s.startTileMove id)) else s
            | _ => if d.gate then scanRing n r k (s.takeLoad n r d) else s

/-- The scan of every ring of the active partitions (R47). -/
def State.scanRings (s : State) : State :=
  (s.st.rings.map (·.1)).foldl (fun s i =>
    if s.partActive (i / 16) then scanRing (i / 16) (i % 16) (s.ring (i / 16) (i % 16)).descs.length s else s) s

/-! ## Waits that count edges -/

/-- The counter waits of threads and accelerators have met one more edge (R335, R374). -/
def State.waitEdges (s : State) : State :=
  let thread := fun (h : Nat × ThreadSt) => match h.2.wait with
    | .lc i t (some (k + 1)) rd => (h.1, { h.2 with wait := .lc i t (some k) rd })
    | _ => h
  let s := { s with sq := { s.sq with threads := s.sq.threads.map thread } }
  (s.lk.ports.map (·.1)).foldl (fun s p =>
    let l := s.link p
    s.setLink p { l with lcWaits := l.lcWaits.map (fun w => { w with edges := w.edges + 1 }) }) s

/-! ## The edge -/

/-- The admission state of a new beat (R48, R49); an attention job that still runs counts for all of it (R295). -/
def State.newBeat (s : State) : State :=
  let from_ := if s.heldBack then s.st.holdFrom <|> some s.tm.clock else none
  let st :=
    { s.st with
      first := (s.st.first + 1) % 32, charged := 0, admAt := none, heldTill := 0, holdFrom := from_, attnMore := 0,
      attnBeat := if s.st.steps.any (fun x => dType (wd x.words 0) == 4) then some s.edge else s.st.attnBeat }
  { s with st := st }

/-- Ballast cycles of the beat that ended: at most the duty over every 16 cycles of 700 MHz, in those that no job uses; how
many is a free value (R278). -/
def State.ballastCycles (s : State) (duty : Nat) : State :=
  if duty = 0 then s
  else
    let (v, s) := s.take
    s.bumpBy TUN_BALLAST_CYCLES (v.toNat % (duty * (cdiv (s.beatLen * 7) 2560 + 16) / 16 + 1))

/-- New temperature offsets and telemetry gains take effect (R519). -/
def State.calEdge (s : State) : State :=
  let s := (s.rs.calNew.filter (fun k => k != 0)).foldl (fun s k => s.calApply (calSection k).1 (calSection k).2) s
  { s with rs := { s.rs with calNew := s.rs.calNew.filter (fun k => k == 0) } }

/-- `BEAT_EDGE` (R30): `drawMw` is the mean draw of the beat that ends. No edge runs in a power-on or system reset. -/
def execBeatEdge (drawMw : Nat) (s : State) : Host.Outcome State Fault Refusal :=
  if s.rs.por ∨ s.rs.level = 2 then .next s
  else
    let b := s.beat
    let s := { s with he := { s.he with justDown := [] }, rs := { s.rs with recording := false } }
    let s := s.ballastCycles (s.get TUN_STATUS_BALLAST_DUTY)
    let s := s.timeEdge.newBeat
    let s := s.sendBeatFrames.seeDescs.scanRings
    .next ((s.govEdge b drawMw).arbView.calEdge.waitEdges)

end Sys2Proof.Machine
end

