-- ==== Sys2Proof/Machine/Manage.lean ====
section
/-! DEFINITION. The Ikio monitor (R521, R522), the two-wire management target (R533 to R536) and the test access port
(R542). -/

namespace Sys2Proof.Machine

/-! ## Ikio -/

/-- A command of the monitor: it runs but in power-on reset and while a memory access has not been answered, is echoed, and
counts. -/
def State.ikioCmd (s : State) (f : State → State) : Host.Outcome State Fault Refusal :=
  if s.rs.por ∨ s.rs.ikio.isSome then .next s else .next (f ((s.emit .uartEcho).bump DBG_IKIO_CMD_COUNT))

/-- A line that is no command (R522). -/
def State.badLine (s : State) : Host.Outcome State Fault Refusal :=
  if s.rs.por ∨ s.rs.ikio.isSome then .next s else .next ((s.emit .uartEcho).sayEnd stACCESS_DENIED)

/-- `IKIO_HELP` (R522). -/
def execIkioHelp (s : State) : Host.Outcome State Fault Refusal :=
  s.ikioCmd fun s =>
    (["help", "baud <rate>", "status", "rd <offset>", "wr <offset> <value>", "mrd <part> <addr> <len>",
      "mwr <part> <addr> <hex bytes>", "release", "boot full", "load <len>"].foldl State.say_ s).sayEnd 0

/-- Rates by code of `BAUD` (R525). -/
def baudRates : List Nat := [115200, 460800, 921600, 1500000, 3000000]

/-- `IKIO_BAUD` (R522): the rate changes after the `OK` line. -/
def execIkioBaud (rate : Nat) (s : State) : Host.Outcome State Fault Refusal :=
  match baudRates.findIdx? (· == rate) with
  | some k => s.ikioCmd fun s => (s.sayEnd 0).put DBG_IKIO_BAUD k
  | none => s.badLine

/-- `IKIO_STATUS` (R522). -/
def execIkioStatus (s : State) : Host.Outcome State Fault Refusal :=
  s.ikioCmd fun s =>
    let line := fun (n : String) (d v : Nat) (s : State) => s.say_ (n ++ " " ++ hex d v)
    let s := line "phase" 1 s.phase (line "halt" 4 (s.get GLOBAL_BOOT_STATUS_HALT_CAUSE) s)
    let s := line "reset" 16 (s.rd GLOBAL_RESET_CAUSE) (line "straps" 4 (s.rd GLOBAL_STRAPS) s)
    (line "lock" 1 (s.get TIME_STATUS_LOCKED) (line "cask" 1 (s.get CASK_STATUS_LINK_UP) s)).sayEnd 0

/-- The blocks of BAR0 (R543) by their end, with the bring-up phase from which their unit is up, and whether a core reset holds
it (R501, R507; log 167). -/
def barBlocks : List (Nat × Nat × Bool) :=
  [(0x10000, 0, false), (0x11000, 6, false), (0x40000, 9, false), (0x80000, 2, false), (0x100000, 8, false), (0x240000, 3, false),
   (0x300000, 3, true), (0x400000, 9, true), (0x480000, 5, true), (0x600000, 2, false), (0x700000, 0, false), (0x710000, 6, false)]

/-- Registers that the monitor reaches at an offset now (R522): GLOBAL and DBG always, those of a unit once it is up and in no
reset. -/
def State.barReady (s : State) (off : Nat) : Bool :=
  match barBlocks.find? (fun b => decide (off < b.1)) with
  | some (_, k, c) => k == 0 || (s.rs.level != 2 && decide (k ≤ s.phase) && !(c && s.rs.core))
  | none => s.rs.level != 2

/-- `IKIO_RD` (R522). -/
def execIkioRd (off : Nat) (s : State) : Host.Outcome State Fault Refusal :=
  if goodAccess off 8 && decide (off < barSize) then
    s.ikioCmd fun s =>
      if s.barReady off then
        let (v, s) := s.readOff off
        (s.say_ (hex 16 v.toNat)).sayEnd 0
      else s.sayEnd stSTATE_CONFLICT
  else s.badLine

/-- `IKIO_WR` (R522): a register that accepts direct host writes. -/
def execIkioWr (off : Nat) (v : Word) (s : State) : Host.Outcome State Fault Refusal :=
  if goodAccess off 8 && decide (off < barSize) then
    s.ikioCmd fun s =>
      if !((findReg off regAddr).elim (cxlComponent off) directWrite) then s.sayEnd stACCESS_DENIED
      else if s.barReady off then (s.writeOff off v).sayEnd 0
      else s.sayEnd stSTATE_CONFLICT
  else s.badLine

/-- A memory access of the monitor in a partition (R421, R522): refused under `CONFIDENTIAL_LOCK`, in conflict while the
internal ports are closed; otherwise its packets, one for each 256 B block, are issued under R74. -/
def State.ikioMem (s : State) (n : Nat) (addr : Word) (len : Nat) (bytes : Option (List Byte)) : Host.Outcome State Fault Refusal :=
  if len = 0 ∨ 256 < len then s.badLine
  else s.ikioCmd fun s =>
    if s.confidential n then (s.sayEnd stACCESS_DENIED).bump DBG_IKIO_DENIED_COUNT
    else if s.xb.closed then s.sayEnd stSTATE_CONFLICT
    else
      let parts := splitUnits 256 addr.toNat len
      let s := { s with rs := { s.rs with ikio := some ⟨bytes.isSome, parts.length, [], none⟩ } }
      parts.foldl (fun s c =>
        let q : ReqForm :=
          { opcode := if bytes.isSome then 2 else 1, part := n, src := s.selfId, dst := faEp addr,
            addr := BitVec.ofNat 64 c.2.1, w3 := if bytes.isSome then 0 else BitVec.ofNat 64 c.2.2,
            payload := match bytes with | some b => slice b c.1 c.2.2 | none => [] }
        s.issue 96 q.pkt .ikio) s

/-- `IKIO_MRD` (R522). -/
def execIkioMrd (n : Part) (addr : Word) (len : Nat) (s : State) : Host.Outcome State Fault Refusal := s.ikioMem n.val addr len none

/-- `IKIO_MWR` (R522). -/
def execIkioMwr (n : Part) (addr : Word) (bytes : List Byte) (s : State) : Host.Outcome State Fault Refusal :=
  s.ikioMem n.val addr bytes.length (some bytes)

/-- `IKIO_RELEASE` (R510). -/
def execIkioRelease (s : State) : Host.Outcome State Fault Refusal := s.ikioCmd fun s => s.release.sayEnd 0

/-- `IKIO_BOOT_FULL` (R513): the boot record is written with `FULL_REQ`; the flash controller is in reset during a system
reset. -/
def execIkioBootFull (s : State) : Host.Outcome State Fault Refusal :=
  s.ikioCmd fun s =>
    if s.rs.level = 2 then s.sayEnd stSTATE_CONFLICT
    else
      let b := s.rs.boot
      (s.putRecord { b with full := true, selfId := if s.bootValid then b.selfId else s.selfId }).sayEnd 0

/-- `IKIO_LOAD` (R514): the transfer begins, only while the ROM waits on UART. -/
def execIkioLoad (len : Nat) (s : State) : Host.Outcome State Fault Refusal :=
  if s.booting = true ∧ s.rs.wait = some 2 ∧ s.rs.transfer = false then
    s.ikioCmd fun s => ({ s with rs := { s.rs with transfer := true, imageLen := len } }).sayEnd 0
  else s.badLine

/-- `IKIO_BAD_LINE` (R522). -/
def execIkioBadLine (s : State) : Host.Outcome State Fault Refusal := s.badLine

/-! ## The two-wire target (R534, R535) -/

/-- The target answers: from the end of phase 1, and not in a system reset. -/
def State.tw (s : State) (f : State → State) : Host.Outcome State Fault Refusal :=
  if s.rs.wire = true ∧ s.rs.por = false ∧ s.rs.level ≠ 2 then .next (f s) else .next s

/-- The target's address on the bus (R534). -/
def State.twAddr (s : State) : Nat := 0x30 + s.rs.mgmtAddr % 8

/-- The target acknowledges at its address; on a read a register's bytes follow, low byte first. -/
def State.twSay (s : State) (n v : Nat) : State := s.emit (.twoWire s.twAddr (leBytes n v))
def State.twAck (s : State) : State := s.emit (.twoWire s.twAddr [])

/-- `TW_PART`. -/
def execTwPart (s : State) : Host.Outcome State Fault Refusal := s.tw fun s => s.twSay 2 (s.get GLOBAL_PART_PART)

/-- `TW_STATUS`. -/
def execTwStatus (s : State) : Host.Outcome State Fault Refusal :=
  s.tw fun s => s.twSay 2 (s.phase + 16 * s.get GLOBAL_BOOT_STATUS_HALTED + 32 * s.get GLOBAL_BOOT_STATUS_RELEASED +
    64 * s.get GLOBAL_BOOT_STATUS_DONE + s.twAlarms)

/-- `TW_RELEASE` (R510): a write of 1 releases `HOLD`; a read gives `RELEASED`. -/
def execTwRelease (v : Option Byte) (s : State) : Host.Outcome State Fault Refusal :=
  s.tw fun s => match v with
    | none => s.twSay 1 (s.get GLOBAL_BOOT_STATUS_RELEASED)
    | some b => if b.getLsbD 0 then s.twAck.release else s.twAck

/-- `TW_CAP` (R450, R536). -/
def execTwCap (v : Option (BitVec 16)) (s : State) : Host.Outcome State Fault Refusal :=
  s.tw fun s => match v with
    | none => s.twSay 2 (s.get PGOV_CAP_CAP)
    | some w => s.twAck.setCap w.toNat

/-- `TW_MEASURED`. -/
def execTwMeasured (s : State) : Host.Outcome State Fault Refusal := s.tw fun s => s.twSay 4 (s.get PGOV_POWER_MEASURED)

/-- `TW_JUNCTION`. -/
def execTwJunction (s : State) : Host.Outcome State Fault Refusal :=
  s.tw fun s => let s := s.senseHeat; s.twSay 2 (s.get GLOBAL_THERMAL_JUNCTION_MAX)

/-- `TW_RESET_CAUSE`. -/
def execTwResetCause (s : State) : Host.Outcome State Fault Refusal := s.tw fun s => s.twSay 1 (64 * s.get GLOBAL_RESET_CAUSE_LAST)

/-- `TW_SERIAL`. -/
def execTwSerial (s : State) : Host.Outcome State Fault Refusal := s.tw fun s => s.twSay 8 (s.rd GLOBAL_SERIAL)

/-- `TW_ENERGY_IN`: not a signed value. -/
def execTwEnergyIn (s : State) : Host.Outcome State Fault Refusal := s.tw fun s => s.twSay 8 (s.rd CASK_ENERGY_IN)

/-- The commands that R535 defines. -/
def twDefined : List Nat := [0, 1, 2, 3, 4, 5, 6, 8, 0x10]

/-- `TW_UNDEFINED`: a read of an undefined command gives bytes of 0xFF; a write to one, or to a read-only one, is
acknowledged and discarded. -/
def execTwUndefined (cmd : Byte) (read : Option Nat) (s : State) : Host.Outcome State Fault Refusal :=
  s.tw fun s => match read with
    | some n => if twDefined.contains cmd.toNat then s else s.emit (.twoWire s.twAddr (List.replicate n 0xFF))
    | none => if cmd.toNat = 2 ∨ cmd.toNat = 3 then s else s.twAck

/-! ## The test access port (R542) -/

/-- An instruction is selected, and its register's bits go out; the port is in reset during a power-on reset. -/
def State.tapTo (s : State) (k : Nat) (bs : List Bool) : Host.Outcome State Fault Refusal :=
  if s.rs.por then .next s else .next (({ s with rs := { s.rs with tap := k } }).emit (.tap bs))

/-- `TAP_BYPASS`: one bit of 0. -/
def execTapBypass (s : State) : Host.Outcome State Fault Refusal := s.tapTo 0 [false]

/-- Free bits. -/
def freeBits : Nat → State → List Bool × State
  | 0, s => ([], s)
  | n + 1, s => let (v, s) := s.take; let (l, s) := freeBits n s; (bit v 0 :: l, s)

/-- `TAP_SAMPLE_PRELOAD`: the boundary register takes the bits given; what it captured of the pins is free, for the spec
gives its cells no order (log 51). -/
def execTapSamplePreload (preload : List Bool) (s : State) : Host.Outcome State Fault Refusal :=
  if s.rs.por then .next s
  else
    let (bs, s) := freeBits preload.length s
    ({ s with rs := { s.rs with scan := preload } }).tapTo 1 bs

/-- `TAP_EXTEST`: the pins take the boundary register while bring-up is halted or in `HOLD`; else as `BYPASS`. -/
def execTapExtest (s : State) : Host.Outcome State Fault Refusal :=
  if s.on GLOBAL_BOOT_STATUS_HALTED ∨ s.phase = 6 then s.tapTo 2 s.rs.scan else s.tapTo 0 [false]

/-- The value of `IDCODE` (R542): it tells the variant without a Tun. -/
def State.idcode (s : State) : Nat := if s.on GLOBAL_OPTIONS_TUN_PRESENT then 0x1960447B else 0x1960047B

/-- `TAP_IDCODE`: its register's bits, low bit first. -/
def execTapIdcode (s : State) : Host.Outcome State Fault Refusal :=
  s.tapTo 3 ((List.range 32).map (fun i => s.idcode.testBit i))

/-- `TRST_N`: the port is reset. -/
def execTrstN (s : State) : Host.Outcome State Fault Refusal := .next { s with rs := { s.rs with tap := 3, scan := [] } }

end Sys2Proof.Machine
end

