-- ==== Sys2Proof/Machine/Replies.lean ====
section
/-! DEFINITION. Replies and the tracker (R125, R126, R371): DATA, ACK, ATOMIC_VALUE, TILE_GRANT, TILE_DONE, TRACKER_TIMEOUT,
TRACKER_LOST, TRACKER_STALL_RESUME; parity (R119, R120, R303): PARITY_REFETCH. -/

namespace Sys2Proof.Machine

/-! ## What a reply ends -/

/-- A packet of a step has ended (R238, R410): a read's bytes are sent on, any failure stands first. -/
def State.stepReply (s : State) (id i opcode status : Nat) (bytes : List Byte) : State :=
  match s.step? id with
  | none => s
  | some x =>
    let x := { x with outstanding := x.outstanding - 1 }
    if status ≠ 0 then s.setStep (x.failFirst status)
    else if opcode = 1 then (s.setStep x).sendChunk id i bytes
    else s.setStep x

/-- An entry ends with a status: what its issuer learns. `p` is the reply; a deadline stands for one without contents.
`held` keeps the tag back (R126). A deadline ends a `RED_MC` step only with `DONE_EN` 1 (R238). -/
def State.endEntry (s : State) (t : Nat) (e : TEntry) (status : Nat) (p : Pkt) (held : Bool) : State :=
  let closed := s.closeEntry t held
  match e.issuer with
  | .thread c h seq => closed.threadReply c h seq status p.payload
  | .tile id =>
    match s.tr.moves.find? (fun m => m.1 == id) with
    | none => closed
    | some (_, m) =>
      if held then s.endMove id m status true
      else match Pkt.opcode p with
        | 0x83 => s.moveGranted id m p
        | 0x84 => s.moveDone id m p
        | 0x80 => s.moveData id m p
        | _ => if status = 0 then s else s.moveFailed id m p.w1 status
  | .step id i =>
    if i = wholeEntry then
      let s := if held then closed else s
      match s.step? id with
      | none => s
      | some x =>
        let untied := held && dType (wd x.words 0) == 2 && !bit (wd x.words 5) 18
        if status = 0 ∨ untied = true then s else s.setStep (x.failFirst status)
    else closed.stepReply id i e.opcode status p.payload
  | .comb _ id => closed.failComb id (if held then s.selfId else Pkt.src p) status
  | .result c mem => if mem then closed.resultDone c status else closed.slotSent c
  | .copy mc below _ =>
    let ok := Pkt.mcOk p
    let bad := Pkt.mcFail p
    if status ≠ 0 ∧ ok = 0 ∧ bad = 0 then closed.mcReply mc 0 below status else closed.mcReply mc ok bad status
  | .tier op line => closed.remoteDone line op status p.payload
  | .job id chunk => closed.loadReply id chunk status p.payload held
  | .image load => closed.imageReply load status p.payload
  | .control kind _ =>
    if 8 ≤ kind ∧ kind ≤ 10 ∧ (status ≠ 0 ∨ Pkt.mcFail p ≠ 0) then closed.flag HEALTH_STATUS_NOTICE_FAIL else closed
  | .ikio => closed.ikioReply status p.w1 p.payload
  | .boot => closed.bootReply status p.w1 p.payload

/-- The reply answers a combined request: `COMBINED_REPLY` takes it (R186). -/
def State.forComb (s : State) (p : Pkt) : Bool :=
  Pkt.dst p == s.selfId && s.tr.entries.any (fun e => e.1 == Pkt.tag p && e.2.gen == Pkt.gen p && (match e.2.issuer with | .comb _ _ => true | _ => false))

/-- A reply at the tracker (R126, R371): of a forwarded request to its line, of a tracked request to its issuer; one for the
host endpoint is served over the CXL host path (R17); any other is late. -/
def State.endReply (s : State) (p : Pkt) : State :=
  let t := Pkt.tag p
  let line := mget 0 s.tr.fwd t
  let late := s.bump TRACK_LATE_REPLY_COUNT
  if s.isBootReply p = false ∧ Pkt.dst p ≠ s.selfId then (if Pkt.dst p = s.slotId 5 then s.emit (.hostReply p) else late)
  else if line ≠ 0 ∧ Pkt.gen p = 0 then
    let s := { s with tr := { s.tr with fwd := merase s.tr.fwd t } }
    match s.headOp (line - 1) with
    | some (q, o) =>
      if q.wait = .accel t then
        s.finishLine (line - 1) o (if Pkt.status p = 0 then .done p.payload else .fail (Pkt.status p))
      else s
    | none => s
  else match s.tr.entries.find? (fun e => e.1 == t) with
    | some (_, e) => if e.gen = Pkt.gen p then s.endEntry t e (Pkt.status p) p false else late
    | none => late

/-- The reply of an opcode at the front of the end-point block. -/
def State.onReply (s : State) (op : Nat) : Host.Outcome State Fault Refusal :=
  match s.xb.epIn with
  | i :: _ =>
    if s.forComb i.pkt then .next s
    else match s.takeEp [op] with
      | some (some j, s) => .next (s.endReply j.pkt)
      | some (none, s) => .next s
      | none => .next s
  | [] => .next s

/-- `DATA` (R95, R126). -/
def execData (s : State) : Host.Outcome State Fault Refusal := s.onReply 0x80
/-- `ACK` (R95, R126). -/
def execAck (s : State) : Host.Outcome State Fault Refusal := s.onReply 0x81
/-- `ATOMIC_VALUE` (R95, R126). -/
def execAtomicValue (s : State) : Host.Outcome State Fault Refusal := s.onReply 0x82
/-- `TILE_GRANT` (R112). -/
def execTileGrant (s : State) : Host.Outcome State Fault Refusal := s.onReply 0x83
/-- `TILE_DONE` (R112). -/
def execTileDone (s : State) : Host.Outcome State Fault Refusal := s.onReply 0x84

/-! ## Deadlines (R126) -/

/-- A reply without contents, which stands for a deadline. -/
def noReply : Pkt := ⟨0, 0, 0, 0, [], false, 0, 0⟩

/-- `TRACKER_TIMEOUT` (R126). -/
def execTrackerTimeout (tag : Nat) (s : State) : Host.Outcome State Fault Refusal :=
  match s.tr.entries.find? (fun e => e.1 == tag) with
  | some (_, e) =>
    if e.sent + s.get TRACK_CONFIG_TIMEOUT ≤ s.edge then .next ((s.bump TRACK_TIMEOUT_COUNT).endEntry tag e stTIMEOUT noReply true)
    else .next s
  | none => .next s

/-- `TRACKER_LOST` (R126): the wait after the loss ends before the entry's other deadline. -/
def execTrackerLost (tag : Nat) (s : State) : Host.Outcome State Fault Refusal :=
  match s.tr.entries.find? (fun e => e.1 == tag) with
  | some (_, e) =>
    match e.lostAt with
    | some b =>
      if b + s.get TRACK_CONFIG_LOST_WAIT ≤ s.edge ∧ b + s.get TRACK_CONFIG_LOST_WAIT < e.sent + s.get TRACK_CONFIG_TIMEOUT then
        .next ((s.bump TRACK_LOST_COUNT).endEntry tag e stTARGET_LOST noReply true)
      else .next s
    | none => .next s
  | none => .next s

/-- `TRACKER_STALL_RESUME` (R125): the request of the partition that has stalled longest takes the entry that is free; one
of a collective step that sends nothing more (R238), or of a step that has ended, is dropped. -/
def execTrackerStallResume (n : Part) (s : State) : Host.Outcome State Fault Refusal :=
  if !s.trackRoom n.val then .next s
  else match takeFirst (fun (e : Pkt × Issuer) => s.trackPart e.1 e.2 == n.val) s.tr.stalled with
    | none => .next s
    | some ((p, i), rest) =>
      let s := { s with tr := { s.tr with stalled := rest } }
      let port := if 4 ≤ Pkt.opcode p ∧ Pkt.opcode p ≤ 6 then 97 else 96
      match i with
      | .step id k =>
        match s.step? id with
        | none => .next s
        | some x =>
          if dType (wd x.words 0) = 2 ∧ s.stepStopped x = true then .next s
          else if k = wholeEntry then
            let ((t, g), s) := s.openEntry p i
            let s := s.setStep { x with tag := t, gen := g }
            .next (if dType (wd x.words 0) = 2 then s.runColl id else s)
          else .next (s.issueNow port p i)
      | .result _ _ => .next (s.issueNow 97 p i)
      | _ => .next (s.issueNow port p i)

/-! ## Parity (R119, R120, R303) -/

/-- The first item that a test selects is replaced. -/
def replaceFirst {α : Type} (sel : α → Bool) (f : α → α) : List α → List α
  | [] => []
  | a :: r => if sel a then f a :: r else a :: replaceFirst sel f r

/-- A packet of an inbox. -/
def isPktItem (i : RxItem) : Bool := match i with | .pkt _ => true | _ => false

/-- The packet at a holding point, the state without it, and the state with another in its place. -/
def State.atPoint (s : State) (a : ParityPoint) : Option (Pkt × State × (Pkt → State)) :=
  match a with
  | .inbox p _ =>
    match s.takeRx p.val isPktItem with
    | some (.pkt q, t) =>
      let rx := mget [] s.xb.rx p.val
      some (q, (t.unjudge p.val (rank175 q)).returnCredit p.val (Pkt.channel q) (Pkt.flits q), fun r =>
        ({ s with xb := { s.xb with rx := mset [] s.xb.rx p.val (replaceFirst isPktItem (fun _ => .pkt r) rx) } } : State).returnCredit p.val
          (Pkt.channel q) (Pkt.flits q - Pkt.flits r))
    | _ => none
  | .stored n _ =>
    match s.xb.xq[n]? with
    | some x => some (x.pkt, (s.unstore x).xqCounts, fun r => { s with xb := { s.xb with xq := s.xb.xq.set n { x with pkt := r } } })
    | none => none
  | .endPoint _ =>
    match s.xb.epIn with
    | i :: rest => some (i.pkt, { s with xb := { s.xb with epIn := rest } }, fun r => { s with xb := { s.xb with epIn := { i with pkt := r } :: rest } })
    | [] => none
  | .array _ =>
    match s.xb.rdxIn with
    | i :: rest => some (i.pkt, { s with xb := { s.xb with rdxIn := rest } }, fun r => { s with xb := { s.xb with rdxIn := { i with pkt := r } :: rest } })
    | [] => none
  | .parked n _ =>
    match s.ra.parked[n]? with
    | some w => some (w.pkt,
        ({ s with ra := { s.ra with parked := s.ra.parked.eraseIdx n } }).poolFree 0 w.cell (.chunk w.row (Pkt.chunk w.pkt) (Pkt.rank w.pkt)),
        fun r => { s with ra := { s.ra with parked := s.ra.parked.set n { w with pkt := r } } })
    | none => none
  | .held n rank _ =>
    match s.ra.chunks[n]? with
    | some c => match takeFirst (fun (k : Contrib) => k.rank == rank) c.held with
      | some (k, rest) =>
        let t : State := { s with ra := { s.ra with chunks := s.ra.chunks.set n { c with held := rest } } }
        some (k.pkt, (match k.cell with | some i => t.poolFree 0 i (.chunk c.row c.num rank) | none => t), fun r =>
          { s with ra := { s.ra with chunks := s.ra.chunks.set n { c with held := { k with pkt := r } :: rest } } })
      | none => none
    | none => none
  | .stage port _ =>
    if port = 0 then
      match s.xb.out96 with
      | q :: rest => some (q, { s with xb := { s.xb with out96 := rest } }, fun r => { s with xb := { s.xb with out96 := r :: rest } })
      | [] => none
    else
      match s.xb.out97 with
      | q :: rest => some (q.1, ({ s with xb := { s.xb with out97 := rest } }).resultOut q.1, fun r => { s with xb := { s.xb with out97 := (r, q.2) :: rest } })
      | [] => none
  | .write _ | .hbm _ _ | .record _ => none

/-- What becomes of a packet with a word that keeps failing (R120): a header is discarded; a request's payload ends it, and
a `DATA` or `ATOMIC_VALUE` reply becomes an `ACK`, with `PARITY_EXHAUSTED`. -/
def State.parityPkt (s : State) (a : ParityPoint) (header : Bool) : State :=
  match s.atPoint a with
  | none => s
  | some (p, without, withPkt) =>
    if header then without.bump TRACK_HDR_DISCARD_COUNT
    else if p.payload.isEmpty then s
    else if !Pkt.isReply p then without.ack p stPARITY
    else if Pkt.opcode p = 0x80 ∨ Pkt.opcode p = 0x82 then (withPkt (Pkt.set0 (Pkt.asAck p s.selfId stPARITY) 22 22 (match a with | .stored .. => Pkt.dl p | _ => 0))).bump TRACK_PARITY_EXHAUSTED_COUNT
    else s

/-- The head entry of a line queue ends with `PARITY_EXHAUSTED`, nothing of its line written (R120). -/
def State.parityLine (s : State) (line : Nat) : State :=
  match s.headOp line with
  | some (_, o) => s.finishLine line o (.fail stPARITY)
  | none => s

/-- A word in the receive buffer of a port is asked for again by a link-level replay (R119). The word is checked before its block
is accepted, since no acknowledged block can be asked for again (R357): the `NAK` names the block that is due (log 156). -/
def State.askReplay (s : State) (p : Nat) : State :=
  if s.active p then (s.setLink p { s.link p with rxBad := true, nakDue := true }).flushLink p else s

/-- `PARITY_REFETCH` (R119, R120, R303): a word that fails its parity is fetched again, up to 2 times, in the receive buffer of
a port by a link-level replay, which does not count; then the module acts by what the word belongs to. -/
def execParityRefetch (at_ : ParityPoint) (attempt : Nat) (s : State) : Host.Outcome State Fault Refusal :=
  if attempt ≤ 2 then
    match at_ with
    | .inbox p _ => .next (s.askReplay p.val)
    | _ => .next (s.bump TRACK_PARITY_REPLAY_COUNT)
  else match at_ with
    | .inbox _ h | .stored _ h | .endPoint h | .array h | .parked _ h | .held _ _ h | .stage _ h => .next (s.parityPkt at_ h)
    | .write line => .next (s.parityLine line)
    | .record line => .next { s with badLines := line :: s.badLines.erase line }
    | .hbm stack line =>
      match s.headOp line with
      | some _ => .next ((s.hbmUncorr stack.val).parityLine line)
      | none => .next { s with badReads := line :: s.badReads.erase line }

end Sys2Proof.Machine
end

