-- ==== Sys2Proof/Machine/Service.lean ====
section
/-! DEFINITION. The restart of the service firmware (R431). -/

namespace Sys2Proof.Machine

/-- The command of a mailbox is carried out: `a` is what the host's memory answers where the command reads it. -/
def mbCarry (m : Mbx) (a : Reply) (s : State) : Host.Outcome State Fault Refusal :=
  match s.cmdOp m.val with
  | 0x1 => execMbHello m s
  | 0x101 => execTimeGridSet m s
  | 0x102 => execTimeConfigSet m s
  | 0x201 => execXlatEpSet m s
  | 0x202 => execXlatAtsSet m s
  | 0x203 => execXlatFqSet m s
  | 0x204 => execXlatWindowSet m s
  | 0x205 => execXlatPageSet m s
  | 0x206 => execXlatPageClear m s
  | 0x207 => execXlatPageGet m s
  | 0x208 => execXlatAtsPrefetch m s
  | 0x209 => execXlatShareSet m s
  | 0x301 => execTrackConfigSet m s
  | 0x302 => execTrackShareSet m s
  | 0x303 => execLcShareSet m s
  | 0x304 => execLcRead m s
  | 0x305 => execLcSet m s
  | 0x306 => execDirConfigSet m s
  | 0x401 => execXbarRouteLoad m a s
  | 0x402 => execXbarGroupLoad m a s
  | 0x403 => execXbarEpochSwitch m s
  | 0x404 => execXbarConfigSet m s
  | 0x405 => execXbarPortSet m s
  | 0x406 => execPoolWarnSet m s
  | 0x407 => execPoolLimitSet m s
  | 0x501 => execRdxConfigSet m s
  | 0x502 => execCollMembersSet m s
  | 0x503 => execCollForm m s
  | 0x504 => execCollSuspend m s
  | 0x505 => execCollReform m s
  | 0x506 => execCollDissolve m s
  | 0x507 => execCollWeightSet m s
  | 0x508 => execMcGroupSet m s
  | 0x509 => execMcGroupClear m s
  | 0x50A => execMcGroupGet m s
  | 0x50B => execCollPartSet m s
  | 0x601 => execTunShareSet m s
  | 0x602 => execTunSliceClear m s
  | 0x603 => execTunSliceGet m s
  | 0x604 => execTunBindSet m s
  | 0x605 => execTunBindClear m s
  | 0x701 => execMemShareSet m s
  | 0x702 => execTierRegionSet m s
  | 0x703 => execTierT3Set m s
  | 0x704 => execTierQuotaSet m s
  | 0x705 => execTierExtShareSet m s
  | 0x706 => execTierExtentSet m s
  | 0x707 => execTierExtentFree m s
  | 0x708 => execTierExtentGet m s
  | 0x709 => execTierConfigSet m s
  | 0x70A => execTierLendOffer m s
  | 0x70B => execTierLendClose m s
  | 0x70C => execTierLendAccept m s
  | 0x70D => execTierLendReturn m s
  | 0x801 => execSeqShareSet m s
  | 0x802 => execSeqLoad m none s
  | 0x803 => execSeqStart m s
  | 0x804 => execSeqStop m s
  | 0x901 => execPortModeSet m s
  | 0x902 => execPortEnable m s
  | 0x903 => execPortDisable m s
  | 0x904 => execPortRetrain m s
  | 0xA01 => execRingSet m a s
  | 0xA02 => execRingClear m s
  | 0xB01 => execPartCreate m s
  | 0xB03 => execPartDestroy m s
  | 0xB04 => execPartGet m s
  | 0xB05 => execFwStage m a s
  | 0xB07 => execAttestGet m s
  | 0xC01 => execPgovSet m s
  | 0xC02 => execPgovCapSet m s
  | 0xC03 => execHealthReadmit m s
  | 0xC04 => execHealthIsolate m s
  | 0xC05 => execHealthBudgetSet m s
  | 0xD01 => execCaskReadout m s
  | 0xE01 => execCalRead m s
  | _ => .next s

/-- What waits for the command of a mailbox is cut from it: it goes on without a completion. -/
def State.cutMbx (s : State) (m : Nat) : State :=
  let xl :=
    { s.xl with
      changes := updWhere (fun (c : TrChange) => c.mbx == m) (fun c => { c with mbx := 33 }) s.xl.changes,
      waits := s.xl.waits.filter (fun w => !(w.who == .prefetch m || w.who == .image m)) }
  let stops := s.sq.stops.filter (fun x => x.1 != m)
  let returns := s.ti.returns.map (fun r => if r.2 = m then (r.1, 33) else r)
  { s with xl := xl, sq := { s.sq with stops := stops }, ti := { s.ti with returns := returns } }

/-- A command that the restart ends: one whose change has not begun is carried out whole where `applied` names its mailbox
(log 134). It completes with `TIMEOUT`, whatever its own checks would say. -/
def State.mbEnd (s : State) (applied : List (Mbx × Reply)) (m : Nat) : State :=
  let s := { s with hm := { s.hm with doomed := s.hm.doomed ++ [m] } }
  let s := match applied.find? (fun x => x.1.val == m) with
    | some (k, a) => if s.hm.running.contains m then s else match mbCarry k a s with | .next t => t | _ => s
    | none => s
  if s.on (MB_STATUS_BUSY m) then (s.cutMbx m).mbComplete m stTIMEOUT 0 [] else s

/-- `SVC_WATCHDOG` (R431): commands in progress complete with `TIMEOUT`, in the order of their `GO` writes, but for the three
that the trusted kernel runs to their end. -/
def execSvcWatchdog (applied : List (Mbx × Reply)) (s : State) : Host.Outcome State Fault Refusal :=
  let ms := s.hm.order.filter (fun m => s.on (MB_STATUS_BUSY m) && !([0xB02, 0xB06, 0xE02] : List Nat).contains (s.cmdOp m))
  .next (((ms.foldl (fun s m => s.mbEnd applied m) s).flag PART_STATUS_SVC_RESTART).bump PART_SVC_RESTART_COUNT)

end Sys2Proof.Machine
end

