-- ==== Sys2Proof/Machine/Tiles.lean ====
section
/-! DEFINITION. The owner's side of tile moves: TILE_OPEN, TILE_READ, TILE_WRITE, TILE_CLOSE, TILE_CLOSE_COMPLETE and
GRANT_IDLE (R112, R114, R115). -/

namespace Sys2Proof.Machine

/-! ## Tiles (R112, R115) -/

/-- `TILE_OPEN` (R112): the whole tile is translated and a grant made. While an extent of the tile is being switched the
request waits behind the others (R316 step 4). -/
def execTileOpen (s : State) : Host.Outcome State Fault Refusal :=
  match s.xb.epIn with
  | i :: rest =>
    if Pkt.opcode i.pkt = 8 ∧ s.extClosed i.pkt = true then .next { s with xb := { s.xb with epIn := rest ++ [i] } }
    else .next (s.beginRequest [8])
  | [] => .next s

/-- The piece of a grant that holds a tile offset. -/
def grantPiece (g : Grant) (ofs : Nat) : Option Piece := g.pieces.find? (fun c => c.ofs ≤ ofs && ofs < c.ofs + c.len)

/-- A tile packet at its owner: it names a grant of its sender; a released handle is counted (R115). This module's own mover
reads HBM4E and the Tun store directly, past the line queues and the directory (R152, R155), and meets what R303 says of a read
that keeps failing. -/
def State.tilePacket (s : State) (op h : Nat) : State :=
  match s.takeEp [op] with
  | none => s
  | some (none, s) => s
  | some (some i, s) =>
    let p := i.pkt
    if s.fenced (Pkt.src p) then s.ack p stFENCED
    else match s.tr.grants.find? (fun g => g.1 == h) with
      | none => if s.tr.idled.contains h then s.bump TRACK_GRANT_IDLE_COUNT else s.ack p stACCESS_DENIED
      | some (_, g) =>
        let ofs := p.w1.toNat - g.addr.toNat
        let fits := g.src == Pkt.src p && g.part == Pkt.part p && g.side == (if op = 10 then 1 else 0) &&
          decide (g.addr.toNat ≤ p.w1.toNat) && decide (ofs + Pkt.extent p ≤ g.len)
        let s := s.setGrants (minsert (merase s.tr.grants h) h { g with seen := s.edge })
        if !s.partActive g.part || !fits then s.ack p stACCESS_DENIED
        else match grantPiece g ofs with
          | none => s.ack p stACCESS_DENIED
          | some c =>
            let a := c.base + (ofs - c.ofs)
            let n := Pkt.rlen p
            let bad := fun (l : Nat) => decide (a / 64 ≤ l) && decide (64 * l < a + n)
            if op = 9 ∧ i.port = onDie ∧ c.kind = 0 ∧ s.badReads.any bad then
              (({ s with badReads := s.badReads.filter (fun l => !bad l) }).hbmUncorr (a / 2 ^ 36 % 4)).answer (.tile h) p stPARITY []
            else if op = 9 ∧ i.port = onDie ∧ c.kind < 2 then
              s.answer (.tile h) p 0 (if c.kind = 0 then s.hbmRead a (Pkt.rlen p) else readBytes s.tu.store a (Pkt.rlen p))
            else s.startOp (.tile h) p { c with base := a }

/-- The grant handle that the front tile packet names. -/
def State.frontHandle (s : State) : Nat :=
  match s.xb.epIn with | i :: _ => if Pkt.opcode i.pkt = 9 then Pkt.readGrant i.pkt else Pkt.grant i.pkt | [] => 0

/-- `TILE_READ` (R112). -/
def execTileRead (s : State) : Host.Outcome State Fault Refusal := .next (s.tilePacket 9 s.frontHandle)
/-- `TILE_WRITE` (R112). -/
def execTileWrite (s : State) : Host.Outcome State Fault Refusal := .next (s.tilePacket 10 s.frontHandle)

/-- Operations under a grant still to perform. -/
def State.grantBusy (s : State) (h : Nat) : Bool := s.tr.ops.any (fun o => o.2.src == .tile h)

/-- The `TILE_DONE` that answers a grant's close may be sent (R112, R114): the source's at once; the destination's when it has
written the whole tile, or on an abort when no write of the tile is still to be performed. -/
def State.closeReady (s : State) (h : Nat) (g : Grant) (p : Pkt) : Bool :=
  g.side == 0 || g.written == g.len || (Pkt.abort p && !s.grantBusy h)

/-- `TILE_CLOSE` (R112, R114): the source's grant is released; the destination waits for its bytes. -/
def execTileClose (s : State) : Host.Outcome State Fault Refusal :=
  match s.takeEp [11] with
  | none => .next s
  | some (none, s) => .next s
  | some (some i, s) =>
    let p := i.pkt
    let h := Pkt.grant p
    if s.fenced (Pkt.src p) then .next (s.ack p stFENCED)
    else match s.tr.grants.find? (fun g => g.1 == h) with
      | none => .next (if s.tr.idled.contains h then s.bump TRACK_GRANT_IDLE_COUNT else s.ack p stACCESS_DENIED)
      | some (_, g) =>
        if g.src ≠ Pkt.src p ∨ g.part ≠ Pkt.part p then .next (s.ack p stACCESS_DENIED)
        else
          let g := { g with seen := s.edge, closing := some p }
          if s.closeReady h g p then .next (s.tileDone h g 0)
          else .next (s.setGrants (minsert (merase s.tr.grants h) h g))

/-- `TILE_CLOSE_COMPLETE` (R112 step 4, R114): the destination was closed and has performed what its `TILE_DONE` reports. -/
def execTileCloseComplete (handle : Nat) (s : State) : Host.Outcome State Fault Refusal :=
  match s.tr.grants.find? (fun g => g.1 == handle) with
  | some (_, g) => if g.closing.any (s.closeReady handle g) then .next (s.tileDone handle g 0) else .next s
  | none => .next s

/-- `GRANT_IDLE` (R115): a grant without a packet for `GRANT_IDLE` beats is released with `TIMEOUT`. -/
def execGrantIdle (handle : Nat) (s : State) : Host.Outcome State Fault Refusal :=
  match s.tr.grants.find? (fun g => g.1 == handle) with
  | some (_, g) =>
    if g.seen + s.get TRACK_CONFIG_GRANT_IDLE ≤ s.edge then
      let s := (s.tileDone handle g stTIMEOUT).bump TRACK_GRANT_IDLE_COUNT
      .next { s with tr := { s.tr with idled := s.tr.idled ++ [handle] } }
    else .next s
  | none => .next s

end Sys2Proof.Machine
end

