-- ==== Sys2Proof/Machine/Dispatch.lean ====
section
/-! DEFINITION. One arm per command of the opcode table: each calls the command's own meaning. -/

namespace Sys2Proof.Machine

/-- The effect of a command on everything but the queue. -/
def exec (i : Instr) (s : State) : Host.Outcome State Fault Refusal :=
  match i with
  | .registerWrite off v => Sys2Proof.Machine.execRegisterWrite off v s
  | .rcRead off => Sys2Proof.Machine.execRcRead off s
  | .bar0BadAccess off width write => Sys2Proof.Machine.execBar0BadAccess off width write s
  | .fqConsWrite n v => Sys2Proof.Machine.execFqConsWrite n v s
  | .ringProdWrite n r v => Sys2Proof.Machine.execRingProdWrite n r v s
  | .ringCqConsWrite n r v => Sys2Proof.Machine.execRingCqConsWrite n r v s
  | .bootHostGo v => Sys2Proof.Machine.execBootHostGo v s
  | .beatEdge drawMw => Sys2Proof.Machine.execBeatEdge drawMw s
  | .admissionPass now => Sys2Proof.Machine.execAdmissionPass now s
  | .deferLimitTimeout n r => Sys2Proof.Machine.execDeferLimitTimeout n r s
  | .beatSlip id => Sys2Proof.Machine.execBeatSlip id s
  | .beatFrame p arrival => Sys2Proof.Machine.execBeatFrame p arrival s
  | .lockAcquired => Sys2Proof.Machine.execLockAcquired s
  | .holdover => Sys2Proof.Machine.execHoldover s
  | .election => Sys2Proof.Machine.execElection s
  | .gridChangeApply => Sys2Proof.Machine.execGridChangeApply s
  | .barrierArrival g now => Sys2Proof.Machine.execBarrierArrival g now s
  | .barrierRelease g now => Sys2Proof.Machine.execBarrierRelease g now s
  | .barrierTimeout g => Sys2Proof.Machine.execBarrierTimeout g s
  | .packetSwitch p busy => Sys2Proof.Machine.execPacketSwitch p busy s
  | .combWindowClose p id => Sys2Proof.Machine.execCombWindowClose p id s
  | .combinedReply => Sys2Proof.Machine.execCombinedReply s
  | .load => Sys2Proof.Machine.execLoad s
  | .store => Sys2Proof.Machine.execStore s
  | .atomic => Sys2Proof.Machine.execAtomic s
  | .mcastStore => Sys2Proof.Machine.execMcastStore s
  | .reduce now parity => Sys2Proof.Machine.execReduce now parity s
  | .reduceMem now parity => Sys2Proof.Machine.execReduceMem now parity s
  | .tileOpen => Sys2Proof.Machine.execTileOpen s
  | .tileRead => Sys2Proof.Machine.execTileRead s
  | .tileWrite => Sys2Proof.Machine.execTileWrite s
  | .tileClose => Sys2Proof.Machine.execTileClose s
  | .tileCloseComplete handle => Sys2Proof.Machine.execTileCloseComplete handle s
  | .grantIdle handle => Sys2Proof.Machine.execGrantIdle handle s
  | .translationCompletion n pasid va a => Sys2Proof.Machine.execTranslationCompletion n pasid va a s
  | .atsTimeout n pasid va => Sys2Proof.Machine.execAtsTimeout n pasid va s
  | .invalidateRequest itag pasid va size => Sys2Proof.Machine.execInvalidateRequest itag pasid va size s
  | .invalidationCompletion itag => Sys2Proof.Machine.execInvalidationCompletion itag s
  | .translationChangeDone m => Sys2Proof.Machine.execTranslationChangeDone m s
  | .lineQueueAdmit line waitNs => Sys2Proof.Machine.execLineQueueAdmit line waitNs s
  | .lineEntryPerform line => Sys2Proof.Machine.execLineEntryPerform line s
  | .lowerLimitTimeout line => Sys2Proof.Machine.execLowerLimitTimeout line s
  | .recallTimeout line agent => Sys2Proof.Machine.execRecallTimeout line agent s
  | .mcastAckCombine op => Sys2Proof.Machine.execMcastAckCombine op s
  | .data => Sys2Proof.Machine.execData s
  | .ack => Sys2Proof.Machine.execAck s
  | .atomicValue => Sys2Proof.Machine.execAtomicValue s
  | .tileGrant => Sys2Proof.Machine.execTileGrant s
  | .tileDone => Sys2Proof.Machine.execTileDone s
  | .trackerTimeout tag => Sys2Proof.Machine.execTrackerTimeout tag s
  | .trackerLost tag => Sys2Proof.Machine.execTrackerLost tag s
  | .trackerStallResume n => Sys2Proof.Machine.execTrackerStallResume n s
  | .parityRefetch at_ attempt => Sys2Proof.Machine.execParityRefetch at_ attempt s
  | .releaseSend e => Sys2Proof.Machine.execReleaseSend e s
  | .fenceComplete e => Sys2Proof.Machine.execFenceComplete e s
  | .bankSwitch => Sys2Proof.Machine.execBankSwitch s
  | .drainEnd => Sys2Proof.Machine.execDrainEnd s
  | .poolAlloc u n size => Sys2Proof.Machine.execPoolAlloc u n size s
  | .poolRelease k index => Sys2Proof.Machine.execPoolRelease k index s
  | .cellBatchFree first w held => Sys2Proof.Machine.execCellBatchFree first w held s
  | .auditSweep => Sys2Proof.Machine.execAuditSweep s
  | .chunkTimeout g chunk => Sys2Proof.Machine.execChunkTimeout g chunk s
  | .parkedContributionOpen g free => Sys2Proof.Machine.execParkedContributionOpen g free s
  | .descriptorFetch n r => Sys2Proof.Machine.execDescriptorFetch n r s
  | .fetchComplete n r a => Sys2Proof.Machine.execFetchComplete n r a s
  | .tileMoveStart mover => Sys2Proof.Machine.execTileMoveStart mover s
  | .tileMoveEnd id now => Sys2Proof.Machine.execTileMoveEnd id now s
  | .cqRecordRetry n r ok => Sys2Proof.Machine.execCqRecordRetry n r ok s
  | .collStepEnd id now => Sys2Proof.Machine.execCollStepEnd id now s
  | .tunJobStart => Sys2Proof.Machine.execTunJobStart s
  | .projectChunkTake chunk => Sys2Proof.Machine.execProjectChunkTake chunk s
  | .stagedChunkExpire g chunk => Sys2Proof.Machine.execStagedChunkExpire g chunk s
  | .projectTimeout => Sys2Proof.Machine.execProjectTimeout s
  | .tunJobOutput => Sys2Proof.Machine.execTunJobOutput s
  | .tunJobEnd now parity => Sys2Proof.Machine.execTunJobEnd now parity s
  | .sliceLoadStart => Sys2Proof.Machine.execSliceLoadStart s
  | .sliceLoadEnd parity => Sys2Proof.Machine.execSliceLoadEnd parity s
  | .attnJobStart => Sys2Proof.Machine.execAttnJobStart s
  | .attnOutput => Sys2Proof.Machine.execAttnOutput s
  | .attnJobEnd now parity => Sys2Proof.Machine.execAttnJobEnd now parity s
  | .extentMoveStart n e => Sys2Proof.Machine.execExtentMoveStart n e s
  | .extentCopyDone n e a => Sys2Proof.Machine.execExtentCopyDone n e a s
  | .extentTileRetry n e => Sys2Proof.Machine.execExtentTileRetry n e s
  | .extentSwitch n e => Sys2Proof.Machine.execExtentSwitch n e s
  | .tierMoveEnd id => Sys2Proof.Machine.execTierMoveEnd id s
  | .rld c t ins => Sys2Proof.Machine.execRld c t ins s
  | .rst c t ins => Sys2Proof.Machine.execRst c t ins s
  | .ramo c t ins => Sys2Proof.Machine.execRamo c t ins s
  | .waitlc c t ins => Sys2Proof.Machine.execWaitlc c t ins s
  | .waitlcWake c t => Sys2Proof.Machine.execWaitlcWake c t s
  | .waitlcTimeout c t => Sys2Proof.Machine.execWaitlcTimeout c t s
  | .waitbeat c t ins => Sys2Proof.Machine.execWaitbeat c t ins s
  | .waitbeatWake c t => Sys2Proof.Machine.execWaitbeatWake c t s
  | .fenceS c t ins => Sys2Proof.Machine.execFenceS c t ins s
  | .lcset c t ins => Sys2Proof.Machine.execLcset c t ins s
  | .lcread c t ins => Sys2Proof.Machine.execLcread c t ins s
  | .posttile c t ins => Sys2Proof.Machine.execPosttile c t ins s
  | .poststep c t ins => Sys2Proof.Machine.execPoststep c t ins s
  | .halt c t ins => Sys2Proof.Machine.execHalt c t ins s
  | .localAccess c t op compressed => Sys2Proof.Machine.execLocalAccess c t op compressed s
  | .csrWrite c t op rd csr v => Sys2Proof.Machine.execCsrWrite c t op rd csr v s
  | .threadException c t cause => Sys2Proof.Machine.execThreadException c t cause s
  | .fecBlock p lane flits slot check => Sys2Proof.Machine.execFecBlock p lane flits slot check s
  | .linkReplay p => Sys2Proof.Machine.execLinkReplay p s
  | .ackTimeout p => Sys2Proof.Machine.execAckTimeout p s
  | .stomp p => Sys2Proof.Machine.execStomp p s
  | .lightDetect p lanes => Sys2Proof.Machine.execLightDetect p lanes s
  | .hello p => Sys2Proof.Machine.execHello p s
  | .speedReq p => Sys2Proof.Machine.execSpeedReq p s
  | .speedAck p => Sys2Proof.Machine.execSpeedAck p s
  | .speedSwitch p => Sys2Proof.Machine.execSpeedSwitch p s
  | .tapReq p => Sys2Proof.Machine.execTapReq p s
  | .tapRsp p => Sys2Proof.Machine.execTapRsp p s
  | .laneEvaluation p step => Sys2Proof.Machine.execLaneEvaluation p step s
  | .evalDone p => Sys2Proof.Machine.execEvalDone p s
  | .ready p => Sys2Proof.Machine.execReady p s
  | .trainPhaseTimeout p => Sys2Proof.Machine.execTrainPhaseTimeout p s
  | .retrain p => Sys2Proof.Machine.execRetrain p s
  | .down p => Sys2Proof.Machine.execDown p s
  | .los p => Sys2Proof.Machine.execLos p s
  | .heartbeatLoss p => Sys2Proof.Machine.execHeartbeatLoss p s
  | .gravityBucketExpire => Sys2Proof.Machine.execGravityBucketExpire s
  | .lsuFail u present => Sys2Proof.Machine.execLsuFail u present s
  | .lsuReady u => Sys2Proof.Machine.execLsuReady u s
  | .lcWait p => Sys2Proof.Machine.execLcWait p s
  | .lcWaitTimeout p id => Sys2Proof.Machine.execLcWaitTimeout p id s
  | .attachLcRead p => Sys2Proof.Machine.execAttachLcRead p s
  | .rdShared p => Sys2Proof.Machine.execRdShared p s
  | .rdOwn p => Sys2Proof.Machine.execRdOwn p s
  | .drop p => Sys2Proof.Machine.execDrop p s
  | .wb p => Sys2Proof.Machine.execWb p s
  | .recallRsp p => Sys2Proof.Machine.execRecallRsp p s
  | .invalRsp p => Sys2Proof.Machine.execInvalRsp p s
  | .resetAck p => Sys2Proof.Machine.execResetAck p s
  | .attachDiscard p => Sys2Proof.Machine.execAttachDiscard p s
  | .cxlLinkDown => Sys2Proof.Machine.execCxlLinkDown s
  | .perstN low => Sys2Proof.Machine.execPerstN low s
  | .hdmAccess pa len wr cacheable => Sys2Proof.Machine.execHdmAccess pa len wr cacheable s
  | .mbHello m => Sys2Proof.Machine.execMbHello m s
  | .timeGridSet m => Sys2Proof.Machine.execTimeGridSet m s
  | .timeConfigSet m => Sys2Proof.Machine.execTimeConfigSet m s
  | .xlatEpSet m => Sys2Proof.Machine.execXlatEpSet m s
  | .xlatAtsSet m => Sys2Proof.Machine.execXlatAtsSet m s
  | .xlatFqSet m => Sys2Proof.Machine.execXlatFqSet m s
  | .xlatWindowSet m => Sys2Proof.Machine.execXlatWindowSet m s
  | .xlatPageSet m => Sys2Proof.Machine.execXlatPageSet m s
  | .xlatPageClear m => Sys2Proof.Machine.execXlatPageClear m s
  | .xlatPageGet m => Sys2Proof.Machine.execXlatPageGet m s
  | .xlatAtsPrefetch m => Sys2Proof.Machine.execXlatAtsPrefetch m s
  | .xlatShareSet m => Sys2Proof.Machine.execXlatShareSet m s
  | .trackConfigSet m => Sys2Proof.Machine.execTrackConfigSet m s
  | .trackShareSet m => Sys2Proof.Machine.execTrackShareSet m s
  | .lcShareSet m => Sys2Proof.Machine.execLcShareSet m s
  | .lcRead m => Sys2Proof.Machine.execLcRead m s
  | .lcSet m => Sys2Proof.Machine.execLcSet m s
  | .dirConfigSet m => Sys2Proof.Machine.execDirConfigSet m s
  | .xbarRouteLoad m host => Sys2Proof.Machine.execXbarRouteLoad m host s
  | .xbarGroupLoad m host => Sys2Proof.Machine.execXbarGroupLoad m host s
  | .xbarEpochSwitch m => Sys2Proof.Machine.execXbarEpochSwitch m s
  | .xbarConfigSet m => Sys2Proof.Machine.execXbarConfigSet m s
  | .xbarPortSet m => Sys2Proof.Machine.execXbarPortSet m s
  | .poolWarnSet m => Sys2Proof.Machine.execPoolWarnSet m s
  | .poolLimitSet m => Sys2Proof.Machine.execPoolLimitSet m s
  | .rdxConfigSet m => Sys2Proof.Machine.execRdxConfigSet m s
  | .collMembersSet m => Sys2Proof.Machine.execCollMembersSet m s
  | .collForm m => Sys2Proof.Machine.execCollForm m s
  | .collSuspend m => Sys2Proof.Machine.execCollSuspend m s
  | .collReform m => Sys2Proof.Machine.execCollReform m s
  | .collDissolve m => Sys2Proof.Machine.execCollDissolve m s
  | .collWeightSet m => Sys2Proof.Machine.execCollWeightSet m s
  | .mcGroupSet m => Sys2Proof.Machine.execMcGroupSet m s
  | .mcGroupClear m => Sys2Proof.Machine.execMcGroupClear m s
  | .mcGroupGet m => Sys2Proof.Machine.execMcGroupGet m s
  | .collPartSet m => Sys2Proof.Machine.execCollPartSet m s
  | .tunShareSet m => Sys2Proof.Machine.execTunShareSet m s
  | .tunSliceClear m => Sys2Proof.Machine.execTunSliceClear m s
  | .tunSliceGet m => Sys2Proof.Machine.execTunSliceGet m s
  | .tunBindSet m => Sys2Proof.Machine.execTunBindSet m s
  | .tunBindClear m => Sys2Proof.Machine.execTunBindClear m s
  | .memShareSet m => Sys2Proof.Machine.execMemShareSet m s
  | .tierRegionSet m => Sys2Proof.Machine.execTierRegionSet m s
  | .tierT3Set m => Sys2Proof.Machine.execTierT3Set m s
  | .tierQuotaSet m => Sys2Proof.Machine.execTierQuotaSet m s
  | .tierExtShareSet m => Sys2Proof.Machine.execTierExtShareSet m s
  | .tierExtentSet m => Sys2Proof.Machine.execTierExtentSet m s
  | .tierExtentFree m => Sys2Proof.Machine.execTierExtentFree m s
  | .tierExtentGet m => Sys2Proof.Machine.execTierExtentGet m s
  | .tierConfigSet m => Sys2Proof.Machine.execTierConfigSet m s
  | .tierLendOffer m => Sys2Proof.Machine.execTierLendOffer m s
  | .tierLendClose m => Sys2Proof.Machine.execTierLendClose m s
  | .tierLendAccept m => Sys2Proof.Machine.execTierLendAccept m s
  | .tierLendReturn m => Sys2Proof.Machine.execTierLendReturn m s
  | .seqShareSet m => Sys2Proof.Machine.execSeqShareSet m s
  | .seqLoad m parity => Sys2Proof.Machine.execSeqLoad m parity s
  | .seqStart m => Sys2Proof.Machine.execSeqStart m s
  | .seqStop m => Sys2Proof.Machine.execSeqStop m s
  | .seqStopDone m => Sys2Proof.Machine.execSeqStopDone m s
  | .portModeSet m => Sys2Proof.Machine.execPortModeSet m s
  | .portEnable m => Sys2Proof.Machine.execPortEnable m s
  | .portDisable m => Sys2Proof.Machine.execPortDisable m s
  | .portRetrain m => Sys2Proof.Machine.execPortRetrain m s
  | .ringSet m a => Sys2Proof.Machine.execRingSet m a s
  | .ringClear m => Sys2Proof.Machine.execRingClear m s
  | .partCreate m => Sys2Proof.Machine.execPartCreate m s
  | .partSparge m => Sys2Proof.Machine.execPartSparge m s
  | .spargeComplete n durationNs => Sys2Proof.Machine.execSpargeComplete n durationNs s
  | .partDestroy m => Sys2Proof.Machine.execPartDestroy m s
  | .partGet m => Sys2Proof.Machine.execPartGet m s
  | .fwStage m host => Sys2Proof.Machine.execFwStage m host s
  | .fwCommit m => Sys2Proof.Machine.execFwCommit m s
  | .fwCommitDone matched => Sys2Proof.Machine.execFwCommitDone matched s
  | .attestGet m => Sys2Proof.Machine.execAttestGet m s
  | .pgovSet m => Sys2Proof.Machine.execPgovSet m s
  | .pgovCapSet m => Sys2Proof.Machine.execPgovCapSet m s
  | .healthBudgetSet m => Sys2Proof.Machine.execHealthBudgetSet m s
  | .healthIsolate m => Sys2Proof.Machine.execHealthIsolate m s
  | .healthReadmit m => Sys2Proof.Machine.execHealthReadmit m s
  | .caskReadout m => Sys2Proof.Machine.execCaskReadout m s
  | .calRead m => Sys2Proof.Machine.execCalRead m s
  | .calWrite m host => Sys2Proof.Machine.execCalWrite m host s
  | .calWriteDone matched => Sys2Proof.Machine.execCalWriteDone matched s
  | .svcWatchdog applied => Sys2Proof.Machine.execSvcWatchdog applied s
  | .pwrCapAlert => Sys2Proof.Machine.execPwrCapAlert s
  | .pwrCapAlertEnd => Sys2Proof.Machine.execPwrCapAlertEnd s
  | .rampReq => Sys2Proof.Machine.execRampReq s
  | .rampGrant => Sys2Proof.Machine.execRampGrant s
  | .rampBusy => Sys2Proof.Machine.execRampBusy s
  | .rampDone => Sys2Proof.Machine.execRampDone s
  | .grantEnd => Sys2Proof.Machine.execGrantEnd s
  | .arbWaitExpire => Sys2Proof.Machine.execArbWaitExpire s
  | .arbiterTakeover => Sys2Proof.Machine.execArbiterTakeover s
  | .expelReq => Sys2Proof.Machine.execExpelReq s
  | .expelGrant => Sys2Proof.Machine.execExpelGrant s
  | .expelDeny => Sys2Proof.Machine.execExpelDeny s
  | .noticeLost => Sys2Proof.Machine.execNoticeLost s
  | .noticeFenced => Sys2Proof.Machine.execNoticeFenced s
  | .noticeReadmit => Sys2Proof.Machine.execNoticeReadmit s
  | .owned => Sys2Proof.Machine.execOwned s
  | .peerDead port => Sys2Proof.Machine.execPeerDead port s
  | .hotEnter sensors => Sys2Proof.Machine.execHotEnter sensors s
  | .hotExit sensors => Sys2Proof.Machine.execHotExit sensors s
  | .thermalTrip => Sys2Proof.Machine.execThermalTrip s
  | .breakerOpen => Sys2Proof.Machine.execBreakerOpen s
  | .hotSwapCharge => Sys2Proof.Machine.execHotSwapCharge s
  | .powerOnReset => Sys2Proof.Machine.execPowerOnReset s
  | .porRelease bootSrc clkMode pins => Sys2Proof.Machine.execPorRelease bootSrc clkMode pins s
  | .coreReset => Sys2Proof.Machine.execCoreReset s
  | .systemReset => Sys2Proof.Machine.execSystemReset s
  | .resetEnd => Sys2Proof.Machine.execResetEnd s
  | .internalPortsReopen => Sys2Proof.Machine.execInternalPortsReopen s
  | .bringupPhaseEnd work => Sys2Proof.Machine.execBringupPhaseEnd work s
  | .bootSourceWaitExpire => Sys2Proof.Machine.execBootSourceWaitExpire s
  | .imageTransferEnd line crc host ok => Sys2Proof.Machine.execImageTransferEnd line crc host ok s
  | .imageTransferStall line crc host ok => Sys2Proof.Machine.execImageTransferStall line crc host ok s
  | .ikioHelp => Sys2Proof.Machine.execIkioHelp s
  | .ikioBaud rate => Sys2Proof.Machine.execIkioBaud rate s
  | .ikioStatus => Sys2Proof.Machine.execIkioStatus s
  | .ikioRd off => Sys2Proof.Machine.execIkioRd off s
  | .ikioWr off v => Sys2Proof.Machine.execIkioWr off v s
  | .ikioMrd n addr len => Sys2Proof.Machine.execIkioMrd n addr len s
  | .ikioMwr n addr bytes => Sys2Proof.Machine.execIkioMwr n addr bytes s
  | .ikioRelease => Sys2Proof.Machine.execIkioRelease s
  | .ikioBootFull => Sys2Proof.Machine.execIkioBootFull s
  | .ikioLoad len => Sys2Proof.Machine.execIkioLoad len s
  | .ikioBadLine => Sys2Proof.Machine.execIkioBadLine s
  | .twPart => Sys2Proof.Machine.execTwPart s
  | .twStatus => Sys2Proof.Machine.execTwStatus s
  | .twRelease v => Sys2Proof.Machine.execTwRelease v s
  | .twCap v => Sys2Proof.Machine.execTwCap v s
  | .twMeasured => Sys2Proof.Machine.execTwMeasured s
  | .twJunction => Sys2Proof.Machine.execTwJunction s
  | .twResetCause => Sys2Proof.Machine.execTwResetCause s
  | .twSerial => Sys2Proof.Machine.execTwSerial s
  | .twEnergyIn => Sys2Proof.Machine.execTwEnergyIn s
  | .twUndefined cmd read => Sys2Proof.Machine.execTwUndefined cmd read s
  | .tapBypass => Sys2Proof.Machine.execTapBypass s
  | .tapSamplePreload preload => Sys2Proof.Machine.execTapSamplePreload preload s
  | .tapExtest => Sys2Proof.Machine.execTapExtest s
  | .tapIdcode => Sys2Proof.Machine.execTapIdcode s
  | .trstN => Sys2Proof.Machine.execTrstN s
  | .caskSample v => Sys2Proof.Machine.execCaskSample v s
  | .signedReadout => Sys2Proof.Machine.execSignedReadout s
  | .statusFrameSend => Sys2Proof.Machine.execStatusFrameSend s
  | .statusFrame crcOk f => Sys2Proof.Machine.execStatusFrame crcOk f s
  | .caskLinkTimeout => Sys2Proof.Machine.execCaskLinkTimeout s
  | .caskPowerDown => Sys2Proof.Machine.execCaskPowerDown s
  | .caskPowerUp selftestOk => Sys2Proof.Machine.execCaskPowerUp selftestOk s
  | .clockFault ppm => Sys2Proof.Machine.execClockFault ppm s
  | .tamperOpen => Sys2Proof.Machine.execTamperOpen s
  | .tamperClose => Sys2Proof.Machine.execTamperClose s
  | .overrange => Sys2Proof.Machine.execOverrange s
  | .caskTwRead a => Sys2Proof.Machine.execCaskTwRead a s
  | .caskReadReadout => Sys2Proof.Machine.execCaskReadReadout s
  | .caskReadCert => Sys2Proof.Machine.execCaskReadCert s
  | .caskReadLog => Sys2Proof.Machine.execCaskReadLog s
  | .caskCalRead a => Sys2Proof.Machine.execCaskCalRead a s
  | .caskCalWrite a v => Sys2Proof.Machine.execCaskCalWrite a v s
  | .caskFwUpdate last block => Sys2Proof.Machine.execCaskFwUpdate last block s
  | .blockLock p lane => Sys2Proof.Machine.execBlockLock p lane s
  | .cxlLinkUp x16 gt64 => Sys2Proof.Machine.execCxlLinkUp x16 gt64 s
  | .hostSnoop addr => Sys2Proof.Machine.execHostSnoop addr s
  | .backInvalidationResponse line data => Sys2Proof.Machine.execBackInvalidationResponse line data s
  | .cxlCacheResponse line a => Sys2Proof.Machine.execCxlCacheResponse line a s
  | .expelAnswerTimeout => Sys2Proof.Machine.execExpelAnswerTimeout s

end Sys2Proof.Machine
end

