-- ==== Sys2Proof/Safety.lean ====
section
/-! DEFINITION. What a safe state of the block is: the form of its memories and registers, and what a change of the state
leaves alone. -/

namespace Sys2Proof.Machine

/-- A byte memory is in canonical form: strictly rising addresses and no entry equal to what an unlisted byte reads as
(log 2), so that memories that read the same are the same. -/
abbrev Memory.wf (m : SMap Byte) : Prop := mcanon 0 m = true

/-- The register map is in canonical form: strictly rising numbers and indices, no empty row, and no register listed that
holds its power-on value. -/
def Regs.wf (m : SMap (SMap Word)) : Prop :=
  mcanon [] m = true ∧ ∀ e ∈ m, mrising e.2 = true ∧ ∀ x ∈ e.2, x.2 ≠ porWord e.1 x.1

/-- Every memory of the block (HBM4E of R302, the Tun store of R256, the scale plane of R259, the local memories of R330) and
the register map are in canonical form. -/
structure State.WF (s : State) : Prop where
  hbm : Memory.wf s.hbm
  store : Memory.wf s.tu.store
  scale : Memory.wf s.tu.scale
  local_ : Memory.wf s.sq.mem
  regs : Regs.wf s.regs

/-- What every command leaves alone, from `s` to `t`: the queue of waiting commands, what has been sent, and the canonical
forms; free values are only used up. With `cask`, also everything that the Cask holds (R478, R489). -/
structure Keeps (cask : Bool) (s t : State) : Prop where
  pending : t.pending = s.pending
  out : s.out <+: t.out
  free : s.free ≤ t.free
  wf : s.WF → t.WF
  ck : cask = true → t.ck = s.ck

/-- Every register but `ks` reads as before. -/
def SameRegs (s t : State) (ks : List Key) : Prop := ∀ k, k ∉ ks → t.reg k = s.reg k

/-- Every byte of the block's memories reads as before. -/
abbrev SameMem (s t : State) : Prop :=
  t.hbm = s.hbm ∧ t.tu.store = s.tu.store ∧ t.tu.scale = s.tu.scale ∧ t.sq.mem = s.sq.mem

/-- Nothing but the registers `ks` differs from `s` to `t`. -/
def OnlyRegs (s t : State) (ks : List Key) : Prop := { t with regs := s.regs } = s ∧ SameRegs s t ks

/-- The commands that reach the Cask: its samples, its timers, its pins and its own two-wire interface (R475 to R489). -/
def Instr.ofCask : Instr → Bool
  | .caskSample _ | .signedReadout | .statusFrameSend | .caskPowerDown | .caskPowerUp _ | .clockFault _ | .tamperOpen
  | .tamperClose | .overrange | .caskTwRead _ | .caskReadReadout | .caskReadCert | .caskReadLog | .caskCalRead _
  | .caskCalWrite _ _ | .caskFwUpdate _ _ => true
  | _ => false

/-- A step ends in a next state: the block never stops (every request and command ends with a status code, R14). -/
def goesOn (s : State) : Prop := ∃ t, step s = .next t

/-- The command of mailbox `m` is in progress, has not been taken yet and is held by no reset, it is the command that `c`
describes, no pool is short for it (R191), its turn has come (R390), and it passes the checks of R394 and R512: its own rules decide. `valid` says that its fields are in range. -/
abbrev State.mbReady (s : State) (c : MbSpec) (m : Nat) (valid : Bool) : Prop :=
  s.on (MB_STATUS_BUSY m) = true ∧ s.cmdOp m = c.opcode ∧ m ∉ s.hm.running ∧ m ∉ s.hm.held ∧
    (c.bulk && s.bulkHeld m) = false ∧ s.mbTurn m = true ∧ s.mbCheck c m valid = none

/-- The partition that selector bits [4:0] of mailbox `m` name (R393). -/
abbrev State.selPart (s : State) (m : Nat) : Nat := bits (s.cmd m 1) 4 0

/-- The partition that the selector of mailbox `m` names is not `SPARGING` (R416). -/
abbrev State.selFree (s : State) (m : Nat) : Prop := s.get (PART_STATE_STATE (s.selPart m)) ≠ 2

/-- The packet `p` of opcode `op` stands at the front of the end-point block and has passed its seal check (R424); `u` is
the state without it. -/
abbrev State.takes (s : State) (op : Nat) (p : Pkt) (u : State) : Prop :=
  (s.takeEp [op]).map (fun x => (x.1.map (·.pkt), x.2)) = some (some p, u)

/-- A request passes the checks of R116 up to its translation, which yields the pieces `cs` with no failure and no open
host region (R74); `v` is the state after it. -/
abbrev State.translates (u : State) (p : Pkt) (cs : List Piece) (v : State) : Prop :=
  u.fenced (Pkt.src p) = false ∧ u.fenced (Pkt.dst p) = false ∧ u.isControl p = false ∧ u.partActive (Pkt.part p) = true ∧
    u.lentDenied (Pkt.part p) ((u.slotOf (Pkt.dst p)).getD 0) (faLow p.w1 / 2 ^ 42) (Pkt.src p) = false ∧
    u.translate (Pkt.part p) ((u.slotOf (Pkt.dst p)).getD 0) (faLow p.w1) (Pkt.extent p) (Pkt.perm p) (Pkt.writes p) = (⟨cs, [], []⟩, v) ∧
    ∀ c ∈ cs, c.kind = 3 → v.accelUnsealed c.space (Pkt.part p) = false

/-- Thread `t` of core `c` issues an instruction now (R330, R333, R334): it runs and waits for nothing, and its program
counter lies in instruction memory. -/
abbrev State.canIssue (s : State) (c : Core) (t : Thread) : Prop :=
  s.ready c.val t.val = true ∧ (s.thread c.val t.val).pc + 4 ≤ 0x10000

/-- The control window holds a message of type `k` in front (R455): its words are `m`, and `v` is the state with it taken and
counted. -/
abbrev State.takesCtl (s : State) (k : Nat) (m : List Word) (v : State) : Prop :=
  s.xb.ctlIn.head?.map (·.2) = some m ∧ ctType m = k ∧
    v = ({ s with xb := { s.xb with ctlIn := s.xb.ctlIn.tail } } : State).bump HEALTH_NOTICE_COUNT

/-- Power-on reset is held in `t`, which came from `s`: memory is lost and every register has its power-on value but the
fuses and the register that tells of a thermal trip; the Cask is as it was, and so are the boot record and the calibration
store unless one was being written (R501, R504, R513, R519, R541). -/
def PoweredOff (s t : State) : Prop :=
  t.rs.por = true ∧ (∀ k, k ≠ PART_SVN → k ≠ GLOBAL_THERMAL → t.reg k = porWord k.id k.idx) ∧
    t.get ⟨PART_SVN, 43, 32⟩ = s.get ⟨PART_SVN, 43, 32⟩ ∧ t.hbm = [] ∧ t.tu.store = [] ∧ t.sq.mem = [] ∧ t.ck = s.ck ∧
    (s.rs.recording = false → t.rs.boot = s.rs.boot) ∧ (s.rs.calWrite = none → t.rs.store = s.rs.store)

/-- The Ikio monitor takes a line: power-on reset is over and no memory access of it waits (R521, R522). -/
abbrev State.ikioReady (s : State) : Prop := s.rs.por = false ∧ s.rs.ikio = none

/-- The two-wire target answers (R534). -/
abbrev State.twReady (s : State) : Prop := s.rs.wire = true ∧ s.rs.por = false ∧ s.rs.level ≠ 2

end Sys2Proof.Machine
end

