-- ==== Sys2Proof/Certificates/Slice0/Obligations.lean ====
section
/-! DEFINITION. The statements for the provers: for every family of commands what each command does to the block and what it
leaves, the step over the queue, the reset state, and the invariants of the whole block. -/

open Sys2Proof Sys2Proof.Machine

/-- Mailbox commands of the time base and of the endpoints complete with `OK` and these effects (R398, R32, R33, R62, R64,
R94, R88, R399, R547): the negotiated version; a grid change 256 beats ahead at the time root; the settings; the endpoint
identifiers, with which a new `SELF_ID` forms the boot record anew (R513; log 96, DEDUCED), the peer entries of the
accelerator slots follow (log 161, DEDUCED) and `OWNED` goes to every peer (R462; log 26 for its order); the fault queue's base
with both indices 0; a share of the page entry table. -/
def Obligations.MailboxTimeAndEndpoints : Prop :=
  (∀ (m : Mbx) (s : State),
    s.mbReady { opcode := 1, need := 1, tenant := true, naming := false, kept := true } m true → bits (s.cmd m 1) 7 0 = 1 →
    ∃ (u : State) (w1 w2 : Word), exec (.mbHello m) s = .next (u.mbComplete m 0 0 [w1, w2, s.reg GLOBAL_OPTIONS]) ∧
      u.get (MB_STATUS_VER_MAJOR m) = 1 ∧ u.get (MB_STATUS_VER_MINOR m) = min (bits (s.cmd m 1) 15 8) 2 ∧
      ∀ k, k ≠ MB_STATUS m → u.reg k = s.reg k) ∧
  (∀ (m : Mbx) (s : State),
    s.mbReady { primary 0x101 2 with kept := true } m true → s.get TIME_STATUS_ROLE = 2 → s.on TIME_PENDING_PEND_VALID = false →
    ∃ u : State, exec (.timeGridSet m) s = .next (u.mbComplete m 0 0 []) ∧ u.reg TIME_PENDING_AT = BitVec.ofNat 64 (s.beat + 256) ∧
      u.get TIME_PENDING_PEND_VALID = 1 ∧ u.get TIME_PENDING_PEND_BEAT_LEN = bits (s.arg m 0) 1 0 ∧
      u.get TIME_PENDING_PEND_SCHED_FRAC = bits (s.arg m 0) 7 4 ∧
      ∀ k, k ≠ TIME_PENDING → k ≠ TIME_PENDING_AT → u.reg k = s.reg k) ∧
  (∀ (m : Mbx) (s : State), s.mbReady { primary 0x102 6 with kept := true } m true →
    ∃ u : State, exec (.timeConfigSet m) s = .next (u.mbComplete m 0 0 []) ∧ u.get TIME_CONFIG_ROOT_PRIO = bits (s.arg m 0) 15 8 ∧
      u.get TIME_CONFIG_BEAT_LEN = s.get TIME_CONFIG_BEAT_LEN ∧
      u.reg TIME_GUARD = s.arg m 1 ∧ u.reg TIME_FIBRE_ALLOW = s.arg m 2 ∧ u.reg TIME_DEFER_LIMIT = s.arg m 3 ∧
      u.reg TIME_BARRIER_LIMIT = s.arg m 4) ∧
  (∀ (m : Mbx) (s : State), s.mbReady (primary 0x201 3) m true →
    let a := s.arg m 0
    let b := s.arg m 1
    let ids := ((bits a 15 0 :: (List.range 4).map (fun i => bits b (16 * i + 15) (16 * i))) ++ [bits a 31 16]).filter
      (fun e => e != 0xFFFF)
    let set := (s.setMask XLAT_EP_SELF 0xFFFFFFFF a).setReg XLAT_EP_ACCEL b
    let peers := (List.range 96).filter (fun i => s.get (HEALTH_PEER_A_STATE i) != 0 && mget none s.he.slots i == none)
    let told := peers.foldl (fun t i => t.sendOwned i) ((List.range 96).foldl (fun t i => t.showSlot i) set)
    let said := { s.rs.boot with selfId := bits a 15 0, serial := s.reg GLOBAL_SERIAL }
    let boot : BootRecord := { said with crc := crc32 said.bytes }
    0 ∉ ids → ids.eraseDups.length = ids.length →
    exec (.xlatEpSet m) s = .next ((if bits a 15 0 = s.selfId then told
      else { told with rs := { told.rs with boot := boot, recording := true } }).arbView.mbComplete m 0 0 [])) ∧
  (∀ (m : Mbx) (s : State), s.mbReady (primary 0x202 2) m (decide (1 ≤ bits (s.arg m 0) 31 16)) →
    exec (.xlatAtsSet m) s = .next ((s.setMask XLAT_ATS_CONFIG 0xFFFF0001 (s.arg m 0)).mbComplete m 0 0 [])) ∧
  (∀ (m : Mbx) (s : State), s.mbReady
      { primary 0x203 2 true with units := if bit (s.arg m 0) 0 then locUnits (bits (s.arg m 0) 1 1) else [] } m true →
    ∃ u : State, exec (.xlatFqSet m) s = .next (u.mbComplete m 0 0 []) ∧ u.reg (XLAT_FQ_PROD (s.selPart m)) = 0 ∧
      u.reg (XLAT_FQ_CONS (s.selPart m)) = 0 ∧
      u.reg (XLAT_FQ_BASE (s.selPart m)) =
        (s.setMask (XLAT_FQ_BASE (s.selPart m)) 0xFFFFFFFFFFFFF003 (s.arg m 0)).reg (XLAT_FQ_BASE (s.selPart m))) ∧
  (∀ (m : Mbx) (s : State), s.mbReady (primary 0x209 2 true) m true → s.selFree m →
    bits (s.arg m 0) 14 0 + bits (s.arg m 0) 31 16 ≤ 32768 →
    s.shareOverlap (s.selPart m) XLAT_PART_PAGES_FIRST XLAT_PART_PAGES_COUNT (bits (s.arg m 0) 14 0) (bits (s.arg m 0) 31 16) =
      false →
    (∀ e ∈ s.xl.page0, pgValid e.2 = true → givenUp (s.get (XLAT_PART_PAGES_FIRST (s.selPart m))) (s.get (XLAT_PART_PAGES_COUNT
      (s.selPart m))) (bits (s.arg m 0) 14 0) (bits (s.arg m 0) 31 16) e.1 = false) →
    exec (.xlatShareSet m) s =
      .next ((s.setMask (XLAT_PART_PAGES (s.selPart m)) 0xFFFF7FFF (s.arg m 0)).mbComplete m 0 0 []))

/-- Mailbox commands of the window directory and the page table (R72, R73, R82, R548, R549): the entries are written or
cleared, and the command completes at once when no access holds an old entry, and otherwise stays until
`TRANSLATION_CHANGE_DONE`; a read returns the entries; a prefetch with nothing left to translate ends with the status of the
lowest failure. That a prefetch queues no record is the model's choice (log 145). -/
def Obligations.MailboxWindowsAndPages : Prop :=
  (∀ (m : Mbx) (s : State),
    let n := s.selPart m
    let slot := s.cmdIdx m / 64
    let win := s.cmdIdx m % 64
    let c := s.cmdRun m
    let es := (List.range (min c 223)).map (fun i => (384 * n + 64 * slot + win + i, s.arg m i &&& dirMask))
    let t := es.foldl (fun t e => { t with xl := { t.xl with winDir := mset 0 t.xl.winDir e.1 e.2 } }) s
    s.mbReady (tenant 0x204 (1 + c)) m (decide (slot ≤ 5) && decide (win + c ≤ 64)) → s.selFree m →
    (n = 0 → slot = 0 → win + c ≠ 64 ∧ ∀ i < c, s.lentWindow (win + i) = false) → (∀ e ∈ es, s.dirOk n slot e.2 = true) →
    (if es.all (fun e => !t.useHeld (.dir e.1)) then exec (.xlatWindowSet m) s = .next (t.mbComplete m 0 0 [])
     else exec (.xlatWindowSet m) s = .next { t with
        xl := { t.xl with changes := t.xl.changes ++ [⟨m, es.map (fun e => Use.dir e.1)⟩] },
        hm := { t.hm with running := t.hm.running ++ [m.val] } })) ∧
  (∀ (m : Mbx) (s : State),
    let n := s.selPart m
    let f := s.cmdIdx m
    let c := s.cmdRun m
    let es := (List.range (min c 223)).map (fun i => (f + i, s.arg m (2 * i) &&& pageMask, s.arg m (2 * i + 1)))
    let t := es.foldl (fun t e => t.setPage e.1 e.2.1 e.2.2) s
    s.mbReady { tenant 0x205 (1 + 2 * c) with units := s.pageUnits m c } m
      (decide (f + c ≤ 32768) && es.all (fun e => decide (pgKind e.2.1 ≤ 4))) → s.selFree m →
    (n = 0 → ∀ e ∈ es, s.lentPage e.1 = false) → s.inPageShare n f c = true →
    (∀ e ∈ es, s.pageOk n e.1 e.2.1 e.2.2 = true) →
    (if es.all (fun e => !t.useHeld (.page e.1)) then exec (.xlatPageSet m) s = .next (t.mbComplete m 0 0 [])
     else exec (.xlatPageSet m) s = .next { t with
        xl := { t.xl with changes := t.xl.changes ++ [⟨m, es.map (fun e => Use.page e.1)⟩] },
        hm := { t.hm with running := t.hm.running ++ [m.val] } })) ∧
  (∀ (m : Mbx) (s : State),
    let is := (List.range (min (s.cmdRun m) 32768)).map (· + s.cmdIdx m)
    let t := is.foldl (fun t i => t.setPage i 0 0) s
    s.mbReady (tenant 0x206 1) m (decide (s.cmdIdx m + s.cmdRun m ≤ 32768)) → s.selFree m →
    s.inPageShare (s.selPart m) (s.cmdIdx m) (s.cmdRun m) = true →
    (if is.all (fun i => !t.useHeld (.page i)) then exec (.xlatPageClear m) s = .next (t.mbComplete m 0 0 [])
     else exec (.xlatPageClear m) s = .next { t with
        xl := { t.xl with changes := t.xl.changes ++ [⟨m, is.map Use.page⟩] },
        hm := { t.hm with running := t.hm.running ++ [m.val] } })) ∧
  (∀ (m : Mbx) (s : State),
    s.mbReady (tenant 0x207 1) m (decide (s.cmdIdx m + s.cmdRun m ≤ 32768) && decide (2 * s.cmdRun m ≤ 127)) →
    s.inPageShare (s.selPart m) (s.cmdIdx m) (s.cmdRun m) = true →
    exec (.xlatPageGet m) s = .next (s.mbComplete m 0 0 ((List.range (min (s.cmdRun m) 63)).flatMap (fun i =>
      [mget 0 s.xl.page0 (s.cmdIdx m + i), mget 0 s.xl.page1 (s.cmdIdx m + i)])))) ∧
  (∀ (m : Mbx) (s : State), (∃ c ∈ s.xl.changes, c.mbx = m) → m.val ∉ s.hm.held →
    (∀ c ∈ s.xl.changes, c.mbx = m → ∀ u ∈ c.uses, s.useHeld u = false) →
    exec (.translationChangeDone m) s =
      .next ({ s with xl := { s.xl with changes := s.xl.changes.filter (fun c => c.mbx != m.val) } }.mbComplete m 0 0 [])) ∧
  (∀ (m : Mbx) (s : State) (slot : Nat),
    let a := s.arg m 0
    let len := bits (s.arg m 1) 31 0
    let write := bit (s.arg m 1) 32
    let r := s.translate (s.selPart m) slot (faLow a) len (if write then 2 else 1) write
    s.mbReady (tenant 0x208 3) m (decide (1 ≤ len) && decide (len ≤ 0x80000000)) → s.slotOf (faEp a) = some slot →
    faLow a % 2 ^ 42 + len ≤ 2 ^ 42 → s.partActive (s.selPart m) = true →
    (r.1.needs = [] → exec (.xlatAtsPrefetch m) s =
      .next (r.2.mbComplete m (match lowestFail r.1.fails with | some f => f.status | none => 0) 0 [])) ∧
    (r.1.needs ≠ [] → ∃ t, exec (.xlatAtsPrefetch m) s = .next t ∧ t.hm.running = (r.2.atsWait (.prefetch m) r.1 write).hm.running ++ [m.val]))

/-- Mailbox commands of the tracker, the landing counters and the directory (R128, R147, R149, R158, R161, R400): settings
and shares are written, a counter is read with whether it has reached the target, or set; `DIR_CONFIG_SET` waits for
the copies of agents that may no longer cache. -/
def Obligations.MailboxTrackerAndCounters : Prop :=
  (∀ (m : Mbx) (s : State),
    s.mbReady (primary 0x301 2) m (bits (s.arg m 0) 47 32 != 0 && bits (s.arg m 0) 31 16 != 0 && bits (s.arg m 0) 15 0 != 0) →
    exec (.trackConfigSet m) s = .next ((s.setMask TRACK_CONFIG 0xFFFFFFFFFFFF (s.arg m 0)).mbComplete m 0 0 [])) ∧
  (∀ (m : Mbx) (s : State),
    let t := s.setMask (TRACK_PART_SHARE (s.selPart m)) 0x1FFFFF (s.arg m 0)
    s.mbReady (primary 0x302 2 true) m true → s.selFree m →
    ((List.range 32).map (fun k => t.get (TRACK_PART_SHARE_COUNT k))).sum ≤ 1048576 →
    exec (.trackShareSet m) s = .next (t.mbComplete m 0 0 [])) ∧
  (∀ (m : Mbx) (s : State),
    let w := s.arg m 0
    s.mbReady (primary 0x303 2 true) m true → s.selFree m → bits w 16 0 + bits w 49 32 ≤ 131072 →
    s.shareOverlap (s.selPart m) TRACK_LC_SHARE_FIRST TRACK_LC_SHARE_COUNT (bits w 16 0) (bits w 49 32) = false →
    exec (.lcShareSet m) s = .next ((s.setMask (TRACK_LC_SHARE (s.selPart m)) 0x3FFFF0001FFFF w).mbComplete m 0 0 [])) ∧
  (∀ (m : Mbx) (s : State), s.mbReady (tenant 0x304 2) m true → s.lcShare (s.selPart m) (s.cmdIdx m) = true →
    exec (.lcRead m) s = .next (s.mbComplete m 0 0 [s.counter (s.cmdIdx m),
      BitVec.ofNat 64 (b2n (reached (s.counter (s.cmdIdx m)) (s.arg m 0)))])) ∧
  (∀ (m : Mbx) (s : State), s.mbReady (tenant 0x305 2) m true → s.lcShare (s.selPart m) (s.cmdIdx m) = true →
    exec (.lcSet m) s = .next ((s.lcPut (s.cmdIdx m) (s.arg m 0)).mbComplete m 0 0 [])) ∧
  (∀ (m : Mbx) (s : State),
    let t := s.setMask MEM_DIR_CONFIG 0xFFFF001F (s.arg m 0)
    s.mbReady { primary 0x306 2 with units := [GLOBAL_OPTIONS_HBM_PRESENT] } m (bits (s.arg m 0) 31 16 != 0) →
    exec (.dirConfigSet m) s = .next ({ t with hm := { t.hm with running := t.hm.running ++ [m.val] } } : State).dirSettle)

/-- Mailbox commands of the switch core and of the buffer pools (R164, R169, R171, R181, R190, R191, R197): loads write the
spare bank alone and only while no switch is pending and no bank drains; a switch is pended at beat B; settings are
written. -/
def Obligations.MailboxSwitchAndPools : Prop :=
  (∀ (m : Mbx) (host : Reply) (s : State) (f c : Nat) (bs : List Byte),
    let b := 1 - s.get XBAR_CONFIG_ACTIVE_BANK
    let es := (List.range c).zip (bytesWords c bs)
    s.mbReady { primary 0x401 3 with kept := true, units := locUnits (s.bulkLoc m), bulk := true } m (s.bulkOk m) →
    s.on XBAR_STATUS_PEND = false →
    s.on XBAR_STATUS_DRAINING = false → s.loadRun m 65536 8 = some (f, c) → s.bulkRead m host = .ok bs →
    (∀ e ∈ es, s.routeOk b (f + e.1) e.2 = true) →
    exec (.xbarRouteLoad m host) s = .next ((es.foldl (fun s e => { s with
      xb := { s.xb with routes := mset 0 s.xb.routes (65536 * b + f + e.1) (e.2 &&& 0xFFFF3F1F) } }) s).mbComplete m 0 0 [])) ∧
  (∀ (m : Mbx) (host : Reply) (s : State) (f c : Nat) (bs : List Byte),
    let b := 1 - s.get XBAR_CONFIG_ACTIVE_BANK
    let t := ((List.range (2 * c)).zip (bytesWords (2 * c) bs)).foldl (fun s e =>
      let w : Word := if e.1 % 2 = 1 then e.2 &&& 0xFFFFFFFF else e.2
      { s with xb := { s.xb with groups := mset 0 s.xb.groups (512 * b + 2 * f + e.1) w } }) s
    s.mbReady { primary 0x402 3 with kept := true, units := locUnits (s.bulkLoc m), bulk := true } m (s.bulkOk m) →
    s.on XBAR_STATUS_PEND = false →
    s.on XBAR_STATUS_DRAINING = false → s.loadRun m 256 16 = some (f, c) → s.bulkRead m host = .ok bs →
    (∀ e ∈ t.xb.routes, e.1 / 65536 = b → bit e.2 0 = true → bit e.2 1 = false → t.groupFull b (bits e.2 23 16) = true) →
    exec (.xbarGroupLoad m host) s = .next (t.mbComplete m 0 0 [])) ∧
  (∀ (m : Mbx) (s : State), s.mbReady { primary 0x403 2 with kept := true } m true → s.on XBAR_STATUS_PEND = false →
    s.beat + 1 < (s.arg m 0).toNat → s.locked = true →
    ∃ u : State, exec (.xbarEpochSwitch m) s = .next (u.mbComplete m 0 0 []) ∧ u.reg XBAR_EPOCH_AT = s.arg m 0 ∧
      u.get XBAR_STATUS_PEND = 1 ∧ ∀ k, k ≠ XBAR_STATUS → k ≠ XBAR_EPOCH_AT → u.reg k = s.reg k) ∧
  (∀ (m : Mbx) (s : State),
    let w := s.arg m 0
    let t := s.setMask XBAR_CONFIG 0xFFFF00003FF00000 w
    let r := t.put XBAR_CONFIG_CELL_RSVD (bits w 47 30)
    let r := { r with xb := { r.xb with rsvdLocked := true } }
    let cells := mget [] r.pl.bufs 0
    s.mbReady { primary 0x404 2 with kept := true } m
      (bits w 63 48 != 0 && decide (bits w 47 30 ≤ 131072) && bits w 29 20 != 0) →
    exec (.xbarConfigSet m) s = .next ((if s.xb.rsvdLocked then t
      else (r.setBufs 0 cells (r.poolSize 0 - (cells.filter (fun e => e.2.inUse)).length)).poolServe).mbComplete m 0 0 [])) ∧
  (∀ (m : Mbx) (s : State),
    s.mbReady { primary 0x405 2 with kept := true } m
      (decide (s.cmdIdx m < 98) && (decide (bits (s.arg m 0) 4 2 < 4) || bits (s.arg m 0) 4 2 == 7)) →
    exec (.xbarPortSet m) s = .next ((s.setMask (XBAR_PORT_CFG (s.cmdIdx m)) 0x1F (s.arg m 0)).mbComplete m 0 0 [])) ∧
  (∀ (m : Mbx) (s : State),
    s.mbReady { primary 0x406 2 with kept := true, units := poolUnits (s.cmdIdx m) } m (decide (s.cmdIdx m < 5)) →
    exec (.poolWarnSet m) s =
      .next (((s.setReg (POOL_WARN (s.cmdIdx m)) (s.arg m 0)).poolWarn (s.cmdIdx m)).mbComplete m 0 0 [])) ∧
  (∀ (m : Mbx) (s : State), s.mbReady { primary 0x407 2 true with kept := true } m true → s.selFree m →
    exec (.poolLimitSet m) s = .next
      ((s.setMask (POOL_PART_LIMIT (s.selPart m)) 0x3FFFFFFFFFFFFFFF (s.arg m 0)).poolServe.mbComplete m 0 0 []))

/-- Mailbox commands of the reduction array, the collective rows and the multicast entries (R226, R227, R229 to R231, R233,
R245): a free row becomes active, an active one suspended, a suspended one active again after `LOST_WAIT` beats with
`BAR_GEN` 0, an idle one free with its group number in quarantine; weights, limits, members and multicast entries are
written, cleared or returned. By the model's reading the identifiers of `COLL_MEMBERS_SET` stand four to a word from payload
word 2 on, the least significant first (log 32, DEDUCED), and the words of `COLL_FORM` and `COLL_REFORM` are the rows they write,
in rising order of register offset, the group-table row at the root only (log 33, DEDUCED). -/
def Obligations.MailboxCollectives : Prop :=
  (∀ (m : Mbx) (s : State),
    s.mbReady (primary 0x501 3).rdx m
      (bits (s.arg m 0) 31 16 != 0 && decide (1 ≤ (s.arg m 1).toNat) && decide ((s.arg m 1).toNat ≤ 63)) →
    exec (.rdxConfigSet m) s = .next (((s.setMask RDX_CONFIG 0xFFFF0000 (s.arg m 0)).wr RDX_COLL_OTHER_WEIGHT
      (s.arg m 1).toNat).mbComplete m 0 0 [])) ∧
  (∀ (m : Mbx) (s : State),
    let f := s.cmdIdx m
    let c := s.cmdCount m
    s.mbReady (tenant 0x502 (1 + cdiv c 4)).rdx m (decide (f + c ≤ 16384) && decide (c ≤ 888)) → s.selFree m →
    (∀ g < 256, s.get (RDX_COLL_A_STATE g) = 1 →
      overlaps f c (s.get (RDX_COLL_B_MEMBER_BASE g)) (s.get (RDX_COLL_B_MEMBERS g)) = false) →
    exec (.collMembersSet m) s = .next (((List.range (min c 888)).foldl (fun t k =>
      t.setReg (RDX_COLL_MEMBER ((f + k) / 4)) (setBits (t.reg (RDX_COLL_MEMBER ((f + k) / 4))) (16 * ((f + k) % 4) + 15)
        (16 * ((f + k) % 4)) (bits (s.arg m (k / 4)) (16 * (k % 4) + 15) (16 * (k % 4))))) s).mbComplete m 0 0 [])) ∧
  (∀ (m : Mbx) (s : State),
    let n := s.selPart m
    let g := s.cmdIdx m
    let w := s.rowWords m
    s.mbReady (tenant 0x503 4).rdx m (decide (g < 256) && w.ok (s.cmdLen m)) → s.selFree m →
    s.get (RDX_COLL_A_STATE g) = 0 → mget 0 s.ra.quarantine (32 * bits w.a 59 48 + n) ≤ s.edge →
    s.get (RDX_COLL_PART_USE_ROWS n) < s.get (RDX_COLL_PART_LIMIT_ROWS n) → s.rowFits n g w = true →
    exec (.collForm m) s = .next (((s.writeRow n g w).put (RDX_COLL_PART_USE_ROWS n)
      (s.get (RDX_COLL_PART_USE_ROWS n) + 1)).mbComplete m 0 0 [])) ∧
  (∀ (m : Mbx) (s : State),
    let g := s.cmdIdx m
    s.mbReady (tenant 0x504 1).rdx m (decide (g < 256)) → s.selFree m → s.get (RDX_COLL_A_STATE g) = 1 →
    s.get (RDX_COLL_A_PARTITION g) = s.selPart m →
    ∃ lost, exec (.collSuspend m) s = .next ((s.take.2.suspendRow g lost 3).mbComplete m 0 0 [])) ∧
  (∀ (m : Mbx) (s : State),
    let n := s.selPart m
    let g := s.cmdIdx m
    let w := s.rowWords m
    s.mbReady (tenant 0x505 4).rdx m (decide (g < 256) && w.ok (s.cmdLen m)) → s.selFree m →
    s.get (RDX_COLL_A_STATE g) = 2 → s.get (RDX_COLL_A_PARTITION g) = n →
    s.get TRACK_CONFIG_LOST_WAIT ≤ (s.beat + 2 ^ 40 - s.get (RDX_COLL_SUSPEND_BEAT g)) % 2 ^ 40 → s.rowFits n g w = true →
    exec (.collReform m) s = .next (((s.writeRow n g w).put (RDX_COLL_C_BAR_GEN g) 0).mbComplete m 0 0 [])) ∧
  (∀ (m : Mbx) (s : State),
    let n := s.selPart m
    let g := s.cmdIdx m
    s.mbReady (tenant 0x506 1).rdx m (decide (g < 256)) → s.selFree m → s.get (RDX_COLL_A_STATE g) ≠ 0 →
    s.get (RDX_COLL_A_PARTITION g) = n → s.rowBusy n g = false →
    ∃ u : State, exec (.collDissolve m) s = .next (u.mbComplete m 0 0 []) ∧ u.get (RDX_COLL_A_STATE g) = 0 ∧
      mget 0 u.ra.quarantine (32 * s.get (RDX_COLL_A_GROUP_ID g) + n) = s.edge + s.get TRACK_CONFIG_LOST_WAIT ∧
      u.hbm = s.hbm) ∧
  (∀ (m : Mbx) (s : State),
    let g := s.cmdIdx m
    let w := bits (s.arg m 0) 16 11
    s.mbReady { (tenant 0x507 3).rdx with minor := 2 } m (decide (g < 256) && w != 0) → s.selFree m →
    s.get (RDX_COLL_A_STATE g) ≠ 0 → s.get (RDX_COLL_A_PARTITION g) = s.selPart m →
    exec (.collWeightSet m) s = .next (((s.put (RDX_COLL_A_WEIGHT g) w).put (RDX_COLL_C_WATCH_RANK g)
      (bits (s.arg m 1) 12 0)).mbComplete m 0 0 [])) ∧
  (∀ (m : Mbx) (s : State),
    s.mbReady (primary 0x50B 2 true).rdx m (decide (bits (s.arg m 0) 44 32 ≤ 4096) && decide (bits (s.arg m 0) 8 0 ≤ 256)) →
    s.selFree m →
    exec (.collPartSet m) s =
      .next ((s.setMask (RDX_COLL_PART_LIMIT (s.selPart m)) 0x1FFF000001FF (s.arg m 0)).mbComplete m 0 0 [])) ∧
  (∀ (m : Mbx) (s : State),
    let n := s.selPart m
    let g := s.cmdIdx m
    let c := bits (s.arg m 0) 18 12
    let w0 := setBits (setBits (s.arg m 0 &&& 0x1FFFFFFFFFFFFFFF) 5 1 n) 59 48 g
    let ws := w0 :: (List.range (cdiv (min c 96) 2)).map (fun i => s.arg m (1 + i) &&& 0xFFFF007FFFFF007F)
    s.mbReady (tenant 0x508 (1 + mcWords c)).rdx m (decide (g < 4096) && decide (c ≤ 96) &&
      (List.range (min c 96)).all (fun i => mcChildBelow ws i != 0) && decide (1 ≤ bits w0 31 25) && decide (bits w0 31 25 ≤ 102)) →
    s.selFree m → mcValid (wd (s.mcEntry n g) 0) = false → s.mcOk ws = true →
    s.get (RDX_COLL_PART_USE_MC n) < s.get (RDX_COLL_PART_LIMIT_MC n) → bit w0 0 = true →
    exec (.mcGroupSet m) s = .next (({ s with ra := { s.ra with mc := mset [] s.ra.mc (32 * g + n) ws } }.put
      (RDX_COLL_PART_USE_MC n) (s.get (RDX_COLL_PART_USE_MC n) + 1)).mbComplete m 0 0 [])) ∧
  (∀ (m : Mbx) (s : State),
    let n := s.selPart m
    let g := s.cmdIdx m
    s.mbReady (tenant 0x509 1).rdx m (decide (g < 4096)) → s.selFree m → mcValid (wd (s.mcEntry n g) 0) = true →
    exec (.mcGroupClear m) s = .next (({ s with ra := { s.ra with mc := mset [] s.ra.mc (32 * g + n) [] } }.put
      (RDX_COLL_PART_USE_MC n) (s.get (RDX_COLL_PART_USE_MC n) - 1)).mbComplete m 0 0 [])) ∧
  (∀ (m : Mbx) (s : State),
    let e := s.mcEntry (s.selPart m) (s.cmdIdx m)
    s.mbReady (tenant 0x50A 1).rdx m (decide (s.cmdIdx m < 4096)) →
    exec (.mcGroupGet m) s = .next (s.mbComplete m 0 0 (if e.isEmpty then [0] else e)))

/-- Mailbox commands of the Tun (R258, R265, R273): shares, slices and bindings. -/
def Obligations.MailboxTun : Prop :=
  (∀ (m : Mbx) (s : State),
    let n := s.selPart m
    let w := s.arg m 0
    s.mbReady (primary 0x601 2 true).tun m true → s.selFree m → bits w 11 0 + bits w 43 32 ≤ 3072 →
    s.shareOverlap n TUN_PART_SHARE_FIRST TUN_PART_SHARE_COUNT (bits w 11 0) (bits w 43 32) = false →
    (∀ e < 256, s.get (TUN_SLICE_A_STATE e) = 0 ∨ s.get (TUN_SLICE_A_PARTITION e) ≠ n) →
    exec (.tunShareSet m) s = .next ((s.setMask (TUN_PART_SHARE n) 0xFFF00000FFF w).mbComplete m 0 0 [])) ∧
  (∀ (m : Mbx) (s : State),
    let e := s.cmdIdx m
    s.mbReady (tenant 0x602 1).tun m (decide (e < 256)) → s.selFree m → s.get (TUN_SLICE_A_STATE e) = 2 →
    (m.val < 32 → s.get (TUN_SLICE_A_PARTITION e) = s.selPart m) → s.sliceNamed e = false →
    exec (.tunSliceClear m) s = .next (((s.setReg (TUN_SLICE_A e) 0).setReg (TUN_SLICE_B e) 0).mbComplete m 0 0 [])) ∧
  (∀ (m : Mbx) (s : State),
    let e := s.cmdIdx m
    s.mbReady (tenant 0x603 1).tun m (decide (e < 256)) →
    (m.val < 32 → s.get (TUN_SLICE_A_STATE e) = 0 ∨ s.get (TUN_SLICE_A_PARTITION e) = s.selPart m) →
    exec (.tunSliceGet m) s = .next (s.mbComplete m 0 0 [s.reg (TUN_SLICE_A e), s.reg (TUN_SLICE_B e)])) ∧
  (∀ (m : Mbx) (s : State) (g : Nat),
    let n := s.selPart m
    let b := s.cmdIdx m
    let grp := bits (s.arg m 0) 11 0
    s.mbReady { (tenant 0x604 2).tun with minor := 1 } m (decide (b < 16)) → s.selFree m → s.on (TUN_BIND_VALID b) = false →
    s.collRow n grp = some g → s.get (RDX_COLL_A_STATE g) = 1 → s.on (RDX_COLL_A_ROOT g) = true →
    exec (.tunBindSet m) s =
      .next ((s.setReg (TUN_BIND b) (mkWord [(17, 17, 1), (16, 12, n), (11, 0, grp)])).mbComplete m 0 0 [])) ∧
  (∀ (m : Mbx) (s : State),
    let b := s.cmdIdx m
    s.mbReady { (tenant 0x605 1).tun with minor := 1 } m (decide (b < 16)) → s.selFree m → s.on (TUN_BIND_VALID b) = true →
    (m.val < 32 → s.get (TUN_BIND_PARTITION b) = s.selPart m) →
    (∀ x ∈ s.tu.jobs.filterMap s.step?, dType (wd x.words 0) = 3 → tjKind x.words = 2 →
      x.part = s.get (TUN_BIND_PARTITION b) → wb x.words 3 40 29 ≠ s.get (TUN_BIND_GROUP_ID b)) →
    exec (.tunBindClear m) s = .next ((s.unbind b true).mbComplete m 0 0 []))

/-- Mailbox commands of the memory tiers (R304, R305, R306, R310, R311, R318, R319, R321, R324, R326): shares, region,
pools, quotas, extents, and the four commands of a lending agreement. By the model's reading a count of 0 names one extent
(log 37, DEDUCED), a response of `TIER_EXTENT_GET` is cut at 127 words (log 38, DEDUCED), a payload word of `TIER_EXTENT_SET`
stands for each extent (log 39, DEDUCED), frames that may not be lent give `ACCESS_DENIED` (log 40, DEDUCED), and the page entries of a
lent window are a free run of them (log 41, DESIGN CHOICE). -/
def Obligations.MailboxTiers : Prop :=
  (∀ (m : Mbx) (s : State),
    let n := s.selPart m
    let w := s.arg m 0
    s.mbReady (primary 0x701 2 true).hbm m true → s.selFree m → s.runsOk w = true →
    runsMeet w (s.reg MEM_TIER_REGION) = false → (∀ k < 32, k ≠ n → runsMeet w (s.reg (MEM_PART_HBM k)) = false) →
    (∀ e ∈ s.xl.page0, pgValid e.2 = true → pgKind e.2 = 0 → pgOwner e.2 ≠ n) →
    exec (.memShareSet m) s = .next ((s.setMask (MEM_PART_HBM n) runsMask w).mbComplete m 0 0 [])) ∧
  (∀ (m : Mbx) (s : State),
    let w := s.arg m 0
    s.mbReady (primary 0x702 2).hbm m true → s.runsOk w = true →
    (∀ k < 32, runsMeet w (s.reg (MEM_PART_HBM k)) = false) → (∀ i < 8, s.get (MEM_LEND_OUT_STATE i) ≠ 1) →
    s.usedFrames 0 = [] →
    exec (.tierRegionSet m) s = .next ((s.setMask MEM_TIER_REGION runsMask w).tierCounts.mbComplete m 0 0 [])) ∧
  (∀ (m : Mbx) (s : State), s.mbReady (primary 0x703 3).hbm m (decide ((s.arg m 1).toNat ≤ 524288)) → s.usedFrames 2 = [] →
    exec (.tierT3Set m) s = .next (((s.setMask MEM_T3_POOL 0xFFFFFFFFFFE00000 (s.arg m 0)).wr MEM_T3_FRAMES
      (s.arg m 1).toNat).tierCounts.mbComplete m 0 0 [])) ∧
  (∀ (m : Mbx) (s : State),
    let n := s.selPart m
    let t := s.setMask (MEM_PART_QUOTA n) 0xFFFFFFFFFFFFFF (s.arg m 0)
    s.mbReady (primary 0x704 2 true).hbm m (decide (t.get (quotaF 0 n) ≤ 131072) && decide (t.get (quotaF 1 n) ≤ 131072) &&
      decide (t.get (quotaF 2 n) ≤ 524288)) → s.selFree m →
    (∀ x < 3, ((List.range 32).map (fun k => t.get (quotaF x k))).sum ≤ s.frameCount x) →
    (s.confidential n = true → t.get (quotaF 1 n) = 0) → (∀ x < 3, s.framesOf n x false ≤ t.get (quotaF x n)) →
    exec (.tierQuotaSet m) s = .next (t.mbComplete m 0 0 [])) ∧
  (∀ (m : Mbx) (s : State),
    let n := s.selPart m
    let w := s.arg m 0
    s.mbReady (primary 0x705 2 true).hbm m true → s.selFree m → bits w 18 0 + bits w 51 32 ≤ 524288 →
    s.shareOverlap n MEM_PART_EXT_FIRST MEM_PART_EXT_COUNT (bits w 18 0) (bits w 51 32) = false →
    (∀ e ∈ s.ti.ext0, s.get (MEM_PART_EXT_FIRST n) ≤ e.1 → e.1 < s.get (MEM_PART_EXT_FIRST n) + s.get (MEM_PART_EXT_COUNT n) →
      bits e.2 2 0 = 0) →
    exec (.tierExtShareSet m) s = .next ((s.setMask (MEM_PART_EXT n) 0xFFFFF0007FFFF w).mbComplete m 0 0 [])) ∧
  (∀ (m : Mbx) (s : State), s.mbReady (primary 0x709 2).hbm m (bits (s.arg m 0) 31 16 != 0) →
    exec (.tierConfigSet m) s = .next ((s.setMask MEM_TIER_CONFIG 0xFFFF0001 (s.arg m 0)).mbComplete m 0 0 [])) ∧
  (∀ (m : Mbx) (s : State) (es : List Nat),
    let ws := (List.range (min (s.cmdRun m) 222)).map (s.arg m)
    s.mbReady (tenant 0x706 (1 + s.cmdRun m)).hbm m (ws.all (fun w => decide (bits w 2 0 ≤ 1) && bits w 9 8 != 3)) →
    s.selFree m → s.namedExtents m (s.selPart m) = some es → (∀ e ∈ es, s.extState e < 2 ∧ s.extMoving e = false) →
    exec (.tierExtentSet m) s = .next (((es.zip ws).foldl (fun s x => s.setExt x.1
      (setBits (setBits (setBits (s.ext0 x.1) 2 0 (bits x.2 2 0)) 9 8 (bits x.2 9 8)) 7 6 3) (s.ext1 x.1)) s).mbComplete m 0 0 [])) ∧
  (∀ (m : Mbx) (s : State) (es : List Nat), s.mbReady (tenant 0x707 1).hbm m true → s.selFree m →
    s.namedExtents m (s.selPart m) = some es → (∀ e ∈ es, s.extMoving e = false ∧ s.extHeld e = false) →
    exec (.tierExtentFree m) s = .next ((es.foldl (fun s e => if s.extState e = 0 then s else s.freeExt e 0)
      s).settleReturns.mbComplete m 0 0 [])) ∧
  (∀ (m : Mbx) (s : State) (es : List Nat), s.mbReady (tenant 0x708 1).hbm m (decide (s.cmdRun m ≤ 64)) →
    s.namedExtents m (s.selPart m) = some es →
    exec (.tierExtentGet m) s = .next (s.mbComplete m 0 0 ((es.flatMap s.extWords).take 127))) ∧
  (∀ (m : Mbx) (s : State),
    let i := s.cmdIdx m
    let w := s.arg m 0
    let units := (List.range (bits w 22 16)).map (· + bits w 5 0)
    let first := s.get (XLAT_PART_PAGES_FIRST 0)
    s.mbReady { (primary 0x70A 2).hbm with minor := 1 } m
      (decide (i < 8) && (decide (1 ≤ bits w 22 16) && decide (bits w 22 16 ≤ 64))) →
    bits w 29 24 ≠ 63 → s.get (MEM_LEND_OUT_STATE i) = 0 → dirValid (mget 0 s.xl.winDir (bits w 29 24)) = false →
    (∀ u ∈ units, u ∈ s.t1Units (bits w 13 12)) →
    (∀ a ∈ s.usedFrames 0, ¬ (a / 2 ^ 36 = bits w 13 12 ∧ a / 2 ^ 30 % 64 ∈ units)) →
    (s.pick (s.get (XLAT_PART_PAGES_COUNT 0) + 1 - bits w 22 16)
      (fun j => (List.range (bits w 22 16)).any (fun x => pgValid (mget 0 s.xl.page0 (first + j + x))))).1 ≠ none →
    ∃ (u : State) (j : Nat), exec (.tierLendOffer m) s = .next (u.tierCounts.mbComplete m 0 0 []) ∧
      u.reg (MEM_LEND_OUT i) = mkWord [(63, 62, 1), (47, 32, bits w 47 32), (29, 24, bits w 29 24), (22, 16, bits w 22 16),
        (13, 12, bits w 13 12), (5, 0, bits w 5 0)] ∧
      mget 0 u.xl.winDir (bits w 29 24) = mkWord [(0, 0, 1), (1, 1, 1), (2, 2, 1), (20, 8, bits w 22 16), (46, 32, first + j)]) ∧
  (∀ (m : Mbx) (s : State),
    let i := s.cmdIdx m
    let win := s.get (MEM_LEND_OUT_WIN i)
    let d := mget 0 s.xl.winDir win
    let ps := (List.range (dirCount d)).map (· + dirFirst d)
    let t := ps.foldl (fun t p => t.setPage p 0 0) s
    let t := { t with xl := { t.xl with winDir := mset 0 t.xl.winDir win 0 } }
    let t := (t.setReg (MEM_LEND_OUT i) 0).tierCounts
    s.mbReady { (primary 0x70B 1).hbm with minor := 1 } m (decide (i < 8) && true) → s.get (MEM_LEND_OUT_STATE i) = 1 →
    (∀ u ∈ Use.dir win :: ps.map Use.page, t.useHeld u = false) →
    exec (.tierLendClose m) s = .next (t.mbComplete m 0 0 [])) ∧
  (∀ (m : Mbx) (s : State),
    let i := s.cmdIdx m
    let w := s.arg m 0
    s.mbReady { (primary 0x70C 2).hbm with minor := 1 } m
      (decide (i < 8) && (decide (1 ≤ bits w 22 16) && decide (bits w 22 16 ≤ 64))) → s.get (MEM_LEND_IN_STATE i) = 0 →
    exec (.tierLendAccept m) s = .next ((s.setReg (MEM_LEND_IN i) (mkWord [(63, 62, 1), (47, 32, bits w 47 32),
      (22, 16, bits w 22 16), (5, 0, bits w 5 0)])).tierCounts.mbComplete m 0 0 [])) ∧
  (∀ (m : Mbx) (s : State),
    let i := s.cmdIdx m
    let t := if s.get (MEM_LEND_IN_STATE i) = 1 then (s.put (MEM_LEND_IN_STATE i) 2).tierCounts else s
    s.mbReady { (primary 0x70D 1).hbm with minor := 1 } m (decide (i < 8) && true) → s.get (MEM_LEND_IN_STATE i) ≠ 0 →
    exec (.tierLendReturn m) s = .next ({ t with
      ti := { t.ti with returns := t.ti.returns ++ [(i, m.val)] },
      hm := { t.hm with running := t.hm.running ++ [m.val] } } : State).settleReturns)

/-- Mailbox commands of the sequencers, the ports and the work rings (R341 to R343, R345, R367, R378, R401, R402): a share of
cores, an image loaded, cores started and stopped, a port's mode and state, a ring in and out of service. By the model's
reading `SEQ_LOAD` has its address in word 2 and its start flag in bit 0 of word 3 (log 42, DEDUCED), the header is read first
and then the image (log 43, DEDUCED), a count of 0 names one core (log 37, DEDUCED), and a core outside every share shows partition
0 (log 73, DEDUCED). -/
def Obligations.MailboxSequencersPortsRings : Prop :=
  (∀ (m : Mbx) (s : State),
    let n := s.selPart m
    let w := s.arg m 0
    let old := s.shareCores n
    let new := (List.range (bits w 26 16)).map (· + bits w 9 0)
    let t := s.setMask (SEQ_PART_CORES n) 0x107FF03FF w
    let t := (old.filter (fun k => !new.contains k)).foldl (fun t k => (t.emptyCore k).put (SEQ_CORE_STATE_PARTITION k) 0) t
    s.mbReady (primary 0x801 2 true).seq m true → s.selFree m → bits w 9 0 + bits w 26 16 ≤ 1024 →
    s.shareOverlap n SEQ_PART_CORES_FIRST SEQ_PART_CORES_COUNT (bits w 9 0) (bits w 26 16) = false →
    (∀ k ∈ old ++ new, s.coreState k < 2) →
    exec (.seqShareSet m) s = .next ((new.foldl (fun t k => t.put (SEQ_CORE_STATE_PARTITION k) n) t).mbComplete m 0 0 [])) ∧
  (∀ (m : Mbx) (a : Option WordFault) (s s1 s2 : State) (cs : List Nat) (hb bs : List Byte),
    let n := s.selPart m
    let h := bytesWords 8 hb
    let p := cs.foldl (fun s c => s.placeImage h (bs.drop 64) c) s2
    let u := if s2.hm.doomed.contains m.val then p else p.bump SEQ_LOAD_COUNT
    s.mbReady (tenant 0x802 3).seq m true → s.selFree m → s.namedCores m n = some cs → (∀ c ∈ cs, s.coreState c < 2) →
    s.imageWait m = none → s.imageRead m n (s.arg m 0) 64 a = .ok hb s1 → imageShape h = true →
    s1.imageRead m n (s.arg m 0) (min (imageSize h) 196672) a = .ok bs s2 →
    imageStatus h (bs.drop 64) = 0 →
    exec (.seqLoad m a) s =
      .next ((if bit (s2.arg m 1) 0 then cs.foldl (fun s c => s.startCore n c) u else u).mbComplete m 0 0 [])) ∧
  (∀ (m : Mbx) (s : State) (cs : List Nat), s.mbReady (tenant 0x803 1).seq m true → s.selFree m →
    s.namedCores m (s.selPart m) = some cs → (∀ c ∈ cs, s.coreState c = 1) →
    exec (.seqStart m) s = .next ((cs.foldl (fun s c => s.startCore (s.selPart m) c) s).mbComplete m 0 0 [])) ∧
  (∀ (m : Mbx) (s : State) (cs : List Nat), s.mbReady (tenant 0x804 1).seq m true → s.selFree m →
    s.namedCores m (s.selPart m) = some cs → (∀ c ∈ cs, s.coreState c = 2) →
    ∃ t, exec (.seqStop m) s = .next (State.stopDone { t with
        sq := { t.sq with stops := t.sq.stops ++ [(m.val, cs)] }, hm := { t.hm with running := t.hm.running ++ [m.val] } } m) ∧
      t = cs.foldl (fun s c => (setBitsOf 32 ((s.put (SEQ_CORE_STATE_STATE c) 3).get (SEQ_CORE_STATE_RUN_MASK c))).foldl
        (fun s t => s.haltThread c t) (s.put (SEQ_CORE_STATE_STATE c) 3)) s) ∧
  (∀ (m : Mbx) (s : State) (x : Nat × List Nat), s.sq.stops.find? (fun x => x.1 == m.val) = some x →
    (∀ c ∈ x.2, s.coreState c ≤ 1) → m.val ∉ s.hm.held →
    exec (.seqStopDone m) s =
      .next ({ s with sq := { s.sq with stops := s.sq.stops.filter (fun x => x.1 != m.val) } }.mbComplete m 0 0 [])) ∧
  (∀ (m : Mbx) (s : State),
    let p := s.cmdIdx m
    s.mbReady { primary 0x901 2 with kept := true, units := [⟨GLOBAL_OPTIONS, 8 + p / 8, 8 + p / 8⟩] } m
      (decide (p < 96) && bits (s.arg m 0) 5 4 != 0) → (s.portState p = 0 ∨ s.portState p = 4) →
    exec (.portModeSet m) s = .next ((s.setMask (PORT_CFG p) 0xFFFFFFFF00000032 (s.arg m 0)).mbComplete m 0 0 [])) ∧
  (∀ (m : Mbx) (s : State),
    let p := s.cmdIdx m
    s.mbReady { primary 0x902 1 with kept := true, units := [⟨GLOBAL_OPTIONS, 8 + p / 8, 8 + p / 8⟩] } m
      (decide (p < 96) && true) → (s.portState p = 0 ∨ s.portState p = 4) →
    exec (.portEnable m) s = .next (((s.put (PORT_CFG_ENABLE p) 1).linkOut p 1).mbComplete m 0 0 [])) ∧
  (∀ (m : Mbx) (s : State),
    let p := s.cmdIdx m
    let t := s.put (PORT_CFG_ENABLE p) 0
    let t := if s.portState p = 0 then t else t.sendTrain p 0x09 0xFF 0 6 0 0
    let t := if s.portState p = 2 ∨ s.portState p = 3 then t.dropTo p 6 0 else t.linkOut p 0
    s.mbReady { primary 0x903 1 with kept := true, units := [⟨GLOBAL_OPTIONS, 8 + p / 8, 8 + p / 8⟩] } m
      (decide (p < 96) && true) → s.portState p ≠ 5 →
    exec (.portDisable m) s = .next ((match t.peerOf p with | some i => t.settlePeer i | none => t).mbComplete m 0 0 [])) ∧
  (∀ (m : Mbx) (s : State),
    let p := s.cmdIdx m
    s.mbReady { primary 0x904 1 with kept := true, units := [⟨GLOBAL_OPTIONS, 8 + p / 8, 8 + p / 8⟩] } m
      (decide (p < 96) && true) → s.active p = true →
    exec (.portRetrain m) s = .next (((s.sendTrain p 0x08 0xFF 0 0 0 0).dropLink p 6).mbComplete m 0 0 [])) ∧
  (∀ (m : Mbx) (a : Reply) (s : State),
    let n := s.selPart m
    let r := s.cmdIdx m
    let b := s.arg m 0
    let c := s.arg m 1
    let q := s.arg m 2
    let zeros := List.replicate (16 * 2 ^ bits c 4 0) (0 : Byte)
    s.mbReady { tenant 0xA01 4 with units := locUnits (bits b 1 1) ++ locUnits (bits q 1 1) } m (decide (r < 16)) →
    s.selFree m → 4 ≤ bits c 4 0 → bits c 4 0 ≤ 16 →
    s.ringArray n b (64 * 2 ^ bits c 4 0) = true → s.ringArray n q (16 * 2 ^ bits c 4 0) = true → bits c 11 8 = 1 →
    s.on (RING_BASE_EN n r) = false →
    (bit q 1 = false → a ≠ .error → exec (.ringSet m a) s =
      .next (((s.hbmWrite (bits q 63 12 * 4096) zeros).ringUp n r b c q).mbComplete m 0 0 [])) ∧
    (bit q 1 = true → s.cxlUp = true → a ≠ .error → exec (.ringSet m a) s =
      .next (((s.emit (.hostWrite (bits q 63 12 * 4096) zeros)).ringUp n r b c q).mbComplete m 0 0 []))) ∧
  (∀ (m : Mbx) (s : State),
    let n := s.selPart m
    let r := s.cmdIdx m
    s.mbReady (tenant 0xA02 1) m (decide (r < 16)) → s.selFree m → s.on (RING_BASE_EN n r) = true →
    s.get (RING_STATUS_OUTSTANDING n r) = 0 →
    exec (.ringClear m) s = .next ((((s.put (RING_BASE_EN n r) 0).setRing n r ring0).ringFull n r).mbComplete m 0 0 []))

/-- Host accesses to BAR0, and to the MSI-X table of BAR2 as log 112 (PRESUMED, the model's choice) lays it out, complete with
these effects (R5, R6, R8, R10, R92, R191, R386, R389, R403, R408, R512, R514): none but the boot image's is written in a halt; a write takes the RW bits, clears the RW1C bits written 1 and changes nothing else; a command area takes a write while its mailbox is free; a
read returns the register and clears one of access RC; a register of an absent unit reads 0 and ignores a write;
a bad access reads all ones; a producer or consumer index is taken
in its range, and otherwise sets its error bit; the host's image length is accepted while the ROM waits for it. -/
def Obligations.HostAccess : Prop :=
  (∀ (off : Nat) (v : Word) (s : State), s.on GLOBAL_BOOT_STATUS_HALTED = true → exec (.registerWrite off v) s = .next s) ∧
  (∀ (off : Nat) (v : Word) (s : State) (k : Key), s.hostOpen = true → s.on GLOBAL_BOOT_STATUS_HALTED = false →
    goodAccess off 8 = true → off < barSize → cxlComponent off = false →
    s.unitAbsent off = false → findReg off regAddr = some k →
    k.id ∉ [(MB_CTRL 0).id, (MB_CMD 0 0).id, (RING_PROD 0 0).id, (RING_CQ_CONS 0 0).id, (RING_STATUS 0 0).id,
      (XLAT_FQ_CONS 0).id] → k ≠ GLOBAL_BOOT_HOST_ADDR → k ≠ GLOBAL_BOOT_HOST_LEN →
    ∃ t : State, exec (.registerWrite off v) s = .next t ∧ OnlyRegs s t [k] ∧
      ∀ i < 64, (t.reg k).getLsbD i = if (regInfoOf k.id).wr.testBit i then v.getLsbD i
        else ((s.reg k).getLsbD i && !((regInfoOf k.id).w1c.testBit i && v.getLsbD i))) ∧
  (∀ (off : Nat) (v : Word) (s : State), findReg off regAddr = none → off < barSize → cxlComponent off = false →
    exec (.registerWrite off v) s = .next s) ∧
  (∀ (off : Nat) (v : Word) (s : State) (k : Key), s.hostOpen = true → s.on GLOBAL_BOOT_STATUS_HALTED = false →
    goodAccess off 8 = true → off < barSize → cxlComponent off = false →
    s.unitAbsent off = false → findReg off regAddr = some k → k.id = (MB_CMD 0 0).id →
    exec (.registerWrite off v) s = .next (if s.on (MB_STATUS_BUSY (k.idx / 224)) then s else s.setReg k v)) ∧
  (∀ (off : Nat) (s : State) (k : Key), s.hostOpen = true → goodAccess off 8 = true → off < barSize →
    cxlComponent off = false →
    s.unitAbsent off = false → findReg off regAddr = some k → k ≠ GLOBAL_THERMAL →
    exec (.rcRead off) s = .next ((s.readClear k).emit (.hostData (s.readBar off))) ∧
    (k.id = (POOL_LOW_MARK 0).id → (s.readClear k).reg k = s.reg (POOL_FREE k.idx)) ∧
    (k.id ∈ [TIME_SLIP_MAX.id, TRACK_LINE_WAIT_MAX.id, (RDX_COLL_SPREAD_MAX 0).id] → (s.readClear k).reg k = 0) ∧
    (k.id ∉ [(POOL_LOW_MARK 0).id, TIME_SLIP_MAX.id, TRACK_LINE_WAIT_MAX.id, (RDX_COLL_SPREAD_MAX 0).id] →
      s.readClear k = s)) ∧
  (∀ (off : Nat) (s : State), s.hostOpen = true → goodAccess off 8 = true → off < barSize →
    cxlComponent off = false → s.unitAbsent off = true →
    exec (.rcRead off) s = .next (s.emit (.hostData 0)) ∧ ∀ v : Word, exec (.registerWrite off v) s = .next s) ∧
  (∀ (off width : Nat) (s : State), s.hostOpen = true → goodAccess off width = false →
    exec (.bar0BadAccess off width false) s = .next (s.emit (.hostData (BitVec.allOnes 64))) ∧
    exec (.bar0BadAccess off width true) s = .next s) ∧
  (∀ (o : Nat) (v : Word) (s : State), s.hostOpen = true → s.on GLOBAL_BOOT_STATUS_HALTED = false → o % 8 = 0 → o < 0x4000 →
    exec (.rcRead (barSize + o)) s = .next (s.emit (.hostData (s.msixWord (o / 8)))) ∧
    ∃ t : State, exec (.registerWrite (barSize + o) v) s = .next t ∧
      t.msixWord (o / 8) = v &&& (if o / 8 % 2 = 1 then 0x1FFFFFFFF else 0xFFFFFFFFFFFFFFFC) ∧
      (∀ i, i ≠ o / 8 → t.msixWord i = s.msixWord i) ∧ t.regs = s.regs ∧ SameMem s t) ∧
  (∀ (n : Part) (v : Word) (s : State),
    exec (.fqConsWrite n v) s = .next (if (bits v 31 0 + 2 ^ 32 - s.get (XLAT_FQ_CONS_IDX n)) % 2 ^ 32 ≤ s.fqDepth n
      then (s.put (XLAT_FQ_CONS_IDX n) (bits v 31 0)).fqFull n else s.put (XLAT_FQ_STATUS_CONS_ERR n) 1)) ∧
  (∀ (n : Part) (r : RingId) (v : Word) (s : State),
    let ahead := fun x => (x + 2 ^ 32 - s.get (RING_CONS_IDX n r)) % 2 ^ 32
    exec (.ringProdWrite n r v) s = .next (
      if ahead (s.get (RING_PROD_IDX n r)) ≤ ahead (bits v 31 0) ∧ ahead (bits v 31 0) ≤ s.ringSize n r
      then (s.put (RING_PROD_IDX n r) (bits v 31 0)).ringFull n r else s.put (RING_STATUS_PROD_ERR n r) 1)) ∧
  (∀ (n : Part) (r : RingId) (v : Word) (s : State),
    exec (.ringCqConsWrite n r v) s = .next (
      if (bits v 31 0 + 2 ^ 32 - s.get (RING_CQ_CONS_IDX n r)) % 2 ^ 32 ≤ s.cqDepth n r
      then (s.put (RING_CQ_CONS_IDX n r) (bits v 31 0)).ringFull n r else s.put (RING_STATUS_CONS_ERR n r) 1)) ∧
  (∀ (v : Word) (s : State), s.on GLOBAL_BOOT_STATUS_WAIT_CXL = true →
    let t := s.put GLOBAL_BOOT_HOST_LEN_LEN (bits v 31 0)
    exec (.bootHostGo v) s = .next (if bit v 63 = true ∧ s.rs.transfer = false
      then ({ t with rs := { t.rs with transfer := true } }).emit (.hostRead (t.get GLOBAL_BOOT_HOST_ADDR_ADDR * 4096) (bits v 31 0))
      else t))

/-- The time base (R30, R33, R36, R37, R39, R40, R58, R423): an edge raises the beat number by one and opens a new beat; a
beat frame is taken and its sender's root recorded; lock, holdover, the claim to be root, and the pending grid come into
force as their rules say; a slip is counted. -/
def Obligations.TimeBase : Prop :=
  (∀ (d : Nat) (s : State), s.rs.por = false → s.rs.level ≠ 2 →
    ∃ e : State, e.reg TIME_BEAT_NOW = s.reg TIME_BEAT_NOW + 1 ∧ e.tm.clock = s.tm.clock + s.beatLen ∧ e.st.charged = 0 ∧
      e.st.admAt = none ∧ e.st.first = (s.st.first + 1) % 32 ∧ e.hbm = s.hbm ∧ e.tr = s.tr ∧ e.out = s.out ∧
      exec (.beatEdge d) s =
        .next (((e.sendBeatFrames.seeDescs.scanRings).govEdge s.beat d).arbView.calEdge.waitEdges)) ∧
  (∀ (p : Port) (a : BitVec 32) (s u : State) (f : Flit),
    s.takeRx p (fun x => match x with | .beat _ => true | _ => false) = some (.beat f, u) →
    ∃ t : State, exec (.beatFrame p a) s = .next t ∧ mget [] t.xb.rx p = mget [] u.xb.rx p ∧ t.pt p =
      { heardAt := s.edge, echoBeat := some (fw f 0).toNat, arrived := s.tm.clock + a.toNat,
        rootId := bits (fw f 3) 15 0, rootPrio := bits (fw f 3) 23 16, stratum := bits (fw f 3) 31 24,
        term := bits (fw f 5) 31 0, accel := s.isAttach p }) ∧
  (∀ s : State, s.locked = false → s.parent ≠ 127 → s.tm.lockStep = 2 → 64 ≤ s.tm.goodRun →
    ∃ t : State, exec .lockAcquired s = .next t.flushSeal ∧ t.locked = true ∧ t.get TIME_STATUS_ROLE = 1 ∧
      t.parent = s.parent ∧ SameRegs s t [TIME_STATUS] ∧ SameMem s t) ∧
  (∀ s : State, s.parent ≠ 127 → (s.pt s.parent).heardAt + 8 ≤ s.edge →
    ∃ t : State, exec .holdover s = .next t ∧ t.get TIME_STATUS_ROLE = 3 ∧ t.locked = false ∧ t.parent = 127 ∧
      t.get TIME_STATUS_ROOT_ID = 0xFFFF ∧ t.get TIME_STATUS_STRATUM = 0xFF ∧ t.tm.quiet = 16 ∧ t.tm.electing = false ∧
      SameRegs s t [TIME_STATUS] ∧ SameMem s t) ∧
  (∀ s : State, s.get TIME_STATUS_ROLE ≠ 2 → s.parent = 127 → s.tm.electing = true → s.adopt.parent = 127 →
    s.get TIME_CONFIG_ROOT_PRIO < 0xFF → s.selfId ≠ 0xFFFF →
    ∃ t : State, exec .election s = .next t.flushSeal ∧ t.get TIME_STATUS_ROLE = 2 ∧ t.locked = true ∧
      t.get TIME_STATUS_STRATUM = 0 ∧ t.get TIME_STATUS_ROOT_ID = s.selfId ∧ t.get TIME_OFFSET_OFFSET = 0 ∧
      t.tm.myTerm = (((s.tm.terms.map (·.2)).foldl max s.tm.myTerm) + 1) % 2 ^ 32) ∧
  (∀ s : State, s.get TIME_STATUS_ROLE = 2 → s.get TIME_CONFIG_ROOT_PRIO = 0xFF →
    exec .election s = .next (s.dropTime 0).adopt) ∧
  (∀ s : State, s.on TIME_PENDING_PEND_VALID = true → s.rd TIME_PENDING_AT ≤ s.beat →
    ∃ t : State, exec .gridChangeApply s = .next t ∧ t.get TIME_CONFIG_BEAT_LEN = s.get TIME_PENDING_PEND_BEAT_LEN ∧
      t.get TIME_CONFIG_SCHED_FRAC = s.get TIME_PENDING_PEND_SCHED_FRAC ∧
      t.get TIME_CONFIG_ROOT_PRIO = s.get TIME_CONFIG_ROOT_PRIO ∧ t.get TIME_PENDING_PEND_VALID = 0 ∧
      { t with regs := s.regs, tm := { t.tm with marks := s.tm.marks } } = s ∧ SameRegs s t [TIME_CONFIG, TIME_PENDING]) ∧
  (∀ (id : Nat) (s : State) (x : Step), s.step? id = some x → x.sched = true → x.edge < s.edge → x.slipAt < s.edge →
    ∃ t : State, exec (.beatSlip id) s = .next t ∧ t.get TIME_STATUS_SLIP = 1 ∧
      t.reg TIME_SLIP_COUNT = s.reg TIME_SLIP_COUNT + 1 ∧ t.st.steps = (s.setStep { x with slipAt := s.edge }).st.steps ∧
      SameRegs s t [TIME_STATUS, TIME_SLIP_COUNT] ∧ SameMem s t)

/-- Work rings (R47, R50, R137, R138, R140, R404, R405, R408): a fetch reserves a completion record and reads the next slot;
a read that comes back becomes a descriptor and moves the consumer index; a failed one ends the ring's fetches; a record
that waited is written with its phase; the head whose deferrals are spent ends with `TIMEOUT`; a fence and a held release
go on when what came before has ended. A record for a queue in host memory needs the CXL link. A FENCE.S, which has no
reply, leaves `seqst` OK (log 21, DEDUCED). -/
def Obligations.WorkRings : Prop :=
  (∀ (n : Part) (r : RingId) (s : State), s.mayFetch n r = true → s.cqRoom n r = true →
    let idx := (s.get (RING_CONS_IDX n r) + (s.ring n r).fetching.length) % 2 ^ 32
    let t := s.setRing n r { s.ring n r with fetching := (s.ring n r).fetching ++ [idx] }
    let t := t.put (RING_STATUS_OUTSTANDING n r) (s.get (RING_STATUS_OUTSTANDING n r) + 1)
    let a := s.get (RING_BASE_ADDR n r) * 4096 + 64 * (idx % s.ringSize n r)
    exec (.descriptorFetch n r) s = .next
      ((if s.on (RING_BASE_LOC n r) then t.emit (.hostRead a 64) else t).ringFull n r)) ∧
  (∀ (n : Part) (r : RingId) (bytes : List Byte) (s : State) (idx : Nat) (rest : List Nat),
    (s.ring n r).fetching = idx :: rest →
    let a := s.get (RING_BASE_ADDR n r) * 4096 + 64 * (idx % s.ringSize n r)
    let d : Desc := ⟨idx, bytesWords 8 (if s.on (RING_BASE_LOC n r) then bytes else s.hbmRead a 64), false, false, 0, none, false⟩
    let t := s.setRing n r { s.ring n r with fetching := rest, descs := (s.ring n r).descs ++ [d] }
    exec (.fetchComplete n r (.ok bytes)) s = .next ((t.put (RING_CONS_IDX n r) (idx + 1)).ringFull n r)) ∧
  (∀ (n : Part) (r : RingId) (s : State), (s.ring n r).fetching ≠ [] →
    let t := (s.setRing n r { s.ring n r with fetching := [] }).put (RING_STATUS_FETCH_ERR n r) 1
    exec (.fetchComplete n r .error) s = .next ((t.put (RING_STATUS_OUTSTANDING n r)
      (t.get (RING_STATUS_OUTSTANDING n r) - (s.ring n r).fetching.length)).ringFull n r)) ∧
  (∀ (n : Part) (r : RingId) (s : State) (c : CqRec) (rest : List CqRec), (s.ring n r).retry = c :: rest →
    s.on (RING_CQ_BASE_LOC n r) = false →
    let prod := s.get (RING_CQ_PROD_IDX n r)
    let a := s.get (RING_CQ_BASE_ADDR n r) * 4096 + 16 * (prod % s.ringSize n r)
    let w0 := setBits c.w0 16 16 (b2n (prod / s.ringSize n r % 2 == 0))
    exec (.cqRecordRetry n r false) s = .next (s.put (RING_STATUS_CQ_ERR n r) 1) ∧
    ∃ t : State, exec (.cqRecordRetry n r true) s = .next t ∧ t.hbm = writeBytes s.hbm a (wordsBytes [w0, c.w1]) ∧
      t.get (RING_CQ_PROD_IDX n r) = (prod + 1) % 2 ^ 32 ∧ (t.ring n r).retry = rest ∧
      t.out = (if c.irq then s.sendMsix (s.get (RING_CFG_VEC n r)) else s).out) ∧
  (∀ (n : Part) (r : RingId) (ok : Bool) (s : State) (c : CqRec) (rest : List CqRec), (s.ring n r).retry = c :: rest →
    s.on (RING_CQ_BASE_LOC n r) = true →
    let prod := s.get (RING_CQ_PROD_IDX n r)
    let a := s.get (RING_CQ_BASE_ADDR n r) * 4096 + 16 * (prod % s.ringSize n r)
    let w0 := setBits c.w0 16 16 (b2n (prod / s.ringSize n r % 2 == 0))
    let sent := s.emit (.hostWrite a (wordsBytes [w0, c.w1]))
    ((ok && s.cxlUp) = false → exec (.cqRecordRetry n r ok) s = .next (s.put (RING_STATUS_CQ_ERR n r) 1)) ∧
    ((ok && s.cxlUp) = true → ∃ t : State, exec (.cqRecordRetry n r ok) s = .next t ∧
      t.get (RING_CQ_PROD_IDX n r) = (prod + 1) % 2 ^ 32 ∧ (t.ring n r).retry = rest ∧ t.hbm = s.hbm ∧
      t.out = (if c.irq then sent.sendMsix (s.get (RING_CFG_VEC n r)) else sent).out)) ∧
  (∀ (now : Nat) (s : State), s.admissionOpen now = true →
    let t := { s with st := { s.st with admAt := some s.admitFrom } }
    exec (.admissionPass now) s = .next (passes now ((t.st.rings.map (fun e => e.2.descs.length)).sum + 1) t)) ∧
  (∀ (n : Part) (r : RingId) (s : State) (d : Desc) (rest : List Desc), (s.ring n r).descs = d :: rest →
    d.spent = true →
    exec (.deferLimitTimeout n r) s = .next ((s.takeHead n r).complete n r d.idx d.words 9 0 0)) ∧
  (∀ (c : Core) (t : Thread) (s : State) (scope : Nat), (s.thread c t).wait = .fence scope →
    mget [] s.tr.held (engThread c t) = [] → s.drained c t scope = true →
    exec (.fenceComplete (.thread c t)) s = .next (s.setThread c t { s.thread c t with wait := .none, seqst := 0 })) ∧
  (∀ (n : Part) (r : RingId) (s : State) (d : Desc) (rest : List Desc), (s.ring n r).descs = d :: rest →
    dFence (wd d.words 0) = true → (s.ring n r).open_ = [] → (s.ring n r).retry = [] →
    exec (.fenceComplete (.ring n r)) s = .next (s.setRing n r { s.ring n r with
      descs := { d with words := setBits (wd d.words 0) 12 12 0 :: d.words.drop 1 } :: rest })) ∧
  (∀ (c : Core) (t : Thread) (s : State), exec (.releaseSend (.thread c t)) s =
    .next (releaseHeld c t (mget [] s.tr.held (engThread c t)).length s))

/-- Steps of moves and collectives (R59, R60, R112, R237, R238, R243, R244, R410): a free mover opens both sides of the first
tile of its queue; a move and a collective step end, each with the first failure or `OK`, when nothing of it is out; a
member waiting at a barrier sends its generation as a contribution; a barrier that timed out ends the steps gated on
it; a release is recorded and admission runs from its arrival. By the model's reading the arrival takes no tracker entry
and has a free `TAG` (log 15, DEDUCED), and it stays outstanding after its barrier timed out (log 113, DESIGN CHOICE). -/
def Obligations.MovesAndCollectives : Prop :=
  (∀ (v : Fin 64) (s : State) (m : Move) (rest : List Move), (∀ e ∈ s.tr.moves, e.2.mover ≠ v) →
    takeFirst (fun (x : Move) => x.mover == v.val && x.ofStep) s.tr.queued =
      some (m, rest) → s.trackRoom m.part = false →
    exec (.tileMoveStart v) s = .next (s.bump TRACK_STALL_COUNT)) ∧
  (∀ (v : Fin 64) (s : State) (m : Move) (rest : List Move), (∀ e ∈ s.tr.moves, e.2.mover ≠ v) →
    takeFirst (fun (x : Move) => x.mover == v.val && x.ofStep) s.tr.queued =
      some (m, rest) → s.trackRoom m.part = true →
    faEp m.src ≠ 0 → faEp m.src ≠ 0xFFFF → faEp m.dst ≠ 0 → faEp m.dst ≠ 0xFFFF →
    let ask := fun (m : Move) (a : Word) (side : Nat) => movePkt s m 8 (faEp a) a (mkWord [(20, 0, m.len), (21, 21, side)]) false []
    let e := ({ s with tr := { s.tr with queued := rest, nextMove := s.tr.nextMove + 1 } } : State).openEntry (ask m m.dst 1)
      (.tile s.tr.nextMove) (faEp m.src)
    let m' : Move := { m with tag := e.1.1, gen := e.1.2 }
    exec (.tileMoveStart v) s =
      .next (((e.2.setMove s.tr.nextMove m').send 96 (ask m' m.src 0)).send 96 (ask m' m.dst 1))) ∧
  (∀ (id now : Nat) (s : State) (x : Step), s.step? id = some x → dType (wd x.words 0) = 1 → x.phase = 1 →
    x.outstanding = 0 →
    exec (.tileMoveEnd id now) s = .next (s.endStep x now x.failStatus x.bytes)) ∧
  (∀ (id now : Nat) (s : State) (x : Step), s.step? id = some x → dType (wd x.words 0) = 2 → x.phase = 1 →
    s.collDown x = false → x.fail = none → bit (wd x.words 5) 18 = false → x.todo = 0 → x.outstanding = 0 →
    exec (.collStepEnd id now) s = .next ((s.closeWhole x).endStep x now 0 0)) ∧
  (∀ (id now : Nat) (s : State) (x : Step), s.step? id = some x → dType (wd x.words 0) = 2 → x.phase = 1 →
    s.collDown x = true → exec (.collStepEnd id now) s = .next ((s.closeWhole x).endStep x now 4 0)) ∧
  (∀ (g : Row) (now : Nat) (s : State), s.get (RDX_COLL_A_STATE g) = 1 → s.on (RDX_COLL_A_BARRIER g) = true →
    s.cost cSCAN ≤ now → s.gatedRings g ≠ [] → (∀ e ∈ s.ra.bar, e.1 ≠ g) → (∀ x ∈ s.st.steps, dType (wd x.words 0) ≠ 2) →
    let gen := s.get (RDX_COLL_C_BAR_GEN g)
    ∃ (t : State) (tag own : Nat), exec (.barrierArrival g now) s = .next (t.send 97 (ReqForm.pkt
        { opcode := 5, part := s.get (RDX_COLL_A_PARTITION g), tc := 1, src := s.selfId, dst := s.get (RDX_COLL_B_ROOT_EP g),
          addr := 0, tag := tag, gen := own,
          w3 := redWord (s.get (RDX_COLL_A_GROUP_ID g)) 2 8 0 (s.get (RDX_COLL_A_OWN_RANK g)) gen, payload := leBytes 8 gen })) ∧
      t.get (RDX_COLL_C_BAR_GEN g) = (gen + 1) % 2 ^ 30 ∧ SameRegs s t [RDX_COLL_C g] ∧ SameMem s t) ∧
  (∀ (g : Row) (s : State) (w : BarWait), s.ra.bar.find? (fun e => e.1 == g.val) = some (g.val, w) →
    w.edge + s.rd TIME_BARRIER_LIMIT ≤ s.edge →
    exec (.barrierTimeout g) s = .next ((s.gatedRings g).foldl (fun t r =>
      match t.headDesc (s.get (RDX_COLL_A_PARTITION g)) r with
      | some d => t.endHead (s.get (RDX_COLL_A_PARTITION g)) r d 9 0 0
      | none => t) s)) ∧
  (∀ (g : Row) (now : Nat) (s : State), (∃ e ∈ s.ra.relIn, e.1 = g) →
    exec (.barrierRelease g now) s = .next ((s.takeRelease g now).runAdmission now))

/-- Slice loads (R263, R264, R308, R316): a load that no admitted job waits on starts, after the switch of a move that has closed
an extent of its rows, reads its rows directly where every one of them lies on this module's `HBM` and `TUN` pages and in order
by requests elsewhere, shows its entry loading, and holds its translations until its end (log 155, the model's choice for R85);
a load whose translation fails ends with that status, and one that R264 refuses completes with `ACCESS_DENIED` and its entry as it
was; at its end the slice stands in the store in the Tun layout and its entry is valid; a failed read ends it with its
status, its entry back as it was or empty; and a parity error empties the entry and counts. -/
def Obligations.SliceLoads : Prop :=
  (∀ (s : State) (l : SliceLoad) (rest : List SliceLoad), s.tu.loads = l :: rest → l.started = false →
    (∀ x ∈ s.tu.jobs.filterMap s.step?, dType (wd x.words 0) = 3 → tjSlice x.words ≠ tjSlice l.words) →
    let a := s.reg (TUN_SLICE_A (tjSlice l.words))
    let b := s.reg (TUN_SLICE_B (tjSlice l.words))
    let src := tunSources l.words (tjN l.words)
    let tr := s.runsTrans l.part (wd l.words 1).toNat src
    (s.closedIn tr.pieces ≠ [] → exec .sliceLoadStart s = .next s) ∧
    (∀ f, s.closedIn tr.pieces = [] → decided tr.fails tr.needs = some f →
      let r := s.jobFault l.part (wd l.words 1) ((tjN l.words - 1) * wb l.words 7 31 0 + rowSpan (tjIn l.words) (tjK l.words)) f
      exec .sliceLoadStart s = .next (r.2.endLoad l a b r.1)) ∧
    (s.closedIn tr.pieces = [] → decided tr.fails tr.needs = none → s.loadDenied l = true →
      exec .sliceLoadStart s = .next (s.endLoad l a b stACCESS_DENIED)) ∧
    (s.closedIn tr.pieces = [] → decided tr.fails tr.needs = none → s.loadDenied l = false →
      let t := (((s.setReg (TUN_SLICE_A (tjSlice l.words)) (sliceA 1 l.part l.words)).setReg (TUN_SLICE_B (tjSlice l.words))
        (sliceB l.words (s.loadBase l / 262144))).put TUN_STATUS_LOADING 1)
      let cs := rowChunks (tjIn l.words) (tjK l.words)
      let all := (src.mapIdx (fun r x => cs.map (fun c =>
        (r * cs.length + c.1, x.1 + 256 * c.1, chunkBytes (tjIn l.words) c.2)))).flatten
      let got := all.map (fun c => (c.1, (t.jobBytes l.part (BitVec.ofNat 64 c.2.1) c.2.2).getD []))
      let own := src.all (fun r => s.ownAddr (BitVec.ofNat 64 r.1)) && (foreignAt tr).isNone
      let go : SliceLoad := { l with started := true, oldA := a, oldB := b, uses := tr.pieces.flatMap (·.uses) }
      exec .sliceLoadStart s = .next (if own then t.setLoad { go with got := got } else t.loadNext { go with todo := all }))) ∧
  (∀ (a : Option WordFault) (s : State) (l : SliceLoad), s.loadNow = some l →
    (∀ st, l.fail = some (st, true) → exec (.sliceLoadEnd a) s = .next ((s.tunParity st).endLoad l l.oldA l.oldB st)) ∧
    (∀ st, l.fail = some (st, false) → exec (.sliceLoadEnd a) s = .next ((s.tunParity st).endLoad l 0 0 st)) ∧
    (l.fail = none → a ≠ none → exec (.sliceLoadEnd a) s =
      .next ((((s.wordFault a).flag TUN_STATUS_PARITY).bump TUN_PARITY_COUNT).endLoad l 0 0 stPARITY)) ∧
    (l.fail = none → a = none → l.waiting = 0 → l.todo = [] → exec (.sliceLoadEnd a) s = .next ((s.writeSlice l).endLoad l
      (sliceA 2 l.part l.words) (sliceB l.words ((s.writeSlice l).loadBase l / 262144)) 0)))

/-- Array jobs (R266, R268, R271 to R276): a `PROJECT` job at the head of the Tun starts and waits for its chunks, another job
reads its activation rows or takes its first failure, of a row of another endpoint too; a chunk of the group of a running
`PROJECT` job leaves the stage and waits for its siblings; a staged chunk that waited too long is dropped; a late job fails;
the rows leave as stores, multicast stores or contributions, each row accumulated as R268 says; and a job ends with the status
of its first event. By the model's choice each `TUN_JOB_OUTPUT` sends the next contribution (log 144, DESIGN CHOICE), with the
operator that the group's row holds here (log 159, DEDUCED), and a job that fails before its output was busy for a free number
of cycles (logs 58 and 128). -/
def Obligations.ArrayJobs : Prop :=
  (∀ (s : State) (x : Step), s.tunHead = some x → dType (wd x.words 0) = 3 → x.phase = 0 → x.fail = none →
    let a0 := (wd x.words 1).toNat
    let src := tunSources x.words (tjRows x.words)
    let tr := s.runsTrans x.part a0 src
    let alien : List PageFail := (src.filter (fun r => !s.ownAddr (BitVec.ofNat 64 r.1))).map (fun r => ⟨r.1 - a0, stACCESS_DENIED, none⟩)
    let fail := runsFail { tr with fails := tr.fails ++ alien }
    (tjKind x.words = 2 → exec .tunJobStart s = .next ((s.setStep { x with phase := 1 }).put TUN_STATUS_STATE 2)) ∧
    (tjKind x.words ≠ 2 → fail = none →
      let acts := src.map (fun r => s.readRow x.part (tjIn x.words) (tjK x.words) r.1)
      exec .tunJobStart s =
        .next ((({ s with tu := { s.tu with acts := acts, uses := tr.pieces.flatMap (fun (c : Piece) => c.uses) } }).setStep
          { x with phase := 1 }).put TUN_STATUS_STATE 1)) ∧
    (∀ f, tjKind x.words ≠ 2 → fail = some f →
      let r := s.jobFault x.part (wd x.words 1) ((tjRows x.words - 1) * wb x.words 7 31 0 + rowSpan (tjIn x.words) (tjK x.words)) f
      exec .tunJobStart s = .next (r.2.setStep ({ x with phase := 1 }.failFirst r.1)))) ∧
  (∀ (chunk : Nat) (s : State) (x : Step) (c : Staged) (rest : List Staged), s.tunHead = some x →
    dType (wd x.words 0) = 3 → tjKind x.words = 2 → x.phase = 1 → x.fail = none →
    projectPos x.words chunk < projectCount x.words → (∀ c ∈ s.tu.taken, c.1 ≠ projectPos x.words chunk) →
    takeFirst (fun (c : Staged) => c.grp == wb x.words 3 40 29 && c.part == x.part && c.num == chunk) s.tu.staged = some (c, rest) →
    let i := projectPos x.words chunk
    let full := chunkBytes (tjIn x.words) (min (chunkElems (tjIn x.words)) (tjK x.words - i * chunkElems (tjIn x.words)))
    let t := (s.setStaged rest).rdxCounts c.row
    let t' : State := { t with tu := { t.tu with taken := t.tu.taken ++ [(i, c.payload)] } }
    exec (.projectChunkTake chunk) s = .next (
      if c.payload.length ≠ full then t.setStep (x.failFirst stACCESS_DENIED)
      else if t'.tu.taken.length = projectCount x.words then t'.put TUN_STATUS_STATE 1 else t')) ∧
  (∀ (g : Row) (chunk : Nat) (s : State) (c : Staged) (rest : List Staged),
    takeFirst (fun (c : Staged) => c.row == g.val && c.num == chunk) s.tu.staged = some (c, rest) →
    c.edge + s.get RDX_CONFIG_CHUNK_LIMIT ≤ s.edge →
    exec (.stagedChunkExpire g chunk) s = .next (((s.setStaged rest).rdxCounts g.val).stageDrop)) ∧
  (∀ s : State, ∃ t : State, exec .projectTimeout s = .next t ∧ SameRegs s t [] ∧ SameMem s t ∧
    ∀ id, t.step? id = (s.step? id).map (fun x =>
      if id ∈ s.tu.jobs ∧ dType (wd x.words 0) = 3 ∧ tjKind x.words = 2 ∧ x.phase < 2 ∧
        x.edge + s.get RDX_CONFIG_CHUNK_LIMIT ≤ s.edge ∧ s.projectStaged x = false
      then x.failFirst stTIMEOUT else x)) ∧
  (∀ (s : State) (x : Step), s.tunHead = some x → dType (wd x.words 0) = 3 → x.fail = none →
    let busy := fun (u : State) => s.countBusy u x.id (tunCycles x.words)
    let dst := (wd x.words 2).toNat
    let rows := if tjKind x.words = 2
      then [(List.range (projectCount x.words)).map (fun i => ((s.tu.taken.find? (fun c => c.1 == i)).map (·.2)).getD [])]
      else s.tu.acts
    let outs := rows.map (fun r => outChunks (tjOut x.words) (s.tunRow x.words r))
    let grp := wb x.words 3 52 41
    (tjKind x.words ≠ 2 → x.phase = 1 →
      exec .tunJobOutput s = .next (busy (s.emitPkts x.id 96 (outs.mapIdx (fun r cs => cs.mapIdx (fun i b =>
        let a := BitVec.ofNat 64 (dst + r * wb x.words 7 63 32 + 256 * i)
        jobForm s x (wd x.words 5) 2 (faEp a) a 0 b))).flatten))) ∧
    (tjKind x.words = 2 → s.projectDown x = false → s.tu.taken.length = projectCount x.words → tjOutKind x.words = 0 →
      x.phase = 1 → exec .tunJobOutput s = .next (busy (s.emitPkts x.id 97 (outs.flatten.mapIdx (fun i b =>
        jobForm s x (wd x.words 5) 4 (s.mcRootOf x.part grp) (faMake 0 (dst % 2 ^ 48 + 256 * i)) (BitVec.ofNat 64 grp) b))))) ∧
    (tjKind x.words = 2 → s.projectDown x = false → s.tu.taken.length = projectCount x.words → tjOutKind x.words = 1 →
      (x.phase = 1 ∨ x.phase = 2 ∧ 0 < x.todo) →
      let g := (s.tunOutRow x.part x.words).getD 0
      let root := s.get (RDX_COLL_B_ROOT_EP g)
      exec .tunJobOutput s = .next (busy (s.emitContribs x.id root (outs.flatten.mapIdx (fun i b =>
        jobForm s x (wd x.words 5) 5 root (faMake 0 (dst % 2 ^ 48)) (redWord grp (s.get (RDX_GROUP_A_RED_OP g)) (tjOut x.words)
          (s.get (RDX_GROUP_A_MODE g)) (wb x.words 5 49 37) ((wb x.words 7 35 6 + i) % 2 ^ 30)) b)))))) ∧
  (∀ (now : Nat) (parity : Option WordFault) (s : State) (x : Step) (rest : List Nat) (st : Nat), s.tu.jobs = x.id :: rest →
    s.step? x.id = some x → dType (wd x.words 0) = 3 → s.tunEnds x parity.isSome = some st →
    let a := if x.fail = none ∧ st = stPARITY then s.wordFault parity else s
    let b := if x.phase = 1 ∧ ¬ (s.tu.acts = [] ∧ s.tu.taken = []) then a.partBusy (tunCycles x.words) else a
    let t := (b.closeWhole x).tunClear x
    let u := if x.phase = 0 then t else t.put TUN_STATUS_STATE 0
    let v := if st = stPARITY then (u.flag TUN_STATUS_PARITY).bump TUN_PARITY_COUNT else u
    exec (.tunJobEnd now parity) s = .next ((v.bump TUN_JOB_COUNT).tunNext.endStep x now st 0))

/-- Attention jobs (R286, R287, R291, R292, R297, R298): the job at the head of the Tun resolves the pages of its list in
order and reads its queries, waits for the Translation Requests of a host page (R77) or for the switch of a page's extent, or
keeps the cause and status of its first failure; its merged rows leave as stores or as contributions; and it ends with its
status, its cause and its count. By the model's choice each `ATTN_OUTPUT` sends the next contribution (log 144, DESIGN
CHOICE), the Tun's cycles count when the output leaves (log 58, DEDUCED), a job that fails before was busy for a free number
of them (log 128), and the bytes of `TUN_ATTN_HBM_BYTES` are those of `HBM` pages, a failed job's page list among them (log
141, DEDUCED). -/
def Obligations.AttentionJobs : Prop :=
  (∀ (s : State) (x : Step) (w : AtsWait) (rest : List AtsWait), s.tunHead = some x →
    takeFirst (fun (w : AtsWait) => w.who == .job x.id) s.xl.waits = some (w, rest) → w.needs ≠ [] → decided w.fails w.needs = none →
    exec .attnJobStart s = .next s) ∧
  (∀ (r : State) (x : Step), r.tunHead = some x → dType (wd x.words 0) = 4 → x.phase = 0 → x.fail = none →
    (takeFirst (fun (w : AtsWait) => w.who == .job x.id) r.xl.waits).all
      (fun m => m.1.needs.isEmpty || (decided m.1.fails m.1.needs).isSome) = true →
    let mine := takeFirst (fun (w : AtsWait) => w.who == .job x.id) r.xl.waits
    let host := mine.map (fun m => m.1.fails)
    let s : State := match mine with | some m => { r with xl := { r.xl with waits := m.2 } } | none => r
    let qLen := (aRows x.words - 1) * (256 * aCq x.words) + rowSpan (aFmt x.words) (aD x.words)
    let tp := (s.attnRun x.part (wd x.words 2) (8 * aPages x.words)).1
    let tq := (s.attnRun x.part (wd x.words 1) qLen).1
    let hold : List Piece := tp.pieces ++ tq.pieces
    let list := hbmPart tp.pieces
    let f0 : AttnFind :=
      { uses := hold.flatMap (·.uses),
        banks := list ++ (queryChunks x.words).flatMap (fun c => hbmPart (s.ownTrans x.part c.1 c.2).pieces) }
    let found := ((bytesWords (aPages x.words) (tp.pieces.flatMap s.pieceBytes)).mapIdx (fun i e => (i, e))).foldl
      (fun a e => a.2.resolvePage x.part x.words (x.todo == 1) host a.1 e.1 e.2) (f0, s)
    (s.attnRun x.part (wd x.words 2) (8 * aPages x.words)).2 = none → (s.attnRun x.part (wd x.words 1) qLen).2 = none →
    (∀ t, found.1.ask = some t → exec .attnJobStart r = .next (s.atsWait (.job x.id) t false)) ∧
    (found.1.ask = none → found.1.wait = true → exec .attnJobStart r = .next (s.setStep { x with todo := 1 })) ∧
    (∀ c st, found.1.ask = none → found.1.wait = false → found.1.fail = some (c, st) → exec .attnJobStart r =
      .next ((found.2.setStep { x with phase := 1, fail := some (c, st) }).bumpBy TUN_ATTN_HBM_BYTES (list.map (·.2)).sum)) ∧
    (found.1.ask = none → found.1.wait = false → found.1.fail = none →
      let q := (List.range (aRows x.words)).map (fun r =>
        (found.2.readRow x.part (aFmt x.words) (aD x.words) ((wd x.words 1).toNat + 256 * aCq x.words * r)).flatten)
      let miss := ∃ k < 4, cdiv (attnBytes x.words) (attnSpread x.words) <
        ((found.1.banks.filter (fun (b : Nat × Nat) => b.1 == k)).map (·.2)).sum
      let count := fun (u : State) => u.bumpBy TUN_ATTN_HBM_BYTES (found.1.banks.map (·.2)).sum
      let start := fun (u : State) =>
        ((({ u with tu := { u.tu with attn := [⟨x.id, found.1.pages, q, found.1.uses⟩] } } : State).setStep
          { x with phase := 1, todo := 0 }).put TUN_ATTN_STATUS_STATE 2)
      (¬ miss → exec .attnJobStart r = .next (start (count found.2))) ∧
      (miss → exec .attnJobStart r =
        .next (start (count ((found.2.flag TUN_ATTN_STATUS_SPREAD_MISS).bump TUN_ATTN_SPREAD_MISS_COUNT)))))) ∧
  (∀ (s : State) (x : Step) (w : AttnWork) (rest : List AttnWork), s.tunHead = some x → s.tu.attn = w :: rest →
    dType (wd x.words 0) = 4 → x.fail = none → s.attnDown x = false →
    let outs := (List.range (aRows x.words)).flatMap (fun r => rowOutput x.words (rowTriple x.words w r))
    let dst := (wd x.words 3).toNat
    let out := fun (t : State) =>
      let t := s.countBusy t x.id (attnCycles x.words)
      if (t.step? x.id).any (fun y => y.phase == 2) then t.put TUN_ATTN_STATUS_STATE 3 else t
    (aOutKind x.words = 0 → x.phase = 1 → exec .attnOutput s = .next (out (s.emitPkts x.id 96 (outs.mapIdx (fun u b =>
      let a := BitVec.ofNat 64 (dst + 256 * u)
      jobForm s x (wd x.words 6) 2 (faEp a) a 0 b))))) ∧
    (∀ g, aOutKind x.words = 1 → (x.phase = 1 ∨ x.phase = 2 ∧ 0 < x.todo) →
      s.collRow x.part (wb x.words 6 48 37) = some g →
      let root := s.get (RDX_COLL_B_ROOT_EP g)
      exec .attnOutput s = .next (out (s.emitContribs x.id root (outs.mapIdx (fun u b =>
        jobForm s x (wd x.words 6) 5 root (faMake 0 (dst % 2 ^ 48 + 256 * u))
          (redWord (wb x.words 6 48 37) 7 (aOut x.words) 1 (wb x.words 4 63 51) ((wb x.words 5 61 32 + u) % 2 ^ 30)) b)))))) ∧
  (∀ (now : Nat) (parity : Option (WordFault × Fin 1024)) (s : State) (x : Step) (rest : List Nat) (st c : Nat),
    s.tu.jobs = x.id :: rest → s.step? x.id = some x → dType (wd x.words 0) = 4 →
    s.attnEnds x (parity.map (·.2.val)) = some (st, c) →
    let a := if x.fail = none ∧ st = stPARITY then s.wordFault (parity.map (·.1)) else s
    let b := if x.phase = 1 ∧ s.tu.attn ≠ [] then a.partBusy (attnCycles x.words) else a
    let t := (b.closeWhole x).tunClear x
    let u := t.put TUN_ATTN_STATUS_STATE 0
    let v := if st = 0 then u else u.setReg TUN_ATTN_FAIL_INFO (mkWord [(28, 24, x.part), (23, 16, c % 256), (9, 0, c / 256)])
    let w := if st = stPARITY then (v.flag TUN_ATTN_STATUS_PARITY).bump TUN_ATTN_PARITY_COUNT else v
    exec (.attnJobEnd now parity) s =
      .next ((w.bump TUN_ATTN_JOB_COUNT).tunNext.endStepSc x now st (if st = stSTATE_CONFLICT then scKV_NOT_RESIDENT else 0) 0))

/-- Moves of extents (R314 to R317, R321): the next extent of a `TIER_MOVE` gets a frame and a move, or fails its
descriptor; a pass of the copy writes its blocks at the destination, all of them at one event (log 19, the model's choice), and begins
the next pass, the last of them with the extent closed; a failed copy ends the move; a copy without a buffer asks again; the
switch copies what was written since, fails where the extent or the lender of its new frame is lost (R322), and points the entry
at its new frame, keeps its `PIN` as the descriptor says and frees the old one; and a descriptor with nothing left ends with its first failure or `OK`. -/
def Obligations.ExtentMoves : Prop :=
  (∀ (n : Part) (e : Nat) (s : State) (x : Step), s.tierStep n.val e = some x →
    (s.extentAt n.val e = none → exec (.extentMoveStart n e) s = .next (s.tierFail x stACCESS_DENIED)) ∧
    (∀ k, s.extentAt n.val e = some k →
      (s.extState k = 0 → exec (.extentMoveStart n e) s = .next (s.tierFail x stACCESS_DENIED)) ∧
      (s.extState k = 5 → exec (.extentMoveStart n e) s = .next (s.tierFail x stTARGET_LOST)) ∧
      (s.extState k ≠ 0 → s.extState k ≠ 5 → s.extMoving k = false →
        tmDest x.words = 3 ∨ s.extState k = tmDest x.words + 2 → exec (.extentMoveStart n e) s =
          .next (((s.applyPin k (tmPin x.words)).setStep { x with todo := x.todo - 1 }).tierDone x)) ∧
      (∀ (fr : Nat) (sh : Bool) (u : State), s.extState k ≠ 0 → s.extState k ≠ 5 → s.extMoving k = false →
        tmDest x.words ≠ 3 → s.extState k ≠ tmDest x.words + 2 → s.engineMoves < 8 → s.awaitsFrame k = false →
        s.obtain n.val (tmDest x.words) k (wb x.words 1 36 34) (tmLend x.words) = (some (fr, sh), u) →
        exec (.extentMoveStart n e) s = .next ((u.setStep { x with todo := x.todo - 1, outstanding := x.outstanding + 1 }).startMove
          k (tmDest x.words) fr sh (tmPin x.words) (some x.id) none none)))) ∧
  (∀ (n : Part) (e : Nat) (a : CopyEnd) (s : State) (k : Nat) (m : ExtMove), s.extentAt n.val e = some k →
    s.moveOf k = some m → m.buf ≠ none → m.pass < 5 → (m.pass = 4 → s.extQuiet m.entry = true) →
    (∀ st, s.copyBars m = some st → exec (.extentCopyDone n e a) s = .next (s.moveFails m st)) ∧
    (∀ st u, s.copyBars m = none → s.copyFailed m a = some (st, u) → exec (.extentCopyDone n e a) s = .next (u.moveFails m st)) ∧
    (∀ data, s.copyBars m = none → a = .ok data →
      (m.pass = 4 → exec (.extentCopyDone n e a) s =
        .next (((s.copyBlocks m m.dirty data).freeCopy m).setExtMove { m with dirty := [], pass := 5, buf := none })) ∧
      (m.pass < 4 →
        let c := ((s.copyBlocks m m.copying data).freeCopy m).copyBuf m.entry
        exec (.extentCopyDone n e a) s = .next (if 64 < m.dirty.length ∧ m.pass < 3
          then c.2.setExtMove { m with copying := m.dirty, dirty := [], pass := m.pass + 1, buf := c.1 }
          else c.2.setExtMove { m with copying := [], pass := 4, buf := c.1 })))) ∧
  (∀ (n : Part) (e : Nat) (s : State) (k : Nat) (m : ExtMove), s.extentAt n.val e = some k →
    s.moveOf k = some m → m.buf = none → m.pass < 5 →
    exec (.extentTileRetry n e) s = .next ((s.copyBuf m.entry).2.setExtMove { m with buf := (s.copyBuf m.entry).1 })) ∧
  (∀ (n : Part) (e : Nat) (s : State) (k : Nat) (m : ExtMove), s.extentAt n.val e = some k → s.moveOf k = some m →
    (m.pass = 5 → m.dirty ≠ [] → exec (.extentSwitch n e) s =
      .next ((s.copyBuf m.entry).2.setExtMove { m with pass := 4, buf := (s.copyBuf m.entry).1 })) ∧
    (s.switchDue m = true → s.extState m.entry = 5 ∨ s.destLost m = true → exec (.extentSwitch n e) s = .next (s.moveFails m stTARGET_LOST)) ∧
    (s.switchDue m = true → s.extState m.entry ≠ 5 → s.destLost m = false →
      let c := s.closeMove m
      let w := setBits (setBits (c.ext0 m.entry) 2 0 (m.dest + 2)) 4 4 (b2n m.shared)
      let t := (c.setExt m.entry w (BitVec.ofNat 64 m.frame)).applyPin m.entry m.pinOp
      let u := if 2 ≤ s.extState m.entry ∧ s.extShared m.entry = false then t.promote m.part (s.extState m.entry - 2) else t
      let v := u.tierCounts.bump MEM_MOVE_COUNT
      (m.step = none → exec (.extentSwitch n e) s =
        .next ((v.vacated m (s.extState m.entry - 2) (s.extLoc m.entry)).settleReturns)) ∧
      (∀ id y, m.step = some id → v.step? id = some y → exec (.extentSwitch n e) s =
        .next ((v.setStep { y with outstanding := y.outstanding - 1 }).tierDone y)))) ∧
  (∀ (id : Nat) (s : State) (x : Step), s.step? id = some x → dType (wd x.words 0) = 5 → x.phase = 1 → x.todo = 0 →
    x.outstanding = 0 → exec (.tierMoveEnd id) s = .next (s.endStep x 0 x.failStatus 0))

/-- Requests and tiles at their owner (R103, R105, R112, R114, R115): a load, a store and an atomic that pass their checks
become an operation of the home; a tile that translates is granted; a tile packet that fits its grant becomes an operation,
but the block's own mover reads HBM4E and the Tun store at once (R152), and one on a released handle is counted; a close releases the grant, or waits for its bytes; a close that waited, and
an idle grant, end with their `TILE_DONE`. -/
def Obligations.RequestsAtTheOwner : Prop :=
  (∀ (s u v : State) (p : Pkt) (c : Piece) (cs : List Piece), u.translates p (c :: cs) v →
    (s.takes 1 p u → exec .load s = .next (v.startOp .request p c)) ∧
    (s.takes 2 p u → exec .store s = .next (v.startOp .request p c)) ∧
    (s.takes 3 p u → exec .atomic s = .next (v.startOp .request p c))) ∧
  (∀ (s u v : State) (p : Pkt) (cs : List Piece), (∀ i ∈ s.xb.epIn.head?, s.extClosed i.pkt = false) → s.takes 8 p u →
    u.translates p cs v → exec .tileOpen s = .next (v.openGrant p cs)) ∧
  (∀ (s : State) (i : EpItem) (rest : List EpItem), s.xb.epIn = i :: rest → Pkt.opcode i.pkt = 8 → s.extClosed i.pkt = true →
    exec .tileOpen s = .next { s with xb := { s.xb with epIn := rest ++ [i] } }) ∧
  (∀ (s u : State) (p : Pkt) (op h : Nat) (g : Grant) (c : Piece), op = 9 ∨ op = 10 → s.frontHandle = h → s.takes op p u →
    u.fenced (Pkt.src p) = false → u.tr.grants.find? (fun e => e.1 == h) = some (h, g) →
    g.src = Pkt.src p → g.part = Pkt.part p → g.side = (if op = 10 then 1 else 0) → g.addr.toNat ≤ p.w1.toNat →
    p.w1.toNat - g.addr.toNat + Pkt.extent p ≤ g.len → u.partActive g.part = true →
    grantPiece g (p.w1.toNat - g.addr.toNat) = some c → op = 10 ∨ (∀ i ∈ s.xb.epIn.head?, i.port ≠ onDie) ∨ 2 ≤ c.kind →
    exec (if op = 9 then .tileRead else .tileWrite) s =
      .next ((u.setGrants (minsert (merase u.tr.grants h) h { g with seen := u.edge })).startOp (.tile h) p
        { c with base := c.base + (p.w1.toNat - g.addr.toNat - c.ofs) })) ∧
  (∀ (s u : State) (p : Pkt) (h : Nat) (g : Grant) (c : Piece), s.frontHandle = h → s.takes 9 p u →
    u.fenced (Pkt.src p) = false → u.tr.grants.find? (fun e => e.1 == h) = some (h, g) →
    g.src = Pkt.src p → g.part = Pkt.part p → g.side = 0 → g.addr.toNat ≤ p.w1.toNat →
    p.w1.toNat - g.addr.toNat + Pkt.extent p ≤ g.len → u.partActive g.part = true →
    grantPiece g (p.w1.toNat - g.addr.toNat) = some c → (∀ i ∈ s.xb.epIn.head?, i.port = onDie) → c.kind < 2 →
    let v := u.setGrants (minsert (merase u.tr.grants h) h { g with seen := u.edge })
    let a := c.base + (p.w1.toNat - g.addr.toNat - c.ofs)
    exec .tileRead s = .next (v.answer (.tile h) p 0
      (if c.kind = 0 then v.hbmRead a (Pkt.rlen p) else readBytes v.tu.store a (Pkt.rlen p)))) ∧
  (∀ (s u : State) (p : Pkt) (op h : Nat), op = 9 ∨ op = 10 → s.frontHandle = h → s.takes op p u →
    u.fenced (Pkt.src p) = false → (∀ e ∈ u.tr.grants, e.1 ≠ h) → h ∈ u.tr.idled →
    exec (if op = 9 then .tileRead else .tileWrite) s = .next (u.bump TRACK_GRANT_IDLE_COUNT)) ∧
  (∀ (s u : State) (p : Pkt) (g : Grant), s.takes 11 p u → u.fenced (Pkt.src p) = false →
    u.tr.grants.find? (fun e => e.1 == Pkt.grant p) = some (Pkt.grant p, g) → g.src = Pkt.src p → g.part = Pkt.part p →
    (Pkt.abort p = true ∨ g.side = 0 ∨ g.written = g.len → exec .tileClose s =
      .next (u.tileDone (Pkt.grant p) { g with seen := u.edge, closing := some p } 0)) ∧
    (Pkt.abort p = false → g.side ≠ 0 → g.written ≠ g.len → exec .tileClose s = .next
      (u.setGrants (minsert (merase u.tr.grants (Pkt.grant p)) (Pkt.grant p) { g with seen := u.edge, closing := some p })))) ∧
  (∀ (s : State) (h : Nat) (g : Grant), s.tr.grants.find? (fun e => e.1 == h) = some (h, g) → g.closing.isSome = true →
    g.written = g.len → exec (.tileCloseComplete h) s = .next (s.tileDone h g 0)) ∧
  (∀ (s : State) (h : Nat) (g : Grant), s.tr.grants.find? (fun e => e.1 == h) = some (h, g) →
    g.seen + s.get TRACK_CONFIG_GRANT_IDLE ≤ s.edge →
    let t := (s.tileDone h g 9).bump TRACK_GRANT_IDLE_COUNT
    exec (.grantIdle h) s = .next { t with tr := { t.tr with idled := t.tr.idled ++ [h] } })

/-- Line queues and the recalls of the directory (R121, R122, R157, R323): where a line's queue has room, the waiting entry whose
turn it is (`State.lineTurn`: the values of `SRC_EP` in turn) joins the line's queue at its end, the longest wait is kept in `TRACK_LINE_WAIT_MAX`, the queues
in use are counted, and no other register and no memory changes; the head entry that waits for nothing is performed and ended with its result; a lender or a host that
does not answer within `LOWER_LIMIT` sets `LOWER_TIMEOUT`, is counted, and ends the head with `TIMEOUT` (9), the lender's tracker entry closed;
an agent that does not answer a recall within `RECALL_LIMIT` sets `RECALL_TIMEOUT`, is counted, loses its copy, and the accesses that
waited for it end with `TIMEOUT` (9). -/
def Obligations.LineQueues : Prop :=
  (∀ (line ns : Nat) (s : State) (w : Nat × Nat × Nat × Nat) (rest : List (Nat × Nat × Nat × Nat)), s.lineRoom line = true →
    s.lineTurn line = some (w, rest) → ns < 2 ^ 64 →
    ∃ t : State, exec (.lineQueueAdmit line ns) s = .next t ∧ t.tr.lineWaits = rest ∧
      t.tr.lines = (match s.tr.lines.find? (fun q => q.line == line) with
        | some _ => updWhere (fun q => q.line == line) (fun q => { q with q := q.q ++ [w.2.1] }) s.tr.lines
        | none => s.tr.lines ++ [⟨line, [w.2.1], .none⟩]) ∧
      t.rd TRACK_LINE_WAIT_MAX = max (s.rd TRACK_LINE_WAIT_MAX) ns ∧ t.reg TRACK_LINE_QUEUES_IN_USE = BitVec.ofNat 64 t.tr.lines.length ∧
      SameRegs s t [TRACK_LINE_WAIT_MAX, TRACK_LINE_QUEUES_IN_USE] ∧ SameMem s t) ∧
  (∀ (line : Nat) (s : State) (q : LineQ) (o : HOp), s.headOp line = some (q, o) → q.wait = .none →
    exec (.lineEntryPerform line) s = .next ((s.lineDo o line).2.finishLine line o (s.lineDo o line).1).dirSettle) ∧
  (∀ (line : Nat) (s : State) (q : LineQ) (o : HOp), s.headOp line = some (q, o) → o.kind = 4 →
    let t := (s.put MEM_HBM_STATUS_LOWER_TIMEOUT 1).bump MEM_LOWER_TIMEOUT_COUNT
    (∀ tag, q.wait = .lender → s.lenderTag o.id line = some tag →
      exec (.lowerLimitTimeout line) s = .next ((t.closeEntry tag true).finishLine line o (.fail 9))) ∧
    (q.wait = .host → exec (.lowerLimitTimeout line) s = .next (t.finishLine line o (.fail 9)))) ∧
  (∀ (line : Nat) (agent : Fin 5) (s : State) (e : DirEntry), s.dir.find? (fun e => e.line == line) = some e →
    e.recalling.testBit agent = true →
    let t := (s.put MEM_DIR_STATUS_RECALL_TIMEOUT 1).bump MEM_DIR_RECALL_TIMEOUT_COUNT
    exec (.recallTimeout line agent) s = .next
      ((t.dirDrop line agent false).failHeads (s.tr.lines.filter (fun q => q.wait == .dir line)) 9).dirSettle)

/-- Host translations (R77 to R82, R85): a completion of 2 MiB or 1 GiB enters the cache, at most 8,192 entries; one of any
other size is refused and counted; a timeout is counted; one that no Translation Request waits for changes nothing; an
Invalidate Request drops the matching entries at once and keeps what they translate as its uses, and its completion waits for
everything that uses a removed entry and is sent, and counted, when nothing does any more (R81). -/
def Obligations.HostTranslations : Prop :=
  (∀ (n : Part) (pasid : Nat) (va : Word) (size : Nat) (r w : Bool) (pa : Word) (s : State),
    (n.val, pasid, va.toNat) ∈ s.xl.reqs → size = 2 ^ 21 ∨ size = 2 ^ 30 →
    let base := va.toNat / size * size
    let e : AtcEntry := ⟨n, pasid, base, size, r, w, pa.toNat / size * size⟩
    let atc := (e :: s.xl.atc.filter (fun x => !(x.part == n && x.pasid == pasid && x.va == base && x.size == size))).take 8192
    exec (.translationCompletion n pasid va (.mapped size r w pa)) s =
      .next (({ s with xl := { s.xl with atc := atc } }).regionDone n pasid va.toNat
        size (fun write => if (if write then w else r) then none else some (1, some 6)))) ∧
  (∀ (n : Part) (pasid : Nat) (va : Word) (size : Nat) (r w : Bool) (pa : Word) (s : State),
    (n.val, pasid, va.toNat) ∈ s.xl.reqs → size ≠ 2 ^ 21 → size ≠ 2 ^ 30 →
    exec (.translationCompletion n pasid va (.mapped size r w pa)) s =
      .next ((s.bump XLAT_GRANULE_COUNT).regionDone n pasid va.toNat (2 ^ 21) (fun _ => some (0xA, some 7)))) ∧
  (∀ (n : Part) (pasid : Nat) (va : Word) (s : State), (n.val, pasid, va.toNat) ∈ s.xl.reqs →
    exec (.translationCompletion n pasid va .error) s = .next (s.regionDone n pasid va.toNat (2 ^ 21) (fun _ => some (1, some 8))) ∧
    exec (.translationCompletion n pasid va .none) s = .next (s.regionDone n pasid va.toNat (2 ^ 21) (fun _ => some (1, some 6))) ∧
    exec (.atsTimeout n pasid va) s =
      .next ((s.bump XLAT_ATS_TIMEOUT_COUNT).regionDone n pasid va.toNat (2 ^ 21) (fun _ => some (9, none)))) ∧
  (∀ (n : Part) (pasid : Nat) (va : Word) (a : AtsAnswer) (s : State), (n.val, pasid, va.toNat) ∉ s.xl.reqs →
    exec (.translationCompletion n pasid va a) s = .next s ∧ exec (.atsTimeout n pasid va) s = .next s) ∧
  (∀ (itag : Nat) (pasid : Option Nat) (va : Word) (size : Nat) (s : State),
    let hit := fun (e : AtcEntry) => (pasid = none ∨ pasid = some e.pasid) ∧ e.va < va.toNat + size ∧ va.toNat < e.va + e.size
    exec (.invalidateRequest itag pasid va size) s = .next { s with xl := { s.xl with
      atc := s.xl.atc.filter (fun e => decide (¬ hit e)),
      invals := s.xl.invals ++ [⟨itag, (s.xl.atc.filter (fun e => decide (hit e))).map (fun e => Use.host e.part e.pasid e.va)⟩] } }) ∧
  (∀ (itag : Nat) (s : State), (∀ i ∈ s.xl.invals, i.itag ≠ itag) → exec (.invalidationCompletion itag) s = .next s) ∧
  (∀ (itag : Nat) (s : State) (i : Inval) (rest : List Inval),
    takeFirst (fun (i : Inval) => i.itag == itag) s.xl.invals = some (i, rest) → (∃ u ∈ i.uses, s.useHeld u = true) →
    exec (.invalidationCompletion itag) s = .next s) ∧
  (∀ (itag : Nat) (s : State) (i : Inval) (rest : List Inval),
    takeFirst (fun (i : Inval) => i.itag == itag) s.xl.invals = some (i, rest) → (∀ u ∈ i.uses, s.useHeld u = false) →
    ∃ t : State, exec (.invalidationCompletion itag) s = .next t ∧ t.xl.invals = rest ∧ t.out = s.out ++ [.invalDone itag] ∧
      t.reg XLAT_INVAL_COUNT = s.reg XLAT_INVAL_COUNT + 1 ∧ SameRegs s t [XLAT_INVAL_COUNT] ∧ SameMem s t)

/-- What the home performs in HBM4E for the head entry of a line queue that no cache agent holds (R103, R105, R121, R302): a
load returns the bytes that memory holds and changes none; a store writes its own bytes of the line, from the address of
the line or of the operation, whichever is higher, and every byte outside them reads as before; an atomic writes the new
value at its operand and keeps every other byte. -/
def Obligations.HomePerformsInHbm : Prop :=
  ∀ (line : Nat) (s : State) (q : LineQ) (o : HOp), s.headOp line = some (q, o) → q.wait = .none → o.kind = 0 →
    o.src = .request → (∀ e ∈ s.dir, e.line ≠ lineAddr line / 64) →
    let lo := max (lineAddr line) o.base
    let n := min (lineAddr line + 64) (o.base + Pkt.extent o.pkt) - lo
    (Pkt.opcode o.pkt = 1 → ∃ t : State, exec (.lineEntryPerform line) s = .next t ∧ SameMem s t ∧
      t = (s.finishLine line o (.done (s.hbmRead lo n))).dirSettle) ∧
    (Pkt.opcode o.pkt = 2 → ∃ t : State, exec (.lineEntryPerform line) s = .next t ∧
      t.hbm = writeBytes s.hbm lo (o.bytesFor lo n) ∧ t.tu.store = s.tu.store ∧ t.sq.mem = s.sq.mem ∧
      ∀ a, a + 1 ≤ lo ∨ lo + n ≤ a → t.hbmRead a 1 = s.hbmRead a 1) ∧
    (Pkt.opcode o.pkt = 3 → ∃ t : State, exec (.lineEntryPerform line) s = .next t ∧
      t.hbm = writeBytes s.hbm lo (atomicApply o.pkt (s.hbmRead lo n)) ∧ t.tu.store = s.tu.store ∧ t.sq.mem = s.sq.mem ∧
      ∀ a, a + 1 ≤ lo ∨ lo + Pkt.size o.pkt ≤ a → t.hbmRead a 1 = s.hbmRead a 1)

/-- The switch core (R17, R167, R169 to R171, R175, R177, R181, R184 to R186): the first packet of the highest
rank at an input is taken where a cell is free for it, its credits
return, and it is switched; a fenced port's packets are dropped and counted; a combining entry closes at its window's end
and its reply answers every attached request with the value it would have read; at its beat a bank switch flips the bank
and raises the epoch; the drain ends when nothing of the old bank is held. -/
def Obligations.SwitchCore : Prop :=
  (∀ (p : Port) (busy : Bool) (s t : State) (q : Pkt) (r : Nat), r < 8 →
    s.takeRx p (fun x => match x with | .pkt q => rank175 q == r | _ => false) = some (.pkt q, t) →
    (∀ y : Pkt, .pkt y ∈ mget [] s.xb.rx p → rank175 y ≤ r) →
    let u := (t.returnCredit p (Pkt.channel q) (Pkt.flits q)).switchPkt p q busy
    u.cellsUsed ≤ s.get XBAR_CONFIG_CELL_RSVD → exec (.packetSwitch ⟨p, by omega⟩ busy) s = .next u.xqCounts) ∧
  (∀ (busy : Bool) (s : State) (q : Pkt) (rest : List Pkt) (r : Nat), r < 8 →
    takeFirst (fun q => rank175 q == r) s.xb.out96 = some (q, rest) → (∀ y ∈ s.xb.out96, rank175 y ≤ r) →
    let u := ({ s with xb := { s.xb with out96 := rest } } : State).switchPkt 96 q busy
    u.cellsUsed ≤ s.get XBAR_CONFIG_CELL_RSVD → exec (.packetSwitch 96 busy) s = .next u.xqCounts) ∧
  (∀ (s : State) (p : Nat) (q : Pkt) (busy : Bool), p < 96 → s.portFenced p = true →
    s.switchPkt p q busy = s.bump HEALTH_FENCE_DROP_COUNT) ∧
  (∀ (p : Port) (id : Nat) (s : State) (c : Comb),
    s.xb.comb.find? (fun c => c.port == p.val && c.id == id && !c.closed) = some c →
    exec (.combWindowClose p id) s = .next (s.closeComb c).xqCounts) ∧
  (∀ (s : State) (i : EpItem) (rest : List EpItem) (tag id port : Nat) (e : TEntry), s.xb.epIn = i :: rest →
    Pkt.isReply i.pkt = true → Pkt.dst i.pkt = s.selfId →
    s.tr.entries.find? (fun e => e.1 == Pkt.tag i.pkt && e.2.gen == Pkt.gen i.pkt) = some (tag, e) →
    e.issuer = .comb port id →
    let t := ({ s with xb := { s.xb with epIn := rest } } : State).closeEntry tag false
    (Pkt.status i.pkt ≠ 0 → exec .combinedReply s = .next (t.failComb id (Pkt.src i.pkt) (Pkt.status i.pkt))) ∧
    (Pkt.status i.pkt = 0 → exec .combinedReply s = .next (t.answerComb id (fun c k a u =>
      if Pkt.opcode c.pkt = 1 then u.send 96 (Pkt.reply (combReq c a) (Pkt.src i.pkt) 0x80 0 i.pkt.payload 0)
      else if a.noret then u.send 96 (Pkt.reply (combReq c a) (Pkt.src i.pkt) 0x81 0 [] 0)
      else u.send 96 (Pkt.reply (combReq c a) (Pkt.src i.pkt) 0x82 0
        (leBytes (Pkt.size c.pkt) (combOld c (leNat i.pkt.payload) k)) 0))))) ∧
  (∀ s : State, s.on XBAR_STATUS_PEND = true → s.rd XBAR_EPOCH_AT ≤ s.beat →
    ∃ t : State, exec .bankSwitch s = .next t ∧ t.get XBAR_CONFIG_ACTIVE_BANK = 1 - s.get XBAR_CONFIG_ACTIVE_BANK ∧
      t.get XBAR_EPOCH_EPOCH = (s.get XBAR_EPOCH_EPOCH + 1) % 2 ^ 32 ∧ t.get XBAR_STATUS_PEND = 0 ∧
      t.get XBAR_STATUS_DRAINING = 1 ∧ t.xb.switchedAt = s.edge ∧ t.xb.routes = s.xb.routes ∧ t.xb.groups = s.xb.groups ∧
      SameMem s t) ∧
  (∀ s : State, s.on XBAR_STATUS_DRAINING = true → s.xb.switchedAt + s.get XBAR_CONFIG_EPOCH_HOLD ≤ s.edge →
    s.rd XBAR_OLD_HELD = 0 →
    ∃ t : State, exec .drainEnd s = .next t ∧ t.get XBAR_STATUS_DRAINING = 0 ∧ OnlyRegs s t [XBAR_STATUS])

/-- Replies and the tracker (R95, R119, R120, R125, R126, R332, R334): a reply that answers no combined request ends the
entry of its tag and generation; a late one is counted; the value of a blocking request reaches its register; an entry
past its time ends with `TIMEOUT`, or `TARGET_LOST` when its target was lost; a stalled request takes a free entry; a word
that failed its parity is fetched again twice, by a link-level replay in a port's receive buffer (R119; log 156), and then its
packet is discarded, or ends or becomes an `ACK` of this module with `PARITY_EXHAUSTED` and every other field of words 0 and 2
at 0 (R97, R101), as the line does (R120, R303); a word of a record or of the next direct read of a line fails there. -/
def Obligations.RepliesAndTracker : Prop :=
  (∀ (s u : State) (p : Pkt), (∀ i ∈ s.xb.epIn.head?, s.forComb i.pkt = false) →
    (s.takes 0x80 p u → exec .data s = .next (u.endReply p)) ∧ (s.takes 0x81 p u → exec .ack s = .next (u.endReply p)) ∧
    (s.takes 0x82 p u → exec .atomicValue s = .next (u.endReply p)) ∧
    (s.takes 0x83 p u → exec .tileGrant s = .next (u.endReply p)) ∧
    (s.takes 0x84 p u → exec .tileDone s = .next (u.endReply p))) ∧
  (∀ (u : State) (p : Pkt), u.isBootReply p = false → Pkt.dst p ≠ u.selfId →
    (Pkt.dst p ≠ u.slotId 5 → u.endReply p = u.bump TRACK_LATE_REPLY_COUNT) ∧
    (Pkt.dst p = u.slotId 5 → u.endReply p = u.emit (.hostReply p))) ∧
  (∀ (u : State) (p : Pkt), Pkt.dst p = u.selfId → mget 0 u.tr.fwd (Pkt.tag p) = 0 →
    (∀ e ∈ u.tr.entries, e.1 = Pkt.tag p → e.2.gen ≠ Pkt.gen p) → u.endReply p = u.bump TRACK_LATE_REPLY_COUNT) ∧
  (∀ (u : State) (p : Pkt) (e : TEntry) (c t seq : Nat) (rd : Fin 32), Pkt.dst p = u.selfId →
    mget 0 u.tr.fwd (Pkt.tag p) = 0 → u.tr.entries.find? (fun e => e.1 == Pkt.tag p) = some (Pkt.tag p, e) →
    e.gen = Pkt.gen p → e.issuer = .thread c t seq → ((u.closeEntry (Pkt.tag p) false).thread c t).wait = .reply seq rd →
    u.endReply p = (u.closeEntry (Pkt.tag p) false).blockedDone c t rd (Pkt.status p) p.payload) ∧
  (∀ (tag : Nat) (s : State) (e : TEntry), s.tr.entries.find? (fun e => e.1 == tag) = some (tag, e) →
    e.sent + s.get TRACK_CONFIG_TIMEOUT ≤ s.edge →
    exec (.trackerTimeout tag) s = .next ((s.bump TRACK_TIMEOUT_COUNT).endEntry tag e 9 noReply true)) ∧
  (∀ (tag b : Nat) (s : State) (e : TEntry), s.tr.entries.find? (fun e => e.1 == tag) = some (tag, e) → e.lostAt = some b →
    b + s.get TRACK_CONFIG_LOST_WAIT ≤ s.edge →
    b + s.get TRACK_CONFIG_LOST_WAIT < e.sent + s.get TRACK_CONFIG_TIMEOUT →
    exec (.trackerLost tag) s = .next ((s.bump TRACK_LOST_COUNT).endEntry tag e 3 noReply true)) ∧
  (∀ (n : Part) (s : State) (p : Pkt) (c t seq : Nat) (rest : List (Pkt × Issuer)), s.trackRoom n = true →
    takeFirst (fun (e : Pkt × Issuer) => s.trackPart e.1 e.2 == n.val) s.tr.stalled = some ((p, .thread c t seq), rest) →
    exec (.trackerStallResume n) s = .next (({ s with tr := { s.tr with stalled := rest } } : State).issue
      (if 4 ≤ Pkt.opcode p ∧ Pkt.opcode p ≤ 6 then 97 else 96) p (.thread c t seq))) ∧
  (∀ (a : ParityPoint) (k : Nat) (s : State), k ≤ 2 → (∀ p h, a ≠ .inbox p h) →
    exec (.parityRefetch a k) s = .next (s.bump TRACK_PARITY_REPLAY_COUNT)) ∧
  (∀ (p : Port) (h : Bool) (k : Nat) (s : State), k ≤ 2 → s.active p = true →
    exec (.parityRefetch (.inbox p h) k) s =
      .next ((s.setLink p { s.link p with rxBad := true, nakDue := true }).flushLink p)) ∧
  (∀ (k : Nat) (s t : State) (p : Port) (n r : Nat) (c : Fin 2) (h : Bool) (a : ParityPoint) (q : Pkt) (put : Pkt → State), 2 < k →
    a ∈ [.inbox p h, .stored n h, .endPoint h, .array h, .parked n h, .held n r h, .stage c h] → s.atPoint a = some (q, t, put) →
    (h = true → exec (.parityRefetch a k) s = .next (t.bump TRACK_HDR_DISCARD_COUNT)) ∧
    (h = false → q.payload ≠ [] →
      (Pkt.isReply q = false →
        exec (.parityRefetch a k) s = .next ((t.bump TRACK_PARITY_EXHAUSTED_COUNT).reply q 0x81 8 [] 0)) ∧
      (Pkt.opcode q = 0x80 ∨ Pkt.opcode q = 0x82 →
        let dl := if a = .stored n h then Pkt.dl q else 0
        let ack : Pkt :=
          { q with w0 := mkWord [(7, 0, 0x81), (15, 8, 8), (20, 16, Pkt.part q), (21, 21, Pkt.tc q), (22, 22, dl), (47, 32, s.selfId),
                                 (63, 48, Pkt.dst q)],
                   w2 := mkWord [(19, 0, Pkt.tag q), (23, 20, Pkt.gen q)], w3 := 0, payload := [], sealTag := 0, sealCtr := 0 }
        exec (.parityRefetch a k) s = .next ((put ack).bump TRACK_PARITY_EXHAUSTED_COUNT)))) ∧
  (∀ (k : Nat) (s : State) (i : EpItem) (rest : List EpItem), 2 < k → s.xb.epIn = i :: rest → Pkt.isReply i.pkt = false →
    i.pkt.payload ≠ [] →
    exec (.parityRefetch (.endPoint false) k) s = .next ((({ s with xb := { s.xb with epIn := rest } } : State).bump
      TRACK_PARITY_EXHAUSTED_COUNT).reply i.pkt 0x81 8 [] 0)) ∧
  (∀ (k line : Nat) (s : State) (q : LineQ) (o : HOp), 2 < k → s.headOp line = some (q, o) →
    exec (.parityRefetch (.write line) k) s =
      .next (s.finishLine line o (.fail 8)) ∧
    ∀ stack : Fin 4, exec (.parityRefetch (.hbm stack line) k) s =
      .next ((s.hbmUncorr stack).finishLine line o (.fail 8))) ∧
  (∀ (k line : Nat) (stack : Fin 4) (s : State), 2 < k →
    exec (.parityRefetch (.record line) k) s = .next { s with badLines := line :: s.badLines.erase line } ∧
    (s.headOp line = none →
      exec (.parityRefetch (.hbm stack line) k) s = .next { s with badReads := line :: s.badReads.erase line }))

/-- Contributions and multicast stores (R109, R110, R116, R213, R216, R218, R220, R232): a contribution at the front of the
array's input is taken; one that fails a check of R213 is rejected with its status, counted, and leaves its chunk alone; one
without a free slot parks; an overdue chunk ends with `TIMEOUT`; parked contributions join while they may; a multicast store
is replicated, or refused where its group has no entry; the combined answer goes upstream once every copy has replied. Which
contributions wait, and that one that waited is checked again, is the model's choice (log 152). -/
def Obligations.ContributionsAndMulticast : Prop :=
  (∀ (s u v : State) (p : Pkt) (now : Nat) (b : Bool), u.contribute p now b = some v →
    (s.takeRdx 5 = some (some p, u) → exec (.reduce now b) s = .next v) ∧
    (s.takeRdx 6 = some (some p, u) → exec (.reduceMem now b) s = .next v)) ∧
  (∀ (s u : State) (p : Pkt) (now g : Nat) (b : Bool), u.isResult p = false → u.fenced (Pkt.src p) = false →
    u.fenced (Pkt.dst p) = false → u.partActive (Pkt.part p) = true → u.contribRow p = some g → u.contribCheck g p ≠ 0 →
    let t := ((u.put RDX_STATUS_REJECT 1).bump RDX_REJECT_COUNT).ack p (u.contribCheck g p)
    (s.takeRdx 5 = some (some p, u) → exec (.reduce now b) s = .next t) ∧
    (s.takeRdx 6 = some (some p, u) → exec (.reduceMem now b) s = .next t)) ∧
  (∀ (u v : State) (p : Pkt) (now g i : Nat) (b : Bool), u.isResult p = false → u.fenced (Pkt.src p) = false →
    u.fenced (Pkt.dst p) = false → u.partActive (Pkt.part p) = true → u.contribRow p = some g → u.contribCheck g p = 0 →
    u.chunk? g (Pkt.chunk p) = none →
    u.get (RDX_GROUP_B_SLOTS g) ≤ u.get (RDX_GROUP_B_SLOTS_USED g) →
    u.poolTake 0 (Pkt.part p) (.chunk g (Pkt.chunk p) (Pkt.rank p)) = some (i, v) →
    u.contribute p now b = some (({ v with
      ra := { v.ra with parked := v.ra.parked ++ [⟨g, p, i, u.tm.clock + now⟩] } } : State).bump RDX_PARK_COUNT)) ∧
  (∀ (g : Row) (n : Nat) (s : State) (c : Chunk), 
    s.ra.chunks.find? (fun c => c.row == g.val && c.num == n && decide (c.openBeat + s.get RDX_CONFIG_CHUNK_LIMIT ≤ s.edge)) = some c →
    exec (.chunkTimeout g n) s =
      .next (((s.endChunk c 9).put RDX_STATUS_CHUNK_TIMEOUT 1).bump RDX_TIMEOUT_COUNT)) ∧
  (∀ (g : Row) (now : Nat) (bad : List Nat) (s : State),
    exec (.parkedContributionOpen g ⟨now, bad⟩) s = .next (unpark g now bad s.ra.parked.length s)) ∧
  (∀ (g : Row) (now : Nat) (bad : List Nat) (s v : State) (w : Parked) (rest : List Parked), s.ra.parked = w :: rest → w.row = g →
    s.get (RDX_GROUP_B_SLOTS_USED g) < s.get (RDX_GROUP_B_SLOTS g) →
    let t : State := { s with ra := { s.ra with parked := rest } }
    t.contribRow w.pkt = some g.val → t.contribCheck g w.pkt = 0 →
    t.joinChunk g w.pkt w.at_ (some w.cell) (bad.contains (Pkt.chunk w.pkt)) = some v → (∀ x ∈ v.ra.parked, x.row ≠ g) →
    exec (.parkedContributionOpen g ⟨now, bad⟩) s = .next v) ∧
  (∀ (s u : State) (p : Pkt), s.takeRdx 4 = some (some p, u) → u.fenced (Pkt.src p) = false →
    exec .mcastStore s = .next (if mcValid (wd (u.mcEntry (Pkt.part p) (Pkt.group p)) 0)
      then u.replicate p (u.mcEntry (Pkt.part p) (Pkt.group p)) else u.reply p 0x81 7 [] (mkWord [(31, 16, 1)]))) ∧
  (∀ (op : Nat) (s : State) (m : Mc), s.tr.mcs.find? (fun m => m.1 == op) = some (op, m) → m.waiting = 0 →
    exec (.mcastAckCombine op) s = .next (({ s with tr := { s.tr with mcs := merase s.tr.mcs op } } : State).reply m.pkt 0x81
      (if m.failed = 0 then 0 else m.status) [] (mkWord [(15, 0, m.ok), (31, 16, m.failed)])))

/-- The buffer pools (R189 to R195): an exempt unit is queued and served, any other asks among those of
its cycle, which are served in turn (R192; log 139), and gets a buffer or `POOL_EMPTY`; a buffer
in use is freed by its holder, a free one counts a double free and stays free; a batch frees the cells of its word, and
a batch out of range is counted; a sweep is due every 4,096 beats and records its beat. -/
def Obligations.BufferPools : Prop :=
  (∀ (u : PoolUser) (n : Part) (size k : Nat) (more : Bool) (s : State), s.poolFor size = some k → PoolUser.exempt u = true →
    exec (.poolAlloc u n ⟨size, more⟩) s =
      .next (({ s with pl := { s.pl with waits := s.pl.waits ++ [(u, n.val, k)] } } : State).poolCycle more)) ∧
  (∀ (u : PoolUser) (n : Part) (size k : Nat) (more : Bool) (s : State), s.poolFor size = some k → PoolUser.exempt u = false →
    exec (.poolAlloc u n ⟨size, more⟩) s =
      .next (({ s with pl := { s.pl with asks := s.pl.asks ++ [(u, n.val, k)] } } : State).poolCycle more) ∧
    (more = false → s.pl.asks = [] → s.pl.waits = [] →
      let t : State := { s with pl := { s.pl with askTurn := mset 0 s.pl.askTurn k ((plainUnits.idxOf u + 1) % 3) } }
      exec (.poolAlloc u n ⟨size, more⟩) s = .next (match t.poolAsk k n (.unit u) with
        | (some i, v) => v.emit (.buffer k i)
        | (none, v) => v.emit (.poolEnd k 5)))) ∧
  (∀ (k i n : Nat) (u : PoolUser) (rest : List (PoolUser × Nat × Nat)) (s : State), i < 3 →
    plainUnits[(mget 0 s.pl.askTurn k + i) % 3]? = some u →
    (∀ j < i, ∀ w ∈ s.pl.asks, w.2.2 = k → some w.1 ≠ plainUnits[(mget 0 s.pl.askTurn k + j) % 3]?) →
    takeFirst (fun (w : PoolUser × Nat × Nat) => w.1 == u && w.2.2 == k) s.pl.asks = some ((u, n, k), rest) →
    let turn := mset 0 s.pl.askTurn k (((mget 0 s.pl.askTurn k + i) % 3 + 1) % 3)
    let t : State := { s with pl := { s.pl with asks := rest, askTurn := turn } }
    s.askOne k = some (match t.poolAsk k n (.unit u) with
      | (some b, v) => v.emit (.buffer k b)
      | (none, v) => v.emit (.poolEnd k 5))) ∧
  (∀ (k : Fin 5) (i : Nat) (more : Bool) (s : State) (b : Buf), k ≠ 0 → i < poolCount k → s.buf k i = some b → b.inUse = true →
    exec (.poolRelease k ⟨i, more⟩) s =
      .next ((s.poolGive k i (b.holders.head?.getD (.unit .endpoint))).poolCycle more)) ∧
  (∀ (k : Fin 5) (i : Nat) (more : Bool) (s : State), k ≠ 0 → i < poolCount k → s.buf k i = none →
    ∃ t : State, exec (.poolRelease k ⟨i, more⟩) s = .next (t.poolCycle more) ∧
      t.reg (POOL_DOUBLE_FREE_COUNT k) = s.reg (POOL_DOUBLE_FREE_COUNT k) + 1 ∧
      (t.get POOL_STATUS_DOUBLE_FREE).testBit k = true ∧
      t.reg POOL_ERR_INFO = mkWord [(55, 48, 1), (42, 40, k), (16, 0, i)] ∧
      OnlyRegs s t [POOL_STATUS, POOL_DOUBLE_FREE_COUNT k, POOL_ERR_INFO]) ∧
  (∀ (first : Nat) (w held : Word) (more : Bool) (s : State), first % 64 = 0 → first + 64 ≤ 131072 →
    exec (.cellBatchFree ⟨first, more⟩ w held) s =
      .next (((setBitsOf 64 w.toNat).foldl (fun t i => t.freeCell (first + i) (bit held i)) s).poolCycle more)) ∧
  (∀ (first : Nat) (w held : Word) (more : Bool) (s : State), first % 64 ≠ 0 ∨ 131072 < first + 64 →
    let lost := ((setBitsOf 64 w.toNat).filter (fun i => bit held i)).foldl (fun t i => t.loseCell (first + i)) s
    ∃ t : State, exec (.cellBatchFree ⟨first, more⟩ w held) s = .next (t.poolCycle more) ∧ t.get POOL_STATUS_RANGE_ERR = 1 ∧
      t.reg POOL_RANGE_ERR_COUNT = s.reg POOL_RANGE_ERR_COUNT + 1 ∧ t.pl = lost.pl ∧
      SameRegs s t [POOL_STATUS, POOL_RANGE_ERR_COUNT, POOL_ERR_INFO] ∧ SameMem s t) ∧
  (∀ s : State, s.pl.lastSweep + 4096 ≤ s.edge →
    let t := (List.range 5).foldl (fun t k => (mget [] t.pl.bufs k).foldl (fun t e => t.auditBuf k e.1) t) s
    exec .auditSweep s =
      .next (({ t with pl := { t.pl with lastSweep := t.edge } } : State).wr POOL_AUDIT_BEAT t.beat).poolServe)

/-- What the host processor answers to the home (R157, R158, R323, R384): the data of a read end the head access that waits for the
host with those bytes, and an error ends it with `PARITY_EXHAUSTED` (8); the first answer to an atomic keeps the old bytes and sends the host
the new ones, and the second ends it; any other access ends without data. A back-invalidation response that a recall waits for
writes the owner's data to the line and drops the copy; data that no recall waits for are late: `LATE_WB` and its count.
A snoop is answered, and the answer says whether the module holds that line for an access that waits for the host (R103). -/
def Obligations.HostAnswers : Prop :=
  (∀ (line : Nat) (bytes : List Byte) (s : State) (q : LineQ) (o : HOp), s.headOp line = some (q, o) → q.wait = .host →
    let n := (opSlice o line).2
    let d := (bytes ++ List.replicate n 0).take n
    (Pkt.opcode o.pkt = 1 ∨ Pkt.opcode o.pkt = 9 →
      exec (.cxlCacheResponse line (.ok bytes)) s = .next (s.finishLine line o (.done d))) ∧
    (Pkt.opcode o.pkt ≠ 1 → Pkt.opcode o.pkt ≠ 9 → Pkt.opcode o.pkt ≠ 3 →
      exec (.cxlCacheResponse line (.ok bytes)) s = .next (s.finishLine line o (.done []))) ∧
    (Pkt.opcode o.pkt = 3 → (∀ g ∈ o.got, g.1 ≠ line) →
      exec (.cxlCacheResponse line (.ok bytes)) s = .next ((s.setOp { o with got := [(line, d)] }).emit
        (.cache (s.hostPa o line) n (some (atomicApply o.pkt d))))) ∧
    (Pkt.opcode o.pkt = 3 → (∃ g ∈ o.got, g.1 = line) →
      exec (.cxlCacheResponse line (.ok bytes)) s = .next (s.finishLine line o (.done []))) ∧
    exec (.cxlCacheResponse line .error) s = .next (s.finishLine line o (.fail 8))) ∧
  (∀ (line : Nat) (data : Option (List Byte)) (s : State) (e : DirEntry), s.dir.find? (fun e => e.line == line) = some e →
    e.recalling.testBit 4 = true →
    exec (.backInvalidationResponse line data) s = .next (s.dirAnswer line 4 data).dirSettle ∧
    (∀ d, data = some d → e.owned = true → e.sharers.testBit 4 = true →
      s.dirAnswer line 4 data = (s.hbmWrite (64 * line) (d.take 64)).dirDrop line 4 e.keep) ∧
    (data = none → s.dirAnswer line 4 data = s.dirDrop line 4 (e.keep && e.owned))) ∧
  (∀ (line : Nat) (d : List Byte) (s : State), (∀ e, s.dir.find? (fun e => e.line == line) = some e → e.recalling.testBit 4 = false) →
    exec (.backInvalidationResponse line (some d)) s =
      .next ((s.put MEM_DIR_STATUS_LATE_WB 1).bump MEM_DIR_LATE_WB_COUNT) ∧
    exec (.backInvalidationResponse line none) s = .next s) ∧
  (∀ (a : Nat) (s : State),
    ((∀ q ∈ s.tr.lines, q.wait = .host → ∀ o, s.headOp q.line = some o → s.hostPa o.2 q.line / 64 ≠ a / 64) → exec (.hostSnoop a) s = .next (s.emit (.snoopRsp a false))) ∧
    ((∃ q ∈ s.tr.lines, q.wait = .host ∧ ∃ o, s.headOp q.line = some o ∧ s.hostPa o.2 q.line / 64 = a / 64) →
      exec (.hostSnoop a) s = .next (s.emit (.snoopRsp a true))))

/-- Registers and exceptions of sequencer threads (R327, R329, R330, R337): register x0 reads 0 and keeps no write; a CSR
instruction of R337 completes: rd takes the old value, the CSR its new one, and any write of `seqerr` clears it; a write of
another CSR, and a fabric instruction with a reserved bit set, are illegal; an exception is recorded, counted and halts the
thread. That a CSR instruction writes, sets or clears as RISC-V says, and that a fetch fault comes where the instruction does
not end within the 64 KiB, is from outside the spec (log 20, PRESUMED). -/
def Obligations.SequencerRegisters : Prop :=
  (∀ (h : ThreadSt) (v r k : Nat), h.setX 0 v = h ∧ h.x 0 = 0 ∧ (0 < r → v < 2 ^ 64 → (h.setX r v).x r = v) ∧
    (r ≠ k → (h.setX r v).x k = h.x k)) ∧
  (∀ (c : Core) (t : Thread) (op : CsrOp) (rd : Fin 32) (csr : BitVec 12) (v : Word) (r : State), r.canIssue c t →
    let s := r.issued c.val t.val false
    let h := s.thread c.val t.val
    let new := fun (old : Nat) => (match op with
      | .rw => v | .rs => BitVec.ofNat 64 old ||| v | .rc => BitVec.ofNat 64 old &&& ~~~v).toNat
    (csr = 0x800 → exec (.csrWrite c t op rd csr v) r =
      .next ((s.setThread c.val t.val { h with seqlc := nbits (new h.seqlc) 18 0 }).setGo c.val t.val rd h.seqlc (h.pc + 4))) ∧
    (csr = 0x801 → exec (.csrWrite c t op rd csr v) r =
      .next ((s.setThread c.val t.val { h with seqwait := nbits (new h.seqwait) 15 0 }).setGo c.val t.val rd h.seqwait (h.pc + 4))) ∧
    (csr = 0x802 → exec (.csrWrite c t op rd csr v) r =
      .next ((s.setThread c.val t.val { h with seqerr := 0 }).setGo c.val t.val rd h.seqerr (h.pc + 4))) ∧
    (csr ∉ [0x800, 0x801, 0x802] → exec (.csrWrite c t op rd csr v) r = .next (s.seqFault c.val t.val exIllegal))) ∧
  (∀ (c : Core) (t : Thread) (i : BitVec 32) (r : State), r.canIssue c t → iOp i = 0x5B → iF3 i = 7 → iRd i ≠ 0 →
    exec (.halt c t i) r = .next ((r.issued c.val t.val true).seqFault c.val t.val exIllegal)) ∧
  (∀ (c : Core) (t : Thread) (r : State), r.ready c.val t.val = true → 0x10000 < (r.thread c.val t.val).pc + 4 →
    ∀ (op : CsrOp) (rd : Fin 32) (csr : BitVec 12) (v : Word),
      exec (.csrWrite c t op rd csr v) r = .next ((r.issued c.val t.val false).seqFault c.val t.val exFetch)) ∧
  (∀ (c : Core) (t : Thread) (cause : BitVec 8) (s : State), (s.thread c.val t.val).running = true →
    ∃ u : State, exec (.threadException c t cause) s = .next u ∧ (u.thread c.val t.val).running = false ∧
      u.reg SEQ_FAULT_INFO = mkWord [(49, 32, (s.thread c.val t.val).pc), (26, 22, t.val), (21, 12, c.val), (7, 0, cause.toNat)] ∧
      u.get SEQ_STATUS_FAULT = 1 ∧ u.reg SEQ_FAULT_COUNT = (s.bump SEQ_FAULT_COUNT).reg SEQ_FAULT_COUNT ∧
      SameRegs s u [SEQ_FAULT_INFO, SEQ_STATUS, SEQ_FAULT_COUNT, SEQ_CORE_STATE c.val] ∧ SameMem s u)

/-- Requests of sequencer threads (R141, R327, R332 to R334, R336, R338, R339): an aligned `RLD` and a blocking `RAMO` send their
request and wait for the reply, an aligned `RST` and an `RAMO` with rd x0 send theirs and go on; a misaligned one ends
with `ACCESS_DENIED`; `POSTTILE` queues a tile move and puts 0 in rd; `POSTSTEP` places the descriptor in its ring and
advances the producer index, or answers why it did not, with a free status where the write of the ring fails (log 22, the
model's choice); and a block that is not aligned to its size or lies outside data memory halts the core with its cause (R329;
log 107: the model's reading of a misaligned one). -/
def Obligations.SequencerRequests : Prop :=
  (∀ (c : Core) (t : Thread) (i : BitVec 32) (o : State), o.canIssue c t → iOp i = 0x0B → iF3 i ≤ 3 → iRs2 i = 0 →
    nbits i.toNat 28 28 = 0 → nbits i.toNat 31 30 = 0 →
    let s := o.issued c.val t.val true
    let h := s.thread c.val t.val
    let a := h.x (iRs1 i)
    let n := 2 ^ iF3 i
    let wait := { h.next4 with nextSeq := h.nextSeq + 1, wait := .reply h.nextSeq (iRd i) }
    (a % n = 0 → exec (.rld c t i) o = .next ((s.setThread c.val t.val wait).issueThread c.val t.val (ReqForm.pkt
      { opcode := 1, part := s.corePart c.val, tc := s.seqTc c.val (nbits i.toNat 29 29 == 1), src := s.selfId,
        dst := faEp (BitVec.ofNat 64 a), addr := BitVec.ofNat 64 a, scope := nbits i.toNat 26 25, sem := nbits i.toNat 27 27,
        w3 := BitVec.ofNat 64 n }) (.thread c.val t.val h.nextSeq))) ∧
    (a % n ≠ 0 → exec (.rld c t i) o = .next (s.blockEnd c.val t.val (iRd i) 0 stACCESS_DENIED))) ∧
  (∀ (c : Core) (t : Thread) (i : BitVec 32) (o : State), o.canIssue c t → iOp i = 0x0B → 4 ≤ iF3 i → iRd i = 0 →
    nbits i.toNat 31 30 = 0 → o.postFull c.val t.val = false →
    let s := o.issued c.val t.val true
    let h := s.thread c.val t.val
    let a := h.x (iRs1 i)
    let n := 2 ^ (iF3 i - 4)
    let lc := nbits i.toNat 28 28 == 1
    let post := { h.next4 with nextSeq := h.nextSeq + 1, posted := h.posted ++ [(h.nextSeq, 0)] }
    (a % n = 0 → exec (.rst c t i) o = .next ((s.setThread c.val t.val post).issueThread c.val t.val (ReqForm.pkt
      { opcode := 2, part := s.corePart c.val, tc := s.seqTc c.val (nbits i.toNat 29 29 == 1), src := s.selfId,
        dst := faEp (BitVec.ofNat 64 a), addr := BitVec.ofNat 64 a, scope := nbits i.toNat 26 25,
        sem := 2 * nbits i.toNat 27 27, lcEn := lc && nbits h.seqlc 17 17 == 1, lcMode := lc && nbits h.seqlc 18 18 == 1,
        lcIdx := if lc then nbits h.seqlc 16 0 else 0, payload := leBytes n (h.x (iRs2 i)) }) (.thread c.val t.val h.nextSeq))) ∧
    (a % n ≠ 0 → exec (.rst c t i) o =
      .next ((s.setThread c.val t.val post).postedDone c.val t.val h.nextSeq stACCESS_DENIED))) ∧
  (∀ (c : Core) (t : Thread) (i : BitVec 32) (o : State), o.canIssue c t → iOp i = 0x2B → nbits i.toNat 28 25 ≤ 10 →
    let s := o.issued c.val t.val true
    let h := s.thread c.val t.val
    let a := h.x (iRs1 i)
    let sz := nbits i.toNat 12 12
    let n := 4 * 2 ^ sz
    let k := nbits i.toNat 28 25
    let q := ReqForm.pkt
      { opcode := 3, part := s.corePart c.val, tc := s.seqTc c.val (nbits i.toNat 31 31 == 1), src := s.selfId,
        dst := faEp (BitVec.ofNat 64 a), addr := BitVec.ofNat 64 a, scope := nbits i.toNat 30 29, sem := nbits i.toNat 14 13,
        w3 := mkWord [(3, 0, k), (5, 4, sz), (6, 6, b2n (iRd i == 0))],
        payload := (if k = 1 then leBytes n (h.x (iRd i)) else []) ++ leBytes n (h.x (iRs2 i)) }
    (iRd i ≠ 0 → a % n = 0 → exec (.ramo c t i) o = .next ((s.setThread c.val t.val
      { h.next4 with nextSeq := h.nextSeq + 1, wait := .reply h.nextSeq (iRd i) }).issueThread c.val t.val q
        (.thread c.val t.val h.nextSeq))) ∧
    (iRd i ≠ 0 → a % n ≠ 0 → exec (.ramo c t i) o = .next (s.blockEnd c.val t.val (iRd i) 0 stACCESS_DENIED)) ∧
    (iRd i = 0 → a % n = 0 → s.postFull c.val t.val = false → exec (.ramo c t i) o = .next ((s.setThread c.val t.val
      { h.next4 with nextSeq := h.nextSeq + 1, posted := h.posted ++ [(h.nextSeq, 1)] }).issueThread c.val t.val q
        (.thread c.val t.val h.nextSeq))) ∧
    (iRd i = 0 → a % n ≠ 0 → s.postFull c.val t.val = false → exec (.ramo c t i) o = .next ((s.setThread c.val t.val
      { h.next4 with nextSeq := h.nextSeq + 1, posted := h.posted ++ [(h.nextSeq, 1)] }).postedDone c.val t.val h.nextSeq
        stACCESS_DENIED))) ∧
  (∀ (c : Core) (t : Thread) (i : BitVec 32) (o : State), o.canIssue c t → iOp i = 0x5B → iF3 i = 5 → iTop i = 0 → iRs2 i = 0 →
    let s := o.issued c.val t.val true
    let h := s.thread c.val t.val
    let a := h.x (iRs1 i)
    let ws := bytesWords 4 (readBytes s.sq.mem (coreBase c.val + a) 32)
    let len := wb ws 2 20 0
    (∀ x, dataFault a 32 = some x → exec (.posttile c t i) o = .next (s.seqFault c.val t.val x)) ∧
    (a % 32 = 0 → 0x10000 ≤ a → a + 32 ≤ 0x30000 →
    let good := (wd ws 0).toNat % 64 = 0 ∧ (wd ws 1).toNat % 64 = 0 ∧ len % 64 = 0 ∧ 64 ≤ len ∧ len ≤ 0x100000
    (¬ good → exec (.posttile c t i) o = .next (s.setThread c.val t.val (h.next4.setX (iRd i) stACCESS_DENIED))) ∧
    (good → s.postFull c.val t.val = false → s.acquired c.val t.val = true →
      (s.tr.queued.filter (fun (m : Move) => m.mover == c.val % 64 && (match m.owner with | .thread .. => true | _ => false))).length < 64 →
      let m := newMove (c.val % 64) (s.corePart c.val) (wd ws 0) (wd ws 1) len (s.seqTc c.val (bit (wd ws 2) 21))
        (bit (wd ws 2) 41) (bit (wd ws 2) 42) (wb ws 2 40 24) (.thread c.val t.val h.nextSeq)
      exec (.posttile c t i) o = .next (({ s with tr := { s.tr with queued := s.tr.queued ++ [m] } } : State).setThread c.val t.val
        { (h.next4.setX (iRd i) 0) with nextSeq := h.nextSeq + 1, posted := h.posted ++ [(h.nextSeq, 2)] })))) ∧
  (∀ (c : Core) (t : Thread) (i : BitVec 32) (o : State), o.canIssue c t → iOp i = 0x5B → iF3 i = 6 → iTop i = 0 →
    let s := o.issued c.val t.val true
    let h := s.thread c.val t.val
    let a := h.x (iRs1 i)
    let r := h.x (iRs2 i)
    let n := s.corePart c.val
    let prod := s.get (RING_PROD_IDX n r)
    let open_ := (prod + 2 ^ 32 - s.get (RING_CONS_IDX n r)) % 2 ^ 32
    let w := s.locWrite (s.get (RING_BASE_LOC n r)) (s.get (RING_BASE_ADDR n r) * 4096 + 64 * (prod % s.ringSize n r))
      (readBytes s.sq.mem (coreBase c.val + a) 64)
    (∀ x, dataFault a 64 = some x → exec (.poststep c t i) o = .next (s.seqFault c.val t.val x)) ∧
    (a % 64 = 0 → 0x10000 ≤ a → a + 64 ≤ 0x30000 →
    (15 < r ∨ s.on (RING_BASE_EN n r) = false →
      exec (.poststep c t i) o = .next (s.blockEnd c.val t.val (iRd i) stACCESS_DENIED stACCESS_DENIED)) ∧
    (r ≤ 15 → s.on (RING_BASE_EN n r) = true → s.acquired c.val t.val = true → s.ringSize n r ≤ open_ →
      exec (.poststep c t i) o = .next (s.blockEnd c.val t.val (iRd i) stSTATE_CONFLICT stSTATE_CONFLICT)) ∧
    (r ≤ 15 → s.on (RING_BASE_EN n r) = true → s.acquired c.val t.val = true → open_ < s.ringSize n r → w.1 = true →
      exec (.poststep c t i) o =
        .next (((w.2.put (RING_PROD_IDX n r) (prod + 1)).ringFull n r).blockEnd c.val t.val (iRd i) 0 0)) ∧
    (r ≤ 15 → s.on (RING_BASE_EN n r) = true → s.acquired c.val t.val = true → open_ < s.ringSize n r → w.1 = false →
      ∃ v < 256, exec (.poststep c t i) o = .next (w.2.take.2.blockEnd c.val t.val (iRd i) v v)))) ∧
  (∀ (a n : Nat), n = 32 ∨ n = 64 → (a % n ≠ 0 → dataFault a n = some 4) ∧
    (a % n = 0 → a < 0x10000 ∨ 0x30000 < a + n → dataFault a n = some 5))

/-- Waits, counters and the end of a thread (R137, R327, R328, R334, R335, R343): `WAITLC` and `WAITBEAT` end at once when
their target is reached, and otherwise hold the thread until the counter, the beat or the limit ends them; `FENCE.S` holds it
while a request of its scope is open; `LCSET` and `LCREAD` reach the counters of the partition's share only; `HALT` takes the
thread out of the core's run mask once nothing that it posted is open. That `WAITBEAT` and `FENCE.S`, which end without a
reply, leave `seqst` OK is the model's reading (log 21, DEDUCED). -/
def Obligations.SequencerWaits : Prop :=
  (∀ (c : Core) (t : Thread) (i : BitVec 32) (r : State), r.canIssue c t → iOp i = 0x5B → iF3 i = 0 → iTop i = 0 →
    let s := r.issued c.val t.val true
    let h := s.thread c.val t.val
    let k := h.x (iRs1 i)
    let target := h.x (iRs2 i)
    let limit := if nbits h.seqwait 15 0 = 0 then none else some (nbits h.seqwait 15 0)
    exec (.waitlc c t i) r = .next (
      if s.lcShare (s.corePart c.val) k = false then s.blockEnd c.val t.val (iRd i) stACCESS_DENIED stACCESS_DENIED
      else if (s.counter k - BitVec.ofNat 64 target).toNat < 2 ^ 63 then s.blockEnd c.val t.val (iRd i) 0 0
      else s.setThread c.val t.val { h.next4 with wait := .lc k target limit (iRd i) })) ∧
  (∀ (c : Core) (t : Thread) (s : State) (k target rd : Nat) (lim : Option Nat),
    (s.thread c.val t.val).wait = .lc k target lim rd →
    ((s.counter k - BitVec.ofNat 64 target).toNat < 2 ^ 63 → exec (.waitlcWake c t) s = .next (s.endWaitlc c.val t.val rd 0)) ∧
    (lim = some 0 → (s.counter k - BitVec.ofNat 64 target).toNat < 2 ^ 63 →
      exec (.waitlcTimeout c t) s = .next (s.endWaitlc c.val t.val rd 0)) ∧
    (lim = some 0 → 2 ^ 63 ≤ (s.counter k - BitVec.ofNat 64 target).toNat →
      exec (.waitlcTimeout c t) s = .next ((s.bump SEQ_WAIT_TIMEOUT_COUNT).endWaitlc c.val t.val rd stTIMEOUT))) ∧
  (∀ (c : Core) (t : Thread) (i : BitVec 32) (r : State), r.canIssue c t → iOp i = 0x5B → iF3 i = 1 → iRs2 i = 0 →
    nbits i.toNat 31 26 = 0 →
    let s := r.issued c.val t.val true
    let h := s.thread c.val t.val
    exec (.waitbeat c t i) r = .next (
      if (s.reg TIME_BEAT_NOW - BitVec.ofNat 64 (h.x (iRs1 i))).toNat < 2 ^ 63 then s.blockEnd c.val t.val (iRd i) s.beat 0
      else s.setThread c.val t.val { h.next4 with wait := .beat (h.x (iRs1 i)) (nbits i.toNat 25 25 == 1) (iRd i) })) ∧
  (∀ (c : Core) (t : Thread) (s : State) (b rd : Nat) (adm : Bool), (s.thread c.val t.val).wait = .beat b adm rd →
    (s.reg TIME_BEAT_NOW - BitVec.ofNat 64 b).toNat < 2 ^ 63 →
    exec (.waitbeatWake c t) s =
      .next ((s.setThread c.val t.val { ((s.thread c.val t.val).setX rd s.beat) with seqst := 0, wait := .none }).wake c.val t.val)) ∧
  (∀ (c : Core) (t : Thread) (i : BitVec 32) (r : State), r.canIssue c t → iOp i = 0x5B → iF3 i = 2 → iRd i = 0 → iRs1 i = 0 →
    iRs2 i = 0 → nbits i.toNat 31 27 = 0 →
    let s := r.issued c.val t.val true
    exec (.fenceS c t i) r = .next (if s.drained c.val t.val (nbits i.toNat 26 25) = true then s.blockEnd c.val t.val 0 0 0
      else s.setThread c.val t.val { (s.thread c.val t.val).next4 with wait := .fence (nbits i.toNat 26 25) })) ∧
  (∀ (c : Core) (t : Thread) (i : BitVec 32) (r : State), r.canIssue c t → iOp i = 0x5B → iF3 i = 3 → iTop i = 0 →
    let s := r.issued c.val t.val true
    let h := s.thread c.val t.val
    exec (.lcset c t i) r = .next (if s.lcShare (s.corePart c.val) (h.x (iRs1 i)) = true
      then (s.lcPut (h.x (iRs1 i)) (BitVec.ofNat 64 (h.x (iRs2 i)))).blockEnd c.val t.val (iRd i) 0 0
      else s.blockEnd c.val t.val (iRd i) stACCESS_DENIED stACCESS_DENIED)) ∧
  (∀ (c : Core) (t : Thread) (i : BitVec 32) (r : State), r.canIssue c t → iOp i = 0x5B → iF3 i = 4 → iTop i = 0 → iRs2 i = 0 →
    let s := r.issued c.val t.val true
    let k := (s.thread c.val t.val).x (iRs1 i)
    exec (.lcread c t i) r = .next (if s.lcShare (s.corePart c.val) k = true
      then s.blockEnd c.val t.val (iRd i) (s.counter k).toNat 0 else s.blockEnd c.val t.val (iRd i) 0 stACCESS_DENIED)) ∧
  (∀ (c : Core) (t : Thread) (i : BitVec 32) (r : State), r.canIssue c t → iOp i = 0x5B → iF3 i = 7 → iTop i = 0 → iRd i = 0 →
    iRs1 i = 0 → iRs2 i = 0 →
    let s := r.issued c.val t.val true
    ((s.thread c.val t.val).posted = [] → ∃ u : State, exec (.halt c t i) r = .next u ∧
      (u.thread c.val t.val).running = false ∧ (u.get (SEQ_CORE_STATE_RUN_MASK c.val)).testBit t.val = false ∧
      (∀ k < 32, k ≠ t.val → (u.get (SEQ_CORE_STATE_RUN_MASK c.val)).testBit k =
        (s.get (SEQ_CORE_STATE_RUN_MASK c.val)).testBit k) ∧
      SameRegs s u [SEQ_CORE_STATE c.val] ∧ SameMem s u) ∧
    ((s.thread c.val t.val).posted ≠ [] →
      exec (.halt c t i) r = .next (s.setThread c.val t.val { s.thread c.val t.val with wait := .halting })))

/-- Every standard instruction of a sequencer thread completes with the effect that the RISC-V specifications give it (R327,
R329 to R331; log 20): integer arithmetic in both widths, loads, stores, reservations, atomics, jumps, branches and CSR
reads; a misaligned or outlying local access, a form that does not exist, `ECALL`, `EBREAK` and a fetch outside
instruction memory take their exceptions. -/
def Obligations.SequencerLocal : Prop :=
  ∀ (c : Core) (t : Thread) (r : State) (comp : Bool), r.ready c.val t.val = true →
  let s := r.issued c.val t.val false
  let h := s.thread c.val t.val
  let next := h.pc + (if comp then 2 else 4)
  (0x10000 < next → ∀ op : LocalOp, exec (.localAccess c t op comp) r = .next (s.seqFault c.val t.val exFetch)) ∧
  (next ≤ 0x10000 →
    (∀ (op : AluOp) (w : Bool) (rd rs1 rs2 : Fin 32), (w = false ∨ aluHasW op = true →
        exec (.localAccess c t (.alu op w rd rs1 rs2) comp) r =
          .next (s.setGo c.val t.val rd (aluRun op w (h.x rs1) (h.x rs2)) next)) ∧
      (w = true → aluHasW op = false →
        exec (.localAccess c t (.alu op w rd rs1 rs2) comp) r = .next (s.seqFault c.val t.val exIllegal))) ∧
    (∀ (op : AluOp) (w : Bool) (rd rs1 : Fin 32) (imm : BitVec 12), (aluImmOk op w imm.toNat = true →
        exec (.localAccess c t (.alui op w rd rs1 imm) comp) r =
          .next (s.setGo c.val t.val rd (aluRun op w (h.x rs1) (imm.signExtend 64).toNat) next)) ∧
      (aluImmOk op w imm.toNat = false →
        exec (.localAccess c t (.alui op w rd rs1 imm) comp) r = .next (s.seqFault c.val t.val exIllegal))) ∧
    (∀ rd rs1 rs2 : Fin 32,
      exec (.localAccess c t (.alu .add false rd rs1 rs2) comp) r =
        .next (s.setGo c.val t.val rd ((h.x rs1 % 2 ^ 64 + h.x rs2 % 2 ^ 64) % 2 ^ 64) next) ∧
      exec (.localAccess c t (.alu .mul true rd rs1 rs2) comp) r =
        .next (s.setGo c.val t.val rd (sext32 (h.x rs1 % 2 ^ 32 * (h.x rs2 % 2 ^ 32) % 2 ^ 32)) next) ∧
      (h.x rs2 % 2 ^ 64 = 0 →
        exec (.localAccess c t (.alu .div false rd rs1 rs2) comp) r = .next (s.setGo c.val t.val rd (2 ^ 64 - 1) next) ∧
        exec (.localAccess c t (.alu .remu false rd rs1 rs2) comp) r =
          .next (s.setGo c.val t.val rd (h.x rs1 % 2 ^ 64) next))) ∧
    (∀ (k : Fin 4) (u : Bool) (rd rs1 : Fin 32) (imm : BitVec 12),
      let a := addImm (h.x rs1) 12 imm.toNat
      let v := s.localRead c.val a (2 ^ k.val)
      (k.val = 3 → u = true →
        exec (.localAccess c t (.load k u rd rs1 imm) comp) r = .next (s.seqFault c.val t.val exIllegal)) ∧
      (¬ (k.val = 3 ∧ u = true) → a % 2 ^ k.val ≠ 0 →
        exec (.localAccess c t (.load k u rd rs1 imm) comp) r = .next (s.seqFault c.val t.val exLoadAlign)) ∧
      (¬ (k.val = 3 ∧ u = true) → a % 2 ^ k.val = 0 → 0x30000 < a + 2 ^ k.val →
        exec (.localAccess c t (.load k u rd rs1 imm) comp) r = .next (s.seqFault c.val t.val exLoad)) ∧
      (¬ (k.val = 3 ∧ u = true) → a % 2 ^ k.val = 0 → a + 2 ^ k.val ≤ 0x30000 →
        exec (.localAccess c t (.load k u rd rs1 imm) comp) r =
          .next (s.setGo c.val t.val rd (if u then v else ofSigned 64 (toSigned (8 * 2 ^ k.val) v)) next))) ∧
    (∀ (k : Fin 4) (rs1 rs2 : Fin 32) (imm : BitVec 12),
      let a := addImm (h.x rs1) 12 imm.toNat
      (a % 2 ^ k.val ≠ 0 →
        exec (.localAccess c t (.store k rs1 rs2 imm) comp) r = .next (s.seqFault c.val t.val exStoreAlign)) ∧
      (a % 2 ^ k.val = 0 → a < 0x10000 ∨ 0x30000 < a + 2 ^ k.val →
        exec (.localAccess c t (.store k rs1 rs2 imm) comp) r = .next (s.seqFault c.val t.val exStore)) ∧
      (a % 2 ^ k.val = 0 → 0x10000 ≤ a → a + 2 ^ k.val ≤ 0x30000 →
        ∃ u : State, exec (.localAccess c t (.store k rs1 rs2 imm) comp) r = .next u ∧ (u.thread c.val t.val).pc = x64 next ∧
          u.sq.mem = writeBytes s.sq.mem (coreBase c.val + a) (leBytes (2 ^ k.val) (h.x rs2)) ∧ SameRegs r u [] ∧
          u.hbm = r.hbm ∧ u.tu = r.tu)) ∧
    (∀ (d : Bool) (rd rs1 rs2 : Fin 32) (op : AmoOp), let a := h.x rs1
      let n := if d then 8 else 4
      (a % n ≠ 0 → exec (.localAccess c t (.lr d rd rs1) comp) r = .next (s.seqFault c.val t.val exLoadAlign) ∧
        exec (.localAccess c t (.sc d rd rs1 rs2) comp) r = .next (s.seqFault c.val t.val exStoreAlign) ∧
        exec (.localAccess c t (.amo op d rd rs1 rs2) comp) r = .next (s.seqFault c.val t.val exStoreAlign)) ∧
      (a % n = 0 → a + n ≤ 0x30000 → exec (.localAccess c t (.lr d rd rs1) comp) r =
        .next ((s.setThread c.val t.val { h with resv := some (a, n) }).setGo c.val t.val rd
          (ofSigned 64 (toSigned (8 * n) (s.localRead c.val a n))) next)) ∧
      (a % n = 0 → 0x10000 ≤ a → a + n ≤ 0x30000 →
        (h.resv ≠ some (a, n) → exec (.localAccess c t (.sc d rd rs1 rs2) comp) r =
          .next ((s.setThread c.val t.val { h with resv := none }).setGo c.val t.val rd 1 next)) ∧
        (h.resv = some (a, n) → ∃ u : State, exec (.localAccess c t (.sc d rd rs1 rs2) comp) r = .next u ∧
          (u.thread c.val t.val).resv = none ∧ (rd ≠ 0 → (u.thread c.val t.val).x rd = 0) ∧ SameRegs r u [] ∧
          u.sq.mem = writeBytes s.sq.mem (coreBase c.val + a) (leBytes n (h.x rs2))) ∧
        (∃ u : State, exec (.localAccess c t (.amo op d rd rs1 rs2) comp) r = .next u ∧
          (u.thread c.val t.val).pc = x64 next ∧ SameRegs r u [] ∧
          (rd ≠ 0 → (u.thread c.val t.val).x rd = ofSigned 64 (toSigned (8 * n) (s.localRead c.val a n))) ∧
          u.sq.mem = writeBytes s.sq.mem (coreBase c.val + a)
            (leBytes n (amoNew op (8 * n) (s.localRead c.val a n) (h.x rs2 % 2 ^ (8 * n))))))) ∧
    (∀ (rd rs1 rs2 : Fin 32) (i12 : BitVec 12) (i13 : BitVec 13) (i20 : BitVec 20) (i21 : BitVec 21) (op : BrOp),
      exec (.localAccess c t .fence comp) r = .next (s.goTo c.val t.val next) ∧
      exec (.localAccess c t (.lui rd i20) comp) r = .next (s.setGo c.val t.val rd (sext32 (i20.toNat * 4096)) next) ∧
      exec (.localAccess c t (.auipc rd i20) comp) r =
        .next (s.setGo c.val t.val rd (h.pc + sext32 (i20.toNat * 4096)) next) ∧
      exec (.localAccess c t (.jal rd i21) comp) r =
        .next (s.setGo c.val t.val rd next (addImm h.pc 21 (i21.toNat / 2 * 2))) ∧
      exec (.localAccess c t (.jalr rd rs1 i12) comp) r =
        .next (s.setGo c.val t.val rd next (addImm (h.x rs1) 12 i12.toNat / 2 * 2)) ∧
      exec (.localAccess c t (.branch op rs1 rs2 i13) comp) r =
        .next (s.goTo c.val t.val (if brTaken op (h.x rs1) (h.x rs2) then addImm h.pc 13 (i13.toNat / 2 * 2) else next))) ∧
    (∀ (rd : Fin 32) (k : BitVec 12),
      (∀ v, s.csr c.val t.val k.toNat = some v →
        exec (.localAccess c t (.csrr rd k) comp) r = .next (s.setGo c.val t.val rd v next)) ∧
      (s.csr c.val t.val k.toNat = none →
        exec (.localAccess c t (.csrr rd k) comp) r = .next (s.seqFault c.val t.val exIllegal))) ∧
    exec (.localAccess c t .ecall comp) r = .next (s.seqFault c.val t.val exCall) ∧
    exec (.localAccess c t .ebreak comp) r = .next (s.seqFault c.val t.val exBreak))

/-- The receiving side of a link (R25, R348 to R350, R356 to R358, R364, R366, R368): a codeword is decoded and counted; a
good block of the expected number is delivered and owes an `ACK`, any other owes one `NAK`; on a link not `ACTIVE` it counts
in its lane's evaluation and `TRAIN` flits alone are kept; a `NAK`ed block and every later one go out again on their lanes,
before what waits; a stomped packet is counted; and a link drops, with its cause, when its oldest block waits too long, its
light or its heartbeat goes, or its laser source fails. By the model's reading a good block out of order is discarded without
a further `NAK` while one is owed for the block that is due, and a bad one is answered again (log 65, DEDUCED). -/
def Obligations.LinkReception : Prop :=
  (∀ (p : Port) (lane : Fin 8) (flits : BitVec 5120) (slot : BitVec 20) (check : BitVec 300) (s : State),
    let d := fecDecode (fecJoin flits slot check)
    let u := s.fecCount p d
    let l := u.link p.val
    s.active p.val = true → (s.get (PORT_STATUS_LANES p)).testBit lane.val = true →
    (∀ m k, d = some (m, k) → nbits (fecSlot m) 19 11 = l.rxSeq → flitsOk l.due (fecFlits m) = true →
      let v := ((fecFlits m).foldl (fun (x : State) f => x.rxFlit p.val f)
        (u.setLink p.val { l with rxSeq := (l.rxSeq + 1) % 512, rxBad := false, ackDue := true })).ctlSlot p.val (fecSlot m)
      exec (.fecBlock p lane flits slot check) s = .next (if v.active p.val = true then v.flushLink p.val else v)) ∧
    (d = none ∨ (∃ m k, d = some (m, k) ∧ (nbits (fecSlot m) 19 11 = l.rxSeq ∧ flitsOk l.due (fecFlits m) = false ∨
        nbits (fecSlot m) 19 11 ≠ l.rxSeq ∧ l.rxBad = false)) →
      exec (.fecBlock p lane flits slot check) s = .next ((u.setLink p.val { l with rxBad := true, nakDue := true }).flushLink p.val)) ∧
    (∀ m k, d = some (m, k) → nbits (fecSlot m) 19 11 ≠ l.rxSeq → l.rxBad = true → exec (.fecBlock p lane flits slot check) s = .next u)) ∧
  (∀ (p : Port) (lane : Fin 8) (flits : BitVec 5120) (slot : BitVec 20) (check : BitVec 300) (s : State), s.active p.val = false →
    let d := fecDecode (fecJoin flits slot check)
    let u := (s.fecCount p d).evalCount p lane d
    exec (.fecBlock p lane flits slot check) s =
      .next (match d with | some (m, _) => rxIdle p.val 0 (fecFlits m) u | none => u)) ∧
  (∀ (p : Port) (s : State) (n : Nat), (s.link p.val).goBack = some n →
    let l := s.link p.val
    let keep := l.unacked.takeWhile (fun (b : TxBlock) => b.bseq != n)
    let again := (l.unacked.dropWhile (fun (b : TxBlock) => b.bseq != n)).map (fun (b : TxBlock) =>
      { b with sends := b.sends + 1, slot := resentSlot l.rxSeq b.slot })
    ∃ t : State, exec (.linkReplay p) s = .next (t.linkGo p.val) ∧
      t.out = s.out ++ again.mapIdx (fun i (b : TxBlock) =>
        Out.block p.val (s.laneOf p.val (l.sent + i)) (fecEncode b.flits b.slot)) ∧
      t.link p.val = { l with goBack := none, unacked := keep ++ again, sent := l.sent + again.length } ∧
      SameRegs s t [PORT_REPLAY_COUNT p] ∧ SameMem s t) ∧
  (∀ (p : Port) (s : State), s.active p.val = true →
    ((s.link p.val).unacked ≠ [] → exec (.ackTimeout p) s = .next (s.dropLink p.val 4)) ∧
    exec (.los p) s = .next (s.dropLink p.val 1) ∧
    ((s.link p.val).lastBeat + 8 ≤ s.edge → exec (.heartbeatLoss p) s = .next (s.dropLink p.val 2))) ∧
  (∀ (p : Port) (s : State) (rest : List RxItem), takeFirst (fun i => i == .stomp) (mget [] s.xb.rx p.val) = some (.stomp, rest) →
    ∃ t : State, exec (.stomp p) s = .next t ∧ mget [] t.xb.rx p.val = rest ∧ t.get (PORT_STATUS_STOMP p) = 1 ∧
      t.reg (PORT_STOMP_COUNT p) = (s.bump (PORT_STOMP_COUNT p)).reg (PORT_STOMP_COUNT p) ∧
      SameRegs s t [PORT_STOMP_COUNT p, PORT_STATUS p] ∧ SameMem s t) ∧
  (∀ (u : Fin 4) (present : Bool) (s : State), s.lsuSensed = true →
    exec (.lsuFail u present) s = .next ((List.range 96).foldl
      (fun (t : State) p => if lsuOf p == u.val && (t.portState p == 2 || t.portState p == 3) then t.dropLink p 1 else t)
      (s.setReg PORT_LSU (setBits (setBits (s.reg PORT_LSU) u u (b2n present)) (4 + u) (4 + u) 0))) ∧
    exec (.lsuReady u) s = .next (s.setReg PORT_LSU (setBits (setBits (s.reg PORT_LSU) u u 1) (4 + u) (4 + u) 1)))

/-- Training (R360, R362 to R366): light starts it, and it speaks first when a lane locks; `HELLO` records the peer and fails
the port on a wrong mode or a version without overlap; a speed step that both ends want is accepted and switched to with
preset taps, and any other settles the link; a tap request is answered; a lane passes where both ends see light, it locks and
65,536 codewords came with at most 8 corrected symbols; `READY` enters `ACTIVE`, as the last phase's timeout does (log 48,
DEDUCED); and `RETRAIN` and `DOWN` drop the link with cause 5. By the model's reading `HELLO` is sent at the first lane lock
(log 69, DEDUCED), its failures count no drop (log 67, DEDUCED), light starts nothing before phase 7 or without its laser
source (log 68, DEDUCED), and taps are free values (log 47). -/
def Obligations.LinkTraining : Prop :=
  (∀ (p : Port) (lanes : BitVec 8) (s : State), s.portState p.val = 1 → 7 ≤ s.phase → lanesOf lanes.toNat ≠ 0 →
    (s.get PORT_LSU_READY).testBit (lsuOf p.val) = true →
    ∃ t : State, exec (.lightDetect p lanes) s = .next t ∧ t.portState p.val = 2 ∧
      t.link p.val = { link0 with lit := lanes.toNat } ∧ SameMem s t) ∧
  (∀ (p : Port) (lane : Fin 8) (s : State), s.portState p.val = 2 → (s.link p.val).lit.testBit lane.val = true →
    let l := s.link p.val
    let u := s.setLink p.val { l with locked := Nat.lor l.locked (2 ^ lane.val), evals := merase l.evals lane.val }
    exec (.blockLock p lane) s = .next (if l.step = 0 then u.sendHello p.val else u.askTap p.val lane.val)) ∧
  (∀ (p : Port) (s u : State) (f : Flit), s.takeTrain p.val 1 = some (f, u) → u.portState p.val = 2 →
    let v := u.sendHello p.val
    let id := bits (fw f 0) 63 48
    let w := (v.put (PORT_STATUS_PEER_ID p) id).setReg (PORT_PEER_CAP p) (fw f 2)
    let ver := min (w.get (PORT_CFG_VER_CAP p)) (bits (fw f 1) 15 8)
    let fail := fun (x : State) c => ((x.linkOut p.val 4).put (PORT_STATUS_DROP_CAUSE p) c).flag (PORT_STATUS_MISMATCH p)
    let mode := if w.isAttach p.val then 2 else 1
    let l := { v.link p.val with peerLit := bits (fw f 1) 23 16, peerId := id, version := ver }
    (bits (fw f 0) 31 24 ≠ mode → exec (.hello p) s = .next (fail (w.say p.val 9 (v.link p.val).step 7 0 0) 7)) ∧
    (bits (fw f 0) 31 24 = mode → ver < 1 ∨ ver < bits (fw f 1) 7 0 → exec (.hello p) s = .next (fail w 8)) ∧
    (bits (fw f 0) 31 24 = mode → ¬ (ver < 1 ∨ ver < bits (fw f 1) 7 0) → exec (.hello p) s = .next (
      if lanesOf (Nat.land l.lit l.peerLit) = 0 then (w.setLink p.val l).dropLink p.val 9
      else (w.setLink p.val l).nextStep p.val))) ∧
  (∀ (p : Port) (s u : State) (f : Flit), s.takeTrain p.val 2 = some (f, u) → u.portState p.val = 2 →
    let k := bits (fw f 0) 17 16
    let l := u.link p.val
    exec (.speedReq p) s = .next (if k = l.step + 1 ∧ k ≤ 3 ∧ l.readySent = false
      then (u.setLink p.val { l with switchDue := true, phase := 1 }).say p.val 3 k 0 0 0
      else (u.say p.val 3 k 1 0 0).settle p.val)) ∧
  (∀ (p : Port) (s u : State) (f : Flit), s.takeTrain p.val 3 = some (f, u) → u.portState p.val = 2 →
    exec (.speedAck p) s = .next (if bits (fw f 0) 31 24 = 0 then u.setLink p.val { u.link p.val with switchDue := true }
      else u.settle p.val)) ∧
  (∀ (p : Port) (s : State), s.portState p.val = 2 → (s.link p.val).switchDue = true →
    ∃ t : State, exec (.speedSwitch p) s = .next t ∧ (t.link p.val).step = (s.link p.val).step + 1 ∧
      (t.link p.val).locked = 0 ∧ (t.link p.val).switchDue = false ∧ (t.link p.val).phase = 2 ∧
      SameRegs s t ((List.range 8).map (PORT_TAPS p.val)) ∧ SameMem s t) ∧
  (∀ (p : Port) (s u : State) (f : Flit), s.takeTrain p.val 4 = some (f, u) → u.portState p.val = 2 →
    let lane := bits (fw f 0) 15 8
    let step := bits (fw f 0) 17 16
    let action := bits (fw f 0) 27 26
    (8 ≤ lane ∨ action = 3 → exec (.tapReq p) s = .next (u.sendTrain p.val 5 lane step 2 0 0)) ∧
    (lane < 8 → action ≠ 3 → ∃ (t : State) (a : Nat), a ≤ 1 ∧ exec (.tapReq p) s = .next (t.sendTrain p.val 5 lane step a 0 0) ∧
      (a = 1 → t.regs = u.regs) ∧ SameRegs u t [PORT_TAPS p lane] ∧ SameMem u t)) ∧
  (∀ (p : Port) (s u : State) (f : Flit), s.takeTrain p.val 5 = some (f, u) → u.portState p.val = 2 →
    let lane := bits (fw f 0) 15 8 % 8
    exec (.tapRsp p) s =
      .next ((u.setLink p.val { u.link p.val with evals := merase (u.link p.val).evals lane }).askTap p.val lane)) ∧
  (∀ (p : Port) (step : Fin 4) (s : State), s.portState p.val = 2 → (s.link p.val).phase = 2 → (s.link p.val).step = step.val →
    mget 0 (s.link p.val).evalOwn (s.link p.val).step = 0 →
    let l := s.link p.val
    let lanes := setBitsOf 8 (Nat.land l.locked (Nat.land l.lit l.peerLit))
    (∀ i ∈ lanes, 65536 ≤ (mget ⟨0, 0, 0⟩ l.evals i).words) →
    let good := lanes.filter (fun i => (mget ⟨0, 0, 0⟩ l.evals i).bad == 0 && decide ((mget ⟨0, 0, 0⟩ l.evals i).worst ≤ 8))
    let m := (good.map (2 ^ ·)).sum
    exec (.laneEvaluation p step) s =
      .next (((s.setLink p.val { l with evalOwn := mset 0 l.evalOwn l.step (m + 1) }).say p.val 6 l.step m 0 0).evalDone p.val)) ∧
  (∀ (p : Port) (s u : State) (f : Flit), s.takeTrain p.val 6 = some (f, u) → u.portState p.val = 2 →
    let l := u.link p.val
    exec (.evalDone p) s = .next ((u.setLink p.val
      { l with evalPeer := mset 0 l.evalPeer (bits (fw f 0) 17 16) (bits (fw f 0) 31 24 + 1) }).evalDone p.val)) ∧
  (∀ (p : Port) (s u : State) (f : Flit), s.takeTrain p.val 7 = some (f, u) → u.portState p.val = 2 →
    exec (.ready p) s = .next (if (u.settle p.val).portState p.val = 2 then (u.settle p.val).activate p.val else u.settle p.val)) ∧
  (∀ (p : Port) (s : State), s.portState p.val = 2 →
    exec (.trainPhaseTimeout p) s = .next (if (s.link p.val).readySent = true then s.activate p.val else s.settle p.val)) ∧
  (∀ (p : Port) (s u : State) (f : Flit), u.portState p.val = 2 ∨ u.portState p.val = 3 →
    (s.takeTrain p.val 8 = some (f, u) → exec (.retrain p) s = .next (u.dropLink p.val 5)) ∧
    (s.takeTrain p.val 9 = some (f, u) → exec (.down p) s = .next (u.dropLink p.val 5)))

/-- Attach messages (R372 to R377, R155, R157, R546): a request whose port admits its partition is answered: a counter's wait
at once, at its target or at its limit, a counter's value, a line read as a load or a store of the accelerator; while the
internal ports are closed it is answered `TARGET_LOST`, and `ACCESS_DENIED` where its port does not let in its partition. The
owner's write-back is written at the home and any other agent's is counted and denied; answers to recalls reach the directory;
a message that no accelerator may send is counted and its credits return. By the model's reading an address inside a line
stands for its line (log 49, DEDUCED), and a discarded message returns the credits of its `MSG`'s class, or of requests (log
50, DEDUCED). -/
def Obligations.AttachMessages : Prop :=
  (∀ (p : Port) (s u : State) (x : AMsg), s.takeAttach p.val 0x10 = some (x, u) →
    (u.xb.closed = true → exec (.lcWait p) s = .next (u.sendAttach p.val 0x90 stTARGET_LOST x.id false x.part x.addr 0 none)) ∧
    (u.xb.closed = false → u.portAdmits p.val x.part = false →
      exec (.lcWait p) s = .next (u.sendAttach p.val 0x90 stACCESS_DENIED x.id false x.part x.addr 0 none)) ∧
    (u.xb.closed = false → u.portAdmits p.val x.part = true →
      let i := bits x.addr 16 0
      let l := u.link p.val
      exec (.lcWait p) s = .next (
        if u.lcShare x.part i = false then u.sendAttach p.val 0x90 stACCESS_DENIED x.id false x.part x.addr 0 none
        else if 256 ≤ l.lcWaits.length then u.sendAttach p.val 0x90 stPOOL_EMPTY x.id false x.part x.addr 0 none
        else if (u.counter i - x.value).toNat < 2 ^ 63 then
          u.sendAttach p.val 0x90 0 x.id false x.part x.addr (u.counter i) none
        else u.setLink p.val { l with lcWaits := l.lcWaits ++ [⟨x.id, x.part, i, x.value, x.limit, 0⟩] }))) ∧
  (∀ (p : Port) (id : Nat) (s : State) (w : LcWait) (rest : List LcWait),
    takeFirst (fun (w : LcWait) => w.id == id && w.limit != 0 && decide (w.limit ≤ w.edges)) (s.link p.val).lcWaits =
      some (w, rest) →
    exec (.lcWaitTimeout p id) s = .next ((s.setLink p.val { s.link p.val with lcWaits := rest }).sendAttach p.val 0x90 stTIMEOUT
      w.id false w.part (BitVec.ofNat 64 w.idx) (s.counter w.idx) none)) ∧
  (∀ (p : Port) (s u : State) (x : AMsg), s.takeAttach p.val 0x11 = some (x, u) → u.xb.closed = false →
    u.portAdmits p.val x.part = true →
    let ok := u.lcShare x.part (bits x.addr 16 0)
    exec (.attachLcRead p) s = .next (u.sendAttach p.val 0x91 (if ok then 0 else stACCESS_DENIED) x.id false x.part x.addr
      (if ok then u.counter (bits x.addr 16 0) else 0) none)) ∧
  (∀ (p : Port) (own : Bool) (s u : State) (x : AMsg), s.takeAttach p.val (if own then 0x21 else 0x20) = some (x, u) →
    u.xb.closed = false → u.portAdmits p.val x.part = true →
    let a := u.agentAt p.val
    let addr := BitVec.ofNat 64 (x.addr.toNat / 64 * 64)
    let q := ReqForm.pkt
      { opcode := 1, part := x.part, src := u.slotId (a + 1), dst := faEp addr, addr := addr, tag := x.id, w3 := 64 }
    let open_ := (u.get MEM_DIR_CONFIG_CACHE_EN).testBit a = true ∧ u.confidential x.part = false ∧ u.owns (faEp addr) = true
    exec (if own then .rdOwn p else .rdShared p) s = .next (
      if ¬ open_ then u.answer (.attach p a own x.part) q stACCESS_DENIED []
      else u.access (.attach p a own x.part) q (if own then 3 else 1) own)) ∧
  (∀ (p : Port) (s u : State) (x : AMsg) (e : DirEntry), s.takeAttach p.val 0x23 = some (x, u) → u.xb.closed = false →
    u.portAdmits p.val x.part = true → u.dirNamed (u.agentAt p.val) x = some e → e.recalling.testBit (u.agentAt p.val) = false →
    exec (.drop p) s = .next (u.dirAnswer e.line (u.agentAt p.val) none).dirSettle) ∧
  (∀ (p : Port) (s u : State) (x : AMsg), s.takeAttach p.val 0x22 = some (x, u) → u.xb.closed = false →
    let a := u.agentAt p.val
    let ack := fun (t : State) st => t.sendAttach p.val 0xA2 st x.id false x.part x.addr 0 none
    (∀ (e : DirEntry) (d : List Byte), u.dirNamed a x = some e → e.owned = true → x.data = some d →
      let v := u.hbmWrite (64 * e.line) (d.take 64)
      exec (.wb p) s = .next (ack (if e.recalling.testBit a then v else (v.dirAnswer e.line a none).dirSettle) 0)) ∧
    (u.dirNamed a x = none ∨ (∃ e : DirEntry, u.dirNamed a x = some e ∧ e.owned = false) →
      exec (.wb p) s = .next (ack ((u.flag MEM_DIR_STATUS_LATE_WB).bump MEM_DIR_LATE_WB_COUNT) stACCESS_DENIED))) ∧
  (∀ (p : Port) (s u : State) (x : AMsg) (e : DirEntry), u.xb.closed = false → u.dirNamed (u.agentAt p.val) x = some e →
    e.recalling.testBit (u.agentAt p.val) = true →
    (s.takeAttach p.val 0x30 = some (x, u) →
      exec (.recallRsp p) s = .next (u.dirAnswer e.line (u.agentAt p.val) x.data).dirSettle) ∧
    (s.takeAttach p.val 0x31 = some (x, u) →
      exec (.invalRsp p) s = .next (u.dirAnswer e.line (u.agentAt p.val) none).dirSettle)) ∧
  (∀ (p : Port) (s u : State) (x : AMsg), s.takeAttach p.val 0x32 = some (x, u) → exec (.resetAck p) s = .next u) ∧
  (∀ (p : Port) (s u : State) (f : Flit) (d : Option Flit),
    s.takeRx p.val isAttachItem = some (.attach f d, u) →
    s.isAttach p.val = false ∨ fromAccel (attachMsg f d).msg = false →
    exec (.attachDiscard p) s =
      .next ((u.bump (PORT_ATTACH_DISCARD_COUNT p)).returnAttach p.val (attachClass (attachMsg f d).msg) d))

/-- The CXL link and host-managed device memory (R381 to R385, R539): the link goes down once, with its width and rate 0 and
the loss counted, whether by itself or by `PERST_N`; it comes up with a width and a rate while `PERST_N` is high; a host
access to an open unit of HBM4E begins an operation of partition 0, and one to a closed unit is denied, counted, and reads
all ones; and the host driver programs the decoder with a base and the size of 256 GiB and commits it, by the registers that
log 94 (PRESUMED, the model's choice) gives the decoder. -/
def Obligations.CxlAndHostMemory : Prop :=
  (∀ s : State, s.cxlUp = true → ∃ t : State,
    exec .cxlLinkDown s = .next (t.bump GLOBAL_CXL_DOWN_COUNT).hostWaitsLost.t3Lost.ringsFull ∧ t.cxlUp = false ∧
      t.get GLOBAL_CXL_STATUS_LANES = 0 ∧ t.get GLOBAL_CXL_STATUS_RATE = 0 ∧ OnlyRegs s t [GLOBAL_CXL_STATUS]) ∧
  (∀ s : State, s.cxlUp = false → exec .cxlLinkDown s = .next s) ∧
  (∀ (x16 gt64 : Bool) (s : State), 6 ≤ s.phase → s.rs.perst = false → s.cxlUp = false →
    ∃ t : State, exec (.cxlLinkUp x16 gt64) s = .next t ∧ t.cxlUp = true ∧
      t.get GLOBAL_CXL_STATUS_LANES = (if x16 = true then 16 else 8) ∧ t.get GLOBAL_CXL_STATUS_RATE = (if gt64 = true then 2 else 1) ∧ SameMem s t) ∧
  (∀ (low : Bool) (s : State), let u : State := { s with rs := { s.rs with perst := low } }
    exec (.perstN low) s = .next (if low then u.cxlDown else u)) ∧
  (∀ (pa len : Nat) (wr : Option (List Byte)) (ca : Bool) (s : State), s.hostOpen = true → s.hdmClaims pa = true → 0 < len →
    let addr := pa - s.hm.hdmBase
    addr % 64 + len ≤ 64 →
    (s.hdmClosed (addr / 2 ^ 30) = true → exec (.hdmAccess pa len wr ca) s =
      .next (((s.flag GLOBAL_CXL_STATUS_HDM_DENIED).bump GLOBAL_HDM_DENIED_COUNT).emit
        (if wr.isSome then .hdmDone addr false else .hdmData addr (List.replicate len 0xFF) false))) ∧
    (s.hdmClosed (addr / 2 ^ 30) = false →
      let q := ReqForm.pkt
        { opcode := if wr.isSome then 2 else 1, part := 0, src := s.slotId 5, dst := s.selfId, addr := BitVec.ofNat 64 addr,
          w3 := if wr.isSome then 0 else BitVec.ofNat 64 len,
          payload := match wr with | some d => (d ++ List.replicate len 0).take len | none => [] }
      exec (.hdmAccess pa len wr ca) s = .next (s.startOp (.hdm ca) q ⟨0, len, 0, addr, 0, []⟩))) ∧
  (∀ (i : Nat) (v : Word) (s : State), i < 3 → s.hostOpen = true → s.on GLOBAL_BOOT_STATUS_HALTED = false →
    let off := 8 * (0xE0202 + Config.hdmDecoder % 0x1F0 + i)
    let t : State := { s with hm := { s.hm with hdmRegs := mset 0 s.hm.hdmRegs i v } }
    s.on GLOBAL_CXL_STATUS_HDM_COMMITTED = false →
    (i < 2 → exec (.registerWrite off v) s = .next t) ∧
    (i = 2 → bit v 9 = true → (mget 0 s.hm.hdmRegs 1).toNat = 2 ^ 38 → ∃ u : State, exec (.registerWrite off v) s = .next u ∧
      u.hm = { t.hm with hdmBase := bits (mget 0 s.hm.hdmRegs 0) 63 28 * 2 ^ 28 } ∧
      u.get GLOBAL_CXL_STATUS_HDM_COMMITTED = 1 ∧ SameRegs s u [GLOBAL_CXL_STATUS] ∧ SameMem s u) ∧
    (i = 2 → bit v 9 = false → exec (.registerWrite off v) s = .next (t.put GLOBAL_CXL_STATUS_HDM_COMMITTED 0)))

/-- Partitions (R413 to R420, R431): creation makes a free or scrubbed partition active, with its policy and, for a
confidential one, its key; its state is read back; a Sparge turns an active partition `SPARGING`, clears it, and ends no
sooner than its least duration, with its count, its duration and its new state; destruction takes every share; and the restart
of the service firmware ends the commands in progress but three with `TIMEOUT` and is counted. Which commands are applied at
the restart is told by the row (log 134, DESIGN CHOICE), which run on is the model's reading (log 82, DEDUCED), and so is what
phase 1 of a Sparge ends, in which order (log 83, DEDUCED), and the rounding of the least duration (log 84). -/
def Obligations.Partitions : Prop :=
  (∀ (m : Mbx) (s : State), let n := s.selPart m
    bit (s.arg m 0) 0 = false → s.mbReady { primary 0xB01 2 true with kept := true } m (decide (s.cmdLen m = 2)) → n ≠ 0 →
    s.get (PART_STATE_STATE n) ≠ 1 → s.get (PART_STATE_STATE n) ≠ 2 →
    ∃ u : State, exec (.partCreate m) s = .next (u.mbComplete m 0 0 []) ∧ u.get (PART_STATE_STATE n) = 1 ∧
      u.get (PART_STATE_POLICY n) = 0 ∧ u.get (PART_STATE_CREATED_BEAT n) = s.beat % 2 ^ 40 ∧ mget 0 u.pa.created n = s.beat ∧
      SameRegs s u [PART_STATE n] ∧ SameMem s u) ∧
  (∀ (m : Mbx) (s : State), let n := s.selPart m
    bit (s.arg m 0) 0 = true → s.mbReady { primary 0xB01 2 true with kept := true } m (decide (s.cmdLen m = 20)) → n ≠ 0 →
    s.get (PART_STATE_STATE n) ≠ 1 → s.get (PART_STATE_STATE n) ≠ 2 →
    match s.unwrapKey n ((List.range 18).map (fun i => s.cmd m (3 + i))) [s.cmd m 1, s.cmd m 2] with
    | some k => ∃ u : State, exec (.partCreate m) s = .next (u.mbComplete m 0 0 []) ∧ u.get (PART_STATE_STATE n) = 1 ∧
        u.get (PART_STATE_POLICY n) = 1 ∧ mget none u.pa.keys n = some k ∧ SameRegs s u [PART_STATE n] ∧ SameMem s u
    | none => exec (.partCreate m) s = .next (s.mbComplete m stACCESS_DENIED 0 [])) ∧
  (∀ (m : Mbx) (s : State), s.mbReady { tenant 0xB04 1 with kept := true } m true →
    exec (.partGet m) s = .next (s.mbComplete m 0 0 [s.reg (PART_STATE (s.selPart m)), s.reg (PART_SPARGE_INFO (s.selPart m))])) ∧
  (∀ (m : Mbx) (s : State), let n := s.selPart m
    s.mbReady (primary 0xB02 2 true) m true → (∀ x ∈ s.pa.sparges, x.mbx ≠ m) → s.get (PART_STATE_STATE n) = 1 →
    let x : Sparge := ⟨n, bit (s.arg m 0) 0 || s.confidential n, m, s.on (MB_STATUS_BUSY n), false, 0⟩
    let u := s.put (PART_STATE_STATE n) 2
    let v := ({ u with pa := { u.pa with sparges := u.pa.sparges ++ [x] } } : State).dropStepsOf
      (fun y => y.part == n && dType (wd y.words 0) == 4)
    exec (.partSparge m) s = .next (if x.closing = true then v
      else { v.spargeQuiet x with hm := { (v.spargeQuiet x).hm with running := (v.spargeQuiet x).hm.running ++ [m.val] } })) ∧
  (∀ (n : Part) (d : Nat) (s : State) (x : Sparge), s.pa.sparges.find? (fun x => x.part == n.val) = some x → x.quiet = true →
    (∀ o ∈ s.tr.ops, Pkt.part o.2.pkt ≠ n) → (∀ e ∈ s.dir, s.dirMine n e = false) → s.rs.core = false → x.mbx ∉ s.hm.held →
    s.spargeLeast x ≤ d →
    ∃ t : State, exec (.spargeComplete n d) s = .next (t.mbComplete x.mbx 0 0 [BitVec.ofNat 64 (d % 2 ^ 32)]) ∧
      t.get (PART_STATE_STATE n) = (if n.val = 0 then 1 else 3) ∧ t.get (PART_STATE_HBM_SCRUB n) = b2n x.hbm ∧
      t.get (PART_SPARGE_INFO_DURATION n) = d % 2 ^ 32 ∧ ∀ y ∈ t.pa.sparges, y.part ≠ n) ∧
  (∀ (m : Mbx) (s : State), let n := s.selPart m
    s.mbReady (primary 0xB03 1 true) m true → n ≠ 0 → s.get (PART_STATE_STATE n) = 3 →
    exec (.partDestroy m) s = .next (((s.zeroShares n).put (PART_STATE_STATE n) 0).mbComplete m 0 0 [])) ∧
  (∀ (applied : List (Mbx × Reply)) (s : State),
    let ms := s.hm.order.filter (fun m => s.on (MB_STATUS_BUSY m) && !([0xB02, 0xB06, 0xE02] : List Nat).contains (s.cmdOp m))
    exec (.svcWatchdog applied) s = .next (((ms.foldl (fun t m => t.mbEnd applied m) s).flag PART_STATUS_SVC_RESTART).bump
      PART_SVC_RESTART_COUNT)) ∧
  (∀ s : State, ∃ t : State,
    exec (.svcWatchdog []) s = .next ((t.flag PART_STATUS_SVC_RESTART).bump PART_SVC_RESTART_COUNT) ∧ SameMem s t ∧
    (∀ m < 33, s.cmdOp m = 0xB02 ∨ s.cmdOp m = 0xB06 ∨ s.cmdOp m = 0xE02 → t.get (MB_STATUS_BUSY m) = s.get (MB_STATUS_BUSY m)) ∧
    (∀ m < 33, m ∈ s.hm.order → s.cmdOp m ≠ 0xB02 → s.cmdOp m ≠ 0xB06 → s.cmdOp m ≠ 0xE02 →
      t.get (MB_STATUS_BUSY m) = 0))

/-- Images, attestation, calibration and readouts (R435 to R441, R492, R515 to R520): an image that verifies is staged and one
that fails, or whose bytes cannot be read, leaves none; a commit waits for a write of the calibration store, and writes the
flash and, as told, the security version; the report and the certificates; the calibration store read, checked and written
with its count; and the Cask's latest readout, certificate and log. By the model's reading a commit that reads back clears
`FW_INVALID` (log 79, DEDUCED), a bulk read that fails leaves no image staged (log 80, DEDUCED), a certificate is cut at the
end of its response (log 81, DEDUCED), and the head of the calibration store is kept as log 97 says. -/
def Obligations.FirmwareAndCalibration : Prop :=
  (∀ (m : Mbx) (a : Reply) (s : State) (bs : List Byte), 
    s.mbReady { primary 0xB05 3 with kept := true, units := locUnits (s.bulkLoc m), bulk := true } m (s.bulkOk m) →
    s.on PART_STATUS_WRITING = false → s.bulkRead m a = .ok bs →
    exec (.fwStage m a) s = .next (if s.imageStatus bs = 0
      then (({ s with pa := { s.pa with staged := some bs } } : State).put PART_STATUS_STAGED 1).mbComplete m 0 0
        [wd (bytesWords 64 (bs.take 512)) 1, wd (bytesWords 64 (bs.take 512)) 5]
      else (({ s with pa := { s.pa with staged := none } } : State).put PART_STATUS_STAGED 0).mbComplete m (s.imageStatus bs) 0 [])) ∧
  (∀ (m : Mbx) (a : Reply) (s : State) (st : Nat),
    s.mbReady { primary 0xB05 3 with kept := true, units := locUnits (s.bulkLoc m), bulk := true } m (s.bulkOk m) →
    s.on PART_STATUS_WRITING = false → s.bulkRead m a = .error st →
    let u := ({ s with pa := { s.pa with staged := none } } : State).put PART_STATUS_STAGED 0
    exec (.fwStage m a) s = .next ((if s.bulkLoc m = 0 then u.hbmUncorr (s.bulkAddr m / 2 ^ 36 % 4) else u).mbComplete m st 0 [])) ∧
  (∀ (m : Mbx) (s : State), s.mbReady { primary 0xB06 2 with kept := true } m true → s.rs.calWrite ≠ none →
    exec (.fwCommit m) s = .next s) ∧
  (∀ (m : Mbx) (s : State) (bs : List Byte), s.mbReady { primary 0xB06 2 with kept := true } m true → s.pa.staged = some bs →
    bit (s.arg m 0) 0 = false ∨ wb (bytesWords 2 (bs.take 16)) 1 31 0 ≤ 255 → s.rs.calWrite = none →
    let t := ({ s with pa := { s.pa with commit := some (m, bit (s.arg m 0) 0) } } : State).put PART_STATUS_WRITING 1
    exec (.fwCommit m) s = .next { t with hm := { t.hm with running := t.hm.running ++ [m.val] } }) ∧
  (∀ (s : State) (m : Nat) (adv : Bool), s.pa.commit = some (m, adv) →
    let u := ({ s with pa := { s.pa with commit := none } } : State).put PART_STATUS_WRITING 0
    let svn := wb (bytesWords 2 ((s.pa.staged.getD []).take 16)) 1 31 0
    let v := ({ u with pa := { u.pa with flash := u.pa.staged } } : State).put PART_STATUS_FW_INVALID 0
    (exec (.fwCommitDone false) s =
      .next ((({ u with pa := { u.pa with flash := some [] } } : State).flag PART_STATUS_FW_INVALID).mbComplete m stPARITY 0 [])) ∧
    (exec (.fwCommitDone true) s = .next (State.mbComplete (if adv = true ∧ s.get PART_SVN_FUSED_SVN < svn ∧ svn ≤ 255
      then v.put PART_SVN_FUSED_SVN svn else v) m 0 0 []))) ∧
  (∀ (m : Mbx) (s : State), let kind := bits (s.arg m 0) 1 0
    let spec : MbSpec := { tenant 0xB07 (if kind = 0 then 8 else 2) with naming := false, kept := true }
    s.mbReady spec m true → exec (.attestGet m) s = .next (s.mbComplete m 0 0 (if kind = 0
      then signWords s.attestKey (s.reportWords (s.cmdPart spec m) ((List.range 6).map (fun i => s.cmd m (3 + i))))
      else certWords (Config.certLen (s.certKey kind) kind) ((List.range (min 1008 (Config.certLen (s.certKey kind) kind))).map
        (Config.certByte (s.certKey kind) kind))))) ∧
  (∀ (m : Mbx) (s t : State), let k := s.cmdIdx m
    s.mbReady { primary 0xE01 3 with kept := true, units := locUnits (s.bulkLoc m), bulk := true } m
      (decide (k ≤ 3) && s.bulkOk m) → (calSection k).2 ≤ s.bulkLen m →
    s.bulkWrite m (s.calBytes k) = (0, t) → exec (.calRead m) s = .next (t.mbComplete m 0 0 [])) ∧
  (∀ (m : Mbx) (a : Reply) (s : State) (bs : List Byte), let k := s.cmdIdx m
    s.mbReady { primary 0xE02 3 with kept := true, units := locUnits (s.bulkLoc m), bulk := true } m
      (decide (k < 3) && s.bulkOk m) → s.bulkLen m = (calSection k).2 →
    s.on PART_STATUS_WRITING = false → s.bulkRead m a = .ok bs →
    (bytesWords ((calSection k).2 / 8) bs).all (calReserved k) = true →
    let t := ({ s with rs := { s.rs with calWrite := some (m, k, bs) } } : State).put CAL_STATUS_WRITING 1
    exec (.calWrite m a) s = .next { t with hm := { t.hm with running := t.hm.running ++ [m.val] } }) ∧
  (∀ (s : State) (m k : Nat) (bs : List Byte), s.rs.calWrite = some (m, k, bs) → k < 3 →
    (∃ t : State, exec (.calWriteDone false) s = .next (t.mbComplete m stPARITY 0 []) ∧ t.get CAL_STATUS_WRITE_FAIL = 1 ∧
      t.get CAL_STATUS_WRITING = 0 ∧ t.rs.calWrite = none ∧ t.rs.store = s.rs.store ∧ SameRegs s t [CAL_STATUS] ∧ SameMem s t) ∧
    (let h := s.rs.storeHead.getD (s.get CAL_STATUS_FACTORY, s.rd CAL_WRITE_COUNT)
      ∃ t : State, exec (.calWriteDone true) s = .next (t.mbComplete m 0 0 []) ∧ t.get CAL_STATUS_WRITING = 0 ∧
      t.rs.calWrite = none ∧ t.rd CAL_WRITE_COUNT = (h.2 + 1) % 2 ^ 32 ∧ t.rs.calNew = s.rs.calNew.erase k ++ [k] ∧
      t.rs.storeHead = some ((setBits (BitVec.ofNat 64 h.1) k k 0).toNat, (h.2 + 1) % 2 ^ 32) ∧
      (t.get CAL_STATUS_FACTORY).testBit k = false ∧ SameRegs s t [CAL_STATUS, CAL_WRITE_COUNT] ∧ SameMem s t)) ∧
  (∀ (m : Mbx) (s : State), let mode := bits (s.arg m 0) 1 0
    let spec : MbSpec := { tenant 0xD01 2 with naming := false, kept := true, units := [GLOBAL_OPTIONS_CASK_PRESENT] }
    s.mbReady spec m (decide (mode < 3)) → s.on CASK_STATUS_LINK_UP = true →
    (mode = 0 → s.on CASK_STATUS_READOUT_VALID = true → exec (.caskReadout m) s =
      .next (s.mbComplete m 0 0 (s.reg CASK_READOUT_BEAT :: (List.range 24).map (fun w => s.reg (CASK_READOUT w))))) ∧
    (mode = 1 → s.on CASK_STATUS_CERT_VALID = true →
      exec (.caskReadout m) s = .next (s.mbComplete m 0 0 (certWords s.sh.cert.length s.sh.cert))) ∧
    (∀ l, mode = 2 → s.sh.log = some l → let es := (l.drop (s.cmdIdx m)).take 60
      exec (.caskReadout m) s = .next (s.mbComplete m 0 0 (BitVec.ofNat 64 es.length :: es.flatMap (fun e => [e.1, e.2])))))

/-- The power governor's events (R451, R458, R541): a grant's last beat ends it; without an answer the module goes solo and
counts; the alert sets its throttle, takes the ballast off, counts and gives the grant back, and its end makes the envelope
the draw of the last beat and a kept cap the cap; and one of the 32 sensors at 100 °C, with its offset, sets `HOT`, counted
once, until every one of them is below 95 °C. The readings of the sensors are operands (log 44, DESIGN CHOICE). -/
def Obligations.PowerGovernor : Prop :=
  (∀ (s : State) (g : Ramp), s.pg.grant = some g → g.stop ≤ s.beat → ∃ t : State, exec .grantEnd s = .next t ∧ t.pg.grant = none ∧
    t.get PGOV_STATUS_GRANT_ACTIVE = 0 ∧ t.get PGOV_GRANT_SLOPE = 0 ∧ SameRegs s t [PGOV_STATUS, PGOV_GRANT_SLOPE.key] ∧
    SameMem s t) ∧
  (∀ (s : State) (q e b : Nat), s.pg.asked = some (q, e, b) → b + s.get PGOV_CONFIG_ARB_WAIT ≤ s.edge →
    ∃ t : State, exec .arbWaitExpire s = .next t ∧ t.pg.asked = none ∧ t.pg.solo = true ∧
      t.pg.askAt = s.edge + s.get PGOV_CONFIG_ARB_WAIT ∧ t.get PGOV_STATUS_ARB_TIMEOUT = 1 ∧
      t.reg PGOV_ARB_TIMEOUT_COUNT = (s.bump PGOV_ARB_TIMEOUT_COUNT).reg PGOV_ARB_TIMEOUT_COUNT ∧
      SameRegs s t [PGOV_STATUS, PGOV_ARB_TIMEOUT_COUNT] ∧ SameMem s t) ∧
  (∀ s : State, s.on PGOV_STATUS_ALERT = false → s.rs.por = false → s.rs.level ≠ 2 →
    ∃ t : State, exec .pwrCapAlert s = .next t.rampDone ∧ t.get PGOV_STATUS_THROTTLE = s.get PGOV_CONFIG_ALERT_THROTTLE ∧
      t.get TUN_STATUS_BALLAST_DUTY = 0 ∧ t.get PGOV_STATUS_ALERT = 1 ∧ t.get PGOV_STATUS_ALERT_SEEN = 1 ∧
      t.reg PGOV_ALERT_COUNT = (s.bump PGOV_ALERT_COUNT).reg PGOV_ALERT_COUNT ∧
      OnlyRegs s t [PGOV_STATUS, TUN_STATUS, PGOV_ALERT_COUNT]) ∧
  (∀ s : State, s.on PGOV_STATUS_ALERT = true →
    let e := s.get PGOV_POWER_MEASURED * 1000
    let u := (s.put PGOV_STATUS_ALERT 0).setEnv e
    u.pg.env = e ∧ u.get PGOV_STATUS_ALERT = 0 ∧
    (s.pg.capKept = none → exec .pwrCapAlertEnd s = .next u) ∧
    (∀ w, s.pg.capKept = some w → ∃ t : State, exec .pwrCapAlertEnd s = .next t ∧ t.get PGOV_CAP_CAP = w % 65536 ∧
      t.pg = { u.pg with capKept := none } ∧ SameMem s t)) ∧
  (∀ (v : List (BitVec 16)) (s : State) (i : Nat), s.rs.por = false → i < 32 → 6400 ≤ s.sensorTemp v i →
    ∃ t : State, exec (.hotEnter v) s = .next t ∧ t.get GLOBAL_THERMAL_HOT = 1 ∧
      t.get GLOBAL_THERMAL_JUNCTION_MAX = ofSigned 16 (s.junctionMax v) ∧
      t.reg GLOBAL_HOT_COUNT = (if s.on GLOBAL_THERMAL_HOT then s else s.bump GLOBAL_HOT_COUNT).reg GLOBAL_HOT_COUNT ∧
      OnlyRegs s t [GLOBAL_THERMAL, GLOBAL_HOT_COUNT]) ∧
  (∀ (v : List (BitVec 16)) (s : State), s.on GLOBAL_THERMAL_HOT = true → (∀ i < 32, s.sensorTemp v i < 6080) →
    ∃ t : State, exec (.hotExit v) s = .next t ∧ t.get GLOBAL_THERMAL_HOT = 0 ∧
      t.get GLOBAL_THERMAL_JUNCTION_MAX = ofSigned 16 (s.junctionMax v) ∧
      OnlyRegs s t [GLOBAL_THERMAL])

/-- Control messages and the ramp arbiter (R455 to R466): a module first in its own view long enough acts; it grants a ramp
that fits below the rack's slope, or answers busy; a grant, a busy and a done message change the asker's and the arbiter's
records; an expulsion is granted while the budget lasts, carried out when granted, and leaves a mark when denied or not
answered; notices mark endpoints lost, fenced or neither; and `OWNED` fills the sender's peer entry. By the model's reading a
request for a port names its peer (log 24, DEDUCED), a part of a beat counts as one (log 77, DEDUCED), an answer must carry
the tag of the open request (log 109, DEDUCED), a `RAMP_BUSY` of the acting arbiter ends the wait (log 78, DEDUCED), and
`OWNED` lists the identifiers in the order of the slots (log 26, DEDUCED). -/
def Obligations.ControlMessages : Prop :=
  (∀ (s : State) (b : Nat), s.pg.firstSince = some b → b + s.rd PGOV_GRANT_MAX_LEN ≤ s.edge → s.on PGOV_STATUS_ARB_ACTING = false →
    exec .arbiterTakeover s =
      .next (({ s with pg := { s.pg with actingAt := some s.tm.clock } } : State).put PGOV_STATUS_ARB_ACTING 1)) ∧
  (∀ (s v : State) (m : List Word), s.takesCtl 1 m v →
    let u := v.arbAge
    let rack := u.rd PGOV_RACK_SLOPE_UP
    let slope := min (wb m 1 63 32) rack
    let len := u.rampBeats (wb m 1 31 0) slope
    let t0 := u.beat + u.get PGOV_CONFIG_ARB_LEAD
    let fits := fun t => slopeFits u.pg.ledger rack slope t len
    (u.on PGOV_STATUS_ARB_ACTING = false ∨ 64 ≤ u.pg.ledger.length →
      exec .rampReq s = .next (u.sendCtl (ctSender m) { type := 3, req := ctReq m })) ∧
    (u.on PGOV_STATUS_ARB_ACTING = true → u.pg.ledger.length < 64 → fits t0 = true →
      let r : Ramp := ⟨ctSender m, ctReq m, t0, t0 + len, slope⟩
      exec .rampReq s = .next ((({ u with pg := { u.pg with ledger := u.pg.ledger ++ [r] } } : State).bump
        PGOV_ARB_GRANTS_OUT).sendCtl (ctSender m) { type := 2, req := ctReq m, slope := slope, start := t0, length := len }))) ∧
  (∀ (s v : State) (m : List Word) (q e b : Nat), v.pg.asked = some (q, e, b) → q = ctReq m →
    (s.takesCtl 2 m v →
      let g : Ramp := ⟨e, q, (wd m 2).toNat, (wd m 2).toNat + wb m 3 31 0, wb m 1 63 32⟩
      exec .rampGrant s = .next ((({ v with pg := { v.pg with asked := none, solo := false, grant := some g } } : State).bump
        PGOV_GRANT_COUNT).showRamp)) ∧
    (s.takesCtl 3 m v → v.arbiter = some e → exec .rampBusy s = .next { v with
        pg := { v.pg with asked := none, solo := false, askAt := v.edge + v.get PGOV_CONFIG_ARB_WAIT, skip := 0 } })) ∧
  (∀ (s v : State) (m : List Word), s.takesCtl 4 m v → ∃ t : State, exec .rampDone s = .next t ∧ t.regs = v.regs ∧
    t.pg.ledger = v.pg.ledger.filter (fun r => !(r.ep == ctSender m && r.req == ctReq m)) ∧ SameMem v t) ∧
  (∀ (s v : State) (m : List Word), s.takesCtl 5 m v →
    let u := v.arbAge
    (∀ t, u.on PGOV_STATUS_ARB_ACTING = true → u.pg.actingAt = some t → t + span600 ≤ u.tm.clock →
      u.pg.expels.length < u.get HEALTH_CONFIG_EXPEL_BUDGET → exec .expelReq s =
        .next (({ u with pg := { u.pg with expels := u.pg.expels ++ [u.tm.clock] } } : State).arbAge.sendCtl (ctSender m)
          { type := 6, req := ctReq m })) ∧
    (u.on PGOV_STATUS_ARB_ACTING = false ∨ u.get HEALTH_CONFIG_EXPEL_BUDGET ≤ u.pg.expels.length →
      exec .expelReq s = .next (u.sendCtl (ctSender m) { type := 7, req := ctReq m }))) ∧
  (∀ (s v : State) (m : List Word) (a : Expel) (rest : List Expel),
    takeFirst (fun (a : Expel) => a.req == ctReq m) v.he.asks = some (a, rest) →
    let u : State := { v with he := { v.he with asks := rest } }
    (s.takesCtl 6 m v → exec .expelGrant s = .next (if u.canExpel a.peer a.idx = false then u
      else if a.peer = true then (u.fencePeer a.idx).bump HEALTH_EXPEL_COUNT else u.isolate a.idx)) ∧
    (s.takesCtl 7 m v → exec .expelDeny s = .next (u.suspect a.peer a.idx))) ∧
  (∀ s : State, let late := fun (a : Expel) => decide (a.beat + s.get PGOV_CONFIG_ARB_WAIT ≤ s.edge)
    exec .expelAnswerTimeout s = .next ((s.he.asks.filter late).foldl (fun (t : State) a => t.suspect a.peer a.idx)
      { s with he := { s.he with asks := s.he.asks.filter (fun a => !late a) } })) ∧
  (∀ (s v : State) (m : List Word),
    (s.takesCtl 8 m v → exec .noticeLost s = .next ((ctSubject m :: ctList m).foldl (fun (t : State) e => t.markLost e) v)) ∧
    (s.takesCtl 9 m v → exec .noticeFenced s = .next ((ctSubject m :: ctList m).foldl (fun (t : State) e => t.markFenced e) v)) ∧
    (s.takesCtl 10 m v → (∀ i < 96, v.get (HEALTH_PEER_A_STATE i) ≠ 2 ∧ v.get (HEALTH_PEER_A_STATE i) ≠ 3) →
      exec .noticeReadmit s = .next (((ctSubject m :: ctList m).filter (fun e => e != 0 && e != 0xFFFF)).foldl
        (fun (t : State) e => t.unmark e) v))) ∧
  (∀ (s v : State) (m : List Word) (i : Nat), s.takesCtl 11 m v →
    (List.range 96).find? (fun i => v.get (HEALTH_PEER_A_STATE i) != 0 && v.get (HEALTH_PEER_A_PEER_EP i) == ctSender m) = some i →
    let ep := fun i => (ctList m).getD i 0xFFFF
    exec .owned s = .next ((v.setReg (HEALTH_PEER_B i)
      (mkWord [(15, 0, ep 1), (31, 16, ep 2), (47, 32, ep 3), (63, 48, ep 4)])).put (HEALTH_PEER_C_OWNED_HOST i) (ep 5)))

/-- Health (R459 to R468, R473, R474): a peer without a link for the hold time is lost and announced, events leave the scores
ten buckets after theirs; and the mailbox commands set the governor, its cap and the budgets, isolate a port or fence a peer,
and take a port or a peer back, a fenced one under its current epoch only. By the model's reading the time of a peer's death
and the end of a bucket are vouched for by the rows (log 110, DEDUCED), and a score above 65,535 shows as that (log 72,
DEDUCED). -/
def Obligations.Health : Prop :=
  (∀ (i : Port) (s : State) (b : Nat), mget none s.he.downAt i.val = some b → s.get (HEALTH_PEER_A_STATE i.val) = 1 →
    b + s.get HEALTH_CONFIG_DEAD_HOLD ≤ s.edge → (∀ p ∈ s.peerPorts i.val, s.active p = false) →
    let u := s.put (HEALTH_PEER_A_STATE i.val) 2
    let v : State := { u with he := { u.he with downAt := mset none u.he.downAt i.val none } }
    exec (.peerDead i) s = .next ((((v.peerSet i.val).foldl (fun (t : State) e => t.markLost e) v).flag
      HEALTH_STATUS_LOST_SEEN).peerNotice i.val 8 0)) ∧
  (∀ s : State, ∃ t : State, exec .gravityBucketExpire s = .next t ∧ t.he.bucket = s.he.bucket + 1 ∧
    t.he.events = s.he.events.filter (fun e => decide (s.he.bucket + 1 < e.bucket + 10)) ∧ SameMem s t ∧
    ∀ p < 96, t.get (HEALTH_PORT_GRAVITY_GRAVITY p) =
      min (((t.he.events.filter (fun e => e.kind == 0 && e.idx == p)).map (·.weight)).sum) 65535) ∧
  (∀ (m : Mbx) (s : State), let a := s.arg m
    s.mbReady { primary 0xC01 9 with kept := true } m
      (decide (1 ≤ bits (a 0) 63 48) && decide (1 ≤ bits (a 0) 20 16) && decide (bits (a 0) 20 16 ≤ 16)) →
    ∃ t : State, exec (.pgovSet m) s = .next (t.arbView.mbComplete m 0 0 []) ∧ t.reg PGOV_SLOPE_UP = a 1 ∧
      t.reg PGOV_SLOPE_DOWN = a 2 ∧ t.reg PGOV_CAP_SLEW = a 3 ∧ t.reg PGOV_SOLO_SLOPE = a 4 ∧ t.reg PGOV_RACK_SLOPE_UP = a 5 ∧
      t.reg PGOV_GRANT_MAX_LEN = a 6 ∧ t.reg PGOV_ARB_LIST = a 7 ∧ t.reg PGOV_CONFIG = (s.setMask PGOV_CONFIG 0xFFFFFFFF001FFFFF (a 0)).reg PGOV_CONFIG ∧
      OnlyRegs s t [PGOV_CONFIG, PGOV_SLOPE_UP, PGOV_SLOPE_DOWN, PGOV_CAP_SLEW, PGOV_SOLO_SLOPE, PGOV_RACK_SLOPE_UP,
        PGOV_GRANT_MAX_LEN, PGOV_ARB_LIST]) ∧
  (∀ (m : Mbx) (s : State), s.mbReady { primary 0xC02 2 with kept := true } m true →
    (s.on PGOV_STATUS_ALERT = true → exec (.pgovCapSet m) s =
      .next (({ s with pg := { s.pg with capKept := some (bits (s.arg m 0) 15 0 % 65536) } } : State).mbComplete m 0 0 [])) ∧
    (s.on PGOV_STATUS_ALERT = false → exec (.pgovCapSet m) s =
      .next (((s.put PGOV_CAP_CAP (bits (s.arg m 0) 15 0)).capLag).mbComplete m 0 0 []))) ∧
  (∀ (m : Mbx) (s : State), s.mbReady { primary 0xC05 2 with kept := true, minor := 2 } m true →
    ∃ t : State, exec (.healthBudgetSet m) s = .next (t.mbComplete m 0 0 []) ∧
      t.reg HEALTH_CONFIG = (s.setMask HEALTH_CONFIG 0x1FFFFFFFFFFF (s.arg m 0)).reg HEALTH_CONFIG ∧ t.he = s.he ∧ SameMem s t) ∧
  (∀ (m : Mbx) (s : State), let i := s.cmdIdx m
    let peer := bit (s.arg m 0) 0
    let spec := fun (op : Nat) =>
      { primary op 2 with kept := true, units := if peer then [] else [⟨GLOBAL_OPTIONS, 8 + i / 8, 8 + i / 8⟩] }
    (s.mbReady (spec 0xC04) m (decide (i < 96)) →
      (peer = true → s.get (HEALTH_PEER_A_STATE i) = 1 → exec (.healthIsolate m) s =
        .next (((s.fencePeer i).bump HEALTH_EXPEL_COUNT).mbComplete m 0 0 [])) ∧
      (peer = true → s.get (HEALTH_PEER_A_STATE i) ≠ 1 → exec (.healthIsolate m) s =
        .next (s.mbComplete m stSTATE_CONFLICT scPEER_NOT_LIVE [])) ∧
      (peer = false → s.portState i ≠ 5 → s.portState i ≠ 0 →
        exec (.healthIsolate m) s = .next ((s.isolate i).mbComplete m 0 0 []))) ∧
    (s.mbReady (spec 0xC03) m (decide (i < 96)) →
      (peer = true → s.get (HEALTH_PEER_A_STATE i) = 3 → exec (.healthReadmit m) s = .next (
        if bits (s.arg m 0) 63 32 = s.get (HEALTH_PEER_C_EPOCH i) then (s.readmit i).mbComplete m 0 0 []
        else s.mbComplete m stSTATE_CONFLICT scFENCE_EPOCH_STALE [])) ∧
      (peer = false → s.portState i = 5 → exec (.healthReadmit m) s =
        .next (((s.put (PORT_STATUS_STATE i) 1).clearGravity false i).mbComplete m 0 0 []))))

/-- Resets (R497 to R505, R528, R529, R541): a core reset is counted with its beat and puts every register that it clears at
its power-on value; its end lets the store be empty and the held commands go on; a system reset keeps the Cask, the straps and
the flash, holds `MGMT_INT_N`, and leaves each enabled port in `DETECT`; power-on reset, a thermal trip, an open breaker and a
charge of the hot-swap stage leave what `PoweredOff` says and the output pins at their levels (R504, R532), the middle two
until the input cycles; and bring-up starts with the straps sampled, with a full boot unless the boot record is valid (R513),
at once or, where `RESET_N` is low at the release, when it ends, which counts no reset (R503). By the model's reading a module
off stays off until its input has fallen and risen (log 103, DEDUCED), the time of a reset is vouched for by its row (log
110), and `P3V3_AUX` after a power-on reset is on or off by a free bit (log 168). -/
def Obligations.Resets : Prop :=
  (∀ s : State, s.rs.por = false → s.rs.level = 0 → ∃ t : State, exec .coreReset s = .next t ∧ t.rs.level = 1 ∧ t.rs.core = true ∧
    t.get GLOBAL_RESET_CAUSE_CORE_SEEN = 1 ∧ t.get GLOBAL_RESET_CAUSE_LAST = 2 ∧ t.reg GLOBAL_CORE_RESET_BEAT = s.reg TIME_BEAT_NOW ∧
    t.st.steps = [] ∧ t.tr.entries = [] ∧ t.xb.closed = true ∧
    ∀ k, (regInfoOf k.id).coreKeep = 0 → k ≠ GLOBAL_RESET_CAUSE → k ≠ GLOBAL_CORE_RESET_BEAT → t.reg k = porWord k.id k.idx) ∧
  (∀ s : State, s.rs.por = true ∨ s.rs.level ≠ 0 → exec .coreReset s = .next s) ∧
  (∀ s : State, s.rs.core = true → s.rs.level = 0 → s.rs.por = false →
    ∃ t : State, exec .internalPortsReopen s = .next t.poolServe.ringsFull.dirSettle ∧ t.rs.core = false ∧ t.tu.store = [] ∧
      t.tu.scale = [] ∧ t.hm.held = [] ∧ t.xb.closed = decide (s.phase ≠ 9) ∧ t.hbm = s.hbm ∧ t.sq = s.sq) ∧
  (∀ s : State, s.rs.por = false → s.rs.level ≠ 2 → ∃ t : State, exec .systemReset s = .next t ∧ t.rs.level = 2 ∧ t.rs.por = false ∧
    t.get GLOBAL_RESET_CAUSE_SYS_SEEN = 1 ∧ t.get GLOBAL_RESET_CAUSE_LAST = 1 ∧ t.hbm = [] ∧ t.tu.store = [] ∧ t.sq.mem = [] ∧
    t.ck = s.ck ∧ t.rs.boot = s.rs.boot ∧ t.rs.store = s.rs.store ∧ t.rs.mgmtAddr = s.rs.mgmtAddr ∧
    t.mgmtIntN = s.mgmtIntN ∧ t.out = s.out ++ [.pin "RESET_N" .low] ∧
    (∀ k, (regInfoOf k.id).sysKeep = 0 → k ∉ [PART_SVN, POOL_FREE 0, POOL_LOW_MARK 0, GLOBAL_STRAPS, GLOBAL_RESET_CAUSE] →
      (∀ p, k ≠ PORT_STATUS p) → t.reg k = porWord k.id k.idx) ∧
    (s.WF → ∀ p < 96, t.portState p = if s.on (PORT_CFG_ENABLE p) then 1 else 0)) ∧
  (∀ s : State,
    let full := decide (s.rs.boot.crc ≠ crc32 s.rs.boot.bytes ∨ s.rs.boot.serial ≠ s.reg GLOBAL_SERIAL ∨ s.rs.boot.full = true)
    let up : State := { s with rs := { s.rs with por := false, level := 0, pinHeld := false, intHeld := none, full := full } }
    (s.rs.por = true → s.rs.pinHeld = false → exec .resetEnd s = .next s) ∧
    (s.rs.por = true → s.rs.pinHeld = true → exec .resetEnd s = .next up) ∧
    (s.rs.por = false → s.rs.level = 0 → exec .resetEnd s = .next s) ∧
    (s.rs.por = false → s.rs.level = 1 → exec .resetEnd s =
      .next ((({ s with rs := { s.rs with level := 0 } } : State).emit (.pin "RESET_N" .low)).emit (.pin "RESET_N" .released))) ∧
    (s.rs.por = false → s.rs.level = 2 → exec .resetEnd s = .next (up.emit (.pin "RESET_N" .released))) ∧
    (∀ (src mode : BitVec 2) (pins : PorPins), s.rs.por = true → s.rs.off = false → s.rs.pinHeld = false →
      let u := ((up.put GLOBAL_STRAPS_BOOT_SRC src.toNat).put GLOBAL_STRAPS_CLK_MODE mode.toNat).put GLOBAL_STRAPS_CLK_ACTIVE mode.toNat
      let v : State := { u with rs := { u.rs with mgmtAddr := pins.addr.toNat, aux := true } }
      exec (.porRelease src mode pins) s =
        .next (if pins.resetLow then { v with rs := { s.rs with mgmtAddr := pins.addr.toNat, aux := true, pinHeld := true } } else v))) ∧
  (∀ (s t : State) (aux : PinLevel), exec .powerOnReset s = .next t ∧ aux = (if t.rs.aux then .on else .off) ∨
      exec .thermalTrip s = .next t ∧ s.rs.por = false ∧ aux = .off ∨ exec .breakerOpen s = .next t ∧ aux = .off ∨
      exec .hotSwapCharge s = .next t ∧ aux = .on →
    PoweredOff s t ∧ t.out = s.out ++ [.pin "RESET_N" .released, .pin "MGMT_SDA" .released, .pin "MGMT_INT_N" .released,
      .pin "UART_TX" .high, .pin "TDO" .floating, .pin "P3V3_AUX" aux]) ∧
  (∀ s : State, (∃ t : State, exec .powerOnReset s = .next t ∧ t.rs.off = s.rs.off ∧ (s.rs.off = true → t.rs.aux = false)) ∧
    (s.rs.por = false → ∃ t : State, exec .thermalTrip s = .next t ∧ t.rs.off = true ∧ t.get GLOBAL_THERMAL_TRIP_SEEN = 1) ∧
    (∃ t : State, exec .breakerOpen s = .next t ∧ t.rs.off = true) ∧ ∃ t : State, exec .hotSwapCharge s = .next t ∧ t.rs.off = false)

/-- Bring-up (R348, R439, R505 to R517): a phase that fails halts with its cause; an image that verifies (`State.imageStatus`
answers 0 for its bytes, a UART image's CRC matches, and no read of host memory ended in error) runs, its versions and hashes
shown, and one that does not sends the ROM to the next source, as 30 s without a transfer do; the clock phase puts the
calibration in force and senses the laser sources; the phases follow in order, a fast boot applying the repairs of its boot
record and writing one for a new repair, `HOLD` waiting for the release; and the compute phase loads the costs, maps the
columns, writes the boot record of a full boot and ends bring-up. A wrong CRC or an error of the host's memory fails the image
(log 133, DEDUCED), the phases of a recovery are shown as log 92 (DEDUCED) says, the record is written, and the columns are
tested, as logs 96, 102 and 165 say, and the calibration store passes or not as the row tells (log 97). -/
def Obligations.Bringup : Prop :=
  (∀ (line host : List Byte) (crc : Option (BitVec 32)) (ok : Bool) (s : State), s.booting = true → s.rs.transfer = true →
    (s.rs.wait = some 1 → let bs := host.take (s.get GLOBAL_BOOT_HOST_LEN_LEN)
      let r := if s.imageStatus bs = 0 ∧ ok = true then s.bootImage 1 bs else s.nextSource
      exec (.imageTransferEnd line crc host ok) s = .next r ∧ exec (.imageTransferStall line crc host ok) s = .next r) ∧
    (s.rs.wait = some 2 → let bs := line.take s.rs.imageLen
      let r := if s.imageStatus bs = 0 then s.bootImage 2 bs else s.nextSource
      (crc = none → exec (.imageTransferStall line crc host ok) s = .next r ∧
        exec (.imageTransferEnd line crc host ok) s = .next s.nextSource) ∧
      (∀ c, crc = some c → exec (.imageTransferEnd line crc host ok) s = .next (if c.toNat = crc32 bs then r else s.nextSource) ∧
        exec (.imageTransferStall line crc host ok) s = exec (.imageTransferEnd line crc host ok) s)) ∧
    (s.rs.wait = some 3 → s.rs.imageLen ≠ 0 → s.rs.asked = 0 → s.rs.want ≤ s.rs.next →
      let bs := readBytes s.rs.image 0 (min s.rs.imageLen s.rs.next)
      exec (.imageTransferEnd line crc host ok) s = .next (
        if s.imageStatus bs = 0 then s.bootDrop.bootImage 3 bs else s.nextSource))) ∧
  (∀ (s : State) (src : Nat) (bs : List Byte), src < 4 →
    let t := s.bootImage src bs
    let h := bytesWords 64 (bs.take 512)
    t.reg PART_FW = wd h 5 ∧ t.get PART_SVN_IMAGE_SVN = bits (wd h 1) 31 0 ∧ t.get PART_SVN_KEY_SLOT = bits (wd h 0) 51 48 ∧
      t.get GLOBAL_BOOT_STATUS_SOURCE = src ∧ t.get PART_STATUS_RECOVERED = b2n (src != 0) ∧ t.phase = 1 ∧ t.rs.wait = none ∧
      t.pa.hashes = (List.range 3).map (fun k => Config.sha384 (slice bs (section_ h k).1 (section_ h k).2))) ∧
  (∀ (s : State) (k : Nat), s.rs.wait = some k → 0 < k → s.booting = true → s.rs.transfer = false →
    exec .bootSourceWaitExpire s = .next (s.trySource ((k + 1) % 4))) ∧
  (∀ s : State, s.booting = true →
    (s.phase = 0 → exec (.bringupPhaseEnd .romSelftest) s = .next (s.haltBoot 4)) ∧
    (∀ bytes : List Byte, s.phase = 0 → s.rs.wait = none →
      let bs := s.pa.flash.getD bytes
      let u : State := { s with pa := { s.pa with flash := some bs } }
      exec (.bringupPhaseEnd (.image bytes)) s =
        .next (if u.imageStatus bs = 0 then u.bootImage 0 bs else u.trySource (s.get GLOBAL_STRAPS_BOOT_SRC))) ∧
    (∀ (store : Bool) (f : BitVec 3) (wr : BitVec 32) (pr re : BitVec 4), s.phase = 1 →
      (s.get GLOBAL_STRAPS_CLK_MODE = 3 → ∀ b : Bool, exec (.bringupPhaseEnd (.clock b store f wr pr re)) s = .next (s.haltBoot 1)) ∧
      (s.get GLOBAL_STRAPS_CLK_MODE = 0 → exec (.bringupPhaseEnd (.clock false store f wr pr re)) s = .next (s.haltBoot 2)) ∧
      (s.get GLOBAL_STRAPS_CLK_MODE ≤ 1 → ∃ t : State, exec (.bringupPhaseEnd (.clock true store f wr pr re)) s = .next t ∧
        t.phase = 2 ∧ t.rs.wire = true ∧ t.rs.sensed = true ∧ t.get CAL_STATUS_VALID = b2n (store && !s.rs.storeBad) ∧
        t.get PORT_LSU_PRESENT = pr.toNat ∧ t.get PORT_LSU_READY = Nat.land pr.toNat re.toNat ∧
        t.get GLOBAL_STRAPS_CLK_ACTIVE = s.get GLOBAL_STRAPS_CLK_MODE) ∧
      (s.get GLOBAL_STRAPS_CLK_MODE = 2 → ∀ b : Bool, ∃ t : State,
        exec (.bringupPhaseEnd (.clock b store f wr pr re)) s = .next t ∧ t.phase = 2 ∧
        t.get GLOBAL_STRAPS_CLK_ACTIVE = if (List.range 96).any (fun p => s.active p && !s.isAttach p) then 2 else 1)) ∧
    (s.phase = 2 → exec (.bringupPhaseEnd .sramBad) s = .next (s.haltBoot 3)) ∧
    (∀ faults : List Nat, s.phase = 2 →
      let more := (faults.filter (fun x => !s.rs.boot.sram.contains x)).eraseDups
      let all := if s.rs.full then faults.eraseDups else s.rs.boot.sram ++ more
      let u : State := { s with rs := { s.rs with sram := all } }
      let v := (if s.rs.full = true ∨ more = [] then u else u.putRecord { s.rs.boot with sram := all }).endSram
      exec (.bringupPhaseEnd (.sram faults)) s = .next v) ∧
    (s.phase = 2 → exec (.bringupPhaseEnd .pass) s = exec (.bringupPhaseEnd (.sram [])) s) ∧
    (s.rs.wait = none → s.endSram = s.setPhase (if s.on GLOBAL_OPTIONS_HBM_PRESENT then 3 else 5)) ∧
    (s.rs.wait = some 1 → s.endSram = s.setPhase 5) ∧ (s.rs.wait = some 3 → s.endSram = s.reachHold) ∧
    (s.phase = 3 → exec (.bringupPhaseEnd .pass) s = .next (s.setPhase 4)) ∧
    (∀ (ok : BitVec 4) (rows : List (Nat × Nat)), s.phase = 4 →
      let u : State := { s with rs := { s.rs with rows := if s.rs.full then rows else s.rs.rows } }
      exec (.bringupPhaseEnd (.hbm4e ok rows)) s = .next ((u.put MEM_HBM_STATUS_IN_SERVICE ok.toNat).setPhase 5)) ∧
    (∀ up x16 gt64 : Bool, s.phase = 5 →
      let u := if up && !s.rs.perst then s.cxlTrained x16 gt64 else s
      exec (.bringupPhaseEnd (.cxl up x16 gt64)) s =
        .next (if s.rs.wait = some 1 then u.flag GLOBAL_BOOT_STATUS_WAIT_CXL else u.reachHold)) ∧
    (s.phase = 7 → s.rs.wait = none → exec (.bringupPhaseEnd .pass) s = .next s.startCompute) ∧
    (∀ (cols : List (BitVec 10)) (a b : Nat), s.phase = 8 → s.rs.core = false →
      exec (.bringupPhaseEnd (.compute cols a b)) s = .next (s.endCompute cols a b))) ∧
  (∀ s : State, s.reachHold = if s.on GLOBAL_BOOT_STATUS_RELEASED = true then (s.setPhase 6).leaveHold else s.setPhase 6) ∧
  (∀ (s : State) (cols : List (BitVec 10)) (a b : Nat), s.rs.full = true → ∃ t : State, s.endCompute cols a b = t.ringsFull ∧
    t.phase = 9 ∧ t.xb.closed = false ∧ t.get GLOBAL_BOOT_STATUS_DONE = 1 ∧ t.get GLOBAL_RESET_CAUSE_FULL_BOOT = 1 ∧
    (∀ i < 17, t.rd (TIME_COST i) = costTable.getD i 0) ∧
    (let id := if s.bootValid then s.rs.boot.selfId else s.selfId
      let r : BootRecord := { selfId := id, cols := cols, sram := s.rs.sram, rows := s.rs.rows, serial := s.reg GLOBAL_SERIAL }
      t.rs.boot = { r with crc := crc32 r.bytes }) ∧
    t.get TUN_REPAIR_B_COUNT = min 9 (columnMap cols).length)

/-- The Cask's own events (R475 to R489, R494): a sample under the calibration in force (log 45: two opaque functions) adds
its energy to one register and each 0.1 Wh gives a pulse; the second's end signs and sends a readout with the sequence number,
the seconds and both energies; status frames are sent, and in the gaps behind them the certificate and the event log in turn
(log 164), each with its CRC-32; a loss of supply logs event 1, keeps both energies to the mJ and uses the `SEQ` of a readout
that is being formed (log 163), which is not sent; a start logs event 2; and clock faults, the cover and overranges are logged
as R481 says. A start that fails its self-test, and parts of a unit, follow logs 8 and 85. -/
def Obligations.CaskEvents : Prop :=
  (∀ (v : Sample) (s : State), s.ck.running = true → ∃ t : State, exec (.caskSample v) s = .next t ∧
    let m : Sample := { v with mv := Config.caskVolt s.ck.calWords v.mv, ma := Config.caskAmp s.ck.calWords v.ma }
    t.ck.accIn = s.ck.accIn + ((m.mv : Int) * m.ma).toNat ∧ t.ck.accOut = s.ck.accOut + (-((m.mv : Int) * m.ma)).toNat ∧
    t.ck.calEn = v.calEn ∧ t.ck.window.getLast? = some m ∧
    t.ck.pulses = t.ck.accIn / 16000000 / 360000 ∧ t.regs = s.regs ∧
    t.out = s.out ++ (List.replicate (t.ck.pulses - s.ck.pulses) [Out.pin "CASK_PULSE" .low, Out.pin "CASK_PULSE" .released]).flatten) ∧
  (∀ s : State, s.ck.running = true → 16000 ≤ s.ck.since → ∃ (t : State) (ws : List Word),
    exec .signedReadout s = .next ((t.setCask { t.ck with readout := signWords 1 ws }).emit
      (.caskFrame (.readout (signWords 1 ws)) (crc32 (wordsBytes (signWords 1 ws))))) ∧
    t.ck = { s.ck with since := s.ck.since - 16000, seconds := s.ck.seconds + 1, seq := s.ck.seq + 1 } ∧ ws.length = 12 ∧
    wd ws 0 = mkWord [(31, 0, 0x43410001), (47, 32, 1)] ∧ wd ws 1 = BitVec.ofNat 64 s.ck.serial ∧
    wd ws 3 = BitVec.ofNat 64 (s.ck.seq + 1) ∧ wd ws 4 = BitVec.ofNat 64 (s.ck.seconds + 1) ∧
    wd ws 5 = BitVec.ofNat 64 (s.ck.accIn / 16000000) ∧ wd ws 6 = BitVec.ofNat 64 (s.ck.accOut / 16000000) ∧
    bits (wd ws 8) 63 32 = s.ck.eventCount % 2 ^ 32 ∧ t.regs = s.regs ∧ SameMem s t) ∧
  (∀ s : State, s.ck.running = true → ∃ (t : State) (w7 w8 w9 : Word), exec .statusFrameSend s =
    .next (t.emit (.caskFrame (.status (BitVec.ofNat 64 s.ck.seq) (BitVec.ofNat 64 s.ck.seconds) (BitVec.ofNat 64 (s.ck.accIn / 16000000))
      (BitVec.ofNat 64 (s.ck.accOut / 16000000)) w7 w8 w9) (crc32 (wordsBytes [BitVec.ofNat 64 s.ck.seq, BitVec.ofNat 64 s.ck.seconds,
      BitVec.ofNat 64 (s.ck.accIn / 16000000), BitVec.ofNat 64 (s.ck.accOut / 16000000), w7, w8, w9])))).caskGap ∧
    t.ck = s.ck ∧ t.regs = s.regs ∧ SameMem s t) ∧
  (∀ s : State, let n := (s.ck.frames + 1) % 2000
    let t := s.setCask { s.ck with frames := n }
    let log := s.ck.logWords
    (n = 1000 → s.caskGap =
      t.emit (.caskFrame (.cert caskCert) (crc32 (leBytes 2 caskCert.length ++ caskCert)))) ∧
    (n = 0 → s.caskGap = t.emit (.caskFrame (.log log) (crc32 (wordsBytes (log.flatMap (fun e => [e.1, e.2])))))) ∧
    (n ≠ 0 → n ≠ 1000 → s.caskGap = t)) ∧
  (∀ s : State, s.ck.running = true → ∃ t : State, exec .caskPowerDown s = .next t ∧ t.ck.running = false ∧ t.rs.off = false ∧
    t.ck.accIn / 16000000 = s.ck.accIn / 16000000 ∧ t.ck.accOut / 16000000 = s.ck.accOut / 16000000 ∧
    t.ck.seq = (if 16000 ≤ s.ck.since then s.ck.seq + 1 else s.ck.seq) ∧
    t.ck.seconds = (if 16000 ≤ s.ck.since then s.ck.seconds + 1 else s.ck.seconds) ∧ t.out = s.out ∧
    t.ck.log.getLast? = some (1, t.ck.seconds, s.ck.eventCount) ∧ t.ck.eventCount = s.ck.eventCount ∧ t.ck.cal = s.ck.cal ∧ t.ck.readout = [] ∧ t.regs = s.regs) ∧
  (∀ s : State, s.ck.running = false → exec .caskPowerDown s = .next { s with rs := { s.rs with off := false } }) ∧
  (∀ (ok : Bool) (s : State), s.ck.running = false → ∃ t : State, exec (.caskPowerUp ok) s = .next t ∧ t.ck.running = true ∧
    t.ck.log.getLast? = some (if ok then 2 else 8, s.ck.seconds, s.ck.eventCount) ∧ t.ck.accIn = s.ck.accIn ∧ t.regs = s.regs) ∧
  (∀ (ppm : Int) (s : State), s.ck.running = true → ∃ t : State, exec (.clockFault ppm) s = .next t ∧ t.ck.ppm = ppm ∧
    t.ck.log = (if 10000 < ppm ∨ ppm < -10000 then s.ck.logEvent 7 false else s.ck).log ∧ t.ck.eventCount = s.ck.eventCount ∧
    t.regs = s.regs) ∧
  (∀ s : State, s.ck.running = true →
    (s.ck.tamper = false → exec .tamperOpen s = .next (s.setCask (({ s.ck with tamper := true } : CaskU).logEvent 3 true))) ∧
    (s.ck.tamper = true → exec .tamperOpen s = .next s) ∧
    (s.ck.tamper = true → exec .tamperClose s = .next (s.setCask (({ s.ck with tamper := false } : CaskU).logEvent 4 false))) ∧
    exec .overrange s = .next (s.setCask (({ s.ck with high := true, overAt := some s.ck.count } : CaskU).logEvent 9 false))) ∧
  (∀ (c : CaskU) (code : Nat) (counted : Bool), (c.logEvent code counted).log.length ≤ 64 ∧
    (c.logEvent code counted).eventCount = if counted then min 0xFFFFFFFF (c.eventCount + 1) else c.eventCount)

/-- The Cask's two-wire interface (R482, R483, R485, R488): while the Cask runs, a read of a register at 0x00 to 0x0B gives
its 8 bytes, of 0x0C to 0x1F 0; those of 0x04 and 0x05 are the means of the latest 16 samples (rounded as log 8 says), which
read nothing but the samples and `EVENTS`; the readout (before the first one 24 free words), the certificate with its length,
the 64 entries of the log, oldest first, and the calibration words are read, and a read changes nothing. A calibration word
and the 256-byte blocks of an image (log 162 tells the last one) are taken only while the cover and `CASK_CAL_EN_N` are in
their unsealed state, the word logged as event 5, and the image, when its signature verifies under the metrology key, as event
6; every write is acknowledged, and a refused one changes nothing. Without its supply the Cask answers nothing. Before the
first readout its words are free (log 86, DESIGN CHOICE). -/
def Obligations.CaskInterface : Prop :=
  (∀ s : State, s.ck.running = true →
    let tells := fun (i : Instr) (n : Nat) => exec i s = .next (s.emit (.caskWire (leBytes 8 n)))
    tells (.caskTwRead 0) (s.ck.flags + 65536 * s.ck.lastEvent) ∧ tells (.caskTwRead 1) s.ck.seq ∧
      tells (.caskTwRead 2) (s.ck.accIn / 16000000) ∧ tells (.caskTwRead 3) (s.ck.accOut / 16000000) ∧
      (let m := s.caskMeans (s.ck.window.reverse.take 16).reverse
       exec (.caskTwRead 4) s = .next (m.2.2.emit (.caskWire (wordBytes m.1))) ∧
       exec (.caskTwRead 5) s = .next (m.2.2.emit (.caskWire (wordBytes m.2.1)))) ∧
      tells (.caskTwRead 6) (s.ck.fwId + 2 ^ 32 * s.ck.fwVer) ∧ tells (.caskTwRead 7) s.ck.calId ∧
      tells (.caskTwRead 8) s.ck.serial ∧ tells (.caskTwRead 9) s.ck.seconds ∧
      tells (.caskTwRead 10) (ofSigned 32 s.ck.ppm) ∧ tells (.caskTwRead 11) s.ck.log.length ∧
      ∀ a : Fin 32, 12 ≤ a.val → tells (.caskTwRead a) 0) ∧
  (∀ (s : State) (l : List Sample), let m := s.caskMeans l
    m.2.2.ck = s.ck ∧ SameRegs s m.2.2 [] ∧ SameMem s m.2.2 ∧ bits m.2.1 63 32 = s.ck.eventCount % 2 ^ 32 ∧
      ∀ (n : Nat) (v : Sample), 0 < n → l = List.replicate n v → bits m.1 31 0 = ofSigned 32 v.mv ∧ bits m.1 63 32 = ofSigned 32 v.ma) ∧
  (∀ s : State, s.ck.running = true →
    (s.ck.readout ≠ [] → exec .caskReadReadout s = .next (s.emit (.caskWire (wordsBytes s.ck.readout)))) ∧
    (s.ck.readout = [] → ∃ (t : State) (ws : List Word), exec .caskReadReadout s = .next (t.emit (.caskWire (wordsBytes ws))) ∧
      ws.length = 24 ∧ t.ck = s.ck ∧ t.regs = s.regs) ∧
    exec .caskReadCert s =
      .next (s.emit (.caskWire (leBytes 2 (Config.certLen Config.caskKey 4) ++
        (List.range (Config.certLen Config.caskKey 4)).map (Config.certByte Config.caskKey 4)))) ∧
    exec .caskReadLog s = .next (s.emit (.caskWire (wordsBytes (((s.ck.log ++ List.replicate (64 - s.ck.log.length) (0, 0, 0)).take
      64).flatMap (fun (e : Nat × Nat × Nat) => [BitVec.ofNat 64 e.2.1, mkWord [(15, 0, e.1), (47, 16, e.2.2)]]))))) ∧
    ∀ a : Fin 8, exec (.caskCalRead a) s = .next (s.emit (.caskWire (wordBytes (mget 0 s.ck.cal a.val))))) ∧
  (∀ (a : Fin 8) (v : Word) (s : State), s.ck.running = true →
    (s.ck.tamper = true → s.ck.calEn = true → exec (.caskCalWrite a v) s =
      .next ((s.setCask (({ s.ck with cal := mset 0 s.ck.cal a.val v } : CaskU).logEvent 5 true)).emit .caskAck)) ∧
    (¬ (s.ck.tamper = true ∧ s.ck.calEn = true) → exec (.caskCalWrite a v) s = .next (s.emit .caskAck))) ∧
  (∀ (block : List Byte) (s : State), s.ck.running = true →
    let im := s.ck.stage ++ (block ++ List.replicate 256 0).take 256
    let ok := Config.ecdsaOk Config.metrologyKey (Config.sha384 (Config.caskFwBody im)) (Config.caskFwSig im)
    (s.ck.tamper = true → s.ck.calEn = true →
      exec (.caskFwUpdate false block) s = .next ((s.setCask { s.ck with stage := im }).emit .caskAck) ∧
      exec (.caskFwUpdate true block) s = .next ((s.setCask (if ok
        then ({ s.ck with stage := [], fwImage := im, fwVer := Config.caskFwVer im % 65536 } : CaskU).logEvent 6 true
        else { s.ck with stage := [] })).emit .caskAck)) ∧
    (∀ last : Bool, ¬ (s.ck.tamper = true ∧ s.ck.calEn = true) → exec (.caskFwUpdate last block) s = .next (s.emit .caskAck))) ∧
  (∀ (i : Instr) (s : State) (a : Fin 32) (b : Fin 8) (v : Word) (last : Bool) (im : List Byte), s.ck.running = false →
    i ∈ [.caskTwRead a, .caskReadReadout, .caskReadCert, .caskReadLog, .caskCalRead b, .caskCalWrite b v, .caskFwUpdate last im] →
    exec i s = .next s)

/-- The Ikio monitor (R421, R510, R513, R514, R521, R522): each line is echoed; each command counts and ends with one status
line; `baud` takes effect after it; registers are read, and written where a direct write is accepted; memory of a partition
that is not confidential is reached by requests of its own; `release`, `boot full` and `load` act; any other line is refused
and not counted. The text of the lines, what counts, and when `load` answers are the model's (log 93, DESIGN CHOICE), and so
are the phases from which the units' registers answer (log 167, DEDUCED). -/
def Obligations.IkioMonitor : Prop :=
  (∀ s : State, s.ikioReady → let e := s.emit .uartEcho
    let u := e.bump DBG_IKIO_CMD_COUNT
    (∃ ls : List String, exec .ikioHelp s = .next ((ls.foldl State.say_ u).sayEnd 0) ∧ ls.length = 10) ∧
    (∀ (r k : Nat), baudRates.findIdx? (· == r) = some k → exec (.ikioBaud r) s = .next ((u.sayEnd 0).put DBG_IKIO_BAUD k)) ∧
    (∀ r : Nat, r ∉ baudRates → exec (.ikioBaud r) s = .next (e.sayEnd stACCESS_DENIED)) ∧
    (∃ ls : List String, exec .ikioStatus s = .next ((ls.foldl State.say_ u).sayEnd 0) ∧ ls.length = 6) ∧
    (∀ off : Nat, goodAccess off 8 = true → off < barSize → u.barReady off = true → exec (.ikioRd off) s =
      .next (((u.readOff off).2.say_ (hex 16 (u.readOff off).1.toNat)).sayEnd 0)) ∧
    (∀ off : Nat, goodAccess off 8 = true → off < barSize → u.barReady off = false → exec (.ikioRd off) s = .next (u.sayEnd stSTATE_CONFLICT)) ∧
    (∀ (off : Nat) (v : Word), goodAccess off 8 = true → off < barSize → (findReg off regAddr).elim (cxlComponent off) directWrite = true → u.barReady off = true →
      exec (.ikioWr off v) s = .next ((u.writeOff off v).sayEnd 0)) ∧
    (∀ (off : Nat) (v : Word), goodAccess off 8 = true → off < barSize → (findReg off regAddr).elim (cxlComponent off) directWrite = false →
      exec (.ikioWr off v) s = .next (u.sayEnd stACCESS_DENIED)) ∧
    (∀ (off : Nat) (v : Word), goodAccess off 8 = false ∨ barSize ≤ off → exec (.ikioRd off) s = .next (e.sayEnd stACCESS_DENIED) ∧
      exec (.ikioWr off v) s = .next (e.sayEnd stACCESS_DENIED)) ∧
    (∀ (n : Part) (a : Word) (len : Nat) (bs : List Byte), (len = 0 ∨ 256 < len → exec (.ikioMrd n a len) s = .next (e.sayEnd stACCESS_DENIED)) ∧
      (bs = [] ∨ 256 < bs.length → exec (.ikioMwr n a bs) s = .next (e.sayEnd stACCESS_DENIED))) ∧
    exec .ikioRelease s = .next (u.release.sayEnd 0) ∧
    (s.rs.level ≠ 2 → exec .ikioBootFull s = .next ((u.putRecord { u.rs.boot with
      full := true, selfId := if u.bootValid then u.rs.boot.selfId else u.selfId }).sayEnd 0)) ∧
    (s.rs.level = 2 → exec .ikioBootFull s = .next (u.sayEnd stSTATE_CONFLICT)) ∧
    (∀ len : Nat, s.booting = true → s.rs.wait = some 2 → s.rs.transfer = false → exec (.ikioLoad len) s =
      .next (({ u with rs := { u.rs with transfer := true, imageLen := len } } : State).sayEnd 0)) ∧
    (∀ len : Nat, ¬ (s.booting = true ∧ s.rs.wait = some 2 ∧ s.rs.transfer = false) →
      exec (.ikioLoad len) s = .next (e.sayEnd stACCESS_DENIED)) ∧
    exec .ikioBadLine s = .next (e.sayEnd stACCESS_DENIED)) ∧
  (∀ (n : Part) (a : Word) (len : Nat) (bs : List Byte) (s : State), s.ikioReady → 0 < len → len ≤ 256 →
    0 < bs.length → bs.length ≤ 256 → let u := (s.emit .uartEcho).bump DBG_IKIO_CMD_COUNT
    (u.confidential n.val = true →
      exec (.ikioMrd n a len) s = .next ((u.sayEnd stACCESS_DENIED).bump DBG_IKIO_DENIED_COUNT) ∧
      exec (.ikioMwr n a bs) s = .next ((u.sayEnd stACCESS_DENIED).bump DBG_IKIO_DENIED_COUNT)) ∧
    (u.confidential n.val = false → s.xb.closed = true → exec (.ikioMrd n a len) s = .next (u.sayEnd stSTATE_CONFLICT) ∧
      exec (.ikioMwr n a bs) s = .next (u.sayEnd stSTATE_CONFLICT)) ∧
    (u.confidential n.val = false → s.xb.closed = false →
      let go := fun (wr : Bool) (parts : List (Nat × Nat × Nat)) (pk : State → Nat × Nat × Nat → Pkt) =>
        parts.foldl (fun (t : State) c => t.issue 96 (pk t c) .ikio)
          { u with rs := { u.rs with ikio := some ⟨wr, parts.length, [], none⟩ } }
      exec (.ikioMrd n a len) s = .next (go false (splitUnits 256 a.toNat len) (fun t c => ReqForm.pkt
        { opcode := 1, part := n.val, src := t.selfId, dst := faEp a, addr := BitVec.ofNat 64 c.2.1,
          w3 := BitVec.ofNat 64 c.2.2 })) ∧
      exec (.ikioMwr n a bs) s = .next (go true (splitUnits 256 a.toNat bs.length) (fun t c => ReqForm.pkt
        { opcode := 2, part := n.val, src := t.selfId, dst := faEp a, addr := BitVec.ofNat 64 c.2.1,
          payload := slice bs c.1 c.2.2 }))))

/-- The two-wire target and the test access port (R510, R533 to R536, R542): at address 0x30 + `MGMT_ADDR` (R534) each command
of R535 answers its register's bytes, low byte first; a write is acknowledged, one of 1 to `RELEASE` releases `HOLD` and one
of `CAP` sets the cap; a read of an undefined command gives bytes of 0xFF and a write to one is discarded; and each
instruction of the test port selects its register, `EXTEST` only while bring-up is halted or in `HOLD`. The test port follows
IEEE 1149.1, its cells free (log 51, PRESUMED). -/
def Obligations.ManagementTarget : Prop :=
  (∀ s : State, s.twReady → let tells := fun (i : Instr) (n v : Nat) => exec i s = .next (s.emit (.twoWire s.twAddr (leBytes n v)))
    let ack := s.emit (.twoWire s.twAddr [])
    tells .twPart 2 (s.get GLOBAL_PART_PART) ∧
    tells .twStatus 2 (s.phase + 16 * s.get GLOBAL_BOOT_STATUS_HALTED + 32 * s.get GLOBAL_BOOT_STATUS_RELEASED +
      64 * s.get GLOBAL_BOOT_STATUS_DONE + s.twAlarms) ∧
    tells (.twRelease none) 1 (s.get GLOBAL_BOOT_STATUS_RELEASED) ∧
    (∀ b : Byte, exec (.twRelease (some b)) s = .next (if b.getLsbD 0 then ack.release else ack)) ∧
    tells (.twCap none) 2 (s.get PGOV_CAP_CAP) ∧
    (∀ w : BitVec 16, exec (.twCap (some w)) s = .next (ack.setCap w.toNat)) ∧
    tells .twMeasured 4 (s.get PGOV_POWER_MEASURED) ∧
    exec .twJunction s = .next (s.senseHeat.emit (.twoWire s.twAddr (leBytes 2 (s.senseHeat.get GLOBAL_THERMAL_JUNCTION_MAX)))) ∧
    tells .twResetCause 1 (64 * s.get GLOBAL_RESET_CAUSE_LAST) ∧ tells .twSerial 8 (s.rd GLOBAL_SERIAL) ∧
    tells .twEnergyIn 8 (s.rd CASK_ENERGY_IN) ∧
    (∀ (c : Byte) (n : Nat), c.toNat ∉ [0, 1, 2, 3, 4, 5, 6, 8, 16] →
      exec (.twUndefined c (some n)) s = .next (s.emit (.twoWire s.twAddr (List.replicate n 0xFF)))) ∧
    (∀ c : Byte, c.toNat ≠ 2 → c.toNat ≠ 3 → exec (.twUndefined c none) s = .next ack) ∧
    s.twAddr = 0x30 + s.rs.mgmtAddr % 8) ∧
  (∀ s : State, ¬ s.twReady → exec .twStatus s = .next s) ∧
  (∀ s : State, s.rs.por = false →
    let sel := fun (u : State) (k : Nat) (bs : List Bool) => ({ u with rs := { u.rs with tap := k } } : State).emit (.tap bs)
    exec .tapBypass s = .next (sel s 0 [false]) ∧
    (∀ pre : List Bool, ∃ (u : State) (bs : List Bool), exec (.tapSamplePreload pre) s = .next (sel u 1 bs) ∧
      bs.length = pre.length ∧ u.rs.scan = pre ∧ u.regs = s.regs) ∧
    (s.on GLOBAL_BOOT_STATUS_HALTED = true ∨ s.phase = 6 → exec .tapExtest s = .next (sel s 2 s.rs.scan)) ∧
    (s.on GLOBAL_BOOT_STATUS_HALTED = false → s.phase ≠ 6 → exec .tapExtest s = exec .tapBypass s) ∧
    (∃ bs : List Bool, exec .tapIdcode s = .next (sel s 3 bs) ∧ bs.length = 32 ∧
      ∀ i < 32, bs.getD i false = (if s.on GLOBAL_OPTIONS_TUN_PRESENT then 0x1960447B else 0x1960047B : Nat).testBit i)) ∧
  (∀ s : State, exec .trstN s = .next { s with rs := { s.rs with tap := 3, scan := [] } })

/-- The CASK shadow block (R490, R495, R496): a frame whose CRC fails is discarded and counted; a good one is copied into the block,
counted in `CASK_FRAME_SEQ`, and sets `LINK_UP`: a status frame fills the energy, power, event and flag fields, a readout its 24
words, the beat of its arrival, the serial number and the firmware identity, a certificate and a log their records; 10 ms without a good
frame clear `LINK_UP` and leave the rest. While power-on or system reset holds the module a frame changes nothing. -/
def Obligations.CaskShadow : Prop :=
  (∀ (ok : Bool) (f : CaskFrame) (s : State), s.rs.por = true ∨ s.rs.level = 2 → exec (.statusFrame ok f) s = .next s) ∧
  (∀ (f : CaskFrame) (s : State), s.rs.por = false → s.rs.level ≠ 2 →
    exec (.statusFrame false f) s = .next (s.bump CASK_LINK_ERR_COUNT) ∧
    exec (.statusFrame true f) s = .next (((s.shadow f).bump CASK_FRAME_SEQ).put CASK_STATUS_LINK_UP 1)) ∧
  (∀ (s : State) (k secs ein eout w7 w8 w9 : Word), let t := s.shadow (.status k secs ein eout w7 w8 w9)
    t.reg CASK_SECONDS = secs ∧ t.reg CASK_ENERGY_IN = ein ∧ t.reg CASK_ENERGY_OUT = eout ∧ t.reg CASK_INSTANT = w7 ∧
      t.get CASK_POWER_POWER = bits w8 31 0 ∧ t.get CASK_EVENTS_EVENTS = bits w8 63 32 ∧ t.get CASK_STATUS_FLAGS = bits w9 5 0 ∧
      t.get CASK_STATUS_LAST_EVENT = bits w9 31 16) ∧
  (∀ (s : State) (ws : List Word), let t := s.shadow (.readout ws)
    (∀ w < 24, t.reg (CASK_READOUT w) = wd ws w) ∧ t.reg CASK_READOUT_BEAT = s.reg TIME_BEAT_NOW ∧
      t.get CASK_STATUS_READOUT_VALID = 1 ∧ t.reg CASK_SERIAL = wd ws 1 ∧ t.get CASK_IDENT_FW_ID = bits (wd ws 2) 31 0 ∧
      t.get CASK_IDENT_FW_VER = bits (wd ws 2) 47 32) ∧
  (∀ (s : State) (der : List Byte), let t := s.shadow (.cert der)
    t.sh.cert = der ∧ t.get CASK_STATUS_CERT_VALID = 1 ∧ t.sh.log = s.sh.log) ∧
  (∀ (s : State) (ws : List (Word × Word)), ws.length ≤ 64 → let t := s.shadow (.log ws)
    t.sh.log = some ws ∧ t.sh.cert = s.sh.cert ∧
      ∀ i < 64, t.reg (CASK_LOG_W0 i) = (ws.getD i (0, 0)).1 ∧ t.reg (CASK_LOG_W1 i) = (ws.getD i (0, 0)).2) ∧
  (∀ s : State, exec .caskLinkTimeout s = .next (s.put CASK_STATUS_LINK_UP 0))

/-- A step runs the command at the front of the queue on the state whose queue is the rest. -/
def Obligations.StepRunsFrontCommand : Prop :=
  ∀ (c : Instr) (rest : List Instr) (s : State), step { s with pending := c :: rest } = exec c { s with pending := rest }

/-- The model's choice (log 1, DESIGN CHOICE): with no command waiting the block idles, since its time-driven events are
commands of the table. -/
def Obligations.IdleOnEmptyQueue : Prop := ∀ s : State, s.pending = [] → step s = .next s

/-- The state after reset: nothing waits, power-on reset is held, every register holds its power-on value, every memory is
empty, and the canonical forms hold; with it the POR values that R62, R94, R128, R198, R378 and R474 give. Values that the
spec leaves to the module are 0 (log 53, DESIGN CHOICE), and so is what an unlisted byte reads as (log 2). -/
def Obligations.ResetState : Prop :=
  State.reset.pending = [] ∧ State.reset.rs.por = true ∧ State.reset.out = [] ∧ State.reset.WF ∧
    (∀ k : Key, State.reset.reg k = porWord k.id k.idx) ∧ (∀ a n, State.reset.hbmRead a n = List.replicate n 0) ∧
    State.reset.hbm = [] ∧ State.reset.tu.store = [] ∧ State.reset.tu.scale = [] ∧ State.reset.sq.mem = [] ∧
    State.reset.get TIME_CONFIG_ROOT_PRIO = 0x80 ∧ State.reset.get TIME_CONFIG_BEAT_LEN = 1 ∧ State.reset.reg TIME_GUARD = 0 ∧
    State.reset.get XLAT_EP_SELF_SELF_ID = 0xFFFF ∧ State.reset.get TRACK_CONFIG_TIMEOUT = 1024 ∧
    State.reset.get TRACK_CONFIG_LOST_WAIT = 64 ∧ State.reset.get TRACK_CONFIG_GRANT_IDLE = 256 ∧
    State.reset.get (TRACK_PART_SHARE_COUNT 0) = 0x100000 ∧ State.reset.get (TRACK_PART_SHARE_COUNT 1) = 0 ∧
    State.reset.get (PORT_STATUS_STATE 95) = 0 ∧ State.reset.get GLOBAL_BOOT_STATUS_PHASE = 0

/-- Every step keeps the canonical form of the block's memories and registers. -/
def Obligations.StepKeepsCanonicalForm : Prop := ∀ s t : State, s.WF → step s = .next t → t.WF

/-- Every command ends in a next state, whatever the state (R14: every request and every command ends with one status
code): it leaves the queue alone, takes back nothing that was sent, and only uses up free values. -/
def Obligations.EveryCommandAnswers : Prop :=
  ∀ (c : Instr) (s : State), ∃ t : State, exec c s = .next t ∧ t.pending = s.pending ∧ s.out <+: t.out ∧ s.free ≤ t.free

/-- No command but the Cask's own samples, timers, pins and two-wire accesses changes the Cask (R478, R489). -/
def Obligations.NothingElseReachesTheCask : Prop :=
  ∀ (c : Instr) (s t : State), Instr.ofCask c = false → exec c s = .next t → t.ck = s.ck

/-- The energy registers count energy drawn and energy returned and only rise, whatever the command (R477): no command but a
sample changes them at all, and a sample adds the energy of its period to one of them, by its sign. The energy is that of
the measured voltage and current, the sensed ones under the gains in force (log 45, DESIGN CHOICE). -/
def Obligations.EnergyOnlyRises : Prop :=
  (∀ (c : Instr) (s t : State), exec c s = .next t → s.ck.energyIn ≤ t.ck.energyIn ∧ s.ck.energyOut ≤ t.ck.energyOut) ∧
  (∀ (c : Instr) (s t : State), (∀ v, c ≠ .caskSample v) → exec c s = .next t →
    t.ck.energyIn = s.ck.energyIn ∧ t.ck.energyOut = s.ck.energyOut) ∧
  (∀ (v : Sample) (s : State), s.ck.running = true →
    let w := s.ck.measured v
    ∃ t : State, exec (.caskSample v) s = .next t ∧
      (0 ≤ w.ma → (t.ck.accIn : Int) = s.ck.accIn + w.mv * w.ma ∧ t.ck.accOut = s.ck.accOut) ∧
      (w.ma < 0 → (t.ck.accOut : Int) = s.ck.accOut - w.mv * w.ma ∧ t.ck.accIn = s.ck.accIn))

/-- The Cask runs on through every command but the fall of its own input below 40 V, and only the rise of that input starts
it again; while it runs it takes every sample, whatever state the rest of the module is in (R478). -/
def Obligations.OnlySupplyStopsTheCask : Prop :=
  ∀ (c : Instr) (s t : State), exec c s = .next t →
    (s.ck.running = true → c ≠ .caskPowerDown → t.ck.running = true) ∧ (s.ck.running = true → c = .caskPowerDown → t.ck.running = false) ∧
    (s.ck.running = false → (∀ ok, c ≠ .caskPowerUp ok) → t.ck.running = false) ∧
    (s.ck.running = false → (∃ ok, c = .caskPowerUp ok) → t.ck.running = true) ∧
    (∀ v, s.ck.running = true → c = .caskSample v → t.ck.count = s.ck.count + 1)

/-- A mailbox command completes (R386, R387, R389, R392, R431): the response copies `OPCODE` and `SEQ` and carries the length,
the status and the state code, its payload follows, `DONE` is 1, the count is one higher and `BUSY` is 0; no other register
changes, no memory changes, and a message goes out when its vector is valid, or, where the vector is masked, is shown as
pending. A command that the service watchdog ends completes with `TIMEOUT` (9) and without a payload instead. A message goes
out at every completion (log 62, DEDUCED), and masks and pending messages are those of log 112 (PRESUMED). -/
def Obligations.MailboxCompletion : Prop :=
  ∀ (s : State) (m status0 sc0 : Nat) (ws0 : List Word), m < 33 → ws0.length < 128 → status0 < 256 → sc0 < 65536 →
    let late := s.hm.doomed.contains m
    let status := if late then 9 else status0
    let sc := if late then 0 else sc0
    let ws := if late then [] else ws0
    let t := s.mbComplete m status0 sc0 ws0
    let v := s.get (MB_VECTOR_VEC m)
    let masked := (s.msixWord (2 * v + 1)).getLsbD 32
    bits (t.reg (MB_RSP m 0)) 15 0 = s.cmdOp m ∧ bits (t.reg (MB_RSP m 0)) 23 16 = ws.length ∧
      bits (t.reg (MB_RSP m 0)) 31 24 = status ∧ bits (t.reg (MB_RSP m 0)) 47 32 = bits (s.cmd m 0) 47 32 ∧
      bits (t.reg (MB_RSP m 0)) 63 48 = sc ∧ (∀ i < ws.length, t.reg (MB_RSP m (i + 1)) = ws.getD i 0) ∧
      t.get (MB_STATUS_DONE m) = 1 ∧ t.get (MB_STATUS_BUSY m) = 0 ∧
      t.reg (MB_DONE_COUNT m) = (s.bump (MB_DONE_COUNT m)).reg (MB_DONE_COUNT m) ∧
      SameRegs s t (MB_STATUS m :: MB_DONE_COUNT m :: (List.range 128).map (MB_RSP m)) ∧ SameMem s t ∧
      t.out = s.out ++ (if s.on (MB_VECTOR_VALID m) && !masked then [.msix v] else []) ∧
      (s.on (MB_VECTOR_VALID m) = true → masked = true → v ∈ t.hm.msixPend)

/-- The checks of a mailbox command (R394, R512): the first that fails gives the status and the state code with which it
completes, and nothing else happens: the negotiation, the minor version, the right of the mailbox, an active partition,
length and encodings, the units named, no core reset but for a command kept through one (R391), and bring-up far enough:
the phase the command needs of the primary mailbox, 6 unless it is one of a unit brought up later, and of a partition's
mailbox 9. An un-negotiated `MB_HELLO` passes the first two. A port's commands need phase 7
done. -/
def Obligations.MailboxChecks : Prop :=
  (∀ (c : MbSpec) (m st sc : Nat) (valid : Bool) (body : MbRes) (s : State), s.on (MB_STATUS_BUSY m) = true →
    s.cmdOp m = c.opcode → m ∉ s.hm.running → m ∉ s.hm.held → (c.bulk && s.bulkHeld m) = false → s.mbTurn m = true →
    s.mbCheck c m valid = some (st, sc) →
    s.mb c m valid body = .next (s.mbComplete m st sc [])) ∧
  (∀ (c : MbSpec) (m : Nat) (valid : Bool) (s : State),
    let hello := c.opcode = 1
    let negotiated := s.get (MB_STATUS_VER_MAJOR m) ≠ 0
    let mine := 32 ≤ m ∨ c.tenant = true ∧ (c.naming = false ∨ bits (s.cmd m 1) 4 0 = m)
    let good := c.need ≤ s.cmdLen m ∧ s.cmdLen m ≤ 223 ∧ valid = true
    let minor := negotiated → c.minor ≤ s.get (MB_STATUS_VER_MINOR m)
    let present := ∀ u ∈ c.units, s.on u = true
    let from_ := if m < 32 then 9 else c.ready
    let active := 32 ≤ m ∨ s.partActive m = true ∨ s.closing m = true
    (¬ negotiated → ¬ hello → s.mbCheck c m valid = some (stSTATE_CONFLICT, scNO_HELLO)) ∧
    (negotiated → ¬ minor → s.mbCheck c m valid = some (stVERSION, 0)) ∧
    (negotiated ∨ hello → minor → ¬ mine → s.mbCheck c m valid = some (stACCESS_DENIED, 0)) ∧
    (negotiated ∨ hello → minor → mine → ¬ active → s.mbCheck c m valid = some (stSTATE_CONFLICT, scPART_INACTIVE)) ∧
    (negotiated ∨ hello → minor → mine → active → ¬ good → s.mbCheck c m valid = some (stACCESS_DENIED, 0)) ∧
    (negotiated ∨ hello → minor → mine → active → good → (∃ u ∈ c.units, s.on u = false) →
      s.mbCheck c m valid = some (stSTATE_CONFLICT, scUNIT_ABSENT)) ∧
    (negotiated ∨ hello → minor → mine → active → good → present → s.rs.core = true → c.kept = false →
      s.mbCheck c m valid = some (stSTATE_CONFLICT, scCORE_RESET)) ∧
    (negotiated ∨ hello → minor → mine → active → good → present → (s.rs.core = true → c.kept = true) →
      (s.phase < from_ ∨ s.rs.wait ≠ none) → s.mbCheck c m valid = some (stSTATE_CONFLICT, scBRINGUP)) ∧
    (negotiated ∨ hello → minor → mine → active → good → present → (s.rs.core = true → c.kept = true) →
      from_ ≤ s.phase → s.rs.wait = none → s.mbCheck c m valid = none)) ∧
  (∀ (m : Mbx) (s : State), s.on (MB_STATUS_BUSY m) = true → m.val ∉ s.hm.running → m.val ∉ s.hm.held → s.mbTurn m = true →
    s.cmdOp m = 1 → 1 ≤ s.cmdLen m → s.cmdLen m ≤ 223 → (32 ≤ m.val ∨ s.partActive m = true) →
    s.phase < (if m.val < 32 then 9 else 6) → exec (.mbHello m) s = .next (s.mbComplete m stSTATE_CONFLICT scBRINGUP [])) ∧
  (∀ (m : Mbx) (s : State), s.on (MB_STATUS_BUSY m) = true → m.val ∉ s.hm.running → m.val ∉ s.hm.held → s.mbTurn m = true →
    s.cmdOp m = 0xB04 → 1 ≤ s.cmdLen m → s.cmdLen m ≤ 223 → s.get (MB_STATUS_VER_MAJOR m) ≠ 0 →
    (32 ≤ m.val ∨ bits (s.cmd m 1) 4 0 = m.val ∧ s.partActive m = true) →
    s.phase < (if m.val < 32 then 9 else 6) → exec (.partGet m) s = .next (s.mbComplete m stSTATE_CONFLICT scBRINGUP [])) ∧
  (∀ (m : Mbx) (s : State), s.on (MB_STATUS_BUSY m) = true → m.val ∉ s.hm.running → m.val ∉ s.hm.held → s.mbTurn m = true →
    s.cmdOp m = 0x903 → 1 ≤ s.cmdLen m → s.cmdLen m ≤ 223 → s.get (MB_STATUS_VER_MAJOR m) ≠ 0 → 32 ≤ m.val →
    s.cmdIdx m < 96 → s.on ⟨GLOBAL_OPTIONS, 8 + s.cmdIdx m / 8, 8 + s.cmdIdx m / 8⟩ = true →
    s.phase < 8 → exec (.portDisable m) s = .next (s.mbComplete m stSTATE_CONFLICT scBRINGUP []))

/-- Bytes written to HBM4E, to the Tun store or to a core's local memory read back, least significant address first; every
other byte reads as before, and the canonical form stays (R11, R256, R302, R330). What a byte reads that nothing has written
is the model's choice (log 2). -/
def Obligations.MemoryReadsBack : Prop :=
  (∀ (s : State) (a : Nat) (bs : List Byte),
    (s.hbmWrite a bs).hbmRead a bs.length = bs ∧
    (∀ b, ¬ (a ≤ b ∧ b < a + bs.length) → (s.hbmWrite a bs).hbmRead b 1 = s.hbmRead b 1) ∧
    (Memory.wf s.hbm → Memory.wf (s.hbmWrite a bs).hbm)) ∧
  (∀ (s : State) (a : Nat) (bs : List Byte),
    readBytes (s.tunWrite a bs).tu.store a bs.length = bs ∧
    (∀ b, ¬ (a ≤ b ∧ b < a + bs.length) → readBytes (s.tunWrite a bs).tu.store b 1 = readBytes s.tu.store b 1) ∧
    (Memory.wf s.tu.store → Memory.wf (s.tunWrite a bs).tu.store)) ∧
  (∀ (s : State) (c t a n v : Nat), let u := s.localWrite c t a n v
    u.localRead c a n = v % 2 ^ (8 * n) ∧
    (∀ b, ¬ (coreBase c + a ≤ b ∧ b < coreBase c + a + n) → readBytes u.sq.mem b 1 = readBytes s.sq.mem b 1) ∧
    (Memory.wf s.sq.mem → Memory.wf u.sq.mem))

/-- Landing counters (R147): a counter holds a 64-bit value that wraps; it has reached a target when the difference, as a
signed 64-bit number, is 0 or greater; so a target of the value last observed plus what is expected is reached exactly
when that much, and less than 2⁶³ more, has been added, wherever the counter wraps. -/
def Obligations.LandingCounters : Prop :=
  (∀ (s : State) (i n : Nat), (s.lcAdd i n).counter i = s.counter i + BitVec.ofNat 64 n ∧
    ∀ j, j ≠ i → (s.lcAdd i n).counter j = s.counter j) ∧
  (∀ a t : Word, reached a t = true ↔ 0 ≤ (a - t).toInt) ∧
  (∀ (seen : Word) (want got : Nat), want < 2 ^ 63 → got < 2 ^ 63 →
    (reached (seen + BitVec.ofNat 64 got) (seen + BitVec.ofNat 64 want) = true ↔ want ≤ got))

/-- A core starts (R342): threads 0 to `THREADS` - 1 begin at `ENTRY`, with x2, x10 and x11 as the rule says, every other
register and every RW CSR 0; the other threads stay as they were, and the core shows its run mask. -/
def Obligations.CoreStart : Prop :=
  ∀ (s : State) (n c entry threads stack : Nat), mget (0, 0, 0) s.sq.image c = (entry, threads, stack) → threads ≤ 32 →
    threads * stack ≤ 131072 → let u := s.startCore n c
    (∀ t < threads, let h := u.thread c t
      h.running = true ∧ h.pc = entry ∧ h.x 2 = 0x30000 - t * stack ∧
        h.x 10 = (c - s.get (SEQ_PART_CORES_FIRST n)) % 2 ^ 64 ∧ h.x 11 = t ∧
        (∀ r, r ∉ [2, 10, 11] → h.x r = 0) ∧ h.seqlc = 0 ∧ h.seqwait = 0 ∧ h.seqerr = 0 ∧ h.seqst = 0 ∧ h.posted = []) ∧
    (∀ t, threads ≤ t → t < 32 → u.thread c t = s.thread c t) ∧ u.get (SEQ_CORE_STATE_STATE c) = 2 ∧
    u.get (SEQ_CORE_STATE_RUN_MASK c) = 2 ^ threads - 1 ∧ SameRegs s u [SEQ_CORE_STATE c] ∧ SameMem s u

/-- A free of a buffer that is already free, in pools 1 to 4 (R193): it is ignored, the pool's bit is set in `DOUBLE_FREE`,
the event is counted, and the pool and the index are recorded; nothing is sent, so no request ends by it. The cycle then ends as any
other does (`State.poolCycle`). -/
def Obligations.DoubleFree : Prop :=
  ∀ (k : Fin 5) (index : Nat) (more : Bool) (s : State), k.val ≠ 0 → index < poolCount k.val →
    (∀ b, s.buf k.val index = some b → b.inUse = false) →
    ∃ t : State, exec (.poolRelease k ⟨index, more⟩) s = .next (t.poolCycle more) ∧ t.pl = s.pl ∧ t.out = s.out ∧
      (∀ j < 5, (t.get POOL_STATUS_DOUBLE_FREE).testBit j = ((s.get POOL_STATUS_DOUBLE_FREE).testBit j || j == k.val)) ∧
      t.reg (POOL_DOUBLE_FREE_COUNT k) = (s.bump (POOL_DOUBLE_FREE_COUNT k)).reg (POOL_DOUBLE_FREE_COUNT k) ∧
      bits (t.reg POOL_ERR_INFO) 55 48 = 1 ∧ bits (t.reg POOL_ERR_INFO) 42 40 = k.val ∧ bits (t.reg POOL_ERR_INFO) 16 0 = index ∧
      OnlyRegs s t [POOL_STATUS, POOL_DOUBLE_FREE_COUNT k, POOL_ERR_INFO]

/-- `MGMT_INT_N` is low exactly while an alarm bit, 8 to 11, of the two-wire `STATUS` register is 1, where `STATUS` is what
a read of it answers (R533, R535), and a system reset, in which the target does not answer, holds its level (R504). -/
def Obligations.AlarmPin : Prop :=
  (∀ s : State, s.twReady → ∃ w : Nat, exec .twStatus s = .next (s.emit (.twoWire s.twAddr (leBytes 2 w))) ∧ w < 65536 ∧
    (s.mgmtIntN = false ↔ ∃ b, 8 ≤ b ∧ b ≤ 11 ∧ w.testBit b = true)) ∧
  (∀ (s t : State), s.rs.por = false → s.rs.level ≠ 2 → exec .systemReset s = .next t →
    t.mgmtIntN = s.mgmtIntN ∧ exec .twStatus t = .next t)
end

