-- ==== Sys2Proof/Laws/Store.lean ====
section
/-! SUPPORT. Laws of sparse tables and of byte memories: reading after writing, and the canonical form that every
operation keeps. -/

namespace Sys2Proof.Machine

section
variable {V : Type}

/-! ## Reading -/

@[simp] theorem mget_nil (d : V) (k : Nat) : mget d [] k = d := rfl

theorem mget_not_mem (d : V) (m : SMap V) (k : Nat) (h : ∀ e ∈ m, e.1 ≠ k) : mget d m k = d := by
  induction m with
  | nil => rfl
  | cons e r ih => simp_all [mget]

theorem merase_keys (m : SMap V) (k : Nat) : ∀ e ∈ merase m k, e.1 ≠ k := by
  intro e he; simp [merase] at he; exact he.2

@[simp] theorem mget_merase_same (d : V) (m : SMap V) (k : Nat) : mget d (merase m k) k = d :=
  mget_not_mem d _ k (merase_keys m k)

theorem mget_merase_other (d : V) (m : SMap V) {k j : Nat} (h : j ≠ k) : mget d (merase m k) j = mget d m j := by
  induction m with
  | nil => rfl
  | cons e r ih =>
    simp only [merase] at ih
    by_cases hk : e.1 = k
    · have : e.1 ≠ j := fun c => h (c.symm.trans hk)
      simp [merase, mget, hk, ih, show ¬ k = j from fun c => h c.symm]
    · rw [merase, List.filter_cons_of_pos (by simpa using hk)]
      by_cases hj : e.1 = j <;> simp [mget, hj, ih]

theorem mget_minsert_same (d : V) (m : SMap V) (k : Nat) (v : V) (h : ∀ e ∈ m, e.1 ≠ k) :
    mget d (minsert m k v) k = v := by
  induction m with
  | nil => simp [minsert, mget]
  | cons e r ih =>
    have he : e.1 ≠ k := h e (by simp)
    by_cases hk : k < e.1
    · simp [minsert, mget, hk]
    · simp [minsert, mget, hk, he, ih (fun e' h' => h e' (by simp [h']))]

theorem mget_minsert_other (d : V) (m : SMap V) {k j : Nat} (v : V) (h : j ≠ k) :
    mget d (minsert m k v) j = mget d m j := by
  have hk : ¬ k = j := fun c => h c.symm
  induction m with
  | nil => simp [minsert, mget, hk]
  | cons e r ih => by_cases hl : k < e.1 <;> simp [minsert, mget, hl, hk, ih]

/-- Reading the key that was written gives the value written. -/
@[simp] theorem mget_mset_same [DecidableEq V] (d : V) (m : SMap V) (k : Nat) (v : V) : mget d (mset d m k v) k = v := by
  by_cases h : v = d
  · simp [mset, h]
  · simp [mset, h, mget_minsert_same d _ k v (merase_keys m k)]

/-- A write leaves every other key alone, whatever the defaults. -/
theorem mget_mset_other' [DecidableEq V] (d c : V) (m : SMap V) {k j : Nat} (v : V) (h : j ≠ k) :
    mget d (mset c m k v) j = mget d m j := by
  by_cases hv : v = c
  · simp [mset, hv, mget_merase_other d m h]
  · simp [mset, hv, mget_minsert_other d _ v h, mget_merase_other d m h]

theorem mget_mset_other [DecidableEq V] (d : V) (m : SMap V) {k j : Nat} (v : V) (h : j ≠ k) :
    mget d (mset d m k v) j = mget d m j := mget_mset_other' d d m v h

theorem mget_mset [DecidableEq V] (d : V) (m : SMap V) (k j : Nat) (v : V) :
    mget d (mset d m k v) j = if j = k then v else mget d m j := by
  by_cases h : j = k
  · subst h; simp
  · simp [h, mget_mset_other d m v h]

/-! ## The canonical form -/

theorem mrising_iff (m : SMap V) : mrising m = true ↔ (m.map Prod.fst).Pairwise (· < ·) := by
  induction m with
  | nil => simp [mrising]
  | cons e r ih =>
    cases r with
    | nil => simp [mrising]
    | cons e' r' =>
      obtain ⟨a, x⟩ := e; obtain ⟨b, y⟩ := e'
      simp only [mrising, Bool.and_eq_true, decide_eq_true_eq, ih]
      simp only [List.map_cons, List.pairwise_cons]
      constructor
      · rintro ⟨hab, hb, hr⟩
        refine ⟨?_, hb, hr⟩
        intro c hc
        rcases List.mem_cons.1 hc with rfl | hc
        · exact hab
        · exact lt_trans hab (hb c hc)
      · rintro ⟨ha, hb, hr⟩
        exact ⟨ha b (by simp), hb, hr⟩

theorem mcanon_iff [DecidableEq V] (d : V) (m : SMap V) :
    mcanon d m = true ↔ (m.map Prod.fst).Pairwise (· < ·) ∧ ∀ e ∈ m, e.2 ≠ d := by
  simp [mcanon, mrising_iff]

@[simp] theorem mcanon_nil [DecidableEq V] (d : V) : mcanon d ([] : SMap V) = true := rfl

theorem pairwise_merase (m : SMap V) (k : Nat) (h : (m.map Prod.fst).Pairwise (· < ·)) :
    ((merase m k).map Prod.fst).Pairwise (· < ·) :=
  h.sublist (List.Sublist.map _ List.filter_sublist)

theorem minsert_mem (m : SMap V) (k : Nat) (v : V) (e : Nat × V) : e ∈ minsert m k v ↔ e = (k, v) ∨ e ∈ m := by
  induction m with
  | nil => simp [minsert]
  | cons e' r ih =>
    by_cases h : k < e'.1
    · simp [minsert, h]
    · simp [minsert, h, ih]; tauto

theorem pairwise_minsert (m : SMap V) (k : Nat) (v : V) (h : (m.map Prod.fst).Pairwise (· < ·))
    (hk : ∀ e ∈ m, e.1 ≠ k) : ((minsert m k v).map Prod.fst).Pairwise (· < ·) := by
  induction m with
  | nil => simp [minsert]
  | cons e r ih =>
    simp only [List.map_cons, List.pairwise_cons] at h
    have he : e.1 ≠ k := hk e (by simp)
    by_cases hl : k < e.1
    · simp only [minsert, hl, if_true, List.map_cons, List.pairwise_cons]
      refine ⟨?_, h⟩
      intro c hc
      rcases List.mem_cons.1 hc with rfl | hc
      · exact hl
      · exact lt_trans hl (h.1 c hc)
    · simp only [minsert, hl, if_false, List.map_cons, List.pairwise_cons]
      refine ⟨?_, ih h.2 (fun e' h' => hk e' (by simp [h']))⟩
      intro c hc
      obtain ⟨e', he', rfl⟩ := List.mem_map.1 hc
      rcases (minsert_mem r k v e').1 he' with rfl | h'
      · simp only; omega
      · exact h.1 _ (List.mem_map.2 ⟨e', h', rfl⟩)

/-- Every write keeps the canonical form. -/
theorem mset_canon [DecidableEq V] (d : V) (m : SMap V) (k : Nat) (v : V) (h : mcanon d m = true) :
    mcanon d (mset d m k v) = true := by
  rw [mcanon_iff] at *
  by_cases hv : v = d
  · simp only [mset, hv, if_true]
    exact ⟨pairwise_merase m k h.1, fun e he => h.2 e (List.mem_filter.1 he).1⟩
  · simp only [mset, hv, if_false]
    refine ⟨pairwise_minsert _ k v (pairwise_merase m k h.1) (merase_keys m k), ?_⟩
    intro e he
    rcases (minsert_mem _ k v e).1 he with rfl | h'
    · exact hv
    · exact h.2 e (List.mem_filter.1 h').1

/-- Leaving entries out keeps the canonical form. -/
theorem filter_canon [DecidableEq V] (d : V) (m : SMap V) (p : Nat × V → Bool) (h : mcanon d m = true) :
    mcanon d (m.filter p) = true := by
  rw [mcanon_iff] at *
  exact ⟨h.1.sublist (List.Sublist.map _ List.filter_sublist), fun e he => h.2 e (List.mem_filter.1 he).1⟩

/-- Tables in canonical form that read the same are the same. -/
theorem mcanon_ext [DecidableEq V] (d : V) (m n : SMap V) (hm : mcanon d m = true) (hn : mcanon d n = true)
    (h : ∀ k, mget d m k = mget d n k) : m = n := by
  induction m generalizing n with
  | nil =>
    cases n with
    | nil => rfl
    | cons e r =>
      have := (mcanon_iff d _).1 hn
      have h' := h e.1
      simp [mget] at h'
      exact absurd h'.symm (this.2 e (by simp))
  | cons e r ih =>
    have hm' := (mcanon_iff d _).1 hm
    simp only [List.map_cons, List.pairwise_cons] at hm'
    have low : ∀ k, k < e.1 → mget d (e :: r) k = d := fun k hk => mget_not_mem d _ k (by
      intro e' he'
      rcases List.mem_cons.1 he' with rfl | he'
      · omega
      · have := hm'.1.1 e'.1 (List.mem_map.2 ⟨e', he', rfl⟩); omega)
    cases n with
    | nil =>
      have h' := h e.1
      simp [mget] at h'
      exact absurd h' (hm'.2 e (by simp))
    | cons f t =>
      have hn' := (mcanon_iff d _).1 hn
      simp only [List.map_cons, List.pairwise_cons] at hn'
      have lown : ∀ k, k < f.1 → mget d (f :: t) k = d := fun k hk => mget_not_mem d _ k (by
        intro e' he'
        rcases List.mem_cons.1 he' with rfl | he'
        · omega
        · have := hn'.1.1 e'.1 (List.mem_map.2 ⟨e', he', rfl⟩); omega)
      have hef : e.1 = f.1 := by
        rcases lt_trichotomy e.1 f.1 with hl | hl | hl
        · have h1 := h e.1
          rw [lown _ hl] at h1
          simp [mget] at h1
          exact absurd h1 (hm'.2 e (by simp))
        · exact hl
        · have h1 := h f.1
          rw [low _ hl] at h1
          simp [mget] at h1
          exact absurd h1.symm (hn'.2 f (by simp))
      have hv : e.2 = f.2 := by
        have h1 := h e.1
        simpa [mget, hef] using h1
      have hr : r = t := by
        apply ih t ((mcanon_iff d _).2 ⟨hm'.1.2, fun e' he' => hm'.2 e' (by simp [he'])⟩)
          ((mcanon_iff d _).2 ⟨hn'.1.2, fun e' he' => hn'.2 e' (by simp [he'])⟩)
        intro k
        by_cases hk : e.1 = k
        · subst hk
          rw [mget_not_mem d r, mget_not_mem d t]
          · intro e' he'
            have := hn'.1.1 e'.1 (List.mem_map.2 ⟨e', he', rfl⟩); omega
          · intro e' he'
            have := hm'.1.1 e'.1 (List.mem_map.2 ⟨e', he', rfl⟩); omega
        · have h1 := h k
          have hk' : ¬ f.1 = k := fun c => hk (hef.trans c)
          simpa [mget, hk, hk'] using h1
      rw [hr, Prod.ext hef hv]

end

/-! ## Byte memories -/

@[simp] theorem writeBytes_nil (m : SMap Byte) (a : Nat) : writeBytes m a [] = m := rfl

@[simp] theorem readBytes_length (m : SMap Byte) (a n : Nat) : (readBytes m a n).length = n := by simp [readBytes]

/-- Writing bytes keeps the canonical form. -/
theorem writeBytes_canon (m : SMap Byte) (a : Nat) (bs : List Byte) (h : mcanon 0 m = true) :
    mcanon 0 (writeBytes m a bs) = true := by
  induction bs generalizing m a with
  | nil => exact h
  | cons b r ih => exact ih _ _ (mset_canon 0 m a b h)

/-- A byte outside the bytes written reads as before. -/
theorem mget_writeBytes_outside (m : SMap Byte) (a x : Nat) (bs : List Byte) (h : x < a ∨ a + bs.length ≤ x) :
    mget 0 (writeBytes m a bs) x = mget 0 m x := by
  induction bs generalizing m a with
  | nil => rfl
  | cons b r ih =>
    simp only [List.length_cons] at h
    rw [writeBytes, ih _ _ (by omega), mget_mset_other 0 m b (by omega)]

/-- Byte `i` of the bytes written reads as the `i`-th byte. -/
theorem mget_writeBytes_inside (m : SMap Byte) (a i : Nat) (bs : List Byte) (h : i < bs.length) :
    mget 0 (writeBytes m a bs) (a + i) = bs[i] := by
  induction bs generalizing m a i with
  | nil => simp at h
  | cons b r ih =>
    cases i with
    | zero =>
      rw [writeBytes, Nat.add_zero, mget_writeBytes_outside _ _ _ _ (by omega)]
      simp
    | succ i =>
      have := ih (mset 0 m a b) (a + 1) i (by simpa using h)
      rw [writeBytes, show a + (i + 1) = a + 1 + i by omega, this]
      simp

/-- Reading the bytes written gives them back. -/
theorem readBytes_writeBytes (m : SMap Byte) (a : Nat) (bs : List Byte) :
    readBytes (writeBytes m a bs) a bs.length = bs := by
  apply List.ext_getElem
  · simp
  · intro i h1 h2
    simp only [readBytes, List.getElem_map, List.getElem_range]
    exact mget_writeBytes_inside m a i bs h2

/-- Reading bytes that a write does not touch gives what it gave before. -/
theorem readBytes_writeBytes_outside (m : SMap Byte) (a n x : Nat) (bs : List Byte)
    (h : x + n ≤ a ∨ a + bs.length ≤ x) : readBytes (writeBytes m a bs) x n = readBytes m x n := by
  apply List.ext_getElem
  · simp
  · intro i h1 h2
    simp only [readBytes, List.length_map, List.length_range] at h2
    simp only [readBytes, List.getElem_map, List.getElem_range]
    exact mget_writeBytes_outside m a _ bs (by omega)

@[simp] theorem leBytes_length (n v : Nat) : (leBytes n v).length = n := by
  induction n generalizing v with
  | zero => rfl
  | succ n ih => simp [leBytes, ih]

/-- The value of a number's bytes is the number, modulo their width. -/
theorem leNat_leBytes (n v : Nat) : leNat (leBytes n v) = v % 256 ^ n := by
  induction n generalizing v with
  | zero => simp [leBytes, leNat, Nat.mod_one]
  | succ n ih =>
    simp only [leBytes, leNat, ih, BitVec.toNat_ofNat, Nat.reducePow]
    rw [Nat.pow_succ, Nat.mul_comm (256 ^ n) 256, Nat.mod_mul]

@[simp] theorem wordBytes_length (w : Word) : (wordBytes w).length = 8 := by simp [wordBytes]

end Sys2Proof.Machine
end

