-- ==== Sys2Proof/Laws/State.lean ====
section
/-! SUPPORT. Laws of registers and fields: reading after writing, what a write leaves alone, and one lemma for every field
of the state and every named update. -/

namespace Sys2Proof.Machine

variable (s : State)

/-! ## Registers -/

theorem reg_setReg (k j : Key) (v : Word) : (s.setReg k v).reg j = if j = k then v else s.reg j := by
  obtain ⟨a, x⟩ := k
  obtain ⟨b, y⟩ := j
  simp only [State.reg, State.setReg, mget_mset, Key.mk.injEq]
  by_cases hb : b = a
  · subst hb
    by_cases hy : y = x
    · subst hy
      simp
    · simp [hy, mget_mset_other' _ _ _ v hy]
  · simp [hb]

/-- Reading the register that was written gives the value written. -/
@[simp] theorem reg_setReg_same (k : Key) (v : Word) : (s.setReg k v).reg k = v := by simp [reg_setReg]

/-- Writing a register leaves every other register alone. -/
theorem reg_setReg_other {k j : Key} (v : Word) (h : j ≠ k) : (s.setReg k v).reg j = s.reg j := by
  simp [reg_setReg, h]

@[simp] theorem rd_setReg_same (k : Key) (v : Word) : (s.setReg k v).rd k = v.toNat := by simp [State.rd]
@[simp] theorem reg_wr_same (k : Key) (n : Nat) : (s.wr k n).reg k = BitVec.ofNat 64 n := by simp [State.wr]
@[simp] theorem reg_bump_same (k : Key) : (s.bump k).reg k = s.reg k + 1 := by simp [State.bump]
@[simp] theorem reg_bumpBy_same (k : Key) (n : Nat) : (s.bumpBy k n).reg k = s.reg k + BitVec.ofNat 64 n := by
  simp [State.bumpBy]
theorem reg_wr_other {k j : Key} (n : Nat) (h : j ≠ k) : (s.wr k n).reg j = s.reg j := reg_setReg_other s _ h
theorem reg_bump_other {k j : Key} (h : j ≠ k) : (s.bump k).reg j = s.reg j := reg_setReg_other s _ h
theorem reg_bumpBy_other {k j : Key} (n : Nat) (h : j ≠ k) : (s.bumpBy k n).reg j = s.reg j := reg_setReg_other s _ h
theorem reg_put_other {f : Fld} {j : Key} (n : Nat) (h : j ≠ f.key) : (s.put f n).reg j = s.reg j :=
  reg_setReg_other s _ h
theorem get_setReg_other {k : Key} {f : Fld} (v : Word) (h : f.key ≠ k) : (s.setReg k v).get f = s.get f := by
  simp [State.get, reg_setReg_other s v h]
theorem get_put_key {f g : Fld} (n : Nat) (h : g.key ≠ f.key) : (s.put f n).get g = s.get g := get_setReg_other s _ h

/-! ## Fields -/

theorem bits_lt (w : Word) (hi lo : Nat) : bits w hi lo < 2 ^ (hi + 1 - lo) :=
  Nat.mod_lt _ (Nat.pow_pos (by decide))

/-- A number is its bits above `hi`, its bits [hi:lo] and its bits below `lo`. -/
theorem nat_split (w hi lo : Nat) (h : lo ≤ hi) :
    w = w / 2 ^ (hi + 1) * 2 ^ (hi + 1) + nbits w hi lo * 2 ^ lo + w % 2 ^ lo := by
  have e : 2 ^ (hi + 1) = 2 ^ lo * 2 ^ (hi + 1 - lo) := by rw [← Nat.pow_add]; congr 1; omega
  have h1 := Nat.div_add_mod w (2 ^ lo)
  have h2 := Nat.div_add_mod (w / 2 ^ lo) (2 ^ (hi + 1 - lo))
  rw [Nat.div_div_eq_div_mul, ← e] at h2
  simp only [nbits]
  rw [e]
  calc w = 2 ^ lo * (w / 2 ^ lo) + w % 2 ^ lo := h1.symm
    _ = 2 ^ lo * (2 ^ (hi + 1 - lo) * (w / (2 ^ lo * 2 ^ (hi + 1 - lo))) + w / 2 ^ lo % 2 ^ (hi + 1 - lo)) +
          w % 2 ^ lo := by rw [← e, h2]
    _ = _ := by ring

theorem setBits_toNat (w : Word) (hi lo n : Nat) (h : lo ≤ hi) (h64 : hi < 64) :
    (setBits w hi lo n).toNat =
      w.toNat / 2 ^ (hi + 1) * 2 ^ (hi + 1) + n % 2 ^ (hi + 1 - lo) * 2 ^ lo + w.toNat % 2 ^ lo := by
  have hs := nat_split w.toNat hi lo h
  have e : 2 ^ (hi + 1) = 2 ^ lo * 2 ^ (hi + 1 - lo) := by rw [← Nat.pow_add]; congr 1; omega
  have hn : n % 2 ^ (hi + 1 - lo) < 2 ^ (hi + 1 - lo) := Nat.mod_lt _ (Nat.pow_pos (by decide))
  have hm : w.toNat % 2 ^ lo < 2 ^ lo := Nat.mod_lt _ (Nat.pow_pos (by decide))
  have hw := w.isLt
  have e64 : 2 ^ 64 = 2 ^ (hi + 1) * 2 ^ (63 - hi) := by rw [← Nat.pow_add]; congr 1; omega
  have hq : w.toNat / 2 ^ (hi + 1) < 2 ^ (63 - hi) := by
    rw [Nat.div_lt_iff_lt_mul (Nat.pow_pos (by decide)), Nat.mul_comm, ← e64]; exact hw
  simp only [setBits, bits, BitVec.toNat_ofNat]
  rw [Nat.mod_eq_of_lt]
  · omega
  · have h3 : (w.toNat / 2 ^ (hi + 1) + 1) * 2 ^ (hi + 1) ≤ 2 ^ 64 := by
      rw [e64, Nat.mul_comm]; exact Nat.mul_le_mul_left _ hq
    have h4 : n % 2 ^ (hi + 1 - lo) * 2 ^ lo + w.toNat % 2 ^ lo < 2 ^ (hi + 1) := by
      rw [e]
      have h5 : (n % 2 ^ (hi + 1 - lo) + 1) * 2 ^ lo ≤ 2 ^ lo * 2 ^ (hi + 1 - lo) := by
        rw [Nat.mul_comm (2 ^ lo)]; exact Nat.mul_le_mul_right _ hn
      rw [Nat.add_mul] at h5
      omega
    rw [Nat.add_mul] at h3
    omega

/-- A field that was set reads the number set, modulo its width. -/
theorem bits_setBits_same (w : Word) (hi lo n : Nat) (h : lo ≤ hi) (h64 : hi < 64) :
    bits (setBits w hi lo n) hi lo = n % 2 ^ (hi + 1 - lo) := by
  have e : 2 ^ (hi + 1) = 2 ^ lo * 2 ^ (hi + 1 - lo) := by rw [← Nat.pow_add]; congr 1; omega
  have hn : n % 2 ^ (hi + 1 - lo) < 2 ^ (hi + 1 - lo) := Nat.mod_lt _ (Nat.pow_pos (by decide))
  have hm : w.toNat % 2 ^ lo < 2 ^ lo := Nat.mod_lt _ (Nat.pow_pos (by decide))
  simp only [bits, nbits]
  rw [setBits_toNat w hi lo n h h64, e]
  have : w.toNat / (2 ^ lo * 2 ^ (hi + 1 - lo)) * (2 ^ lo * 2 ^ (hi + 1 - lo)) + n % 2 ^ (hi + 1 - lo) * 2 ^ lo +
      w.toNat % 2 ^ lo = w.toNat % 2 ^ lo +
      2 ^ lo * (n % 2 ^ (hi + 1 - lo) + 2 ^ (hi + 1 - lo) * (w.toNat / (2 ^ lo * 2 ^ (hi + 1 - lo)))) := by ring
  rw [this, Nat.add_mul_div_left _ _ (Nat.pow_pos (by decide)), Nat.div_eq_of_lt hm, Nat.zero_add,
    Nat.add_mul_mod_self_left, Nat.mod_eq_of_lt hn]

/-- A bit of a word with a field set: the number's bit inside the field, the word's outside. -/
theorem setBits_testBit (w : Word) (hi lo n i : Nat) (h : lo ≤ hi) (h64 : hi < 64) :
    (setBits w hi lo n).toNat.testBit i =
      if lo ≤ i ∧ i ≤ hi then n.testBit (i - lo) else w.toNat.testBit i := by
  rw [setBits_toNat w hi lo n h h64]
  have hm : w.toNat % 2 ^ lo < 2 ^ lo := Nat.mod_lt _ (Nat.pow_pos (by decide))
  have hn : n % 2 ^ (hi + 1 - lo) < 2 ^ (hi + 1 - lo) := Nat.mod_lt _ (Nat.pow_pos (by decide))
  have e : 2 ^ (hi + 1) = 2 ^ lo * 2 ^ (hi + 1 - lo) := by rw [← Nat.pow_add]; congr 1; omega
  have r1 : w.toNat / 2 ^ (hi + 1) * 2 ^ (hi + 1) + n % 2 ^ (hi + 1 - lo) * 2 ^ lo + w.toNat % 2 ^ lo =
      2 ^ lo * (2 ^ (hi + 1 - lo) * (w.toNat / 2 ^ (hi + 1)) + n % 2 ^ (hi + 1 - lo)) + w.toNat % 2 ^ lo := by
    rw [e]; ring
  rw [r1, Nat.testBit_two_pow_mul_add _ hm]
  by_cases h1 : i < lo
  · simp only [h1, if_true, Nat.testBit_mod_two_pow, decide_true, Bool.true_and]
    rw [if_neg (by omega)]
  · simp only [h1, if_false]
    rw [Nat.testBit_two_pow_mul_add _ hn]
    by_cases h2 : i - lo < hi + 1 - lo
    · simp only [h2, if_true, Nat.testBit_mod_two_pow, decide_true, Bool.true_and]
      rw [if_pos (by omega)]
    · simp only [h2, if_false]
      rw [if_neg (by omega), ← Nat.shiftRight_eq_div_pow, Nat.testBit_shiftRight]
      congr 1; omega

/-- A field whose bits lie outside the field that was set reads as before. -/
theorem bits_setBits_other (w : Word) (hi lo n hi' lo' : Nat) (h : lo ≤ hi) (h64 : hi < 64)
    (hd : hi' < lo ∨ hi < lo') : bits (setBits w hi lo n) hi' lo' = bits w hi' lo' := by
  apply Nat.eq_of_testBit_eq
  intro i
  simp only [bits, nbits, Nat.testBit_mod_two_pow, ← Nat.shiftRight_eq_div_pow, Nat.testBit_shiftRight]
  by_cases hi1 : i < hi' + 1 - lo'
  · rw [setBits_testBit w hi lo n _ h h64, if_neg (by omega)]
  · simp [hi1]

/-- A field that was set reads the number set, modulo its width. -/
theorem get_put_same (f : Fld) (n : Nat) (h : f.lo ≤ f.hi) (h64 : f.hi < 64) :
    (s.put f n).get f = n % 2 ^ (f.hi + 1 - f.lo) := by
  simp [State.put, State.get, bits_setBits_same _ _ _ _ h h64]

/-- Setting a field leaves every other field of the same register alone. -/
theorem get_put_disjoint (f g : Fld) (n : Nat) (h : f.lo ≤ f.hi) (h64 : f.hi < 64) (hk : g.key = f.key)
    (hd : g.hi < f.lo ∨ f.hi < g.lo) : (s.put f n).get g = s.get g := by
  simp [State.put, State.get, hk, bits_setBits_other _ _ _ _ _ _ h h64 hd]

/-! ## Memory -/

/-- HBM4E bytes outside a write read as before. -/
theorem hbmRead_outside (a n x : Nat) (bs : List Byte) (h : x + n ≤ a ∨ a + bs.length ≤ x) :
    (s.hbmWrite a bs).hbmRead x n = s.hbmRead x n := readBytes_writeBytes_outside _ _ _ _ _ h

/-- HBM4E bytes that were written read back. -/
theorem hbmRead_hbmWrite (a : Nat) (bs : List Byte) : (s.hbmWrite a bs).hbmRead a bs.length = bs :=
  readBytes_writeBytes _ _ _

theorem hbmWrite_canon (a : Nat) (bs : List Byte) (h : mcanon 0 s.hbm = true) : mcanon 0 (s.hbmWrite a bs).hbm = true :=
  writeBytes_canon _ _ _ h

@[simp] theorem counter_setCounter_same (i : Nat) (v : Word) : (s.setCounter i v).counter i = v := by
  simp [State.counter, State.setCounter]
theorem counter_setCounter_other {i j : Nat} (v : Word) (h : j ≠ i) : (s.setCounter i v).counter j = s.counter j := by
  simp [State.counter, State.setCounter, mget_mset_other _ _ _ h]

/-! ## What the named updates leave alone -/


@[simp] theorem setReg_pending (k : Key) (v : Word) : (s.setReg k v).pending = s.pending := rfl
@[simp] theorem setReg_out (k : Key) (v : Word) : (s.setReg k v).out = s.out := rfl
@[simp] theorem setReg_free (k : Key) (v : Word) : (s.setReg k v).free = s.free := rfl
@[simp] theorem setReg_hbm (k : Key) (v : Word) : (s.setReg k v).hbm = s.hbm := rfl
@[simp] theorem setReg_tm (k : Key) (v : Word) : (s.setReg k v).tm = s.tm := rfl
@[simp] theorem setReg_xl (k : Key) (v : Word) : (s.setReg k v).xl = s.xl := rfl
@[simp] theorem setReg_tr (k : Key) (v : Word) : (s.setReg k v).tr = s.tr := rfl
@[simp] theorem setReg_dir (k : Key) (v : Word) : (s.setReg k v).dir = s.dir := rfl
@[simp] theorem setReg_xb (k : Key) (v : Word) : (s.setReg k v).xb = s.xb := rfl
@[simp] theorem setReg_pl (k : Key) (v : Word) : (s.setReg k v).pl = s.pl := rfl
@[simp] theorem setReg_ra (k : Key) (v : Word) : (s.setReg k v).ra = s.ra := rfl
@[simp] theorem setReg_st (k : Key) (v : Word) : (s.setReg k v).st = s.st := rfl
@[simp] theorem setReg_tu (k : Key) (v : Word) : (s.setReg k v).tu = s.tu := rfl
@[simp] theorem setReg_ti (k : Key) (v : Word) : (s.setReg k v).ti = s.ti := rfl
@[simp] theorem setReg_sq (k : Key) (v : Word) : (s.setReg k v).sq = s.sq := rfl
@[simp] theorem setReg_lk (k : Key) (v : Word) : (s.setReg k v).lk = s.lk := rfl
@[simp] theorem setReg_pa (k : Key) (v : Word) : (s.setReg k v).pa = s.pa := rfl
@[simp] theorem setReg_hm (k : Key) (v : Word) : (s.setReg k v).hm = s.hm := rfl
@[simp] theorem setReg_pg (k : Key) (v : Word) : (s.setReg k v).pg = s.pg := rfl
@[simp] theorem setReg_he (k : Key) (v : Word) : (s.setReg k v).he = s.he := rfl
@[simp] theorem setReg_ck (k : Key) (v : Word) : (s.setReg k v).ck = s.ck := rfl
@[simp] theorem setReg_sh (k : Key) (v : Word) : (s.setReg k v).sh = s.sh := rfl
@[simp] theorem setReg_rs (k : Key) (v : Word) : (s.setReg k v).rs = s.rs := rfl
@[simp] theorem setReg_badLines (k : Key) (v : Word) : (s.setReg k v).badLines = s.badLines := rfl
@[simp] theorem setReg_badReads (k : Key) (v : Word) : (s.setReg k v).badReads = s.badReads := rfl

@[simp] theorem put_pending (f : Fld) (n : Nat) : (s.put f n).pending = s.pending := rfl
@[simp] theorem put_out (f : Fld) (n : Nat) : (s.put f n).out = s.out := rfl
@[simp] theorem put_free (f : Fld) (n : Nat) : (s.put f n).free = s.free := rfl
@[simp] theorem put_hbm (f : Fld) (n : Nat) : (s.put f n).hbm = s.hbm := rfl
@[simp] theorem put_tm (f : Fld) (n : Nat) : (s.put f n).tm = s.tm := rfl
@[simp] theorem put_xl (f : Fld) (n : Nat) : (s.put f n).xl = s.xl := rfl
@[simp] theorem put_tr (f : Fld) (n : Nat) : (s.put f n).tr = s.tr := rfl
@[simp] theorem put_dir (f : Fld) (n : Nat) : (s.put f n).dir = s.dir := rfl
@[simp] theorem put_xb (f : Fld) (n : Nat) : (s.put f n).xb = s.xb := rfl
@[simp] theorem put_pl (f : Fld) (n : Nat) : (s.put f n).pl = s.pl := rfl
@[simp] theorem put_ra (f : Fld) (n : Nat) : (s.put f n).ra = s.ra := rfl
@[simp] theorem put_st (f : Fld) (n : Nat) : (s.put f n).st = s.st := rfl
@[simp] theorem put_tu (f : Fld) (n : Nat) : (s.put f n).tu = s.tu := rfl
@[simp] theorem put_ti (f : Fld) (n : Nat) : (s.put f n).ti = s.ti := rfl
@[simp] theorem put_sq (f : Fld) (n : Nat) : (s.put f n).sq = s.sq := rfl
@[simp] theorem put_lk (f : Fld) (n : Nat) : (s.put f n).lk = s.lk := rfl
@[simp] theorem put_pa (f : Fld) (n : Nat) : (s.put f n).pa = s.pa := rfl
@[simp] theorem put_hm (f : Fld) (n : Nat) : (s.put f n).hm = s.hm := rfl
@[simp] theorem put_pg (f : Fld) (n : Nat) : (s.put f n).pg = s.pg := rfl
@[simp] theorem put_he (f : Fld) (n : Nat) : (s.put f n).he = s.he := rfl
@[simp] theorem put_ck (f : Fld) (n : Nat) : (s.put f n).ck = s.ck := rfl
@[simp] theorem put_sh (f : Fld) (n : Nat) : (s.put f n).sh = s.sh := rfl
@[simp] theorem put_rs (f : Fld) (n : Nat) : (s.put f n).rs = s.rs := rfl
@[simp] theorem put_badLines (f : Fld) (n : Nat) : (s.put f n).badLines = s.badLines := rfl
@[simp] theorem put_badReads (f : Fld) (n : Nat) : (s.put f n).badReads = s.badReads := rfl

@[simp] theorem wr_pending (k : Key) (n : Nat) : (s.wr k n).pending = s.pending := rfl
@[simp] theorem wr_out (k : Key) (n : Nat) : (s.wr k n).out = s.out := rfl
@[simp] theorem wr_free (k : Key) (n : Nat) : (s.wr k n).free = s.free := rfl
@[simp] theorem wr_hbm (k : Key) (n : Nat) : (s.wr k n).hbm = s.hbm := rfl
@[simp] theorem wr_tm (k : Key) (n : Nat) : (s.wr k n).tm = s.tm := rfl
@[simp] theorem wr_xl (k : Key) (n : Nat) : (s.wr k n).xl = s.xl := rfl
@[simp] theorem wr_tr (k : Key) (n : Nat) : (s.wr k n).tr = s.tr := rfl
@[simp] theorem wr_dir (k : Key) (n : Nat) : (s.wr k n).dir = s.dir := rfl
@[simp] theorem wr_xb (k : Key) (n : Nat) : (s.wr k n).xb = s.xb := rfl
@[simp] theorem wr_pl (k : Key) (n : Nat) : (s.wr k n).pl = s.pl := rfl
@[simp] theorem wr_ra (k : Key) (n : Nat) : (s.wr k n).ra = s.ra := rfl
@[simp] theorem wr_st (k : Key) (n : Nat) : (s.wr k n).st = s.st := rfl
@[simp] theorem wr_tu (k : Key) (n : Nat) : (s.wr k n).tu = s.tu := rfl
@[simp] theorem wr_ti (k : Key) (n : Nat) : (s.wr k n).ti = s.ti := rfl
@[simp] theorem wr_sq (k : Key) (n : Nat) : (s.wr k n).sq = s.sq := rfl
@[simp] theorem wr_lk (k : Key) (n : Nat) : (s.wr k n).lk = s.lk := rfl
@[simp] theorem wr_pa (k : Key) (n : Nat) : (s.wr k n).pa = s.pa := rfl
@[simp] theorem wr_hm (k : Key) (n : Nat) : (s.wr k n).hm = s.hm := rfl
@[simp] theorem wr_pg (k : Key) (n : Nat) : (s.wr k n).pg = s.pg := rfl
@[simp] theorem wr_he (k : Key) (n : Nat) : (s.wr k n).he = s.he := rfl
@[simp] theorem wr_ck (k : Key) (n : Nat) : (s.wr k n).ck = s.ck := rfl
@[simp] theorem wr_sh (k : Key) (n : Nat) : (s.wr k n).sh = s.sh := rfl
@[simp] theorem wr_rs (k : Key) (n : Nat) : (s.wr k n).rs = s.rs := rfl
@[simp] theorem wr_badLines (k : Key) (n : Nat) : (s.wr k n).badLines = s.badLines := rfl
@[simp] theorem wr_badReads (k : Key) (n : Nat) : (s.wr k n).badReads = s.badReads := rfl

@[simp] theorem bump_pending (k : Key) : (s.bump k).pending = s.pending := rfl
@[simp] theorem bump_out (k : Key) : (s.bump k).out = s.out := rfl
@[simp] theorem bump_free (k : Key) : (s.bump k).free = s.free := rfl
@[simp] theorem bump_hbm (k : Key) : (s.bump k).hbm = s.hbm := rfl
@[simp] theorem bump_tm (k : Key) : (s.bump k).tm = s.tm := rfl
@[simp] theorem bump_xl (k : Key) : (s.bump k).xl = s.xl := rfl
@[simp] theorem bump_tr (k : Key) : (s.bump k).tr = s.tr := rfl
@[simp] theorem bump_dir (k : Key) : (s.bump k).dir = s.dir := rfl
@[simp] theorem bump_xb (k : Key) : (s.bump k).xb = s.xb := rfl
@[simp] theorem bump_pl (k : Key) : (s.bump k).pl = s.pl := rfl
@[simp] theorem bump_ra (k : Key) : (s.bump k).ra = s.ra := rfl
@[simp] theorem bump_st (k : Key) : (s.bump k).st = s.st := rfl
@[simp] theorem bump_tu (k : Key) : (s.bump k).tu = s.tu := rfl
@[simp] theorem bump_ti (k : Key) : (s.bump k).ti = s.ti := rfl
@[simp] theorem bump_sq (k : Key) : (s.bump k).sq = s.sq := rfl
@[simp] theorem bump_lk (k : Key) : (s.bump k).lk = s.lk := rfl
@[simp] theorem bump_pa (k : Key) : (s.bump k).pa = s.pa := rfl
@[simp] theorem bump_hm (k : Key) : (s.bump k).hm = s.hm := rfl
@[simp] theorem bump_pg (k : Key) : (s.bump k).pg = s.pg := rfl
@[simp] theorem bump_he (k : Key) : (s.bump k).he = s.he := rfl
@[simp] theorem bump_ck (k : Key) : (s.bump k).ck = s.ck := rfl
@[simp] theorem bump_sh (k : Key) : (s.bump k).sh = s.sh := rfl
@[simp] theorem bump_rs (k : Key) : (s.bump k).rs = s.rs := rfl
@[simp] theorem bump_badLines (k : Key) : (s.bump k).badLines = s.badLines := rfl
@[simp] theorem bump_badReads (k : Key) : (s.bump k).badReads = s.badReads := rfl

@[simp] theorem bumpBy_pending (k : Key) (n : Nat) : (s.bumpBy k n).pending = s.pending := rfl
@[simp] theorem bumpBy_out (k : Key) (n : Nat) : (s.bumpBy k n).out = s.out := rfl
@[simp] theorem bumpBy_free (k : Key) (n : Nat) : (s.bumpBy k n).free = s.free := rfl
@[simp] theorem bumpBy_hbm (k : Key) (n : Nat) : (s.bumpBy k n).hbm = s.hbm := rfl
@[simp] theorem bumpBy_tm (k : Key) (n : Nat) : (s.bumpBy k n).tm = s.tm := rfl
@[simp] theorem bumpBy_xl (k : Key) (n : Nat) : (s.bumpBy k n).xl = s.xl := rfl
@[simp] theorem bumpBy_tr (k : Key) (n : Nat) : (s.bumpBy k n).tr = s.tr := rfl
@[simp] theorem bumpBy_dir (k : Key) (n : Nat) : (s.bumpBy k n).dir = s.dir := rfl
@[simp] theorem bumpBy_xb (k : Key) (n : Nat) : (s.bumpBy k n).xb = s.xb := rfl
@[simp] theorem bumpBy_pl (k : Key) (n : Nat) : (s.bumpBy k n).pl = s.pl := rfl
@[simp] theorem bumpBy_ra (k : Key) (n : Nat) : (s.bumpBy k n).ra = s.ra := rfl
@[simp] theorem bumpBy_st (k : Key) (n : Nat) : (s.bumpBy k n).st = s.st := rfl
@[simp] theorem bumpBy_tu (k : Key) (n : Nat) : (s.bumpBy k n).tu = s.tu := rfl
@[simp] theorem bumpBy_ti (k : Key) (n : Nat) : (s.bumpBy k n).ti = s.ti := rfl
@[simp] theorem bumpBy_sq (k : Key) (n : Nat) : (s.bumpBy k n).sq = s.sq := rfl
@[simp] theorem bumpBy_lk (k : Key) (n : Nat) : (s.bumpBy k n).lk = s.lk := rfl
@[simp] theorem bumpBy_pa (k : Key) (n : Nat) : (s.bumpBy k n).pa = s.pa := rfl
@[simp] theorem bumpBy_hm (k : Key) (n : Nat) : (s.bumpBy k n).hm = s.hm := rfl
@[simp] theorem bumpBy_pg (k : Key) (n : Nat) : (s.bumpBy k n).pg = s.pg := rfl
@[simp] theorem bumpBy_he (k : Key) (n : Nat) : (s.bumpBy k n).he = s.he := rfl
@[simp] theorem bumpBy_ck (k : Key) (n : Nat) : (s.bumpBy k n).ck = s.ck := rfl
@[simp] theorem bumpBy_sh (k : Key) (n : Nat) : (s.bumpBy k n).sh = s.sh := rfl
@[simp] theorem bumpBy_rs (k : Key) (n : Nat) : (s.bumpBy k n).rs = s.rs := rfl
@[simp] theorem bumpBy_badLines (k : Key) (n : Nat) : (s.bumpBy k n).badLines = s.badLines := rfl
@[simp] theorem bumpBy_badReads (k : Key) (n : Nat) : (s.bumpBy k n).badReads = s.badReads := rfl

@[simp] theorem flag_pending (f : Fld) : (s.flag f).pending = s.pending := rfl
@[simp] theorem flag_out (f : Fld) : (s.flag f).out = s.out := rfl
@[simp] theorem flag_free (f : Fld) : (s.flag f).free = s.free := rfl
@[simp] theorem flag_hbm (f : Fld) : (s.flag f).hbm = s.hbm := rfl
@[simp] theorem flag_tm (f : Fld) : (s.flag f).tm = s.tm := rfl
@[simp] theorem flag_xl (f : Fld) : (s.flag f).xl = s.xl := rfl
@[simp] theorem flag_tr (f : Fld) : (s.flag f).tr = s.tr := rfl
@[simp] theorem flag_dir (f : Fld) : (s.flag f).dir = s.dir := rfl
@[simp] theorem flag_xb (f : Fld) : (s.flag f).xb = s.xb := rfl
@[simp] theorem flag_pl (f : Fld) : (s.flag f).pl = s.pl := rfl
@[simp] theorem flag_ra (f : Fld) : (s.flag f).ra = s.ra := rfl
@[simp] theorem flag_st (f : Fld) : (s.flag f).st = s.st := rfl
@[simp] theorem flag_tu (f : Fld) : (s.flag f).tu = s.tu := rfl
@[simp] theorem flag_ti (f : Fld) : (s.flag f).ti = s.ti := rfl
@[simp] theorem flag_sq (f : Fld) : (s.flag f).sq = s.sq := rfl
@[simp] theorem flag_lk (f : Fld) : (s.flag f).lk = s.lk := rfl
@[simp] theorem flag_pa (f : Fld) : (s.flag f).pa = s.pa := rfl
@[simp] theorem flag_hm (f : Fld) : (s.flag f).hm = s.hm := rfl
@[simp] theorem flag_pg (f : Fld) : (s.flag f).pg = s.pg := rfl
@[simp] theorem flag_he (f : Fld) : (s.flag f).he = s.he := rfl
@[simp] theorem flag_ck (f : Fld) : (s.flag f).ck = s.ck := rfl
@[simp] theorem flag_sh (f : Fld) : (s.flag f).sh = s.sh := rfl
@[simp] theorem flag_rs (f : Fld) : (s.flag f).rs = s.rs := rfl
@[simp] theorem flag_badLines (f : Fld) : (s.flag f).badLines = s.badLines := rfl
@[simp] theorem flag_badReads (f : Fld) : (s.flag f).badReads = s.badReads := rfl

@[simp] theorem mark_pending (k : Nat → Key) (e : Nat) (b : Bool) : (s.mark k e b).pending = s.pending := rfl
@[simp] theorem mark_out (k : Nat → Key) (e : Nat) (b : Bool) : (s.mark k e b).out = s.out := rfl
@[simp] theorem mark_free (k : Nat → Key) (e : Nat) (b : Bool) : (s.mark k e b).free = s.free := rfl
@[simp] theorem mark_hbm (k : Nat → Key) (e : Nat) (b : Bool) : (s.mark k e b).hbm = s.hbm := rfl
@[simp] theorem mark_tm (k : Nat → Key) (e : Nat) (b : Bool) : (s.mark k e b).tm = s.tm := rfl
@[simp] theorem mark_xl (k : Nat → Key) (e : Nat) (b : Bool) : (s.mark k e b).xl = s.xl := rfl
@[simp] theorem mark_tr (k : Nat → Key) (e : Nat) (b : Bool) : (s.mark k e b).tr = s.tr := rfl
@[simp] theorem mark_dir (k : Nat → Key) (e : Nat) (b : Bool) : (s.mark k e b).dir = s.dir := rfl
@[simp] theorem mark_xb (k : Nat → Key) (e : Nat) (b : Bool) : (s.mark k e b).xb = s.xb := rfl
@[simp] theorem mark_pl (k : Nat → Key) (e : Nat) (b : Bool) : (s.mark k e b).pl = s.pl := rfl
@[simp] theorem mark_ra (k : Nat → Key) (e : Nat) (b : Bool) : (s.mark k e b).ra = s.ra := rfl
@[simp] theorem mark_st (k : Nat → Key) (e : Nat) (b : Bool) : (s.mark k e b).st = s.st := rfl
@[simp] theorem mark_tu (k : Nat → Key) (e : Nat) (b : Bool) : (s.mark k e b).tu = s.tu := rfl
@[simp] theorem mark_ti (k : Nat → Key) (e : Nat) (b : Bool) : (s.mark k e b).ti = s.ti := rfl
@[simp] theorem mark_sq (k : Nat → Key) (e : Nat) (b : Bool) : (s.mark k e b).sq = s.sq := rfl
@[simp] theorem mark_lk (k : Nat → Key) (e : Nat) (b : Bool) : (s.mark k e b).lk = s.lk := rfl
@[simp] theorem mark_pa (k : Nat → Key) (e : Nat) (b : Bool) : (s.mark k e b).pa = s.pa := rfl
@[simp] theorem mark_hm (k : Nat → Key) (e : Nat) (b : Bool) : (s.mark k e b).hm = s.hm := rfl
@[simp] theorem mark_pg (k : Nat → Key) (e : Nat) (b : Bool) : (s.mark k e b).pg = s.pg := rfl
@[simp] theorem mark_he (k : Nat → Key) (e : Nat) (b : Bool) : (s.mark k e b).he = s.he := rfl
@[simp] theorem mark_ck (k : Nat → Key) (e : Nat) (b : Bool) : (s.mark k e b).ck = s.ck := rfl
@[simp] theorem mark_sh (k : Nat → Key) (e : Nat) (b : Bool) : (s.mark k e b).sh = s.sh := rfl
@[simp] theorem mark_rs (k : Nat → Key) (e : Nat) (b : Bool) : (s.mark k e b).rs = s.rs := rfl
@[simp] theorem mark_badLines (k : Nat → Key) (e : Nat) (b : Bool) : (s.mark k e b).badLines = s.badLines := rfl
@[simp] theorem mark_badReads (k : Nat → Key) (e : Nat) (b : Bool) : (s.mark k e b).badReads = s.badReads := rfl

@[simp] theorem emit_pending (o : Out) : (s.emit o).pending = s.pending := rfl
@[simp] theorem emit_regs (o : Out) : (s.emit o).regs = s.regs := rfl
@[simp] theorem emit_free (o : Out) : (s.emit o).free = s.free := rfl
@[simp] theorem emit_hbm (o : Out) : (s.emit o).hbm = s.hbm := rfl
@[simp] theorem emit_tm (o : Out) : (s.emit o).tm = s.tm := rfl
@[simp] theorem emit_xl (o : Out) : (s.emit o).xl = s.xl := rfl
@[simp] theorem emit_tr (o : Out) : (s.emit o).tr = s.tr := rfl
@[simp] theorem emit_dir (o : Out) : (s.emit o).dir = s.dir := rfl
@[simp] theorem emit_xb (o : Out) : (s.emit o).xb = s.xb := rfl
@[simp] theorem emit_pl (o : Out) : (s.emit o).pl = s.pl := rfl
@[simp] theorem emit_ra (o : Out) : (s.emit o).ra = s.ra := rfl
@[simp] theorem emit_st (o : Out) : (s.emit o).st = s.st := rfl
@[simp] theorem emit_tu (o : Out) : (s.emit o).tu = s.tu := rfl
@[simp] theorem emit_ti (o : Out) : (s.emit o).ti = s.ti := rfl
@[simp] theorem emit_sq (o : Out) : (s.emit o).sq = s.sq := rfl
@[simp] theorem emit_lk (o : Out) : (s.emit o).lk = s.lk := rfl
@[simp] theorem emit_pa (o : Out) : (s.emit o).pa = s.pa := rfl
@[simp] theorem emit_hm (o : Out) : (s.emit o).hm = s.hm := rfl
@[simp] theorem emit_pg (o : Out) : (s.emit o).pg = s.pg := rfl
@[simp] theorem emit_he (o : Out) : (s.emit o).he = s.he := rfl
@[simp] theorem emit_ck (o : Out) : (s.emit o).ck = s.ck := rfl
@[simp] theorem emit_sh (o : Out) : (s.emit o).sh = s.sh := rfl
@[simp] theorem emit_rs (o : Out) : (s.emit o).rs = s.rs := rfl
@[simp] theorem emit_badLines (o : Out) : (s.emit o).badLines = s.badLines := rfl
@[simp] theorem emit_badReads (o : Out) : (s.emit o).badReads = s.badReads := rfl
@[simp] theorem emit_reg (o : Out) (j : Key) : (s.emit o).reg j = s.reg j := rfl
@[simp] theorem emit_get (o : Out) (j : Fld) : (s.emit o).get j = s.get j := rfl
@[simp] theorem emit_rd (o : Out) (j : Key) : (s.emit o).rd j = s.rd j := rfl
@[simp] theorem emit_on (o : Out) (j : Fld) : (s.emit o).on j = s.on j := rfl

/-! A message of a vector is sent, or kept as pending. -/

@[simp] theorem sendMsix_pending (v : Nat) : (s.sendMsix v).pending = s.pending := by unfold State.sendMsix; split; (split <;> rfl); rfl
@[simp] theorem sendMsix_regs (v : Nat) : (s.sendMsix v).regs = s.regs := by unfold State.sendMsix; split; (split <;> rfl); rfl
@[simp] theorem sendMsix_free (v : Nat) : (s.sendMsix v).free = s.free := by unfold State.sendMsix; split; (split <;> rfl); rfl
@[simp] theorem sendMsix_hbm (v : Nat) : (s.sendMsix v).hbm = s.hbm := by unfold State.sendMsix; split; (split <;> rfl); rfl
@[simp] theorem sendMsix_tm (v : Nat) : (s.sendMsix v).tm = s.tm := by unfold State.sendMsix; split; (split <;> rfl); rfl
@[simp] theorem sendMsix_xl (v : Nat) : (s.sendMsix v).xl = s.xl := by unfold State.sendMsix; split; (split <;> rfl); rfl
@[simp] theorem sendMsix_tr (v : Nat) : (s.sendMsix v).tr = s.tr := by unfold State.sendMsix; split; (split <;> rfl); rfl
@[simp] theorem sendMsix_dir (v : Nat) : (s.sendMsix v).dir = s.dir := by unfold State.sendMsix; split; (split <;> rfl); rfl
@[simp] theorem sendMsix_xb (v : Nat) : (s.sendMsix v).xb = s.xb := by unfold State.sendMsix; split; (split <;> rfl); rfl
@[simp] theorem sendMsix_pl (v : Nat) : (s.sendMsix v).pl = s.pl := by unfold State.sendMsix; split; (split <;> rfl); rfl
@[simp] theorem sendMsix_ra (v : Nat) : (s.sendMsix v).ra = s.ra := by unfold State.sendMsix; split; (split <;> rfl); rfl
@[simp] theorem sendMsix_st (v : Nat) : (s.sendMsix v).st = s.st := by unfold State.sendMsix; split; (split <;> rfl); rfl
@[simp] theorem sendMsix_tu (v : Nat) : (s.sendMsix v).tu = s.tu := by unfold State.sendMsix; split; (split <;> rfl); rfl
@[simp] theorem sendMsix_ti (v : Nat) : (s.sendMsix v).ti = s.ti := by unfold State.sendMsix; split; (split <;> rfl); rfl
@[simp] theorem sendMsix_sq (v : Nat) : (s.sendMsix v).sq = s.sq := by unfold State.sendMsix; split; (split <;> rfl); rfl
@[simp] theorem sendMsix_lk (v : Nat) : (s.sendMsix v).lk = s.lk := by unfold State.sendMsix; split; (split <;> rfl); rfl
@[simp] theorem sendMsix_pa (v : Nat) : (s.sendMsix v).pa = s.pa := by unfold State.sendMsix; split; (split <;> rfl); rfl
@[simp] theorem sendMsix_pg (v : Nat) : (s.sendMsix v).pg = s.pg := by unfold State.sendMsix; split; (split <;> rfl); rfl
@[simp] theorem sendMsix_he (v : Nat) : (s.sendMsix v).he = s.he := by unfold State.sendMsix; split; (split <;> rfl); rfl
@[simp] theorem sendMsix_ck (v : Nat) : (s.sendMsix v).ck = s.ck := by unfold State.sendMsix; split; (split <;> rfl); rfl
@[simp] theorem sendMsix_sh (v : Nat) : (s.sendMsix v).sh = s.sh := by unfold State.sendMsix; split; (split <;> rfl); rfl
@[simp] theorem sendMsix_rs (v : Nat) : (s.sendMsix v).rs = s.rs := by unfold State.sendMsix; split; (split <;> rfl); rfl
@[simp] theorem sendMsix_badLines (v : Nat) : (s.sendMsix v).badLines = s.badLines := by unfold State.sendMsix; split; (split <;> rfl); rfl
@[simp] theorem sendMsix_badReads (v : Nat) : (s.sendMsix v).badReads = s.badReads := by unfold State.sendMsix; split; (split <;> rfl); rfl
@[simp] theorem sendMsix_reg (v : Nat) (j : Key) : (s.sendMsix v).reg j = s.reg j := by unfold State.sendMsix; split; (split <;> rfl); rfl
@[simp] theorem sendMsix_get (v : Nat) (j : Fld) : (s.sendMsix v).get j = s.get j := by unfold State.sendMsix; split; (split <;> rfl); rfl
@[simp] theorem sendMsix_rd (v : Nat) (j : Key) : (s.sendMsix v).rd j = s.rd j := by unfold State.sendMsix; split; (split <;> rfl); rfl
@[simp] theorem sendMsix_on (v : Nat) (j : Fld) : (s.sendMsix v).on j = s.on j := by unfold State.sendMsix; split; (split <;> rfl); rfl

@[simp] theorem take_pending : (s.take.2).pending = s.pending := rfl
@[simp] theorem take_regs : (s.take.2).regs = s.regs := rfl
@[simp] theorem take_out : (s.take.2).out = s.out := rfl
@[simp] theorem take_hbm : (s.take.2).hbm = s.hbm := rfl
@[simp] theorem take_tm : (s.take.2).tm = s.tm := rfl
@[simp] theorem take_xl : (s.take.2).xl = s.xl := rfl
@[simp] theorem take_tr : (s.take.2).tr = s.tr := rfl
@[simp] theorem take_dir : (s.take.2).dir = s.dir := rfl
@[simp] theorem take_xb : (s.take.2).xb = s.xb := rfl
@[simp] theorem take_pl : (s.take.2).pl = s.pl := rfl
@[simp] theorem take_ra : (s.take.2).ra = s.ra := rfl
@[simp] theorem take_st : (s.take.2).st = s.st := rfl
@[simp] theorem take_tu : (s.take.2).tu = s.tu := rfl
@[simp] theorem take_ti : (s.take.2).ti = s.ti := rfl
@[simp] theorem take_sq : (s.take.2).sq = s.sq := rfl
@[simp] theorem take_lk : (s.take.2).lk = s.lk := rfl
@[simp] theorem take_pa : (s.take.2).pa = s.pa := rfl
@[simp] theorem take_hm : (s.take.2).hm = s.hm := rfl
@[simp] theorem take_pg : (s.take.2).pg = s.pg := rfl
@[simp] theorem take_he : (s.take.2).he = s.he := rfl
@[simp] theorem take_ck : (s.take.2).ck = s.ck := rfl
@[simp] theorem take_sh : (s.take.2).sh = s.sh := rfl
@[simp] theorem take_rs : (s.take.2).rs = s.rs := rfl
@[simp] theorem take_badLines : (s.take.2).badLines = s.badLines := rfl
@[simp] theorem take_badReads : (s.take.2).badReads = s.badReads := rfl
@[simp] theorem take_reg (j : Key) : (s.take.2).reg j = s.reg j := rfl
@[simp] theorem take_get (j : Fld) : (s.take.2).get j = s.get j := rfl
@[simp] theorem take_rd (j : Key) : (s.take.2).rd j = s.rd j := rfl
@[simp] theorem take_on (j : Fld) : (s.take.2).on j = s.on j := rfl

@[simp] theorem hbmWrite_pending (a : Nat) (bs : List Byte) : (s.hbmWrite a bs).pending = s.pending := rfl
@[simp] theorem hbmWrite_regs (a : Nat) (bs : List Byte) : (s.hbmWrite a bs).regs = s.regs := rfl
@[simp] theorem hbmWrite_out (a : Nat) (bs : List Byte) : (s.hbmWrite a bs).out = s.out := rfl
@[simp] theorem hbmWrite_free (a : Nat) (bs : List Byte) : (s.hbmWrite a bs).free = s.free := rfl
@[simp] theorem hbmWrite_tm (a : Nat) (bs : List Byte) : (s.hbmWrite a bs).tm = s.tm := rfl
@[simp] theorem hbmWrite_xl (a : Nat) (bs : List Byte) : (s.hbmWrite a bs).xl = s.xl := rfl
@[simp] theorem hbmWrite_tr (a : Nat) (bs : List Byte) : (s.hbmWrite a bs).tr = s.tr := rfl
@[simp] theorem hbmWrite_dir (a : Nat) (bs : List Byte) : (s.hbmWrite a bs).dir = s.dir := rfl
@[simp] theorem hbmWrite_xb (a : Nat) (bs : List Byte) : (s.hbmWrite a bs).xb = s.xb := rfl
@[simp] theorem hbmWrite_pl (a : Nat) (bs : List Byte) : (s.hbmWrite a bs).pl = s.pl := rfl
@[simp] theorem hbmWrite_ra (a : Nat) (bs : List Byte) : (s.hbmWrite a bs).ra = s.ra := rfl
@[simp] theorem hbmWrite_st (a : Nat) (bs : List Byte) : (s.hbmWrite a bs).st = s.st := rfl
@[simp] theorem hbmWrite_tu (a : Nat) (bs : List Byte) : (s.hbmWrite a bs).tu = s.tu := rfl
@[simp] theorem hbmWrite_ti (a : Nat) (bs : List Byte) : (s.hbmWrite a bs).ti = s.ti := rfl
@[simp] theorem hbmWrite_sq (a : Nat) (bs : List Byte) : (s.hbmWrite a bs).sq = s.sq := rfl
@[simp] theorem hbmWrite_lk (a : Nat) (bs : List Byte) : (s.hbmWrite a bs).lk = s.lk := rfl
@[simp] theorem hbmWrite_pa (a : Nat) (bs : List Byte) : (s.hbmWrite a bs).pa = s.pa := rfl
@[simp] theorem hbmWrite_hm (a : Nat) (bs : List Byte) : (s.hbmWrite a bs).hm = s.hm := rfl
@[simp] theorem hbmWrite_pg (a : Nat) (bs : List Byte) : (s.hbmWrite a bs).pg = s.pg := rfl
@[simp] theorem hbmWrite_he (a : Nat) (bs : List Byte) : (s.hbmWrite a bs).he = s.he := rfl
@[simp] theorem hbmWrite_ck (a : Nat) (bs : List Byte) : (s.hbmWrite a bs).ck = s.ck := rfl
@[simp] theorem hbmWrite_sh (a : Nat) (bs : List Byte) : (s.hbmWrite a bs).sh = s.sh := rfl
@[simp] theorem hbmWrite_rs (a : Nat) (bs : List Byte) : (s.hbmWrite a bs).rs = s.rs := rfl
@[simp] theorem hbmWrite_badLines (a : Nat) (bs : List Byte) : (s.hbmWrite a bs).badLines = s.badLines := rfl
@[simp] theorem hbmWrite_badReads (a : Nat) (bs : List Byte) : (s.hbmWrite a bs).badReads = s.badReads := rfl
@[simp] theorem hbmWrite_reg (a : Nat) (bs : List Byte) (j : Key) : (s.hbmWrite a bs).reg j = s.reg j := rfl
@[simp] theorem hbmWrite_get (a : Nat) (bs : List Byte) (j : Fld) : (s.hbmWrite a bs).get j = s.get j := rfl
@[simp] theorem hbmWrite_rd (a : Nat) (bs : List Byte) (j : Key) : (s.hbmWrite a bs).rd j = s.rd j := rfl
@[simp] theorem hbmWrite_on (a : Nat) (bs : List Byte) (j : Fld) : (s.hbmWrite a bs).on j = s.on j := rfl

@[simp] theorem tunWrite_pending (a : Nat) (bs : List Byte) : (s.tunWrite a bs).pending = s.pending := rfl
@[simp] theorem tunWrite_regs (a : Nat) (bs : List Byte) : (s.tunWrite a bs).regs = s.regs := rfl
@[simp] theorem tunWrite_out (a : Nat) (bs : List Byte) : (s.tunWrite a bs).out = s.out := rfl
@[simp] theorem tunWrite_free (a : Nat) (bs : List Byte) : (s.tunWrite a bs).free = s.free := rfl
@[simp] theorem tunWrite_hbm (a : Nat) (bs : List Byte) : (s.tunWrite a bs).hbm = s.hbm := rfl
@[simp] theorem tunWrite_tm (a : Nat) (bs : List Byte) : (s.tunWrite a bs).tm = s.tm := rfl
@[simp] theorem tunWrite_xl (a : Nat) (bs : List Byte) : (s.tunWrite a bs).xl = s.xl := rfl
@[simp] theorem tunWrite_tr (a : Nat) (bs : List Byte) : (s.tunWrite a bs).tr = s.tr := rfl
@[simp] theorem tunWrite_dir (a : Nat) (bs : List Byte) : (s.tunWrite a bs).dir = s.dir := rfl
@[simp] theorem tunWrite_xb (a : Nat) (bs : List Byte) : (s.tunWrite a bs).xb = s.xb := rfl
@[simp] theorem tunWrite_pl (a : Nat) (bs : List Byte) : (s.tunWrite a bs).pl = s.pl := rfl
@[simp] theorem tunWrite_ra (a : Nat) (bs : List Byte) : (s.tunWrite a bs).ra = s.ra := rfl
@[simp] theorem tunWrite_st (a : Nat) (bs : List Byte) : (s.tunWrite a bs).st = s.st := rfl
@[simp] theorem tunWrite_ti (a : Nat) (bs : List Byte) : (s.tunWrite a bs).ti = s.ti := rfl
@[simp] theorem tunWrite_sq (a : Nat) (bs : List Byte) : (s.tunWrite a bs).sq = s.sq := rfl
@[simp] theorem tunWrite_lk (a : Nat) (bs : List Byte) : (s.tunWrite a bs).lk = s.lk := rfl
@[simp] theorem tunWrite_pa (a : Nat) (bs : List Byte) : (s.tunWrite a bs).pa = s.pa := rfl
@[simp] theorem tunWrite_hm (a : Nat) (bs : List Byte) : (s.tunWrite a bs).hm = s.hm := rfl
@[simp] theorem tunWrite_pg (a : Nat) (bs : List Byte) : (s.tunWrite a bs).pg = s.pg := rfl
@[simp] theorem tunWrite_he (a : Nat) (bs : List Byte) : (s.tunWrite a bs).he = s.he := rfl
@[simp] theorem tunWrite_ck (a : Nat) (bs : List Byte) : (s.tunWrite a bs).ck = s.ck := rfl
@[simp] theorem tunWrite_sh (a : Nat) (bs : List Byte) : (s.tunWrite a bs).sh = s.sh := rfl
@[simp] theorem tunWrite_rs (a : Nat) (bs : List Byte) : (s.tunWrite a bs).rs = s.rs := rfl
@[simp] theorem tunWrite_badLines (a : Nat) (bs : List Byte) : (s.tunWrite a bs).badLines = s.badLines := rfl
@[simp] theorem tunWrite_badReads (a : Nat) (bs : List Byte) : (s.tunWrite a bs).badReads = s.badReads := rfl
@[simp] theorem tunWrite_reg (a : Nat) (bs : List Byte) (j : Key) : (s.tunWrite a bs).reg j = s.reg j := rfl
@[simp] theorem tunWrite_get (a : Nat) (bs : List Byte) (j : Fld) : (s.tunWrite a bs).get j = s.get j := rfl
@[simp] theorem tunWrite_rd (a : Nat) (bs : List Byte) (j : Key) : (s.tunWrite a bs).rd j = s.rd j := rfl
@[simp] theorem tunWrite_on (a : Nat) (bs : List Byte) (j : Fld) : (s.tunWrite a bs).on j = s.on j := rfl

@[simp] theorem setCounter_pending (i : Nat) (v : Word) : (s.setCounter i v).pending = s.pending := rfl
@[simp] theorem setCounter_regs (i : Nat) (v : Word) : (s.setCounter i v).regs = s.regs := rfl
@[simp] theorem setCounter_out (i : Nat) (v : Word) : (s.setCounter i v).out = s.out := rfl
@[simp] theorem setCounter_free (i : Nat) (v : Word) : (s.setCounter i v).free = s.free := rfl
@[simp] theorem setCounter_hbm (i : Nat) (v : Word) : (s.setCounter i v).hbm = s.hbm := rfl
@[simp] theorem setCounter_tm (i : Nat) (v : Word) : (s.setCounter i v).tm = s.tm := rfl
@[simp] theorem setCounter_xl (i : Nat) (v : Word) : (s.setCounter i v).xl = s.xl := rfl
@[simp] theorem setCounter_dir (i : Nat) (v : Word) : (s.setCounter i v).dir = s.dir := rfl
@[simp] theorem setCounter_xb (i : Nat) (v : Word) : (s.setCounter i v).xb = s.xb := rfl
@[simp] theorem setCounter_pl (i : Nat) (v : Word) : (s.setCounter i v).pl = s.pl := rfl
@[simp] theorem setCounter_ra (i : Nat) (v : Word) : (s.setCounter i v).ra = s.ra := rfl
@[simp] theorem setCounter_st (i : Nat) (v : Word) : (s.setCounter i v).st = s.st := rfl
@[simp] theorem setCounter_tu (i : Nat) (v : Word) : (s.setCounter i v).tu = s.tu := rfl
@[simp] theorem setCounter_ti (i : Nat) (v : Word) : (s.setCounter i v).ti = s.ti := rfl
@[simp] theorem setCounter_sq (i : Nat) (v : Word) : (s.setCounter i v).sq = s.sq := rfl
@[simp] theorem setCounter_lk (i : Nat) (v : Word) : (s.setCounter i v).lk = s.lk := rfl
@[simp] theorem setCounter_pa (i : Nat) (v : Word) : (s.setCounter i v).pa = s.pa := rfl
@[simp] theorem setCounter_hm (i : Nat) (v : Word) : (s.setCounter i v).hm = s.hm := rfl
@[simp] theorem setCounter_pg (i : Nat) (v : Word) : (s.setCounter i v).pg = s.pg := rfl
@[simp] theorem setCounter_he (i : Nat) (v : Word) : (s.setCounter i v).he = s.he := rfl
@[simp] theorem setCounter_ck (i : Nat) (v : Word) : (s.setCounter i v).ck = s.ck := rfl
@[simp] theorem setCounter_sh (i : Nat) (v : Word) : (s.setCounter i v).sh = s.sh := rfl
@[simp] theorem setCounter_rs (i : Nat) (v : Word) : (s.setCounter i v).rs = s.rs := rfl
@[simp] theorem setCounter_badLines (i : Nat) (v : Word) : (s.setCounter i v).badLines = s.badLines := rfl
@[simp] theorem setCounter_badReads (i : Nat) (v : Word) : (s.setCounter i v).badReads = s.badReads := rfl
@[simp] theorem setCounter_reg (i : Nat) (v : Word) (j : Key) : (s.setCounter i v).reg j = s.reg j := rfl
@[simp] theorem setCounter_get (i : Nat) (v : Word) (j : Fld) : (s.setCounter i v).get j = s.get j := rfl
@[simp] theorem setCounter_rd (i : Nat) (v : Word) (j : Key) : (s.setCounter i v).rd j = s.rd j := rfl
@[simp] theorem setCounter_on (i : Nat) (v : Word) (j : Fld) : (s.setCounter i v).on j = s.on j := rfl

@[simp] theorem emit_out (o : Out) : (s.emit o).out = s.out ++ [o] := rfl
@[simp] theorem take_free : s.take.2.free = s.free + 1 := rfl
@[simp] theorem hbmWrite_hbm (a : Nat) (bs : List Byte) : (s.hbmWrite a bs).hbm = writeBytes s.hbm a bs := rfl

end Sys2Proof.Machine
end

