-- ==== Sys2Proof/Laws/Keeps.lean ====
section
/-! SUPPORT. What every change of the state leaves alone: the relation `Keeps` is kept by every named update, and passed
through pairs, options and outcomes. -/

namespace Sys2Proof.Machine

variable {b : Bool} {a s t : State}

theorem Keeps.refl (b : Bool) (s : State) : Keeps b s s :=
  ⟨rfl, List.prefix_rfl, le_rfl, id, fun _ => rfl⟩

theorem Keeps.trans (h : Keeps b a s) (h' : Keeps b s t) : Keeps b a t :=
  ⟨h'.pending.trans h.pending, h.out.trans h'.out, le_trans h.free h'.free, fun w => h'.wf (h.wf w),
   fun e => (h'.ck e).trans (h.ck e)⟩

/-- A change of the fields that the relation does not speak of. -/
theorem Keeps.upd (h : Keeps b a s) (hp : t.pending = s.pending) (hr : t.regs = s.regs) (ho : t.out = s.out)
    (hf : t.free = s.free) (hh : t.hbm = s.hbm) (h1 : t.tu.store = s.tu.store) (h2 : t.tu.scale = s.tu.scale)
    (h3 : t.sq.mem = s.sq.mem) (hc : t.ck = s.ck) : Keeps b a t :=
  ⟨hp.trans h.pending, ho ▸ h.out, hf ▸ h.free,
   fun w => let w := h.wf w; ⟨hh ▸ w.hbm, h1 ▸ w.store, h2 ▸ w.scale, h3 ▸ w.local_, hr ▸ w.regs⟩,
   fun e => hc.trans (h.ck e)⟩

/-- The same, of the fields that the relation speaks of. -/
def KeepsF (b : Bool) (a : State) (p : List Instr) (r : SMap (SMap Word)) (o : List Out) (f : Nat) (m st sc sm : SMap Byte)
    (ck : CaskU) : Prop :=
  Keeps b a { pending := p, regs := r, out := o, free := f, hbm := m, tu := { store := st, scale := sc },
              sq := { mem := sm }, ck := ck }

theorem KeepsF.of (h : Keeps b a s) :
    KeepsF b a s.pending s.regs s.out s.free s.hbm s.tu.store s.tu.scale s.sq.mem s.ck :=
  h.upd rfl rfl rfl rfl rfl rfl rfl rfl rfl

/-- A state written out by its fields is related as the fields are. -/
theorem keeps_mk {p r o f m bl br tm xl tr d xb pl ra st tu ti sq lk pa hm pg he ck sh rs} :
    Keeps b a (State.mk p r o f m bl br tm xl tr d xb pl ra st tu ti sq lk pa hm pg he ck sh rs) ↔
      KeepsF b a p r o f m (TunU.store tu) (TunU.scale tu) (SeqU.mem sq) ck :=
  ⟨fun h => h.upd rfl rfl rfl rfl rfl rfl rfl rfl rfl, fun h => Keeps.upd h rfl rfl rfl rfl rfl rfl rfl rfl rfl⟩

theorem Regs.wf_row {m : SMap (SMap Word)} (w : Regs.wf m) (id : Nat) :
    mrising (mget [] m id) = true ∧ ∀ x ∈ mget [] m id, x.2 ≠ porWord id x.1 := by
  by_cases h : ∃ e ∈ m, e.1 = id
  · have key : ∀ m : SMap (SMap Word), (∃ e ∈ m, e.1 = id) → ∃ e ∈ m, e.1 = id ∧ mget [] m id = e.2 := by
      intro m
      induction m with
      | nil => simp
      | cons e r ih =>
        intro h
        by_cases he : e.1 = id
        · exact ⟨e, by simp, he, by simp [mget, he]⟩
        · obtain ⟨e', h', h1⟩ := h
          rcases List.mem_cons.1 h' with rfl | h'
          · exact absurd h1 he
          · obtain ⟨e2, h2, h3, h4⟩ := ih ⟨e', h', h1⟩
            exact ⟨e2, by simp [h2], h3, by simp [mget, he, h4]⟩
    obtain ⟨e, he, rfl, h2⟩ := key m h
    rw [h2]
    exact w.2 e he
  · rw [mget_not_mem]
    · simp [mrising]
    · intro e he h1
      exact h ⟨e, he, h1⟩

theorem setReg_regs_wf (s : State) (k : Key) (v : Word) (w : Regs.wf s.regs) : Regs.wf (s.setReg k v).regs := by
  have w1 := Regs.wf_row w k.id
  have wr : (((mset (porWord k.id k.idx) (mget [] s.regs k.id) k.idx v)).map Prod.fst).Pairwise (· < ·) := by
    have hp := (mrising_iff _).1 w1.1
    by_cases hv : v = porWord k.id k.idx
    · simp only [mset, hv, if_true]; exact pairwise_merase _ _ hp
    · simp only [mset, hv, if_false]
      exact pairwise_minsert _ _ v (pairwise_merase _ _ hp) (merase_keys _ _)
  have wd : ∀ x ∈ mset (porWord k.id k.idx) (mget [] s.regs k.id) k.idx v, x.2 ≠ porWord k.id x.1 := by
    intro x hx
    by_cases hv : v = porWord k.id k.idx
    · simp only [mset, hv, if_true] at hx
      exact w1.2 x (List.mem_filter.1 hx).1
    · simp only [mset, hv, if_false] at hx
      rcases (minsert_mem _ _ v x).1 hx with rfl | h'
      · exact hv
      · exact w1.2 x (List.mem_filter.1 h').1
  refine ⟨mset_canon _ _ _ _ w.1, ?_⟩
  intro e he
  simp only [State.setReg] at he
  generalize mset (porWord k.id k.idx) (mget [] s.regs k.id) k.idx v = r at he wr wd
  by_cases hr : r = []
  · simp only [mset, hr, if_true] at he
    exact w.2 e (List.mem_filter.1 he).1
  · simp only [mset, hr, if_false] at he
    rcases (minsert_mem _ _ _ e).1 he with rfl | h'
    · exact ⟨(mrising_iff _).2 wr, wd⟩
    · exact w.2 e (List.mem_filter.1 h').1

/-! ## Named updates -/

theorem setReg_keeps (h : Keeps b a s) (k : Key) (v : Word) : Keeps b a (s.setReg k v) :=
  ⟨h.pending, h.out, h.free, fun w => let w := h.wf w; ⟨w.hbm, w.store, w.scale, w.local_, setReg_regs_wf s k v w.regs⟩, h.ck⟩
theorem put_keeps (h : Keeps b a s) (f : Fld) (n : Nat) : Keeps b a (s.put f n) := setReg_keeps h _ _
theorem wr_keeps (h : Keeps b a s) (k : Key) (n : Nat) : Keeps b a (s.wr k n) := setReg_keeps h _ _
theorem bump_keeps (h : Keeps b a s) (k : Key) : Keeps b a (s.bump k) := setReg_keeps h _ _
theorem bumpBy_keeps (h : Keeps b a s) (k : Key) (n : Nat) : Keeps b a (s.bumpBy k n) := setReg_keeps h _ _
theorem flag_keeps (h : Keeps b a s) (f : Fld) : Keeps b a (s.flag f) := setReg_keeps h _ _
theorem mark_keeps (h : Keeps b a s) (k : Nat → Key) (e : Nat) (x : Bool) : Keeps b a (s.mark k e x) := setReg_keeps h _ _
theorem emit_keeps (h : Keeps b a s) (o : Out) : Keeps b a (s.emit o) :=
  ⟨h.pending, h.out.trans (List.prefix_append _ _), h.free, fun w => let w := h.wf w; ⟨w.hbm, w.store, w.scale, w.local_, w.regs⟩, h.ck⟩
theorem take_keeps (h : Keeps b a s) : Keeps b a (s.take).2 :=
  ⟨h.pending, h.out, Nat.le_succ_of_le h.free, fun w => let w := h.wf w; ⟨w.hbm, w.store, w.scale, w.local_, w.regs⟩, h.ck⟩
theorem hbmWrite_keeps (h : Keeps b a s) (x : Nat) (bs : List Byte) : Keeps b a (s.hbmWrite x bs) :=
  ⟨h.pending, h.out, h.free, fun w => let w := h.wf w; ⟨hbmWrite_canon s x bs w.hbm, w.store, w.scale, w.local_, w.regs⟩, h.ck⟩
theorem tunWrite_keeps (h : Keeps b a s) (x : Nat) (bs : List Byte) : Keeps b a (s.tunWrite x bs) :=
  ⟨h.pending, h.out, h.free,
   fun w => let w := h.wf w; ⟨w.hbm, writeBytes_canon _ _ _ w.store, w.scale, w.local_, w.regs⟩, h.ck⟩

/-! ## Pairs, options, outcomes, folds -/

/-- The state that an option holds. -/
def OkO {α : Type} (P : α → Prop) : Option α → Prop
  | none => True
  | some x => P x

/-- The next state of an outcome. -/
def OkR (P : State → Prop) : Host.Outcome State Fault Refusal → Prop
  | .next t => P t
  | .fault _ => True
  | .refused _ => True

theorem OkO.some {α : Type} {P : α → Prop} {x : α} (h : P x) : OkO P (some x) := h
theorem OkO.none {α : Type} {P : α → Prop} : OkO P none := trivial
theorem OkO.map {α β : Type} {P : β → Prop} {f : α → β} {o : Option α} (h : ∀ x, P (f x)) : OkO P (o.map f) := by
  cases o with
  | none => trivial
  | some x => exact h x
theorem OkO.findSome {α β : Type} {P : β → Prop} {f : α → Option β} {l : List α} (h : ∀ x, OkO P (f x)) :
    OkO P (l.findSome? f) := by
  induction l with
  | nil => trivial
  | cons x r ih =>
    rw [List.findSome?_cons]
    have hx := h x
    split
    · rename_i e
      rw [e] at hx
      exact hx
    · exact ih
theorem OkO.getD {α : Type} {P : α → Prop} {o : Option α} {d : α} (h : OkO P o) (hd : P d) : P (o.getD d) := by
  cases o with
  | none => exact hd
  | some x => exact h
theorem OkR.next {P : State → Prop} (h : P t) : OkR P (.next t) := h

theorem Keeps.of_pair {α : Type} {p : α × State} {v : α} (e : p = (v, t)) (h : Keeps b a p.2) : Keeps b a t := by
  subst e; exact h
theorem Keeps.of_pair2 {α β : Type} {p : α × β × State} {v : α} {w : β} (e : p = (v, w, t)) (h : Keeps b a p.2.2) :
    Keeps b a t := by
  subst e; exact h
theorem Keeps.of_some {o : Option State} (e : o = .some t) (h : OkO (Keeps b a) o) : Keeps b a t := by
  subst e; exact h
theorem Keeps.of_some_pair {α : Type} {o : Option (α × State)} {v : α} (e : o = .some (v, t))
    (h : OkO (fun x => Keeps b a x.2) o) : Keeps b a t := by
  subst e; exact h

/-- The state of an option's pair, or of another pair where there is none. -/
theorem Keeps.getD_snd {α : Type} {o : Option (α × State)} {d : α × State} (h : OkO (fun x => Keeps b a x.2) o)
    (hd : Keeps b a d.2) : Keeps b a (o.getD d).2 := OkO.getD h hd
theorem Keeps.getD {o : Option State} {d : State} (h : OkO (Keeps b a) o) (hd : Keeps b a d) : Keeps b a (o.getD d) :=
  OkO.getD h hd

/-- The state of an outcome that is a next state. -/
theorem Keeps.of_next {o : Host.Outcome State Fault Refusal} (e : o = .next t) (h : OkR (Keeps b a) o) : Keeps b a t := by
  subst e; exact h

theorem ite_keeps {c : Prop} [Decidable c] {x y : State} (h1 : Keeps b a x) (h2 : Keeps b a y) :
    Keeps b a (if c then x else y) := by
  split <;> assumption

theorem ite_snd {α : Type} {c : Prop} [Decidable c] {x y : α × State} (h1 : Keeps b a x.2) (h2 : Keeps b a y.2) :
    Keeps b a (if c then x else y).2 := by
  split <;> assumption

theorem foldl_keeps {α : Type} (f : State → α → State) (l : List α)
    (hf : ∀ (s : State) (x : α), Keeps b a s → Keeps b a (f s x)) (h : Keeps b a s) : Keeps b a (l.foldl f s) := by
  induction l generalizing s with
  | nil => exact h
  | cons x r ih => exact ih (hf s x h)

theorem foldl_keeps_snd {α β : Type} (f : β × State → α → β × State) (l : List α) {p : β × State}
    (hf : ∀ (p : β × State) (x : α), Keeps b a p.2 → Keeps b a (f p x).2) (h : Keeps b a p.2) :
    Keeps b a (l.foldl f p).2 := by
  induction l generalizing p with
  | nil => exact h
  | cons x r ih => exact ih (hf p x h)

theorem foldl_keeps_fst {α β : Type} (f : State × β → α → State × β) (l : List α) {p : State × β}
    (hf : ∀ (p : State × β) (x : α), Keeps b a p.1 → Keeps b a (f p x).1) (h : Keeps b a p.1) :
    Keeps b a (l.foldl f p).1 := by
  induction l generalizing p with
  | nil => exact h
  | cons x r ih => exact ih (hf p x h)

end Sys2Proof.Machine
end

