-- ==== Sys2Proof/Laws/KeepsBase.lean ====
section
/-! SUPPORT. What the operations of the block leave alone, in the sense of `Keeps`, one lemma each: operations on registers, pools, links, the tracker, tiers and translation. -/

namespace Sys2Proof.Machine

variable {b : Bool} {a : State}

/-! ## Ops -/

theorem sendMsix_keeps {s : State} (v : Nat) (h : Keeps b a s) :
    Keeps b a (@State.sendMsix s v) := by
  unfold State.sendMsix
  repeat' (first
    | with_reducible assumption
    | with_reducible apply emit_keeps
    | (simp only [keeps_mk]; with_reducible apply KeepsF.of)
    | dsimp only
    | split)

theorem hostWrite_keeps {s : State} (x1 : Nat) (bs : List Byte) (h : Keeps b a s) :
    Keeps b a (@State.hostWrite s x1 bs).2 := by
  unfold State.hostWrite
  repeat' (first
    | with_reducible assumption
    | with_reducible apply emit_keeps
    | with_reducible apply take_keeps
    | dsimp only
    | split)

theorem locWrite_keeps {s : State} (loc : Nat) (x2 : Nat) (bs : List Byte) (h : Keeps b a s) :
    Keeps b a (@State.locWrite s loc x2 bs).2 := by
  unfold State.locWrite
  repeat' (first
    | with_reducible assumption
    | with_reducible apply hostWrite_keeps
    | with_reducible apply hbmWrite_keeps
    | (simp only [keeps_mk]; with_reducible apply KeepsF.of)
    | dsimp only
    | split)

theorem plainWrite_keeps {s : State} (k : Key) (v : Word) (h : Keeps b a s) :
    Keeps b a (@State.plainWrite s k v) := by
  unfold State.plainWrite
  repeat' (first | with_reducible assumption | with_reducible apply setReg_keeps)

/-! ## Flags -/

theorem fqFull_keeps {s : State} (n : Nat) (h : Keeps b a s) :
    Keeps b a (@State.fqFull s n) := by
  unfold State.fqFull
  repeat' (first | with_reducible assumption | with_reducible apply put_keeps)

theorem fibreLow_keeps {s : State} (h : Keeps b a s) :
    Keeps b a (@State.fibreLow s) := by
  unfold State.fibreLow
  repeat' (first | with_reducible assumption | with_reducible apply put_keeps)

theorem raise_keeps {s : State} (k : Key) (n : Nat) (h : Keeps b a s) :
    Keeps b a (@State.raise s k n) := by
  unfold State.raise
  repeat' (first | with_reducible assumption | with_reducible apply wr_keeps | split)

theorem setCounter_keeps {s : State} (i : Nat) (v : Word) (h : Keeps b a s) :
    Keeps b a (@State.setCounter s i v) := by
  unfold State.setCounter
  repeat' (first | with_reducible assumption | (simp only [keeps_mk]; with_reducible apply KeepsF.of))

/-! ## Pools -/

theorem poolWarn_keeps {s : State} (k : Nat) (h : Keeps b a s) :
    Keeps b a (@State.poolWarn s k) := by
  unfold State.poolWarn
  repeat' (first
    | with_reducible assumption
    | with_reducible apply bump_keeps
    | with_reducible apply put_keeps
    | dsimp only
    | split)

theorem setBufs_keeps {s : State} (k : Nat) (m : SMap Buf) (free : Nat) (h : Keeps b a s) :
    Keeps b a (@State.setBufs s k m free) := by
  unfold State.setBufs
  repeat' (first
    | with_reducible assumption
    | with_reducible apply poolWarn_keeps
    | with_reducible apply wr_keeps
    | (simp only [keeps_mk]; with_reducible apply KeepsF.of)
    | dsimp only
    | split)

theorem poolTake_keeps {s : State} (k : Nat) (n : Nat) (x3 : Holder) (h : Keeps b a s) :
    OkO (fun x => Keeps b a x.2) (@State.poolTake s k n x3) := by
  unfold State.poolTake
  repeat' (first
    | with_reducible assumption
    | with_reducible exact OkO.none
    | with_reducible apply OkO.some
    | with_reducible apply setBufs_keeps
    | with_reducible apply put_keeps
    | dsimp only
    | split)

theorem poolAsk_keeps {s : State} (k : Nat) (n : Nat) (x3 : Holder) (h : Keeps b a s) :
    Keeps b a (@State.poolAsk s k n x3).2 := by
  unfold State.poolAsk
  repeat' (first
    | with_reducible assumption
    | with_reducible apply poolTake_keeps
    | with_reducible apply bump_keeps
    | with_reducible refine Keeps.of_some_pair (by assumption) ?_
    | split)

theorem poolGive_keeps {s : State} (k : Nat) (i : Nat) (x3 : Holder) (h : Keeps b a s) :
    Keeps b a (@State.poolGive s k i x3) := by
  unfold State.poolGive
  repeat' (first
    | with_reducible assumption
    | with_reducible apply setBufs_keeps
    | with_reducible apply put_keeps
    | (simp only [keeps_mk]; with_reducible apply KeepsF.of)
    | dsimp only
    | split)

theorem serveOne_keeps {s : State} (k : Nat) (h : Keeps b a s) :
    OkO (Keeps b a) (@State.serveOne s k) := by
  unfold State.serveOne
  repeat' (first
    | with_reducible assumption
    | with_reducible exact OkO.none
    | with_reducible apply OkO.some
    | with_reducible apply OkO.findSome
    | with_reducible apply poolTake_keeps
    | with_reducible apply emit_keeps
    | (simp only [keeps_mk]; with_reducible apply KeepsF.of)
    | with_reducible refine Keeps.of_some_pair (by assumption) ?_
    | dsimp only
    | split
    | intro _)

theorem servePool_keeps (k : Nat) (x1 : Nat) {x2 : State} (h : Keeps b a x2) :
    Keeps b a (@servePool k x1 x2) := by
  revert h
  fun_induction servePool k x1 x2 <;> intro h
  all_goals repeat' (first
    | with_reducible assumption
    | with_reducible apply serveOne_keeps
    | with_reducible apply_assumption
    | with_reducible refine Keeps.of_some (by assumption) ?_)

theorem askOne_keeps {s : State} (k : Nat) (h : Keeps b a s) :
    OkO (Keeps b a) (@State.askOne s k) := by
  unfold State.askOne
  repeat' (first
    | with_reducible assumption
    | with_reducible apply OkO.findSome
    | with_reducible apply OkO.map
    | with_reducible apply poolAsk_keeps
    | with_reducible apply emit_keeps
    | (simp only [keeps_mk]; with_reducible apply KeepsF.of)
    | with_reducible refine Keeps.of_pair (by assumption) ?_
    | dsimp only
    | split
    | intro _)

theorem askPool_keeps (k : Nat) (x1 : Nat) {x2 : State} (h : Keeps b a x2) :
    Keeps b a (@askPool k x1 x2) := by
  revert h
  fun_induction askPool k x1 x2 <;> intro h
  all_goals repeat' (first
    | with_reducible assumption
    | with_reducible apply askOne_keeps
    | with_reducible apply_assumption
    | with_reducible refine Keeps.of_some (by assumption) ?_)

theorem poolServe_keeps {s : State} (h : Keeps b a s) :
    Keeps b a (@State.poolServe s) := by
  unfold State.poolServe
  repeat' (first
    | with_reducible assumption
    | with_reducible apply servePool_keeps
    | with_reducible apply askPool_keeps
    | with_reducible apply foldl_keeps
    | intro _)

theorem poolFree_keeps {s : State} (k : Nat) (i : Nat) (x3 : Holder) (h : Keeps b a s) :
    Keeps b a (@State.poolFree s k i x3) := by
  unfold State.poolFree
  repeat' (first
    | with_reducible assumption
    | with_reducible apply poolGive_keeps
    | with_reducible apply servePool_keeps
    | dsimp only
    | split)

theorem poolCycle_keeps {s : State} (more : Bool) (h : Keeps b a s) :
    Keeps b a (@State.poolCycle s more) := by
  unfold State.poolCycle
  repeat' (first | with_reducible assumption | with_reducible apply poolServe_keeps | split)

/-! ## LinkTx -/

theorem takeRx_keeps {s : State} (p : Nat) (sel : RxItem → Bool) (h : Keeps b a s) :
    OkO (fun x => Keeps b a x.2) (@State.takeRx s p sel) := by
  unfold State.takeRx
  repeat' (first
    | with_reducible assumption
    | with_reducible apply OkO.map
    | (simp only [keeps_mk]; with_reducible apply KeepsF.of)
    | dsimp only
    | intro _)

theorem setLink_keeps {s : State} (p : Nat) (l : Link) (h : Keeps b a s) :
    Keeps b a (@State.setLink s p l) := by
  unfold State.setLink
  repeat' (first | with_reducible assumption | (simp only [keeps_mk]; with_reducible apply KeepsF.of))

theorem emitBlock_keeps {s : State} (p : Nat) (slot : Nat) (fl : List Flit) (h : Keeps b a s) :
    Keeps b a (@State.emitBlock s p slot fl) := by
  unfold State.emitBlock
  repeat' (first
    | with_reducible assumption
    | with_reducible apply setLink_keeps
    | with_reducible apply emit_keeps)

theorem sendBlock_keeps {s : State} (p : Nat) (fl : List Flit) (h : Keeps b a s) :
    Keeps b a (@State.sendBlock s p fl) := by
  unfold State.sendBlock
  repeat' (first
    | with_reducible assumption
    | with_reducible apply emitBlock_keeps
    | with_reducible apply setLink_keeps
    | dsimp only
    | split)

theorem sendFlits_keeps {s : State} (p : Nat) (fl : List Flit) (h : Keeps b a s) :
    Keeps b a (@State.sendFlits s p fl) := by
  unfold State.sendFlits
  repeat' (first | with_reducible assumption | with_reducible apply sendBlock_keeps)

theorem sendPkt_keeps {s : State} (p : Nat) (q : Pkt) (h : Keeps b a s) :
    Keeps b a (@State.sendPkt s p q) := by
  unfold State.sendPkt
  repeat' (first | with_reducible assumption | with_reducible apply sendFlits_keeps)

theorem flushSlots_keeps (p : Nat) (x1 : Nat) {x2 : State} (h : Keeps b a x2) :
    Keeps b a (@flushSlots p x1 x2) := by
  revert h
  fun_induction flushSlots p x1 x2 <;> intro h
  all_goals repeat' (first
    | with_reducible assumption
    | with_reducible apply sendFlits_keeps
    | with_reducible apply_assumption)

theorem flushLink_keeps {s : State} (p : Nat) (h : Keeps b a s) :
    Keeps b a (@State.flushLink s p) := by
  unfold State.flushLink
  repeat' (first | with_reducible assumption | with_reducible apply flushSlots_keeps)

theorem owe_keeps {s : State} (p : Nat) (cs : List Nat) (h : Keeps b a s) :
    Keeps b a (@State.owe s p cs) := by
  unfold State.owe
  repeat' (first | with_reducible assumption | with_reducible apply setLink_keeps)

theorem returnCredit_keeps {s : State} (p : Nat) (v : Nat) (n : Nat) (h : Keeps b a s) :
    Keeps b a (@State.returnCredit s p v n) := by
  unfold State.returnCredit
  repeat' (first
    | with_reducible assumption
    | with_reducible apply flushLink_keeps
    | with_reducible apply owe_keeps
    | split)

theorem sendTrain_keeps {s : State} (p : Nat) (msg : Nat) (lane : Nat) (step : Nat) (arg : Nat) (b1 : Word) (b2 : Word) (h : Keeps b a s) :
    Keeps b a (@State.sendTrain s p msg lane step arg b1 b2) := by
  unfold State.sendTrain
  repeat' (first | with_reducible assumption | with_reducible apply emit_keeps)

theorem grantSent_keeps {s : State} (p : Nat) (m : AttachOut) (h : Keeps b a s) :
    Keeps b a (@State.grantSent s p m) := by
  unfold State.grantSent
  repeat' (first
    | with_reducible assumption
    | with_reducible apply setLink_keeps
    | with_reducible apply foldl_keeps
    | dsimp only
    | split
    | intro _)

theorem drainAttach_keeps (p : Nat) (x1 : Nat) {x2 : State} (h : Keeps b a x2) :
    Keeps b a (@drainAttach p x1 x2) := by
  revert h
  fun_induction drainAttach p x1 x2 <;> intro h
  all_goals repeat' (first
    | with_reducible assumption
    | with_reducible apply grantSent_keeps
    | with_reducible apply sendFlits_keeps
    | with_reducible apply setLink_keeps
    | with_reducible apply emit_keeps
    | with_reducible apply_assumption)

theorem sendAttach_keeps {s : State} (p : Nat) (msg : Nat) (status : Nat) (id : Nat) (keep : Bool) (part : Nat) (addr : Word) (value : Word) (data : Option (List Byte)) (undo : optParam (Option (Nat × Bool × Bool)) Option.none) (h : Keeps b a s) :
    Keeps b a (@State.sendAttach s p msg status id keep part addr value data undo) := by
  unfold State.sendAttach
  repeat' (first
    | with_reducible assumption
    | with_reducible apply setLink_keeps
    | with_reducible apply drainAttach_keeps)

/-! ## Seal -/

theorem sealPkt_keeps {s : State} (p : Pkt) (h : Keeps b a s) :
    Keeps b a (@State.sealPkt s p).2 := by
  unfold State.sealPkt
  repeat' (first | with_reducible assumption | (simp only [keeps_mk]; with_reducible apply KeepsF.of))

theorem sealFail_keeps {s : State} (h : Keeps b a s) :
    Keeps b a (@State.sealFail s) := by
  unfold State.sealFail
  repeat' (first
    | with_reducible assumption
    | with_reducible apply bump_keeps
    | with_reducible apply flag_keeps)

theorem replayOk_keeps {s : State} (src : Nat) (part : Nat) (c : Nat) (h : Keeps b a s) :
    OkO (Keeps b a) (@State.replayOk s src part c) := by
  unfold State.replayOk
  repeat' (first
    | with_reducible assumption
    | with_reducible exact OkO.none
    | with_reducible apply OkO.some
    | (simp only [keeps_mk]; with_reducible apply KeepsF.of)
    | dsimp only
    | split)

theorem sealCheck_keeps {s : State} (p : Pkt) (h : Keeps b a s) :
    Keeps b a (@State.sealCheck s p).2 := by
  unfold State.sealCheck
  repeat' (first
    | with_reducible assumption
    | with_reducible apply replayOk_keeps
    | with_reducible apply sealFail_keeps
    | with_reducible refine Keeps.of_some (by assumption) ?_
    | dsimp only
    | split)

/-! ## Issue -/

theorem deliver_keeps {s : State} (from_ : Nat) (p : Pkt) (h : Keeps b a s) :
    Keeps b a (@State.deliver s from_ p) := by
  unfold State.deliver
  repeat' (first
    | with_reducible assumption
    | (simp only [keeps_mk]; with_reducible apply KeepsF.of)
    | dsimp only
    | split)

theorem toSwitch_keeps {s : State} (port : Nat) (p : Pkt) (h : Keeps b a s) :
    Keeps b a (@State.toSwitch s port p) := by
  unfold State.toSwitch
  repeat' (first
    | with_reducible assumption
    | (simp only [keeps_mk]; with_reducible apply KeepsF.of)
    | dsimp only
    | split)

theorem sendOut_keeps {s : State} (port : Nat) (p : Pkt) (h : Keeps b a s) :
    Keeps b a (@State.sendOut s port p) := by
  unfold State.sendOut
  repeat' (first
    | with_reducible assumption
    | with_reducible apply sealPkt_keeps
    | with_reducible apply toSwitch_keeps
    | (simp only [keeps_mk]; with_reducible apply KeepsF.of)
    | dsimp only
    | split)

theorem send_keeps {s : State} (port : Nat) (p : Pkt) (h : Keeps b a s) :
    Keeps b a (@State.send s port p) := by
  unfold State.send
  repeat' (first
    | with_reducible assumption
    | with_reducible apply deliver_keeps
    | with_reducible apply sendOut_keeps
    | dsimp only
    | split)

theorem reply_keeps {s : State} (q : Pkt) (opcode : Nat) (status : Nat) (payload : List Byte) (w3 : Word) (h : Keeps b a s) :
    Keeps b a (@State.reply s q opcode status payload w3) := by
  unfold State.reply
  repeat' (first | with_reducible assumption | with_reducible apply send_keeps)

theorem ack_keeps {s : State} (q : Pkt) (status : Nat) (h : Keeps b a s) :
    Keeps b a (@State.ack s q status) := by
  unfold State.ack
  repeat' (first
    | with_reducible assumption
    | with_reducible apply reply_keeps
    | with_reducible apply bump_keeps
    | dsimp only
    | split)

theorem rdxCounts_keeps {s : State} (row : Nat) (h : Keeps b a s) :
    Keeps b a (@State.rdxCounts s row) := by
  unfold State.rdxCounts
  repeat' (first
    | with_reducible assumption
    | with_reducible apply put_keeps
    | with_reducible apply wr_keeps)

theorem slotSent_keeps {s : State} (chunk : Nat) (h : Keeps b a s) :
    Keeps b a (@State.slotSent s chunk) := by
  unfold State.slotSent
  repeat' (first
    | with_reducible assumption
    | with_reducible apply rdxCounts_keeps
    | (simp only [keeps_mk]; with_reducible apply KeepsF.of)
    | dsimp only
    | split)

theorem freeTag_keeps {s : State} (h : Keeps b a s) :
    Keeps b a (@State.freeTag s).2 := by
  unfold State.freeTag
  repeat' (first | with_reducible assumption | with_reducible apply take_keeps)

theorem openEntry_keeps {s : State} (p : Pkt) (i : Issuer) (other : optParam Nat 65535) (h : Keeps b a s) :
    Keeps b a (@State.openEntry s p i other).2 := by
  unfold State.openEntry
  repeat' (first
    | with_reducible assumption
    | with_reducible apply freeTag_keeps
    | with_reducible apply put_keeps
    | (simp only [keeps_mk]; with_reducible apply KeepsF.of))

theorem closeEntry_keeps {s : State} (t : Nat) (hold : Bool) (h : Keeps b a s) :
    Keeps b a (@State.closeEntry s t hold) := by
  unfold State.closeEntry
  repeat' (first
    | with_reducible assumption
    | with_reducible apply put_keeps
    | (simp only [keeps_mk]; with_reducible apply KeepsF.of)
    | dsimp only
    | split)

theorem issueNow_keeps {s : State} (port : Nat) (p : Pkt) (i : Issuer) (h : Keeps b a s) :
    Keeps b a (@State.issueNow s port p i) := by
  unfold State.issueNow
  repeat' (first
    | with_reducible assumption
    | with_reducible apply openEntry_keeps
    | with_reducible apply send_keeps
    | with_reducible apply slotSent_keeps
    | with_reducible apply deliver_keeps
    | dsimp only
    | split)

theorem issue_keeps {s : State} (port : Nat) (p : Pkt) (i : Issuer) (h : Keeps b a s) :
    Keeps b a (@State.issue s port p i) := by
  unfold State.issue
  repeat' (first
    | with_reducible assumption
    | with_reducible apply issueNow_keeps
    | with_reducible apply bump_keeps
    | (simp only [keeps_mk]; with_reducible apply KeepsF.of)
    | dsimp only
    | split)

theorem issueThread_keeps {s : State} (c : Nat) (t : Nat) (p : Pkt) (i : Issuer) (h : Keeps b a s) :
    Keeps b a (@State.issueThread s c t p i) := by
  unfold State.issueThread
  repeat' (first
    | with_reducible assumption
    | with_reducible apply issue_keeps
    | (simp only [keeps_mk]; with_reducible apply KeepsF.of)
    | dsimp only
    | split)

theorem releaseHeld_keeps (c : Nat) (t : Nat) (x2 : Nat) {x3 : State} (h : Keeps b a x3) :
    Keeps b a (@releaseHeld c t x2 x3) := by
  revert h
  fun_induction releaseHeld c t x2 x3 <;> intro h
  all_goals repeat' (first
    | with_reducible assumption
    | with_reducible apply issue_keeps
    | with_reducible apply_assumption
    | (simp only [keeps_mk]; with_reducible apply KeepsF.of))

/-! ## Tiers -/

theorem setExt_keeps {s : State} (e : Nat) (w0 : Word) (w1 : Word) (h : Keeps b a s) :
    Keeps b a (@State.setExt s e w0 w1) := by
  unfold State.setExt
  repeat' (first | with_reducible assumption | (simp only [keeps_mk]; with_reducible apply KeepsF.of))

theorem putExt_keeps {s : State} (e : Nat) (hi : Nat) (lo : Nat) (n : Nat) (h : Keeps b a s) :
    Keeps b a (@State.putExt s e hi lo n) := by
  unfold State.putExt
  repeat' (first | with_reducible assumption | with_reducible apply setExt_keeps)

theorem touchExt_keeps {s : State} (e : Nat) (h : Keeps b a s) :
    Keeps b a (@State.touchExt s e) := by
  unfold State.touchExt
  repeat' (first | with_reducible assumption | with_reducible apply putExt_keeps)

theorem pick_keeps {s : State} (n : Nat) (busy : Nat → Bool) (h : Keeps b a s) :
    Keeps b a (@State.pick s n busy).2 := by
  unfold State.pick
  repeat' (first | with_reducible assumption | with_reducible apply take_keeps | dsimp only | split)

theorem freeT1_keeps {s : State} (k : Nat) (h : Keeps b a s) :
    Keeps b a (@State.freeT1 s k).2 := by
  unfold State.freeT1
  repeat' (first | with_reducible assumption | with_reducible apply pick_keeps)

theorem freeFrame_keeps {s : State} (x : Nat) (e : Nat) (stack : Nat) (lend : Nat) (h : Keeps b a s) :
    Keeps b a (@State.freeFrame s x e stack lend).2 := by
  unfold State.freeFrame
  repeat' (first
    | with_reducible assumption
    | with_reducible apply freeT1_keeps
    | with_reducible apply pick_keeps
    | with_reducible apply foldl_keeps_snd
    | dsimp only
    | split
    | intro _)

theorem obtain_keeps {s : State} (n : Nat) (x : Nat) (e : Nat) (stack : Nat) (lend : Nat) (h : Keeps b a s) :
    Keeps b a (@State.obtain s n x e stack lend).2 := by
  unfold State.obtain
  repeat' (first | with_reducible assumption | with_reducible apply freeFrame_keeps | dsimp only | split)

theorem promote_keeps {s : State} (n : Nat) (x : Nat) (h : Keeps b a s) :
    Keeps b a (@State.promote s n x) := by
  unfold State.promote
  repeat' (first | with_reducible assumption | with_reducible apply putExt_keeps | dsimp only | split)

theorem tierCounts_keeps {s : State} (h : Keeps b a s) :
    Keeps b a (@State.tierCounts s) := by
  unfold State.tierCounts
  repeat' (first
    | with_reducible assumption
    | with_reducible apply put_keeps
    | with_reducible apply wr_keeps
    | with_reducible apply foldl_keeps
    | dsimp only
    | intro _)

theorem freeExt_keeps {s : State} (e : Nat) (newState : Nat) (h : Keeps b a s) :
    Keeps b a (@State.freeExt s e newState) := by
  unfold State.freeExt
  repeat' (first
    | with_reducible assumption
    | with_reducible apply setExt_keeps
    | with_reducible apply promote_keeps
    | with_reducible apply tierCounts_keeps
    | split)

theorem giveFrame_keeps {s : State} (e : Nat) (x : Nat) (f : Nat) (shared : Bool) (h : Keeps b a s) :
    Keeps b a (@State.giveFrame s e x f shared) := by
  unfold State.giveFrame
  repeat' (first
    | with_reducible assumption
    | with_reducible apply tierCounts_keeps
    | with_reducible apply setExt_keeps)

theorem markDirty_keeps {s : State} (e : Nat) (o : Nat) (h : Keeps b a s) :
    Keeps b a (@State.markDirty s e o) := by
  unfold State.markDirty
  repeat' (first | with_reducible assumption | (simp only [keeps_mk]; with_reducible apply KeepsF.of))

theorem lendLost_keeps {s : State} (ep : Nat) (h : Keeps b a s) :
    Keeps b a (@State.lendLost s ep) := by
  unfold State.lendLost
  repeat' (first
    | with_reducible assumption
    | with_reducible apply putExt_keeps
    | with_reducible apply tierCounts_keeps
    | with_reducible apply flag_keeps
    | with_reducible apply put_keeps
    | with_reducible apply foldl_keeps
    | dsimp only
    | split
    | intro _)

theorem extLost_keeps {s : State} (e : Nat) (h : Keeps b a s) :
    Keeps b a (@State.extLost s e) := by
  unfold State.extLost
  repeat' (first
    | with_reducible assumption
    | with_reducible apply lendLost_keeps
    | with_reducible apply tierCounts_keeps
    | with_reducible apply putExt_keeps
    | with_reducible apply flag_keeps
    | dsimp only
    | split)

theorem t3Lost_keeps {s : State} (h : Keeps b a s) :
    Keeps b a (@State.t3Lost s) := by
  unfold State.t3Lost
  repeat' (first
    | with_reducible assumption
    | with_reducible apply tierCounts_keeps
    | with_reducible apply putExt_keeps
    | with_reducible apply flag_keeps
    | with_reducible apply foldl_keeps
    | dsimp only
    | split
    | intro _)

/-! ## Xlat -/

theorem faultDropped_keeps {s : State} (n : Nat) (h : Keeps b a s) :
    Keeps b a (@State.faultDropped s n).2 := by
  unfold State.faultDropped
  repeat' (first
    | with_reducible assumption
    | with_reducible apply bump_keeps
    | with_reducible apply flag_keeps)

theorem fault_keeps {s : State} (p : Pkt) (tileLen : Nat) (f : PageFail) (h : Keeps b a s) :
    Keeps b a (@State.fault s p tileLen f).2 := by
  unfold State.fault
  repeat' (first
    | with_reducible assumption
    | with_reducible apply faultDropped_keeps
    | with_reducible apply locWrite_keeps
    | with_reducible apply fqFull_keeps
    | with_reducible apply bump_keeps
    | with_reducible apply put_keeps
    | dsimp only
    | split)

theorem hostRegion_keeps {s : State} (n : Nat) (pasid : Nat) (ofs : Nat) (va : Nat) (len : Nat) (write : Bool) (uses : List Use) (h : Keeps b a s) :
    Keeps b a (@State.hostRegion s n pasid ofs va len write uses).2 := by
  unfold State.hostRegion
  repeat' (first
    | with_reducible assumption
    | with_reducible apply bump_keeps
    | (simp only [keeps_mk]; with_reducible apply KeepsF.of)
    | dsimp only
    | split)

theorem translatePage_keeps {s : State} (n : Nat) (slot : Nat) (win : Nat) (perm : Nat) (write : Bool) (part : Nat × Nat × Nat) (h : Keeps b a s) :
    Keeps b a (@State.translatePage s n slot win perm write part).2 := by
  unfold State.translatePage
  repeat' (first
    | with_reducible assumption
    | with_reducible apply hostRegion_keeps
    | with_reducible apply foldl_keeps_snd
    | dsimp only
    | split
    | intro _)

theorem translate_keeps {s : State} (n : Nat) (slot : Nat) (low : Nat) (len : Nat) (perm : Nat) (write : Bool) (h : Keeps b a s) :
    Keeps b a (@State.translate s n slot low len perm write).2 := by
  unfold State.translate
  repeat' (first
    | with_reducible assumption
    | with_reducible apply translatePage_keeps
    | with_reducible apply foldl_keeps_snd
    | dsimp only
    | intro _)

theorem atsRequest_keeps {s : State} (d : Nat × Nat × Nat × Nat) (h : Keeps b a s) :
    Keeps b a (@State.atsRequest s d) := by
  unfold State.atsRequest
  repeat' (first
    | with_reducible assumption
    | with_reducible apply bump_keeps
    | with_reducible apply emit_keeps
    | (simp only [keeps_mk]; with_reducible apply KeepsF.of)
    | dsimp only
    | split)

theorem atsWait_keeps {s : State} (who : Waiter) (t : Trans) (write : Bool) (h : Keeps b a s) :
    Keeps b a (@State.atsWait s who t write) := by
  unfold State.atsWait
  repeat' (first
    | with_reducible assumption
    | with_reducible apply atsRequest_keeps
    | (simp only [keeps_mk]; with_reducible apply KeepsF.of)
    | with_reducible apply foldl_keeps)

end Sys2Proof.Machine
end

