-- ==== Sys2Proof/Laws/KeepsHome.lean ====
section
/-! SUPPORT. What the operations of the block leave alone, in the sense of `Keeps`, one lemma each: the home, rings, threads, tile moves, the boot reads, the time base and mailboxes. -/

namespace Sys2Proof.Machine

variable {b : Bool} {a : State}

/-! ## Home -/

theorem lcNotifyPort_keeps {s : State} (i : Nat) (p : Nat) (h : Keeps b a s) :
    Keeps b a (@State.lcNotifyPort s i p) := by
  unfold State.lcNotifyPort
  repeat' (first
    | with_reducible assumption
    | with_reducible apply setLink_keeps
    | with_reducible apply sendAttach_keeps
    | with_reducible apply foldl_keeps
    | intro _)

theorem lcAdd_keeps {s : State} (i : Nat) (n : Nat) (h : Keeps b a s) :
    Keeps b a (@State.lcAdd s i n) := by
  unfold State.lcAdd
  repeat' (first
    | with_reducible assumption
    | with_reducible apply setCounter_keeps
    | with_reducible apply lcNotifyPort_keeps
    | with_reducible apply foldl_keeps
    | intro _)

theorem lcUpdate_keeps {s : State} (p : Pkt) (h : Keeps b a s) :
    Keeps b a (@State.lcUpdate s p) := by
  unfold State.lcUpdate
  repeat' (first | with_reducible assumption | with_reducible apply lcAdd_keeps | split)

theorem setGrants_keeps {s : State} (g : SMap Grant) (h : Keeps b a s) :
    Keeps b a (@State.setGrants s g) := by
  unfold State.setGrants
  repeat' (first
    | with_reducible assumption
    | with_reducible apply wr_keeps
    | (simp only [keeps_mk]; with_reducible apply KeepsF.of))

theorem setLines_keeps {s : State} (l : List LineQ) (h : Keeps b a s) :
    Keeps b a (@State.setLines s l) := by
  unfold State.setLines
  repeat' (first
    | with_reducible assumption
    | with_reducible apply wr_keeps
    | (simp only [keeps_mk]; with_reducible apply KeepsF.of))

theorem setDir_keeps {s : State} (d : List DirEntry) (h : Keeps b a s) :
    Keeps b a (@State.setDir s d) := by
  unfold State.setDir
  repeat' (first
    | with_reducible assumption
    | with_reducible apply wr_keeps
    | (simp only [keeps_mk]; with_reducible apply KeepsF.of))

theorem mcReply_keeps {s : State} (id : Nat) (okN : Nat) (failN : Nat) (status : Nat) (h : Keeps b a s) :
    Keeps b a (@State.mcReply s id okN failN status) := by
  unfold State.mcReply
  repeat' (first
    | with_reducible assumption
    | (simp only [keeps_mk]; with_reducible apply KeepsF.of)
    | dsimp only
    | split)

theorem resultDone_keeps {s : State} (chunk : Nat) (status : Nat) (h : Keeps b a s) :
    Keeps b a (@State.resultDone s chunk status) := by
  unfold State.resultDone
  repeat' (first
    | with_reducible assumption
    | with_reducible apply rdxCounts_keeps
    | with_reducible apply ack_keeps
    | (simp only [keeps_mk]; with_reducible apply KeepsF.of)
    | with_reducible apply foldl_keeps
    | dsimp only
    | split
    | intro _)

theorem dropGrant_keeps {s : State} (x1 : Nat) (h : Keeps b a s) :
    Keeps b a (@State.dropGrant s x1) := by
  unfold State.dropGrant
  repeat' (first
    | with_reducible assumption
    | with_reducible apply poolFree_keeps
    | with_reducible apply setGrants_keeps)

theorem tileDone_keeps {s : State} (x1 : Nat) (g : Grant) (status : Nat) (h : Keeps b a s) :
    Keeps b a (@State.tileDone s x1 g status) := by
  unfold State.tileDone
  repeat' (first
    | with_reducible assumption
    | with_reducible apply send_keeps
    | with_reducible apply dropGrant_keeps)

theorem tileWritten_keeps {s : State} (x1 : Nat) (n : Nat) (h : Keeps b a s) :
    Keeps b a (@State.tileWritten s x1 n) := by
  unfold State.tileWritten
  repeat' (first | with_reducible assumption | with_reducible apply setGrants_keeps | dsimp only | split)

theorem dirGrant_keeps {s : State} (line : Nat) (agent : Nat) (own : Bool) (name : Word × Nat) (h : Keeps b a s) :
    Keeps b a (@State.dirGrant s line agent own name) := by
  unfold State.dirGrant
  repeat' (first | with_reducible assumption | with_reducible apply setDir_keeps)

theorem hdmError_keeps {s : State} (h : Keeps b a s) :
    Keeps b a (@State.hdmError s) := by
  unfold State.hdmError
  repeat' (first
    | with_reducible assumption
    | with_reducible apply bump_keeps
    | with_reducible apply emit_keeps
    | with_reducible apply flag_keeps
    | (simp only [keeps_mk]; with_reducible apply KeepsF.of))

theorem takeBytes_keeps (x0 : Nat) {x1 : State} (h : Keeps b a x1) :
    Keeps b a (@takeBytes x0 x1).2 := by
  revert h
  fun_induction takeBytes x0 x1 <;> intro h
  all_goals repeat' (first
    | with_reducible assumption
    | with_reducible apply take_keeps
    | with_reducible apply_assumption
    | with_reducible refine Keeps.of_pair (by assumption) ?_)

theorem answer_keeps {s : State} (src : OpFrom) (p : Pkt) (status : Nat) (bytes : List Byte) (h : Keeps b a s) :
    Keeps b a (@State.answer s src p status bytes) := by
  unfold State.answer
  repeat' (first
    | with_reducible assumption
    | with_reducible apply ack_keeps
    | with_reducible apply reply_keeps
    | with_reducible apply tileWritten_keeps
    | with_reducible apply mcReply_keeps
    | with_reducible apply resultDone_keeps
    | with_reducible apply hdmError_keeps
    | with_reducible apply dirGrant_keeps
    | with_reducible apply takeBytes_keeps
    | with_reducible apply sendAttach_keeps
    | with_reducible apply bump_keeps
    | with_reducible apply emit_keeps
    | dsimp only
    | split)

theorem enqueue_keeps {s : State} (op : Nat) (line : Nat) (src : Nat) (tc : Nat) (h : Keeps b a s) :
    Keeps b a (@State.enqueue s op line src tc) := by
  unfold State.enqueue
  repeat' (first
    | with_reducible assumption
    | with_reducible apply setLines_keeps
    | (simp only [keeps_mk]; with_reducible apply KeepsF.of)
    | dsimp only
    | split)

theorem dequeue_keeps {s : State} (op : Nat) (line : Nat) (h : Keeps b a s) :
    Keeps b a (@State.dequeue s op line) := by
  unfold State.dequeue
  repeat' (first
    | with_reducible assumption
    | with_reducible apply setLines_keeps
    | (simp only [keeps_mk]; with_reducible apply KeepsF.of))

theorem setWait_keeps {s : State} (line : Nat) (w : LineWait) (h : Keeps b a s) :
    Keeps b a (@State.setWait s line w) := by
  unfold State.setWait
  repeat' (first | with_reducible assumption | with_reducible apply setLines_keeps)

theorem setOp_keeps {s : State} (o : HOp) (h : Keeps b a s) :
    Keeps b a (@State.setOp s o) := by
  unfold State.setOp
  repeat' (first | with_reducible assumption | (simp only [keeps_mk]; with_reducible apply KeepsF.of))

theorem endOp_keeps {s : State} (o : HOp) (status : Nat) (h : Keeps b a s) :
    Keeps b a (@State.endOp s o status) := by
  unfold State.endOp
  repeat' (first
    | with_reducible assumption
    | with_reducible apply dequeue_keeps
    | with_reducible apply lcUpdate_keeps
    | with_reducible apply answer_keeps
    | (simp only [keeps_mk]; with_reducible apply KeepsF.of)
    | with_reducible apply foldl_keeps
    | split
    | intro _)

theorem finishLine_keeps {s : State} (line : Nat) (o : HOp) (r : LineRes) (h : Keeps b a s) :
    Keeps b a (@State.finishLine s line o r) := by
  unfold State.finishLine
  repeat' (first
    | with_reducible assumption
    | with_reducible apply setWait_keeps
    | with_reducible apply endOp_keeps
    | with_reducible apply setOp_keeps
    | with_reducible apply dequeue_keeps
    | dsimp only
    | split)

theorem sendRecall_keeps {s : State} (e : DirEntry) (mask : Nat) (modified : Bool) (keep : Bool) (h : Keeps b a s) :
    Keeps b a (@State.sendRecall s e mask modified keep) := by
  unfold State.sendRecall
  repeat' (first
    | with_reducible assumption
    | with_reducible apply setDir_keeps
    | with_reducible apply sendAttach_keeps
    | with_reducible apply bumpBy_keeps
    | with_reducible apply emit_keeps
    | with_reducible apply foldl_keeps
    | dsimp only
    | split
    | intro _)

theorem dirBefore_keeps {s : State} (line : Nat) (agent : Option Nat) (load : Bool) (domain : Bool) (h : Keeps b a s) :
    Keeps b a (@State.dirBefore s line agent load domain).2 := by
  unfold State.dirBefore
  repeat' (first | with_reducible assumption | with_reducible apply sendRecall_keeps | dsimp only | split)

theorem dirTouch_keeps {s : State} (line : Nat) (h : Keeps b a s) :
    Keeps b a (@State.dirTouch s line) := by
  unfold State.dirTouch
  repeat' (first | with_reducible assumption | with_reducible apply setDir_keeps | split)

theorem dirRoom_keeps {s : State} (line : Nat) (h : Keeps b a s) :
    Keeps b a (@State.dirRoom s line).2 := by
  unfold State.dirRoom
  repeat' (first
    | with_reducible assumption
    | with_reducible apply sendRecall_keeps
    | with_reducible apply bump_keeps
    | dsimp only
    | split)

theorem dirWake_keeps {s : State} (line : Nat) (h : Keeps b a s) :
    Keeps b a (@State.dirWake s line) := by
  unfold State.dirWake
  repeat' (first | with_reducible assumption | with_reducible apply setLines_keeps)

theorem dirDrop_keeps {s : State} (line : Nat) (agent : Nat) (kept : Bool) (h : Keeps b a s) :
    Keeps b a (@State.dirDrop s line agent kept) := by
  unfold State.dirDrop
  repeat' (first
    | with_reducible assumption
    | with_reducible apply setDir_keeps
    | with_reducible apply dirWake_keeps
    | dsimp only
    | split)

theorem lateWb_keeps {s : State} (h : Keeps b a s) :
    Keeps b a (@State.lateWb s) := by
  unfold State.lateWb
  repeat' (first
    | with_reducible assumption
    | with_reducible apply bump_keeps
    | with_reducible apply flag_keeps)

theorem dirAnswer_keeps {s : State} (line : Nat) (agent : Nat) (data : Option (List Byte)) (h : Keeps b a s) :
    Keeps b a (@State.dirAnswer s line agent data) := by
  unfold State.dirAnswer
  repeat' (first
    | with_reducible assumption
    | with_reducible apply lateWb_keeps
    | with_reducible apply dirDrop_keeps
    | with_reducible apply hbmWrite_keeps
    | dsimp only
    | split)

theorem dirForget_keeps {s : State} (agent : Nat) (h : Keeps b a s) :
    Keeps b a (@State.dirForget s agent) := by
  unfold State.dirForget
  repeat' (first
    | with_reducible assumption
    | with_reducible apply dirDrop_keeps
    | with_reducible apply foldl_keeps
    | intro _)

theorem dirUndo_keeps {s : State} (agent : Nat) (u : Nat × Bool × Bool) (h : Keeps b a s) :
    Keeps b a (@State.dirUndo s agent u) := by
  unfold State.dirUndo
  repeat' (first
    | with_reducible assumption
    | with_reducible apply setDir_keeps
    | with_reducible apply dirDrop_keeps
    | split)

theorem doHbm_keeps {s : State} (o : HOp) (lo : Nat) (n : Nat) (x4 : Nat) (h : Keeps b a s) :
    Keeps b a (@State.doHbm s o lo n x4).2 := by
  unfold State.doHbm
  repeat' (first | with_reducible assumption | with_reducible apply hbmWrite_keeps | dsimp only | split)

theorem doHbmPage_keeps {s : State} (o : HOp) (line : Nat) (lo : Nat) (n : Nat) (h : Keeps b a s) :
    Keeps b a (@State.doHbmPage s o line lo n).2 := by
  unfold State.doHbmPage
  repeat' (first
    | with_reducible assumption
    | with_reducible apply dirBefore_keeps
    | with_reducible apply dirRoom_keeps
    | with_reducible apply doHbm_keeps
    | with_reducible apply dirTouch_keeps
    | dsimp only
    | split)

theorem doHost_keeps {s : State} (o : HOp) (lo : Nat) (n : Nat) (pa : Nat) (h : Keeps b a s) :
    Keeps b a (@State.doHost s o lo n pa).2 := by
  unfold State.doHost
  repeat' (first | with_reducible assumption | with_reducible apply emit_keeps | split)

theorem noRoute_keeps {s : State} (h : Keeps b a s) :
    Keeps b a (@State.noRoute s) := by
  unfold State.noRoute
  repeat' (first
    | with_reducible assumption
    | with_reducible apply bump_keeps
    | with_reducible apply flag_keeps)

theorem doAccel_keeps {s : State} (o : HOp) (line : Nat) (lo : Nat) (n : Nat) (h : Keeps b a s) :
    Keeps b a (@State.doAccel s o line lo n).2 := by
  unfold State.doAccel
  repeat' (first
    | with_reducible assumption
    | with_reducible apply noRoute_keeps
    | with_reducible apply sendOut_keeps
    | (simp only [keeps_mk]; with_reducible apply KeepsF.of)
    | dsimp only
    | split)

theorem copyBuf_keeps {s : State} (e : Nat) (h : Keeps b a s) :
    Keeps b a (@State.copyBuf s e).2 := by
  unfold State.copyBuf
  repeat' (first | with_reducible assumption | with_reducible apply poolAsk_keeps | dsimp only | split)

theorem startMove_keeps {s : State} (e : Nat) (dest : Nat) (frame : Nat) (shared : Bool) (pinOp : Nat) (step : Option Nat) (waiter : Option Nat) (forMove : Option Nat) (h : Keeps b a s) :
    Keeps b a (@State.startMove s e dest frame shared pinOp step waiter forMove) := by
  unfold State.startMove
  repeat' (first
    | with_reducible assumption
    | with_reducible apply setExt_keeps
    | with_reducible apply copyBuf_keeps
    | with_reducible apply tierCounts_keeps
    | (simp only [keeps_mk]; with_reducible apply KeepsF.of))

theorem evict_keeps {s : State} (x : Nat) (waiter : Option Nat) (forMove : Option Nat) (h : Keeps b a s) :
    Keeps b a (@State.evict s x waiter forMove).2 := by
  unfold State.evict
  repeat' (first
    | with_reducible assumption
    | with_reducible apply obtain_keeps
    | with_reducible apply startMove_keeps
    | with_reducible apply bump_keeps
    | with_reducible apply flag_keeps
    | dsimp only
    | split)

theorem zeroFrame_keeps {s : State} (x f : Nat) (h : Keeps b a s) : Keeps b a (s.zeroFrame x f) := by
  unfold State.zeroFrame
  split
  · exact ⟨h.pending, h.out, h.free,
      fun w => let w := h.wf w; ⟨filter_canon _ _ _ w.hbm, w.store, w.scale, w.local_, w.regs⟩, h.ck⟩
  · exact emit_keeps h _

theorem allocFrame_keeps (o e k x : Nat) {s : State} (h : Keeps b a s) : Keeps b a (allocFrame o e k x s).2 := by
  induction k generalizing x s with
  | zero => exact bump_keeps h _
  | succ k ih =>
    unfold allocFrame
    repeat' (first
      | with_reducible assumption
      | with_reducible apply ih
      | with_reducible apply zeroFrame_keeps
      | with_reducible apply giveFrame_keeps
      | with_reducible apply evict_keeps
      | with_reducible apply obtain_keeps
      | with_reducible apply bump_keeps
      | dsimp only
      | split)

theorem doFrame_keeps {s : State} (o : HOp) (line : Nat) (lo : Nat) (n : Nat) (e : Nat) (h : Keeps b a s) :
    Keeps b a (@State.doFrame s o line lo n e).2 := by
  unfold State.doFrame
  repeat' (first
    | with_reducible assumption
    | with_reducible apply markDirty_keeps
    | with_reducible apply doHbm_keeps
    | with_reducible apply extLost_keeps
    | with_reducible apply issue_keeps
    | with_reducible apply doHost_keeps
    | with_reducible apply t3Lost_keeps
    | dsimp only
    | split)

theorem doTier_keeps {s : State} (o : HOp) (line : Nat) (lo : Nat) (n : Nat) (h : Keeps b a s) :
    Keeps b a (@State.doTier s o line lo n).2 := by
  unfold State.doTier
  repeat' (first
    | with_reducible assumption
    | with_reducible apply touchExt_keeps
    | with_reducible apply allocFrame_keeps
    | with_reducible apply doFrame_keeps
    | dsimp only
    | split)

theorem lineDo_keeps {s : State} (o : HOp) (line : Nat) (h : Keeps b a s) :
    Keeps b a (@State.lineDo s o line).2 := by
  unfold State.lineDo
  repeat' (first
    | with_reducible assumption
    | with_reducible apply doHbmPage_keeps
    | with_reducible apply doHost_keeps
    | with_reducible apply doAccel_keeps
    | with_reducible apply doTier_keeps
    | with_reducible apply tunWrite_keeps
    | dsimp only
    | split)

theorem remoteDone_keeps {s : State} (line : Nat) (opId : Nat) (status : Nat) (bytes : List Byte) (h : Keeps b a s) :
    Keeps b a (@State.remoteDone s line opId status bytes) := by
  unfold State.remoteDone
  repeat' (first | with_reducible assumption | with_reducible apply finishLine_keeps | split)

theorem startOp_keeps {s : State} (src : OpFrom) (p : Pkt) (c : Piece) (h : Keeps b a s) :
    Keeps b a (@State.startOp s src p c) := by
  unfold State.startOp
  repeat' (first
    | with_reducible assumption
    | with_reducible apply answer_keeps
    | with_reducible apply enqueue_keeps
    | (simp only [keeps_mk]; with_reducible apply KeepsF.of)
    | with_reducible apply foldl_keeps
    | dsimp only
    | split
    | intro _)

theorem openGrant_keeps {s : State} (p : Pkt) (cs : List Piece) (h : Keeps b a s) :
    Keeps b a (@State.openGrant s p cs) := by
  unfold State.openGrant
  repeat' (first
    | with_reducible assumption
    | with_reducible apply ack_keeps
    | with_reducible apply pick_keeps
    | with_reducible apply poolAsk_keeps
    | with_reducible apply setGrants_keeps
    | with_reducible apply reply_keeps
    | with_reducible apply bump_keeps
    | (simp only [keeps_mk]; with_reducible apply KeepsF.of)
    | with_reducible refine Keeps.of_pair (by assumption) ?_
    | dsimp only
    | split)

theorem translated_keeps {s : State} (src : OpFrom) (p : Pkt) (cs : List Piece) (h : Keeps b a s) :
    Keeps b a (@State.translated s src p cs) := by
  unfold State.translated
  repeat' (first
    | with_reducible assumption
    | with_reducible apply answer_keeps
    | with_reducible apply openGrant_keeps
    | with_reducible apply startOp_keeps
    | split)

theorem access_keeps {s : State} (src : OpFrom) (p : Pkt) (perm : Nat) (write : Bool) (h : Keeps b a s) :
    Keeps b a (@State.access s src p perm write) := by
  unfold State.access
  repeat' (first
    | with_reducible assumption
    | with_reducible apply answer_keeps
    | with_reducible apply translate_keeps
    | with_reducible apply fault_keeps
    | with_reducible apply translated_keeps
    | with_reducible apply atsWait_keeps
    | dsimp only
    | split)

theorem takeControl_keeps {s : State} (src : OpFrom) (p : Pkt) (h : Keeps b a s) :
    Keeps b a (@State.takeControl s src p) := by
  unfold State.takeControl
  repeat' (first
    | with_reducible assumption
    | with_reducible apply answer_keeps
    | with_reducible apply lcUpdate_keeps
    | with_reducible apply bump_keeps
    | (simp only [keeps_mk]; with_reducible apply KeepsF.of)
    | dsimp only
    | split)

theorem ownerAccess_keeps {s : State} (src : OpFrom) (p : Pkt) (h : Keeps b a s) :
    Keeps b a (@State.ownerAccess s src p) := by
  unfold State.ownerAccess
  repeat' (first
    | with_reducible assumption
    | with_reducible apply answer_keeps
    | with_reducible apply takeControl_keeps
    | with_reducible apply access_keeps
    | split)

theorem takeEp_keeps {s : State} (ops : List Nat) (h : Keeps b a s) :
    OkO (fun x => Keeps b a x.2) (@State.takeEp s ops) := by
  unfold State.takeEp
  repeat' (first
    | with_reducible assumption
    | with_reducible exact OkO.none
    | with_reducible apply OkO.some
    | with_reducible apply sealCheck_keeps
    | with_reducible apply ack_keeps
    | (simp only [keeps_mk]; with_reducible apply KeepsF.of)
    | with_reducible refine Keeps.of_pair (by assumption) ?_
    | dsimp only
    | split)

/-! ## Steps -/

theorem setRing_keeps {s : State} (n : Nat) (r : Nat) (x : Ring) (h : Keeps b a s) :
    Keeps b a (@State.setRing s n r x) := by
  unfold State.setRing
  repeat' (first | with_reducible assumption | (simp only [keeps_mk]; with_reducible apply KeepsF.of))

theorem ringFull_keeps {s : State} (n : Nat) (r : Nat) (h : Keeps b a s) :
    Keeps b a (@State.ringFull s n r) := by
  unfold State.ringFull
  repeat' (first | with_reducible assumption | with_reducible apply put_keeps)

theorem cqWrite_keeps {s : State} (n : Nat) (r : Nat) (c : CqRec) (write : Nat → List Byte → State → Bool × State) (hf : ∀ (y0 : Nat) (y1 : List Byte) (y2 : State), Keeps b a y2 → Keeps b a (write y0 y1 y2).2) (h : Keeps b a s) :
    Keeps b a (@State.cqWrite s n r c write).2 := by
  unfold State.cqWrite
  repeat' (first
    | with_reducible assumption
    | with_reducible apply hf
    | with_reducible apply ringFull_keeps
    | with_reducible apply sendMsix_keeps
    | with_reducible apply put_keeps
    | dsimp only
    | split)

theorem complete_keeps {s : State} (n : Nat) (r : Nat) (idx : Nat) (words : List Word) (status : Nat) (sc : Nat) (detail : Nat) (h : Keeps b a s) :
    Keeps b a (@State.complete s n r idx words status sc detail) := by
  unfold State.complete
  repeat' (first
    | with_reducible assumption
    | with_reducible apply setRing_keeps
    | with_reducible apply cqWrite_keeps
    | with_reducible apply locWrite_keeps
    | with_reducible apply flag_keeps
    | dsimp only
    | split
    | intro _)

theorem execRingProdWrite_keeps (n : Part) (r : RingId) (v : Word) {s : State} (h : Keeps b a s) :
    OkR (Keeps b a) (@execRingProdWrite n r v s) := by
  unfold execRingProdWrite
  repeat' (first
    | with_reducible assumption
    | with_reducible apply ringFull_keeps
    | with_reducible apply flag_keeps
    | with_reducible apply put_keeps
    | with_reducible apply OkR.next
    | dsimp only
    | split)

theorem execRingCqConsWrite_keeps (n : Part) (r : RingId) (v : Word) {s : State} (h : Keeps b a s) :
    OkR (Keeps b a) (@execRingCqConsWrite n r v s) := by
  unfold execRingCqConsWrite
  repeat' (first
    | with_reducible assumption
    | with_reducible apply ringFull_keeps
    | with_reducible apply flag_keeps
    | with_reducible apply put_keeps
    | with_reducible apply OkR.next
    | dsimp only
    | split)

theorem execFqConsWrite_keeps (n : Part) (v : Word) {s : State} (h : Keeps b a s) :
    OkR (Keeps b a) (@execFqConsWrite n v s) := by
  unfold execFqConsWrite
  repeat' (first
    | with_reducible assumption
    | with_reducible apply fqFull_keeps
    | with_reducible apply flag_keeps
    | with_reducible apply put_keeps
    | with_reducible apply OkR.next
    | dsimp only
    | split)

theorem setStep_keeps {s : State} (x : Step) (h : Keeps b a s) :
    Keeps b a (@State.setStep s x) := by
  unfold State.setStep
  repeat' (first | with_reducible assumption | (simp only [keeps_mk]; with_reducible apply KeepsF.of))

theorem takeHead_keeps {s : State} (n : Nat) (r : Nat) (h : Keeps b a s) :
    Keeps b a (@State.takeHead s n r) := by
  unfold State.takeHead
  repeat' (first
    | with_reducible assumption
    | with_reducible apply ringFull_keeps
    | with_reducible apply setRing_keeps
    | dsimp only
    | split)

theorem endHead_keeps {s : State} (n : Nat) (r : Nat) (d : Desc) (status : Nat) (sc : Nat) (detail : Nat) (h : Keeps b a s) :
    Keeps b a (@State.endHead s n r d status sc detail) := by
  unfold State.endHead
  repeat' (first
    | with_reducible assumption
    | with_reducible apply complete_keeps
    | with_reducible apply takeHead_keeps)

theorem newStep_keeps {s : State} (n : Nat) (r : Nat) (d : Desc) (sched : Bool) (cost : Nat) (h : Keeps b a s) :
    Keeps b a (@State.newStep s n r d sched cost).2 := by
  unfold State.newStep
  repeat' (first
    | with_reducible assumption
    | with_reducible apply takeHead_keeps
    | (simp only [keeps_mk]; with_reducible apply KeepsF.of))

theorem holdEnd_keeps {s : State} (now : Nat) (h : Keeps b a s) :
    Keeps b a (@State.holdEnd s now) := by
  unfold State.holdEnd
  repeat' (first
    | with_reducible assumption
    | with_reducible apply raise_keeps
    | (simp only [keeps_mk]; with_reducible apply KeepsF.of)
    | dsimp only
    | split)

theorem endStepSc_keeps {s : State} (x : Step) (now : Nat) (status : Nat) (sc : Nat) (detail : Nat) (h : Keeps b a s) :
    Keeps b a (@State.endStepSc s x now status sc detail) := by
  unfold State.endStepSc
  repeat' (first
    | with_reducible assumption
    | with_reducible apply holdEnd_keeps
    | with_reducible apply complete_keeps
    | with_reducible apply bump_keeps
    | (simp only [keeps_mk]; with_reducible apply KeepsF.of)
    | dsimp only
    | split)

theorem endStep_keeps {s : State} (x : Step) (now : Nat) (status : Nat) (detail : Nat) (h : Keeps b a s) :
    Keeps b a (@State.endStep s x now status detail) := by
  unfold State.endStep
  repeat' (first | with_reducible assumption | with_reducible apply endStepSc_keeps)

/-! ## Threads -/

theorem setThread_keeps {s : State} (c : Nat) (t : Nat) (x : ThreadSt) (h : Keeps b a s) :
    Keeps b a (@State.setThread s c t x) := by
  unfold State.setThread
  repeat' (first | with_reducible assumption | (simp only [keeps_mk]; with_reducible apply KeepsF.of))

theorem coreSettle_keeps {s : State} (c : Nat) (h : Keeps b a s) :
    Keeps b a (@State.coreSettle s c) := by
  unfold State.coreSettle
  repeat' (first | with_reducible assumption | with_reducible apply put_keeps | split)

theorem setTurn_keeps {s : State} (c : Nat) (x : CoreTurn) (h : Keeps b a s) :
    Keeps b a (@State.setTurn s c x) := by
  unfold State.setTurn
  repeat' (first | with_reducible assumption | (simp only [keeps_mk]; with_reducible apply KeepsF.of))

theorem haltThread_keeps {s : State} (c : Nat) (t : Nat) (h : Keeps b a s) :
    Keeps b a (@State.haltThread s c t) := by
  unfold State.haltThread
  repeat' (first
    | with_reducible assumption
    | with_reducible apply setTurn_keeps
    | with_reducible apply setThread_keeps
    | with_reducible apply coreSettle_keeps
    | with_reducible apply put_keeps)

theorem postedDone_keeps {s : State} (c : Nat) (t : Nat) (seq : Nat) (status : Nat) (h : Keeps b a s) :
    Keeps b a (@State.postedDone s c t seq status) := by
  unfold State.postedDone
  repeat' (first
    | with_reducible assumption
    | with_reducible apply coreSettle_keeps
    | with_reducible apply setThread_keeps
    | with_reducible apply haltThread_keeps
    | with_reducible apply bump_keeps
    | dsimp only
    | split)

theorem blockedDone_keeps {s : State} (c : Nat) (t : Nat) (rd : Nat) (status : Nat) (bytes : List Byte) (h : Keeps b a s) :
    Keeps b a (@State.blockedDone s c t rd status bytes) := by
  unfold State.blockedDone
  repeat' (first
    | with_reducible assumption
    | with_reducible apply coreSettle_keeps
    | with_reducible apply setThread_keeps)

theorem threadReply_keeps {s : State} (c : Nat) (t : Nat) (seq : Nat) (status : Nat) (bytes : List Byte) (h : Keeps b a s) :
    Keeps b a (@State.threadReply s c t seq status bytes) := by
  unfold State.threadReply
  repeat' (first
    | with_reducible assumption
    | with_reducible apply blockedDone_keeps
    | with_reducible apply postedDone_keeps
    | dsimp only
    | split)

theorem issued_keeps {s : State} (c : Nat) (t : Nat) (fabric : Bool) (h : Keeps b a s) :
    Keeps b a (@State.issued s c t fabric) := by
  unfold State.issued
  repeat' (first | with_reducible assumption | with_reducible apply setTurn_keeps)

theorem wake_keeps {s : State} (c : Nat) (t : Nat) (h : Keeps b a s) :
    Keeps b a (@State.wake s c t) := by
  unfold State.wake
  repeat' (first | with_reducible assumption | with_reducible apply setTurn_keeps)

/-! ## Moves -/

theorem setMove_keeps {s : State} (id : Nat) (m : Move) (h : Keeps b a s) :
    Keeps b a (@State.setMove s id m) := by
  unfold State.setMove
  repeat' (first | with_reducible assumption | (simp only [keeps_mk]; with_reducible apply KeepsF.of))

theorem moveOwner_keeps {s : State} (o : Issuer) (status : Nat) (bytes : Nat) (h : Keeps b a s) :
    Keeps b a (@State.moveOwner s o status bytes) := by
  unfold State.moveOwner
  repeat' (first
    | with_reducible assumption
    | with_reducible apply setStep_keeps
    | with_reducible apply postedDone_keeps
    | (simp only [keeps_mk]; with_reducible apply KeepsF.of)
    | dsimp only
    | split)

theorem endMove_keeps {s : State} (id : Nat) (m : Move) (status : Nat) (hold : Bool) (h : Keeps b a s) :
    Keeps b a (@State.endMove s id m status hold) := by
  unfold State.endMove
  repeat' (first
    | with_reducible assumption
    | with_reducible apply closeEntry_keeps
    | with_reducible apply moveOwner_keeps
    | (simp only [keeps_mk]; with_reducible apply KeepsF.of))

theorem closeSide_keeps {s : State} (m : Move) (addr : Word) (g : Nat) (abort : Bool) (h : Keeps b a s) :
    Keeps b a (@State.closeSide s m addr g abort) := by
  unfold State.closeSide
  repeat' (first | with_reducible assumption | with_reducible apply send_keeps)

theorem abortMove_keeps {s : State} (id : Nat) (m : Move) (h : Keeps b a s) :
    Keeps b a (@State.abortMove s id m) := by
  unfold State.abortMove
  repeat' (first
    | with_reducible assumption
    | with_reducible apply setMove_keeps
    | with_reducible apply closeSide_keeps
    | dsimp only
    | split)

theorem issueReads_keeps {s : State} (id : Nat) (m : Move) (g : Nat) (h : Keeps b a s) :
    Keeps b a (@State.issueReads s id m g) := by
  unfold State.issueReads
  repeat' (first
    | with_reducible assumption
    | with_reducible apply send_keeps
    | with_reducible apply setMove_keeps
    | with_reducible apply foldl_keeps
    | intro _)

theorem moveNext_keeps {s : State} (id : Nat) (m : Move) (h : Keeps b a s) :
    Keeps b a (@State.moveNext s id m) := by
  unfold State.moveNext
  repeat' (first
    | with_reducible assumption
    | with_reducible apply setMove_keeps
    | with_reducible apply endMove_keeps
    | with_reducible apply abortMove_keeps
    | with_reducible apply issueReads_keeps
    | with_reducible apply closeSide_keeps
    | dsimp only
    | split)

theorem moveGranted_keeps {s : State} (id : Nat) (m : Move) (p : Pkt) (h : Keeps b a s) :
    Keeps b a (@State.moveGranted s id m p) := by
  unfold State.moveGranted
  repeat' (first | with_reducible assumption | with_reducible apply moveNext_keeps | split)

theorem moveFailed_keeps {s : State} (id : Nat) (m : Move) (addr : Word) (status : Nat) (h : Keeps b a s) :
    Keeps b a (@State.moveFailed s id m addr status) := by
  unfold State.moveFailed
  repeat' (first | with_reducible assumption | with_reducible apply moveNext_keeps | split)

theorem moveData_keeps {s : State} (id : Nat) (m : Move) (p : Pkt) (h : Keeps b a s) :
    Keeps b a (@State.moveData s id m p) := by
  unfold State.moveData
  repeat' (first
    | with_reducible assumption
    | with_reducible apply moveNext_keeps
    | with_reducible apply send_keeps
    | with_reducible apply foldl_keeps
    | dsimp only
    | split
    | intro _)

theorem moveDone_keeps {s : State} (id : Nat) (m : Move) (p : Pkt) (h : Keeps b a s) :
    Keeps b a (@State.moveDone s id m p) := by
  unfold State.moveDone
  repeat' (first | with_reducible assumption | with_reducible apply moveNext_keeps | dsimp only | split)

theorem startTileMove_keeps {s : State} (id : Nat) (h : Keeps b a s) :
    Keeps b a (@State.startTileMove s id) := by
  unfold State.startTileMove
  repeat' (first
    | with_reducible assumption
    | with_reducible apply setStep_keeps
    | (simp only [keeps_mk]; with_reducible apply KeepsF.of)
    | dsimp only
    | split)

/-! ## BootRead -/

theorem bootAsk_keeps (x0 : Nat) {x1 : State} (h : Keeps b a x1) :
    Keeps b a (@bootAsk x0 x1) := by
  revert h
  fun_induction bootAsk x0 x1 <;> intro h
  all_goals repeat' (first
    | with_reducible assumption
    | with_reducible apply issue_keeps
    | with_reducible apply_assumption
    | (simp only [keeps_mk]; with_reducible apply KeepsF.of)
    | dsimp +zetaDelta only)

theorem bootTry_keeps {s : State} (h : Keeps b a s) :
    Keeps b a (@State.bootTry s) := by
  unfold State.bootTry
  repeat' (first
    | with_reducible assumption
    | with_reducible apply bootAsk_keeps
    | (simp only [keeps_mk]; with_reducible apply KeepsF.of)
    | dsimp only
    | split)

theorem bootDrop_keeps {s : State} (h : Keeps b a s) :
    Keeps b a (@State.bootDrop s) := by
  unfold State.bootDrop
  repeat' (first
    | with_reducible assumption
    | with_reducible apply closeEntry_keeps
    | with_reducible apply foldl_keeps
    | intro _)

theorem bootReply_keeps {s : State} (status : Nat) (addr : Word) (bytes : List Byte) (h : Keeps b a s) :
    Keeps b a (@State.bootReply s status addr bytes) := by
  unfold State.bootReply
  repeat' (first
    | with_reducible assumption
    | with_reducible apply bootAsk_keeps
    | with_reducible apply bootDrop_keeps
    | with_reducible apply bootTry_keeps
    | (simp only [keeps_mk]; with_reducible apply KeepsF.of)
    | dsimp only
    | split)

theorem putRecord_keeps {s : State} (r : BootRecord) (h : Keeps b a s) :
    Keeps b a (@State.putRecord s r) := by
  unfold State.putRecord
  repeat' (first | with_reducible assumption | (simp only [keeps_mk]; with_reducible apply KeepsF.of))

theorem say__keeps {s : State} (l : String) (h : Keeps b a s) :
    Keeps b a (@State.say_ s l) := by
  unfold State.say_
  repeat' (first | with_reducible assumption | with_reducible apply emit_keeps)

theorem sayEnd_keeps {s : State} (st : Nat) (h : Keeps b a s) :
    Keeps b a (@State.sayEnd s st) := by
  unfold State.sayEnd
  repeat' (first | with_reducible assumption | with_reducible apply say__keeps)

theorem ikioReply_keeps {s : State} (status : Nat) (addr : Word) (bytes : List Byte) (h : Keeps b a s) :
    Keeps b a (@State.ikioReply s status addr bytes) := by
  unfold State.ikioReply
  repeat' (first
    | with_reducible assumption
    | with_reducible apply sayEnd_keeps
    | with_reducible apply say__keeps
    | (simp only [keeps_mk]; with_reducible apply KeepsF.of)
    | dsimp only
    | split)

/-! ## Time -/

theorem setPt_keeps {s : State} (p : Nat) (t : PortTime) (h : Keeps b a s) :
    Keeps b a (@State.setPt s p t) := by
  unfold State.setPt
  repeat' (first | with_reducible assumption | (simp only [keeps_mk]; with_reducible apply KeepsF.of))

theorem setGrid_keeps {s : State} (len : Nat) (frac : Nat) (h : Keeps b a s) :
    Keeps b a (@State.setGrid s len frac) := by
  unfold State.setGrid
  repeat' (first
    | with_reducible assumption
    | with_reducible apply put_keeps
    | (simp only [keeps_mk]; with_reducible apply KeepsF.of))

theorem endEra_keeps {s : State} (h : Keeps b a s) :
    Keeps b a (@State.endEra s) := by
  unfold State.endEra
  repeat' (first | with_reducible assumption | (simp only [keeps_mk]; with_reducible apply KeepsF.of))

theorem renumber_keeps {s : State} (n : Nat) (h : Keeps b a s) :
    Keeps b a (@State.renumber s n) := by
  unfold State.renumber
  repeat' (first
    | with_reducible assumption
    | with_reducible apply endEra_keeps
    | with_reducible apply wr_keeps
    | (simp only [keeps_mk]; with_reducible apply KeepsF.of))

theorem stepPhase_keeps {s : State} (t : Int) (h : Keeps b a s) :
    Keeps b a (@State.stepPhase s t) := by
  unfold State.stepPhase
  repeat' (first
    | with_reducible assumption
    | with_reducible apply endEra_keeps
    | (simp only [keeps_mk]; with_reducible apply KeepsF.of))

theorem sendBeat_keeps {s : State} (p : Nat) (h : Keeps b a s) :
    Keeps b a (@State.sendBeat s p) := by
  unfold State.sendBeat
  repeat' (first
    | with_reducible assumption
    | with_reducible apply sendFlits_keeps
    | (simp only [keeps_mk]; with_reducible apply KeepsF.of)
    | dsimp only
    | split)

theorem sendBeatFrames_keeps {s : State} (h : Keeps b a s) :
    Keeps b a (@State.sendBeatFrames s) := by
  unfold State.sendBeatFrames
  repeat' (first
    | with_reducible assumption
    | with_reducible apply sendBeat_keeps
    | with_reducible apply foldl_keeps
    | split
    | intro _)

theorem flushSeal_keeps {s : State} (h : Keeps b a s) :
    Keeps b a (@State.flushSeal s) := by
  unfold State.flushSeal
  repeat' (first
    | with_reducible assumption
    | with_reducible apply sendOut_keeps
    | (simp only [keeps_mk]; with_reducible apply KeepsF.of)
    | with_reducible apply foldl_keeps
    | intro _)

theorem dropTime_keeps {s : State} (role : Nat) (h : Keeps b a s) :
    Keeps b a (@State.dropTime s role) := by
  unfold State.dropTime
  repeat' (first
    | with_reducible assumption
    | with_reducible apply put_keeps
    | (simp only [keeps_mk]; with_reducible apply KeepsF.of))

theorem adopt_keeps {s : State} (h : Keeps b a s) :
    Keeps b a (@State.adopt s) := by
  unfold State.adopt
  repeat' (first
    | with_reducible assumption
    | with_reducible apply dropTime_keeps
    | with_reducible apply put_keeps
    | (simp only [keeps_mk]; with_reducible apply KeepsF.of)
    | dsimp only
    | split)

theorem leaveParent_keeps {s : State} (p : Nat) (h : Keeps b a s) :
    Keeps b a (@State.leaveParent s p) := by
  unfold State.leaveParent
  repeat' (first
    | with_reducible assumption
    | with_reducible apply dropTime_keeps
    | (simp only [keeps_mk]; with_reducible apply KeepsF.of)
    | dsimp only
    | split)

theorem unlock_keeps {s : State} (h : Keeps b a s) :
    Keeps b a (@State.unlock s) := by
  unfold State.unlock
  repeat' (first
    | with_reducible assumption
    | with_reducible apply put_keeps
    | (simp only [keeps_mk]; with_reducible apply KeepsF.of))

theorem discipline_keeps {s : State} (h : Keeps b a s) :
    Keeps b a (@State.discipline s) := by
  unfold State.discipline
  repeat' (first
    | with_reducible assumption
    | with_reducible apply put_keeps
    | with_reducible apply take_keeps)

theorem takePending_keeps {s : State} (grid : Word) (pendAt : Nat) (h : Keeps b a s) :
    Keeps b a (@State.takePending s grid pendAt) := by
  unfold State.takePending
  repeat' (first
    | with_reducible assumption
    | with_reducible apply put_keeps
    | with_reducible apply wr_keeps
    | split)

theorem watchOffset_keeps {s : State} (t : Int) (h : Keeps b a s) :
    Keeps b a (@State.watchOffset s t) := by
  unfold State.watchOffset
  repeat' (first
    | with_reducible assumption
    | with_reducible apply bump_keeps
    | with_reducible apply flag_keeps
    | (simp only [keeps_mk]; with_reducible apply KeepsF.of)
    | dsimp only
    | split)

theorem followParent_keeps {s : State} (n : Nat) (grid : Word) (theta : Option Int) (h : Keeps b a s) :
    Keeps b a (@State.followParent s n grid theta) := by
  unfold State.followParent
  repeat' (first
    | with_reducible assumption
    | with_reducible apply watchOffset_keeps
    | with_reducible apply discipline_keeps
    | with_reducible apply unlock_keeps
    | with_reducible apply renumber_keeps
    | with_reducible apply setGrid_keeps
    | with_reducible apply stepPhase_keeps
    | with_reducible apply put_keeps
    | (simp only [keeps_mk]; with_reducible apply KeepsF.of)
    | dsimp only
    | split)

theorem applyGrid_keeps {s : State} (h : Keeps b a s) :
    Keeps b a (@State.applyGrid s) := by
  unfold State.applyGrid
  repeat' (first
    | with_reducible assumption
    | with_reducible apply setGrid_keeps
    | with_reducible apply put_keeps
    | split)

theorem timeEdge_keeps {s : State} (h : Keeps b a s) :
    Keeps b a (@State.timeEdge s) := by
  unfold State.timeEdge
  repeat' (first
    | with_reducible assumption
    | with_reducible apply applyGrid_keeps
    | with_reducible apply setReg_keeps
    | (simp only [keeps_mk]; with_reducible apply KeepsF.of))

end Sys2Proof.Machine
end

