-- ==== Sys2Proof/Laws/KeepsFabric.lean ====
section
/-! SUPPORT. What the operations of the block leave alone, in the sense of `Keeps`, one lemma each: the switch core, requests, the reduction array and collectives. -/

namespace Sys2Proof.Machine

variable {b : Bool} {a : State}

/-! ## Switch -/

theorem setCredit_keeps {s : State} (k : Nat) (n : Nat) (h : Keeps b a s) :
    Keeps b a (@State.setCredit s k n) := by
  unfold State.setCredit
  repeat' (first | with_reducible assumption | (simp only [keeps_mk]; with_reducible apply KeepsF.of))

theorem gainCredits_keeps {s : State} (o : Nat) (ch : Nat) (n : Nat) (h : Keeps b a s) :
    Keeps b a (@State.gainCredits s o ch n) := by
  unfold State.gainCredits
  repeat' (first | with_reducible assumption | with_reducible apply setCredit_keeps)

theorem useCredits_keeps {s : State} (o : Nat) (ch : Nat) (n : Nat) (h : Keeps b a s) :
    Keeps b a (@State.useCredits s o ch n) := by
  unfold State.useCredits
  repeat' (first | with_reducible assumption | with_reducible apply setCredit_keeps)

theorem sendOn_keeps {s : State} (o : Nat) (inPort : Nat) (p : Pkt) (h : Keeps b a s) :
    Keeps b a (@State.sendOn s o inPort p) := by
  unfold State.sendOn
  repeat' (first
    | with_reducible assumption
    | with_reducible apply sendPkt_keeps
    | with_reducible apply useCredits_keeps
    | (simp only [keeps_mk]; with_reducible apply KeepsF.of)
    | dsimp only
    | split)

theorem xqCounts_keeps {s : State} (h : Keeps b a s) :
    Keeps b a (@State.xqCounts s) := by
  unfold State.xqCounts
  repeat' (first
    | with_reducible assumption
    | with_reducible apply flag_keeps
    | with_reducible apply wr_keeps
    | dsimp only
    | split)

theorem drrPick_keeps (o : Nat) (hs : List Stored) (k : Nat) {s : State} (h : Keeps b a s) :
    Keeps b a (drrPick o hs k s).2 := by
  induction k generalizing s with
  | zero => exact h
  | succ k ih =>
    unfold drrPick
    dsimp only
    split
    · exact h.upd rfl rfl rfl rfl rfl rfl rfl rfl rfl
    · exact ih (h.upd rfl rfl rfl rfl rfl rfl rfl rfl rfl)

theorem drrEmpty_keeps {s : State} (k : Nat) (x : Stored) (left : List Stored) (h : Keeps b a s) :
    Keeps b a (@State.drrEmpty s k x left) := by
  unfold State.drrEmpty
  repeat' (first
    | with_reducible assumption
    | (simp only [keeps_mk]; with_reducible apply KeepsF.of)
    | dsimp only
    | split)

theorem pickHead_keeps {s : State} (o : Nat) (r : Nat) (rows : Bool) (hs : List Stored) (all : List Stored) (h : Keeps b a s) :
    Keeps b a (@State.pickHead s o r rows hs all).2 := by
  unfold State.pickHead
  repeat' (first
    | with_reducible assumption
    | with_reducible apply drrPick_keeps
    | (simp only [keeps_mk]; with_reducible apply KeepsF.of)
    | dsimp only
    | split)

theorem nextStored_keeps {s : State} (o : Nat) (h : Keeps b a s) :
    Keeps b a (@State.nextStored s o).2 := by
  unfold State.nextStored
  repeat' (first
    | with_reducible assumption
    | with_reducible exact OkO.none
    | with_reducible apply OkO.some
    | with_reducible apply OkO.findSome
    | with_reducible apply Keeps.getD_snd
    | with_reducible apply pickHead_keeps
    | with_reducible refine Keeps.of_pair (by assumption) ?_
    | split
    | intro _)

theorem unstore_keeps {s : State} (x : Stored) (h : Keeps b a s) :
    Keeps b a (@State.unstore s x) := by
  unfold State.unstore
  repeat' (first
    | with_reducible assumption
    | with_reducible apply drrEmpty_keeps
    | (simp only [keeps_mk]; with_reducible apply KeepsF.of)
    | dsimp only
    | split)

theorem next97_keeps {s : State} (r : Nat) (h : Keeps b a s) :
    OkO (fun x => Keeps b a x.2) (@State.next97 s r) := by
  unfold State.next97
  repeat' (first
    | with_reducible assumption
    | with_reducible exact OkO.none
    | with_reducible apply OkO.some
    | with_reducible apply pickHead_keeps
    | with_reducible apply drrEmpty_keeps
    | (simp only [keeps_mk]; with_reducible apply KeepsF.of)
    | dsimp only
    | split)

theorem drainOut_keeps (o : Nat) (x1 : Nat) {x2 : State} (h : Keeps b a x2) :
    Keeps b a (@drainOut o x1 x2) := by
  revert h
  fun_induction drainOut o x1 x2 <;> intro h
  all_goals repeat' (first
    | with_reducible assumption
    | with_reducible apply sendOn_keeps
    | with_reducible apply xqCounts_keeps
    | with_reducible apply nextStored_keeps
    | with_reducible apply unstore_keeps
    | with_reducible apply_assumption
    | with_reducible refine Keeps.of_pair (by assumption) ?_)

theorem drain_keeps {s : State} (o : Nat) (h : Keeps b a s) :
    Keeps b a (@State.drain s o) := by
  unfold State.drain
  repeat' (first
    | with_reducible assumption
    | with_reducible apply drainOut_keeps
    | with_reducible apply bumpBy_keeps
    | with_reducible apply take_keeps
    | dsimp only
    | split)

theorem cutThrough_keeps {s : State} (x : Stored) (busy : Bool) (h : Keeps b a s) :
    OkO (Keeps b a) (@State.cutThrough s x busy) := by
  unfold State.cutThrough
  repeat' (first
    | with_reducible assumption
    | with_reducible exact OkO.none
    | with_reducible apply OkO.some
    | with_reducible apply setLink_keeps
    | with_reducible apply nextStored_keeps
    | with_reducible apply unstore_keeps
    | (simp only [keeps_mk]; with_reducible apply KeepsF.of)
    | with_reducible refine Keeps.of_pair (by assumption) ?_
    | dsimp only
    | split)

theorem forward_keeps {s : State} (inPort : Nat) (ch : Nat) (o : Nat) (p : Pkt) (busy : Bool) (h : Keeps b a s) :
    Keeps b a (@State.forward s inPort ch o p busy) := by
  unfold State.forward
  repeat' (first
    | with_reducible assumption
    | with_reducible apply cutThrough_keeps
    | with_reducible apply sendOn_keeps
    | with_reducible apply xqCounts_keeps
    | with_reducible apply drain_keeps
    | with_reducible apply bump_keeps
    | (simp only [keeps_mk]; with_reducible apply KeepsF.of)
    | with_reducible refine Keeps.of_some (by assumption) ?_
    | dsimp only
    | split)

theorem combCount_keeps {s : State} (o : Nat) (h : Keeps b a s) :
    Keeps b a (@State.combCount s o) := by
  unfold State.combCount
  repeat' (first | with_reducible assumption | with_reducible apply wr_keeps)

theorem closeComb_keeps {s : State} (c : Comb) (h : Keeps b a s) :
    Keeps b a (@State.closeComb s c) := by
  unfold State.closeComb
  repeat' (first
    | with_reducible assumption
    | with_reducible apply forward_keeps
    | (simp only [keeps_mk]; with_reducible apply KeepsF.of)
    | dsimp only
    | split)

theorem combine_keeps {s : State} (o : Nat) (p : Pkt) (h : Keeps b a s) :
    Keeps b a (@State.combine s o p).2 := by
  unfold State.combine
  repeat' (first
    | with_reducible assumption
    | with_reducible apply closeComb_keeps
    | with_reducible apply openEntry_keeps
    | with_reducible apply combCount_keeps
    | with_reducible apply bump_keeps
    | (simp only [keeps_mk]; with_reducible apply KeepsF.of)
    | with_reducible apply foldl_keeps
    | dsimp only
    | split)

theorem swAck_keeps {s : State} (p : Pkt) (status : Nat) (h : Keeps b a s) :
    Keeps b a (@State.swAck s p status) := by
  unfold State.swAck
  repeat' (first
    | with_reducible assumption
    | with_reducible apply ack_keeps
    | with_reducible apply bump_keeps
    | split)

theorem dead_keeps {s : State} (p : Pkt) (h : Keeps b a s) :
    Keeps b a (@State.dead s p) := by
  unfold State.dead
  repeat' (first
    | with_reducible assumption
    | with_reducible apply noRoute_keeps
    | with_reducible apply swAck_keeps
    | dsimp only
    | split)

theorem leave_keeps {s : State} (inPort : Nat) (ch : Nat) (o : Nat) (p : Pkt) (busy : Bool) (h : Keeps b a s) :
    Keeps b a (@State.leave s inPort ch o p busy) := by
  unfold State.leave
  repeat' (first
    | with_reducible assumption
    | with_reducible apply forward_keeps
    | with_reducible apply swAck_keeps
    | with_reducible apply combine_keeps
    | with_reducible refine Keeps.of_pair (by assumption) ?_
    | split)

theorem toInternal_keeps {s : State} (inPort : Nat) (ch : Nat) (p : Pkt) (h : Keeps b a s) :
    Keeps b a (@State.toInternal s inPort ch p) := by
  unfold State.toInternal
  repeat' (first
    | with_reducible assumption
    | with_reducible apply swAck_keeps
    | with_reducible apply forward_keeps
    | with_reducible apply bump_keeps
    | split)

theorem routeOut_keeps {s : State} (inPort : Nat) (ch : Nat) (p : Pkt) (busy : Bool) (h : Keeps b a s) :
    Keeps b a (@State.routeOut s inPort ch p busy) := by
  unfold State.routeOut
  repeat' (first
    | with_reducible assumption
    | with_reducible apply deliver_keeps
    | with_reducible apply dead_keeps
    | with_reducible apply toInternal_keeps
    | with_reducible apply leave_keeps
    | split)

theorem switchPkt_keeps {s : State} (inPort : Nat) (p : Pkt) (busy : Bool) (h : Keeps b a s) :
    Keeps b a (@State.switchPkt s inPort p busy) := by
  unfold State.switchPkt
  repeat' (first
    | with_reducible assumption
    | with_reducible apply swAck_keeps
    | with_reducible apply routeOut_keeps
    | with_reducible apply bump_keeps
    | split)

theorem switchCopy_keeps {s : State} (o : Nat) (p : Pkt) (busy : Bool) (h : Keeps b a s) :
    Keeps b a (@State.switchCopy s o p busy) := by
  unfold State.switchCopy
  repeat' (first
    | with_reducible assumption
    | with_reducible apply swAck_keeps
    | with_reducible apply leave_keeps
    | with_reducible apply dead_keeps
    | dsimp only
    | split)

theorem ifCell_keeps {s t : State} (h : Keeps b a t) : OkO (Keeps b a) (s.ifCell t) := by
  unfold State.ifCell
  split
  · exact xqCounts_keeps h
  · trivial

theorem unjudge_keeps {s : State} (i : Nat) (r : Nat) (h : Keeps b a s) :
    Keeps b a (@State.unjudge s i r) := by
  unfold State.unjudge
  repeat' (first | with_reducible assumption | (simp only [keeps_mk]; with_reducible apply KeepsF.of))

theorem judge_keeps {s : State} (i : Nat) (r : Nat) (h : Keeps b a s) :
    Keeps b a (@State.judge s i r) := by
  unfold State.judge
  repeat' (first
    | with_reducible assumption
    | (simp only [keeps_mk]; with_reducible apply KeepsF.of)
    | dsimp only
    | split)

theorem resultOut_keeps {s : State} (p : Pkt) (h : Keeps b a s) :
    Keeps b a (@State.resultOut s p) := by
  unfold State.resultOut
  repeat' (first | with_reducible assumption | with_reducible apply slotSent_keeps | split)

theorem switchFirst_keeps {s : State} (i : Nat) (r : Nat) (busy : Bool) (h : Keeps b a s) :
    OkO (Keeps b a) (@State.switchFirst s i r busy) := by
  unfold State.switchFirst
  repeat' (first
    | with_reducible assumption
    | with_reducible exact OkO.none
    | with_reducible apply takeRx_keeps
    | with_reducible apply ifCell_keeps
    | with_reducible apply switchPkt_keeps
    | with_reducible apply returnCredit_keeps
    | with_reducible apply unjudge_keeps
    | with_reducible apply next97_keeps
    | with_reducible apply resultOut_keeps
    | with_reducible apply switchCopy_keeps
    | (simp only [keeps_mk]; with_reducible apply KeepsF.of)
    | with_reducible refine Keeps.of_some_pair (by assumption) ?_
    | dsimp only
    | split)

theorem switchRanks_keeps (i : Nat) (busy : Bool) (x2 : List Nat) {x3 : State} (h : Keeps b a x3) :
    Keeps b a (@switchRanks i busy x2 x3).2 := by
  revert h
  fun_induction switchRanks i busy x2 x3 <;> intro h
  all_goals repeat' (first
    | with_reducible assumption
    | with_reducible apply switchFirst_keeps
    | with_reducible apply judge_keeps
    | with_reducible apply_assumption
    | with_reducible refine Keeps.of_some (by assumption) ?_
    | split)

theorem startCut_keeps {s : State} (i : Nat) (busy : Bool) (h : Keeps b a s) :
    OkO (Keeps b a) (@State.startCut s i busy) := by
  unfold State.startCut
  repeat' (first
    | with_reducible assumption
    | with_reducible exact OkO.none
    | with_reducible apply OkO.some
    | with_reducible apply cutThrough_keeps
    | with_reducible apply useCredits_keeps
    | with_reducible apply xqCounts_keeps
    | with_reducible apply bump_keeps
    | (simp only [keeps_mk]; with_reducible apply KeepsF.of)
    | with_reducible refine Keeps.of_some (by assumption) ?_
    | dsimp only
    | split)

theorem cutEnd_keeps {s : State} (i : Nat) (payload : List Byte) (stomp : Bool) (h : Keeps b a s) :
    Keeps b a (@State.cutEnd s i payload stomp) := by
  unfold State.cutEnd
  repeat' (first
    | with_reducible assumption
    | with_reducible apply xqCounts_keeps
    | with_reducible apply sendFlits_keeps
    | (simp only [keeps_mk]; with_reducible apply KeepsF.of)
    | with_reducible apply foldl_keeps
    | dsimp only
    | split
    | intro _)

theorem requeue_keeps {s : State} (o : Nat) (h : Keeps b a s) :
    Keeps b a (@State.requeue s o) := by
  unfold State.requeue
  repeat' (first
    | with_reducible assumption
    | with_reducible apply closeComb_keeps
    | with_reducible apply unstore_keeps
    | with_reducible apply xqCounts_keeps
    | with_reducible apply routeOut_keeps
    | with_reducible apply foldl_keeps
    | intro _)

theorem answerComb_keeps {s : State} (id : Nat) (f : Comb → Nat → Attached → State → State) (hf : ∀ (y0 : Comb) (y1 : Nat) (y2 : Attached) (y3 : State), Keeps b a y3 → Keeps b a (f y0 y1 y2 y3)) (h : Keeps b a s) :
    Keeps b a (@State.answerComb s id f) := by
  unfold State.answerComb
  repeat' (first
    | with_reducible assumption
    | with_reducible apply hf
    | with_reducible apply combCount_keeps
    | (simp only [keeps_mk]; with_reducible apply KeepsF.of)
    | with_reducible apply foldl_keeps
    | dsimp only
    | split
    | intro _)

theorem failComb_keeps {s : State} (id : Nat) (src : Nat) (status : Nat) (h : Keeps b a s) :
    Keeps b a (@State.failComb s id src status) := by
  unfold State.failComb
  repeat' (first
    | with_reducible assumption
    | with_reducible apply answerComb_keeps
    | with_reducible apply send_keeps
    | intro _)

/-! ## Mail -/

/-- The state that a mailbox command leaves. -/
def OkM (P : State → Prop) : MbRes → Prop
  | .done _ s => P s
  | .fail _ _ => True
  | .ends _ s => P s
  | .wait s => P s
  | .again s => P s

theorem OkM.done {P : State → Prop} {p : List Word} {t : State} (h : P t) : OkM P (.done p t) := h
theorem OkM.fail {P : State → Prop} {x y : Nat} : OkM P (.fail x y) := trivial
theorem OkM.ends {P : State → Prop} {x : Nat} {t : State} (h : P t) : OkM P (.ends x t) := h
theorem OkM.wait {P : State → Prop} {t : State} (h : P t) : OkM P (.wait t) := h
theorem OkM.again {P : State → Prop} {t : State} (h : P t) : OkM P (.again t) := h
theorem OkM.conflict {P : State → Prop} {x : Nat} : OkM P (conflict x) := trivial
theorem OkM.denied {P : State → Prop} : OkM P denied := trivial

theorem OkM.ownEntry {P : State → Prop} {m : Nat} {c : Bool} {r : MbRes} (h : OkM P r) : OkM P (ownEntry m c r) := by
  unfold Sys2Proof.Machine.ownEntry
  split
  · trivial
  · exact h

theorem putRsp_keeps (m : Nat) (x1 : Nat) (x2 : List Word) {x3 : State} (h : Keeps b a x3) :
    Keeps b a (@putRsp m x1 x2 x3) := by
  revert h
  fun_induction putRsp m x1 x2 x3 <;> intro h
  all_goals repeat' (first
    | with_reducible assumption
    | with_reducible apply setReg_keeps
    | with_reducible apply_assumption)

theorem mbForget_keeps {s : State} (m : Nat) (h : Keeps b a s) :
    Keeps b a (@State.mbForget s m) := by
  unfold State.mbForget
  repeat' (first | with_reducible assumption | (simp only [keeps_mk]; with_reducible apply KeepsF.of))

theorem mbComplete_keeps {s : State} (m : Nat) (status0 : Nat) (sc0 : Nat) (payload0 : List Word) (h : Keeps b a s) :
    Keeps b a (@State.mbComplete s m status0 sc0 payload0) := by
  unfold State.mbComplete
  repeat' (first
    | with_reducible assumption
    | with_reducible apply putRsp_keeps
    | with_reducible apply mbForget_keeps
    | with_reducible apply sendMsix_keeps
    | with_reducible apply bump_keeps
    | with_reducible apply flag_keeps
    | with_reducible apply put_keeps
    | (simp only [keeps_mk]; with_reducible apply KeepsF.of)
    | dsimp only
    | split)

theorem mbRun_keeps {s : State} (c : MbSpec) (m : Nat) (valid : Bool) (body : MbRes) (hb : OkM (Keeps b a) body)
    (h : Keeps b a s) : Keeps b a (s.mbRun c m valid body) := by
  unfold State.mbRun
  split
  · exact h
  · split
    · exact mbComplete_keeps _ _ _ _ h
    · cases body with
      | done p t => exact mbComplete_keeps _ _ _ _ hb
      | fail st sc => exact mbComplete_keeps _ _ _ _ h
      | ends st t => exact mbComplete_keeps _ _ _ _ hb
      | wait t => exact Keeps.upd (s := t) hb rfl rfl rfl rfl rfl rfl rfl rfl rfl
      | again t => exact hb

theorem mb_keeps {s : State} (c : MbSpec) (m : Nat) (valid : Bool) (body : MbRes) (hb : OkM (Keeps b a) body)
    (h : Keeps b a s) : OkR (Keeps b a) (s.mb c m valid body) := mbRun_keeps c m valid body hb h

theorem spargeGuard_keeps {s : State} (m n : Nat) (r : MbRes) (hb : OkM (Keeps b a) r) :
    OkM (Keeps b a) (s.spargeGuard m n r) := by
  unfold State.spargeGuard
  split
  · trivial
  · exact hb

theorem recallPart_keeps {s : State} (n : Nat) (h : Keeps b a s) :
    Keeps b a (@State.recallPart s n) := by
  unfold State.recallPart
  repeat' (first
    | with_reducible assumption
    | with_reducible apply sendRecall_keeps
    | with_reducible apply foldl_keeps
    | intro _)

theorem dirSettle_keeps {s : State} (h : Keeps b a s) :
    Keeps b a (@State.dirSettle s) := by
  unfold State.dirSettle
  repeat' (first
    | with_reducible assumption
    | with_reducible apply recallPart_keeps
    | with_reducible apply mbComplete_keeps
    | with_reducible apply sendRecall_keeps
    | with_reducible apply foldl_keeps
    | dsimp only
    | split
    | intro _)

theorem bulkWrite_keeps {s : State} (m : Nat) (bs : List Byte) (h : Keeps b a s) :
    Keeps b a (@State.bulkWrite s m bs).2 := by
  unfold State.bulkWrite
  repeat' (first | with_reducible assumption | with_reducible apply locWrite_keeps | dsimp only | split)

theorem execMbHello_keeps (m : Mbx) {s : State} (h : Keeps b a s) :
    OkR (Keeps b a) (@execMbHello m s) := by
  unfold execMbHello
  repeat' (first
    | with_reducible assumption
    | with_reducible apply mb_keeps
    | with_reducible apply put_keeps
    | with_reducible apply OkM.done
    | with_reducible apply OkM.fail
    | split)

/-! ## Requests -/

theorem beginRequest_keeps {s : State} (ops : List Nat) (h : Keeps b a s) :
    Keeps b a (@State.beginRequest s ops) := by
  unfold State.beginRequest
  repeat' (first
    | with_reducible assumption
    | with_reducible apply takeEp_keeps
    | with_reducible apply ownerAccess_keeps
    | with_reducible refine Keeps.of_some_pair (by assumption) ?_
    | split)

theorem lineAdd_keeps {s : State} (line : Nat) (op : Nat) (h : Keeps b a s) :
    Keeps b a (@State.lineAdd s line op) := by
  unfold State.lineAdd
  repeat' (first | with_reducible assumption | with_reducible apply setLines_keeps | split)

theorem failHeads_keeps {s : State} (qs : List LineQ) (st : Nat) (h : Keeps b a s) :
    Keeps b a (@State.failHeads s qs st) := by
  unfold State.failHeads
  repeat' (first
    | with_reducible assumption
    | with_reducible apply finishLine_keeps
    | with_reducible apply foldl_keeps
    | split
    | intro _)

theorem recallAnswer_keeps {s : State} (e : Option DirEntry) (x2 : Nat) (data : Option (List Byte)) (h : Keeps b a s) :
    Keeps b a (@State.recallAnswer s e x2 data) := by
  unfold State.recallAnswer
  repeat' (first
    | with_reducible assumption
    | with_reducible apply dirSettle_keeps
    | with_reducible apply dirAnswer_keeps
    | with_reducible apply lateWb_keeps
    | split)

theorem waitDone_keeps {s : State} (w : AtsWait) (h : Keeps b a s) :
    Keeps b a (@State.waitDone s w) := by
  unfold State.waitDone
  repeat' (first
    | with_reducible assumption
    | with_reducible apply fault_keeps
    | with_reducible apply answer_keeps
    | with_reducible apply translate_keeps
    | with_reducible apply translated_keeps
    | with_reducible apply atsWait_keeps
    | with_reducible apply mbComplete_keeps
    | (simp only [keeps_mk]; with_reducible apply KeepsF.of)
    | dsimp only
    | split)

theorem regionDone_keeps {s : State} (n : Nat) (pasid : Nat) (va : Nat) (size : Nat) (f : Bool → Option (Nat × Option Nat)) (h : Keeps b a s) :
    Keeps b a (@State.regionDone s n pasid va size f) := by
  unfold State.regionDone
  repeat' (first
    | with_reducible assumption
    | with_reducible apply waitDone_keeps
    | (simp only [keeps_mk]; with_reducible apply KeepsF.of)
    | with_reducible apply foldl_keeps)

/-! ## PoolCmds -/

theorem poolErr_keeps {s : State} (kind : Nat) (k : Nat) (i : Nat) (h : Keeps b a s) :
    Keeps b a (@State.poolErr s kind k i) := by
  unfold State.poolErr
  repeat' (first | with_reducible assumption | with_reducible apply setReg_keeps)

theorem doubleFree_keeps {s : State} (k : Nat) (i : Nat) (h : Keeps b a s) :
    Keeps b a (@State.doubleFree s k i) := by
  unfold State.doubleFree
  repeat' (first
    | with_reducible assumption
    | with_reducible apply poolErr_keeps
    | with_reducible apply bump_keeps
    | with_reducible apply put_keeps)

theorem freeCell_keeps {s : State} (i : Nat) (gives : Bool) (h : Keeps b a s) :
    Keeps b a (@State.freeCell s i gives) := by
  unfold State.freeCell
  repeat' (first
    | with_reducible assumption
    | with_reducible apply poolGive_keeps
    | with_reducible apply setBufs_keeps
    | with_reducible apply put_keeps
    | dsimp only
    | split)

theorem loseCell_keeps {s : State} (i : Nat) (h : Keeps b a s) :
    Keeps b a (@State.loseCell s i) := by
  unfold State.loseCell
  repeat' (first
    | with_reducible assumption
    | (simp only [keeps_mk]; with_reducible apply KeepsF.of)
    | dsimp only
    | split)

theorem endHolder_keeps {s : State} (i : Nat) (x2 : Holder) (h : Keeps b a s) :
    Keeps b a (@State.endHolder s i x2) := by
  unfold State.endHolder
  repeat' (first
    | with_reducible assumption
    | with_reducible apply tileDone_keeps
    | with_reducible apply ack_keeps
    | with_reducible apply poolGive_keeps
    | with_reducible apply bump_keeps
    | with_reducible apply emit_keeps
    | (simp only [keeps_mk]; with_reducible apply KeepsF.of)
    | with_reducible apply foldl_keeps
    | dsimp only
    | split
    | intro _)

theorem auditBuf_keeps {s : State} (k : Nat) (i : Nat) (h : Keeps b a s) :
    Keeps b a (@State.auditBuf s k i) := by
  unfold State.auditBuf
  repeat' (first
    | with_reducible assumption
    | with_reducible apply poolErr_keeps
    | with_reducible apply poolGive_keeps
    | with_reducible apply endHolder_keeps
    | with_reducible apply setBufs_keeps
    | with_reducible apply doubleFree_keeps
    | with_reducible apply bump_keeps
    | with_reducible apply flag_keeps
    | with_reducible apply put_keeps
    | (simp only [keeps_mk]; with_reducible apply KeepsF.of)
    | dsimp only
    | split)

/-! ## Reduce -/

theorem spanNs_keeps {s : State} (d : Nat) (h : Keeps b a s) :
    Keeps b a (@State.spanNs s d).2 := by
  unfold State.spanNs
  repeat' (first | with_reducible assumption | with_reducible apply take_keeps)

theorem dropChunk_keeps {s : State} (c : Chunk) (h : Keeps b a s) :
    Keeps b a (@State.dropChunk s c) := by
  unfold State.dropChunk
  repeat' (first
    | with_reducible assumption
    | with_reducible apply rdxCounts_keeps
    | (simp only [keeps_mk]; with_reducible apply KeepsF.of))

theorem setStaged_keeps {s : State} (l : List Staged) (h : Keeps b a s) :
    Keeps b a (@State.setStaged s l) := by
  unfold State.setStaged
  repeat' (first
    | with_reducible assumption
    | with_reducible apply wr_keeps
    | (simp only [keeps_mk]; with_reducible apply KeepsF.of))

theorem stageDrop_keeps {s : State} (h : Keeps b a s) :
    Keeps b a (@State.stageDrop s) := by
  unfold State.stageDrop
  repeat' (first
    | with_reducible assumption
    | with_reducible apply bump_keeps
    | with_reducible apply flag_keeps)

theorem projectFail_keeps {s : State} (c : Chunk) (status : Nat) (h : Keeps b a s) :
    Keeps b a (@State.projectFail s c status) := by
  unfold State.projectFail
  repeat' (first | with_reducible assumption | (simp only [keeps_mk]; with_reducible apply KeepsF.of))

theorem endContrib_keeps {s : State} (g : Nat) (num : Nat) (k : Contrib) (status : Nat) (h : Keeps b a s) :
    Keeps b a (@State.endContrib s g num k status) := by
  unfold State.endContrib
  repeat' (first
    | with_reducible assumption
    | with_reducible apply poolFree_keeps
    | with_reducible apply ack_keeps
    | split)

theorem endChunk_keeps {s : State} (c : Chunk) (status : Nat) (h : Keeps b a s) :
    Keeps b a (@State.endChunk s c status) := by
  unfold State.endChunk
  repeat' (first
    | with_reducible assumption
    | with_reducible apply dropChunk_keeps
    | with_reducible apply endContrib_keeps
    | with_reducible apply projectFail_keeps
    | (simp only [keeps_mk]; with_reducible apply KeepsF.of)
    | with_reducible apply foldl_keeps
    | intro _)

theorem recordSlow_keeps {s : State} (c : Chunk) (h : Keeps b a s) :
    Keeps b a (@State.recordSlow s c) := by
  unfold State.recordSlow
  repeat' (first
    | with_reducible assumption
    | with_reducible apply spanNs_keeps
    | with_reducible apply bump_keeps
    | with_reducible apply put_keeps
    | dsimp only
    | split)

theorem closeChunk_keeps {s : State} (c : Chunk) (h : Keeps b a s) :
    Keeps b a (@State.closeChunk s c) := by
  unfold State.closeChunk
  repeat' (first
    | with_reducible assumption
    | with_reducible apply recordSlow_keeps
    | with_reducible apply dropChunk_keeps
    | with_reducible apply rdxCounts_keeps
    | with_reducible apply ownerAccess_keeps
    | with_reducible apply issue_keeps
    | with_reducible apply stageDrop_keeps
    | with_reducible apply setStaged_keeps
    | with_reducible apply bump_keeps
    | with_reducible apply bumpBy_keeps
    | with_reducible apply flag_keeps
    | (simp only [keeps_mk]; with_reducible apply KeepsF.of)
    | dsimp only
    | split)

theorem addTurn_keeps (op fmt mode fuel : Nat) (c : Chunk) (k : Contrib) {s : State} (h : Keeps b a s) :
    Keeps b a (addTurn op fmt mode fuel c k s).2 := by
  induction fuel generalizing c k s with
  | zero => exact h
  | succ fuel ih =>
    have h1 : Keeps b a (match k.cell with | some i => s.poolFree 0 i (.chunk c.row c.num k.rank) | none => s) := by
      split
      · exact poolFree_keeps _ _ _ h
      · exact h
    unfold addTurn
    dsimp only
    split
    · split
      · exact ih _ _ h1
      · exact h1
    · exact h1

theorem joinChunk_keeps {s : State} (g : Nat) (p : Pkt) (at_ : Nat) (cell : Option Nat) (parity : Bool) (h : Keeps b a s) :
    OkO (Keeps b a) (@State.joinChunk s g p at_ cell parity) := by
  unfold State.joinChunk
  repeat' (first
    | with_reducible assumption
    | with_reducible exact OkO.none
    | with_reducible apply OkO.some
    | with_reducible apply rdxCounts_keeps
    | with_reducible apply poolTake_keeps
    | with_reducible apply endContrib_keeps
    | with_reducible apply endChunk_keeps
    | with_reducible apply addTurn_keeps
    | with_reducible apply closeChunk_keeps
    | with_reducible apply bump_keeps
    | with_reducible apply flag_keeps
    | (simp only [keeps_mk]; with_reducible apply KeepsF.of)
    | with_reducible refine Keeps.of_some_pair (by assumption) ?_
    | dsimp only
    | split)

theorem reject_keeps {s : State} (p : Pkt) (status : Nat) (h : Keeps b a s) :
    Keeps b a (@State.reject s p status) := by
  unfold State.reject
  repeat' (first
    | with_reducible assumption
    | with_reducible apply ack_keeps
    | with_reducible apply bump_keeps
    | with_reducible apply flag_keeps)

theorem contribute_keeps {s : State} (p : Pkt) (now : Nat) (parity : Bool) (h : Keeps b a s) :
    OkO (Keeps b a) (@State.contribute s p now parity) := by
  unfold State.contribute
  repeat' (first
    | with_reducible assumption
    | with_reducible exact OkO.none
    | with_reducible apply OkO.some
    | with_reducible apply ownerAccess_keeps
    | with_reducible apply ack_keeps
    | with_reducible apply reject_keeps
    | with_reducible apply poolTake_keeps
    | with_reducible apply joinChunk_keeps
    | with_reducible apply bump_keeps
    | (simp only [keeps_mk]; with_reducible apply KeepsF.of)
    | with_reducible refine Keeps.of_some_pair (by assumption) ?_
    | dsimp only
    | split)

theorem takeRdx_keeps {s : State} (op : Nat) (h : Keeps b a s) :
    OkO (fun x => Keeps b a x.2) (@State.takeRdx s op) := by
  unfold State.takeRdx
  repeat' (first
    | with_reducible assumption
    | with_reducible exact OkO.none
    | with_reducible apply OkO.some
    | with_reducible apply sealCheck_keeps
    | with_reducible apply ack_keeps
    | (simp only [keeps_mk]; with_reducible apply KeepsF.of)
    | with_reducible refine Keeps.of_pair (by assumption) ?_
    | dsimp only
    | split)

theorem beginInner_keeps {s : State} (op : Nat) (h : Keeps b a s) :
    Keeps b a (@State.beginInner s op) := by
  unfold State.beginInner
  repeat' (first
    | with_reducible assumption
    | with_reducible apply takeEp_keeps
    | with_reducible apply ack_keeps
    | with_reducible apply ownerAccess_keeps
    | with_reducible refine Keeps.of_some_pair (by assumption) ?_
    | split)

theorem beginContribution_keeps {s : State} (op : Nat) (now : Nat) (parity : Bool) (h : Keeps b a s) :
    Keeps b a (@State.beginContribution s op now parity) := by
  unfold State.beginContribution
  repeat' (first
    | with_reducible assumption
    | with_reducible apply takeRdx_keeps
    | with_reducible apply beginInner_keeps
    | with_reducible apply contribute_keeps
    | with_reducible refine Keeps.of_some (by assumption) ?_
    | with_reducible refine Keeps.of_some_pair (by assumption) ?_
    | split)

theorem unpark_keeps (g now : Nat) (bad : List Nat) (fuel : Nat) {s : State} (h : Keeps b a s) :
    Keeps b a (unpark g now bad fuel s) := by
  induction fuel generalizing s with
  | zero => exact h
  | succ fuel ih =>
    unfold unpark
    dsimp only
    split
    · exact h
    · rename_i w rest _
      have h1 : Keeps b a { s with ra := { s.ra with parked := rest } } := Keeps.upd h rfl rfl rfl rfl rfl rfl rfl rfl rfl
      apply ih
      apply ite_keeps
      · exact reject_keeps _ _ (poolFree_keeps _ _ _ h1)
      · exact Keeps.getD (joinChunk_keeps g w.pkt w.at_ (some w.cell) _ h1) h1

theorem share_keeps {s : State} (id : Nat) (k : Nat) (p : Pkt) (h : Keeps b a s) :
    Keeps b a (@State.share s id k p) := by
  unfold State.share
  repeat' (first | with_reducible assumption | with_reducible apply ownerAccess_keeps)

theorem copyTo_keeps {s : State} (id : Nat) (p : Pkt) (child : Nat × Nat) (h : Keeps b a s) :
    Keeps b a (@State.copyTo s id p child) := by
  unfold State.copyTo
  repeat' (first | with_reducible assumption | with_reducible apply issue_keeps)

theorem replicate_keeps {s : State} (p : Pkt) (e : List Word) (h : Keeps b a s) :
    Keeps b a (@State.replicate s p e) := by
  unfold State.replicate
  repeat' (first
    | with_reducible assumption
    | with_reducible apply copyTo_keeps
    | with_reducible apply share_keeps
    | (simp only [keeps_mk]; with_reducible apply KeepsF.of)
    | with_reducible apply foldl_keeps
    | dsimp only
    | split
    | intro _)

/-! ## Jobs -/

theorem jobFault_keeps {s : State} (n : Nat) (addr : Word) (len : Nat) (f : PageFail) (h : Keeps b a s) :
    Keeps b a (@State.jobFault s n addr len f).2 := by
  unfold State.jobFault
  repeat' (first
    | with_reducible assumption
    | with_reducible apply fault_keeps
    | with_reducible apply take_keeps)

theorem openWhole_keeps {s : State} (x : Step) (dst : Nat) (h : Keeps b a s) :
    Keeps b a (@State.openWhole s x dst).2 := by
  unfold State.openWhole
  repeat' (first
    | with_reducible assumption
    | with_reducible apply openEntry_keeps
    | with_reducible apply setStep_keeps
    | with_reducible apply bump_keeps
    | (simp only [keeps_mk]; with_reducible apply KeepsF.of)
    | dsimp only
    | split)

theorem closeWhole_keeps {s : State} (x : Step) (h : Keeps b a s) :
    Keeps b a (@State.closeWhole s x) := by
  unfold State.closeWhole
  repeat' (first
    | with_reducible assumption
    | with_reducible apply closeEntry_keeps
    | (simp only [keeps_mk]; with_reducible apply KeepsF.of)
    | dsimp only
    | split)

theorem stepPkt_keeps {s : State} (port : Nat) (x : Step) (i : Nat) (f : ReqForm) (h : Keeps b a s) :
    Keeps b a (@State.stepPkt s port x i f) := by
  unfold State.stepPkt
  repeat' (first | with_reducible assumption | with_reducible apply issue_keeps)

theorem setImage_keeps {s : State} (l : ImageLoad) (h : Keeps b a s) :
    Keeps b a (@State.setImage s l) := by
  unfold State.setImage
  repeat' (first | with_reducible assumption | (simp only [keeps_mk]; with_reducible apply KeepsF.of))

theorem imageNext_keeps {s : State} (l : ImageLoad) (h : Keeps b a s) :
    Keeps b a (@State.imageNext s l) := by
  unfold State.imageNext
  repeat' (first
    | with_reducible assumption
    | with_reducible apply setImage_keeps
    | with_reducible apply issue_keeps
    | dsimp only
    | split)

theorem imageReply_keeps {s : State} (id : Nat) (status : Nat) (bytes : List Byte) (h : Keeps b a s) :
    Keeps b a (@State.imageReply s id status bytes) := by
  unfold State.imageReply
  repeat' (first
    | with_reducible assumption
    | with_reducible apply imageNext_keeps
    | with_reducible apply setImage_keeps
    | split)

theorem attnNow_keeps {s : State} (h : Keeps b a s) :
    Keeps b a (@State.attnNow s) := by
  unfold State.attnNow
  repeat' (first | with_reducible assumption | (simp only [keeps_mk]; with_reducible apply KeepsF.of))

/-! ## Coll -/

theorem sendChunk_keeps {s : State} (id : Nat) (i : Nat) (bytes : List Byte) (h : Keeps b a s) :
    Keeps b a (@State.sendChunk s id i bytes) := by
  unfold State.sendChunk
  repeat' (first
    | with_reducible assumption
    | with_reducible apply setStep_keeps
    | with_reducible apply send_keeps
    | with_reducible apply stepPkt_keeps
    | dsimp only
    | split)

theorem runColl_keeps {s : State} (id : Nat) (h : Keeps b a s) :
    Keeps b a (@State.runColl s id) := by
  unfold State.runColl
  repeat' (first
    | with_reducible assumption
    | with_reducible apply sendChunk_keeps
    | with_reducible apply stepPkt_keeps
    | with_reducible apply setStep_keeps
    | with_reducible apply foldl_keeps
    | dsimp only
    | split
    | intro _)

theorem startColl_keeps {s : State} (id : Nat) (h : Keeps b a s) : Keeps b a (s.startColl id) := by
  unfold State.startColl
  split
  · exact h
  · rename_i x _
    lift_lets
    intro y t dst
    have ht : Keeps b a t := setStep_keeps _ h
    clear_value t
    split
    · split
      rename_i ok u heq
      have hu : Keeps b a u := Keeps.of_pair heq (openWhole_keeps _ _ ht)
      exact ite_keeps (runColl_keeps _ hu) hu
    · exact runColl_keeps _ ht

theorem takeRelease_keeps {s : State} (x1 : Nat) (now : Nat) (h : Keeps b a s) :
    Keeps b a (@State.takeRelease s x1 now) := by
  unfold State.takeRelease
  repeat' (first
    | with_reducible assumption
    | with_reducible apply spanNs_keeps
    | with_reducible apply mcReply_keeps
    | with_reducible apply bumpBy_keeps
    | (simp only [keeps_mk]; with_reducible apply KeepsF.of)
    | dsimp only
    | split)

theorem suspendRow_keeps {s : State} (g : Nat) (ep : Nat) (cause : Nat) (h : Keeps b a s) :
    Keeps b a (@State.suspendRow s g ep cause) := by
  unfold State.suspendRow
  repeat' (first
    | with_reducible assumption
    | with_reducible apply endHead_keeps
    | with_reducible apply endChunk_keeps
    | with_reducible apply bump_keeps
    | with_reducible apply flag_keeps
    | with_reducible apply put_keeps
    | with_reducible apply setReg_keeps
    | with_reducible apply foldl_keeps
    | dsimp only
    | split
    | intro _)

theorem suspendFor_keeps {s : State} (ep : Nat) (cause : Nat) (h : Keeps b a s) :
    Keeps b a (@State.suspendFor s ep cause) := by
  unfold State.suspendFor
  repeat' (first
    | with_reducible assumption
    | with_reducible apply suspendRow_keeps
    | with_reducible apply foldl_keeps
    | intro _)

end Sys2Proof.Machine
end

