-- ==== Sys2Proof/Laws/KeepsUnits.lean ====
section
/-! SUPPORT. What the operations of the block leave alone, in the sense of `Keeps`, one lemma each: attachment, fabric health, sequencers, the Tun and the memory tiers. -/

namespace Sys2Proof.Machine

variable {b : Bool} {a : State}

/-! ## Health -/

theorem sendCtl_keeps {s : State} (dst : Nat) (c : Ctl) (h : Keeps b a s) :
    Keeps b a (@State.sendCtl s dst c) := by
  unfold State.sendCtl
  repeat' (first | with_reducible assumption | with_reducible apply issue_keeps)

theorem notice_keeps {s : State} (c : Ctl) (h : Keeps b a s) :
    Keeps b a (@State.notice s c) := by
  unfold State.notice
  repeat' (first | with_reducible assumption | with_reducible apply issue_keeps | dsimp only | split)

theorem arbView_keeps {s : State} (h : Keeps b a s) :
    Keeps b a (@State.arbView s) := by
  unfold State.arbView
  repeat' (first
    | with_reducible assumption
    | with_reducible apply put_keeps
    | (simp only [keeps_mk]; with_reducible apply KeepsF.of)
    | dsimp only
    | split)

theorem newReq_keeps {s : State} (h : Keeps b a s) :
    Keeps b a (@State.newReq s).2 := by
  unfold State.newReq
  repeat' (first | with_reducible assumption | (simp only [keeps_mk]; with_reducible apply KeepsF.of))

theorem showScore_keeps {s : State} (kind : Nat) (idx : Nat) (h : Keeps b a s) :
    Keeps b a (@State.showScore s kind idx) := by
  unfold State.showScore
  repeat' (first
    | with_reducible assumption
    | with_reducible apply put_keeps
    | with_reducible apply setReg_keeps
    | dsimp only
    | split)

theorem askExpel_keeps {s : State} (peer : Bool) (i : Nat) (h : Keeps b a s) :
    Keeps b a (@State.askExpel s peer i) := by
  unfold State.askExpel
  repeat' (first
    | with_reducible assumption
    | with_reducible apply newReq_keeps
    | with_reducible apply sendCtl_keeps
    | (simp only [keeps_mk]; with_reducible apply KeepsF.of)
    | dsimp only
    | split)

theorem hardEvent_keeps {s : State} (weight : Nat) (targets : List (Nat × Nat)) (h : Keeps b a s) :
    Keeps b a (@State.hardEvent s weight targets) := by
  unfold State.hardEvent
  repeat' (first
    | with_reducible assumption
    | with_reducible apply showScore_keeps
    | with_reducible apply askExpel_keeps
    | with_reducible apply bump_keeps
    | (simp only [keeps_mk]; with_reducible apply KeepsF.of)
    | with_reducible apply foldl_keeps
    | split
    | intro _)

theorem hbmUncorr_keeps {s : State} (stack : Nat) (h : Keeps b a s) :
    Keeps b a (@State.hbmUncorr s stack) := by
  unfold State.hbmUncorr
  repeat' (first
    | with_reducible assumption
    | with_reducible apply hardEvent_keeps
    | with_reducible apply bump_keeps
    | with_reducible apply flag_keeps)

theorem bulkFault_keeps {s : State} (m : Nat) (h : Keeps b a s) :
    Keeps b a (@State.bulkFault s m) := by
  unfold State.bulkFault
  repeat' (first | with_reducible assumption | with_reducible apply hbmUncorr_keeps | split)

theorem clearGravity_keeps {s : State} (peer : Bool) (i : Nat) (h : Keeps b a s) :
    Keeps b a (@State.clearGravity s peer i) := by
  unfold State.clearGravity
  repeat' (first
    | with_reducible assumption
    | with_reducible apply showScore_keeps
    | with_reducible apply put_keeps
    | (simp only [keeps_mk]; with_reducible apply KeepsF.of))

theorem suspect_keeps {s : State} (peer : Bool) (i : Nat) (h : Keeps b a s) :
    Keeps b a (@State.suspect s peer i) := by
  unfold State.suspect
  repeat' (first
    | with_reducible assumption
    | with_reducible apply bump_keeps
    | with_reducible apply flag_keeps
    | with_reducible apply put_keeps
    | split)

theorem pickClock_keeps {s : State} (h : Keeps b a s) :
    Keeps b a (@State.pickClock s) := by
  unfold State.pickClock
  repeat' (first | with_reducible assumption | with_reducible apply put_keeps | dsimp only | split)

theorem dropOp_keeps {s : State} (id : Nat) (h : Keeps b a s) :
    Keeps b a (@State.dropOp s id) := by
  unfold State.dropOp
  repeat' (first
    | with_reducible assumption
    | with_reducible apply dequeue_keeps
    | (simp only [keeps_mk]; with_reducible apply KeepsF.of)
    | with_reducible apply foldl_keeps
    | dsimp only
    | split
    | intro _)

theorem attachDrop_keeps {s : State} (p : Nat) (h : Keeps b a s) :
    Keeps b a (@State.attachDrop s p) := by
  unfold State.attachDrop
  repeat' (first
    | with_reducible assumption
    | with_reducible apply dropOp_keeps
    | with_reducible apply dirUndo_keeps
    | (simp only [keeps_mk]; with_reducible apply KeepsF.of)
    | with_reducible apply foldl_keeps
    | intro _)

theorem linkOut_keeps {s : State} (p : Nat) (state : Nat) (h : Keeps b a s) :
    Keeps b a (@State.linkOut s p state) := by
  unfold State.linkOut
  repeat' (first
    | with_reducible assumption
    | with_reducible apply attachDrop_keeps
    | with_reducible apply unjudge_keeps
    | with_reducible apply cutEnd_keeps
    | with_reducible apply setLink_keeps
    | with_reducible apply setCredit_keeps
    | with_reducible apply pickClock_keeps
    | with_reducible apply requeue_keeps
    | with_reducible apply bumpBy_keeps
    | with_reducible apply flag_keeps
    | with_reducible apply put_keeps
    | (simp only [keeps_mk]; with_reducible apply KeepsF.of)
    | with_reducible apply foldl_keeps
    | split
    | intro _)

theorem dropCounts_keeps {s : State} (p : Nat) (peer : Option Nat) (cause : Nat) (h : Keeps b a s) :
    Keeps b a (@State.dropCounts s p peer cause) := by
  unfold State.dropCounts
  repeat' (first | with_reducible assumption | with_reducible apply hardEvent_keeps)

theorem dropTo_keeps {s : State} (p : Nat) (cause : Nat) (state : Nat) (h : Keeps b a s) :
    Keeps b a (@State.dropTo s p cause state) := by
  unfold State.dropTo
  repeat' (first
    | with_reducible assumption
    | with_reducible apply linkOut_keeps
    | with_reducible apply dropCounts_keeps
    | with_reducible apply bump_keeps
    | with_reducible apply flag_keeps
    | with_reducible apply put_keeps
    | (simp only [keeps_mk]; with_reducible apply KeepsF.of)
    | dsimp only
    | split)

theorem dropLink_keeps {s : State} (p : Nat) (cause : Nat) (h : Keeps b a s) :
    Keeps b a (@State.dropLink s p cause) := by
  unfold State.dropLink
  repeat' (first | with_reducible assumption | with_reducible apply dropTo_keeps)

theorem linkEvent_keeps {s : State} (p : Nat) (cause : Nat) (seen : Bool) (h : Keeps b a s) :
    Keeps b a (@State.linkEvent s p cause seen) := by
  unfold State.linkEvent
  repeat' (first
    | with_reducible assumption
    | with_reducible apply dropLink_keeps
    | with_reducible apply dropCounts_keeps
    | (simp only [keeps_mk]; with_reducible apply KeepsF.of)
    | dsimp only
    | split)

theorem lenderLost_keeps {s : State} (ep : Nat) (h : Keeps b a s) :
    Keeps b a (@State.lenderLost s ep) := by
  unfold State.lenderLost
  repeat' (first
    | with_reducible assumption
    | with_reducible apply finishLine_keeps
    | with_reducible apply foldl_keeps
    | split
    | intro _)

theorem markLost_keeps {s : State} (ep : Nat) (h : Keeps b a s) :
    Keeps b a (@State.markLost s ep) := by
  unfold State.markLost
  repeat' (first
    | with_reducible assumption
    | with_reducible apply arbView_keeps
    | with_reducible apply lendLost_keeps
    | with_reducible apply lenderLost_keeps
    | with_reducible apply suspendFor_keeps
    | with_reducible apply mark_keeps
    | (simp only [keeps_mk]; with_reducible apply KeepsF.of)
    | dsimp only
    | split)

theorem markFenced_keeps {s : State} (ep : Nat) (h : Keeps b a s) :
    Keeps b a (@State.markFenced s ep) := by
  unfold State.markFenced
  repeat' (first
    | with_reducible assumption
    | with_reducible apply suspendFor_keeps
    | with_reducible apply dirSettle_keeps
    | with_reducible apply dirForget_keeps
    | with_reducible apply arbView_keeps
    | with_reducible apply mark_keeps
    | dsimp only
    | split)

theorem unmark_keeps {s : State} (ep : Nat) (h : Keeps b a s) :
    Keeps b a (@State.unmark s ep) := by
  unfold State.unmark
  repeat' (first
    | with_reducible assumption
    | with_reducible apply arbView_keeps
    | with_reducible apply mark_keeps)

theorem peerNotice_keeps {s : State} (i : Nat) (type : Nat) (epoch : Nat) (h : Keeps b a s) :
    Keeps b a (@State.peerNotice s i type epoch) := by
  unfold State.peerNotice
  repeat' (first | with_reducible assumption | with_reducible apply notice_keeps)

theorem fencePeer_keeps {s : State} (i : Nat) (h : Keeps b a s) :
    Keeps b a (@State.fencePeer s i) := by
  unfold State.fencePeer
  repeat' (first
    | with_reducible assumption
    | with_reducible apply markFenced_keeps
    | with_reducible apply requeue_keeps
    | with_reducible apply hardEvent_keeps
    | with_reducible apply peerNotice_keeps
    | with_reducible apply flag_keeps
    | with_reducible apply put_keeps
    | (simp only [keeps_mk]; with_reducible apply KeepsF.of)
    | with_reducible apply foldl_keeps)

theorem freePeer_keeps {s : State} (i : Nat) (h : Keeps b a s) :
    Keeps b a (@State.freePeer s i) := by
  unfold State.freePeer
  repeat' (first
    | with_reducible assumption
    | with_reducible apply clearGravity_keeps
    | with_reducible apply setReg_keeps
    | (simp only [keeps_mk]; with_reducible apply KeepsF.of))

theorem settlePeer_keeps {s : State} (i : Nat) (h : Keeps b a s) :
    Keeps b a (@State.settlePeer s i) := by
  unfold State.settlePeer
  repeat' (first | with_reducible assumption | with_reducible apply freePeer_keeps | split)

theorem sendOwned_keeps {s : State} (i : Nat) (h : Keeps b a s) :
    Keeps b a (@State.sendOwned s i) := by
  unfold State.sendOwned
  repeat' (first | with_reducible assumption | with_reducible apply sendCtl_keeps)

theorem portUp_keeps {s : State} (p : Nat) (h : Keeps b a s) :
    Keeps b a (@State.portUp s p) := by
  unfold State.portUp
  repeat' (first
    | with_reducible assumption
    | with_reducible apply bootTry_keeps
    | with_reducible apply pickClock_keeps
    | with_reducible apply fencePeer_keeps
    | with_reducible apply sendOwned_keeps
    | with_reducible apply put_keeps
    | (simp only [keeps_mk]; with_reducible apply KeepsF.of)
    | dsimp only
    | split)

theorem isolate_keeps {s : State} (p : Nat) (h : Keeps b a s) :
    Keeps b a (@State.isolate s p) := by
  unfold State.isolate
  repeat' (first
    | with_reducible assumption
    | with_reducible apply linkOut_keeps
    | with_reducible apply bump_keeps
    | with_reducible apply flag_keeps
    | with_reducible apply put_keeps
    | (simp only [keeps_mk]; with_reducible apply KeepsF.of))

theorem showSlot_keeps {s : State} (i : Nat) (h : Keeps b a s) :
    Keeps b a (@State.showSlot s i) := by
  unfold State.showSlot
  repeat' (first | with_reducible assumption | with_reducible apply put_keeps | split)

theorem readmit_keeps {s : State} (i : Nat) (h : Keeps b a s) :
    Keeps b a (@State.readmit s i) := by
  unfold State.readmit
  repeat' (first
    | with_reducible assumption
    | with_reducible apply unmark_keeps
    | with_reducible apply clearGravity_keeps
    | with_reducible apply peerNotice_keeps
    | with_reducible apply freePeer_keeps
    | with_reducible apply dropLink_keeps
    | with_reducible apply settlePeer_keeps
    | with_reducible apply showSlot_keeps
    | with_reducible apply put_keeps
    | (simp only [keeps_mk]; with_reducible apply KeepsF.of)
    | with_reducible apply foldl_keeps
    | dsimp only
    | split
    | intro _)

theorem declareDead_keeps {s : State} (i : Nat) (h : Keeps b a s) :
    Keeps b a (@State.declareDead s i) := by
  unfold State.declareDead
  repeat' (first
    | with_reducible assumption
    | with_reducible apply markLost_keeps
    | with_reducible apply peerNotice_keeps
    | with_reducible apply flag_keeps
    | with_reducible apply put_keeps
    | (simp only [keeps_mk]; with_reducible apply KeepsF.of)
    | with_reducible apply foldl_keeps)

/-! ## Attach -/

theorem returnAttach_keeps {s : State} (p : Nat) (cls : Nat) (d : Option Flit) (h : Keeps b a s) :
    Keeps b a (@State.returnAttach s p cls d) := by
  unfold State.returnAttach
  repeat' (first
    | with_reducible assumption
    | with_reducible apply flushLink_keeps
    | with_reducible apply owe_keeps
    | split)

theorem takeAttach_keeps {s : State} (p : Nat) (m : Nat) (h : Keeps b a s) :
    OkO (fun x => Keeps b a x.2) (@State.takeAttach s p m) := by
  unfold State.takeAttach
  repeat' (first
    | with_reducible assumption
    | with_reducible exact OkO.none
    | with_reducible apply OkO.some
    | with_reducible apply takeRx_keeps
    | with_reducible apply returnAttach_keeps
    | with_reducible refine Keeps.of_some_pair (by assumption) ?_
    | split)

theorem onRequest_keeps {s : State} (p : Nat) (m : Nat) (answer : Option Nat) (f : AMsg → State → State) (hf : ∀ (y0 : AMsg) (y1 : State), Keeps b a y1 → Keeps b a (f y0 y1)) (h : Keeps b a s) :
    OkR (Keeps b a) (@State.onRequest s p m answer f) := by
  unfold State.onRequest
  repeat' (first
    | with_reducible assumption
    | with_reducible apply hf
    | with_reducible apply takeAttach_keeps
    | with_reducible apply sendAttach_keeps
    | with_reducible refine Keeps.of_some_pair (by assumption) ?_
    | with_reducible apply OkR.next
    | dsimp only
    | split)

theorem onResponse_keeps {s : State} (p : Nat) (m : Nat) (f : AMsg → State → State) (hf : ∀ (y0 : AMsg) (y1 : State), Keeps b a y1 → Keeps b a (f y0 y1)) (h : Keeps b a s) :
    OkR (Keeps b a) (@State.onResponse s p m f) := by
  unfold State.onResponse
  repeat' (first
    | with_reducible assumption
    | with_reducible apply hf
    | with_reducible apply takeAttach_keeps
    | with_reducible refine Keeps.of_some_pair (by assumption) ?_
    | with_reducible apply OkR.next
    | split)

theorem attachRead_keeps {s : State} (p : Nat) (own : Bool) (x : AMsg) (h : Keeps b a s) :
    Keeps b a (@State.attachRead s p own x) := by
  unfold State.attachRead
  repeat' (first
    | with_reducible assumption
    | with_reducible apply answer_keeps
    | with_reducible apply access_keeps
    | dsimp only
    | split)

theorem hostWaitsLost_keeps {s : State} (h : Keeps b a s) :
    Keeps b a (@State.hostWaitsLost s) := by
  unfold State.hostWaitsLost
  repeat' (first
    | with_reducible assumption
    | with_reducible apply finishLine_keeps
    | with_reducible apply foldl_keeps
    | split
    | intro _)

theorem ringsFull_keeps {s : State} (h : Keeps b a s) :
    Keeps b a (@State.ringsFull s) := by
  unfold State.ringsFull
  repeat' (first
    | with_reducible assumption
    | with_reducible apply ringFull_keeps
    | with_reducible apply foldl_keeps
    | split
    | intro _)

theorem cxlDown_keeps {s : State} (h : Keeps b a s) :
    Keeps b a (@State.cxlDown s) := by
  unfold State.cxlDown
  repeat' (first
    | with_reducible assumption
    | with_reducible apply ringsFull_keeps
    | with_reducible apply t3Lost_keeps
    | with_reducible apply hostWaitsLost_keeps
    | with_reducible apply bump_keeps
    | with_reducible apply put_keeps
    | dsimp only
    | split)

theorem cxlTrained_keeps {s : State} (x16 : Bool) (gt64 : Bool) (h : Keeps b a s) :
    Keeps b a (@State.cxlTrained s x16 gt64) := by
  unfold State.cxlTrained
  repeat' (first
    | with_reducible assumption
    | with_reducible apply ringsFull_keeps
    | with_reducible apply put_keeps)

/-! ## MbXlat -/

theorem setMask_keeps {s : State} (k : Key) (mask : Nat) (v : Word) (h : Keeps b a s) :
    Keeps b a (@State.setMask s k mask v) := by
  unfold State.setMask
  repeat' (first | with_reducible assumption | with_reducible apply setReg_keeps)

theorem execTimeGridSet_keeps (m : Mbx) {s : State} (h : Keeps b a s) :
    OkR (Keeps b a) (@execTimeGridSet m s) := by
  unfold execTimeGridSet
  repeat' (first
    | with_reducible assumption
    | with_reducible apply mb_keeps
    | with_reducible apply put_keeps
    | with_reducible apply wr_keeps
    | with_reducible apply OkM.done
    | with_reducible apply OkM.conflict
    | split)

theorem execTimeConfigSet_keeps (m : Mbx) {s : State} (h : Keeps b a s) :
    OkR (Keeps b a) (@execTimeConfigSet m s) := by
  unfold execTimeConfigSet
  repeat' (first
    | with_reducible assumption
    | with_reducible apply setMask_keeps
    | with_reducible apply mb_keeps
    | with_reducible apply fibreLow_keeps
    | with_reducible apply setReg_keeps
    | with_reducible apply OkM.done)

theorem execXlatEpSet_keeps (m : Mbx) {s : State} (h : Keeps b a s) :
    OkR (Keeps b a) (@execXlatEpSet m s) := by
  unfold execXlatEpSet
  repeat' (first
    | with_reducible assumption
    | with_reducible apply setMask_keeps
    | with_reducible apply showSlot_keeps
    | with_reducible apply sendOwned_keeps
    | with_reducible apply putRecord_keeps
    | with_reducible apply mb_keeps
    | with_reducible apply arbView_keeps
    | with_reducible apply setReg_keeps
    | with_reducible apply foldl_keeps
    | with_reducible apply OkM.done
    | with_reducible apply OkM.denied
    | dsimp only
    | split)

theorem execXlatAtsSet_keeps (m : Mbx) {s : State} (h : Keeps b a s) :
    OkR (Keeps b a) (@execXlatAtsSet m s) := by
  unfold execXlatAtsSet
  repeat' (first
    | with_reducible assumption
    | with_reducible apply mb_keeps
    | with_reducible apply setMask_keeps
    | with_reducible apply OkM.done)

theorem execXlatFqSet_keeps (m : Mbx) {s : State} (h : Keeps b a s) :
    OkR (Keeps b a) (@execXlatFqSet m s) := by
  unfold execXlatFqSet
  repeat' (first
    | with_reducible assumption
    | with_reducible apply setMask_keeps
    | with_reducible apply mb_keeps
    | with_reducible apply fqFull_keeps
    | with_reducible apply wr_keeps
    | with_reducible apply OkM.done)

theorem execXlatShareSet_keeps (m : Mbx) {s : State} (h : Keeps b a s) :
    OkR (Keeps b a) (@execXlatShareSet m s) := by
  unfold execXlatShareSet
  repeat' (first
    | with_reducible assumption
    | with_reducible apply mb_keeps
    | with_reducible apply spargeGuard_keeps
    | with_reducible apply setMask_keeps
    | with_reducible apply OkM.done
    | with_reducible apply OkM.conflict
    | with_reducible apply OkM.denied
    | split)

theorem changeWait_keeps {s : State} (m : Nat) (uses : List Use) (h : Keeps b a s) :
    OkM (Keeps b a) (@State.changeWait s m uses) := by
  unfold State.changeWait
  repeat' (first
    | with_reducible assumption
    | (simp only [keeps_mk]; with_reducible apply KeepsF.of)
    | with_reducible apply OkM.done
    | with_reducible apply OkM.wait
    | dsimp only
    | split)

theorem execXlatWindowSet_keeps (m : Mbx) {s : State} (h : Keeps b a s) :
    OkR (Keeps b a) (@execXlatWindowSet m s) := by
  unfold execXlatWindowSet
  repeat' (first
    | with_reducible assumption
    | with_reducible apply mb_keeps
    | with_reducible apply spargeGuard_keeps
    | with_reducible apply changeWait_keeps
    | (simp only [keeps_mk]; with_reducible apply KeepsF.of)
    | with_reducible apply foldl_keeps
    | with_reducible apply OkM.conflict
    | with_reducible apply OkM.denied
    | dsimp only
    | split
    | intro _)

theorem setPage_keeps {s : State} (i : Nat) (w0 : Word) (w1 : Word) (h : Keeps b a s) :
    Keeps b a (@State.setPage s i w0 w1) := by
  unfold State.setPage
  repeat' (first | with_reducible assumption | (simp only [keeps_mk]; with_reducible apply KeepsF.of))

theorem execXlatPageSet_keeps (m : Mbx) {s : State} (h : Keeps b a s) :
    OkR (Keeps b a) (@execXlatPageSet m s) := by
  unfold execXlatPageSet
  repeat' (first
    | with_reducible assumption
    | with_reducible apply setPage_keeps
    | with_reducible apply mb_keeps
    | with_reducible apply spargeGuard_keeps
    | with_reducible apply changeWait_keeps
    | with_reducible apply foldl_keeps
    | with_reducible apply OkM.conflict
    | with_reducible apply OkM.denied
    | split
    | intro _)

theorem execXlatPageClear_keeps (m : Mbx) {s : State} (h : Keeps b a s) :
    OkR (Keeps b a) (@execXlatPageClear m s) := by
  unfold execXlatPageClear
  repeat' (first
    | with_reducible assumption
    | with_reducible apply setPage_keeps
    | with_reducible apply mb_keeps
    | with_reducible apply spargeGuard_keeps
    | with_reducible apply changeWait_keeps
    | with_reducible apply foldl_keeps
    | with_reducible apply OkM.denied
    | split
    | intro _)

theorem execXlatPageGet_keeps (m : Mbx) {s : State} (h : Keeps b a s) :
    OkR (Keeps b a) (@execXlatPageGet m s) := by
  unfold execXlatPageGet
  repeat' (first
    | with_reducible assumption
    | with_reducible apply mb_keeps
    | with_reducible apply OkM.done
    | with_reducible apply OkM.denied
    | split)

theorem execXlatAtsPrefetch_keeps (m : Mbx) {s : State} (h : Keeps b a s) :
    OkR (Keeps b a) (@execXlatAtsPrefetch m s) := by
  unfold execXlatAtsPrefetch
  repeat' (first
    | with_reducible assumption
    | with_reducible apply translate_keeps
    | with_reducible apply atsWait_keeps
    | with_reducible apply mb_keeps
    | with_reducible apply OkM.ends
    | with_reducible apply OkM.wait
    | with_reducible apply OkM.denied
    | dsimp only
    | split)

/-! ## Seq -/

theorem seqFault_keeps {s : State} (c : Nat) (t : Nat) (cause : Nat) (h : Keeps b a s) :
    Keeps b a (@State.seqFault s c t cause) := by
  unfold State.seqFault
  repeat' (first
    | with_reducible assumption
    | with_reducible apply haltThread_keeps
    | with_reducible apply bump_keeps
    | with_reducible apply flag_keeps
    | with_reducible apply setReg_keeps)

theorem fabric_keeps {s : State} (c : Core) (t : Thread) (names : Bool) (reserved : Bool) (body : State → State) (hf : ∀ (y0 : State), Keeps b a y0 → Keeps b a (body y0)) (h : Keeps b a s) :
    OkR (Keeps b a) (@State.fabric s c t names reserved body) := by
  unfold State.fabric
  repeat' (first
    | with_reducible assumption
    | with_reducible apply hf
    | with_reducible apply issued_keeps
    | with_reducible apply seqFault_keeps
    | with_reducible apply OkR.next
    | dsimp only
    | split)

theorem blockEnd_keeps {s : State} (c : Nat) (t : Nat) (rd : Nat) (v : Nat) (status : Nat) (h : Keeps b a s) :
    Keeps b a (@State.blockEnd s c t rd v status) := by
  unfold State.blockEnd
  repeat' (first | with_reducible assumption | with_reducible apply setThread_keeps)

theorem seqBlock_keeps {s : State} (c : Nat) (t : Nat) (rd : Nat) (aligned : Bool) (f : ReqForm) (h : Keeps b a s) :
    Keeps b a (@State.seqBlock s c t rd aligned f) := by
  unfold State.seqBlock
  repeat' (first
    | with_reducible assumption
    | with_reducible apply blockEnd_keeps
    | with_reducible apply setThread_keeps
    | with_reducible apply issueThread_keeps
    | dsimp only
    | split)

theorem seqPost_keeps {s : State} (c : Nat) (t : Nat) (code : Nat) (aligned : Bool) (f : ReqForm) (h : Keeps b a s) :
    Keeps b a (@State.seqPost s c t code aligned f) := by
  unfold State.seqPost
  repeat' (first
    | with_reducible assumption
    | with_reducible apply setThread_keeps
    | with_reducible apply issueThread_keeps
    | with_reducible apply postedDone_keeps
    | dsimp only
    | split)

theorem endWaitlc_keeps {s : State} (c : Nat) (t : Nat) (rd : Nat) (status : Nat) (h : Keeps b a s) :
    Keeps b a (@State.endWaitlc s c t rd status) := by
  unfold State.endWaitlc
  repeat' (first
    | with_reducible assumption
    | with_reducible apply wake_keeps
    | with_reducible apply setThread_keeps)

theorem lcPut_keeps {s : State} (i : Nat) (v : Word) (h : Keeps b a s) :
    Keeps b a (@State.lcPut s i v) := by
  unfold State.lcPut
  repeat' (first
    | with_reducible assumption
    | with_reducible apply lcAdd_keeps
    | with_reducible apply setCounter_keeps)

/-! ## MbFabric -/

theorem execTrackConfigSet_keeps (m : Mbx) {s : State} (h : Keeps b a s) :
    OkR (Keeps b a) (@execTrackConfigSet m s) := by
  unfold execTrackConfigSet
  repeat' (first
    | with_reducible assumption
    | with_reducible apply mb_keeps
    | with_reducible apply setMask_keeps
    | with_reducible apply OkM.done)

theorem execTrackShareSet_keeps (m : Mbx) {s : State} (h : Keeps b a s) : OkR (Keeps b a) (execTrackShareSet m s) := by
  unfold execTrackShareSet
  dsimp only
  refine mb_keeps _ _ _ _ (spargeGuard_keeps _ _ _ ?_) h
  generalize List.sum (α := Nat) _ = x
  split
  · exact OkM.denied
  · exact OkM.done (setMask_keeps _ _ _ h)

theorem execLcShareSet_keeps (m : Mbx) {s : State} (h : Keeps b a s) :
    OkR (Keeps b a) (@execLcShareSet m s) := by
  unfold execLcShareSet
  repeat' (first
    | with_reducible assumption
    | with_reducible apply mb_keeps
    | with_reducible apply spargeGuard_keeps
    | with_reducible apply setMask_keeps
    | with_reducible apply OkM.done
    | with_reducible apply OkM.denied
    | split)

theorem execLcRead_keeps (m : Mbx) {s : State} (h : Keeps b a s) :
    OkR (Keeps b a) (@execLcRead m s) := by
  unfold execLcRead
  repeat' (first
    | with_reducible assumption
    | with_reducible apply mb_keeps
    | with_reducible apply OkM.done
    | with_reducible apply OkM.denied
    | split)

theorem execLcSet_keeps (m : Mbx) {s : State} (h : Keeps b a s) :
    OkR (Keeps b a) (@execLcSet m s) := by
  unfold execLcSet
  repeat' (first
    | with_reducible assumption
    | with_reducible apply mb_keeps
    | with_reducible apply lcPut_keeps
    | with_reducible apply OkM.done
    | with_reducible apply OkM.denied
    | split)

theorem execDirConfigSet_keeps (m : Mbx) {s : State} (h : Keeps b a s) :
    OkR (Keeps b a) (@execDirConfigSet m s) := by
  unfold execDirConfigSet
  repeat' (first
    | with_reducible assumption
    | with_reducible apply dirSettle_keeps
    | with_reducible apply mbRun_keeps
    | with_reducible apply setMask_keeps
    | with_reducible apply OkR.next
    | with_reducible apply OkM.wait)

theorem bankBusy_keeps {s : State} (r : MbRes) (hb : OkM (Keeps b a) r) (h : Keeps b a s) :
    OkM (Keeps b a) (@State.bankBusy s r) := by
  unfold State.bankBusy
  repeat' (first | with_reducible assumption | with_reducible apply OkM.conflict | split)

theorem bulkBody_keeps {s : State} (m : Nat) (x2 : Reply) (f : List Byte → MbRes) (hf : ∀ y0, OkM (Keeps b a) (f y0)) (h : Keeps b a s) :
    OkM (Keeps b a) (@State.bulkBody s m x2 f) := by
  unfold State.bulkBody
  repeat' (first
    | with_reducible assumption
    | with_reducible apply hf
    | with_reducible apply bulkFault_keeps
    | with_reducible apply OkM.ends
    | split)

theorem execXbarRouteLoad_keeps (m : Mbx) (host : Reply) {s : State} (h : Keeps b a s) :
    OkR (Keeps b a) (@execXbarRouteLoad m host s) := by
  unfold execXbarRouteLoad
  repeat' (first
    | with_reducible assumption
    | with_reducible apply mb_keeps
    | with_reducible apply bankBusy_keeps
    | with_reducible apply bulkBody_keeps
    | (simp only [keeps_mk]; with_reducible apply KeepsF.of)
    | with_reducible apply foldl_keeps
    | with_reducible apply OkM.done
    | with_reducible apply OkM.denied
    | dsimp only
    | split
    | intro _)

theorem execXbarGroupLoad_keeps (m : Mbx) (host : Reply) {s : State} (h : Keeps b a s) :
    OkR (Keeps b a) (@execXbarGroupLoad m host s) := by
  unfold execXbarGroupLoad
  repeat' (first
    | with_reducible assumption
    | with_reducible apply mb_keeps
    | with_reducible apply bankBusy_keeps
    | with_reducible apply bulkBody_keeps
    | (simp only [keeps_mk]; with_reducible apply KeepsF.of)
    | with_reducible apply foldl_keeps
    | with_reducible apply OkM.done
    | with_reducible apply OkM.denied
    | dsimp only
    | split
    | intro _)

theorem execXbarEpochSwitch_keeps (m : Mbx) {s : State} (h : Keeps b a s) :
    OkR (Keeps b a) (@execXbarEpochSwitch m s) := by
  unfold execXbarEpochSwitch
  repeat' (first
    | with_reducible assumption
    | with_reducible apply mb_keeps
    | with_reducible apply flag_keeps
    | with_reducible apply wr_keeps
    | with_reducible apply OkM.done
    | with_reducible apply OkM.conflict
    | split)

theorem execXbarConfigSet_keeps (m : Mbx) {s : State} (h : Keeps b a s) :
    OkR (Keeps b a) (@execXbarConfigSet m s) := by
  unfold execXbarConfigSet
  repeat' (first
    | with_reducible assumption
    | with_reducible apply setMask_keeps
    | with_reducible apply poolServe_keeps
    | with_reducible apply setBufs_keeps
    | with_reducible apply mb_keeps
    | with_reducible apply put_keeps
    | (simp only [keeps_mk]; with_reducible apply KeepsF.of)
    | with_reducible apply OkM.done
    | dsimp only
    | split)

theorem execXbarPortSet_keeps (m : Mbx) {s : State} (h : Keeps b a s) :
    OkR (Keeps b a) (@execXbarPortSet m s) := by
  unfold execXbarPortSet
  repeat' (first
    | with_reducible assumption
    | with_reducible apply mb_keeps
    | with_reducible apply setMask_keeps
    | with_reducible apply OkM.done)

theorem execPoolWarnSet_keeps (m : Mbx) {s : State} (h : Keeps b a s) :
    OkR (Keeps b a) (@execPoolWarnSet m s) := by
  unfold execPoolWarnSet
  repeat' (first
    | with_reducible assumption
    | with_reducible apply mb_keeps
    | with_reducible apply poolWarn_keeps
    | with_reducible apply setReg_keeps
    | with_reducible apply OkM.done)

theorem execPoolLimitSet_keeps (m : Mbx) {s : State} (h : Keeps b a s) :
    OkR (Keeps b a) (@execPoolLimitSet m s) := by
  unfold execPoolLimitSet
  repeat' (first
    | with_reducible assumption
    | with_reducible apply mb_keeps
    | with_reducible apply spargeGuard_keeps
    | with_reducible apply poolServe_keeps
    | with_reducible apply setMask_keeps
    | with_reducible apply OkM.done)

/-! ## Tun -/

theorem emitPkts_keeps {s : State} (id : Nat) (port : Nat) (fs : List ReqForm) (h : Keeps b a s) :
    Keeps b a (@State.emitPkts s id port fs) := by
  unfold State.emitPkts
  repeat' (first
    | with_reducible assumption
    | with_reducible apply setStep_keeps
    | with_reducible apply stepPkt_keeps
    | with_reducible apply foldl_keeps
    | dsimp only
    | split
    | intro _)

theorem emitMore_keeps {s : State} (id : Nat) (fs : List ReqForm) (h : Keeps b a s) :
    Keeps b a (@State.emitMore s id fs) := by
  unfold State.emitMore
  repeat' (first
    | with_reducible assumption
    | with_reducible apply send_keeps
    | with_reducible apply setStep_keeps
    | split)

theorem emitContribs_keeps {s : State} (id : Nat) (dst : Nat) (fs : List ReqForm) (h : Keeps b a s) :
    Keeps b a (@State.emitContribs s id dst fs) := by
  unfold State.emitContribs
  repeat' (first
    | with_reducible assumption
    | with_reducible apply emitMore_keeps
    | with_reducible apply openWhole_keeps
    | with_reducible apply setStep_keeps
    | dsimp only
    | split)

theorem countBusy_keeps {s t : State} (id cycles : Nat) (h : Keeps b a t) : Keeps b a (s.countBusy t id cycles) := by
  unfold State.countBusy
  exact ite_keeps (bumpBy_keeps h _ _) h

theorem partBusy_keeps {s : State} (cycles : Nat) (h : Keeps b a s) :
    Keeps b a (@State.partBusy s cycles) := by
  unfold State.partBusy
  repeat' (first
    | with_reducible assumption
    | with_reducible apply bumpBy_keeps
    | with_reducible apply take_keeps)

theorem tunNext_keeps {s : State} (h : Keeps b a s) :
    Keeps b a (@State.tunNext s) := by
  unfold State.tunNext
  repeat' (first | with_reducible assumption | with_reducible apply put_keeps | split)

theorem wordFault_keeps {s : State} (w : Option WordFault) (h : Keeps b a s) :
    Keeps b a (@State.wordFault s w) := by
  unfold State.wordFault
  repeat' (first | with_reducible assumption | with_reducible apply hbmUncorr_keeps | split)

theorem tunClear_keeps {s : State} (x : Step) (h : Keeps b a s) :
    Keeps b a (@State.tunClear s x) := by
  unfold State.tunClear
  repeat' (first
    | with_reducible assumption
    | (simp only [keeps_mk]; with_reducible apply KeepsF.of)
    | dsimp only
    | split)

theorem tunParity_keeps {s : State} (st : Nat) (h : Keeps b a s) :
    Keeps b a (@State.tunParity s st) := by
  unfold State.tunParity
  repeat' (first
    | with_reducible assumption
    | with_reducible apply bump_keeps
    | with_reducible apply flag_keeps
    | split)

theorem setLoad_keeps {s : State} (l : SliceLoad) (h : Keeps b a s) :
    Keeps b a (@State.setLoad s l) := by
  unfold State.setLoad
  repeat' (first | with_reducible assumption | (simp only [keeps_mk]; with_reducible apply KeepsF.of))

theorem endLoad_keeps {s : State} (l : SliceLoad) (x2 : Word) (x3 : Word) (status : Nat) (h : Keeps b a s) :
    Keeps b a (@State.endLoad s l x2 x3 status) := by
  unfold State.endLoad
  repeat' (first
    | with_reducible assumption
    | with_reducible apply complete_keeps
    | with_reducible apply put_keeps
    | with_reducible apply setReg_keeps
    | (simp only [keeps_mk]; with_reducible apply KeepsF.of))

theorem loadNext_keeps {s : State} (l : SliceLoad) (h : Keeps b a s) :
    Keeps b a (@State.loadNext s l) := by
  unfold State.loadNext
  repeat' (first
    | with_reducible assumption
    | with_reducible apply setLoad_keeps
    | with_reducible apply issue_keeps
    | dsimp only
    | split)

theorem loadReply_keeps {s : State} (id : Nat) (chunk : Nat) (status : Nat) (bytes : List Byte) (held : Bool) (h : Keeps b a s) :
    Keeps b a (@State.loadReply s id chunk status bytes held) := by
  unfold State.loadReply
  repeat' (first
    | with_reducible assumption
    | with_reducible apply loadNext_keeps
    | with_reducible apply setLoad_keeps
    | split)

theorem writeSlice_keeps {s : State} (l : SliceLoad) (h : Keeps b a s) : Keeps b a (s.writeSlice l) := by
  unfold State.writeSlice
  refine foldl_keeps _ _ (fun s o h => ?_) h
  refine foldl_keeps _ _ (fun s x h => ?_) h
  refine bumpBy_keeps ?_ _ _
  exact ⟨h.pending, h.out, h.free,
    fun w => let w := h.wf w; ⟨w.hbm, writeBytes_canon _ _ _ w.store, writeBytes_canon _ _ _ w.scale, w.local_, w.regs⟩, h.ck⟩

/-! ## Attn -/

theorem resolvePage_keeps {s : State} (n : Nat) (ws : List Word) (late : Bool) (hostFails : Option (List PageFail)) (f : AttnFind)
    (i : Nat) (entry : Word) (h : Keeps b a s) : Keeps b a (s.resolvePage n ws late hostFails f i entry).2 := by
  unfold State.resolvePage
  dsimp only
  refine ite_snd h (ite_snd (ite_snd (bump_keeps (flag_keeps h _) _) (flag_keeps h _)) (ite_snd h ?_))
  generalize State.slotTrans _ _ _ _ _ = t0
  generalize (if t0.needs.isEmpty = true then t0 else _) = t
  split
  · exact jobFault_keeps _ _ _ _ h
  · refine ite_snd h (ite_snd h (ite_snd h (ite_snd (ite_snd (bump_keeps (bump_keeps (flag_keeps h _) _) _) (bump_keeps (flag_keeps h _) _)) ?_)))
    refine bumpBy_keeps (foldl_keeps _ _ (fun s u h => ?_) h) _ _
    split
    · exact touchExt_keeps _ h
    · exact h

/-! ## MbColl -/

theorem execRdxConfigSet_keeps (m : Mbx) {s : State} (h : Keeps b a s) :
    OkR (Keeps b a) (@execRdxConfigSet m s) := by
  unfold execRdxConfigSet
  repeat' (first
    | with_reducible assumption
    | with_reducible apply mb_keeps
    | with_reducible apply setMask_keeps
    | with_reducible apply wr_keeps
    | with_reducible apply OkM.done)

theorem execCollMembersSet_keeps (m : Mbx) {s : State} (h : Keeps b a s) :
    OkR (Keeps b a) (@execCollMembersSet m s) := by
  unfold execCollMembersSet
  repeat' (first
    | with_reducible assumption
    | with_reducible apply mb_keeps
    | with_reducible apply spargeGuard_keeps
    | with_reducible apply setReg_keeps
    | with_reducible apply foldl_keeps
    | with_reducible apply OkM.done
    | with_reducible apply OkM.conflict
    | dsimp only
    | split
    | intro _)

theorem writeRow_keeps {s : State} (n : Nat) (g : Nat) (w : RowWords) (h : Keeps b a s) :
    Keeps b a (@State.writeRow s n g w) := by
  unfold State.writeRow
  repeat' (first
    | with_reducible assumption
    | with_reducible apply setMask_keeps
    | with_reducible apply rdxCounts_keeps
    | with_reducible apply put_keeps
    | with_reducible apply setReg_keeps
    | (simp only [keeps_mk]; with_reducible apply KeepsF.of)
    | dsimp only
    | split)

theorem rowOwned_keeps {s : State} (m : Nat) (n : Nat) (g : Nat) (r : MbRes) (hb : OkM (Keeps b a) r) (h : Keeps b a s) :
    OkM (Keeps b a) (@State.rowOwned s m n g r) := by
  unfold State.rowOwned
  repeat' (first
    | with_reducible assumption
    | with_reducible apply spargeGuard_keeps
    | with_reducible apply OkM.denied
    | split)

theorem execCollForm_keeps (m : Mbx) {s : State} (h : Keeps b a s) :
    OkR (Keeps b a) (@execCollForm m s) := by
  unfold execCollForm
  repeat' (first
    | with_reducible assumption
    | with_reducible apply mb_keeps
    | with_reducible apply spargeGuard_keeps
    | with_reducible apply writeRow_keeps
    | with_reducible apply put_keeps
    | with_reducible apply OkM.done
    | with_reducible apply OkM.conflict
    | with_reducible apply OkM.denied
    | split)

theorem execCollSuspend_keeps (m : Mbx) {s : State} (h : Keeps b a s) :
    OkR (Keeps b a) (@execCollSuspend m s) := by
  unfold execCollSuspend
  repeat' (first
    | with_reducible assumption
    | with_reducible apply mb_keeps
    | with_reducible apply rowOwned_keeps
    | with_reducible apply suspendRow_keeps
    | with_reducible apply take_keeps
    | with_reducible apply OkM.done
    | with_reducible apply OkM.conflict
    | split)

theorem execCollReform_keeps (m : Mbx) {s : State} (h : Keeps b a s) :
    OkR (Keeps b a) (@execCollReform m s) := by
  unfold execCollReform
  repeat' (first
    | with_reducible assumption
    | with_reducible apply mb_keeps
    | with_reducible apply rowOwned_keeps
    | with_reducible apply writeRow_keeps
    | with_reducible apply put_keeps
    | with_reducible apply OkM.done
    | with_reducible apply OkM.conflict
    | with_reducible apply OkM.denied
    | split)

theorem execCollDissolve_keeps (m : Mbx) {s : State} (h : Keeps b a s) :
    OkR (Keeps b a) (@execCollDissolve m s) := by
  unfold execCollDissolve
  repeat' (first
    | with_reducible assumption
    | with_reducible apply mb_keeps
    | with_reducible apply rowOwned_keeps
    | with_reducible apply put_keeps
    | (simp only [keeps_mk]; with_reducible apply KeepsF.of)
    | with_reducible apply OkM.done
    | with_reducible apply OkM.conflict
    | dsimp only
    | split)

theorem execCollWeightSet_keeps (m : Mbx) {s : State} (h : Keeps b a s) :
    OkR (Keeps b a) (@execCollWeightSet m s) := by
  unfold execCollWeightSet
  repeat' (first
    | with_reducible assumption
    | with_reducible apply mb_keeps
    | with_reducible apply rowOwned_keeps
    | with_reducible apply put_keeps
    | with_reducible apply OkM.done
    | with_reducible apply OkM.conflict
    | split)

theorem execCollPartSet_keeps (m : Mbx) {s : State} (h : Keeps b a s) :
    OkR (Keeps b a) (@execCollPartSet m s) := by
  unfold execCollPartSet
  repeat' (first
    | with_reducible assumption
    | with_reducible apply mb_keeps
    | with_reducible apply spargeGuard_keeps
    | with_reducible apply setMask_keeps
    | with_reducible apply OkM.done)

theorem execMcGroupSet_keeps (m : Mbx) {s : State} (h : Keeps b a s) :
    OkR (Keeps b a) (@execMcGroupSet m s) := by
  unfold execMcGroupSet
  repeat' (first
    | with_reducible assumption
    | with_reducible apply mb_keeps
    | with_reducible apply spargeGuard_keeps
    | with_reducible apply put_keeps
    | (simp only [keeps_mk]; with_reducible apply KeepsF.of)
    | with_reducible apply OkM.done
    | with_reducible apply OkM.conflict
    | with_reducible apply OkM.denied
    | dsimp only
    | split)

theorem execMcGroupClear_keeps (m : Mbx) {s : State} (h : Keeps b a s) :
    OkR (Keeps b a) (@execMcGroupClear m s) := by
  unfold execMcGroupClear
  repeat' (first
    | with_reducible assumption
    | with_reducible apply mb_keeps
    | with_reducible apply spargeGuard_keeps
    | with_reducible apply put_keeps
    | (simp only [keeps_mk]; with_reducible apply KeepsF.of)
    | with_reducible apply OkM.done
    | with_reducible apply OkM.conflict
    | dsimp only
    | split)

theorem execMcGroupGet_keeps (m : Mbx) {s : State} (h : Keeps b a s) :
    OkR (Keeps b a) (@execMcGroupGet m s) := by
  unfold execMcGroupGet
  repeat' (first | with_reducible assumption | with_reducible apply mb_keeps | with_reducible apply OkM.done)

/-! ## TierMoves -/

theorem startTier_keeps {s : State} (id : Nat) (h : Keeps b a s) :
    Keeps b a (@State.startTier s id) := by
  unfold State.startTier
  repeat' (first | with_reducible assumption | with_reducible apply setStep_keeps | dsimp only | split)

theorem applyPin_keeps {s : State} (e : Nat) (op : Nat) (h : Keeps b a s) :
    Keeps b a (@State.applyPin s e op) := by
  unfold State.applyPin
  repeat' (first | with_reducible assumption | with_reducible apply putExt_keeps | split)

theorem tierFail_keeps {s : State} (x : Step) (status : Nat) (h : Keeps b a s) :
    Keeps b a (@State.tierFail s x status) := by
  unfold State.tierFail
  repeat' (first | with_reducible assumption | with_reducible apply setStep_keeps)

theorem tierDone_keeps {s : State} (x : Step) (h : Keeps b a s) :
    Keeps b a (@State.tierDone s x) := by
  unfold State.tierDone
  repeat' (first | with_reducible assumption | with_reducible apply lcAdd_keeps | split)

theorem endReturn_keeps {s : State} (i : Nat) (status : Nat) (h : Keeps b a s) :
    Keeps b a (@State.endReturn s i status) := by
  unfold State.endReturn
  repeat' (first
    | with_reducible assumption
    | with_reducible apply mbComplete_keeps
    | (simp only [keeps_mk]; with_reducible apply KeepsF.of)
    | with_reducible apply foldl_keeps
    | intro _)

theorem freeLend_keeps {s : State} (i : Nat) (h : Keeps b a s) :
    Keeps b a (@State.freeLend s i) := by
  unfold State.freeLend
  repeat' (first
    | with_reducible assumption
    | with_reducible apply tierCounts_keeps
    | with_reducible apply setReg_keeps)

theorem settleReturns_keeps {s : State} (h : Keeps b a s) :
    Keeps b a (@State.settleReturns s) := by
  unfold State.settleReturns
  repeat' (first
    | with_reducible assumption
    | with_reducible apply endReturn_keeps
    | with_reducible apply freeLend_keeps
    | with_reducible apply foldl_keeps
    | split
    | intro _)

theorem returnToT3_keeps {s : State} (k : Nat) (i : Nat) (h : Keeps b a s) :
    Keeps b a (@State.returnToT3 s k i) := by
  unfold State.returnToT3
  repeat' (first
    | with_reducible assumption
    | with_reducible apply obtain_keeps
    | with_reducible apply startMove_keeps
    | with_reducible apply endReturn_keeps
    | with_reducible apply bump_keeps
    | dsimp only
    | split)

theorem setExtMove_keeps {s : State} (m : ExtMove) (h : Keeps b a s) :
    Keeps b a (@State.setExtMove s m) := by
  unfold State.setExtMove
  repeat' (first | with_reducible assumption | (simp only [keeps_mk]; with_reducible apply KeepsF.of))

theorem freeCopy_keeps {s : State} (m : ExtMove) (h : Keeps b a s) :
    Keeps b a (@State.freeCopy s m) := by
  unfold State.freeCopy
  repeat' (first | with_reducible assumption | with_reducible apply poolFree_keeps | split)

theorem closeMove_keeps {s : State} (m : ExtMove) (h : Keeps b a s) :
    Keeps b a (@State.closeMove s m) := by
  unfold State.closeMove
  repeat' (first
    | with_reducible assumption
    | with_reducible apply freeCopy_keeps
    | with_reducible apply tierCounts_keeps
    | with_reducible apply setExt_keeps
    | (simp only [keeps_mk]; with_reducible apply KeepsF.of))

theorem abandonMove_keeps {s : State} (m : ExtMove) (h : Keeps b a s) :
    Keeps b a (@State.abandonMove s m) := by
  unfold State.abandonMove
  repeat' (first
    | with_reducible assumption
    | with_reducible apply closeMove_keeps
    | with_reducible apply tierCounts_keeps
    | with_reducible apply promote_keeps
    | dsimp only
    | split)

theorem evictFailed_keeps {s : State} (m : ExtMove) (h : Keeps b a s) :
    Keeps b a (@State.evictFailed s m) := by
  unfold State.evictFailed
  repeat' (first
    | with_reducible assumption
    | with_reducible apply setWait_keeps
    | with_reducible apply allocFrame_keeps
    | with_reducible apply finishLine_keeps
    | with_reducible apply tierFail_keeps
    | with_reducible apply returnToT3_keeps
    | with_reducible apply bump_keeps
    | with_reducible apply flag_keeps
    | dsimp only
    | split)

theorem moveFails_keeps {s : State} (m : ExtMove) (status : Nat) (h : Keeps b a s) :
    Keeps b a (@State.moveFails s m status) := by
  unfold State.moveFails
  repeat' (first
    | with_reducible assumption
    | with_reducible apply abandonMove_keeps
    | with_reducible apply tierFail_keeps
    | with_reducible apply evictFailed_keeps
    | with_reducible apply endReturn_keeps
    | dsimp only
    | split)

theorem copyBlocks_keeps {s : State} (m : ExtMove) (blocks : List Nat) (data : List Byte) (h : Keeps b a s) :
    Keeps b a (@State.copyBlocks s m blocks data) := by
  unfold State.copyBlocks
  repeat' (first
    | with_reducible assumption
    | with_reducible apply emit_keeps
    | with_reducible apply hbmWrite_keeps
    | with_reducible apply foldl_keeps
    | dsimp only
    | split
    | intro _)

theorem copyFailed_keeps {s : State} (m : ExtMove) (x2 : CopyEnd) (h : Keeps b a s) :
    OkO (fun x => Keeps b a x.2) (@State.copyFailed s m x2) := by
  unfold State.copyFailed
  repeat' (first
    | with_reducible assumption
    | with_reducible exact OkO.none
    | with_reducible apply OkO.some
    | with_reducible apply hbmUncorr_keeps
    | with_reducible apply bump_keeps
    | with_reducible apply flag_keeps
    | split)

theorem vacated_keeps {s : State} (m : ExtMove) (x : Nat) (f : Nat) (h : Keeps b a s) :
    Keeps b a (@State.vacated s m x f) := by
  unfold State.vacated
  repeat' (first
    | with_reducible assumption
    | with_reducible apply setWait_keeps
    | with_reducible apply zeroFrame_keeps
    | with_reducible apply giveFrame_keeps
    | with_reducible apply startMove_keeps
    | with_reducible apply setStep_keeps
    | dsimp only
    | split)

theorem dropMoves_keeps {s : State} (p : ExtMove → Bool) (h : Keeps b a s) :
    Keeps b a (@State.dropMoves s p) := by
  unfold State.dropMoves
  repeat' (first
    | with_reducible assumption
    | with_reducible apply abandonMove_keeps
    | with_reducible apply foldl_keeps)

/-! ## MbTier -/

theorem execTunShareSet_keeps (m : Mbx) {s : State} (h : Keeps b a s) :
    OkR (Keeps b a) (@execTunShareSet m s) := by
  unfold execTunShareSet
  repeat' (first
    | with_reducible assumption
    | with_reducible apply mb_keeps
    | with_reducible apply spargeGuard_keeps
    | with_reducible apply setMask_keeps
    | with_reducible apply OkM.done
    | with_reducible apply OkM.conflict
    | with_reducible apply OkM.denied
    | split)

theorem execTunSliceClear_keeps (m : Mbx) {s : State} (h : Keeps b a s) :
    OkR (Keeps b a) (@execTunSliceClear m s) := by
  unfold execTunSliceClear
  repeat' (first
    | with_reducible assumption
    | with_reducible apply mb_keeps
    | with_reducible apply spargeGuard_keeps
    | with_reducible apply setReg_keeps
    | with_reducible apply OkM.done
    | with_reducible apply OkM.conflict
    | with_reducible apply OkM.ownEntry
    | split)

theorem execTunSliceGet_keeps (m : Mbx) {s : State} (h : Keeps b a s) :
    OkR (Keeps b a) (@execTunSliceGet m s) := by
  unfold execTunSliceGet
  repeat' (first
    | with_reducible assumption
    | with_reducible apply mb_keeps
    | with_reducible apply OkM.done
    | with_reducible apply OkM.ownEntry)

theorem execTunBindSet_keeps (m : Mbx) {s : State} (h : Keeps b a s) :
    OkR (Keeps b a) (@execTunBindSet m s) := by
  unfold execTunBindSet
  repeat' (first
    | with_reducible assumption
    | with_reducible apply mb_keeps
    | with_reducible apply spargeGuard_keeps
    | with_reducible apply setReg_keeps
    | with_reducible apply OkM.done
    | with_reducible apply OkM.conflict
    | with_reducible apply OkM.ownEntry
    | split)

theorem unbind_keeps {s : State} (x1 : Nat) (count : Bool) (h : Keeps b a s) :
    Keeps b a (@State.unbind s x1 count) := by
  unfold State.unbind
  repeat' (first
    | with_reducible assumption
    | with_reducible apply setStaged_keeps
    | with_reducible apply rdxCounts_keeps
    | with_reducible apply stageDrop_keeps
    | with_reducible apply setReg_keeps
    | with_reducible apply foldl_keeps
    | dsimp only
    | split
    | intro _)

theorem execTunBindClear_keeps (m : Mbx) {s : State} (h : Keeps b a s) :
    OkR (Keeps b a) (@execTunBindClear m s) := by
  unfold execTunBindClear
  repeat' (first
    | with_reducible assumption
    | with_reducible apply mb_keeps
    | with_reducible apply spargeGuard_keeps
    | with_reducible apply unbind_keeps
    | with_reducible apply OkM.done
    | with_reducible apply OkM.conflict
    | with_reducible apply OkM.ownEntry
    | split)

theorem execMemShareSet_keeps (m : Mbx) {s : State} (h : Keeps b a s) :
    OkR (Keeps b a) (@execMemShareSet m s) := by
  unfold execMemShareSet
  repeat' (first
    | with_reducible assumption
    | with_reducible apply mb_keeps
    | with_reducible apply spargeGuard_keeps
    | with_reducible apply setMask_keeps
    | with_reducible apply OkM.done
    | with_reducible apply OkM.conflict
    | with_reducible apply OkM.denied
    | split)

theorem execTierRegionSet_keeps (m : Mbx) {s : State} (h : Keeps b a s) :
    OkR (Keeps b a) (@execTierRegionSet m s) := by
  unfold execTierRegionSet
  repeat' (first
    | with_reducible assumption
    | with_reducible apply mb_keeps
    | with_reducible apply tierCounts_keeps
    | with_reducible apply setMask_keeps
    | with_reducible apply OkM.done
    | with_reducible apply OkM.conflict
    | with_reducible apply OkM.denied
    | split)

theorem execTierT3Set_keeps (m : Mbx) {s : State} (h : Keeps b a s) :
    OkR (Keeps b a) (@execTierT3Set m s) := by
  unfold execTierT3Set
  repeat' (first
    | with_reducible assumption
    | with_reducible apply mb_keeps
    | with_reducible apply tierCounts_keeps
    | with_reducible apply setMask_keeps
    | with_reducible apply wr_keeps
    | with_reducible apply OkM.done
    | with_reducible apply OkM.conflict
    | split)

theorem execTierQuotaSet_keeps (m : Mbx) {s : State} (h : Keeps b a s) : OkR (Keeps b a) (execTierQuotaSet m s) := by
  unfold execTierQuotaSet
  dsimp only
  refine mb_keeps _ _ _ _ (spargeGuard_keeps _ _ _ ?_) h
  generalize List.any (α := Nat) (List.range 3) _ = x
  split
  · exact OkM.denied
  · generalize List.any (α := Nat) (List.range 3) _ = x
    split
    · exact OkM.conflict
    · exact OkM.done (setMask_keeps _ _ _ h)

theorem execTierExtShareSet_keeps (m : Mbx) {s : State} (h : Keeps b a s) :
    OkR (Keeps b a) (@execTierExtShareSet m s) := by
  unfold execTierExtShareSet
  repeat' (first
    | with_reducible assumption
    | with_reducible apply mb_keeps
    | with_reducible apply spargeGuard_keeps
    | with_reducible apply setMask_keeps
    | with_reducible apply OkM.done
    | with_reducible apply OkM.conflict
    | with_reducible apply OkM.denied
    | split)

theorem execTierConfigSet_keeps (m : Mbx) {s : State} (h : Keeps b a s) :
    OkR (Keeps b a) (@execTierConfigSet m s) := by
  unfold execTierConfigSet
  repeat' (first
    | with_reducible assumption
    | with_reducible apply mb_keeps
    | with_reducible apply setMask_keeps
    | with_reducible apply OkM.done)

theorem execTierExtentSet_keeps (m : Mbx) {s : State} (h : Keeps b a s) :
    OkR (Keeps b a) (@execTierExtentSet m s) := by
  unfold execTierExtentSet
  repeat' (first
    | with_reducible assumption
    | with_reducible apply mb_keeps
    | with_reducible apply spargeGuard_keeps
    | with_reducible apply setExt_keeps
    | with_reducible apply foldl_keeps
    | with_reducible apply OkM.done
    | with_reducible apply OkM.conflict
    | with_reducible apply OkM.denied
    | split
    | intro _)

theorem execTierExtentFree_keeps (m : Mbx) {s : State} (h : Keeps b a s) :
    OkR (Keeps b a) (@execTierExtentFree m s) := by
  unfold execTierExtentFree
  repeat' (first
    | with_reducible assumption
    | with_reducible apply mb_keeps
    | with_reducible apply spargeGuard_keeps
    | with_reducible apply settleReturns_keeps
    | with_reducible apply freeExt_keeps
    | with_reducible apply foldl_keeps
    | with_reducible apply OkM.done
    | with_reducible apply OkM.conflict
    | with_reducible apply OkM.denied
    | split
    | intro _)

theorem execTierExtentGet_keeps (m : Mbx) {s : State} (h : Keeps b a s) :
    OkR (Keeps b a) (@execTierExtentGet m s) := by
  unfold execTierExtentGet
  repeat' (first
    | with_reducible assumption
    | with_reducible apply mb_keeps
    | with_reducible apply OkM.done
    | with_reducible apply OkM.denied
    | split)

theorem lendMb_keeps {s : State} (m : Nat) (opcode : Nat) (need : Nat) (valid : Bool) (r : MbRes) (hb : OkM (Keeps b a) r) (h : Keeps b a s) :
    OkR (Keeps b a) (@State.lendMb s m opcode need valid r) := by
  unfold State.lendMb
  repeat' (first | with_reducible assumption | with_reducible apply mb_keeps)

theorem execTierLendOffer_keeps (m : Mbx) {s : State} (h : Keeps b a s) :
    OkR (Keeps b a) (@execTierLendOffer m s) := by
  unfold execTierLendOffer
  repeat' (first
    | with_reducible assumption
    | with_reducible apply pick_keeps
    | with_reducible apply lendMb_keeps
    | with_reducible apply setPage_keeps
    | with_reducible apply tierCounts_keeps
    | with_reducible apply setReg_keeps
    | (simp only [keeps_mk]; with_reducible apply KeepsF.of)
    | with_reducible apply foldl_keeps
    | with_reducible apply OkM.done
    | with_reducible apply OkM.conflict
    | with_reducible apply OkM.denied
    | dsimp only
    | split
    | intro _)

theorem execTierLendClose_keeps (m : Mbx) {s : State} (h : Keeps b a s) :
    OkR (Keeps b a) (@execTierLendClose m s) := by
  unfold execTierLendClose
  repeat' (first
    | with_reducible assumption
    | with_reducible apply setPage_keeps
    | with_reducible apply lendMb_keeps
    | with_reducible apply changeWait_keeps
    | with_reducible apply tierCounts_keeps
    | with_reducible apply setReg_keeps
    | (simp only [keeps_mk]; with_reducible apply KeepsF.of)
    | with_reducible apply foldl_keeps
    | with_reducible apply OkM.conflict
    | dsimp only
    | split
    | intro _)

theorem execTierLendAccept_keeps (m : Mbx) {s : State} (h : Keeps b a s) :
    OkR (Keeps b a) (@execTierLendAccept m s) := by
  unfold execTierLendAccept
  repeat' (first
    | with_reducible assumption
    | with_reducible apply lendMb_keeps
    | with_reducible apply tierCounts_keeps
    | with_reducible apply setReg_keeps
    | with_reducible apply OkM.done
    | with_reducible apply OkM.conflict
    | split)

theorem execTierLendReturn_keeps (m : Mbx) {s : State} (h : Keeps b a s) :
    OkR (Keeps b a) (execTierLendReturn m s) := by
  have key : ∀ o : Host.Outcome State Fault Refusal, OkR (Keeps b a) o →
      OkR (Keeps b a) (match o with | .next u => .next u.settleReturns | r => r) := by
    intro o ho
    cases o with
    | next u => exact settleReturns_keeps ho
    | fault x => exact ho
    | refused x => exact ho
  unfold execTierLendReturn
  refine key _ (lendMb_keeps _ _ _ _ _ ?_ h)
  split
  · exact OkM.conflict
  refine OkM.wait ?_
  exact Keeps.upd (s := if _ then _ else _) (ite_keeps (tierCounts_keeps (put_keeps h _ _)) h) rfl rfl rfl rfl rfl rfl rfl rfl rfl

/-! ## Local -/

theorem localWrite_keeps {s : State} (c t x n v : Nat) (h : Keeps b a s) : Keeps b a (s.localWrite c t x n v) := by
  unfold State.localWrite
  apply foldl_keeps
  · intro s k h
    split
    · split
      · exact setThread_keeps _ _ _ h
      · exact h
    · exact h
  · exact ⟨h.pending, h.out, h.free,
      fun w => let w := h.wf w; ⟨w.hbm, w.store, w.scale, writeBytes_canon _ _ _ w.local_, w.regs⟩, h.ck⟩

theorem goTo_keeps {s : State} (c : Nat) (t : Nat) (pc : Nat) (h : Keeps b a s) :
    Keeps b a (@State.goTo s c t pc) := by
  unfold State.goTo
  repeat' (first | with_reducible assumption | with_reducible apply setThread_keeps)

theorem setGo_keeps {s : State} (c : Nat) (t : Nat) (rd : Nat) (v : Nat) (pc : Nat) (h : Keeps b a s) :
    Keeps b a (@State.setGo s c t rd v pc) := by
  unfold State.setGo
  repeat' (first | with_reducible assumption | with_reducible apply setThread_keeps)

theorem localDo_keeps {s : State} (c : Nat) (t : Nat) (step : Nat) (op : LocalOp) (h : Keeps b a s) :
    Keeps b a (@State.localDo s c t step op) := by
  unfold State.localDo
  repeat' (first
    | with_reducible assumption
    | with_reducible apply seqFault_keeps
    | with_reducible apply setGo_keeps
    | with_reducible apply goTo_keeps
    | with_reducible apply localWrite_keeps
    | with_reducible apply setThread_keeps
    | dsimp only
    | split)

/-! ## MbSeq -/

/-- The state that a read of an image leaves. -/
def OkI (P : State → Prop) : ImageRead → Prop
  | .ok _ s => P s
  | .fail _ s => P s
  | .wait s => P s

theorem OkI.ok {P : State → Prop} {x : List Byte} {t : State} (h : P t) : OkI P (.ok x t) := h
theorem OkI.fail {P : State → Prop} {x : Nat} {t : State} (h : P t) : OkI P (.fail x t) := h
theorem OkI.wait {P : State → Prop} {t : State} (h : P t) : OkI P (.wait t) := h
theorem Keeps.of_image_ok {o : ImageRead} {x : List Byte} {b : Bool} {a t : State} (e : o = .ok x t) (h : OkI (Keeps b a) o) :
    Keeps b a t := by subst e; exact h
theorem Keeps.of_image_fail {o : ImageRead} {x : Nat} {b : Bool} {a t : State} (e : o = .fail x t) (h : OkI (Keeps b a) o) :
    Keeps b a t := by subst e; exact h
theorem Keeps.of_image_wait {o : ImageRead} {b : Bool} {a t : State} (e : o = .wait t) (h : OkI (Keeps b a) o) :
    Keeps b a t := by subst e; exact h

theorem emptyCore_keeps {s : State} (c : Nat) (h : Keeps b a s) :
    Keeps b a (@State.emptyCore s c) := by
  unfold State.emptyCore
  repeat' (first
    | with_reducible assumption
    | with_reducible apply put_keeps
    | (simp only [keeps_mk]; with_reducible apply KeepsF.of))

theorem execSeqShareSet_keeps (m : Mbx) {s : State} (h : Keeps b a s) :
    OkR (Keeps b a) (@execSeqShareSet m s) := by
  unfold execSeqShareSet
  repeat' (first
    | with_reducible assumption
    | with_reducible apply setMask_keeps
    | with_reducible apply emptyCore_keeps
    | with_reducible apply mb_keeps
    | with_reducible apply spargeGuard_keeps
    | with_reducible apply put_keeps
    | with_reducible apply foldl_keeps
    | with_reducible apply OkM.done
    | with_reducible apply OkM.conflict
    | with_reducible apply OkM.denied
    | split
    | intro _)

theorem startCore_keeps {s : State} (n : Nat) (c : Nat) (h : Keeps b a s) :
    Keeps b a (@State.startCore s n c) := by
  unfold State.startCore
  repeat' (first
    | with_reducible assumption
    | with_reducible apply setTurn_keeps
    | with_reducible apply setThread_keeps
    | with_reducible apply put_keeps
    | with_reducible apply foldl_keeps
    | dsimp only
    | intro _)

theorem placeImage_keeps {s : State} (hd : List Word) (body : List Byte) (c : Nat) (h : Keeps b a s) :
    Keeps b a (s.placeImage hd body c) := by
  unfold State.placeImage
  refine put_keeps ?_ _ _
  exact ⟨h.pending, h.out, h.free,
    fun w => let w := h.wf w; ⟨w.hbm, w.store, w.scale, writeBytes_canon _ _ _ (writeBytes_canon _ _ _ w.local_), w.regs⟩,
    h.ck⟩

theorem imageFar_keeps {s : State} (m : Nat) (part : Nat) (addr : Word) (n : Nat) (h : Keeps b a s) :
    OkI (Keeps b a) (@State.imageFar s m part addr n) := by
  unfold State.imageFar
  repeat' (first
    | with_reducible assumption
    | with_reducible apply imageNext_keeps
    | (simp only [keeps_mk]; with_reducible apply KeepsF.of)
    | with_reducible apply OkI.ok
    | with_reducible apply OkI.fail
    | with_reducible apply OkI.wait
    | dsimp only
    | split)

theorem imageRead_keeps {s : State} (m : Nat) (part : Nat) (addr : Word) (n : Nat) (parity : Option WordFault) (h : Keeps b a s) :
    OkI (Keeps b a) (@State.imageRead s m part addr n parity) := by
  unfold State.imageRead
  repeat' (first
    | with_reducible assumption
    | with_reducible apply imageFar_keeps
    | with_reducible apply translate_keeps
    | with_reducible apply jobFault_keeps
    | with_reducible apply atsWait_keeps
    | with_reducible apply wordFault_keeps
    | with_reducible apply OkI.ok
    | with_reducible apply OkI.fail
    | with_reducible apply OkI.wait
    | dsimp only
    | split)

theorem imageWait_keeps {s : State} (m : Nat) (h : Keeps b a s) :
    OkO (fun x => Keeps b a x.2) (@State.imageWait s m) := by
  unfold State.imageWait
  repeat' (first
    | with_reducible assumption
    | with_reducible exact OkO.none
    | with_reducible apply OkO.some
    | (simp only [keeps_mk]; with_reducible apply KeepsF.of)
    | dsimp only
    | split)

theorem execSeqLoad_keeps (m : Mbx) (parity : Option WordFault) {s : State} (h : Keeps b a s) :
    OkR (Keeps b a) (@execSeqLoad m parity s) := by
  unfold execSeqLoad
  repeat' (first
    | with_reducible assumption
    | with_reducible apply emptyCore_keeps
    | with_reducible apply imageWait_keeps
    | with_reducible apply jobFault_keeps
    | with_reducible apply imageRead_keeps
    | with_reducible apply placeImage_keeps
    | with_reducible apply startCore_keeps
    | with_reducible apply mb_keeps
    | with_reducible apply spargeGuard_keeps
    | with_reducible apply bump_keeps
    | with_reducible apply foldl_keeps
    | with_reducible refine Keeps.of_some_pair (by assumption) ?_
    | with_reducible apply OkM.done
    | with_reducible apply OkM.ends
    | with_reducible apply OkM.again
    | with_reducible apply OkM.conflict
    | with_reducible apply OkM.denied
    | with_reducible refine Keeps.of_image_ok (by assumption) ?_
    | with_reducible refine Keeps.of_image_fail (by assumption) ?_
    | with_reducible refine Keeps.of_image_wait (by assumption) ?_
    | dsimp only
    | split
    | intro _)

theorem execSeqStart_keeps (m : Mbx) {s : State} (h : Keeps b a s) :
    OkR (Keeps b a) (@execSeqStart m s) := by
  unfold execSeqStart
  repeat' (first
    | with_reducible assumption
    | with_reducible apply mb_keeps
    | with_reducible apply spargeGuard_keeps
    | with_reducible apply startCore_keeps
    | with_reducible apply foldl_keeps
    | with_reducible apply OkM.done
    | with_reducible apply OkM.conflict
    | with_reducible apply OkM.denied
    | split
    | intro _)

theorem stopDone_keeps {s : State} (m : Nat) (h : Keeps b a s) :
    Keeps b a (@State.stopDone s m) := by
  unfold State.stopDone
  repeat' (first
    | with_reducible assumption
    | with_reducible apply mbComplete_keeps
    | (simp only [keeps_mk]; with_reducible apply KeepsF.of)
    | dsimp only
    | split)

theorem execSeqStop_keeps (m : Mbx) {s : State} (h : Keeps b a s) :
    OkR (Keeps b a) (@execSeqStop m s) := by
  unfold execSeqStop
  repeat' (first
    | with_reducible assumption
    | with_reducible apply mbRun_keeps
    | with_reducible apply spargeGuard_keeps
    | with_reducible apply haltThread_keeps
    | with_reducible apply stopDone_keeps
    | with_reducible apply put_keeps
    | (simp only [keeps_mk]; with_reducible apply KeepsF.of)
    | with_reducible apply foldl_keeps
    | with_reducible apply OkR.next
    | with_reducible apply OkM.wait
    | with_reducible apply OkM.conflict
    | with_reducible apply OkM.denied
    | dsimp only
    | split
    | intro _)

theorem portMb_keeps {s : State} (m : Nat) (opcode : Nat) (need : Nat) (valid : Bool) (r : MbRes) (hb : OkM (Keeps b a) r) (h : Keeps b a s) :
    OkR (Keeps b a) (@State.portMb s m opcode need valid r) := by
  unfold State.portMb
  repeat' (first | with_reducible assumption | with_reducible apply mb_keeps)

theorem execPortModeSet_keeps (m : Mbx) {s : State} (h : Keeps b a s) :
    OkR (Keeps b a) (@execPortModeSet m s) := by
  unfold execPortModeSet
  repeat' (first
    | with_reducible assumption
    | with_reducible apply portMb_keeps
    | with_reducible apply setMask_keeps
    | with_reducible apply OkM.done
    | with_reducible apply OkM.conflict
    | split)

theorem execPortEnable_keeps (m : Mbx) {s : State} (h : Keeps b a s) :
    OkR (Keeps b a) (@execPortEnable m s) := by
  unfold execPortEnable
  repeat' (first
    | with_reducible assumption
    | with_reducible apply portMb_keeps
    | with_reducible apply linkOut_keeps
    | with_reducible apply put_keeps
    | with_reducible apply OkM.done
    | with_reducible apply OkM.conflict
    | split)

theorem execPortDisable_keeps (m : Mbx) {s : State} (h : Keeps b a s) :
    OkR (Keeps b a) (@execPortDisable m s) := by
  unfold execPortDisable
  repeat' (first
    | with_reducible assumption
    | with_reducible apply sendTrain_keeps
    | with_reducible apply dropTo_keeps
    | with_reducible apply linkOut_keeps
    | with_reducible apply settlePeer_keeps
    | with_reducible apply portMb_keeps
    | with_reducible apply put_keeps
    | with_reducible apply OkM.done
    | with_reducible apply OkM.conflict
    | split)

theorem execPortRetrain_keeps (m : Mbx) {s : State} (h : Keeps b a s) :
    OkR (Keeps b a) (@execPortRetrain m s) := by
  unfold execPortRetrain
  repeat' (first
    | with_reducible assumption
    | with_reducible apply portMb_keeps
    | with_reducible apply dropLink_keeps
    | with_reducible apply sendTrain_keeps
    | with_reducible apply OkM.done
    | with_reducible apply OkM.conflict
    | split)

theorem ringUp_keeps {s : State} (n : Nat) (r : Nat) (x3 : Word) (c : Word) (q : Word) (h : Keeps b a s) :
    Keeps b a (@State.ringUp s n r x3 c q) := by
  unfold State.ringUp
  repeat' (first
    | with_reducible assumption
    | with_reducible apply ringFull_keeps
    | with_reducible apply setRing_keeps
    | with_reducible apply setReg_keeps)

theorem execRingSet_keeps (m : Mbx) (x1 : Reply) {s : State} (h : Keeps b a s) :
    OkR (Keeps b a) (@execRingSet m x1 s) := by
  unfold execRingSet
  repeat' (first
    | with_reducible assumption
    | with_reducible apply ringUp_keeps
    | with_reducible apply mb_keeps
    | with_reducible apply spargeGuard_keeps
    | with_reducible apply emit_keeps
    | with_reducible apply hbmWrite_keeps
    | with_reducible apply OkM.done
    | with_reducible apply OkM.fail
    | with_reducible apply OkM.conflict
    | with_reducible apply OkM.denied
    | dsimp only
    | split)

theorem execRingClear_keeps (m : Mbx) {s : State} (h : Keeps b a s) :
    OkR (Keeps b a) (@execRingClear m s) := by
  unfold execRingClear
  repeat' (first
    | with_reducible assumption
    | with_reducible apply mb_keeps
    | with_reducible apply spargeGuard_keeps
    | with_reducible apply ringFull_keeps
    | with_reducible apply setRing_keeps
    | with_reducible apply put_keeps
    | with_reducible apply OkM.done
    | with_reducible apply OkM.conflict
    | split)

end Sys2Proof.Machine
end

