-- ==== Sys2Proof/Laws/KeepsModule.lean ====
section
/-! SUPPORT. What the operations of the block leave alone, in the sense of `Keeps`, one lemma each: partitions, training, the governor, the Cask, resets, bring-up and the management interfaces. -/

namespace Sys2Proof.Machine

variable {b : Bool} {a : State}

/-! ## Clear -/

theorem dropBufs_keeps {s : State} (sel : Buf → Holder → Bool) (h : Keeps b a s) :
    Keeps b a (@State.dropBufs s sel) := by
  unfold State.dropBufs
  repeat' (first
    | with_reducible assumption
    | with_reducible apply poolGive_keeps
    | with_reducible apply foldl_keeps
    | intro _)

theorem dropChunks_keeps {s : State} (p : Nat → Bool) (h : Keeps b a s) :
    Keeps b a (@State.dropChunks s p) := by
  unfold State.dropChunks
  repeat' (first
    | with_reducible assumption
    | with_reducible apply setStaged_keeps
    | with_reducible apply rdxCounts_keeps
    | (simp only [keeps_mk]; with_reducible apply KeepsF.of)
    | with_reducible apply foldl_keeps)

theorem spargeChunks_keeps {s : State} (n : Nat) (h : Keeps b a s) :
    Keeps b a (@State.spargeChunks s n) := by
  unfold State.spargeChunks
  repeat' (first
    | with_reducible assumption
    | with_reducible apply bumpBy_keeps
    | with_reducible apply flag_keeps
    | dsimp only
    | split)

theorem dropStepsOf_keeps {s : State} (sel : Step → Bool) (h : Keeps b a s) :
    Keeps b a (@State.dropStepsOf s sel) := by
  unfold State.dropStepsOf
  repeat' (first
    | with_reducible assumption
    | with_reducible apply tunNext_keeps
    | with_reducible apply put_keeps
    | (simp only [keeps_mk]; with_reducible apply KeepsF.of)
    | dsimp only
    | split)

theorem dropSteps_keeps {s : State} (p : Nat → Bool) (h : Keeps b a s) :
    Keeps b a (@State.dropSteps s p) := by
  unfold State.dropSteps
  repeat' (first
    | with_reducible assumption
    | with_reducible apply dropStepsOf_keeps
    | with_reducible apply put_keeps
    | (simp only [keeps_mk]; with_reducible apply KeepsF.of)
    | dsimp only
    | split)

theorem dropDescs_keeps {s : State} (p : Nat → Bool) (h : Keeps b a s) :
    Keeps b a (@State.dropDescs s p) := by
  unfold State.dropDescs
  repeat' (first
    | with_reducible assumption
    | with_reducible apply setRing_keeps
    | with_reducible apply put_keeps
    | with_reducible apply foldl_keeps
    | dsimp only
    | intro _)

theorem dropCores_keeps {s : State} (p : Nat → Bool) (h : Keeps b a s) : Keeps b a (s.dropCores p) := by
  unfold State.dropCores
  refine foldl_keeps _ _ (fun s c h => emptyCore_keeps _ h) ?_
  exact ⟨h.pending, h.out, h.free,
    fun w => let w := h.wf w; ⟨w.hbm, w.store, w.scale, filter_canon _ _ _ w.local_, w.regs⟩, h.ck⟩

theorem endMoves_keeps {s : State} (p : Nat → Bool) (h : Keeps b a s) :
    Keeps b a (@State.endMoves s p) := by
  unfold State.endMoves
  repeat' (first
    | with_reducible assumption
    | with_reducible apply evictFailed_keeps
    | with_reducible apply abandonMove_keeps
    | with_reducible apply foldl_keeps
    | intro _)

theorem dropRequests_keeps {s : State} (p : Nat → Bool) (h : Keeps b a s) :
    Keeps b a (@State.dropRequests s p) := by
  unfold State.dropRequests
  repeat' (first
    | with_reducible assumption
    | with_reducible apply combCount_keeps
    | with_reducible apply dropGrant_keeps
    | with_reducible apply xqCounts_keeps
    | with_reducible apply put_keeps
    | (simp only [keeps_mk]; with_reducible apply KeepsF.of)
    | with_reducible apply foldl_keeps
    | intro _)

theorem dropBarriers_keeps {s : State} (p : Nat → Bool) (h : Keeps b a s) :
    Keeps b a (@State.dropBarriers s p) := by
  unfold State.dropBarriers
  repeat' (first | with_reducible assumption | (simp only [keeps_mk]; with_reducible apply KeepsF.of))

theorem dropWork_keeps {s : State} (p : Nat → Bool) (h : Keeps b a s) :
    Keeps b a (@State.dropWork s p) := by
  unfold State.dropWork
  repeat' (first
    | with_reducible assumption
    | with_reducible apply dropRequests_keeps
    | with_reducible apply endMoves_keeps
    | with_reducible apply dropCores_keeps
    | with_reducible apply dropChunks_keeps
    | with_reducible apply dropBarriers_keeps
    | with_reducible apply dropSteps_keeps
    | with_reducible apply dropDescs_keeps)

/-! ## Part -/

theorem execPartCreate_keeps (m : Mbx) {s : State} (h : Keeps b a s) :
    OkR (Keeps b a) (@execPartCreate m s) := by
  unfold execPartCreate
  repeat' (first
    | with_reducible assumption
    | with_reducible apply mb_keeps
    | with_reducible apply put_keeps
    | (simp only [keeps_mk]; with_reducible apply KeepsF.of)
    | with_reducible apply OkM.done
    | with_reducible apply OkM.conflict
    | with_reducible apply OkM.denied
    | dsimp only
    | split)

theorem execPartGet_keeps (m : Mbx) {s : State} (h : Keeps b a s) :
    OkR (Keeps b a) (@execPartGet m s) := by
  unfold execPartGet
  repeat' (first | with_reducible assumption | with_reducible apply mb_keeps | with_reducible apply OkM.done)

theorem endWaits_keeps {s : State} (n : Nat) (h : Keeps b a s) :
    Keeps b a (@State.endWaits s n) := by
  unfold State.endWaits
  repeat' (first
    | with_reducible assumption
    | with_reducible apply answer_keeps
    | with_reducible apply setLink_keeps
    | with_reducible apply sendAttach_keeps
    | (simp only [keeps_mk]; with_reducible apply KeepsF.of)
    | with_reducible apply foldl_keeps
    | dsimp only
    | split
    | intro _)

theorem spargeQuiet_keeps {s : State} (x : Sparge) (h : Keeps b a s) :
    Keeps b a (@State.spargeQuiet s x) := by
  unfold State.spargeQuiet
  repeat' (first
    | with_reducible assumption
    | with_reducible apply dropWork_keeps
    | with_reducible apply spargeChunks_keeps
    | with_reducible apply endWaits_keeps
    | with_reducible apply dropBufs_keeps
    | with_reducible apply poolServe_keeps
    | with_reducible apply recallPart_keeps
    | (simp only [keeps_mk]; with_reducible apply KeepsF.of))

theorem clearMbx_keeps {s : State} (m : Nat) (h : Keeps b a s) :
    Keeps b a (@State.clearMbx s m) := by
  unfold State.clearMbx
  repeat' (first
    | with_reducible assumption
    | with_reducible apply mbForget_keeps
    | with_reducible apply setReg_keeps
    | with_reducible apply foldl_keeps
    | intro _)

theorem freeRows_keeps {s : State} (n : Nat) (h : Keeps b a s) :
    Keeps b a (@State.freeRows s n) := by
  unfold State.freeRows
  repeat' (first
    | with_reducible assumption
    | with_reducible apply put_keeps
    | (simp only [keeps_mk]; with_reducible apply KeepsF.of)
    | with_reducible apply foldl_keeps
    | intro _)

theorem clearTun_keeps {s : State} (n : Nat) (h : Keeps b a s) : Keeps b a (s.clearTun n) := by
  unfold State.clearTun
  lift_lets
  intro f c t u out
  have ht : Keeps b a t := foldl_keeps _ _ (fun s c h => unbind_keeps _ _ h) h
  clear_value t
  have h : Keeps b a u := foldl_keeps _ _ (fun s c h => setReg_keeps (setReg_keeps h _ _) _ _) ht
  clear_value u
  exact ⟨h.pending, h.out, h.free,
    fun w => let w := h.wf w; ⟨w.hbm, filter_canon _ _ _ w.store, filter_canon _ _ _ w.scale, w.local_, w.regs⟩, h.ck⟩

theorem clearXlat_keeps {s : State} (n : Nat) (h : Keeps b a s) :
    Keeps b a (@State.clearXlat s n) := by
  unfold State.clearXlat
  repeat' (first
    | with_reducible assumption
    | with_reducible apply fqFull_keeps
    | with_reducible apply put_keeps
    | with_reducible apply wr_keeps
    | (simp only [keeps_mk]; with_reducible apply KeepsF.of))

theorem spargeHbm_keeps {s : State} (p : Nat × Byte → Bool) (h : Keeps b a s) : Keeps b a { s with hbm := s.hbm.filter p } :=
  ⟨h.pending, h.out, h.free,
    fun w => let w := h.wf w; ⟨filter_canon _ _ _ w.hbm, w.store, w.scale, w.local_, w.regs⟩, h.ck⟩

theorem spargeClear_keeps {s : State} (x : Sparge) (h : Keeps b a s) : Keeps b a (s.spargeClear x) := by
  unfold State.spargeClear
  apply clearMbx_keeps
  refine Keeps.upd (s := if x.hbm then _ else _) (ite_keeps (spargeHbm_keeps _ ?_) ?_) rfl rfl rfl rfl rfl rfl rfl rfl rfl
  all_goals
    apply foldl_keeps
    · intro s r h
      exact ringFull_keeps _ _ (setRing_keeps _ _ _ (put_keeps h _ _))
    · apply dropDescs_keeps
      apply dropCores_keeps
      apply foldl_keeps
      · intro s e h
        exact freeExt_keeps _ _ h
      · apply endMoves_keeps
        apply clearTun_keeps
        apply freeRows_keeps
        refine Keeps.upd (dropRequests_keeps (fun k => k == x.part) (clearXlat_keeps x.part h)) rfl rfl rfl rfl rfl rfl rfl rfl rfl

theorem zeroShares_keeps {s : State} (n : Nat) (h : Keeps b a s) :
    Keeps b a (@State.zeroShares s n) := by
  unfold State.zeroShares
  repeat' (first
    | with_reducible assumption
    | with_reducible apply emptyCore_keeps
    | with_reducible apply tierCounts_keeps
    | with_reducible apply put_keeps
    | with_reducible apply setReg_keeps
    | with_reducible apply foldl_keeps
    | intro _)

theorem execPartDestroy_keeps (m : Mbx) {s : State} (h : Keeps b a s) :
    OkR (Keeps b a) (@execPartDestroy m s) := by
  unfold execPartDestroy
  repeat' (first
    | with_reducible assumption
    | with_reducible apply mb_keeps
    | with_reducible apply zeroShares_keeps
    | with_reducible apply put_keeps
    | with_reducible apply OkM.done
    | with_reducible apply OkM.conflict
    | with_reducible apply OkM.denied
    | split)

/-! ## Firmware -/

theorem execFwStage_keeps (m : Mbx) (host : Reply) {s : State} (h : Keeps b a s) :
    OkR (Keeps b a) (@execFwStage m host s) := by
  unfold execFwStage
  repeat' (first
    | with_reducible assumption
    | with_reducible apply mb_keeps
    | with_reducible apply bulkFault_keeps
    | with_reducible apply put_keeps
    | (simp only [keeps_mk]; with_reducible apply KeepsF.of)
    | with_reducible apply OkM.done
    | with_reducible apply OkM.ends
    | with_reducible apply OkM.conflict
    | dsimp only
    | split)

theorem execAttestGet_keeps (m : Mbx) {s : State} (h : Keeps b a s) :
    OkR (Keeps b a) (@execAttestGet m s) := by
  unfold execAttestGet
  repeat' (first | with_reducible assumption | with_reducible apply mb_keeps | with_reducible apply OkM.done)

theorem calApply_keeps {s : State} (o : Nat) (n : Nat) (h : Keeps b a s) :
    Keeps b a (@State.calApply s o n) := by
  unfold State.calApply
  repeat' (first | with_reducible assumption | (simp only [keeps_mk]; with_reducible apply KeepsF.of))

theorem execCalRead_keeps (m : Mbx) {s : State} (h : Keeps b a s) :
    OkR (Keeps b a) (@execCalRead m s) := by
  unfold execCalRead
  repeat' (first
    | with_reducible assumption
    | with_reducible apply mb_keeps
    | with_reducible apply bulkWrite_keeps
    | with_reducible refine Keeps.of_pair (by assumption) ?_
    | with_reducible apply OkM.done
    | with_reducible apply OkM.ends
    | with_reducible apply OkM.denied
    | split)

theorem calProgram_keeps {s : State} (k : Nat) (bs : List Byte) (h : Keeps b a s) :
    Keeps b a (@State.calProgram s k bs) := by
  unfold State.calProgram
  repeat' (first | with_reducible assumption | (simp only [keeps_mk]; with_reducible apply KeepsF.of))

theorem calHead_keeps {s : State} (h : Keeps b a s) :
    Keeps b a (@State.calHead s) := by
  unfold State.calHead
  repeat' (first
    | with_reducible assumption
    | with_reducible apply put_keeps
    | with_reducible apply wr_keeps
    | split)

theorem execCaskReadout_keeps (m : Mbx) {s : State} (h : Keeps b a s) :
    OkR (Keeps b a) (@execCaskReadout m s) := by
  unfold execCaskReadout
  repeat' (first
    | with_reducible assumption
    | with_reducible apply mb_keeps
    | with_reducible apply OkM.done
    | with_reducible apply OkM.conflict
    | dsimp only
    | split)

/-! ## LinkRx -/

theorem rxPut_keeps {s : State} (p : Nat) (i : RxItem) (h : Keeps b a s) :
    Keeps b a (@State.rxPut s p i) := by
  unfold State.rxPut
  repeat' (first | with_reducible assumption | (simp only [keeps_mk]; with_reducible apply KeepsF.of))

theorem rxSettle_keeps {s : State} (p : Nat) (stomp : Bool) (h : Keeps b a s) :
    Keeps b a (@State.rxSettle s p stomp) := by
  unfold State.rxSettle
  repeat' (first
    | with_reducible assumption
    | with_reducible apply setLink_keeps
    | with_reducible apply cutEnd_keeps
    | with_reducible apply owe_keeps
    | with_reducible apply rxPut_keeps
    | with_reducible apply unjudge_keeps
    | with_reducible apply xqCounts_keeps
    | dsimp only
    | split)

theorem rxFlit_keeps {s : State} (p : Nat) (f : Flit) (h : Keeps b a s) :
    Keeps b a (@State.rxFlit s p f) := by
  unfold State.rxFlit
  repeat' (first
    | with_reducible assumption
    | with_reducible apply setLink_keeps
    | with_reducible apply rxPut_keeps
    | with_reducible apply rxSettle_keeps
    | dsimp only
    | split)

theorem stomped_keeps {s : State} (p : Nat) (h : Keeps b a s) :
    Keeps b a (@State.stomped s p) := by
  unfold State.stomped
  repeat' (first
    | with_reducible assumption
    | with_reducible apply bump_keeps
    | with_reducible apply flag_keeps)

theorem rxIdle_keeps (p n : Nat) (fs : List Flit) {s : State} (h : Keeps b a s) : Keeps b a (rxIdle p n fs s) := by
  induction fs generalizing n s with
  | nil =>
    unfold rxIdle
    cases n <;> exact h
  | cons f r ih =>
    cases n with
    | zero =>
      unfold rxIdle
      apply ih
      apply ite_keeps h
      split
      · exact rxPut_keeps _ _ h
      · exact stomped_keeps _ h
      · exact h
    | succ n =>
      unfold rxIdle
      exact ih n h

theorem sendWaiting_keeps (p : Nat) (x1 : Nat) {x2 : State} (h : Keeps b a x2) :
    Keeps b a (@sendWaiting p x1 x2) := by
  revert h
  fun_induction sendWaiting p x1 x2 <;> intro h
  all_goals repeat' (first
    | with_reducible assumption
    | with_reducible apply sendBlock_keeps
    | with_reducible apply setLink_keeps
    | with_reducible apply_assumption)

theorem linkGo_keeps {s : State} (p : Nat) (h : Keeps b a s) :
    Keeps b a (@State.linkGo s p) := by
  unfold State.linkGo
  repeat' (first
    | with_reducible assumption
    | with_reducible apply sendWaiting_keeps
    | with_reducible apply drain_keeps
    | with_reducible apply drainAttach_keeps)

theorem ackSlot_keeps {s : State} (p : Nat) (n : Nat) (h : Keeps b a s) :
    Keeps b a (@State.ackSlot s p n) := by
  unfold State.ackSlot
  repeat' (first
    | with_reducible assumption
    | with_reducible apply linkGo_keeps
    | with_reducible apply setLink_keeps
    | dsimp only
    | split)

theorem nakSlot_keeps {s : State} (p : Nat) (n : Nat) (h : Keeps b a s) :
    Keeps b a (@State.nakSlot s p n) := by
  unfold State.nakSlot
  repeat' (first
    | with_reducible assumption
    | with_reducible apply dropLink_keeps
    | with_reducible apply setLink_keeps
    | dsimp only
    | split)

theorem ctlSlot_keeps {s : State} (p : Nat) (slot : Nat) (h : Keeps b a s) :
    Keeps b a (@State.ctlSlot s p slot) := by
  unfold State.ctlSlot
  repeat' (first
    | with_reducible assumption
    | with_reducible apply ackSlot_keeps
    | with_reducible apply nakSlot_keeps
    | with_reducible apply drain_keeps
    | with_reducible apply gainCredits_keeps
    | with_reducible apply setLink_keeps
    | with_reducible apply drainAttach_keeps
    | dsimp only
    | split)

theorem fecCount_keeps {s : State} (p : Nat) (d : Option (Nat × Nat)) (h : Keeps b a s) :
    Keeps b a (@State.fecCount s p d) := by
  unfold State.fecCount
  repeat' (first | with_reducible assumption | with_reducible apply bump_keeps | split)

theorem evalCount_keeps {s : State} (p : Nat) (lane : Nat) (d : Option (Nat × Nat)) (h : Keeps b a s) :
    Keeps b a (@State.evalCount s p lane d) := by
  unfold State.evalCount
  repeat' (first | with_reducible assumption | with_reducible apply setLink_keeps | dsimp only | split)

theorem takeBlock_keeps {s : State} (p : Nat) (d : Option (Nat × Nat)) (h : Keeps b a s) :
    Keeps b a (@State.takeBlock s p d) := by
  unfold State.takeBlock
  repeat' (first
    | with_reducible assumption
    | with_reducible apply setLink_keeps
    | with_reducible apply rxFlit_keeps
    | with_reducible apply ctlSlot_keeps
    | with_reducible apply flushLink_keeps
    | with_reducible apply foldl_keeps
    | dsimp only
    | split
    | intro _)

/-! ## Train -/

theorem takeTrain_keeps {s : State} (p : Nat) (m : Nat) (h : Keeps b a s) :
    OkO (fun x => Keeps b a x.2) (@State.takeTrain s p m) := by
  unfold State.takeTrain
  repeat' (first
    | with_reducible assumption
    | with_reducible exact OkO.none
    | with_reducible apply OkO.some
    | with_reducible apply takeRx_keeps
    | with_reducible refine Keeps.of_some_pair (by assumption) ?_
    | split)

theorem onTrain_keeps {s : State} (p : Port) (m : Nat) (f : Flit → Link → State → State) (hf : ∀ (y0 : Flit) (y1 : Link) (y2 : State), Keeps b a y2 → Keeps b a (f y0 y1 y2)) (h : Keeps b a s) :
    OkR (Keeps b a) (@State.onTrain s p m f) := by
  unfold State.onTrain
  repeat' (first
    | with_reducible assumption
    | with_reducible apply hf
    | with_reducible apply takeTrain_keeps
    | with_reducible refine Keeps.of_some_pair (by assumption) ?_
    | with_reducible apply OkR.next
    | split)

theorem say_keeps {s : State} (p : Nat) (msg : Nat) (k : Nat) (arg : Nat) (b1 : Word) (b2 : Word) (h : Keeps b a s) :
    Keeps b a (@State.say s p msg k arg b1 b2) := by
  unfold State.say
  repeat' (first | with_reducible assumption | with_reducible apply sendTrain_keeps)

theorem sendHello_keeps {s : State} (p : Nat) (h : Keeps b a s) :
    Keeps b a (@State.sendHello s p) := by
  unfold State.sendHello
  repeat' (first
    | with_reducible assumption
    | with_reducible apply say_keeps
    | with_reducible apply setLink_keeps
    | dsimp only
    | split)

theorem settle_keeps {s : State} (p : Nat) (h : Keeps b a s) :
    Keeps b a (@State.settle s p) := by
  unfold State.settle
  repeat' (first
    | with_reducible assumption
    | with_reducible apply dropLink_keeps
    | with_reducible apply say_keeps
    | with_reducible apply setLink_keeps
    | dsimp only
    | split)

theorem activate_keeps {s : State} (p : Nat) (h : Keeps b a s) :
    Keeps b a (@State.activate s p) := by
  unfold State.activate
  repeat' (first
    | with_reducible assumption
    | with_reducible apply dropLink_keeps
    | with_reducible apply flushLink_keeps
    | with_reducible apply setLink_keeps
    | with_reducible apply portUp_keeps
    | with_reducible apply put_keeps
    | dsimp only
    | split)

theorem nextStep_keeps {s : State} (p : Nat) (h : Keeps b a s) :
    Keeps b a (@State.nextStep s p) := by
  unfold State.nextStep
  repeat' (first
    | with_reducible assumption
    | with_reducible apply settle_keeps
    | with_reducible apply setLink_keeps
    | with_reducible apply say_keeps
    | dsimp only
    | split)

theorem evalDone_keeps {s : State} (p : Nat) (h : Keeps b a s) :
    Keeps b a (@State.evalDone s p) := by
  unfold State.evalDone
  repeat' (first | with_reducible assumption | with_reducible apply nextStep_keeps | dsimp only | split)

theorem presetTaps_keeps {s : State} (p : Nat) (lanes : Nat) (h : Keeps b a s) :
    Keeps b a (@State.presetTaps s p lanes) := by
  unfold State.presetTaps
  repeat' (first
    | with_reducible assumption
    | with_reducible apply take_keeps
    | with_reducible apply wr_keeps
    | with_reducible apply foldl_keeps
    | dsimp only
    | intro _)

theorem askTap_keeps {s : State} (p : Nat) (lane : Nat) (h : Keeps b a s) :
    Keeps b a (@State.askTap s p lane) := by
  unfold State.askTap
  repeat' (first
    | with_reducible assumption
    | with_reducible apply sendTrain_keeps
    | with_reducible apply take_keeps
    | dsimp only
    | split)

theorem peerDown_keeps {s : State} (p : Nat) (m : Nat) (h : Keeps b a s) :
    OkR (Keeps b a) (@State.peerDown s p m) := by
  unfold State.peerDown
  repeat' (first
    | with_reducible assumption
    | with_reducible apply takeTrain_keeps
    | with_reducible apply dropLink_keeps
    | with_reducible apply linkEvent_keeps
    | with_reducible refine Keeps.of_some_pair (by assumption) ?_
    | with_reducible apply OkR.next
    | split)

/-! ## Govern -/

theorem rise_keeps {s : State} (slope : Nat) (h : Keeps b a s) :
    Keeps b a (@State.rise s slope).2 := by
  unfold State.rise
  repeat' (first | with_reducible assumption | with_reducible apply take_keeps)

theorem setEnv_keeps {s : State} (e : Nat) (h : Keeps b a s) :
    Keeps b a (@State.setEnv s e) := by
  unfold State.setEnv
  repeat' (first
    | with_reducible assumption
    | with_reducible apply put_keeps
    | (simp only [keeps_mk]; with_reducible apply KeepsF.of))

theorem nextEnv_keeps {s : State} (x1 : Nat) (d : Nat) (w : Int) (h : Keeps b a s) :
    Keeps b a (@State.nextEnv s x1 d w).2 := by
  unfold State.nextEnv
  repeat' (first | with_reducible assumption | with_reducible apply rise_keeps | dsimp only | split)

theorem capLag_keeps {s : State} (h : Keeps b a s) :
    Keeps b a (@State.capLag s) := by
  unfold State.capLag
  repeat' (first
    | with_reducible assumption
    | with_reducible apply bump_keeps
    | with_reducible apply flag_keeps
    | with_reducible apply put_keeps
    | dsimp only
    | split)

theorem setCap_keeps {s : State} (w : Nat) (h : Keeps b a s) :
    Keeps b a (@State.setCap s w) := by
  unfold State.setCap
  repeat' (first
    | with_reducible assumption
    | with_reducible apply capLag_keeps
    | with_reducible apply put_keeps
    | (simp only [keeps_mk]; with_reducible apply KeepsF.of)
    | dsimp only
    | split)

theorem setBallast_keeps {s : State} (w : Int) (h : Keeps b a s) :
    Keeps b a (@State.setBallast s w) := by
  unfold State.setBallast
  repeat' (first
    | with_reducible assumption
    | with_reducible apply bump_keeps
    | with_reducible apply flag_keeps
    | with_reducible apply put_keeps
    | (simp only [keeps_mk]; with_reducible apply KeepsF.of)
    | dsimp only
    | split)

theorem dropRamp_keeps {s : State} (h : Keeps b a s) :
    Keeps b a (@State.dropRamp s) := by
  unfold State.dropRamp
  repeat' (first
    | with_reducible assumption
    | with_reducible apply put_keeps
    | (simp only [keeps_mk]; with_reducible apply KeepsF.of))

theorem rampDone_keeps {s : State} (h : Keeps b a s) :
    Keeps b a (@State.rampDone s) := by
  unfold State.rampDone
  repeat' (first
    | with_reducible assumption
    | with_reducible apply sendCtl_keeps
    | with_reducible apply dropRamp_keeps
    | split)

theorem askRamp_keeps {s : State} (h : Keeps b a s) :
    Keeps b a (@State.askRamp s) := by
  unfold State.askRamp
  repeat' (first
    | with_reducible assumption
    | with_reducible apply newReq_keeps
    | with_reducible apply sendCtl_keeps
    | (simp only [keeps_mk]; with_reducible apply KeepsF.of)
    | dsimp only
    | split)

theorem showRamp_keeps {s : State} (h : Keeps b a s) :
    Keeps b a (@State.showRamp s) := by
  unfold State.showRamp
  repeat' (first
    | with_reducible assumption
    | with_reducible apply put_keeps
    | with_reducible apply wr_keeps
    | split)

theorem arbAge_keeps {s : State} (h : Keeps b a s) :
    Keeps b a (@State.arbAge s) := by
  unfold State.arbAge
  repeat' (first
    | with_reducible assumption
    | with_reducible apply wr_keeps
    | (simp only [keeps_mk]; with_reducible apply KeepsF.of))

theorem govShape_keeps {s : State} (e d : Nat) (w : Int) (h : Keeps b a s) : Keeps b a (s.govShape e d w) := by
  unfold State.govShape
  apply arbAge_keeps
  apply askRamp_keeps
  have h3 := setEnv_keeps e (Keeps.upd (t := { s with pg := { s.pg with fresh := false } }) h rfl rfl rfl rfl rfl rfl rfl
    rfl rfl)
  generalize State.setEnv _ e = s3 at h3 ⊢
  have h4 : Keeps b a ((s3.put PGOV_STATUS_THROTTLE (s3.nextThrottle d)).setBallast w) :=
    setBallast_keeps _ (put_keeps h3 _ _)
  generalize State.setBallast _ w = s4 at h4 ⊢
  have h5 := showRamp_keeps (capLag_keeps h4)
  generalize State.showRamp _ = s5 at h5 ⊢
  split
  · exact ite_keeps (rampDone_keeps h5) h5
  · exact h5

theorem govEdge_keeps {s : State} (x1 : Nat) (mw : Nat) (h : Keeps b a s) :
    Keeps b a (@State.govEdge s x1 mw) := by
  unfold State.govEdge
  repeat' (first
    | with_reducible assumption
    | with_reducible apply nextEnv_keeps
    | with_reducible apply govShape_keeps
    | with_reducible apply put_keeps)

theorem takeCtl_keeps {s : State} (type : Nat) (f : List Word → State → State)
    (hf : ∀ (w : List Word) (s : State), Keeps b a s → Keeps b a (f w s)) (h : Keeps b a s) :
    OkR (Keeps b a) (s.takeCtl type f) := by
  unfold State.takeCtl
  split
  · split
    · refine hf _ _ (bump_keeps ?_ _)
      exact h.upd rfl rfl rfl rfl rfl rfl rfl rfl rfl
    · exact h
  · exact h

theorem execPgovSet_keeps (m : Mbx) {s : State} (h : Keeps b a s) :
    OkR (Keeps b a) (@execPgovSet m s) := by
  unfold execPgovSet
  repeat' (first
    | with_reducible assumption
    | with_reducible apply setMask_keeps
    | with_reducible apply mb_keeps
    | with_reducible apply arbView_keeps
    | with_reducible apply setReg_keeps
    | with_reducible apply foldl_keeps
    | with_reducible apply OkM.done
    | intro _)

theorem execPgovCapSet_keeps (m : Mbx) {s : State} (h : Keeps b a s) :
    OkR (Keeps b a) (@execPgovCapSet m s) := by
  unfold execPgovCapSet
  repeat' (first
    | with_reducible assumption
    | with_reducible apply mb_keeps
    | with_reducible apply setCap_keeps
    | with_reducible apply OkM.done)

theorem execHealthBudgetSet_keeps (m : Mbx) {s : State} (h : Keeps b a s) :
    OkR (Keeps b a) (@execHealthBudgetSet m s) := by
  unfold execHealthBudgetSet
  repeat' (first
    | with_reducible assumption
    | with_reducible apply setMask_keeps
    | with_reducible apply showScore_keeps
    | with_reducible apply mb_keeps
    | with_reducible apply foldl_keeps
    | with_reducible apply OkM.done
    | intro _)

theorem healthMb_keeps {s : State} (m : Nat) (opcode : Nat) (r : MbRes) (hb : OkM (Keeps b a) r) (h : Keeps b a s) :
    OkR (Keeps b a) (@State.healthMb s m opcode r) := by
  unfold State.healthMb
  repeat' (first | with_reducible assumption | with_reducible apply mb_keeps)

theorem execHealthIsolate_keeps (m : Mbx) {s : State} (h : Keeps b a s) :
    OkR (Keeps b a) (@execHealthIsolate m s) := by
  unfold execHealthIsolate
  repeat' (first
    | with_reducible assumption
    | with_reducible apply healthMb_keeps
    | with_reducible apply fencePeer_keeps
    | with_reducible apply isolate_keeps
    | with_reducible apply bump_keeps
    | with_reducible apply OkM.done
    | with_reducible apply OkM.conflict
    | split)

theorem execHealthReadmit_keeps (m : Mbx) {s : State} (h : Keeps b a s) :
    OkR (Keeps b a) (@execHealthReadmit m s) := by
  unfold execHealthReadmit
  repeat' (first
    | with_reducible assumption
    | with_reducible apply healthMb_keeps
    | with_reducible apply readmit_keeps
    | with_reducible apply clearGravity_keeps
    | with_reducible apply put_keeps
    | with_reducible apply OkM.done
    | with_reducible apply OkM.conflict
    | split)

/-! ## Cask -/

theorem setCask_keeps {s : State} (c : CaskU) (h : Keeps false a s) : Keeps false a (s.setCask c) :=
  ⟨h.pending, h.out, h.free, fun w => let w := h.wf w; ⟨w.hbm, w.store, w.scale, w.local_, w.regs⟩, fun e => by cases e⟩

theorem caskEvent_keeps {s : State} (f : CaskU → CaskU) (h : Keeps false a s) :
    OkR (Keeps false a) (@State.caskEvent s f) := by
  unfold State.caskEvent
  repeat' (first
    | with_reducible assumption
    | with_reducible apply setCask_keeps
    | with_reducible apply OkR.next
    | split)

theorem mean_keeps {s : State} (unit : Nat) (l : List Int) (h : Keeps b a s) :
    Keeps b a (@State.mean s unit l).2 := by
  unfold State.mean
  repeat' (first | with_reducible assumption | with_reducible apply take_keeps | dsimp only | split)

theorem caskMeans_keeps {s : State} (l : List Sample) (h : Keeps b a s) :
    Keeps b a (@State.caskMeans s l).2.2 := by
  unfold State.caskMeans
  repeat' (first | with_reducible assumption | with_reducible apply mean_keeps)

theorem caskSend_keeps {s : State} (f : CaskFrame) (h : Keeps b a s) :
    Keeps b a (@State.caskSend s f) := by
  unfold State.caskSend
  repeat' (first | with_reducible assumption | with_reducible apply emit_keeps)

theorem caskGap_keeps {s : State} (h : Keeps false a s) :
    Keeps false a (@State.caskGap s) := by
  unfold State.caskGap
  repeat' (first
    | with_reducible assumption
    | with_reducible apply setCask_keeps
    | with_reducible apply caskSend_keeps
    | dsimp only
    | split)

theorem caskAnswer_keeps {s : State} (bs : List Byte) (h : Keeps b a s) :
    OkR (Keeps b a) (@State.caskAnswer s bs) := by
  unfold State.caskAnswer
  repeat' (first
    | with_reducible assumption
    | with_reducible apply emit_keeps
    | with_reducible apply OkR.next
    | split)

theorem takeWords_keeps (x0 : Nat) {x1 : State} (h : Keeps b a x1) :
    Keeps b a (@State.takeWords x0 x1).2 := by
  revert h
  fun_induction State.takeWords x0 x1 <;> intro h
  all_goals repeat' (first
    | with_reducible assumption
    | with_reducible apply take_keeps
    | with_reducible apply_assumption
    | with_reducible refine Keeps.of_pair (by assumption) ?_)

theorem caskWrite_keeps {s : State} (f : CaskU → CaskU) (h : Keeps false a s) :
    OkR (Keeps false a) (@State.caskWrite s f) := by
  unfold State.caskWrite
  repeat' (first
    | with_reducible assumption
    | with_reducible apply setCask_keeps
    | with_reducible apply emit_keeps
    | with_reducible apply OkR.next
    | split)

theorem shadow_keeps {s : State} (f : CaskFrame) (h : Keeps b a s) :
    Keeps b a (@State.shadow s f) := by
  unfold State.shadow
  repeat' (first
    | with_reducible assumption
    | with_reducible apply put_keeps
    | with_reducible apply setReg_keeps
    | (simp only [keeps_mk]; with_reducible apply KeepsF.of)
    | with_reducible apply foldl_keeps
    | dsimp only
    | split
    | intro _)

/-! ## Reset -/

theorem maskRegs_keeps {s : State} (keep : RegInfo → Nat) (h : Keeps b a s) : Keeps b a (s.maskRegs keep) := by
  refine ⟨h.pending, h.out, h.free, fun w => ?_, h.ck⟩
  have w := h.wf w
  refine ⟨w.hbm, w.store, w.scale, w.local_, ?_⟩
  have w0 := w.regs
  simp only [State.maskRegs]
  refine ⟨(mcanon_iff _ _).2 ⟨?_, ?_⟩, ?_⟩
  · refine List.Pairwise.sublist (List.Sublist.map _ List.filter_sublist) ?_
    rw [List.map_map]
    exact ((mcanon_iff _ _).1 w0.1).1
  · intro e he
    have := (List.mem_filter.1 he).2
    intro hn
    simp [hn] at this
  · intro e he
    obtain ⟨e', he', rfl⟩ := List.mem_map.1 (List.mem_filter.1 he).1
    refine ⟨?_, ?_⟩
    · rw [mrising_iff]
      refine List.Pairwise.sublist (List.Sublist.map _ List.filter_sublist) ?_
      rw [List.map_map]
      exact (mrising_iff _).1 (w0.2 e' he').1
    · intro x hx
      have := (List.mem_filter.1 hx).2
      simpa using this

theorem holdCommands_keeps {s : State} (h : Keeps b a s) :
    Keeps b a (@State.holdCommands s) := by
  unfold State.holdCommands
  repeat' (first | with_reducible assumption | (simp only [keeps_mk]; with_reducible apply KeepsF.of))

theorem domainReset_keeps {s : State} (h : Keeps b a s) :
    Keeps b a (@State.domainReset s) := by
  unfold State.domainReset
  repeat' (first
    | with_reducible assumption
    | with_reducible apply sendAttach_keeps
    | with_reducible apply setLink_keeps
    | with_reducible apply emit_keeps
    | (simp only [keeps_mk]; with_reducible apply KeepsF.of)
    | with_reducible apply foldl_keeps
    | split
    | intro _)

theorem resetPools_keeps {s : State} (h : Keeps b a s) :
    Keeps b a (@State.resetPools s) := by
  unfold State.resetPools
  repeat' (first
    | with_reducible assumption
    | with_reducible apply dropBufs_keeps
    | with_reducible apply setBufs_keeps
    | with_reducible apply poolServe_keeps
    | (simp only [keeps_mk]; with_reducible apply KeepsF.of))

theorem endIkio_keeps {s : State} (h : Keeps b a s) :
    Keeps b a (@State.endIkio s) := by
  unfold State.endIkio
  repeat' (first
    | with_reducible assumption
    | with_reducible apply sayEnd_keeps
    | (simp only [keeps_mk]; with_reducible apply KeepsF.of)
    | dsimp only
    | split)

theorem endInternal_keeps {s : State} (h : Keeps b a s) :
    Keeps b a (@State.endInternal s) := by
  unfold State.endInternal
  repeat' (first
    | with_reducible assumption
    | with_reducible apply unstore_keeps
    | with_reducible apply xqCounts_keeps
    | with_reducible apply swAck_keeps
    | with_reducible apply bump_keeps
    | with_reducible apply foldl_keeps
    | split
    | intro _)

theorem clearCore_keeps {s : State} (h : Keeps b a s) :
    Keeps b a (@State.clearCore s) := by
  unfold State.clearCore
  repeat' (first
    | with_reducible assumption
    | with_reducible apply dropCores_keeps
    | with_reducible apply dropChunks_keeps
    | with_reducible apply dropBarriers_keeps
    | with_reducible apply dropSteps_keeps
    | with_reducible apply dropDescs_keeps
    | with_reducible apply dropMoves_keeps
    | with_reducible apply endInternal_keeps
    | with_reducible apply combCount_keeps
    | (simp only [keeps_mk]; with_reducible apply KeepsF.of)
    | with_reducible apply foldl_keeps
    | intro _)

theorem startBringup_keeps {s : State} (h : Keeps b a s) :
    Keeps b a (@State.startBringup s) := by
  unfold State.startBringup
  repeat' (first | with_reducible assumption | (simp only [keeps_mk]; with_reducible apply KeepsF.of))

theorem showPin_keeps {s : State} (p : OutPin) (h : Keeps b a s) :
    Keeps b a (@State.showPin s p) := by
  unfold State.showPin
  repeat' (first | with_reducible assumption | with_reducible apply emit_keeps)

theorem cutFlash_keeps {s : State} (h : Keeps b a s) :
    Keeps b a (@State.cutFlash s) := by
  unfold State.cutFlash
  repeat' (first
    | with_reducible assumption
    | with_reducible apply calProgram_keeps
    | with_reducible apply take_keeps
    | (simp only [keeps_mk]; with_reducible apply KeepsF.of)
    | dsimp only
    | split)

theorem keepFuses_keeps {s : State} (old : Word) (h : Keeps b a s) :
    Keeps b a (@State.keepFuses s old) := by
  unfold State.keepFuses
  repeat' (first | with_reducible assumption | with_reducible apply put_keeps)

theorem afterClear_keeps {s : State} (h : Keeps b a s) :
    Keeps b a (@State.afterClear s) := by
  unfold State.afterClear
  repeat' (first
    | with_reducible assumption
    | with_reducible apply put_keeps
    | with_reducible apply wr_keeps
    | with_reducible apply foldl_keeps
    | intro _)

theorem powerOff_keeps {s : State} (off trip aux : Bool) (h : Keeps b a s) : Keeps b a (s.powerOff off trip aux) := by
  unfold State.powerOff
  have h := cutFlash_keeps h
  generalize s.cutFlash = s at h
  apply foldl_keeps
  · intro s n h
    exact showPin_keeps _ h
  · apply put_keeps
    apply keepFuses_keeps
    refine ⟨h.pending, h.out, h.free, fun _ => ⟨rfl, rfl, rfl, rfl, ⟨rfl, ?_⟩⟩, h.ck⟩
    intro e he
    cases he

/-! ## Boot -/

theorem setPhase_keeps {s : State} (k : Nat) (h : Keeps b a s) :
    Keeps b a (@State.setPhase s k) := by
  unfold State.setPhase
  repeat' (first | with_reducible assumption | with_reducible apply put_keeps)

theorem haltBoot_keeps {s : State} (cause : Nat) (h : Keeps b a s) :
    Keeps b a (@State.haltBoot s cause) := by
  unfold State.haltBoot
  repeat' (first
    | with_reducible assumption
    | with_reducible apply flag_keeps
    | with_reducible apply put_keeps)

theorem bootImage_keeps {s : State} (source : Nat) (bs : List Byte) (h : Keeps b a s) :
    Keeps b a (@State.bootImage s source bs) := by
  unfold State.bootImage
  repeat' (first
    | with_reducible assumption
    | with_reducible apply setPhase_keeps
    | with_reducible apply put_keeps
    | with_reducible apply setReg_keeps
    | (simp only [keeps_mk]; with_reducible apply KeepsF.of))

theorem trySource_keeps {s : State} (k : Nat) (h : Keeps b a s) :
    Keeps b a (@State.trySource s k) := by
  unfold State.trySource
  repeat' (first
    | with_reducible assumption
    | with_reducible apply bootDrop_keeps
    | with_reducible apply setPhase_keeps
    | with_reducible apply put_keeps
    | (simp only [keeps_mk]; with_reducible apply KeepsF.of))

theorem nextSource_keeps {s : State} (h : Keeps b a s) :
    Keeps b a (@State.nextSource s) := by
  unfold State.nextSource
  repeat' (first | with_reducible assumption | with_reducible apply trySource_keeps | split)

theorem imageCame_keeps {s : State} (bytes : List Byte) (sound : Bool) (h : Keeps b a s) :
    Keeps b a (@State.imageCame s bytes sound) := by
  unfold State.imageCame
  repeat' (first
    | with_reducible assumption
    | with_reducible apply bootImage_keeps
    | with_reducible apply bootDrop_keeps
    | with_reducible apply nextSource_keeps
    | dsimp only
    | split)

theorem execBootHostGo_keeps (v : Word) {s : State} (h : Keeps b a s) :
    OkR (Keeps b a) (@execBootHostGo v s) := by
  unfold execBootHostGo
  repeat' (first
    | with_reducible assumption
    | with_reducible apply emit_keeps
    | with_reducible apply put_keeps
    | (simp only [keeps_mk]; with_reducible apply KeepsF.of)
    | with_reducible apply OkR.next
    | dsimp only
    | split)

theorem leaveHold_keeps {s : State} (h : Keeps b a s) :
    Keeps b a (@State.leaveHold s) := by
  unfold State.leaveHold
  repeat' (first
    | with_reducible assumption
    | with_reducible apply setPhase_keeps
    | with_reducible apply bootTry_keeps
    | with_reducible apply put_keeps
    | with_reducible apply foldl_keeps
    | dsimp only
    | split
    | intro _)

theorem release_keeps {s : State} (h : Keeps b a s) :
    Keeps b a (@State.release s) := by
  unfold State.release
  repeat' (first
    | with_reducible assumption
    | with_reducible apply leaveHold_keeps
    | with_reducible apply flag_keeps)

theorem reachHold_keeps {s : State} (h : Keeps b a s) :
    Keeps b a (@State.reachHold s) := by
  unfold State.reachHold
  repeat' (first
    | with_reducible assumption
    | with_reducible apply leaveHold_keeps
    | with_reducible apply setPhase_keeps)

theorem endMaltster_keeps {s : State} (bytes : List Byte) (h : Keeps b a s) :
    Keeps b a (@State.endMaltster s bytes) := by
  unfold State.endMaltster
  repeat' (first
    | with_reducible assumption
    | with_reducible apply bootImage_keeps
    | with_reducible apply nextSource_keeps
    | (simp only [keeps_mk]; with_reducible apply KeepsF.of)
    | dsimp only
    | split)

theorem endClock_keeps {s : State} (board : Bool) (store : Bool) (factory : BitVec 3) (writes : BitVec 32) (present : BitVec 4) (ready : BitVec 4) (h : Keeps b a s) :
    Keeps b a (@State.endClock s board store factory writes present ready) := by
  unfold State.endClock
  repeat' (first
    | with_reducible assumption
    | with_reducible apply haltBoot_keeps
    | with_reducible apply pickClock_keeps
    | with_reducible apply calHead_keeps
    | with_reducible apply setPhase_keeps
    | with_reducible apply put_keeps
    | (simp only [keeps_mk]; with_reducible apply KeepsF.of)
    | dsimp only
    | split)

theorem repairSram_keeps {s : State} (faults : List Nat) (h : Keeps b a s) :
    Keeps b a (@State.repairSram s faults) := by
  unfold State.repairSram
  repeat' (first
    | with_reducible assumption
    | with_reducible apply putRecord_keeps
    | (simp only [keeps_mk]; with_reducible apply KeepsF.of)
    | dsimp only
    | split)

theorem endSram_keeps {s : State} (h : Keeps b a s) :
    Keeps b a (@State.endSram s) := by
  unfold State.endSram
  repeat' (first
    | with_reducible assumption
    | with_reducible apply setPhase_keeps
    | with_reducible apply reachHold_keeps
    | split)

theorem endCxl_keeps {s : State} (up : Bool) (x16 : Bool) (gt64 : Bool) (h : Keeps b a s) :
    Keeps b a (@State.endCxl s up x16 gt64) := by
  unfold State.endCxl
  repeat' (first
    | with_reducible assumption
    | with_reducible apply cxlTrained_keeps
    | with_reducible apply reachHold_keeps
    | with_reducible apply flag_keeps
    | dsimp only
    | split)

theorem mapColumns_keeps {s : State} (cols : List Nat) (h : Keeps b a s) :
    Keeps b a (@State.mapColumns s cols) := by
  unfold State.mapColumns
  repeat' (first
    | with_reducible assumption
    | with_reducible apply flag_keeps
    | with_reducible apply put_keeps
    | with_reducible apply setReg_keeps
    | dsimp only
    | split)

theorem writeRecord_keeps {s : State} (cols : List (BitVec 10)) (h : Keeps b a s) :
    Keeps b a (@State.writeRecord s cols) := by
  unfold State.writeRecord
  repeat' (first | with_reducible assumption | with_reducible apply putRecord_keeps | dsimp only | split)

theorem endCompute_keeps {s : State} (cols : List (BitVec 10)) (mw1 : Nat) (mw0 : Nat) (h : Keeps b a s) :
    Keeps b a (@State.endCompute s cols mw1 mw0) := by
  unfold State.endCompute
  repeat' (first
    | with_reducible assumption
    | with_reducible apply mapColumns_keeps
    | with_reducible apply writeRecord_keeps
    | with_reducible apply ringsFull_keeps
    | with_reducible apply setPhase_keeps
    | with_reducible apply flag_keeps
    | with_reducible apply put_keeps
    | with_reducible apply take_keeps
    | with_reducible apply wr_keeps
    | (simp only [keeps_mk]; with_reducible apply KeepsF.of)
    | with_reducible apply foldl_keeps
    | split
    | intro _)

/-! ## Access -/

theorem readClear_keeps {s : State} (k : Key) (h : Keeps b a s) :
    Keeps b a (@State.readClear s k) := by
  unfold State.readClear
  repeat' (first | with_reducible assumption | with_reducible apply setReg_keeps | split)

theorem senseHeat_keeps {s : State} (h : Keeps b a s) :
    Keeps b a (@State.senseHeat s) := by
  unfold State.senseHeat
  repeat' (first
    | with_reducible assumption
    | with_reducible apply put_keeps
    | with_reducible apply take_keeps)

theorem writeBar2_keeps {s : State} (o : Nat) (v : Word) (h : Keeps b a s) :
    Keeps b a (@State.writeBar2 s o v) := by
  unfold State.writeBar2
  repeat' (first
    | with_reducible assumption
    | with_reducible apply emit_keeps
    | (simp only [keeps_mk]; with_reducible apply KeepsF.of)
    | dsimp only
    | split)

theorem readOff_keeps {s : State} (off : Nat) (h : Keeps b a s) :
    Keeps b a (@State.readOff s off).2 := by
  unfold State.readOff
  repeat' (first
    | with_reducible assumption
    | with_reducible apply senseHeat_keeps
    | with_reducible apply readClear_keeps
    | with_reducible apply take_keeps
    | dsimp only
    | split)

theorem afterOutcome_keeps {s : State} (o : Host.Outcome State Fault Refusal) (ho : OkR (Keeps b a) o) (h : Keeps b a s) :
    Keeps b a (afterOutcome s o) := by
  unfold afterOutcome
  split
  · exact ho
  · exact h

theorem mbGo_keeps {s : State} (m : Nat) (h : Keeps b a s) :
    Keeps b a (@State.mbGo s m) := by
  unfold State.mbGo
  repeat' (first
    | with_reducible assumption
    | with_reducible apply mbComplete_keeps
    | with_reducible apply flag_keeps
    | with_reducible apply put_keeps
    | (simp only [keeps_mk]; with_reducible apply KeepsF.of)
    | dsimp only
    | split)

theorem writeReg_keeps {s : State} (k : Key) (v : Word) (h : Keeps b a s) :
    Keeps b a (@State.writeReg s k v) := by
  unfold State.writeReg
  repeat' (first
    | with_reducible assumption
    | with_reducible apply afterOutcome_keeps
    | with_reducible apply mbGo_keeps
    | with_reducible apply execRingProdWrite_keeps
    | with_reducible apply execRingCqConsWrite_keeps
    | with_reducible apply ringFull_keeps
    | with_reducible apply plainWrite_keeps
    | with_reducible apply execFqConsWrite_keeps
    | with_reducible apply execBootHostGo_keeps
    | with_reducible apply put_keeps
    | with_reducible apply setReg_keeps
    | dsimp only
    | split)

theorem hdmWrite_keeps {s : State} (i : Nat) (v : Word) (h : Keeps b a s) :
    Keeps b a (@State.hdmWrite s i v) := by
  unfold State.hdmWrite
  repeat' (first
    | with_reducible assumption
    | with_reducible apply put_keeps
    | (simp only [keeps_mk]; with_reducible apply KeepsF.of)
    | dsimp only
    | split)

theorem writeOff_keeps {s : State} (off : Nat) (v : Word) (h : Keeps b a s) :
    Keeps b a (@State.writeOff s off v) := by
  unfold State.writeOff
  repeat' (first
    | with_reducible assumption
    | with_reducible apply writeBar2_keeps
    | with_reducible apply hdmWrite_keeps
    | with_reducible apply writeReg_keeps
    | split)

/-! ## Admission -/

theorem deferHead_keeps {s : State} (n : Nat) (r : Nat) (h : Keeps b a s) :
    Keeps b a (@State.deferHead s n r) := by
  unfold State.deferHead
  repeat' (first
    | with_reducible assumption
    | with_reducible apply setRing_keeps
    | with_reducible apply bump_keeps
    | dsimp only
    | split)

theorem admitStep_keeps {s : State} (n : Nat) (r : Nat) (d : Desc) (c : Nat) (h : Keeps b a s) :
    Keeps b a (@State.admitStep s n r d c) := by
  unfold State.admitStep
  repeat' (first
    | with_reducible assumption
    | with_reducible apply newStep_keeps
    | with_reducible apply startTileMove_keeps
    | with_reducible apply startColl_keeps
    | with_reducible apply tunNext_keeps
    | (simp only [keeps_mk]; with_reducible apply KeepsF.of)
    | dsimp only
    | split)

theorem offerHead_keeps {s : State} (now : Nat) (n : Nat) (r : Nat) (h : Keeps b a s) :
    Keeps b a (@State.offerHead s now n r).2 := by
  unfold State.offerHead
  repeat' (first
    | with_reducible assumption
    | with_reducible apply endHead_keeps
    | with_reducible apply deferHead_keeps
    | with_reducible apply attnNow_keeps
    | with_reducible apply admitStep_keeps
    | dsimp only
    | split)

theorem pass_keeps {s : State} (now : Nat) (h : Keeps b a s) :
    Keeps b a (@State.pass s now).2 := by
  unfold State.pass
  repeat' (first
    | with_reducible assumption
    | with_reducible apply offerHead_keeps
    | with_reducible apply foldl_keeps_snd
    | dsimp only
    | intro _)

theorem passes_keeps (now n : Nat) {s : State} (h : Keeps b a s) : Keeps b a (passes now n s) := by
  induction n generalizing s with
  | zero => exact h
  | succ n ih =>
    rw [passes]
    split
    rename_i heq
    have := Keeps.of_pair heq (pass_keeps now h)
    exact ite_keeps (ih this) this

theorem runAdmission_keeps {s : State} (now : Nat) (h : Keeps b a s) :
    Keeps b a (@State.runAdmission s now) := by
  unfold State.runAdmission
  repeat' (first
    | with_reducible assumption
    | with_reducible apply passes_keeps
    | (simp only [keeps_mk]; with_reducible apply KeepsF.of)
    | dsimp only
    | split)

/-! ## Edge -/

theorem seeDescs_keeps {s : State} (h : Keeps b a s) :
    Keeps b a (@State.seeDescs s) := by
  unfold State.seeDescs
  repeat' (first | with_reducible assumption | (simp only [keeps_mk]; with_reducible apply KeepsF.of))

theorem takeLoad_keeps {s : State} (n : Nat) (r : Nat) (d : Desc) (h : Keeps b a s) :
    Keeps b a (@State.takeLoad s n r d) := by
  unfold State.takeLoad
  repeat' (first
    | with_reducible assumption
    | with_reducible apply endHead_keeps
    | with_reducible apply takeHead_keeps
    | (simp only [keeps_mk]; with_reducible apply KeepsF.of)
    | dsimp only
    | split)

theorem scanRing_keeps (n r k : Nat) {s : State} (h : Keeps b a s) : Keeps b a (scanRing n r k s) := by
  induction k generalizing s with
  | zero => exact h
  | succ k ih =>
    unfold scanRing
    dsimp only
    split
    · exact h
    · rename_i d _ _
      apply ite_keeps h
      split
      · exact ih (endHead_keeps _ _ _ _ _ _ h)
      · split
        · exact ite_keeps (ih (endHead_keeps _ _ _ _ _ _ h)) h
        · have h1 := newStep_keeps n r d false 0 h
          split
          · exact ih (endHead_keeps _ _ _ _ _ _ h)
          · exact ih (startTier_keeps _ h1)
          · exact ite_keeps (ih (startTileMove_keeps _ h1)) h
          · exact ite_keeps (ih (takeLoad_keeps _ _ _ h)) h

theorem scanRings_keeps {s : State} (h : Keeps b a s) : Keeps b a s.scanRings :=
  foldl_keeps _ _ (fun _ _ h => ite_keeps (scanRing_keeps _ _ _ h) h) h

theorem waitEdges_keeps {s : State} (h : Keeps b a s) :
    Keeps b a (@State.waitEdges s) := by
  unfold State.waitEdges
  repeat' (first
    | with_reducible assumption
    | with_reducible apply setLink_keeps
    | (simp only [keeps_mk]; with_reducible apply KeepsF.of)
    | with_reducible apply foldl_keeps
    | dsimp only
    | intro _)

theorem newBeat_keeps {s : State} (h : Keeps b a s) :
    Keeps b a (@State.newBeat s) := by
  unfold State.newBeat
  repeat' (first | with_reducible assumption | (simp only [keeps_mk]; with_reducible apply KeepsF.of))

theorem ballastCycles_keeps {s : State} (duty : Nat) (h : Keeps b a s) :
    Keeps b a (@State.ballastCycles s duty) := by
  unfold State.ballastCycles
  repeat' (first
    | with_reducible assumption
    | with_reducible apply bumpBy_keeps
    | with_reducible apply take_keeps
    | dsimp only
    | split)

theorem calEdge_keeps {s : State} (h : Keeps b a s) :
    Keeps b a (@State.calEdge s) := by
  unfold State.calEdge
  repeat' (first
    | with_reducible assumption
    | with_reducible apply calApply_keeps
    | (simp only [keeps_mk]; with_reducible apply KeepsF.of)
    | with_reducible apply foldl_keeps
    | intro _)

/-! ## Manage -/

theorem ikioCmd_keeps {s : State} (f : State → State) (hf : ∀ (y0 : State), Keeps b a y0 → Keeps b a (f y0)) (h : Keeps b a s) :
    OkR (Keeps b a) (@State.ikioCmd s f) := by
  unfold State.ikioCmd
  repeat' (first
    | with_reducible assumption
    | with_reducible apply hf
    | with_reducible apply bump_keeps
    | with_reducible apply emit_keeps
    | with_reducible apply OkR.next
    | split)

theorem badLine_keeps {s : State} (h : Keeps b a s) :
    OkR (Keeps b a) (@State.badLine s) := by
  unfold State.badLine
  repeat' (first
    | with_reducible assumption
    | with_reducible apply sayEnd_keeps
    | with_reducible apply emit_keeps
    | with_reducible apply OkR.next
    | split)

theorem ikioMem_keeps {s : State} (n : Nat) (addr : Word) (len : Nat) (bytes : Option (List Byte)) (h : Keeps b a s) :
    OkR (Keeps b a) (@State.ikioMem s n addr len bytes) := by
  unfold State.ikioMem
  repeat' (first
    | with_reducible assumption
    | with_reducible apply badLine_keeps
    | with_reducible apply ikioCmd_keeps
    | with_reducible apply sayEnd_keeps
    | with_reducible apply issue_keeps
    | with_reducible apply bump_keeps
    | (simp only [keeps_mk]; with_reducible apply KeepsF.of)
    | with_reducible apply foldl_keeps
    | dsimp only
    | split
    | intro _)

theorem tw_keeps {s : State} (f : State → State) (hf : ∀ (y0 : State), Keeps b a y0 → Keeps b a (f y0)) (h : Keeps b a s) :
    OkR (Keeps b a) (@State.tw s f) := by
  unfold State.tw
  repeat' (first
    | with_reducible assumption
    | with_reducible apply hf
    | with_reducible apply OkR.next
    | split)

theorem twSay_keeps {s : State} (n : Nat) (v : Nat) (h : Keeps b a s) :
    Keeps b a (@State.twSay s n v) := by
  unfold State.twSay
  repeat' (first | with_reducible assumption | with_reducible apply emit_keeps)

theorem twAck_keeps {s : State} (h : Keeps b a s) :
    Keeps b a (@State.twAck s) := by
  unfold State.twAck
  repeat' (first | with_reducible assumption | with_reducible apply emit_keeps)

theorem tapTo_keeps {s : State} (k : Nat) (bs : List Bool) (h : Keeps b a s) :
    OkR (Keeps b a) (@State.tapTo s k bs) := by
  unfold State.tapTo
  repeat' (first
    | with_reducible assumption
    | with_reducible apply emit_keeps
    | (simp only [keeps_mk]; with_reducible apply KeepsF.of)
    | with_reducible apply OkR.next
    | dsimp only
    | split)

theorem freeBits_keeps (x0 : Nat) {x1 : State} (h : Keeps b a x1) :
    Keeps b a (@freeBits x0 x1).2 := by
  revert h
  fun_induction freeBits x0 x1 <;> intro h
  all_goals repeat' (first
    | with_reducible assumption
    | with_reducible apply take_keeps
    | with_reducible apply_assumption
    | with_reducible refine Keeps.of_pair (by assumption) ?_)

/-! ## Replies -/

theorem stepReply_keeps {s : State} (id : Nat) (i : Nat) (opcode : Nat) (status : Nat) (bytes : List Byte) (h : Keeps b a s) :
    Keeps b a (@State.stepReply s id i opcode status bytes) := by
  unfold State.stepReply
  repeat' (first
    | with_reducible assumption
    | with_reducible apply setStep_keeps
    | with_reducible apply sendChunk_keeps
    | dsimp only
    | split)

theorem endEntry_keeps {s : State} (t : Nat) (e : TEntry) (status : Nat) (p : Pkt) (held : Bool) (h : Keeps b a s) :
    Keeps b a (@State.endEntry s t e status p held) := by
  unfold State.endEntry
  repeat' (first
    | with_reducible assumption
    | with_reducible apply closeEntry_keeps
    | with_reducible apply threadReply_keeps
    | with_reducible apply endMove_keeps
    | with_reducible apply moveGranted_keeps
    | with_reducible apply moveDone_keeps
    | with_reducible apply moveData_keeps
    | with_reducible apply moveFailed_keeps
    | with_reducible apply setStep_keeps
    | with_reducible apply stepReply_keeps
    | with_reducible apply failComb_keeps
    | with_reducible apply resultDone_keeps
    | with_reducible apply slotSent_keeps
    | with_reducible apply mcReply_keeps
    | with_reducible apply remoteDone_keeps
    | with_reducible apply loadReply_keeps
    | with_reducible apply imageReply_keeps
    | with_reducible apply ikioReply_keeps
    | with_reducible apply bootReply_keeps
    | with_reducible apply flag_keeps
    | dsimp only
    | split)

theorem endReply_keeps {s : State} (p : Pkt) (h : Keeps b a s) :
    Keeps b a (@State.endReply s p) := by
  unfold State.endReply
  repeat' (first
    | with_reducible assumption
    | with_reducible apply finishLine_keeps
    | with_reducible apply endEntry_keeps
    | with_reducible apply bump_keeps
    | with_reducible apply emit_keeps
    | (simp only [keeps_mk]; with_reducible apply KeepsF.of)
    | dsimp only
    | split)

theorem onReply_keeps {s : State} (op : Nat) (h : Keeps b a s) :
    OkR (Keeps b a) (@State.onReply s op) := by
  unfold State.onReply
  repeat' (first
    | with_reducible assumption
    | with_reducible apply takeEp_keeps
    | with_reducible apply endReply_keeps
    | with_reducible refine Keeps.of_some_pair (by assumption) ?_
    | with_reducible apply OkR.next
    | split)

theorem atPoint_keeps {s : State} (p : ParityPoint) (h : Keeps b a s) :
    OkO (fun x => Keeps b a x.2.1 ∧ ∀ r, Keeps b a (x.2.2 r)) (s.atPoint p) := by
  unfold State.atPoint
  split
  · split
    · rename_i heq
      exact ⟨returnCredit_keeps _ _ _ (unjudge_keeps _ _ (Keeps.of_some_pair heq (takeRx_keeps _ _ h))),
        fun _ => returnCredit_keeps _ _ _ (h.upd rfl rfl rfl rfl rfl rfl rfl rfl rfl)⟩
    · trivial
  · split
    · exact ⟨xqCounts_keeps (unstore_keeps _ h), fun _ => h.upd rfl rfl rfl rfl rfl rfl rfl rfl rfl⟩
    · trivial
  · split
    · exact ⟨h.upd rfl rfl rfl rfl rfl rfl rfl rfl rfl, fun _ => h.upd rfl rfl rfl rfl rfl rfl rfl rfl rfl⟩
    · trivial
  · split
    · exact ⟨h.upd rfl rfl rfl rfl rfl rfl rfl rfl rfl, fun _ => h.upd rfl rfl rfl rfl rfl rfl rfl rfl rfl⟩
    · trivial
  · split
    · exact ⟨poolFree_keeps _ _ _ (h.upd rfl rfl rfl rfl rfl rfl rfl rfl rfl), fun _ => h.upd rfl rfl rfl rfl rfl rfl rfl rfl rfl⟩
    · trivial
  · split
    · split
      · refine ⟨?_, fun _ => h.upd rfl rfl rfl rfl rfl rfl rfl rfl rfl⟩
        dsimp only
        split
        · exact poolFree_keeps _ _ _ (h.upd rfl rfl rfl rfl rfl rfl rfl rfl rfl)
        · exact h.upd rfl rfl rfl rfl rfl rfl rfl rfl rfl
      · trivial
    · trivial
  · split
    · split
      · exact ⟨h.upd rfl rfl rfl rfl rfl rfl rfl rfl rfl, fun _ => h.upd rfl rfl rfl rfl rfl rfl rfl rfl rfl⟩
      · trivial
    · split
      · exact ⟨resultOut_keeps _ (h.upd rfl rfl rfl rfl rfl rfl rfl rfl rfl), fun _ => h.upd rfl rfl rfl rfl rfl rfl rfl rfl rfl⟩
      · trivial
  all_goals trivial

theorem parityPkt_keeps {s : State} (p : ParityPoint) (header : Bool) (h : Keeps b a s) :
    Keeps b a (s.parityPkt p header) := by
  unfold State.parityPkt
  have h1 := atPoint_keeps p h
  split
  · exact h
  · rename_i heq
    rw [heq] at h1
    refine ite_keeps (bump_keeps h1.1 _) (ite_keeps h (ite_keeps ?_ (ite_keeps ?_ h)))
    · exact ack_keeps _ _ h1.1
    · exact bump_keeps (h1.2 _) _

theorem parityLine_keeps {s : State} (line : Nat) (h : Keeps b a s) :
    Keeps b a (@State.parityLine s line) := by
  unfold State.parityLine
  repeat' (first | with_reducible assumption | with_reducible apply finishLine_keeps | split)

theorem askReplay_keeps {s : State} (p : Nat) (h : Keeps b a s) :
    Keeps b a (@State.askReplay s p) := by
  unfold State.askReplay
  repeat' (first
    | with_reducible assumption
    | with_reducible apply flushLink_keeps
    | with_reducible apply setLink_keeps
    | dsimp only
    | split)

/-! ## Service -/

theorem mbCarry_keeps (m : Mbx) (x1 : Reply) {s : State} (h : Keeps b a s) :
    OkR (Keeps b a) (@mbCarry m x1 s) := by
  unfold mbCarry
  repeat' (first
    | with_reducible assumption
    | with_reducible apply execMbHello_keeps
    | with_reducible apply execTimeGridSet_keeps
    | with_reducible apply execTimeConfigSet_keeps
    | with_reducible apply execXlatEpSet_keeps
    | with_reducible apply execXlatAtsSet_keeps
    | with_reducible apply execXlatFqSet_keeps
    | with_reducible apply execXlatWindowSet_keeps
    | with_reducible apply execXlatPageSet_keeps
    | with_reducible apply execXlatPageClear_keeps
    | with_reducible apply execXlatPageGet_keeps
    | with_reducible apply execXlatAtsPrefetch_keeps
    | with_reducible apply execXlatShareSet_keeps
    | with_reducible apply execTrackConfigSet_keeps
    | with_reducible apply execTrackShareSet_keeps
    | with_reducible apply execLcShareSet_keeps
    | with_reducible apply execLcRead_keeps
    | with_reducible apply execLcSet_keeps
    | with_reducible apply execDirConfigSet_keeps
    | with_reducible apply execXbarRouteLoad_keeps
    | with_reducible apply execXbarGroupLoad_keeps
    | with_reducible apply execXbarEpochSwitch_keeps
    | with_reducible apply execXbarConfigSet_keeps
    | with_reducible apply execXbarPortSet_keeps
    | with_reducible apply execPoolWarnSet_keeps
    | with_reducible apply execPoolLimitSet_keeps
    | with_reducible apply execRdxConfigSet_keeps
    | with_reducible apply execCollMembersSet_keeps
    | with_reducible apply execCollForm_keeps
    | with_reducible apply execCollSuspend_keeps
    | with_reducible apply execCollReform_keeps
    | with_reducible apply execCollDissolve_keeps
    | with_reducible apply execCollWeightSet_keeps
    | with_reducible apply execMcGroupSet_keeps
    | with_reducible apply execMcGroupClear_keeps
    | with_reducible apply execMcGroupGet_keeps
    | with_reducible apply execCollPartSet_keeps
    | with_reducible apply execTunShareSet_keeps
    | with_reducible apply execTunSliceClear_keeps
    | with_reducible apply execTunSliceGet_keeps
    | with_reducible apply execTunBindSet_keeps
    | with_reducible apply execTunBindClear_keeps
    | with_reducible apply execMemShareSet_keeps
    | with_reducible apply execTierRegionSet_keeps
    | with_reducible apply execTierT3Set_keeps
    | with_reducible apply execTierQuotaSet_keeps
    | with_reducible apply execTierExtShareSet_keeps
    | with_reducible apply execTierExtentSet_keeps
    | with_reducible apply execTierExtentFree_keeps
    | with_reducible apply execTierExtentGet_keeps
    | with_reducible apply execTierConfigSet_keeps
    | with_reducible apply execTierLendOffer_keeps
    | with_reducible apply execTierLendClose_keeps
    | with_reducible apply execTierLendAccept_keeps
    | with_reducible apply execTierLendReturn_keeps
    | with_reducible apply execSeqShareSet_keeps
    | with_reducible apply execSeqLoad_keeps
    | with_reducible apply execSeqStart_keeps
    | with_reducible apply execSeqStop_keeps
    | with_reducible apply execPortModeSet_keeps
    | with_reducible apply execPortEnable_keeps
    | with_reducible apply execPortDisable_keeps
    | with_reducible apply execPortRetrain_keeps
    | with_reducible apply execRingSet_keeps
    | with_reducible apply execRingClear_keeps
    | with_reducible apply execPartCreate_keeps
    | with_reducible apply execPartDestroy_keeps
    | with_reducible apply execPartGet_keeps
    | with_reducible apply execFwStage_keeps
    | with_reducible apply execAttestGet_keeps
    | with_reducible apply execPgovSet_keeps
    | with_reducible apply execPgovCapSet_keeps
    | with_reducible apply execHealthReadmit_keeps
    | with_reducible apply execHealthIsolate_keeps
    | with_reducible apply execHealthBudgetSet_keeps
    | with_reducible apply execCaskReadout_keeps
    | with_reducible apply execCalRead_keeps
    | with_reducible apply OkR.next
    | split)

theorem cutMbx_keeps {s : State} (m : Nat) (h : Keeps b a s) :
    Keeps b a (@State.cutMbx s m) := by
  unfold State.cutMbx
  repeat' (first | with_reducible assumption | (simp only [keeps_mk]; with_reducible apply KeepsF.of))

theorem mbEnd_keeps {s : State} (applied : List (Mbx × Reply)) (m : Nat) (h : Keeps b a s) :
    Keeps b a (@State.mbEnd s applied m) := by
  unfold State.mbEnd
  repeat' (first
    | with_reducible assumption
    | with_reducible apply mbCarry_keeps
    | with_reducible apply mbComplete_keeps
    | with_reducible apply cutMbx_keeps
    | (simp only [keeps_mk]; with_reducible apply KeepsF.of)
    | with_reducible refine Keeps.of_next (by assumption) ?_
    | dsimp only
    | split)

/-! ## Tiles -/

theorem tilePacket_keeps {s : State} (op : Nat) (x2 : Nat) (h : Keeps b a s) :
    Keeps b a (@State.tilePacket s op x2) := by
  unfold State.tilePacket
  repeat' (first
    | with_reducible assumption
    | with_reducible apply takeEp_keeps
    | with_reducible apply ack_keeps
    | with_reducible apply setGrants_keeps
    | with_reducible apply answer_keeps
    | with_reducible apply hbmUncorr_keeps
    | with_reducible apply startOp_keeps
    | with_reducible apply bump_keeps
    | (simp only [keeps_mk]; with_reducible apply KeepsF.of)
    | with_reducible refine Keeps.of_some_pair (by assumption) ?_
    | dsimp only
    | split)

end Sys2Proof.Machine
end

