-- ==== Sys2Proof/Laws/Mail.lean ====
section
/-! SUPPORT. What a mailbox command does, once its checks have passed or failed (R389, R394, R395). -/

namespace Sys2Proof.Machine

variable {s t : State} {c : MbSpec} {m : Nat} {v : Bool}

theorem State.mbReady.run (h : s.mbReady c m v) (r : MbRes) : s.mbRun c m v r =
    (match r with
    | .done p t => t.mbComplete m 0 0 p
    | .fail st sc => s.mbComplete m st sc []
    | .ends st t => t.mbComplete m st 0 []
    | .again t => t
    | .wait t => { t with hm := { t.hm with running := t.hm.running ++ [m] } }) := by
  obtain ⟨h1, h2, h3, h4, hb, ht, h5⟩ := h
  have h6 : ¬ (!s.on (MB_STATUS_BUSY m)) = true := by rw [h1]; decide
  have h7 : ¬ s.hm.running.contains m = true := by simpa using h3
  have h8 : ¬ s.hm.held.contains m = true := by simpa using h4
  unfold State.mbRun
  rw [if_neg (by simp only [not_or]; exact ⟨h6, not_not.2 h2, h7, h8, by simpa using hb, by simp [ht]⟩), h5] <;> cases r <;> rfl

theorem mb_done (h : s.mbReady c m v) (p : List Word) : s.mb c m v (.done p t) = .next (t.mbComplete m 0 0 p) := by
  rw [State.mb, h.run]
theorem mb_fail (h : s.mbReady c m v) (st sc : Nat) : s.mb c m v (.fail st sc) = .next (s.mbComplete m st sc []) := by
  rw [State.mb, h.run]
theorem mb_ends (h : s.mbReady c m v) (st : Nat) : s.mb c m v (.ends st t) = .next (t.mbComplete m st 0 []) := by
  rw [State.mb, h.run]
theorem mb_wait (h : s.mbReady c m v) :
    s.mb c m v (.wait t) = .next { t with hm := { t.hm with running := t.hm.running ++ [m] } } := by
  rw [State.mb, h.run]

theorem spargeGuard_free (h : s.selFree m) (r : MbRes) : s.spargeGuard m (bits (s.cmd m 1) 4 0) r = r := by
  unfold State.spargeGuard
  rw [if_neg]
  intro h'
  exact h h'.1

/-- A command that fails a check of R394 completes with that check's status and changes nothing else. -/
theorem mbRun_refused (r : MbRes) (st sc : Nat) (h1 : s.on (MB_STATUS_BUSY m) = true) (h2 : s.cmdOp m = c.opcode)
    (h3 : m ∉ s.hm.running) (h4 : m ∉ s.hm.held)
    (hb : (c.bulk && s.bulkHeld m) = false) (ht : s.mbTurn m = true) (h5 : s.mbCheck c m v = some (st, sc)) :
    s.mbRun c m v r = s.mbComplete m st sc [] := by
  have h6 : ¬ (!s.on (MB_STATUS_BUSY m)) = true := by rw [h1]; decide
  have h7 : ¬ s.hm.running.contains m = true := by simpa using h3
  have h8 : ¬ s.hm.held.contains m = true := by simpa using h4
  unfold State.mbRun
  rw [if_neg (by simp only [not_or]; exact ⟨h6, not_not.2 h2, h7, h8, by simpa using hb, by simp [ht]⟩), h5]

end Sys2Proof.Machine
end

