-- ==== Sys2Proof/WellFormed.lean ====
section
/-! DEFINITION. Which commands describe an event that can occur: the ranges of their operands. A command outside them leaves
the block as it is (log 52). -/

namespace Sys2Proof

/-- An aligned offset of BAR0 (R5, R386). -/
def barAligned (off : Nat) : Bool := off % 8 == 0 && decide (off < 2 ^ 26)

/-- Opcode and function bits of a fabric instruction (R332). -/
def insOp (i : BitVec 32) : Nat := i.toNat % 128
def insF3 (i : BitVec 32) : Nat := i.toNat / 4096 % 8

/-- A translation has a size that is a power of two of at least 4 KiB. -/
def AtsAnswer.wf : AtsAnswer → Bool
  | .mapped size _ _ _ => (List.range 52).any (fun k => size == 2 ^ (12 + k))
  | .none => true
  | .error => true

/-- Columns lie among the 520 physical ones (R248). -/
def PhaseWork.wf : PhaseWork → Bool
  | .compute cols _ _ => cols.all (fun c => decide (c.toNat < 520))
  | .pass => true
  | .romSelftest => true
  | .image _ => true
  | .clock _ _ _ _ _ _ => true
  | .sram _ => true
  | .sramBad => true
  | .hbm4e _ _ => true
  | .cxl _ _ _ => true

/-- A 64-bit load has no unsigned form. -/
def LocalOp.wf : LocalOp → Bool
  | .load k u _ _ _ => !(k == 3 && u)
  | .store _ _ _ _ => true
  | .lr _ _ _ => true
  | .sc _ _ _ _ => true
  | .amo _ _ _ _ _ => true
  | .fence => true
  | .alu _ _ _ _ _ => true
  | .alui _ _ _ _ _ => true
  | .lui _ _ => true
  | .auipc _ _ => true
  | .jal _ _ => true
  | .jalr _ _ _ => true
  | .branch _ _ _ _ => true
  | .csrr _ _ => true
  | .ecall => true
  | .ebreak => true

/-- The operands are in their ranges. -/
def Instr.wf : Instr → Bool
  | .registerWrite off _ => barAligned off
  | .rcRead off => barAligned off
  | .bar0BadAccess off width _ => !(width == 8 && barAligned off)
  | .fqConsWrite _ _ => true
  | .ringProdWrite _ _ _ => true
  | .ringCqConsWrite _ _ _ => true
  | .bootHostGo _ => true
  | .beatEdge mw => decide (mw < 2 ^ 32)
  | .admissionPass _ => true
  | .deferLimitTimeout _ _ => true
  | .beatSlip _ => true
  | .beatFrame _ _ => true
  | .lockAcquired => true
  | .holdover => true
  | .election => true
  | .gridChangeApply => true
  | .barrierArrival _ _ => true
  | .barrierRelease _ _ => true
  | .barrierTimeout _ => true
  | .packetSwitch _ _ => true
  | .combWindowClose _ _ => true
  | .combinedReply => true
  | .load => true
  | .store => true
  | .atomic => true
  | .mcastStore => true
  | .reduce _ _ => true
  | .reduceMem _ _ => true
  | .tileOpen => true
  | .tileRead => true
  | .tileWrite => true
  | .tileClose => true
  | .tileCloseComplete _ => true
  | .grantIdle _ => true
  | .translationCompletion _ _ va a => va.toNat % 2097152 == 0 && a.wf
  | .atsTimeout _ _ va => va.toNat % 2097152 == 0
  | .invalidateRequest itag _ va size => decide (itag < 32) && decide (4096 ≤ size) && va.toNat % 4096 == 0
  | .invalidationCompletion itag => decide (itag < 32)
  | .translationChangeDone _ => true
  | .lineQueueAdmit _ _ => true
  | .lineEntryPerform _ => true
  | .lowerLimitTimeout _ => true
  | .recallTimeout _ _ => true
  | .mcastAckCombine _ => true
  | .data => true
  | .ack => true
  | .atomicValue => true
  | .tileGrant => true
  | .tileDone => true
  | .trackerTimeout tag => decide (tag < 2 ^ 20)
  | .trackerLost tag => decide (tag < 2 ^ 20)
  | .trackerStallResume _ => true
  | .parityRefetch _ _ => true
  | .releaseSend _ => true
  | .fenceComplete _ => true
  | .bankSwitch => true
  | .drainEnd => true
  | .poolAlloc _ _ size => decide (1 ≤ size.arg) && decide (size.arg ≤ 2 ^ 20)
  | .poolRelease k i => k != 0 && decide (i.arg < [131072, 16384, 2048, 1024, 32].getD k.val 0)
  | .cellBatchFree _ _ _ => true
  | .auditSweep => true
  | .chunkTimeout _ c => decide (c < 2 ^ 30)
  | .parkedContributionOpen _ _ => true
  | .descriptorFetch _ _ => true
  | .fetchComplete _ _ _ => true
  | .tileMoveStart _ => true
  | .tileMoveEnd _ _ => true
  | .cqRecordRetry _ _ _ => true
  | .collStepEnd _ _ => true
  | .tunJobStart => true
  | .projectChunkTake _ => true
  | .stagedChunkExpire _ c => decide (c < 2 ^ 30)
  | .projectTimeout => true
  | .tunJobOutput => true
  | .tunJobEnd _ _ => true
  | .sliceLoadStart => true
  | .sliceLoadEnd _ => true
  | .attnJobStart => true
  | .attnOutput => true
  | .attnJobEnd _ _ => true
  | .extentMoveStart _ e => decide (e < 2 ^ 19)
  | .extentCopyDone _ e a => decide (e < 2 ^ 19) && (match a with | .failed st => st != 0 | _ => true)
  | .extentTileRetry _ e => decide (e < 2 ^ 19)
  | .extentSwitch _ e => decide (e < 2 ^ 19)
  | .tierMoveEnd _ => true
  | .rld _ _ ins => insOp ins == 0x0B && decide (insF3 ins ≤ 3)
  | .rst _ _ ins => insOp ins == 0x0B && decide (4 ≤ insF3 ins)
  | .ramo _ _ ins => insOp ins == 0x2B
  | .waitlc _ _ ins => insOp ins == 0x5B && insF3 ins == 0
  | .waitlcWake _ _ => true
  | .waitlcTimeout _ _ => true
  | .waitbeat _ _ ins => insOp ins == 0x5B && insF3 ins == 1
  | .waitbeatWake _ _ => true
  | .fenceS _ _ ins => insOp ins == 0x5B && insF3 ins == 2
  | .lcset _ _ ins => insOp ins == 0x5B && insF3 ins == 3
  | .lcread _ _ ins => insOp ins == 0x5B && insF3 ins == 4
  | .posttile _ _ ins => insOp ins == 0x5B && insF3 ins == 5
  | .poststep _ _ ins => insOp ins == 0x5B && insF3 ins == 6
  | .halt _ _ ins => insOp ins == 0x5B && insF3 ins == 7
  | .localAccess _ _ op _ => op.wf
  | .csrWrite _ _ _ _ _ _ => true
  | .threadException _ _ _ => true
  | .fecBlock _ _ _ _ _ => true
  | .linkReplay _ => true
  | .ackTimeout _ => true
  | .stomp _ => true
  | .lightDetect _ _ => true
  | .hello _ => true
  | .speedReq _ => true
  | .speedAck _ => true
  | .speedSwitch _ => true
  | .tapReq _ => true
  | .tapRsp _ => true
  | .laneEvaluation _ _ => true
  | .evalDone _ => true
  | .ready _ => true
  | .trainPhaseTimeout _ => true
  | .retrain _ => true
  | .down _ => true
  | .los _ => true
  | .heartbeatLoss _ => true
  | .gravityBucketExpire => true
  | .lsuFail _ _ => true
  | .lsuReady _ => true
  | .lcWait _ => true
  | .lcWaitTimeout _ _ => true
  | .attachLcRead _ => true
  | .rdShared _ => true
  | .rdOwn _ => true
  | .drop _ => true
  | .wb _ => true
  | .recallRsp _ => true
  | .invalRsp _ => true
  | .resetAck _ => true
  | .attachDiscard _ => true
  | .cxlLinkDown => true
  | .perstN _ => true
  | .hdmAccess pa len wr _ => decide (1 ≤ len) && decide (pa % 64 + len ≤ 64) && decide (pa + len ≤ 2 ^ 64) && wr.elim true (fun b => b.length == len)
  | .mbHello _ => true
  | .timeGridSet _ => true
  | .timeConfigSet _ => true
  | .xlatEpSet _ => true
  | .xlatAtsSet _ => true
  | .xlatFqSet _ => true
  | .xlatWindowSet _ => true
  | .xlatPageSet _ => true
  | .xlatPageClear _ => true
  | .xlatPageGet _ => true
  | .xlatAtsPrefetch _ => true
  | .xlatShareSet _ => true
  | .trackConfigSet _ => true
  | .trackShareSet _ => true
  | .lcShareSet _ => true
  | .lcRead _ => true
  | .lcSet _ => true
  | .dirConfigSet _ => true
  | .xbarRouteLoad _ _ => true
  | .xbarGroupLoad _ _ => true
  | .xbarEpochSwitch _ => true
  | .xbarConfigSet _ => true
  | .xbarPortSet _ => true
  | .poolWarnSet _ => true
  | .poolLimitSet _ => true
  | .rdxConfigSet _ => true
  | .collMembersSet _ => true
  | .collForm _ => true
  | .collSuspend _ => true
  | .collReform _ => true
  | .collDissolve _ => true
  | .collWeightSet _ => true
  | .mcGroupSet _ => true
  | .mcGroupClear _ => true
  | .mcGroupGet _ => true
  | .collPartSet _ => true
  | .tunShareSet _ => true
  | .tunSliceClear _ => true
  | .tunSliceGet _ => true
  | .tunBindSet _ => true
  | .tunBindClear _ => true
  | .memShareSet _ => true
  | .tierRegionSet _ => true
  | .tierT3Set _ => true
  | .tierQuotaSet _ => true
  | .tierExtShareSet _ => true
  | .tierExtentSet _ => true
  | .tierExtentFree _ => true
  | .tierExtentGet _ => true
  | .tierConfigSet _ => true
  | .tierLendOffer _ => true
  | .tierLendClose _ => true
  | .tierLendAccept _ => true
  | .tierLendReturn _ => true
  | .seqShareSet _ => true
  | .seqLoad _ _ => true
  | .seqStart _ => true
  | .seqStop _ => true
  | .seqStopDone _ => true
  | .portModeSet _ => true
  | .portEnable _ => true
  | .portDisable _ => true
  | .portRetrain _ => true
  | .ringSet _ _ => true
  | .ringClear _ => true
  | .partCreate _ => true
  | .partSparge _ => true
  | .spargeComplete _ _ => true
  | .partDestroy _ => true
  | .partGet _ => true
  | .fwStage _ _ => true
  | .fwCommit _ => true
  | .fwCommitDone _ => true
  | .attestGet _ => true
  | .pgovSet _ => true
  | .pgovCapSet _ => true
  | .healthBudgetSet _ => true
  | .healthIsolate _ => true
  | .healthReadmit _ => true
  | .caskReadout _ => true
  | .calRead _ => true
  | .calWrite _ _ => true
  | .calWriteDone _ => true
  | .svcWatchdog _ => true
  | .pwrCapAlert => true
  | .pwrCapAlertEnd => true
  | .rampReq => true
  | .rampGrant => true
  | .rampBusy => true
  | .rampDone => true
  | .grantEnd => true
  | .arbWaitExpire => true
  | .arbiterTakeover => true
  | .expelReq => true
  | .expelGrant => true
  | .expelDeny => true
  | .noticeLost => true
  | .noticeFenced => true
  | .noticeReadmit => true
  | .owned => true
  | .peerDead _ => true
  | .hotEnter l => l.length == 32
  | .hotExit l => l.length == 32
  | .thermalTrip => true
  | .breakerOpen => true
  | .hotSwapCharge => true
  | .powerOnReset => true
  | .porRelease _ _ _ => true
  | .coreReset => true
  | .systemReset => true
  | .resetEnd => true
  | .internalPortsReopen => true
  | .bringupPhaseEnd w => w.wf
  | .bootSourceWaitExpire => true
  | .imageTransferEnd _ _ _ _ => true
  | .imageTransferStall _ _ _ _ => true
  | .ikioHelp => true
  | .ikioBaud r => [115200, 460800, 921600, 1500000, 3000000].contains r
  | .ikioStatus => true
  | .ikioRd off => barAligned off
  | .ikioWr off _ => barAligned off
  | .ikioMrd _ _ len => decide (1 ≤ len) && decide (len ≤ 256)
  | .ikioMwr _ _ b => decide (1 ≤ b.length) && decide (b.length ≤ 256)
  | .ikioRelease => true
  | .ikioBootFull => true
  | .ikioLoad _ => true
  | .ikioBadLine => true
  | .twPart => true
  | .twStatus => true
  | .twRelease _ => true
  | .twCap _ => true
  | .twMeasured => true
  | .twJunction => true
  | .twResetCause => true
  | .twSerial => true
  | .twEnergyIn => true
  | .twUndefined c r => if r.isSome then ([0, 1, 2, 3, 4, 5, 6, 8, 0x10].contains c.toNat) == false else c.toNat != 2 && c.toNat != 3
  | .tapBypass => true
  | .tapSamplePreload _ => true
  | .tapExtest => true
  | .tapIdcode => true
  | .trstN => true
  | .caskSample _ => true
  | .signedReadout => true
  | .statusFrameSend => true
  | .statusFrame _ _ => true
  | .caskLinkTimeout => true
  | .caskPowerDown => true
  | .caskPowerUp _ => true
  | .clockFault _ => true
  | .tamperOpen => true
  | .tamperClose => true
  | .overrange => true
  | .caskTwRead _ => true
  | .caskReadReadout => true
  | .caskReadCert => true
  | .caskReadLog => true
  | .caskCalRead _ => true
  | .caskCalWrite _ _ => true
  | .caskFwUpdate _ _ => true
  | .blockLock _ _ => true
  | .cxlLinkUp _ _ => true
  | .hostSnoop a => decide (a < 2 ^ 64)
  | .backInvalidationResponse _ _ => true
  | .cxlCacheResponse _ _ => true
  | .expelAnswerTimeout => true

end Sys2Proof
end

