-- ==== Sys2Proof/Tests/Slice0.lean ====
section
/-! SUPPORT. Tests: terms that the well-formedness check refuses, single steps of each family with results taken from the
specification, and for every statement of Certificates/Slice0/Obligations.lean states that meet the hypotheses of each of its
clauses. -/

open Sys2Proof Sys2Proof.Machine

namespace Sys2Proof.Tests

set_option Elab.async false

/-- `s` with fields put. -/
def setup (s : State) (fs : List (Fld × Nat)) : State := fs.foldl (fun s f => s.put f.1 f.2) s
/-- The block after bring-up, with every unit present that `GLOBAL_OPTIONS` names at power-on. -/
def live : State :=
  setup { State.reset with rs := { State.reset.rs with por := false }, xb := { State.reset.xb with closed := false } }
    [(GLOBAL_BOOT_STATUS_PHASE, 9)]
/-- `s` with the command `op` and the words `ws` in progress in mailbox `m`. -/
def cmd (s : State) (m op : Nat) (ws : List Word) : State :=
  setup ((mkWord [(15, 0, op), (23, 16, ws.length)] :: ws).zipIdx.foldl (fun s e => s.setReg (MB_CMD m e.2) e.1) s)
    [(MB_STATUS_BUSY m, 1), (MB_STATUS_VER_MAJOR m, 1), (MB_STATUS_VER_MINOR m, 2)]
/-- The selector word of a command: partition, index and count (R393). -/
def sel (part idx count : Nat) : Word := mkWord [(4, 0, part), (31, 8, idx), (63, 32, count)]
/-- The live block as endpoint 1, with window 0 of partition 0 on page 0, a page of kind `k`. -/
def mapped (k : Nat) : State :=
  { setup live [(XLAT_EP_SELF_SELF_ID, 1)] with
    xl := { live.xl with winDir := [(0, mkWord [(0, 0, 1), (4, 1, 15), (20, 8, 1)])],
                         page0 := [(0, mkWord [(0, 0, 1), (4, 1, 15), (7, 5, k)])] } }
/-- A register as one field. -/
def whole (k : Key) : Fld := ⟨k, 63, 0⟩
/-- A running step of partition 0 with descriptor words `ws`. -/
def stepOf (ws : List Word) (phase : Nat) : Step := ⟨0, 0, 0, 0, ws, true, 0, 0, 0, 0, 0, 0, none, 0, phase, 0⟩
/-- `s` with the one running step `x`. -/
def withStep (s : State) (x : Step) : State := { s with st := { s.st with steps := [x] } }
/-- A fetched descriptor with words `ws`. -/
def descOf (ws : List Word) : Desc := ⟨0, ws, true, false, 0, none, false⟩
/-- `s` with the step `x` at the head of the Tun. -/
def withJob (s : State) (x : Step) : State := { withStep s x with tu := { s.tu with jobs := [0] } }
/-- A slice load of slice 255 from the module's own `HBM`, of one row of 64 elements, with word 2 `w`. -/
def loadOf (w : Word) (started : Bool) (fail : Option (Nat × Bool)) : SliceLoad :=
  ⟨0, 0, 0, 0, [0, faMake 1 0, w, mkWord [(7, 0, 255), (14, 11, 1)], mkWord [(16, 0, 1), (33, 17, 64)]], started, 0, 0, [], 0, fail, [], []⟩
/-- A block with one slice load. -/
def withLoad (l : SliceLoad) : State := { mapped 0 with tu := { live.tu with loads := [l] } }
/-- A request of opcode `op` from endpoint 2 at address 0 of endpoint 1. -/
def pktOf (op : Nat) (w3 : Word) (payload : List Byte) : Pkt :=
  ReqForm.pkt { opcode := op, part := 0, src := 2, dst := 1, addr := faMake 1 0, w3 := w3, payload := payload }
/-- `s` with the packet `p` at the front of the end-point block. -/
def atEp (s : State) (p : Pkt) : State := { s with xb := { s.xb with epIn := [⟨98, p⟩] } }
/-- The piece of page 0 of `mapped 0` that `len` bytes at its start take. -/
def pieceOf (len : Nat) : Piece := ⟨0, len, 0, 0, 0, [.dir 0, .page 0]⟩
/-- An operation of kind `k` at the home for the packet `p`. -/
def opOf (k : Nat) (p : Pkt) : HOp := ⟨0, p, .request, k, 0, 0, [], [0], [], 0⟩
/-- A live block whose line 0 holds the operation `o` and waits as `w` says. -/
def atHome (o : HOp) (w : LineWait) : State := { live with tr := { live.tr with ops := [(0, o)], lines := [⟨0, [0], w⟩] } }
/-- A tracker entry for issuer `i`. -/
def entryOf (i : Issuer) : TEntry := ⟨0, 0, 0, 2, 0xFFFF, none, 1, 0, false, false, i⟩
/-- The live block as endpoint 1 with tag 0 in the tracker. -/
def tracked (e : TEntry) : State := { mapped 0 with tr := { live.tr with entries := [(0, e)] } }
/-- A reply of opcode `op` with status `st`. -/
def replyOf (op st : Nat) : Pkt := Pkt.reply (ReqForm.pkt { opcode := 1, part := 0, src := 1, dst := 2, addr := 0 }) 2 op st [] 0
/-- A running thread whose x1 and x2 hold `a` and `b`. -/
def threadOf (a b : Word) : ThreadSt := { thread0 with running := true, regs := [(1, a), (2, b)] }
/-- `s` with thread 31 of core 1023 as `h`. -/
def seqs (s : State) (h : ThreadSt) : State := s.setThread 1023 31 h
/-- The live block with its reset logic as `f` makes it. -/
def resetting (f : ResetU → ResetU) : State := { live with rs := f live.rs }
/-- The live block with its Cask as `f` makes it, and running. -/
def casked (f : CaskU → CaskU) : State := { live with ck := f { live.ck with running := true } }

/-- The state a command leaves. -/
def after (i : Instr) (s : State) : State :=
  match exec i s with
  | .next t => t
  | _ => s

/-! Terms that `Instr.wf` refuses, one for each of its checks. -/

theorem test_wf_bar0_offsets :
    (Instr.registerWrite 0x40001 0).wf = false ∧ (Instr.registerWrite 0x4000000 0).wf = false ∧ (Instr.rcRead 4).wf = false ∧
    (Instr.bar0BadAccess 8 8 true).wf = false ∧ (Instr.ikioRd 1).wf = false ∧ (Instr.ikioWr 2 0).wf = false ∧
    (Instr.bar0BadAccess 8 4 true).wf = true := by decide +kernel

theorem test_wf_beat_edge : (Instr.beatEdge (2 ^ 32)).wf = false ∧ (Instr.beatEdge 0).wf = true := by decide +kernel

theorem test_wf_translation :
    (Instr.translationCompletion 0 0 4096 .none).wf = false ∧ (Instr.translationCompletion 0 0 0 (.mapped 5000 true true 0)).wf = false ∧
    (Instr.atsTimeout 0 0 4096).wf = false ∧ (Instr.invalidateRequest 32 none 0 4096).wf = false ∧
    (Instr.invalidateRequest 0 none 0 64).wf = false ∧ (Instr.invalidateRequest 0 none 1 4096).wf = false ∧
    (Instr.invalidationCompletion 32).wf = false := by decide +kernel

theorem test_wf_tags : (Instr.trackerTimeout 1048576).wf = false ∧ (Instr.trackerLost 1048576).wf = false := by decide +kernel

theorem test_wf_pools :
    (Instr.poolAlloc .tun 0 ⟨0, false⟩).wf = false ∧ (Instr.poolAlloc .tun 0 ⟨1048577, true⟩).wf = false ∧ (Instr.poolRelease 0 ⟨0, false⟩).wf = false ∧
    (Instr.poolRelease 4 ⟨32, true⟩).wf = false ∧ (Instr.poolRelease 1 ⟨16383, true⟩).wf = true := by decide +kernel

theorem test_wf_chunks :
    (Instr.chunkTimeout 0 (2 ^ 30)).wf = false ∧ (Instr.stagedChunkExpire 0 (2 ^ 30)).wf = false := by decide +kernel

theorem test_wf_extents :
    (Instr.extentMoveStart 0 524288).wf = false ∧ (Instr.extentCopyDone 0 524288 .hbm).wf = false ∧ (Instr.extentCopyDone 0 0 (.failed 0)).wf = false ∧
    (Instr.extentTileRetry 0 524288).wf = false ∧ (Instr.extentSwitch 0 524288).wf = false := by decide +kernel

theorem test_wf_instructions :
    (Instr.rld 0 0 0x400B).wf = false ∧ (Instr.rst 0 0 0x000B).wf = false ∧ (Instr.ramo 0 0 0x0B).wf = false ∧
    (Instr.waitlc 0 0 0x105B).wf = false ∧ (Instr.waitbeat 0 0 0x5B).wf = false ∧ (Instr.fenceS 0 0 0x5B).wf = false ∧
    (Instr.lcset 0 0 0x5B).wf = false ∧ (Instr.lcread 0 0 0x5B).wf = false ∧ (Instr.posttile 0 0 0x5B).wf = false ∧
    (Instr.poststep 0 0 0x5B).wf = false ∧ (Instr.halt 0 0 0x5B).wf = false ∧
    (Instr.localAccess 0 0 (.load 3 true 1 1 0) false).wf = false := by decide +kernel

theorem test_wf_host :
    (Instr.hdmAccess 0 0 none true).wf = false ∧ (Instr.hdmAccess 63 2 none true).wf = false ∧
    (Instr.hdmAccess (2 ^ 64) 1 none true).wf = false ∧ (Instr.hdmAccess 0 2 (some [1]) true).wf = false ∧
    (Instr.hostSnoop (2 ^ 64)).wf = false := by decide +kernel

theorem test_wf_heat : (Instr.hotEnter [6400]).wf = false ∧ (Instr.hotExit []).wf = false ∧
    (Instr.hotEnter (List.replicate 32 6400)).wf = true := by
  decide +kernel

theorem test_wf_columns : (Instr.bringupPhaseEnd (.compute [520] 0 0)).wf = false := by decide +kernel

theorem test_wf_console :
    (Instr.ikioBaud 9600).wf = false ∧ (Instr.ikioMrd 0 0 0).wf = false ∧ (Instr.ikioMrd 0 0 257).wf = false ∧
    (Instr.ikioMwr 0 0 []).wf = false ∧ (Instr.ikioBaud 3000000).wf = true := by decide +kernel

theorem test_wf_two_wire :
    (Instr.twUndefined 3 none).wf = false ∧ (Instr.twUndefined 0x10 (some 2)).wf = false := by decide +kernel

/-! Single steps; the expected values are the cited rules' own. -/

/-- R62 gives the column POR. -/
theorem test_reset_time : State.reset.reg TIME_STATUS = 0xFFFF007F0000FF00 ∧ State.reset.reg TIME_FIBRE_ALLOW = 0x3200 := by
  decide +kernel

/-- R30: the beat number rises by one. -/
theorem test_beat_edge : (after (.beatEdge 0) live).beat = live.beat + 1 := by decide +kernel

/-- R10: a write to a register with no direct host write path is ignored. -/
theorem test_write_ignored : after (.registerWrite 0x10 0) live = live := by decide +kernel

/-- R398: a tenant mailbox that offers 1.2 gets minor 2. -/
theorem test_hello :
    (after (.mbHello 5) (cmd live 5 1 [0x0201])).get (MB_STATUS_VER_MINOR 5) = 2 ∧
    (after (.mbHello 5) (cmd live 5 1 [0x0201])).on (MB_STATUS_BUSY 5) = false := by decide +kernel

/-- R399: a command of the primary mailbox is refused in a tenant's. -/
theorem test_tenant_refused : (after (.timeConfigSet 5) (cmd live 5 0x102 [0])).reg TIME_CONFIG = live.reg TIME_CONFIG := by
  decide +kernel

/-- R329: register x0 keeps no write and reads 0, and addition is modulo 2⁶⁴ (log 20). -/
theorem test_add_wraps :
    ((after (.localAccess 1023 31 (.alu .add false 3 1 2) false) (seqs live (threadOf 0xFFFFFFFFFFFFFFFF 2))).thread 1023 31).x 3 = 1 ∧
    ((after (.localAccess 1023 31 (.alu .add false 0 1 2) false) (seqs live (threadOf 7 2))).thread 1023 31).x 0 = 0 := by
  decide +kernel

/-- R329: a compressed form advances the pc by 2, and a byte load extends its sign. -/
theorem test_load_sign :
    let s := seqs live (threadOf 0x10000 0xFF80)
    let t := after (.localAccess 1023 31 (.store 1 1 2 0) true) s
    let u := after (.localAccess 1023 31 (.load 0 false 4 1 0) false) t
    (t.thread 1023 31).pc = 2 ∧ (u.thread 1023 31).pc = 6 ∧ (u.thread 1023 31).x 4 = 0xFFFFFFFFFFFFFF80 := by decide +kernel

/-- R334: `HALT` with no posted request halts its thread. -/
theorem test_halt : ((after (.halt 1023 31 0x705B) (seqs live (threadOf 0 0))).thread 1023 31).running = false := by decide +kernel

/-- R193: a release of a free buffer is counted and changes no buffer. -/
theorem test_double_release : (after (.poolRelease 1 ⟨5, false⟩) live).pl.bufs = live.pl.bufs ∧ after (.poolRelease 1 ⟨5, false⟩) live ≠ live := by
  decide +kernel

/-- R478: the fall of the input stops the Cask. -/
theorem test_cask_power : (after .caskPowerDown (casked id)).ck.running = false := by decide +kernel

/-- R481: `TAMPER_OPEN`. -/
theorem test_tamper : (after .tamperOpen (casked id)).ck.tamper = true := by decide +kernel

/-- R542: `BYPASS` is one bit and changes nothing else. -/
theorem test_bypass : (after .tapBypass live).regs = live.regs := by decide +kernel

/-- States that meet the hypotheses of `MailboxTimeAndEndpoints`, clause by clause. -/
theorem witness_MailboxTimeAndEndpoints :
    (∃ (m : Mbx) (s : State), s.mbReady { opcode := 1, need := 1, tenant := true, naming := false, kept := true } m true ∧ bits
      (s.cmd m 1) 7 0 = 1) ∧
    (∃ (m : Mbx) (s : State), s.mbReady { primary 0x101 2 with kept := true } m true ∧ s.get TIME_STATUS_ROLE = 2 ∧ s.on
      TIME_PENDING_PEND_VALID = false) ∧
    (∃ (m : Mbx) (s : State), s.mbReady { primary 0x102 6 with kept := true } m true) ∧
    (∃ (m : Mbx) (s : State), s.mbReady (primary 0x201 3) m true ∧
      let a := s.arg m 0
     
      let b := s.arg m 1
     
      let ids := ((bits a 15 0 :: (List.range 4).map (fun i => bits b (16 * i + 15) (16 * i))) ++ [bits a 31 16]).filter
            (fun e => e != 0xFFFF)
      0 ∉ ids ∧ ids.eraseDups.length = ids.length) ∧
    (∃ (m : Mbx) (s : State), s.mbReady (primary 0x202 2) m (decide (1 ≤ bits (s.arg m 0) 31 16))) ∧
    (∃ (m : Mbx) (s : State), s.mbReady
      { primary 0x203 2 true with units := if bit (s.arg m 0) 0 then locUnits (bits (s.arg m 0) 1 1) else [] } m true) ∧
    (∃ (m : Mbx) (s : State), s.mbReady (primary 0x209 2 true) m true ∧ s.selFree m ∧ bits (s.arg m 0) 14 0 + bits (s.arg m 0)
      31 16 ≤ 32768 ∧ s.shareOverlap (s.selPart m) XLAT_PART_PAGES_FIRST XLAT_PART_PAGES_COUNT (bits (s.arg m 0) 14 0) (bits
      (s.arg m 0) 31 16) = false ∧ (∀ e ∈ s.xl.page0, pgValid e.2 = true → givenUp (s.get (XLAT_PART_PAGES_FIRST (s.selPart
      m))) (s.get (XLAT_PART_PAGES_COUNT (s.selPart m))) (bits (s.arg m 0) 14 0) (bits (s.arg m 0) 31 16) e.1 = false)) :=
  ⟨⟨32, cmd live 32 1 [0x201], by decide +kernel⟩,
    ⟨32, setup (cmd live 32 0x101 [0, 2]) [(TIME_STATUS_ROLE, 2)], by decide +kernel⟩,
    ⟨32, cmd live 32 0x102 [0, 0xFF00, 0, 0, 0, 0], by decide +kernel⟩,
    ⟨32, cmd live 32 0x201 [0, 0x50001, 0xFFFFFFFFFFFF0002], by decide +kernel⟩,
    ⟨32, cmd live 32 0x202 [0, 0x10001], by decide +kernel⟩,
    ⟨32, cmd live 32 0x203 [sel 31 0 0, 0x1003], by decide +kernel⟩,
    ⟨32, cmd live 32 0x209 [sel 0 0 0, mkWord [(31, 16, 32768)]], by decide +kernel⟩⟩

/-- States that meet the hypotheses of `MailboxWindowsAndPages`, clause by clause. -/
theorem witness_MailboxWindowsAndPages :
    (∃ (m : Mbx) (s : State),
      let n := s.selPart m
     
      let slot := s.cmdIdx m / 64
     
      let win := s.cmdIdx m % 64
     
      let c := s.cmdRun m
     
      let es := (List.range (min c 223)).map (fun i => (384 * n + 64 * slot + win + i, s.arg m i &&& dirMask))
      s.mbReady (tenant 0x204 (1 + c)) m (decide (slot ≤ 5) && decide (win + c ≤ 64)) ∧ s.selFree m ∧ (n = 0 → slot = 0 → win +
      c ≠ 64 ∧ ∀ i < c, s.lentWindow (win + i) = false) ∧ (∀ e ∈ es, s.dirOk n slot e.2 = true)) ∧
    (∃ (m : Mbx) (s : State),
      let n := s.selPart m
     
      let f := s.cmdIdx m
     
      let c := s.cmdRun m
     
      let es := (List.range (min c 223)).map (fun i => (f + i, s.arg m (2 * i) &&& pageMask, s.arg m (2 * i + 1)))
      s.mbReady { tenant 0x205 (1 + 2 * c) with units := s.pageUnits m c } m (decide (f + c ≤ 32768) && es.all (fun e => decide
      (pgKind e.2.1 ≤ 4))) ∧ s.selFree m ∧ (n = 0 → ∀ e ∈ es, s.lentPage e.1 = false) ∧ s.inPageShare n f c = true ∧ (∀ e ∈ es,
      s.pageOk n e.1 e.2.1 e.2.2 = true)) ∧
    (∃ (m : Mbx) (s : State), s.mbReady (tenant 0x206 1) m (decide (s.cmdIdx m + s.cmdRun m ≤ 32768)) ∧ s.selFree m ∧
      s.inPageShare (s.selPart m) (s.cmdIdx m) (s.cmdRun m) = true) ∧
    (∃ (m : Mbx) (s : State), s.mbReady (tenant 0x207 1) m (decide (s.cmdIdx m + s.cmdRun m ≤ 32768) && decide (2 * s.cmdRun m
      ≤ 127)) ∧ s.inPageShare (s.selPart m) (s.cmdIdx m) (s.cmdRun m) = true) ∧
    (∃ (m : Mbx) (s : State), (∃ c ∈ s.xl.changes, c.mbx = m) ∧ m.val ∉ s.hm.held ∧ (∀ c ∈ s.xl.changes, c.mbx = m → ∀ u ∈
      c.uses, s.useHeld u = false)) ∧
    (∃ (m : Mbx) (s : State) (slot : Nat),
      let a := s.arg m 0
     
      let len := bits (s.arg m 1) 31 0
     
      let write := bit (s.arg m 1) 32
     
      let r := s.translate (s.selPart m) slot (faLow a) len (if write then 2 else 1) write
      s.mbReady (tenant 0x208 3) m (decide (1 ≤ len) && decide (len ≤ 0x80000000)) ∧ s.slotOf (faEp a) = some slot ∧ faLow a %
      2 ^ 42 + len ≤ 2 ^ 42 ∧ s.partActive (s.selPart m) = true ∧ r.1.needs = []) ∧
    (∃ (m : Mbx) (s : State) (slot : Nat),
      let a := s.arg m 0
     
      let len := bits (s.arg m 1) 31 0
     
      let write := bit (s.arg m 1) 32
     
      let r := s.translate (s.selPart m) slot (faLow a) len (if write then 2 else 1) write
      s.mbReady (tenant 0x208 3) m (decide (1 ≤ len) && decide (len ≤ 0x80000000)) ∧ s.slotOf (faEp a) = some slot ∧ faLow a %
      2 ^ 42 + len ≤ 2 ^ 42 ∧ s.partActive (s.selPart m) = true ∧ r.1.needs ≠ []) :=
  ⟨⟨0, cmd live 0 0x204 [sel 0 62 1, mkWord [(0, 0, 1), (4, 1, 15), (20, 8, 1), (46, 32, 32767)]], by decide +kernel⟩,
    ⟨0, cmd live 0 0x205 [sel 0 32767 1, mkWord [(0, 0, 1), (7, 5, 2)], 0x10000 * 0x4000], by decide +kernel⟩,
    ⟨0, cmd live 0 0x206 [sel 0 0 32768], by decide +kernel⟩,
    ⟨0, cmd live 0 0x207 [sel 0 32705 63], by decide +kernel⟩,
    ⟨32, { live with xl := { live.xl with changes := [⟨32, [.dir 0]⟩] } }, by decide +kernel⟩,
    ⟨0, cmd (mapped 0) 0 0x208 [0, faMake 1 0, 0x40000000], 0, by decide +kernel⟩,
    ⟨0, cmd (setup (mapped 2) [(XLAT_ATS_CONFIG_ATS_EN, 1)]) 0 0x208 [0, faMake 1 0, 1], 0, by decide +kernel⟩⟩

/-- States that meet the hypotheses of `MailboxTrackerAndCounters`, clause by clause. -/
theorem witness_MailboxTrackerAndCounters :
    (∃ (m : Mbx) (s : State), s.mbReady (primary 0x301 2) m (bits (s.arg m 0) 47 32 != 0 && bits (s.arg m 0) 31 16 != 0 && bits
      (s.arg m 0) 15 0 != 0)) ∧
    (∃ (m : Mbx) (s : State),
      let t := s.setMask (TRACK_PART_SHARE (s.selPart m)) 0x1FFFFF (s.arg m 0)
      s.mbReady (primary 0x302 2 true) m true ∧ s.selFree m ∧ ((List.range 32).map (fun k => t.get (TRACK_PART_SHARE_COUNT
      k))).sum ≤ 1048576) ∧
    (∃ (m : Mbx) (s : State),
      let w := s.arg m 0
      s.mbReady (primary 0x303 2 true) m true ∧ s.selFree m ∧ bits w 16 0 + bits w 49 32 ≤ 131072 ∧ s.shareOverlap (s.selPart
      m) TRACK_LC_SHARE_FIRST TRACK_LC_SHARE_COUNT (bits w 16 0) (bits w 49 32) = false) ∧
    (∃ (m : Mbx) (s : State), s.mbReady (tenant 0x304 2) m true ∧ s.lcShare (s.selPart m) (s.cmdIdx m) = true) ∧
    (∃ (m : Mbx) (s : State), s.mbReady (tenant 0x305 2) m true ∧ s.lcShare (s.selPart m) (s.cmdIdx m) = true) ∧
    (∃ (m : Mbx) (s : State), s.mbReady { primary 0x306 2 with units := [GLOBAL_OPTIONS_HBM_PRESENT] } m (bits (s.arg m 0) 31
      16 != 0)) :=
  ⟨⟨32, cmd live 32 0x301 [0, 0x100010001], by decide +kernel⟩,
    ⟨32, cmd live 32 0x302 [sel 1 0 0, 0], by decide +kernel⟩,
    ⟨32, cmd live 32 0x303 [sel 0 0 0, 0x2000000000000], by decide +kernel⟩,
    ⟨0, cmd live 0 0x304 [sel 0 131071 0, 0], by decide +kernel⟩,
    ⟨0, cmd live 0 0x305 [sel 0 131071 0, 0xFFFFFFFFFFFFFFFF], by decide +kernel⟩,
    ⟨32, cmd live 32 0x306 [0, 0x1001F], by decide +kernel⟩⟩

/-- States that meet the hypotheses of `MailboxSwitchAndPools`, clause by clause. -/
theorem witness_MailboxSwitchAndPools :
    (∃ (m : Mbx) (host : Reply) (s : State) (f c : Nat) (bs : List Byte),
      let b := 1 - s.get XBAR_CONFIG_ACTIVE_BANK
     
      let es := (List.range c).zip (bytesWords c bs)
      s.mbReady { primary 0x401 3 with kept := true, units := locUnits (s.bulkLoc m), bulk := true } m (s.bulkOk m) ∧ s.on
      XBAR_STATUS_PEND = false ∧ s.on XBAR_STATUS_DRAINING = false ∧ s.loadRun m 65536 8 = some (f, c) ∧ s.bulkRead m host =
      .ok bs ∧ (∀ e ∈ es, s.routeOk b (f + e.1) e.2 = true)) ∧
    (∃ (m : Mbx) (host : Reply) (s : State) (f c : Nat) (bs : List Byte),
      let b := 1 - s.get XBAR_CONFIG_ACTIVE_BANK
     
      let t := ((List.range (2 * c)).zip (bytesWords (2 * c) bs)).foldl (fun s e =>
            let w : Word := if e.1 % 2 = 1 then e.2 &&& 0xFFFFFFFF else e.2
          { s with xb := { s.xb with groups := mset 0 s.xb.groups (512 * b + 2 * f + e.1) w } }) s
      s.mbReady { primary 0x402 3 with kept := true, units := locUnits (s.bulkLoc m), bulk := true } m (s.bulkOk m) ∧ s.on
      XBAR_STATUS_PEND = false ∧ s.on XBAR_STATUS_DRAINING = false ∧ s.loadRun m 256 16 = some (f, c) ∧ s.bulkRead m host = .ok
      bs ∧ (∀ e ∈ t.xb.routes, e.1 / 65536 = b → bit e.2 0 = true → bit e.2 1 = false → t.groupFull b (bits e.2 23 16) = true))
      ∧
    (∃ (m : Mbx) (s : State), s.mbReady { primary 0x403 2 with kept := true } m true ∧ s.on XBAR_STATUS_PEND = false ∧ s.beat +
      1 < (s.arg m 0).toNat ∧ s.locked = true) ∧
    (∃ (m : Mbx) (s : State),
      let w := s.arg m 0
      s.mbReady { primary 0x404 2 with kept := true } m (bits w 63 48 != 0 && decide (bits w 47 30 ≤ 131072) && bits w 29 20 !=
      0)) ∧
    (∃ (m : Mbx) (s : State), s.mbReady { primary 0x405 2 with kept := true } m (decide (s.cmdIdx m < 98) && (decide (bits
      (s.arg m 0) 4 2 < 4) || bits (s.arg m 0) 4 2 == 7))) ∧
    (∃ (m : Mbx) (s : State), s.mbReady { primary 0x406 2 with kept := true, units := poolUnits (s.cmdIdx m) } m (decide
      (s.cmdIdx m < 5))) ∧
    (∃ (m : Mbx) (s : State), s.mbReady { primary 0x407 2 true with kept := true } m true ∧ s.selFree m) :=
  ⟨⟨32, .ok [], cmd live 32 0x401 [sel 0 65535 1, 0, 8], 65535, 1, List.replicate 8 0, by decide +kernel⟩,
    ⟨32, .ok [], cmd live 32 0x402 [sel 0 255 1, 0, 16], 255, 1, List.replicate 16 0, by decide +kernel⟩,
    ⟨32, setup (cmd live 32 0x403 [0, 2]) [(TIME_STATUS_LOCKED, 1)], by decide +kernel⟩,
    ⟨32, cmd live 32 0x404 [0, mkWord [(63, 48, 1), (47, 30, 131072), (29, 20, 1)]], by decide +kernel⟩,
    ⟨32, cmd live 32 0x405 [sel 0 97 0, 28], by decide +kernel⟩,
    ⟨32, cmd live 32 0x406 [sel 0 4 0, 0], by decide +kernel⟩,
    ⟨32, cmd live 32 0x407 [sel 31 0 0, 0], by decide +kernel⟩⟩

/-- States that meet the hypotheses of `MailboxCollectives`, clause by clause. -/
theorem witness_MailboxCollectives :
    (∃ (m : Mbx) (s : State), s.mbReady (primary 0x501 3).rdx m (bits (s.arg m 0) 31 16 != 0 && decide (1 ≤ (s.arg m 1).toNat)
      && decide ((s.arg m 1).toNat ≤ 63))) ∧
    (∃ (m : Mbx) (s : State),
      let f := s.cmdIdx m
     
      let c := s.cmdCount m
      s.mbReady (tenant 0x502 (1 + cdiv c 4)).rdx m (decide (f + c ≤ 16384) && decide (c ≤ 888)) ∧ s.selFree m ∧ (∀ g < 256,
      s.get (RDX_COLL_A_STATE g) = 1 → overlaps f c (s.get (RDX_COLL_B_MEMBER_BASE g)) (s.get (RDX_COLL_B_MEMBERS g)) = false))
      ∧
    (∃ (m : Mbx) (s : State),
      let n := s.selPart m
     
      let g := s.cmdIdx m
     
      let w := s.rowWords m
      s.mbReady (tenant 0x503 4).rdx m (decide (g < 256) && w.ok (s.cmdLen m)) ∧ s.selFree m ∧ s.get (RDX_COLL_A_STATE g) = 0 ∧
      mget 0 s.ra.quarantine (32 * bits w.a 59 48 + n) ≤ s.edge ∧ s.get (RDX_COLL_PART_USE_ROWS n) < s.get
      (RDX_COLL_PART_LIMIT_ROWS n) ∧ s.rowFits n g w = true) ∧
    (∃ (m : Mbx) (s : State),
      let g := s.cmdIdx m
      s.mbReady (tenant 0x504 1).rdx m (decide (g < 256)) ∧ s.selFree m ∧ s.get (RDX_COLL_A_STATE g) = 1 ∧ s.get
      (RDX_COLL_A_PARTITION g) = s.selPart m) ∧
    (∃ (m : Mbx) (s : State),
      let n := s.selPart m
     
      let g := s.cmdIdx m
     
      let w := s.rowWords m
      s.mbReady (tenant 0x505 4).rdx m (decide (g < 256) && w.ok (s.cmdLen m)) ∧ s.selFree m ∧ s.get (RDX_COLL_A_STATE g) = 2 ∧
      s.get (RDX_COLL_A_PARTITION g) = n ∧ s.get TRACK_CONFIG_LOST_WAIT ≤ (s.beat + 2 ^ 40 - s.get (RDX_COLL_SUSPEND_BEAT g)) %
      2 ^ 40 ∧ s.rowFits n g w = true) ∧
    (∃ (m : Mbx) (s : State),
      let n := s.selPart m
     
      let g := s.cmdIdx m
      s.mbReady (tenant 0x506 1).rdx m (decide (g < 256)) ∧ s.selFree m ∧ s.get (RDX_COLL_A_STATE g) ≠ 0 ∧ s.get
      (RDX_COLL_A_PARTITION g) = n ∧ s.rowBusy n g = false) ∧
    (∃ (m : Mbx) (s : State),
      let g := s.cmdIdx m
     
      let w := bits (s.arg m 0) 16 11
      s.mbReady { (tenant 0x507 3).rdx with minor := 2 } m (decide (g < 256) && w != 0) ∧ s.selFree m ∧ s.get (RDX_COLL_A_STATE
      g) ≠ 0 ∧ s.get (RDX_COLL_A_PARTITION g) = s.selPart m) ∧
    (∃ (m : Mbx) (s : State), s.mbReady (primary 0x50B 2 true).rdx m (decide (bits (s.arg m 0) 44 32 ≤ 4096) && decide (bits
      (s.arg m 0) 8 0 ≤ 256)) ∧ s.selFree m) ∧
    (∃ (m : Mbx) (s : State),
      let n := s.selPart m
     
      let g := s.cmdIdx m
     
      let c := bits (s.arg m 0) 18 12
     
      let w0 := setBits (setBits (s.arg m 0 &&& 0x1FFFFFFFFFFFFFFF) 5 1 n) 59 48 g
     
      let ws := w0 :: (List.range (cdiv (min c 96) 2)).map (fun i => s.arg m (1 + i) &&& 0xFFFF007FFFFF007F)
      s.mbReady (tenant 0x508 (1 + mcWords c)).rdx m (decide (g < 4096) && decide (c ≤ 96) && (List.range (min c 96)).all (fun
      i => mcChildBelow ws i != 0) && decide (1 ≤ bits w0 31 25) && decide (bits w0 31 25 ≤ 102)) ∧ s.selFree m ∧ mcValid (wd
      (s.mcEntry n g) 0) = false ∧ s.mcOk ws = true ∧ s.get (RDX_COLL_PART_USE_MC n) < s.get (RDX_COLL_PART_LIMIT_MC n) ∧ bit
      w0 0 = true) ∧
    (∃ (m : Mbx) (s : State),
      let n := s.selPart m
     
      let g := s.cmdIdx m
      s.mbReady (tenant 0x509 1).rdx m (decide (g < 4096)) ∧ s.selFree m ∧ mcValid (wd (s.mcEntry n g) 0) = true) ∧
    (∃ (m : Mbx) (s : State), s.mbReady (tenant 0x50A 1).rdx m (decide (s.cmdIdx m < 4096))) :=
  ⟨⟨32, cmd live 32 0x501 [0, 0x10000, 63], by decide +kernel⟩,
    ⟨0, cmd live 0 0x502 (sel 0 15496 888 :: List.replicate 222 0), by decide +kernel⟩,
    ⟨0,
      cmd live 0 0x503 [sel 0 255 0, mkWord [(59, 48, 4095), (16, 11, 63)], mkWord [(47, 34, 8192), (33, 20, 8192), (12, 0, 4096)], 0],
      by decide +kernel⟩,
    ⟨0, setup (cmd live 0 0x504 [sel 0 255 0]) [(RDX_COLL_A_STATE 255, 1)], by decide +kernel⟩,
    ⟨0,
      setup (cmd live 0 0x505 [sel 0 255 0, mkWord [(16, 11, 1)], mkWord [(47, 34, 1), (12, 0, 1)], 0]) [(RDX_COLL_A_STATE 255, 2), (whole TIME_BEAT_NOW, 64)],
      by decide +kernel⟩,
    ⟨0, setup (cmd live 0 0x506 [sel 0 255 0]) [(RDX_COLL_A_STATE 255, 2)], by decide +kernel⟩,
    ⟨0, setup (cmd live 0 0x507 [sel 0 255 0, mkWord [(16, 11, 1)], 0]) [(RDX_COLL_A_STATE 255, 1)], by decide +kernel⟩,
    ⟨32, cmd live 32 0x50B [0, mkWord [(44, 32, 4096), (8, 0, 256)]], by decide +kernel⟩,
    ⟨0,
      cmd live 0 0x508 [sel 0 4095 0, mkWord [(0, 0, 1), (18, 12, 1), (31, 25, 102), (47, 32, 1)], mkWord [(31, 16, 1), (6, 0, 95)]],
      by decide +kernel⟩,
    ⟨0, { cmd live 0 0x509 [sel 0 4095 0] with ra := { live.ra with mc := [(32 * 4095, [1])] } }, by decide +kernel⟩,
    ⟨0, cmd live 0 0x50A [sel 0 4095 0], by decide +kernel⟩⟩

/-- States that meet the hypotheses of `MailboxTun`, clause by clause. -/
theorem witness_MailboxTun :
    (∃ (m : Mbx) (s : State),
      let n := s.selPart m
     
      let w := s.arg m 0
      s.mbReady (primary 0x601 2 true).tun m true ∧ s.selFree m ∧ bits w 11 0 + bits w 43 32 ≤ 3072 ∧ s.shareOverlap n
      TUN_PART_SHARE_FIRST TUN_PART_SHARE_COUNT (bits w 11 0) (bits w 43 32) = false ∧ (∀ e < 256, s.get (TUN_SLICE_A_STATE e)
      = 0 ∨ s.get (TUN_SLICE_A_PARTITION e) ≠ n)) ∧
    (∃ (m : Mbx) (s : State),
      let e := s.cmdIdx m
      s.mbReady (tenant 0x602 1).tun m (decide (e < 256)) ∧ s.selFree m ∧ s.get (TUN_SLICE_A_STATE e) = 2 ∧ (m.val < 32 → s.get
      (TUN_SLICE_A_PARTITION e) = s.selPart m) ∧ s.sliceNamed e = false) ∧
    (∃ (m : Mbx) (s : State),
      let e := s.cmdIdx m
      s.mbReady (tenant 0x603 1).tun m (decide (e < 256)) ∧ (m.val < 32 → s.get (TUN_SLICE_A_STATE e) = 0 ∨ s.get
      (TUN_SLICE_A_PARTITION e) = s.selPart m)) ∧
    (∃ (m : Mbx) (s : State) (g : Nat),
      let n := s.selPart m
     
      let b := s.cmdIdx m
     
      let grp := bits (s.arg m 0) 11 0
      s.mbReady { (tenant 0x604 2).tun with minor := 1 } m (decide (b < 16)) ∧ s.selFree m ∧ s.on (TUN_BIND_VALID b) = false ∧
      s.collRow n grp = some g ∧ s.get (RDX_COLL_A_STATE g) = 1 ∧ s.on (RDX_COLL_A_ROOT g) = true) ∧
    (∃ (m : Mbx) (s : State),
      let b := s.cmdIdx m
      s.mbReady { (tenant 0x605 1).tun with minor := 1 } m (decide (b < 16)) ∧ s.selFree m ∧ s.on (TUN_BIND_VALID b) = true ∧
      (m.val < 32 → s.get (TUN_BIND_PARTITION b) = s.selPart m) ∧ (∀ x ∈ s.tu.jobs.filterMap s.step?, dType (wd x.words 0) = 3
      → tjKind x.words = 2 → x.part = s.get (TUN_BIND_PARTITION b) → wb x.words 3 40 29 ≠ s.get (TUN_BIND_GROUP_ID b))) :=
  ⟨⟨32, cmd live 32 0x601 [0, mkWord [(43, 32, 3072)]], by decide +kernel⟩,
    ⟨0, setup (cmd live 0 0x602 [sel 0 255 0]) [(TUN_SLICE_A_STATE 255, 2)], by decide +kernel⟩,
    ⟨0, cmd live 0 0x603 [sel 0 255 0], by decide +kernel⟩,
    ⟨0,
      setup (cmd live 0 0x604 [sel 0 15 0, 4095]) [(RDX_COLL_A_STATE 255, 1), (RDX_COLL_A_ROOT 255, 1), (RDX_COLL_A_GROUP_ID 255, 4095)],
      255, by decide +kernel⟩,
    ⟨0, setup (cmd live 0 0x605 [sel 0 15 0]) [(TUN_BIND_VALID 15, 1)], by decide +kernel⟩⟩

/-- States that meet the hypotheses of `MailboxTiers`, clause by clause. -/
theorem witness_MailboxTiers :
    (∃ (m : Mbx) (s : State),
      let n := s.selPart m
     
      let w := s.arg m 0
      s.mbReady (primary 0x701 2 true).hbm m true ∧ s.selFree m ∧ s.runsOk w = true ∧ runsMeet w (s.reg MEM_TIER_REGION) =
      false ∧ (∀ k < 32, k ≠ n → runsMeet w (s.reg (MEM_PART_HBM k)) = false) ∧ (∀ e ∈ s.xl.page0, pgValid e.2 = true → pgKind
      e.2 = 0 → pgOwner e.2 ≠ n)) ∧
    (∃ (m : Mbx) (s : State),
      let w := s.arg m 0
      s.mbReady (primary 0x702 2).hbm m true ∧ s.runsOk w = true ∧ (∀ k < 32, runsMeet w (s.reg (MEM_PART_HBM k)) = false) ∧ (∀
      i < 8, s.get (MEM_LEND_OUT_STATE i) ≠ 1) ∧ s.usedFrames 0 = []) ∧
    (∃ (m : Mbx) (s : State), s.mbReady (primary 0x703 3).hbm m (decide ((s.arg m 1).toNat ≤ 524288)) ∧ s.usedFrames 2 = []) ∧
    (∃ (m : Mbx) (s : State),
      let n := s.selPart m
     
      let t := s.setMask (MEM_PART_QUOTA n) 0xFFFFFFFFFFFFFF (s.arg m 0)
      s.mbReady (primary 0x704 2 true).hbm m (decide (t.get (quotaF 0 n) ≤ 131072) && decide (t.get (quotaF 1 n) ≤ 131072) &&
      decide (t.get (quotaF 2 n) ≤ 524288)) ∧ s.selFree m ∧ (∀ x < 3, ((List.range 32).map (fun k => t.get (quotaF x k))).sum ≤
      s.frameCount x) ∧ (s.confidential n = true → t.get (quotaF 1 n) = 0) ∧ (∀ x < 3, s.framesOf n x false ≤ t.get (quotaF x
      n))) ∧
    (∃ (m : Mbx) (s : State),
      let n := s.selPart m
     
      let w := s.arg m 0
      s.mbReady (primary 0x705 2 true).hbm m true ∧ s.selFree m ∧ bits w 18 0 + bits w 51 32 ≤ 524288 ∧ s.shareOverlap n
      MEM_PART_EXT_FIRST MEM_PART_EXT_COUNT (bits w 18 0) (bits w 51 32) = false ∧ (∀ e ∈ s.ti.ext0, s.get (MEM_PART_EXT_FIRST
      n) ≤ e.1 → e.1 < s.get (MEM_PART_EXT_FIRST n) + s.get (MEM_PART_EXT_COUNT n) → bits e.2 2 0 = 0)) ∧
    (∃ (m : Mbx) (s : State), s.mbReady (primary 0x709 2).hbm m (bits (s.arg m 0) 31 16 != 0)) ∧
    (∃ (m : Mbx) (s : State) (es : List Nat),
      let ws := (List.range (min (s.cmdRun m) 222)).map (s.arg m)
      s.mbReady (tenant 0x706 (1 + s.cmdRun m)).hbm m (ws.all (fun w => decide (bits w 2 0 ≤ 1) && bits w 9 8 != 3)) ∧
      s.selFree m ∧ s.namedExtents m (s.selPart m) = some es ∧ (∀ e ∈ es, s.extState e < 2 ∧ s.extMoving e = false)) ∧
    (∃ (m : Mbx) (s : State) (es : List Nat), s.mbReady (tenant 0x707 1).hbm m true ∧ s.selFree m ∧ s.namedExtents m (s.selPart
      m) = some es ∧ (∀ e ∈ es, s.extMoving e = false ∧ s.extHeld e = false)) ∧
    (∃ (m : Mbx) (s : State) (es : List Nat), s.mbReady (tenant 0x708 1).hbm m (decide (s.cmdRun m ≤ 64)) ∧ s.namedExtents m
      (s.selPart m) = some es) ∧
    (∃ (m : Mbx) (s : State),
      let i := s.cmdIdx m
     
      let w := s.arg m 0
     
      let units := (List.range (bits w 22 16)).map (· + bits w 5 0)
     
      let first := s.get (XLAT_PART_PAGES_FIRST 0)
      s.mbReady { (primary 0x70A 2).hbm with minor := 1 } m (decide (i < 8) && (decide (1 ≤ bits w 22 16) && decide (bits w 22
      16 ≤ 64))) ∧ bits w 29 24 ≠ 63 ∧ s.get (MEM_LEND_OUT_STATE i) = 0 ∧ dirValid (mget 0 s.xl.winDir (bits w 29 24)) = false
      ∧ (∀ u ∈ units, u ∈ s.t1Units (bits w 13 12)) ∧ (∀ a ∈ s.usedFrames 0, ¬ (a / 2 ^ 36 = bits w 13 12 ∧ a / 2 ^ 30 % 64 ∈
      units)) ∧ (s.pick (s.get (XLAT_PART_PAGES_COUNT 0) + 1 - bits w 22 16) (fun j => (List.range (bits w 22 16)).any (fun x
      => pgValid (mget 0 s.xl.page0 (first + j + x))))).1 ≠ none) ∧
    (∃ (m : Mbx) (s : State),
      let i := s.cmdIdx m
     
      let win := s.get (MEM_LEND_OUT_WIN i)
     
      let d := mget 0 s.xl.winDir win
     
      let ps := (List.range (dirCount d)).map (· + dirFirst d)
     
      let t := ps.foldl (fun t p => t.setPage p 0 0) s
     
      let t := { t with xl := { t.xl with winDir := mset 0 t.xl.winDir win 0 } }
     
      let t := (t.setReg (MEM_LEND_OUT i) 0).tierCounts
      s.mbReady { (primary 0x70B 1).hbm with minor := 1 } m (decide (i < 8) && true) ∧ s.get (MEM_LEND_OUT_STATE i) = 1 ∧ (∀ u
      ∈ Use.dir win :: ps.map Use.page, t.useHeld u = false)) ∧
    (∃ (m : Mbx) (s : State),
      let i := s.cmdIdx m
     
      let w := s.arg m 0
      s.mbReady { (primary 0x70C 2).hbm with minor := 1 } m (decide (i < 8) && (decide (1 ≤ bits w 22 16) && decide (bits w 22
      16 ≤ 64))) ∧ s.get (MEM_LEND_IN_STATE i) = 0) ∧
    (∃ (m : Mbx) (s : State),
      let i := s.cmdIdx m
      s.mbReady { (primary 0x70D 1).hbm with minor := 1 } m (decide (i < 8) && true) ∧ s.get (MEM_LEND_IN_STATE i) ≠ 0) :=
  ⟨⟨32, setup (cmd live 32 0x701 [0, mkWord [(48 + 12, 48 + 6, 63)]]) [(MEM_HBM_STATUS_IN_SERVICE, 15)], by decide +kernel⟩,
    ⟨32, setup (cmd live 32 0x702 [0, mkWord [(48 + 12, 48 + 6, 63)]]) [(MEM_HBM_STATUS_IN_SERVICE, 15)], by decide +kernel⟩,
    ⟨32, cmd live 32 0x703 [0, 0, 524288], by decide +kernel⟩,
    ⟨32, cmd live 32 0x704 [0, 0], by decide +kernel⟩,
    ⟨32, cmd live 32 0x705 [0, mkWord [(51, 32, 524288)]], by decide +kernel⟩,
    ⟨32, cmd live 32 0x709 [0, 0x10000], by decide +kernel⟩,
    ⟨0, setup (cmd live 0 0x706 [sel 0 524287 1, 1]) [(MEM_PART_EXT_COUNT 0, 524288)], [524287], by decide +kernel⟩,
    ⟨0, setup (cmd live 0 0x707 [sel 0 524287 1]) [(MEM_PART_EXT_COUNT 0, 524288)], [524287], by decide +kernel⟩,
    ⟨0, setup (cmd live 0 0x708 [sel 0 524224 64]) [(MEM_PART_EXT_COUNT 0, 524288)], (List.range 64).map (· + 524224),
      by decide +kernel⟩,
    ⟨32,
      setup (cmd live 32 0x70A [sel 0 7 0, mkWord [(22, 16, 1), (29, 24, 62), (5, 0, 63)]]) [(MEM_HBM_STATUS_IN_SERVICE, 15), (whole MEM_TIER_REGION, 0x1000)],
      by decide +kernel⟩,
    ⟨32, setup (cmd live 32 0x70B [sel 0 7 0]) [(MEM_LEND_OUT_STATE 7, 1)], by decide +kernel⟩,
    ⟨32, cmd live 32 0x70C [sel 0 7 0, mkWord [(22, 16, 64)]], by decide +kernel⟩,
    ⟨32, setup (cmd live 32 0x70D [sel 0 7 0]) [(MEM_LEND_IN_STATE 7, 2)], by decide +kernel⟩⟩

/-- An image of no text and no data, for one thread (R341). -/
def emptyImage : List Byte :=
  wordsBytes [mkWord [(31, 0, 0x51530001), (47, 32, 1)], 0, mkWord [(37, 32, 1)], 0, BitVec.ofNat 64 (crc32 []), 0, 0, 0]
/-- A live block whose mailbox 0 loads the image, which has come from another module. -/
def loading : State :=
  let s := cmd live 0 0x802 [sel 0 1023 1, faMake 5 0, 0]
  { s with sq := { s.sq with images := [⟨0, 0, 0, (faMake 5 0).toNat, emptyImage, 64, none⟩] } }
/-- States that meet the hypotheses of `MailboxSequencersPortsRings`, clause by clause. -/
theorem witness_MailboxSequencersPortsRings :
    (∃ (m : Mbx) (s : State),
      let n := s.selPart m
     
      let w := s.arg m 0
     
      let old := s.shareCores n
     
      let new := (List.range (bits w 26 16)).map (· + bits w 9 0)
      s.mbReady (primary 0x801 2 true).seq m true ∧ s.selFree m ∧ bits w 9 0 + bits w 26 16 ≤ 1024 ∧ s.shareOverlap n
      SEQ_PART_CORES_FIRST SEQ_PART_CORES_COUNT (bits w 9 0) (bits w 26 16) = false ∧ (∀ k ∈ old ++ new, s.coreState k < 2)) ∧
    (∃ (m : Mbx) (a : Option WordFault) (s s1 s2 : State) (cs : List Nat) (hb bs : List Byte),
      let n := s.selPart m
     
      let h := bytesWords 8 hb
      s.mbReady (tenant 0x802 3).seq m true ∧ s.selFree m ∧ s.namedCores m n = some cs ∧ (∀ c ∈ cs, s.coreState c < 2) ∧
      s.imageWait m = none ∧ s.imageRead m n (s.arg m 0) 64 a = .ok hb s1 ∧ imageShape h = true ∧ s1.imageRead m n (s.arg m 0)
      (min (imageSize h) 196672) a = .ok bs s2 ∧ imageStatus h (bs.drop 64) = 0) ∧
    (∃ (m : Mbx) (s : State) (cs : List Nat), s.mbReady (tenant 0x803 1).seq m true ∧ s.selFree m ∧ s.namedCores m (s.selPart
      m) = some cs ∧ (∀ c ∈ cs, s.coreState c = 1)) ∧
    (∃ (m : Mbx) (s : State) (cs : List Nat), s.mbReady (tenant 0x804 1).seq m true ∧ s.selFree m ∧ s.namedCores m (s.selPart
      m) = some cs ∧ (∀ c ∈ cs, s.coreState c = 2)) ∧
    (∃ (m : Mbx) (s : State) (x : Nat × List Nat), s.sq.stops.find? (fun x => x.1 == m.val) = some x ∧ (∀ c ∈ x.2, s.coreState
      c ≤ 1) ∧ m.val ∉ s.hm.held) ∧
    (∃ (m : Mbx) (s : State),
      let p := s.cmdIdx m
      s.mbReady { primary 0x901 2 with kept := true, units := [⟨GLOBAL_OPTIONS, 8 + p / 8, 8 + p / 8⟩] } m (decide (p < 96) &&
      bits (s.arg m 0) 5 4 != 0) ∧ (s.portState p = 0 ∨ s.portState p = 4)) ∧
    (∃ (m : Mbx) (s : State),
      let p := s.cmdIdx m
      s.mbReady { primary 0x902 1 with kept := true, units := [⟨GLOBAL_OPTIONS, 8 + p / 8, 8 + p / 8⟩] } m (decide (p < 96) &&
      true) ∧ (s.portState p = 0 ∨ s.portState p = 4)) ∧
    (∃ (m : Mbx) (s : State),
      let p := s.cmdIdx m
      s.mbReady { primary 0x903 1 with kept := true, units := [⟨GLOBAL_OPTIONS, 8 + p / 8, 8 + p / 8⟩] } m (decide (p < 96) &&
      true) ∧ s.portState p ≠ 5) ∧
    (∃ (m : Mbx) (s : State),
      let p := s.cmdIdx m
      s.mbReady { primary 0x904 1 with kept := true, units := [⟨GLOBAL_OPTIONS, 8 + p / 8, 8 + p / 8⟩] } m (decide (p < 96) &&
      true) ∧ s.active p = true) ∧
    (∃ (m : Mbx) (a : Reply) (s : State),
      let n := s.selPart m
     
      let r := s.cmdIdx m
     
      let b := s.arg m 0
     
      let c := s.arg m 1
     
      let q := s.arg m 2
      s.mbReady { tenant 0xA01 4 with units := locUnits (bits b 1 1) ++ locUnits (bits q 1 1) } m (decide (r < 16)) ∧ s.selFree
      m ∧ 4 ≤ bits c 4 0 ∧ bits c 4 0 ≤ 16 ∧ s.ringArray n b (64 * 2 ^ bits c 4 0) = true ∧ s.ringArray n q (16 * 2 ^ bits c 4
      0) = true ∧ bits c 11 8 = 1 ∧ s.on (RING_BASE_EN n r) = false ∧ bit q 1 = false ∧ a ≠ .error) ∧
    (∃ (m : Mbx) (a : Reply) (s : State),
      let n := s.selPart m
     
      let r := s.cmdIdx m
     
      let b := s.arg m 0
     
      let c := s.arg m 1
     
      let q := s.arg m 2
      s.mbReady { tenant 0xA01 4 with units := locUnits (bits b 1 1) ++ locUnits (bits q 1 1) } m (decide (r < 16)) ∧ s.selFree
      m ∧ 4 ≤ bits c 4 0 ∧ bits c 4 0 ≤ 16 ∧ s.ringArray n b (64 * 2 ^ bits c 4 0) = true ∧ s.ringArray n q (16 * 2 ^ bits c 4
      0) = true ∧ bits c 11 8 = 1 ∧ s.on (RING_BASE_EN n r) = false ∧ bit q 1 = true ∧ s.cxlUp = true ∧ a ≠ .error) ∧
    (∃ (m : Mbx) (s : State),
      let n := s.selPart m
     
      let r := s.cmdIdx m
      s.mbReady (tenant 0xA02 1) m (decide (r < 16)) ∧ s.selFree m ∧ s.on (RING_BASE_EN n r) = true ∧ s.get
      (RING_STATUS_OUTSTANDING n r) = 0) :=
  ⟨⟨32, cmd live 32 0x801 [sel 0 0 0, mkWord [(26, 16, 1024)]], by decide +kernel⟩,
    ⟨0, none, loading, loading, loading, [1023], emptyImage, emptyImage, by decide +kernel⟩,
    ⟨0, setup (cmd live 0 0x803 [sel 0 1023 0]) [(SEQ_CORE_STATE_STATE 1023, 1)], [1023], by decide +kernel⟩,
    ⟨0, setup (cmd live 0 0x804 [sel 0 1023 0]) [(SEQ_CORE_STATE_STATE 1023, 2)], [1023], by decide +kernel⟩,
    ⟨32, { live with sq := { live.sq with stops := [(32, [0])] } }, (32, [0]), by decide +kernel⟩,
    ⟨32, cmd live 32 0x901 [sel 0 95 0, 0x10], by decide +kernel⟩,
    ⟨32, cmd live 32 0x902 [sel 0 95 0], by decide +kernel⟩,
    ⟨32, cmd live 32 0x903 [sel 0 95 0], by decide +kernel⟩,
    ⟨32, setup (cmd live 32 0x904 [sel 0 95 0]) [(PORT_STATUS_STATE 95, 3)], by decide +kernel⟩,
    ⟨0, .ok [], setup (cmd live 0 0xA01 [sel 0 15 0, 0, mkWord [(4, 0, 16), (11, 8, 1)], 0]) [(whole (MEM_PART_HBM 0), 0x40)],
      by decide +kernel⟩,
    ⟨0, .ok [], setup (cmd live 0 0xA01 [sel 0 15 0, 2, mkWord [(4, 0, 16), (11, 8, 1)], 2]) [(GLOBAL_CXL_STATUS_LINK_UP, 1)],
      by decide +kernel⟩,
    ⟨0, setup (cmd live 0 0xA02 [sel 0 15 0]) [(RING_BASE_EN 0 15, 1)], by decide +kernel⟩⟩

/-- States that meet the hypotheses of `HostAccess`, clause by clause. -/
theorem witness_HostAccess :
    (∃ (off : Nat) (v : Word) (s : State), s.on GLOBAL_BOOT_STATUS_HALTED = true) ∧
    (∃ (off : Nat) (v : Word) (s : State) (k : Key), s.hostOpen = true ∧ s.on GLOBAL_BOOT_STATUS_HALTED = false ∧ goodAccess
      off 8 = true ∧ off < barSize ∧ cxlComponent off = false ∧ s.unitAbsent off = false ∧ findReg off regAddr = some k ∧ k.id
      ∉ [(MB_CTRL 0).id, (MB_CMD 0 0).id, (RING_PROD 0 0).id, (RING_CQ_CONS 0 0).id, (RING_STATUS 0 0).id, (XLAT_FQ_CONS 0).id]
      ∧ k ≠ GLOBAL_BOOT_HOST_ADDR ∧ k ≠ GLOBAL_BOOT_HOST_LEN) ∧
    (∃ (off : Nat) (v : Word) (s : State), findReg off regAddr = none ∧ off < barSize ∧ cxlComponent off = false) ∧
    (∃ (off : Nat) (v : Word) (s : State) (k : Key), s.hostOpen = true ∧ s.on GLOBAL_BOOT_STATUS_HALTED = false ∧ goodAccess
      off 8 = true ∧ off < barSize ∧ cxlComponent off = false ∧ s.unitAbsent off = false ∧ findReg off regAddr = some k ∧ k.id
      = (MB_CMD 0 0).id) ∧
    (∃ (off : Nat) (s : State) (k : Key), s.hostOpen = true ∧ goodAccess off 8 = true ∧ off < barSize ∧ cxlComponent off =
      false ∧ s.unitAbsent off = false ∧ findReg off regAddr = some k ∧ k ≠ GLOBAL_THERMAL) ∧
    (∃ (off : Nat) (s : State) (k : Key), s.hostOpen = true ∧ goodAccess off 8 = true ∧ off < barSize ∧ cxlComponent off =
      false ∧ s.unitAbsent off = false ∧ findReg off regAddr = some k ∧ k ≠ GLOBAL_THERMAL ∧ k.id = (POOL_LOW_MARK 0).id) ∧
    (∃ (off : Nat) (s : State) (k : Key), s.hostOpen = true ∧ goodAccess off 8 = true ∧ off < barSize ∧ cxlComponent off =
      false ∧ s.unitAbsent off = false ∧ findReg off regAddr = some k ∧ k ≠ GLOBAL_THERMAL ∧ k.id ∈ [TIME_SLIP_MAX.id,
      TRACK_LINE_WAIT_MAX.id, (RDX_COLL_SPREAD_MAX 0).id]) ∧
    (∃ (off : Nat) (s : State) (k : Key), s.hostOpen = true ∧ goodAccess off 8 = true ∧ off < barSize ∧ cxlComponent off =
      false ∧ s.unitAbsent off = false ∧ findReg off regAddr = some k ∧ k ≠ GLOBAL_THERMAL ∧ k.id ∉ [(POOL_LOW_MARK 0).id,
      TIME_SLIP_MAX.id, TRACK_LINE_WAIT_MAX.id, (RDX_COLL_SPREAD_MAX 0).id]) ∧
    (∃ (off : Nat) (s : State), s.hostOpen = true ∧ goodAccess off 8 = true ∧ off < barSize ∧ cxlComponent off = false ∧
      s.unitAbsent off = true) ∧
    (∃ (off : Nat) (s : State) (v : Word), s.hostOpen = true ∧ goodAccess off 8 = true ∧ off < barSize ∧ cxlComponent off =
      false ∧ s.unitAbsent off = true) ∧
    (∃ (off width : Nat) (s : State), s.hostOpen = true ∧ goodAccess off width = false) ∧
    (∃ (o : Nat) (v : Word) (s : State), s.hostOpen = true ∧ s.on GLOBAL_BOOT_STATUS_HALTED = false ∧ o % 8 = 0 ∧ o < 0x4000) ∧
    (∃ (v : Word) (s : State), s.on GLOBAL_BOOT_STATUS_WAIT_CXL = true) :=
  ⟨⟨0, 0, setup live [(GLOBAL_BOOT_STATUS_HALTED, 1)], by decide +kernel⟩,
    ⟨0x40020, 1, setup live [(GLOBAL_CXL_STATUS_LINK_UP, 1)], TIME_STATUS, by decide +kernel⟩,
    ⟨0xFFFFF8, 1, live, by decide +kernel⟩,
    ⟨0x107F8, 1, setup live [(GLOBAL_CXL_STATUS_LINK_UP, 1)], MB_CMD 32 223, by decide +kernel⟩,
    ⟨0x40038, setup live [(GLOBAL_CXL_STATUS_LINK_UP, 1)], TIME_SLIP_MAX, by decide +kernel⟩,
    ⟨0x200228, setup live [(GLOBAL_CXL_STATUS_LINK_UP, 1)], POOL_LOW_MARK 4, by decide +kernel⟩,
    ⟨0x40038, setup live [(GLOBAL_CXL_STATUS_LINK_UP, 1)], TIME_SLIP_MAX, by decide +kernel⟩,
    ⟨0x40020, setup live [(GLOBAL_CXL_STATUS_LINK_UP, 1)], TIME_STATUS, by decide +kernel⟩,
    ⟨0x340000, setup live [(GLOBAL_CXL_STATUS_LINK_UP, 1), (GLOBAL_OPTIONS_TUN_PRESENT, 0)], by decide +kernel⟩,
    ⟨0x340000, setup live [(GLOBAL_CXL_STATUS_LINK_UP, 1), (GLOBAL_OPTIONS_TUN_PRESENT, 0)], 1, by decide +kernel⟩,
    ⟨0, 4, setup live [(GLOBAL_CXL_STATUS_LINK_UP, 1)], by decide +kernel⟩,
    ⟨0x3FF8, 0xFFFFFFFFFFFFFFFF, setup live [(GLOBAL_CXL_STATUS_LINK_UP, 1)], by decide +kernel⟩,
    ⟨0x8000000000000000, setup live [(GLOBAL_BOOT_STATUS_WAIT_CXL, 1)], by decide +kernel⟩⟩

/-- States that meet the hypotheses of `TimeBase`, clause by clause. -/
theorem witness_TimeBase :
    (∃ (d : Nat) (s : State), s.rs.por = false ∧ s.rs.level ≠ 2) ∧
    (∃ (p : Port) (a : BitVec 32) (s u : State) (f : Flit), s.takeRx p (fun x => match x with | .beat _ => true | _ => false) =
      some (.beat f, u)) ∧
    (∃ (s : State), s.locked = false ∧ s.parent ≠ 127 ∧ s.tm.lockStep = 2 ∧ 64 ≤ s.tm.goodRun) ∧
    (∃ (s : State), s.parent ≠ 127 ∧ (s.pt s.parent).heardAt + 8 ≤ s.edge) ∧
    (∃ (s : State), s.get TIME_STATUS_ROLE ≠ 2 ∧ s.parent = 127 ∧ s.tm.electing = true ∧ s.adopt.parent = 127 ∧ s.get
      TIME_CONFIG_ROOT_PRIO < 0xFF ∧ s.selfId ≠ 0xFFFF) ∧
    (∃ (s : State), s.get TIME_STATUS_ROLE = 2 ∧ s.get TIME_CONFIG_ROOT_PRIO = 0xFF) ∧
    (∃ (s : State), s.on TIME_PENDING_PEND_VALID = true ∧ s.rd TIME_PENDING_AT ≤ s.beat) ∧
    (∃ (id : Nat) (s : State) (x : Step), s.step? id = some x ∧ x.sched = true ∧ x.edge < s.edge ∧ x.slipAt < s.edge) :=
  ⟨⟨0, live, by decide +kernel⟩,
    ⟨95, 0, { live with xb := { live.xb with rx := [(95, [.beat []])] } }, live, [], by decide +kernel⟩,
    ⟨{ setup live [(TIME_STATUS_PARENT_PORT, 95)] with tm := { live.tm with lockStep := 2, goodRun := 64 } },
      by decide +kernel⟩,
    ⟨{ setup live [(TIME_STATUS_PARENT_PORT, 95)] with tm := { live.tm with edges := 8 } }, by decide +kernel⟩,
    ⟨{ setup live [(TIME_CONFIG_ROOT_PRIO, 0xFE), (XLAT_EP_SELF_SELF_ID, 1)] with tm := { live.tm with electing := true } },
      by decide +kernel⟩,
    ⟨setup live [(TIME_STATUS_ROLE, 2), (TIME_CONFIG_ROOT_PRIO, 0xFF)], by decide +kernel⟩,
    ⟨setup live [(TIME_PENDING_PEND_VALID, 1)], by decide +kernel⟩,
    ⟨0, { withStep live (stepOf [] 0) with tm := { live.tm with edges := 1 } }, stepOf [] 0, by decide +kernel⟩⟩

/-- States that meet the hypotheses of `WorkRings`, clause by clause. -/
theorem witness_WorkRings :
    (∃ (n : Part) (r : RingId) (s : State), s.mayFetch n r = true ∧ s.cqRoom n r = true) ∧
    (∃ (n : Part) (r : RingId) (bytes : List Byte) (s : State) (idx : Nat) (rest : List Nat), (s.ring n r).fetching = idx ::
      rest) ∧
    (∃ (n : Part) (r : RingId) (s : State), (s.ring n r).fetching ≠ []) ∧
    (∃ (n : Part) (r : RingId) (s : State) (c : CqRec) (rest : List CqRec), (s.ring n r).retry = c :: rest ∧ s.on
      (RING_CQ_BASE_LOC n r) = false) ∧
    (∃ (n : Part) (r : RingId) (ok : Bool) (s : State) (c : CqRec) (rest : List CqRec), (s.ring n r).retry = c :: rest ∧ s.on
      (RING_CQ_BASE_LOC n r) = true ∧ (ok && s.cxlUp) = false) ∧
    (∃ (n : Part) (r : RingId) (ok : Bool) (s : State) (c : CqRec) (rest : List CqRec), (s.ring n r).retry = c :: rest ∧ s.on
      (RING_CQ_BASE_LOC n r) = true ∧ (ok && s.cxlUp) = true) ∧
    (∃ (now : Nat) (s : State), s.admissionOpen now = true) ∧
    (∃ (n : Part) (r : RingId) (s : State) (d : Desc) (rest : List Desc), (s.ring n r).descs = d :: rest ∧ d.spent = true) ∧
    (∃ (c : Core) (t : Thread) (s : State) (scope : Nat), (s.thread c t).wait = .fence scope ∧ mget [] s.tr.held (engThread c
      t) = [] ∧ s.drained c t scope = true) ∧
    (∃ (n : Part) (r : RingId) (s : State) (d : Desc) (rest : List Desc), (s.ring n r).descs = d :: rest ∧ dFence (wd d.words
      0) = true ∧ (s.ring n r).open_ = [] ∧ (s.ring n r).retry = []) :=
  ⟨⟨31, 15, setup live [(RING_BASE_EN 31 15, 1), (RING_PROD_IDX 31 15, 1), (RING_CFG_SIZE 31 15, 4)], by decide +kernel⟩,
    ⟨31, 15, [], live.setRing 31 15 { ring0 with fetching := [0xFFFFFFFF] }, 0xFFFFFFFF, [], by decide +kernel⟩,
    ⟨31, 15, live.setRing 31 15 { ring0 with fetching := [0xFFFFFFFF] }, by decide +kernel⟩,
    ⟨31, 15, live.setRing 31 15 { ring0 with retry := [⟨0, 0, true⟩] }, ⟨0, 0, true⟩, [], by decide +kernel⟩,
    ⟨31, 15, false, setup (live.setRing 31 15 { ring0 with retry := [⟨0, 0, true⟩] }) [(RING_CQ_BASE_LOC 31 15, 1)], ⟨0, 0,
      true⟩, [], by decide +kernel⟩,
    ⟨31, 15, true,
      setup (live.setRing 31 15 { ring0 with retry := [⟨0, 0, true⟩] }) [(RING_CQ_BASE_LOC 31 15, 1), (GLOBAL_CXL_STATUS_LINK_UP, 1)],
      ⟨0, 0, true⟩, [], by decide +kernel⟩,
    ⟨0xFFFF, setup live [(TIME_STATUS_LOCKED, 1)], by decide +kernel⟩,
    ⟨31, 15, live.setRing 31 15 { ring0 with descs := [{ descOf [] with spent := true }] }, { descOf [] with spent := true },
      [], by decide +kernel⟩,
    ⟨1023, 31, live.setThread 1023 31 { thread0 with wait := .fence 3 }, 3, by decide +kernel⟩,
    ⟨31, 15, live.setRing 31 15 { ring0 with descs := [descOf [0x1000]] }, descOf [0x1000], [], by decide +kernel⟩⟩

/-- A move that a step has queued on mover 63. -/
def queuedMove : Move := newMove 63 0 (faMake 1 0) (faMake 1 64) 64 0 false false 0 (.step 0 0)
/-- States that meet the hypotheses of `MovesAndCollectives`, clause by clause. -/
theorem witness_MovesAndCollectives :
    (∃ (v : Fin 64) (s : State) (m : Move) (rest : List Move), (∀ e ∈ s.tr.moves, e.2.mover ≠ v) ∧ takeFirst (fun (x : Move) =>
      x.mover == v.val && x.ofStep) s.tr.queued = some (m, rest) ∧ s.trackRoom m.part = false) ∧
    (∃ (v : Fin 64) (s : State) (m : Move) (rest : List Move), (∀ e ∈ s.tr.moves, e.2.mover ≠ v) ∧ takeFirst (fun (x : Move) =>
      x.mover == v.val && x.ofStep) s.tr.queued = some (m, rest) ∧ s.trackRoom m.part = true ∧ faEp m.src ≠ 0 ∧ faEp m.src ≠
      0xFFFF ∧ faEp m.dst ≠ 0 ∧ faEp m.dst ≠ 0xFFFF) ∧
    (∃ (id now : Nat) (s : State) (x : Step), s.step? id = some x ∧ dType (wd x.words 0) = 1 ∧ x.phase = 1 ∧ x.outstanding = 0)
      ∧
    (∃ (id now : Nat) (s : State) (x : Step), s.step? id = some x ∧ dType (wd x.words 0) = 2 ∧ x.phase = 1 ∧ s.collDown x =
      false ∧ x.fail = none ∧ bit (wd x.words 5) 18 = false ∧ x.todo = 0 ∧ x.outstanding = 0) ∧
    (∃ (id now : Nat) (s : State) (x : Step), s.step? id = some x ∧ dType (wd x.words 0) = 2 ∧ x.phase = 1 ∧ s.collDown x =
      true) ∧
    (∃ (g : Row) (now : Nat) (s : State), s.get (RDX_COLL_A_STATE g) = 1 ∧ s.on (RDX_COLL_A_BARRIER g) = true ∧ s.cost cSCAN ≤
      now ∧ s.gatedRings g ≠ [] ∧ (∀ e ∈ s.ra.bar, e.1 ≠ g) ∧ (∀ x ∈ s.st.steps, dType (wd x.words 0) ≠ 2)) ∧
    (∃ (g : Row) (s : State) (w : BarWait), s.ra.bar.find? (fun e => e.1 == g.val) = some (g.val, w) ∧ w.edge + s.rd
      TIME_BARRIER_LIMIT ≤ s.edge) ∧
    (∃ (g : Row) (now : Nat) (s : State), (∃ e ∈ s.ra.relIn, e.1 = g)) :=
  ⟨⟨63, setup { live with tr := { live.tr with queued := [queuedMove] } } [(TRACK_PART_SHARE_COUNT 0, 0)], queuedMove, [],
      by decide +kernel⟩,
    ⟨63, { live with tr := { live.tr with queued := [queuedMove] } }, queuedMove, [], by decide +kernel⟩,
    ⟨0, 0, withStep live (stepOf [1] 1), stepOf [1] 1, by decide +kernel⟩,
    ⟨0, 0, withStep (setup live [(RDX_COLL_A_STATE 0, 1)]) (stepOf [2] 1), stepOf [2] 1, by decide +kernel⟩,
    ⟨0, 0, withStep (setup live [(RDX_COLL_A_STATE 0, 2)]) (stepOf [2] 1), stepOf [2] 1, by decide +kernel⟩,
    ⟨0, 0xFFFF,
      (setup live [(RDX_COLL_A_STATE 0, 1), (RDX_COLL_A_BARRIER 0, 1), (RDX_COLL_A_BAR_EN 0, 1)]).setRing 0 15 { ring0 with descs := [descOf [2, 0, 0, 0x4000]] },
      by decide +kernel⟩,
    ⟨255, { setup live [(whole TIME_BARRIER_LIMIT, 0)] with ra := { live.ra with bar := [(255, ⟨0, 0, 0⟩)] } }, ⟨0, 0, 0⟩,
      by decide +kernel⟩,
    ⟨255, 0, { live with ra := { live.ra with relIn := [(255, 0, 0, 0)] } }, by decide +kernel⟩⟩

/-- A slice load whose rows lie in an extent that a move has closed. -/
def closedLoad (l : SliceLoad) : State :=
  { setup (withLoad l) [(MEM_PART_EXT_COUNT 0, 1)] with
    xl := { live.xl with winDir := [(0, mkWord [(0, 0, 1), (4, 1, 15), (20, 8, 1)])],
                         page0 := [(0, mkWord [(0, 0, 1), (4, 1, 15), (7, 5, 4)])] },
    ti := { live.ti with ext0 := [(0, 2)], moves := [⟨0, 0, 0, 0, false, 4, [], [], 0, none, none, none, none, 0⟩] } }
/-- States that meet the hypotheses of `SliceLoads`, clause by clause. -/
theorem witness_SliceLoads :
    (∃ (s : State) (l : SliceLoad) (rest : List SliceLoad), s.tu.loads = l :: rest ∧ l.started = false ∧ (∀ x ∈
      s.tu.jobs.filterMap s.step?, dType (wd x.words 0) = 3 → tjSlice x.words ≠ tjSlice l.words) ∧
      let src := tunSources l.words (tjN l.words)
     
      let tr := s.runsTrans l.part (wd l.words 1).toNat src
      s.closedIn tr.pieces ≠ []) ∧
    (∃ (s : State) (l : SliceLoad) (rest : List SliceLoad) (f : _), s.tu.loads = l :: rest ∧ l.started = false ∧ (∀ x ∈
      s.tu.jobs.filterMap s.step?, dType (wd x.words 0) = 3 → tjSlice x.words ≠ tjSlice l.words) ∧
      let src := tunSources l.words (tjN l.words)
     
      let tr := s.runsTrans l.part (wd l.words 1).toNat src
      s.closedIn tr.pieces = [] ∧ decided tr.fails tr.needs = some f) ∧
    (∃ (s : State) (l : SliceLoad) (rest : List SliceLoad), s.tu.loads = l :: rest ∧ l.started = false ∧ (∀ x ∈
      s.tu.jobs.filterMap s.step?, dType (wd x.words 0) = 3 → tjSlice x.words ≠ tjSlice l.words) ∧
      let src := tunSources l.words (tjN l.words)
     
      let tr := s.runsTrans l.part (wd l.words 1).toNat src
      s.closedIn tr.pieces = [] ∧ decided tr.fails tr.needs = none ∧ s.loadDenied l = true) ∧
    (∃ (s : State) (l : SliceLoad) (rest : List SliceLoad), s.tu.loads = l :: rest ∧ l.started = false ∧ (∀ x ∈
      s.tu.jobs.filterMap s.step?, dType (wd x.words 0) = 3 → tjSlice x.words ≠ tjSlice l.words) ∧
      let src := tunSources l.words (tjN l.words)
     
      let tr := s.runsTrans l.part (wd l.words 1).toNat src
      s.closedIn tr.pieces = [] ∧ decided tr.fails tr.needs = none ∧ s.loadDenied l = false) ∧
    (∃ (a : Option WordFault) (s : State) (l : SliceLoad) (st : _), s.loadNow = some l ∧ l.fail = some (st, true)) ∧
    (∃ (a : Option WordFault) (s : State) (l : SliceLoad) (st : _), s.loadNow = some l ∧ l.fail = some (st, false)) ∧
    (∃ (a : Option WordFault) (s : State) (l : SliceLoad), s.loadNow = some l ∧ l.fail = none ∧ a ≠ none) ∧
    (∃ (a : Option WordFault) (s : State) (l : SliceLoad), s.loadNow = some l ∧ l.fail = none ∧ a = none ∧ l.waiting = 0 ∧
      l.todo = []) :=
  ⟨⟨closedLoad (loadOf 0 false none), loadOf 0 false none, [], by decide +kernel⟩,
    ⟨{ withLoad (loadOf 0 false none) with xl := {} }, loadOf 0 false none, [], ⟨0, stFAULT, some 1⟩, by decide +kernel⟩,
    ⟨withLoad (loadOf 1 false none), loadOf 1 false none, [], by decide +kernel⟩,
    ⟨withLoad (loadOf 0 false none), loadOf 0 false none, [], by decide +kernel⟩,
    ⟨some .unit, withLoad (loadOf 0 true (some (1, true))), loadOf 0 true (some (1, true)), 1, by decide +kernel⟩,
    ⟨some .unit, withLoad (loadOf 0 true (some (8, false))), loadOf 0 true (some (8, false)), 8, by decide +kernel⟩,
    ⟨some .unit, withLoad (loadOf 0 true none), loadOf 0 true none, by decide +kernel⟩,
    ⟨none, withLoad (loadOf 0 true none), loadOf 0 true none, by decide +kernel⟩⟩

/-- The words of an array job of kind `k` with one row of 64 elements. -/
def jobWords (k out : Nat) (a : Word) : List Word :=
  [3, a, faMake 2 0, mkWord [(10, 8, k), (14, 11, 1), (28, 19, 1), (53, 53, out)], mkWord [(16, 0, 1), (33, 17, 64)]]
/-- A chunk that waits for the Tun. -/
def stagedChunk : Staged := ⟨0, 0, 0, 0, 0, List.replicate 64 0, 0⟩
/-- States that meet the hypotheses of `ArrayJobs`, clause by clause. -/
theorem witness_ArrayJobs :
    (∃ (s : State) (x : Step), s.tunHead = some x ∧ dType (wd x.words 0) = 3 ∧ x.phase = 0 ∧ x.fail = none ∧ tjKind x.words =
      2) ∧
    (∃ (s : State) (x : Step), s.tunHead = some x ∧ dType (wd x.words 0) = 3 ∧ x.phase = 0 ∧ x.fail = none ∧
      let a0 := (wd x.words 1).toNat
     
      let src := tunSources x.words (tjRows x.words)
     
      let tr := s.runsTrans x.part a0 src
     
      let alien : List PageFail := (src.filter (fun r => !s.ownAddr (BitVec.ofNat 64 r.1))).map (fun r => ⟨r.1 - a0,
      stACCESS_DENIED, none⟩)
     
      let fail := runsFail { tr with fails := tr.fails ++ alien }
      tjKind x.words ≠ 2 ∧ fail = none) ∧
    (∃ (s : State) (x : Step) (f : _), s.tunHead = some x ∧ dType (wd x.words 0) = 3 ∧ x.phase = 0 ∧ x.fail = none ∧
      let a0 := (wd x.words 1).toNat
     
      let src := tunSources x.words (tjRows x.words)
     
      let tr := s.runsTrans x.part a0 src
     
      let alien : List PageFail := (src.filter (fun r => !s.ownAddr (BitVec.ofNat 64 r.1))).map (fun r => ⟨r.1 - a0,
      stACCESS_DENIED, none⟩)
     
      let fail := runsFail { tr with fails := tr.fails ++ alien }
      tjKind x.words ≠ 2 ∧ fail = some f) ∧
    (∃ (chunk : Nat) (s : State) (x : Step) (c : Staged) (rest : List Staged), s.tunHead = some x ∧ dType (wd x.words 0) = 3 ∧
      tjKind x.words = 2 ∧ x.phase = 1 ∧ x.fail = none ∧ projectPos x.words chunk < projectCount x.words ∧ (∀ c ∈ s.tu.taken,
      c.1 ≠ projectPos x.words chunk) ∧ takeFirst (fun (c : Staged) => c.grp == wb x.words 3 40 29 && c.part == x.part && c.num
      == chunk) s.tu.staged = some (c, rest)) ∧
    (∃ (g : Row) (chunk : Nat) (s : State) (c : Staged) (rest : List Staged), takeFirst (fun (c : Staged) => c.row == g.val &&
      c.num == chunk) s.tu.staged = some (c, rest) ∧ c.edge + s.get RDX_CONFIG_CHUNK_LIMIT ≤ s.edge) ∧
    (∃ (s : State) (x : Step), s.tunHead = some x ∧ dType (wd x.words 0) = 3 ∧ x.fail = none ∧ tjKind x.words ≠ 2 ∧ x.phase =
      1) ∧
    (∃ (s : State) (x : Step), s.tunHead = some x ∧ dType (wd x.words 0) = 3 ∧ x.fail = none ∧ tjKind x.words = 2 ∧
      s.projectDown x = false ∧ s.tu.taken.length = projectCount x.words ∧ tjOutKind x.words = 0 ∧ x.phase = 1) ∧
    (∃ (s : State) (x : Step), s.tunHead = some x ∧ dType (wd x.words 0) = 3 ∧ x.fail = none ∧ tjKind x.words = 2 ∧
      s.projectDown x = false ∧ s.tu.taken.length = projectCount x.words ∧ tjOutKind x.words = 1 ∧ (x.phase = 1 ∨ x.phase = 2 ∧
      0 < x.todo)) ∧
    (∃ (now : Nat) (parity : Option WordFault) (s : State) (x : Step) (rest : List Nat) (st : Nat), s.tu.jobs = x.id :: rest ∧
      s.step? x.id = some x ∧ dType (wd x.words 0) = 3 ∧ s.tunEnds x parity.isSome = some st) :=
  ⟨⟨withJob live (stepOf (jobWords 2 0 0) 0), stepOf (jobWords 2 0 0) 0, by decide +kernel⟩,
    ⟨withJob (mapped 0) (stepOf (jobWords 0 0 (faMake 1 0)) 0), stepOf (jobWords 0 0 (faMake 1 0)) 0, by decide +kernel⟩,
    ⟨withJob (mapped 0) (stepOf (jobWords 0 0 (faMake 5 0)) 0), stepOf (jobWords 0 0 (faMake 5 0)) 0, ⟨0, stACCESS_DENIED,
      none⟩, by decide +kernel⟩,
    ⟨0,
      withJob (setup { live with tu := { live.tu with staged := [stagedChunk] } } [(RDX_COLL_A_STATE 0, 1)]) (stepOf (jobWords 2 0 0) 1),
      stepOf (jobWords 2 0 0) 1, stagedChunk, [], by decide +kernel⟩,
    ⟨0, 0, { live with tu := { live.tu with staged := [stagedChunk] }, tm := { live.tm with edges := 0xFFFF } }, stagedChunk,
      [], by decide +kernel⟩,
    ⟨withJob live (stepOf (jobWords 0 0 0) 1), stepOf (jobWords 0 0 0) 1, by decide +kernel⟩,
    ⟨{ withJob (setup live [(RDX_COLL_A_STATE 0, 1)]) (stepOf (jobWords 2 0 0) 1) with tu := { live.tu with jobs := [0], taken := [(0, [])] } },
      stepOf (jobWords 2 0 0) 1, by decide +kernel⟩,
    ⟨{ withJob (setup live [(RDX_COLL_A_STATE 0, 1)]) (stepOf (jobWords 2 1 0) 1) with tu := { live.tu with jobs := [0], taken := [(0, [])] } },
      stepOf (jobWords 2 1 0) 1, ⟨by decide +kernel, by decide +kernel, by decide +kernel, by decide +kernel,
      by decide +kernel, by decide +kernel, by decide +kernel, Or.inl (by decide +kernel)⟩⟩,
    ⟨0, some .unit, withJob live (stepOf (jobWords 0 0 0) 1), stepOf (jobWords 0 0 0) 1, [], 8, by decide +kernel⟩⟩

/-- The words of an attention job of one token and one query row of 64 elements. -/
def attnWords (spread : Nat) (out w6 : Nat) : List Word :=
  [4, faMake 1 0x1000, faMake 1 0, faMake 2 0,
    mkWord [(16, 0, 1), (20, 17, 1), (29, 21, 64), (36, 30, 1), (48, 48, out), (50, 49, spread)], 0, BitVec.ofNat 64 w6]
/-- An attention job at the head of the Tun whose page list names `HBM`. -/
def attending (x : Step) : State := { withJob (mapped 0) x with hbm := writeBytes [] 0 (wordBytes (faMake 1 0x10000)) }
/-- An attention job whose one page lies in an extent that a move has closed. -/
def switching (x : Step) : State :=
  { withJob (setup (mapped 0) [(MEM_PART_EXT_COUNT 0, 1)]) x with
    xl := { live.xl with winDir := [(0, mkWord [(0, 0, 1), (4, 1, 15), (20, 8, 2)])],
                         page0 := [(0, mkWord [(0, 0, 1), (4, 1, 15)]), (1, mkWord [(0, 0, 1), (4, 1, 15), (7, 5, 4)])] },
    ti := { live.ti with ext0 := [(0, 2)], moves := [⟨0, 0, 0, 0, false, 4, [], [], 0, none, none, none, none, 0⟩] },
    hbm := writeBytes [] 0 (wordBytes (faMake 1 0x40000000)) }
/-- Its working set. -/
def attnSet : AttnWork := ⟨0, [some []], [[]], []⟩
/-- `s` with a wait of job 0 for Translation Requests. -/
def awaiting (s : State) (needs : List (Nat × Nat × Nat × Nat)) : State := { s with xl := { s.xl with waits := [⟨.job 0, needs, false, []⟩] } }
/-- An attention job whose one page lies in a host page. -/
def hostPage (x : Step) : State :=
  { withJob (setup (mapped 0) [(XLAT_ATS_CONFIG_ATS_EN, 1)]) x with
    xl := { live.xl with winDir := [(0, mkWord [(0, 0, 1), (4, 1, 15), (20, 8, 2)])],
                         page0 := [(0, mkWord [(0, 0, 1), (4, 1, 15)]), (1, mkWord [(0, 0, 1), (4, 1, 15), (7, 5, 2)])] },
    hbm := writeBytes [] 0 (wordBytes (faMake 1 0x40000000)) }
/-- States that meet the hypotheses of `AttentionJobs`, clause by clause. -/
theorem witness_AttentionJobs :
    (∃ (s : State) (x : Step) (w : AtsWait) (rest : List AtsWait), s.tunHead = some x ∧ takeFirst (fun (w : AtsWait) => w.who
      == .job x.id) s.xl.waits = some (w, rest) ∧ w.needs ≠ [] ∧ decided w.fails w.needs = none) ∧
    (∃ (r : State) (x : Step) (t : _), r.tunHead = some x ∧ dType (wd x.words 0) = 4 ∧ x.phase = 0 ∧ x.fail = none ∧ (takeFirst
      (fun (w : AtsWait) => w.who == .job x.id) r.xl.waits).all (fun m => m.1.needs.isEmpty || (decided m.1.fails
      m.1.needs).isSome) = true ∧
      let mine := takeFirst (fun (w : AtsWait) => w.who == .job x.id) r.xl.waits
     
      let host := mine.map (fun m => m.1.fails)
     
      let s : State := match mine with | some m => { r with xl := { r.xl with waits := m.2 } } | none => r
     
      let qLen := (aRows x.words - 1) * (256 * aCq x.words) + rowSpan (aFmt x.words) (aD x.words)
     
      let tp := (s.attnRun x.part (wd x.words 2) (8 * aPages x.words)).1
     
      let tq := (s.attnRun x.part (wd x.words 1) qLen).1
     
      let hold : List Piece := tp.pieces ++ tq.pieces
     
      let list := hbmPart tp.pieces
     
      let f0 : AttnFind :=
          { uses := hold.flatMap (·.uses),
            banks := list ++ (queryChunks x.words).flatMap (fun c => hbmPart (s.ownTrans x.part c.1 c.2).pieces) }
     
      let found := ((bytesWords (aPages x.words) (tp.pieces.flatMap s.pieceBytes)).mapIdx (fun i e => (i, e))).foldl
            (fun a e => a.2.resolvePage x.part x.words (x.todo == 1) host a.1 e.1 e.2) (f0, s)
      (s.attnRun x.part (wd x.words 2) (8 * aPages x.words)).2 = none ∧ (s.attnRun x.part (wd x.words 1) qLen).2 = none ∧
      found.1.ask = some t) ∧
    (∃ (r : State) (x : Step), r.tunHead = some x ∧ dType (wd x.words 0) = 4 ∧ x.phase = 0 ∧ x.fail = none ∧ (takeFirst (fun (w
      : AtsWait) => w.who == .job x.id) r.xl.waits).all (fun m => m.1.needs.isEmpty || (decided m.1.fails m.1.needs).isSome) =
      true ∧
      let mine := takeFirst (fun (w : AtsWait) => w.who == .job x.id) r.xl.waits
     
      let host := mine.map (fun m => m.1.fails)
     
      let s : State := match mine with | some m => { r with xl := { r.xl with waits := m.2 } } | none => r
     
      let qLen := (aRows x.words - 1) * (256 * aCq x.words) + rowSpan (aFmt x.words) (aD x.words)
     
      let tp := (s.attnRun x.part (wd x.words 2) (8 * aPages x.words)).1
     
      let tq := (s.attnRun x.part (wd x.words 1) qLen).1
     
      let hold : List Piece := tp.pieces ++ tq.pieces
     
      let list := hbmPart tp.pieces
     
      let f0 : AttnFind :=
          { uses := hold.flatMap (·.uses),
            banks := list ++ (queryChunks x.words).flatMap (fun c => hbmPart (s.ownTrans x.part c.1 c.2).pieces) }
     
      let found := ((bytesWords (aPages x.words) (tp.pieces.flatMap s.pieceBytes)).mapIdx (fun i e => (i, e))).foldl
            (fun a e => a.2.resolvePage x.part x.words (x.todo == 1) host a.1 e.1 e.2) (f0, s)
      (s.attnRun x.part (wd x.words 2) (8 * aPages x.words)).2 = none ∧ (s.attnRun x.part (wd x.words 1) qLen).2 = none ∧
      found.1.ask = none ∧ found.1.wait = true) ∧
    (∃ (r : State) (x : Step) (c st : _), r.tunHead = some x ∧ dType (wd x.words 0) = 4 ∧ x.phase = 0 ∧ x.fail = none ∧
      (takeFirst (fun (w : AtsWait) => w.who == .job x.id) r.xl.waits).all (fun m => m.1.needs.isEmpty || (decided m.1.fails
      m.1.needs).isSome) = true ∧
      let mine := takeFirst (fun (w : AtsWait) => w.who == .job x.id) r.xl.waits
     
      let host := mine.map (fun m => m.1.fails)
     
      let s : State := match mine with | some m => { r with xl := { r.xl with waits := m.2 } } | none => r
     
      let qLen := (aRows x.words - 1) * (256 * aCq x.words) + rowSpan (aFmt x.words) (aD x.words)
     
      let tp := (s.attnRun x.part (wd x.words 2) (8 * aPages x.words)).1
     
      let tq := (s.attnRun x.part (wd x.words 1) qLen).1
     
      let hold : List Piece := tp.pieces ++ tq.pieces
     
      let list := hbmPart tp.pieces
     
      let f0 : AttnFind :=
          { uses := hold.flatMap (·.uses),
            banks := list ++ (queryChunks x.words).flatMap (fun c => hbmPart (s.ownTrans x.part c.1 c.2).pieces) }
     
      let found := ((bytesWords (aPages x.words) (tp.pieces.flatMap s.pieceBytes)).mapIdx (fun i e => (i, e))).foldl
            (fun a e => a.2.resolvePage x.part x.words (x.todo == 1) host a.1 e.1 e.2) (f0, s)
      (s.attnRun x.part (wd x.words 2) (8 * aPages x.words)).2 = none ∧ (s.attnRun x.part (wd x.words 1) qLen).2 = none ∧
      found.1.ask = none ∧ found.1.wait = false ∧ found.1.fail = some (c, st)) ∧
    (∃ (r : State) (x : Step), r.tunHead = some x ∧ dType (wd x.words 0) = 4 ∧ x.phase = 0 ∧ x.fail = none ∧ (takeFirst (fun (w
      : AtsWait) => w.who == .job x.id) r.xl.waits).all (fun m => m.1.needs.isEmpty || (decided m.1.fails m.1.needs).isSome) =
      true ∧
      let mine := takeFirst (fun (w : AtsWait) => w.who == .job x.id) r.xl.waits
     
      let host := mine.map (fun m => m.1.fails)
     
      let s : State := match mine with | some m => { r with xl := { r.xl with waits := m.2 } } | none => r
     
      let qLen := (aRows x.words - 1) * (256 * aCq x.words) + rowSpan (aFmt x.words) (aD x.words)
     
      let tp := (s.attnRun x.part (wd x.words 2) (8 * aPages x.words)).1
     
      let tq := (s.attnRun x.part (wd x.words 1) qLen).1
     
      let hold : List Piece := tp.pieces ++ tq.pieces
     
      let list := hbmPart tp.pieces
     
      let f0 : AttnFind :=
          { uses := hold.flatMap (·.uses),
            banks := list ++ (queryChunks x.words).flatMap (fun c => hbmPart (s.ownTrans x.part c.1 c.2).pieces) }
     
      let found := ((bytesWords (aPages x.words) (tp.pieces.flatMap s.pieceBytes)).mapIdx (fun i e => (i, e))).foldl
            (fun a e => a.2.resolvePage x.part x.words (x.todo == 1) host a.1 e.1 e.2) (f0, s)
      (s.attnRun x.part (wd x.words 2) (8 * aPages x.words)).2 = none ∧ (s.attnRun x.part (wd x.words 1) qLen).2 = none ∧
      found.1.ask = none ∧ found.1.wait = false ∧ found.1.fail = none ∧
      let miss := ∃ k < 4, cdiv (attnBytes x.words) (attnSpread x.words) <
            ((found.1.banks.filter (fun (b : Nat × Nat) => b.1 == k)).map (·.2)).sum
      ¬ miss) ∧
    (∃ (r : State) (x : Step), r.tunHead = some x ∧ dType (wd x.words 0) = 4 ∧ x.phase = 0 ∧ x.fail = none ∧ (takeFirst (fun (w
      : AtsWait) => w.who == .job x.id) r.xl.waits).all (fun m => m.1.needs.isEmpty || (decided m.1.fails m.1.needs).isSome) =
      true ∧
      let mine := takeFirst (fun (w : AtsWait) => w.who == .job x.id) r.xl.waits
     
      let host := mine.map (fun m => m.1.fails)
     
      let s : State := match mine with | some m => { r with xl := { r.xl with waits := m.2 } } | none => r
     
      let qLen := (aRows x.words - 1) * (256 * aCq x.words) + rowSpan (aFmt x.words) (aD x.words)
     
      let tp := (s.attnRun x.part (wd x.words 2) (8 * aPages x.words)).1
     
      let tq := (s.attnRun x.part (wd x.words 1) qLen).1
     
      let hold : List Piece := tp.pieces ++ tq.pieces
     
      let list := hbmPart tp.pieces
     
      let f0 : AttnFind :=
          { uses := hold.flatMap (·.uses),
            banks := list ++ (queryChunks x.words).flatMap (fun c => hbmPart (s.ownTrans x.part c.1 c.2).pieces) }
     
      let found := ((bytesWords (aPages x.words) (tp.pieces.flatMap s.pieceBytes)).mapIdx (fun i e => (i, e))).foldl
            (fun a e => a.2.resolvePage x.part x.words (x.todo == 1) host a.1 e.1 e.2) (f0, s)
      (s.attnRun x.part (wd x.words 2) (8 * aPages x.words)).2 = none ∧ (s.attnRun x.part (wd x.words 1) qLen).2 = none ∧
      found.1.ask = none ∧ found.1.wait = false ∧ found.1.fail = none ∧
      let miss := ∃ k < 4, cdiv (attnBytes x.words) (attnSpread x.words) <
            ((found.1.banks.filter (fun (b : Nat × Nat) => b.1 == k)).map (·.2)).sum
      miss) ∧
    (∃ (s : State) (x : Step) (w : AttnWork) (rest : List AttnWork), s.tunHead = some x ∧ s.tu.attn = w :: rest ∧ dType (wd
      x.words 0) = 4 ∧ x.fail = none ∧ s.attnDown x = false ∧ aOutKind x.words = 0 ∧ x.phase = 1) ∧
    (∃ (s : State) (x : Step) (w : AttnWork) (rest : List AttnWork) (g : _), s.tunHead = some x ∧ s.tu.attn = w :: rest ∧ dType
      (wd x.words 0) = 4 ∧ x.fail = none ∧ s.attnDown x = false ∧ aOutKind x.words = 1 ∧ (x.phase = 1 ∨ x.phase = 2 ∧ 0 <
      x.todo) ∧ s.collRow x.part (wb x.words 6 48 37) = some g) ∧
    (∃ (now : Nat) (parity : Option (WordFault × Fin 1024)) (s : State) (x : Step) (rest : List Nat) (st c : Nat), s.tu.jobs =
      x.id :: rest ∧ s.step? x.id = some x ∧ dType (wd x.words 0) = 4 ∧ s.attnEnds x (parity.map (·.2.val)) = some (st, c)) :=
  ⟨⟨awaiting (withJob (mapped 0) (stepOf (attnWords 0 0 0) 0)) [(0, 0, 0, 0)], stepOf (attnWords 0 0 0) 0, ⟨.job 0,
      [(0, 0, 0, 0)], false, []⟩, [], by decide +kernel⟩,
    ⟨hostPage (stepOf (attnWords 0 0 0) 0), stepOf (attnWords 0 0 0) 0, ⟨[], [], [(0, 0, 0, 0)]⟩, by decide +kernel⟩,
    ⟨switching { stepOf (attnWords 0 0 0) 0 with todo := 1 }, { stepOf (attnWords 0 0 0) 0 with todo := 1 },
      by decide +kernel⟩,
    ⟨withJob (mapped 0) (stepOf (attnWords 0 0 0) 0), stepOf (attnWords 0 0 0) 0, 1, stACCESS_DENIED, by decide +kernel⟩,
    ⟨awaiting (attending (stepOf (attnWords 0 0 0) 0)) [], stepOf (attnWords 0 0 0) 0, by decide +kernel⟩,
    ⟨attending (stepOf (attnWords 3 0 0) 0), stepOf (attnWords 3 0 0) 0, by decide +kernel⟩,
    ⟨{ withJob live (stepOf (attnWords 0 0 0) 1) with tu := { live.tu with jobs := [0], attn := [attnSet] } },
      stepOf (attnWords 0 0 0) 1, attnSet, [], by decide +kernel⟩,
    ⟨{ withJob (setup live [(RDX_COLL_A_STATE 255, 1)]) (stepOf (attnWords 0 1 0) 1) with tu := { live.tu with jobs := [0], attn := [attnSet] } },
      stepOf (attnWords 0 1 0) 1, attnSet, [], 255, ⟨by decide +kernel, by decide +kernel, by decide +kernel,
      by decide +kernel, by decide +kernel, by decide +kernel, Or.inl (by decide +kernel), by decide +kernel⟩⟩,
    ⟨0, some (.unit, 7), withJob live (stepOf (attnWords 0 0 0) 1), stepOf (attnWords 0 0 0) 1, [], 8, 1796,
      by decide +kernel⟩⟩

/-- A pair whose first part is there. -/
theorem some_pair {α β γ : Type} (f : Option (α × β) × γ) (h : f.1.isSome = true) : ∃ a b u, f = (some (a, b), u) := by
  obtain ⟨x, hx⟩ := Option.isSome_iff_exists.1 h
  exact ⟨x.1, x.2, f.2, by rw [← hx]⟩
/-- A `TIER_MOVE` of partition 0 with its last extent to move, number 8190, to tier `d`. -/
def tierStepOf (d : Nat) : Step := { stepOf [5, mkWord [(18, 0, 8190), (31, 19, 1), (33, 32, d)]] 1 with todo := 1 }
/-- A block of 8,191 extents, the last of them in state `st`, with one frame in T3. -/
def extents (st : Nat) : State :=
  { setup live [(MEM_PART_EXT_COUNT 0, 8191), (whole MEM_T3_FRAMES, 1), (MEM_PART_QUOTA_T3 0, 1)] with
    ti := { live.ti with ext0 := [(8190, BitVec.ofNat 64 st)] } }
/-- A move of that extent to T1 in pass `p`. -/
def extMoveOf (p : Nat) (buf : Option (Nat × Nat)) (step : Option Nat) : ExtMove := ⟨0, 8190, 0, 0, false, p, [], [], 0, step, none, none, buf, 0⟩
/-- The block with that move under way. -/
def moving (st : Nat) (m : ExtMove) : State := { extents st with ti := { (extents st).ti with moves := [m] } }
/-- States that meet the hypotheses of `ExtentMoves`, clause by clause. -/
theorem witness_ExtentMoves :
    (∃ (n : Part) (e : Nat) (s : State) (x : Step), s.tierStep n.val e = some x ∧ s.extentAt n.val e = none) ∧
    (∃ (n : Part) (e : Nat) (s : State) (x : Step) (k : _), s.tierStep n.val e = some x ∧ s.extentAt n.val e = some k ∧
      s.extState k = 0) ∧
    (∃ (n : Part) (e : Nat) (s : State) (x : Step) (k : _), s.tierStep n.val e = some x ∧ s.extentAt n.val e = some k ∧
      s.extState k = 5) ∧
    (∃ (n : Part) (e : Nat) (s : State) (x : Step) (k : _), s.tierStep n.val e = some x ∧ s.extentAt n.val e = some k ∧
      s.extState k ≠ 0 ∧ s.extState k ≠ 5 ∧ s.extMoving k = false ∧ (tmDest x.words = 3 ∨ s.extState k = tmDest x.words + 2)) ∧
    (∃ (n : Part) (e : Nat) (s : State) (x : Step) (k : _) (fr : Nat) (sh : Bool) (u : State), s.tierStep n.val e = some x ∧
      s.extentAt n.val e = some k ∧ s.extState k ≠ 0 ∧ s.extState k ≠ 5 ∧ s.extMoving k = false ∧ tmDest x.words ≠ 3 ∧
      s.extState k ≠ tmDest x.words + 2 ∧ s.engineMoves < 8 ∧ s.awaitsFrame k = false ∧ s.obtain n.val (tmDest x.words) k (wb
      x.words 1 36 34) (tmLend x.words) = (some (fr, sh), u)) ∧
    (∃ (n : Part) (e : Nat) (a : CopyEnd) (s : State) (k : Nat) (m : ExtMove) (st : _), s.extentAt n.val e = some k ∧ s.moveOf
      k = some m ∧ m.buf ≠ none ∧ m.pass < 5 ∧ (m.pass = 4 → s.extQuiet m.entry = true) ∧ s.copyBars m = some st) ∧
    (∃ (n : Part) (e : Nat) (a : CopyEnd) (s : State) (k : Nat) (m : ExtMove) (st u : _), s.extentAt n.val e = some k ∧
      s.moveOf k = some m ∧ m.buf ≠ none ∧ m.pass < 5 ∧ (m.pass = 4 → s.extQuiet m.entry = true) ∧ s.copyBars m = none ∧
      s.copyFailed m a = some (st, u)) ∧
    (∃ (n : Part) (e : Nat) (a : CopyEnd) (s : State) (k : Nat) (m : ExtMove) (data : _), s.extentAt n.val e = some k ∧
      s.moveOf k = some m ∧ m.buf ≠ none ∧ m.pass < 5 ∧ (m.pass = 4 → s.extQuiet m.entry = true) ∧ s.copyBars m = none ∧ a =
      .ok data ∧ m.pass = 4) ∧
    (∃ (n : Part) (e : Nat) (a : CopyEnd) (s : State) (k : Nat) (m : ExtMove) (data : _), s.extentAt n.val e = some k ∧
      s.moveOf k = some m ∧ m.buf ≠ none ∧ m.pass < 5 ∧ (m.pass = 4 → s.extQuiet m.entry = true) ∧ s.copyBars m = none ∧ a =
      .ok data ∧ m.pass < 4) ∧
    (∃ (n : Part) (e : Nat) (s : State) (k : Nat) (m : ExtMove), s.extentAt n.val e = some k ∧ s.moveOf k = some m ∧ m.buf =
      none ∧ m.pass < 5) ∧
    (∃ (n : Part) (e : Nat) (s : State) (k : Nat) (m : ExtMove), s.extentAt n.val e = some k ∧ s.moveOf k = some m ∧ m.pass = 5
      ∧ m.dirty ≠ []) ∧
    (∃ (n : Part) (e : Nat) (s : State) (k : Nat) (m : ExtMove), s.extentAt n.val e = some k ∧ s.moveOf k = some m ∧
      s.switchDue m = true ∧ (s.extState m.entry = 5 ∨ s.destLost m = true)) ∧
    (∃ (n : Part) (e : Nat) (s : State) (k : Nat) (m : ExtMove), s.extentAt n.val e = some k ∧ s.moveOf k = some m ∧
      s.switchDue m = true ∧ s.extState m.entry ≠ 5 ∧ s.destLost m = false ∧ m.step = none) ∧
    (∃ (n : Part) (e : Nat) (s : State) (k : Nat) (m : ExtMove) (id y : _), s.extentAt n.val e = some k ∧ s.moveOf k = some m ∧
      s.switchDue m = true ∧ s.extState m.entry ≠ 5 ∧ s.destLost m = false ∧
      let c := s.closeMove m
     
      let w := setBits (setBits (c.ext0 m.entry) 2 0 (m.dest + 2)) 4 4 (b2n m.shared)
     
      let t := (c.setExt m.entry w (BitVec.ofNat 64 m.frame)).applyPin m.entry m.pinOp
     
      let u := if 2 ≤ s.extState m.entry ∧ s.extShared m.entry = false then t.promote m.part (s.extState m.entry - 2) else t
     
      let v := u.tierCounts.bump MEM_MOVE_COUNT
      m.step = some id ∧ v.step? id = some y) ∧
    (∃ (id : Nat) (s : State) (x : Step), s.step? id = some x ∧ dType (wd x.words 0) = 5 ∧ x.phase = 1 ∧ x.todo = 0 ∧
      x.outstanding = 0) :=
  ⟨⟨0, 8190, withStep live (tierStepOf 0), tierStepOf 0, by decide +kernel⟩,
    ⟨0, 8190, withStep (extents 0) (tierStepOf 0), tierStepOf 0, 8190, by decide +kernel⟩,
    ⟨0, 8190, withStep (extents 5) (tierStepOf 0), tierStepOf 0, 8190, by decide +kernel⟩,
    ⟨0, 8190, withStep (extents 2) (tierStepOf 0), tierStepOf 0, 8190, by decide +kernel⟩,
(by
      obtain ⟨fr, sh, u, h⟩ := some_pair ((withStep (extents 2) (tierStepOf 2)).obtain (0 : Part).val
        (tmDest (tierStepOf 2).words) 8190 (wb (tierStepOf 2).words 1 36 34) (tmLend (tierStepOf 2).words)) (by decide +kernel)
      exact ⟨0, 8190, withStep (extents 2) (tierStepOf 2), tierStepOf 2, 8190, fr, sh, u, by decide +kernel,
      by decide +kernel,
        by decide +kernel, by decide +kernel, by decide +kernel, by decide +kernel, by decide +kernel, by decide +kernel,
        by decide +kernel, h⟩),
    ⟨0, 8190, .hbm, moving 5 (extMoveOf 0 (some (0, 0)) none), 8190, extMoveOf 0 (some (0, 0)) none, 3, by decide +kernel⟩,
    ⟨0, 8190, .hbm, moving 2 (extMoveOf 0 (some (0, 0)) none), 8190, extMoveOf 0 (some (0, 0)) none, 8,
      (moving 2 (extMoveOf 0 (some (0, 0)) none)).hbmUncorr 0, by decide +kernel⟩,
    ⟨0, 8190, .ok [], moving 2 (extMoveOf 4 (some (0, 0)) none), 8190, extMoveOf 4 (some (0, 0)) none, [], by decide +kernel⟩,
    ⟨0, 8190, .ok [], moving 2 (extMoveOf 3 (some (0, 0)) none), 8190, extMoveOf 3 (some (0, 0)) none, [], by decide +kernel⟩,
    ⟨0, 8190, moving 2 (extMoveOf 4 none none), 8190, extMoveOf 4 none none, by decide +kernel⟩,
    ⟨0, 8190, moving 2 { extMoveOf 5 none none with dirty := [511] }, 8190, { extMoveOf 5 none none with dirty := [511] },
      by decide +kernel⟩,
    ⟨0, 8190, moving 5 (extMoveOf 4 none none), 8190, extMoveOf 4 none none, by decide +kernel⟩,
    ⟨0, 8190, moving 3 (extMoveOf 4 none none), 8190, extMoveOf 4 none none, by decide +kernel⟩,
    ⟨0, 8190, withStep (moving 3 (extMoveOf 5 none (some 0))) (tierStepOf 0), 8190, extMoveOf 5 none (some 0), 0,
      tierStepOf 0, by decide +kernel⟩,
    ⟨0, withStep live (stepOf [5] 1), stepOf [5] 1, by decide +kernel⟩⟩

/-- A grant of 64 bytes to endpoint 2. -/
def grantOf (side : Nat) (written : Nat) (closing : Option Pkt) : Grant :=
  ⟨0, 2, 0, 0, 0, faMake 1 0, side, 64, written, 0, closing, 0, [], [pieceOf 64]⟩
/-- The block with that grant under handle 65535, and the packet `p` at the front. -/
def granted (g : Grant) (p : Pkt) : State := { atEp (mapped 0) p with tr := { live.tr with grants := [(65535, g)] } }
/-- States that meet the hypotheses of `RequestsAtTheOwner`, clause by clause. -/
theorem witness_RequestsAtTheOwner :
    (∃ (s u v : State) (p : Pkt) (c : Piece) (cs : List Piece), u.translates p (c :: cs) v ∧ s.takes 1 p u) ∧
    (∃ (s u v : State) (p : Pkt) (c : Piece) (cs : List Piece), u.translates p (c :: cs) v ∧ s.takes 2 p u) ∧
    (∃ (s u v : State) (p : Pkt) (c : Piece) (cs : List Piece), u.translates p (c :: cs) v ∧ s.takes 3 p u) ∧
    (∃ (s u v : State) (p : Pkt) (cs : List Piece), (∀ i ∈ s.xb.epIn.head?, s.extClosed i.pkt = false) ∧ s.takes 8 p u ∧
      u.translates p cs v) ∧
    (∃ (s : State) (i : EpItem) (rest : List EpItem), s.xb.epIn = i :: rest ∧ Pkt.opcode i.pkt = 8 ∧ s.extClosed i.pkt = true) ∧
    (∃ (s u : State) (p : Pkt) (op h : Nat) (g : Grant) (c : Piece), (op = 9 ∨ op = 10) ∧ s.frontHandle = h ∧ s.takes op p u ∧
      u.fenced (Pkt.src p) = false ∧ u.tr.grants.find? (fun e => e.1 == h) = some (h, g) ∧ g.src = Pkt.src p ∧ g.part =
      Pkt.part p ∧ g.side = (if op = 10 then 1 else 0) ∧ g.addr.toNat ≤ p.w1.toNat ∧ p.w1.toNat - g.addr.toNat + Pkt.extent p ≤
      g.len ∧ u.partActive g.part = true ∧ grantPiece g (p.w1.toNat - g.addr.toNat) = some c ∧ (op = 10 ∨ (∀ i ∈
      s.xb.epIn.head?, i.port ≠ onDie) ∨ 2 ≤ c.kind)) ∧
    (∃ (s u : State) (p : Pkt) (h : Nat) (g : Grant) (c : Piece), s.frontHandle = h ∧ s.takes 9 p u ∧ u.fenced (Pkt.src p) =
      false ∧ u.tr.grants.find? (fun e => e.1 == h) = some (h, g) ∧ g.src = Pkt.src p ∧ g.part = Pkt.part p ∧ g.side = 0 ∧
      g.addr.toNat ≤ p.w1.toNat ∧ p.w1.toNat - g.addr.toNat + Pkt.extent p ≤ g.len ∧ u.partActive g.part = true ∧ grantPiece g
      (p.w1.toNat - g.addr.toNat) = some c ∧ (∀ i ∈ s.xb.epIn.head?, i.port = onDie) ∧ c.kind < 2) ∧
    (∃ (s u : State) (p : Pkt) (op h : Nat), (op = 9 ∨ op = 10) ∧ s.frontHandle = h ∧ s.takes op p u ∧ u.fenced (Pkt.src p) =
      false ∧ (∀ e ∈ u.tr.grants, e.1 ≠ h) ∧ h ∈ u.tr.idled) ∧
    (∃ (s u : State) (p : Pkt) (g : Grant), s.takes 11 p u ∧ u.fenced (Pkt.src p) = false ∧ u.tr.grants.find? (fun e => e.1 ==
      Pkt.grant p) = some (Pkt.grant p, g) ∧ g.src = Pkt.src p ∧ g.part = Pkt.part p ∧ (Pkt.abort p = true ∨ g.side = 0 ∨
      g.written = g.len)) ∧
    (∃ (s u : State) (p : Pkt) (g : Grant), s.takes 11 p u ∧ u.fenced (Pkt.src p) = false ∧ u.tr.grants.find? (fun e => e.1 ==
      Pkt.grant p) = some (Pkt.grant p, g) ∧ g.src = Pkt.src p ∧ g.part = Pkt.part p ∧ Pkt.abort p = false ∧ g.side ≠ 0 ∧
      g.written ≠ g.len) ∧
    (∃ (s : State) (h : Nat) (g : Grant), s.tr.grants.find? (fun e => e.1 == h) = some (h, g) ∧ g.closing.isSome = true ∧
      g.written = g.len) ∧
    (∃ (s : State) (h : Nat) (g : Grant), s.tr.grants.find? (fun e => e.1 == h) = some (h, g) ∧ g.seen + s.get
      TRACK_CONFIG_GRANT_IDLE ≤ s.edge) :=
  ⟨⟨atEp (mapped 0) (pktOf 1 256 []), mapped 0, mapped 0, pktOf 1 256 [], pieceOf 256, [], by decide +kernel⟩,
    ⟨atEp (mapped 0) (pktOf 2 0 (List.replicate 256 0)), mapped 0, mapped 0, pktOf 2 0 (List.replicate 256 0), pieceOf 256,
      [], by decide +kernel⟩,
    ⟨atEp (mapped 0) (pktOf 3 0x10 (List.replicate 8 0)), mapped 0, mapped 0, pktOf 3 0x10 (List.replicate 8 0), pieceOf 8,
      [], by decide +kernel⟩,
    ⟨atEp (mapped 0) (pktOf 8 0x100000 []), mapped 0, mapped 0, pktOf 8 0x100000 [], [pieceOf 0x100000], by decide +kernel⟩,
    ⟨{ atEp (mapped 4) (pktOf 8 64 []) with regs := (setup (mapped 4) [(MEM_PART_EXT_COUNT 0, 1)]).regs, ti := { live.ti with ext0 := [(0, 2)], moves := [⟨0, 0, 0, 0, false, 4, [], [], 0, none, none, none, none, 0⟩] } },
      ⟨98, pktOf 8 64 []⟩, [], by decide +kernel⟩,
    ⟨{ granted (grantOf 0 0 none) (pktOf 9 0xFFFF0040 []) with xb := { live.xb with epIn := [⟨95, pktOf 9 0xFFFF0040 []⟩] } },
      { granted (grantOf 0 0 none) (pktOf 9 0xFFFF0040 []) with xb := live.xb }, pktOf 9 0xFFFF0040 [], 9, 65535,
      grantOf 0 0 none, pieceOf 64, by decide +kernel⟩,
    ⟨granted (grantOf 0 0 none) (pktOf 9 0xFFFF0040 []),
      { granted (grantOf 0 0 none) (pktOf 9 0xFFFF0040 []) with xb := live.xb }, pktOf 9 0xFFFF0040 [], 65535,
      grantOf 0 0 none, pieceOf 64, by decide +kernel⟩,
    ⟨{ atEp (mapped 0) (pktOf 10 65535 [0]) with tr := { live.tr with idled := [65535] } },
      { mapped 0 with tr := { live.tr with idled := [65535] } }, pktOf 10 65535 [0], 10, 65535, by decide +kernel⟩,
    ⟨granted (grantOf 1 64 none) (pktOf 11 65535 []), { granted (grantOf 1 64 none) (pktOf 11 65535 []) with xb := live.xb },
      pktOf 11 65535 [], grantOf 1 64 none, by decide +kernel⟩,
    ⟨granted (grantOf 1 63 none) (pktOf 11 65535 []), { granted (grantOf 1 63 none) (pktOf 11 65535 []) with xb := live.xb },
      pktOf 11 65535 [], grantOf 1 63 none, by decide +kernel⟩,
    ⟨granted (grantOf 1 64 (some (pktOf 11 65535 []))) (pktOf 11 65535 []), 65535, grantOf 1 64 (some (pktOf 11 65535 [])),
      by decide +kernel⟩,
    ⟨{ granted (grantOf 1 0 none) (pktOf 11 65535 []) with tm := { live.tm with edges := 256 } }, 65535, grantOf 1 0 none,
      by decide +kernel⟩⟩

/-- A line that agent 4 holds and is asked for. -/
def recalled : DirEntry := ⟨0, true, 16, 16, false, []⟩
/-- A block whose line 0 waits for a lender with the operation `o`. -/
def lending (o : HOp) : State :=
  { atHome o .lender with tr := { (atHome o .lender).tr with entries := [(0, entryOf (.tier 0 0))] } }
/-- States that meet the hypotheses of `LineQueues`, clause by clause. -/
theorem witness_LineQueues :
    (∃ (line ns : Nat) (s : State) (w : Nat × Nat × Nat × Nat) (rest : List (Nat × Nat × Nat × Nat)), s.lineRoom line = true ∧
      s.lineTurn line = some (w, rest) ∧ ns < 2 ^ 64) ∧
    (∃ (line : Nat) (s : State) (q : LineQ) (o : HOp), s.headOp line = some (q, o) ∧ q.wait = .none) ∧
    (∃ (line : Nat) (s : State) (q : LineQ) (o : HOp) (tag : _), s.headOp line = some (q, o) ∧ o.kind = 4 ∧ q.wait = .lender ∧
      s.lenderTag o.id line = some tag) ∧
    (∃ (line : Nat) (s : State) (q : LineQ) (o : HOp), s.headOp line = some (q, o) ∧ o.kind = 4 ∧ q.wait = .host) ∧
    (∃ (line : Nat) (agent : Fin 5) (s : State) (e : DirEntry), s.dir.find? (fun e => e.line == line) = some e ∧
      e.recalling.testBit agent = true) :=
  ⟨⟨0, 0xFFFFFFFFFFFFFFFF,
      { live with tr := { live.tr with lineWaits := [(0, 0, 0, 0)], lines := [⟨0, List.replicate 63 0, .none⟩] } },
      (0, 0, 0, 0), [], by decide +kernel⟩,
    ⟨0, atHome (opOf 0 (pktOf 1 64 [])) .none, ⟨0, [0], .none⟩, opOf 0 (pktOf 1 64 []), by decide +kernel⟩,
    ⟨0, lending (opOf 4 (pktOf 1 64 [])), ⟨0, [0], .lender⟩, opOf 4 (pktOf 1 64 []), 0, by decide +kernel⟩,
    ⟨0, atHome (opOf 4 (pktOf 1 64 [])) .host, ⟨0, [0], .host⟩, opOf 4 (pktOf 1 64 []), by decide +kernel⟩,
    ⟨0, 4, { live with dir := [recalled] }, recalled, by decide +kernel⟩⟩

/-- A live block that waits for the translation of region 0. -/
def asking : State := { live with xl := { live.xl with reqs := [(31, 0, 0)] } }
/-- States that meet the hypotheses of `HostTranslations`, clause by clause. -/
theorem witness_HostTranslations :
    (∃ (n : Part) (pasid : Nat) (va : Word) (size : Nat) (r w : Bool) (pa : Word) (s : State), (n.val, pasid, va.toNat) ∈
      s.xl.reqs ∧ (size = 2 ^ 21 ∨ size = 2 ^ 30)) ∧
    (∃ (n : Part) (pasid : Nat) (va : Word) (size : Nat) (r w : Bool) (pa : Word) (s : State), (n.val, pasid, va.toNat) ∈
      s.xl.reqs ∧ size ≠ 2 ^ 21 ∧ size ≠ 2 ^ 30) ∧
    (∃ (n : Part) (pasid : Nat) (va : Word) (s : State), (n.val, pasid, va.toNat) ∈ s.xl.reqs) ∧
    (∃ (n : Part) (pasid : Nat) (va : Word) (a : AtsAnswer) (s : State), (n.val, pasid, va.toNat) ∉ s.xl.reqs) ∧
    (∃ (itag : Nat) (s : State), (∀ i ∈ s.xl.invals, i.itag ≠ itag)) ∧
    (∃ (itag : Nat) (s : State) (i : Inval) (rest : List Inval), takeFirst (fun (i : Inval) => i.itag == itag) s.xl.invals =
      some (i, rest) ∧ (∃ u ∈ i.uses, s.useHeld u = true)) ∧
    (∃ (itag : Nat) (s : State) (i : Inval) (rest : List Inval), takeFirst (fun (i : Inval) => i.itag == itag) s.xl.invals =
      some (i, rest) ∧ (∀ u ∈ i.uses, s.useHeld u = false)) :=
  ⟨⟨31, 0, 0, 2 ^ 30, true, true, 0, asking, by decide +kernel⟩,
    ⟨31, 0, 0, 4096, true, true, 0, asking, by decide +kernel⟩,
    ⟨31, 0, 0, asking, by decide +kernel⟩,
    ⟨0, 0, 0, .error, live, by decide +kernel⟩,
    ⟨0, live, by decide +kernel⟩,
    ⟨0,
      { live with tu := { live.tu with loads := [{ loadOf 0 true none with uses := [.host 0 0 0] }] }, xl := { live.xl with invals := [⟨0, [.host 0 0 0]⟩] } },
      ⟨0, [.host 0 0 0]⟩, [], by decide +kernel⟩,
    ⟨0, { live with xl := { live.xl with invals := [⟨0, []⟩] } }, ⟨0, []⟩, [], by decide +kernel⟩⟩

/-- States that meet the hypotheses of `HomePerformsInHbm`, clause by clause. -/
theorem witness_HomePerformsInHbm :
    (∃ (line : Nat) (s : State) (q : LineQ) (o : HOp), s.headOp line = some (q, o) ∧ q.wait = .none ∧ o.kind = 0 ∧ o.src =
      .request ∧ (∀ e ∈ s.dir, e.line ≠ lineAddr line / 64) ∧ Pkt.opcode o.pkt = 1) ∧
    (∃ (line : Nat) (s : State) (q : LineQ) (o : HOp), s.headOp line = some (q, o) ∧ q.wait = .none ∧ o.kind = 0 ∧ o.src =
      .request ∧ (∀ e ∈ s.dir, e.line ≠ lineAddr line / 64) ∧ Pkt.opcode o.pkt = 2) ∧
    (∃ (line : Nat) (s : State) (q : LineQ) (o : HOp), s.headOp line = some (q, o) ∧ q.wait = .none ∧ o.kind = 0 ∧ o.src =
      .request ∧ (∀ e ∈ s.dir, e.line ≠ lineAddr line / 64) ∧ Pkt.opcode o.pkt = 3) :=
  ⟨⟨0, atHome (opOf 0 (pktOf 1 64 [])) .none, ⟨0, [0], .none⟩, opOf 0 (pktOf 1 64 []), by decide +kernel⟩,
    ⟨0, atHome (opOf 0 (pktOf 2 0 (List.replicate 64 0))) .none, ⟨0, [0], .none⟩, opOf 0 (pktOf 2 0 (List.replicate 64 0)),
      by decide +kernel⟩,
    ⟨0, atHome (opOf 0 (pktOf 3 0x10 (List.replicate 8 0))) .none, ⟨0, [0], .none⟩,
      opOf 0 (pktOf 3 0x10 (List.replicate 8 0)), by decide +kernel⟩⟩

/-- A combining entry of port 95. -/
def combOf : Comb := ⟨95, 0, pktOf 1 8 [], false, [], false, true, 0, 0⟩
/-- States that meet the hypotheses of `SwitchCore`, clause by clause. -/
theorem witness_SwitchCore :
    (∃ (p : Port) (busy : Bool) (s t : State) (q : Pkt) (r : Nat), r < 8 ∧ s.takeRx p
      (fun x => match x with | .pkt q => rank175 q == r | _ => false) = some (.pkt q, t) ∧ (∀ y : Pkt, .pkt y ∈ mget [] s.xb.rx
      p → rank175 y ≤ r) ∧
      let u := (t.returnCredit p (Pkt.channel q) (Pkt.flits q)).switchPkt p q busy
      u.cellsUsed ≤ s.get XBAR_CONFIG_CELL_RSVD) ∧
    (∃ (busy : Bool) (s : State) (q : Pkt) (rest : List Pkt) (r : Nat), r < 8 ∧ takeFirst (fun q => rank175 q == r) s.xb.out96
      = some (q, rest) ∧ (∀ y ∈ s.xb.out96, rank175 y ≤ r) ∧
      let u := ({ s with xb := { s.xb with out96 := rest } } : State).switchPkt 96 q busy
      u.cellsUsed ≤ s.get XBAR_CONFIG_CELL_RSVD) ∧
    (∃ (s : State) (p : Nat) (q : Pkt) (busy : Bool), p < 96 ∧ s.portFenced p = true) ∧
    (∃ (p : Port) (id : Nat) (s : State) (c : Comb), s.xb.comb.find? (fun c => c.port == p.val && c.id == id && !c.closed) =
      some c) ∧
    (∃ (s : State) (i : EpItem) (rest : List EpItem) (tag id port : Nat) (e : TEntry), s.xb.epIn = i :: rest ∧ Pkt.isReply
      i.pkt = true ∧ Pkt.dst i.pkt = s.selfId ∧ s.tr.entries.find? (fun e => e.1 == Pkt.tag i.pkt && e.2.gen == Pkt.gen i.pkt)
      = some (tag, e) ∧ e.issuer = .comb port id ∧ Pkt.status i.pkt ≠ 0) ∧
    (∃ (s : State) (i : EpItem) (rest : List EpItem) (tag id port : Nat) (e : TEntry), s.xb.epIn = i :: rest ∧ Pkt.isReply
      i.pkt = true ∧ Pkt.dst i.pkt = s.selfId ∧ s.tr.entries.find? (fun e => e.1 == Pkt.tag i.pkt && e.2.gen == Pkt.gen i.pkt)
      = some (tag, e) ∧ e.issuer = .comb port id ∧ Pkt.status i.pkt = 0) ∧
    (∃ (s : State), s.on XBAR_STATUS_PEND = true ∧ s.rd XBAR_EPOCH_AT ≤ s.beat) ∧
    (∃ (s : State), s.on XBAR_STATUS_DRAINING = true ∧ s.xb.switchedAt + s.get XBAR_CONFIG_EPOCH_HOLD ≤ s.edge ∧ s.rd
      XBAR_OLD_HELD = 0) :=
  ⟨⟨95, false, { live with xb := { live.xb with rx := [(95, [.pkt (pktOf 1 8 [])])] } }, live, pktOf 1 8 [], 0, by decide,
      by decide +kernel,
      fun y h => by have h : RxItem.pkt y = .pkt (pktOf 1 8 []) := List.mem_singleton.1 h; cases h; decide +kernel,
      by decide +kernel⟩,
    ⟨true, { live with xb := { live.xb with out96 := [pktOf 1 8 []] } }, pktOf 1 8 [], [], 0, by decide +kernel⟩,
    ⟨setup live [(PORT_STATUS_PEER_ID 95, 2), (HEALTH_PEER_A_STATE 0, 3), (HEALTH_PEER_A_PEER_EP 0, 2)], 95, pktOf 1 8 [],
      false, by decide +kernel⟩,
    ⟨95, 0, { live with xb := { live.xb with comb := [combOf] } }, combOf, by decide +kernel⟩,
    ⟨atEp (tracked (entryOf (.comb 95 0))) (replyOf 0x80 9), ⟨98, replyOf 0x80 9⟩, [], 0, 0, 95, entryOf (.comb 95 0),
      by decide +kernel⟩,
    ⟨atEp (tracked (entryOf (.comb 95 0))) (replyOf 0x80 0), ⟨98, replyOf 0x80 0⟩, [], 0, 0, 95, entryOf (.comb 95 0),
      by decide +kernel⟩,
    ⟨setup live [(XBAR_STATUS_PEND, 1)], by decide +kernel⟩,
    ⟨{ setup live [(XBAR_STATUS_DRAINING, 1)] with tm := { live.tm with edges := 0xFFFF } }, by decide +kernel⟩⟩

/-- States that meet the hypotheses of `RepliesAndTracker`, clause by clause. -/
theorem witness_RepliesAndTracker :
    (∃ (s u : State) (p : Pkt), (∀ i ∈ s.xb.epIn.head?, s.forComb i.pkt = false) ∧ s.takes 0x80 p u) ∧
    (∃ (s u : State) (p : Pkt), (∀ i ∈ s.xb.epIn.head?, s.forComb i.pkt = false) ∧ s.takes 0x81 p u) ∧
    (∃ (s u : State) (p : Pkt), (∀ i ∈ s.xb.epIn.head?, s.forComb i.pkt = false) ∧ s.takes 0x82 p u) ∧
    (∃ (s u : State) (p : Pkt), (∀ i ∈ s.xb.epIn.head?, s.forComb i.pkt = false) ∧ s.takes 0x83 p u) ∧
    (∃ (s u : State) (p : Pkt), (∀ i ∈ s.xb.epIn.head?, s.forComb i.pkt = false) ∧ s.takes 0x84 p u) ∧
    (∃ (u : State) (p : Pkt), u.isBootReply p = false ∧ Pkt.dst p ≠ u.selfId ∧ Pkt.dst p ≠ u.slotId 5) ∧
    (∃ (u : State) (p : Pkt), u.isBootReply p = false ∧ Pkt.dst p ≠ u.selfId ∧ Pkt.dst p = u.slotId 5) ∧
    (∃ (u : State) (p : Pkt), Pkt.dst p = u.selfId ∧ mget 0 u.tr.fwd (Pkt.tag p) = 0 ∧ (∀ e ∈ u.tr.entries, e.1 = Pkt.tag p →
      e.2.gen ≠ Pkt.gen p)) ∧
    (∃ (u : State) (p : Pkt) (e : TEntry) (c t seq : Nat) (rd : Fin 32), Pkt.dst p = u.selfId ∧ mget 0 u.tr.fwd (Pkt.tag p) = 0
      ∧ u.tr.entries.find? (fun e => e.1 == Pkt.tag p) = some (Pkt.tag p, e) ∧ e.gen = Pkt.gen p ∧ e.issuer = .thread c t seq ∧
      ((u.closeEntry (Pkt.tag p) false).thread c t).wait = .reply seq rd) ∧
    (∃ (tag : Nat) (s : State) (e : TEntry), s.tr.entries.find? (fun e => e.1 == tag) = some (tag, e) ∧ e.sent + s.get
      TRACK_CONFIG_TIMEOUT ≤ s.edge) ∧
    (∃ (tag b : Nat) (s : State) (e : TEntry), s.tr.entries.find? (fun e => e.1 == tag) = some (tag, e) ∧ e.lostAt = some b ∧ b
      + s.get TRACK_CONFIG_LOST_WAIT ≤ s.edge ∧ b + s.get TRACK_CONFIG_LOST_WAIT < e.sent + s.get TRACK_CONFIG_TIMEOUT) ∧
    (∃ (n : Part) (s : State) (p : Pkt) (c t seq : Nat) (rest : List (Pkt × Issuer)), s.trackRoom n = true ∧ takeFirst (fun (e
      : Pkt × Issuer) => s.trackPart e.1 e.2 == n.val) s.tr.stalled = some ((p, .thread c t seq), rest)) ∧
    (∃ (a : ParityPoint) (k : Nat) (s : State), k ≤ 2 ∧ (∀ p h, a ≠ .inbox p h)) ∧
    (∃ (p : Port) (h : Bool) (k : Nat) (s : State), k ≤ 2 ∧ s.active p = true) ∧
    (∃ (k : Nat) (s t : State) (p : Port) (n r : Nat) (c : Fin 2) (h : Bool) (a : ParityPoint) (q : Pkt) (put : Pkt → State), 2
      < k ∧ a ∈ [.inbox p h, .stored n h, .endPoint h, .array h, .parked n h, .held n r h, .stage c h] ∧ s.atPoint a = some (q,
      t, put) ∧ h = true) ∧
    (∃ (k : Nat) (s t : State) (p : Port) (n r : Nat) (c : Fin 2) (h : Bool) (a : ParityPoint) (q : Pkt) (put : Pkt → State), 2
      < k ∧ a ∈ [.inbox p h, .stored n h, .endPoint h, .array h, .parked n h, .held n r h, .stage c h] ∧ s.atPoint a = some (q,
      t, put) ∧ h = false ∧ q.payload ≠ [] ∧ Pkt.isReply q = false) ∧
    (∃ (k : Nat) (s t : State) (p : Port) (n r : Nat) (c : Fin 2) (h : Bool) (a : ParityPoint) (q : Pkt) (put : Pkt → State), 2
      < k ∧ a ∈ [.inbox p h, .stored n h, .endPoint h, .array h, .parked n h, .held n r h, .stage c h] ∧ s.atPoint a = some (q,
      t, put) ∧ h = false ∧ q.payload ≠ [] ∧ (Pkt.opcode q = 0x80 ∨ Pkt.opcode q = 0x82)) ∧
    (∃ (k : Nat) (s : State) (i : EpItem) (rest : List EpItem), 2 < k ∧ s.xb.epIn = i :: rest ∧ Pkt.isReply i.pkt = false ∧
      i.pkt.payload ≠ []) ∧
    (∃ (k line : Nat) (s : State) (q : LineQ) (o : HOp), 2 < k ∧ s.headOp line = some (q, o)) ∧
    (∃ (k line : Nat) (s : State) (q : LineQ) (o : HOp) (stack : Fin 4), 2 < k ∧ s.headOp line = some (q, o)) ∧
    (∃ (k line : Nat) (stack : Fin 4) (s : State), 2 < k) ∧
    (∃ (k line : Nat) (stack : Fin 4) (s : State), 2 < k ∧ s.headOp line = none) :=
  ⟨⟨atEp live (replyOf 0x80 0), live, replyOf 0x80 0, by decide +kernel⟩,
    ⟨atEp live (replyOf 0x81 0), live, replyOf 0x81 0, by decide +kernel⟩,
    ⟨atEp live (replyOf 0x82 0), live, replyOf 0x82 0, by decide +kernel⟩,
    ⟨atEp live (replyOf 0x83 0), live, replyOf 0x83 0, by decide +kernel⟩,
    ⟨atEp live (replyOf 0x84 0), live, replyOf 0x84 0, by decide +kernel⟩,
    ⟨live, replyOf 0x80 0, by decide +kernel⟩,
    ⟨setup live [(XLAT_EP_SELF_SELF_ID, 3), (XLAT_EP_SELF_HOST_ID, 1)], replyOf 0x80 0, by decide +kernel⟩,
    ⟨tracked { entryOf .ikio with gen := 15 }, replyOf 0x80 0, by decide +kernel⟩,
    ⟨(tracked (entryOf (.thread 1023 31 7))).setThread 1023 31 { thread0 with wait := .reply 7 31 }, replyOf 0x80 0,
      entryOf (.thread 1023 31 7), 1023, 31, 7, 31, by decide +kernel⟩,
    ⟨0, { tracked (entryOf .ikio) with tm := { live.tm with edges := 1024 } }, entryOf .ikio, by decide +kernel⟩,
    ⟨0, 0, { tracked { entryOf .ikio with lostAt := some 0 } with tm := { live.tm with edges := 64 } },
      { entryOf .ikio with lostAt := some 0 }, by decide +kernel⟩,
    ⟨0, { live with tr := { live.tr with stalled := [(pktOf 1 8 [], .thread 1023 31 7)] } }, pktOf 1 8 [], 1023, 31, 7, [],
      by decide +kernel⟩,
    ⟨.write 0, 2, live, by decide, nofun⟩,
    ⟨95, true, 2, setup live [(PORT_STATUS_STATE 95, 3)], by decide +kernel⟩,
    ⟨3, atEp live (pktOf 2 0 [0]), _, 0, 0, 0, 0, true, .endPoint true, _, _, by decide, by decide, rfl, rfl⟩,
    ⟨3, atEp live (pktOf 2 0 [0]), _, 0, 0, 0, 0, false, .endPoint false, _, _, by decide, by decide, rfl, rfl,
      by decide +kernel, by decide +kernel⟩,
    ⟨3, atEp live { replyOf 0x80 0 with payload := [0] }, _, 0, 0, 0, 0, false, .endPoint false, _, _, by decide, by decide,
      rfl, rfl, by decide +kernel, by decide +kernel⟩,
    ⟨3, atEp live (pktOf 2 0 [0]), ⟨98, pktOf 2 0 [0]⟩, [], by decide +kernel⟩,
    ⟨3, 0, atHome (opOf 0 (pktOf 1 64 [])) .none, ⟨0, [0], .none⟩, opOf 0 (pktOf 1 64 []), by decide +kernel⟩,
    ⟨3, 0, atHome (opOf 0 (pktOf 1 64 [])) .none, ⟨0, [0], .none⟩, opOf 0 (pktOf 1 64 []), 3, by decide +kernel⟩,
    ⟨3, 0, 0, live, by decide +kernel⟩,
    ⟨3, 0, 0, live, by decide +kernel⟩⟩

/-- A contribution of rank `r` to group 0: the sum, in mode 1, of one 8-byte element of format 8. -/
def contribOf (op r : Nat) : Pkt := pktOf op (redWord 0 2 8 0 r 0) (List.replicate 8 0)
/-- A block with the contribution in front of the array, and a group of `m` members that has no slot free. -/
def contributed (m : Nat) (p : Option Pkt) : State :=
  { setup live [(RDX_GROUP_A_STATE 0, 1), (RDX_GROUP_A_RED_OP 0, 2), (RDX_GROUP_A_FMT 0, 8), (RDX_GROUP_A_MEMBERS 0, m)] with
    xb := { live.xb with rdxIn := p.toList.map (fun p => ⟨98, p⟩) } }
/-- A block whose group of two members has a slot, and these contributions parked. -/
def parkedBlock (l : List Parked) : State :=
  { setup (contributed 2 none) [(RDX_GROUP_B_SLOTS 0, 1)] with ra := { live.ra with parked := l } }
/-- An open chunk. -/
def chunkOf : Chunk := ⟨0, 0, 0, 0, 0, false, 0, 0, 0, 0, 8, 0, [], [0], 0, [], [], none, 0⟩
/-- States that meet the hypotheses of `ContributionsAndMulticast`, clause by clause. -/
theorem witness_ContributionsAndMulticast :
    (∃ (s u v : State) (p : Pkt) (now : Nat) (b : Bool), u.contribute p now b = some v ∧ s.takeRdx 5 = some (some p, u)) ∧
    (∃ (s u v : State) (p : Pkt) (now : Nat) (b : Bool), u.contribute p now b = some v ∧ s.takeRdx 6 = some (some p, u)) ∧
    (∃ (s u : State) (p : Pkt) (now g : Nat) (b : Bool), u.isResult p = false ∧ u.fenced (Pkt.src p) = false ∧ u.fenced
      (Pkt.dst p) = false ∧ u.partActive (Pkt.part p) = true ∧ u.contribRow p = some g ∧ u.contribCheck g p ≠ 0 ∧ s.takeRdx 5 =
      some (some p, u)) ∧
    (∃ (s u : State) (p : Pkt) (now g : Nat) (b : Bool), u.isResult p = false ∧ u.fenced (Pkt.src p) = false ∧ u.fenced
      (Pkt.dst p) = false ∧ u.partActive (Pkt.part p) = true ∧ u.contribRow p = some g ∧ u.contribCheck g p ≠ 0 ∧ s.takeRdx 6 =
      some (some p, u)) ∧
    (∃ (u v : State) (p : Pkt) (now g i : Nat) (b : Bool), u.isResult p = false ∧ u.fenced (Pkt.src p) = false ∧ u.fenced
      (Pkt.dst p) = false ∧ u.partActive (Pkt.part p) = true ∧ u.contribRow p = some g ∧ u.contribCheck g p = 0 ∧ u.chunk? g
      (Pkt.chunk p) = none ∧ u.get (RDX_GROUP_B_SLOTS g) ≤ u.get (RDX_GROUP_B_SLOTS_USED g) ∧ u.poolTake 0 (Pkt.part p) (.chunk
      g (Pkt.chunk p) (Pkt.rank p)) = some (i, v)) ∧
    (∃ (g : Row) (n : Nat) (s : State) (c : Chunk), s.ra.chunks.find? (fun c => c.row == g.val && c.num == n && decide
      (c.openBeat + s.get RDX_CONFIG_CHUNK_LIMIT ≤ s.edge)) = some c) ∧
    (∃ (g : Row) (now : Nat) (bad : List Nat) (s v : State) (w : Parked) (rest : List Parked), s.ra.parked = w :: rest ∧ w.row
      = g ∧ s.get (RDX_GROUP_B_SLOTS_USED g) < s.get (RDX_GROUP_B_SLOTS g) ∧
      let t : State := { s with ra := { s.ra with parked := rest } }
      t.contribRow w.pkt = some g.val ∧ t.contribCheck g w.pkt = 0 ∧ t.joinChunk g w.pkt w.at_ (some w.cell) (bad.contains
      (Pkt.chunk w.pkt)) = some v ∧ (∀ x ∈ v.ra.parked, x.row ≠ g)) ∧
    (∃ (s u : State) (p : Pkt), s.takeRdx 4 = some (some p, u) ∧ u.fenced (Pkt.src p) = false) ∧
    (∃ (op : Nat) (s : State) (m : Mc), s.tr.mcs.find? (fun m => m.1 == op) = some (op, m) ∧ m.waiting = 0) :=
  ⟨⟨contributed 1 (some (contribOf 5 0)), contributed 1 none,
      ((contributed 1 none).contribute (contribOf 5 0) 0 false).getD live, contribOf 5 0, 0, false, by decide +kernel⟩,
    ⟨contributed 1 (some (contribOf 6 0)), contributed 1 none,
      ((contributed 1 none).contribute (contribOf 6 0) 0 false).getD live, contribOf 6 0, 0, false, by decide +kernel⟩,
    ⟨contributed 1 (some (contribOf 5 1)), contributed 1 none, contribOf 5 1, 0, 0, false, by decide +kernel⟩,
    ⟨contributed 1 (some (contribOf 6 1)), contributed 1 none, contribOf 6 1, 0, 0, false, by decide +kernel⟩,
    ⟨contributed 1 none, (((contributed 1 none).poolTake 0 0 (.chunk 0 0 0)).getD (0, live)).2, contribOf 5 0, 0, 0, 0, false,
      by decide +kernel⟩,
    ⟨0, 0, { live with tm := { live.tm with edges := 0xFFFF }, ra := { live.ra with chunks := [chunkOf] } }, chunkOf,
      by decide +kernel⟩,
    ⟨0, 0, [], parkedBlock [⟨0, contribOf 5 0, 0, 0⟩],
      ((parkedBlock []).joinChunk 0 (contribOf 5 0) 0 (some 0) false).getD live, ⟨0, contribOf 5 0, 0, 0⟩, [],
      by decide +kernel⟩,
    ⟨{ live with xb := { live.xb with rdxIn := [⟨98, pktOf 4 0 [0]⟩] } }, live, pktOf 4 0 [0], by decide +kernel⟩,
    ⟨0, { live with tr := { live.tr with mcs := [(0, ⟨0, pktOf 4 0 [0], 0, 1, 0, 0⟩)] } }, ⟨0, pktOf 4 0 [0], 0, 1, 0, 0⟩,
      by decide +kernel⟩⟩

/-- States that meet the hypotheses of `BufferPools`, clause by clause. -/
theorem witness_BufferPools :
    (∃ (u : PoolUser) (n : Part) (size k : Nat) (more : Bool) (s : State), s.poolFor size = some k ∧ PoolUser.exempt u = true) ∧
    (∃ (u : PoolUser) (n : Part) (size k : Nat) (more : Bool) (s : State), s.poolFor size = some k ∧ PoolUser.exempt u = false)
      ∧
    (∃ (u : PoolUser) (n : Part) (size k : Nat) (more : Bool) (s : State), s.poolFor size = some k ∧ PoolUser.exempt u = false
      ∧ more = false ∧ s.pl.asks = [] ∧ s.pl.waits = []) ∧
    (∃ (k i n : Nat) (u : PoolUser) (rest : List (PoolUser × Nat × Nat)) (s : State), i < 3 ∧ plainUnits[(mget 0 s.pl.askTurn k
      + i) % 3]? = some u ∧ (∀ j < i, ∀ w ∈ s.pl.asks, w.2.2 = k → some w.1 ≠ plainUnits[(mget 0 s.pl.askTurn k + j) % 3]?) ∧
      takeFirst (fun (w : PoolUser × Nat × Nat) => w.1 == u && w.2.2 == k) s.pl.asks = some ((u, n, k), rest)) ∧
    (∃ (k : Fin 5) (i : Nat) (more : Bool) (s : State) (b : Buf), k ≠ 0 ∧ i < poolCount k ∧ s.buf k i = some b ∧ b.inUse =
      true) ∧
    (∃ (k : Fin 5) (i : Nat) (more : Bool) (s : State), k ≠ 0 ∧ i < poolCount k ∧ s.buf k i = none) ∧
    (∃ (first : Nat) (w held : Word) (more : Bool) (s : State), first % 64 = 0 ∧ first + 64 ≤ 131072) ∧
    (∃ (first : Nat) (w held : Word) (more : Bool) (s : State), (first % 64 ≠ 0 ∨ 131072 < first + 64)) ∧
    (∃ (s : State), s.pl.lastSweep + 4096 ≤ s.edge) :=
  ⟨⟨.rdx, 0, 320, 0, false, live, by decide +kernel⟩,
    ⟨.mover, 0, 1048576, 4, false, live, by decide +kernel⟩,
    ⟨.mover, 0, 1048576, 4, false, live, by decide +kernel⟩,
    ⟨4, 1, 0, .mover, [], { live with pl := { live.pl with asks := [(.mover, 0, 4)] } }, by decide +kernel⟩,
    ⟨4, poolCount 4 - 1, false,
      { live with pl := { live.pl with bufs := [(4, [(poolCount 4 - 1, ⟨0, true, [], false, false⟩)])] } }, ⟨0, true, [],
      false, false⟩, by decide +kernel⟩,
    ⟨4, poolCount 4 - 1, false, live, by decide +kernel⟩,
    ⟨131008, 0, 0, false, live, by decide +kernel⟩,
    ⟨131072, 0, 0, false, live, by decide +kernel⟩,
    ⟨{ live with tm := { live.tm with edges := 4096 } }, by decide +kernel⟩⟩

/-- A line that the host holds and is asked for. -/
def hosted : DirEntry := ⟨0, true, 16, 16, false, []⟩
/-- An access of the `HOST` line 0 that waits for the host. -/
def hostOp (p : Pkt) : State := atHome (opOf 2 p) .host
/-- States that meet the hypotheses of `HostAnswers`, clause by clause. -/
theorem witness_HostAnswers :
    (∃ (line : Nat) (bytes : List Byte) (s : State) (q : LineQ) (o : HOp), s.headOp line = some (q, o) ∧ q.wait = .host ∧
      (Pkt.opcode o.pkt = 1 ∨ Pkt.opcode o.pkt = 9)) ∧
    (∃ (line : Nat) (bytes : List Byte) (s : State) (q : LineQ) (o : HOp), s.headOp line = some (q, o) ∧ q.wait = .host ∧
      Pkt.opcode o.pkt ≠ 1 ∧ Pkt.opcode o.pkt ≠ 9 ∧ Pkt.opcode o.pkt ≠ 3) ∧
    (∃ (line : Nat) (bytes : List Byte) (s : State) (q : LineQ) (o : HOp), s.headOp line = some (q, o) ∧ q.wait = .host ∧
      Pkt.opcode o.pkt = 3 ∧ (∀ g ∈ o.got, g.1 ≠ line)) ∧
    (∃ (line : Nat) (bytes : List Byte) (s : State) (q : LineQ) (o : HOp), s.headOp line = some (q, o) ∧ q.wait = .host ∧
      Pkt.opcode o.pkt = 3 ∧ (∃ g ∈ o.got, g.1 = line)) ∧
    (∃ (line : Nat) (bytes : List Byte) (s : State) (q : LineQ) (o : HOp), s.headOp line = some (q, o) ∧ q.wait = .host) ∧
    (∃ (line : Nat) (data : Option (List Byte)) (s : State) (e : DirEntry), s.dir.find? (fun e => e.line == line) = some e ∧
      e.recalling.testBit 4 = true) ∧
    (∃ (line : Nat) (data : Option (List Byte)) (s : State) (e : DirEntry) (d : _), s.dir.find? (fun e => e.line == line) =
      some e ∧ e.recalling.testBit 4 = true ∧ data = some d ∧ e.owned = true ∧ e.sharers.testBit 4 = true) ∧
    (∃ (line : Nat) (data : Option (List Byte)) (s : State) (e : DirEntry), s.dir.find? (fun e => e.line == line) = some e ∧
      e.recalling.testBit 4 = true ∧ data = none) ∧
    (∃ (line : Nat) (d : List Byte) (s : State), (∀ e, s.dir.find? (fun e => e.line == line) = some e → e.recalling.testBit 4 =
      false)) ∧
    (∃ (a : Nat) (s : State), (∀ q ∈ s.tr.lines, q.wait = .host → ∀ o, s.headOp q.line = some o → s.hostPa o.2 q.line / 64 ≠ a
      / 64)) ∧
    (∃ (a : Nat) (s : State), (∃ q ∈ s.tr.lines, q.wait = .host ∧ ∃ o, s.headOp q.line = some o ∧ s.hostPa o.2 q.line / 64 = a
      / 64)) :=
  ⟨⟨0, List.replicate 64 0, hostOp (pktOf 1 64 []), ⟨0, [0], .host⟩, opOf 2 (pktOf 1 64 []), by decide +kernel⟩,
    ⟨0, [], hostOp (pktOf 2 0 [0]), ⟨0, [0], .host⟩, opOf 2 (pktOf 2 0 [0]), by decide +kernel⟩,
    ⟨0, [], hostOp (pktOf 3 0x10 (List.replicate 8 0)), ⟨0, [0], .host⟩, opOf 2 (pktOf 3 0x10 (List.replicate 8 0)),
      by decide +kernel⟩,
    ⟨0, [], atHome { opOf 2 (pktOf 3 0x10 (List.replicate 8 0)) with got := [(0, [])] } .host, ⟨0, [0], .host⟩,
      { opOf 2 (pktOf 3 0x10 (List.replicate 8 0)) with got := [(0, [])] }, by decide +kernel, by decide +kernel,
      by decide +kernel, (0, []), by decide +kernel, by decide +kernel⟩,
    ⟨0, [], hostOp (pktOf 1 64 []), ⟨0, [0], .host⟩, opOf 2 (pktOf 1 64 []), by decide +kernel⟩,
    ⟨0, none, { live with dir := [hosted] }, hosted, by decide +kernel⟩,
    ⟨0, some [0], { live with dir := [hosted] }, hosted, [0], by decide +kernel⟩,
    ⟨0, none, { live with dir := [hosted] }, hosted, by decide +kernel⟩,
    ⟨0, [0], live, fun _ h => nomatch h⟩,
    ⟨63, live, fun _ h => nomatch h⟩,
    ⟨63, hostOp (pktOf 1 64 []), ⟨0, [0], .host⟩, by decide +kernel, by decide +kernel,
      (⟨0, [0], .host⟩, opOf 2 (pktOf 1 64 [])), by decide +kernel, by decide +kernel⟩⟩

/-- States that meet the hypotheses of `SequencerRegisters`, clause by clause. -/
theorem witness_SequencerRegisters :
    (∃ (h : ThreadSt) (v r k : Nat), 0 < r ∧ v < 2 ^ 64) ∧
    (∃ (h : ThreadSt) (v r k : Nat), r ≠ k) ∧
    (∃ (c : Core) (t : Thread) (op : CsrOp) (rd : Fin 32) (csr : BitVec 12) (v : Word) (r : State), r.canIssue c t ∧ csr =
      0x800) ∧
    (∃ (c : Core) (t : Thread) (op : CsrOp) (rd : Fin 32) (csr : BitVec 12) (v : Word) (r : State), r.canIssue c t ∧ csr =
      0x801) ∧
    (∃ (c : Core) (t : Thread) (op : CsrOp) (rd : Fin 32) (csr : BitVec 12) (v : Word) (r : State), r.canIssue c t ∧ csr =
      0x802) ∧
    (∃ (c : Core) (t : Thread) (op : CsrOp) (rd : Fin 32) (csr : BitVec 12) (v : Word) (r : State), r.canIssue c t ∧ csr ∉
      [0x800, 0x801, 0x802]) ∧
    (∃ (c : Core) (t : Thread) (i : BitVec 32) (r : State), r.canIssue c t ∧ iOp i = 0x5B ∧ iF3 i = 7 ∧ iRd i ≠ 0) ∧
    (∃ (c : Core) (t : Thread) (r : State) (op : CsrOp) (rd : Fin 32) (csr : BitVec 12) (v : Word), r.ready c.val t.val = true
      ∧ 0x10000 < (r.thread c.val t.val).pc + 4) ∧
    (∃ (c : Core) (t : Thread) (cause : BitVec 8) (s : State), (s.thread c.val t.val).running = true) :=
  ⟨⟨thread0, 0xFFFFFFFFFFFFFFFF, 31, 0, by decide +kernel⟩,
    ⟨thread0, 0, 31, 0, by decide +kernel⟩,
    ⟨1023, 31, .rw, 31, 0x800, 0x7FFFF, seqs live (threadOf 1 0), by decide +kernel⟩,
    ⟨1023, 31, .rs, 31, 0x801, 0xFFFF, seqs live (threadOf 1 0), by decide +kernel⟩,
    ⟨1023, 31, .rc, 31, 0x802, 0, seqs live (threadOf 1 0), by decide +kernel⟩,
    ⟨1023, 31, .rw, 31, 0x803, 0, seqs live (threadOf 1 0), by decide +kernel⟩,
    ⟨1023, 31, 0x70DB, seqs live (threadOf 1 0), by decide +kernel⟩,
    ⟨1023, 31, seqs live { threadOf 1 0 with pc := 0xFFFD }, .rw, 31, 0x800, 0, by decide +kernel⟩,
    ⟨1023, 31, 255, seqs live (threadOf 1 0), by decide +kernel⟩⟩

/-- A live block whose ring 15 of partition 0 is in service, with producer index `p`. -/
def ringed (p : Nat) : State :=
  setup live [(RING_BASE_EN 0 15, 1), (RING_CFG_SIZE 0 15, 4), (RING_PROD_IDX 0 15, p), (MEM_HBM_STATUS_IN_SERVICE, 15)]
/-- A thread whose x1 names a tile move of 1 MiB. -/
def tileThread : State :=
  { seqs live (threadOf 0x2FFE0 0) with sq := { (seqs live (threadOf 0x2FFE0 0)).sq with
    mem := writeBytes [] (coreBase 1023 + 0x2FFF0) (leBytes 8 0x100000) } }
/-- States that meet the hypotheses of `SequencerRequests`, clause by clause. -/
theorem witness_SequencerRequests :
    (∃ (c : Core) (t : Thread) (i : BitVec 32) (o : State), o.canIssue c t ∧ iOp i = 0x0B ∧ iF3 i ≤ 3 ∧ iRs2 i = 0 ∧ nbits
      i.toNat 28 28 = 0 ∧ nbits i.toNat 31 30 = 0 ∧
      let s := o.issued c.val t.val true
     
      let h := s.thread c.val t.val
     
      let a := h.x (iRs1 i)
     
      let n := 2 ^ iF3 i
      a % n = 0) ∧
    (∃ (c : Core) (t : Thread) (i : BitVec 32) (o : State), o.canIssue c t ∧ iOp i = 0x0B ∧ iF3 i ≤ 3 ∧ iRs2 i = 0 ∧ nbits
      i.toNat 28 28 = 0 ∧ nbits i.toNat 31 30 = 0 ∧
      let s := o.issued c.val t.val true
     
      let h := s.thread c.val t.val
     
      let a := h.x (iRs1 i)
     
      let n := 2 ^ iF3 i
      a % n ≠ 0) ∧
    (∃ (c : Core) (t : Thread) (i : BitVec 32) (o : State), o.canIssue c t ∧ iOp i = 0x0B ∧ 4 ≤ iF3 i ∧ iRd i = 0 ∧ nbits
      i.toNat 31 30 = 0 ∧ o.postFull c.val t.val = false ∧
      let s := o.issued c.val t.val true
     
      let h := s.thread c.val t.val
     
      let a := h.x (iRs1 i)
     
      let n := 2 ^ (iF3 i - 4)
      a % n = 0) ∧
    (∃ (c : Core) (t : Thread) (i : BitVec 32) (o : State), o.canIssue c t ∧ iOp i = 0x0B ∧ 4 ≤ iF3 i ∧ iRd i = 0 ∧ nbits
      i.toNat 31 30 = 0 ∧ o.postFull c.val t.val = false ∧
      let s := o.issued c.val t.val true
     
      let h := s.thread c.val t.val
     
      let a := h.x (iRs1 i)
     
      let n := 2 ^ (iF3 i - 4)
      a % n ≠ 0) ∧
    (∃ (c : Core) (t : Thread) (i : BitVec 32) (o : State), o.canIssue c t ∧ iOp i = 0x2B ∧ nbits i.toNat 28 25 ≤ 10 ∧
      let s := o.issued c.val t.val true
     
      let h := s.thread c.val t.val
     
      let a := h.x (iRs1 i)
     
      let sz := nbits i.toNat 12 12
     
      let n := 4 * 2 ^ sz
      iRd i ≠ 0 ∧ a % n = 0) ∧
    (∃ (c : Core) (t : Thread) (i : BitVec 32) (o : State), o.canIssue c t ∧ iOp i = 0x2B ∧ nbits i.toNat 28 25 ≤ 10 ∧
      let s := o.issued c.val t.val true
     
      let h := s.thread c.val t.val
     
      let a := h.x (iRs1 i)
     
      let sz := nbits i.toNat 12 12
     
      let n := 4 * 2 ^ sz
      iRd i ≠ 0 ∧ a % n ≠ 0) ∧
    (∃ (c : Core) (t : Thread) (i : BitVec 32) (o : State), o.canIssue c t ∧ iOp i = 0x2B ∧ nbits i.toNat 28 25 ≤ 10 ∧
      let s := o.issued c.val t.val true
     
      let h := s.thread c.val t.val
     
      let a := h.x (iRs1 i)
     
      let sz := nbits i.toNat 12 12
     
      let n := 4 * 2 ^ sz
      iRd i = 0 ∧ a % n = 0 ∧ s.postFull c.val t.val = false) ∧
    (∃ (c : Core) (t : Thread) (i : BitVec 32) (o : State), o.canIssue c t ∧ iOp i = 0x2B ∧ nbits i.toNat 28 25 ≤ 10 ∧
      let s := o.issued c.val t.val true
     
      let h := s.thread c.val t.val
     
      let a := h.x (iRs1 i)
     
      let sz := nbits i.toNat 12 12
     
      let n := 4 * 2 ^ sz
      iRd i = 0 ∧ a % n ≠ 0 ∧ s.postFull c.val t.val = false) ∧
    (∃ (c : Core) (t : Thread) (i : BitVec 32) (o : State) (x : _), o.canIssue c t ∧ iOp i = 0x5B ∧ iF3 i = 5 ∧ iTop i = 0 ∧
      iRs2 i = 0 ∧
      let s := o.issued c.val t.val true
     
      let h := s.thread c.val t.val
     
      let a := h.x (iRs1 i)
      dataFault a 32 = some x) ∧
    (∃ (c : Core) (t : Thread) (i : BitVec 32) (o : State), o.canIssue c t ∧ iOp i = 0x5B ∧ iF3 i = 5 ∧ iTop i = 0 ∧ iRs2 i = 0
      ∧
      let s := o.issued c.val t.val true
     
      let h := s.thread c.val t.val
     
      let a := h.x (iRs1 i)
     
      let ws := bytesWords 4 (readBytes s.sq.mem (coreBase c.val + a) 32)
     
      let len := wb ws 2 20 0
      a % 32 = 0 ∧ 0x10000 ≤ a ∧ a + 32 ≤ 0x30000 ∧
      let good := (wd ws 0).toNat % 64 = 0 ∧ (wd ws 1).toNat % 64 = 0 ∧ len % 64 = 0 ∧ 64 ≤ len ∧ len ≤ 0x100000
      ¬ good) ∧
    (∃ (c : Core) (t : Thread) (i : BitVec 32) (o : State), o.canIssue c t ∧ iOp i = 0x5B ∧ iF3 i = 5 ∧ iTop i = 0 ∧ iRs2 i = 0
      ∧
      let s := o.issued c.val t.val true
     
      let h := s.thread c.val t.val
     
      let a := h.x (iRs1 i)
     
      let ws := bytesWords 4 (readBytes s.sq.mem (coreBase c.val + a) 32)
     
      let len := wb ws 2 20 0
      a % 32 = 0 ∧ 0x10000 ≤ a ∧ a + 32 ≤ 0x30000 ∧
      let good := (wd ws 0).toNat % 64 = 0 ∧ (wd ws 1).toNat % 64 = 0 ∧ len % 64 = 0 ∧ 64 ≤ len ∧ len ≤ 0x100000
      good ∧ s.postFull c.val t.val = false ∧ s.acquired c.val t.val = true ∧ (s.tr.queued.filter (fun (m : Move) => m.mover ==
      c.val % 64 && (match m.owner with | .thread .. => true | _ => false))).length < 64) ∧
    (∃ (c : Core) (t : Thread) (i : BitVec 32) (o : State) (x : _), o.canIssue c t ∧ iOp i = 0x5B ∧ iF3 i = 6 ∧ iTop i = 0 ∧
      let s := o.issued c.val t.val true
     
      let h := s.thread c.val t.val
     
      let a := h.x (iRs1 i)
      dataFault a 64 = some x) ∧
    (∃ (c : Core) (t : Thread) (i : BitVec 32) (o : State), o.canIssue c t ∧ iOp i = 0x5B ∧ iF3 i = 6 ∧ iTop i = 0 ∧
      let s := o.issued c.val t.val true
     
      let h := s.thread c.val t.val
     
      let a := h.x (iRs1 i)
     
      let r := h.x (iRs2 i)
     
      let n := s.corePart c.val
      a % 64 = 0 ∧ 0x10000 ≤ a ∧ a + 64 ≤ 0x30000 ∧ (15 < r ∨ s.on (RING_BASE_EN n r) = false)) ∧
    (∃ (c : Core) (t : Thread) (i : BitVec 32) (o : State), o.canIssue c t ∧ iOp i = 0x5B ∧ iF3 i = 6 ∧ iTop i = 0 ∧
      let s := o.issued c.val t.val true
     
      let h := s.thread c.val t.val
     
      let a := h.x (iRs1 i)
     
      let r := h.x (iRs2 i)
     
      let n := s.corePart c.val
     
      let prod := s.get (RING_PROD_IDX n r)
     
      let open_ := (prod + 2 ^ 32 - s.get (RING_CONS_IDX n r)) % 2 ^ 32
      a % 64 = 0 ∧ 0x10000 ≤ a ∧ a + 64 ≤ 0x30000 ∧ r ≤ 15 ∧ s.on (RING_BASE_EN n r) = true ∧ s.acquired c.val t.val = true ∧
      s.ringSize n r ≤ open_) ∧
    (∃ (c : Core) (t : Thread) (i : BitVec 32) (o : State), o.canIssue c t ∧ iOp i = 0x5B ∧ iF3 i = 6 ∧ iTop i = 0 ∧
      let s := o.issued c.val t.val true
     
      let h := s.thread c.val t.val
     
      let a := h.x (iRs1 i)
     
      let r := h.x (iRs2 i)
     
      let n := s.corePart c.val
     
      let prod := s.get (RING_PROD_IDX n r)
     
      let open_ := (prod + 2 ^ 32 - s.get (RING_CONS_IDX n r)) % 2 ^ 32
     
      let w := s.locWrite (s.get (RING_BASE_LOC n r)) (s.get (RING_BASE_ADDR n r) * 4096 + 64 * (prod % s.ringSize n r))
            (readBytes s.sq.mem (coreBase c.val + a) 64)
      a % 64 = 0 ∧ 0x10000 ≤ a ∧ a + 64 ≤ 0x30000 ∧ r ≤ 15 ∧ s.on (RING_BASE_EN n r) = true ∧ s.acquired c.val t.val = true ∧
      open_ < s.ringSize n r ∧ w.1 = true) ∧
    (∃ (c : Core) (t : Thread) (i : BitVec 32) (o : State), o.canIssue c t ∧ iOp i = 0x5B ∧ iF3 i = 6 ∧ iTop i = 0 ∧
      let s := o.issued c.val t.val true
     
      let h := s.thread c.val t.val
     
      let a := h.x (iRs1 i)
     
      let r := h.x (iRs2 i)
     
      let n := s.corePart c.val
     
      let prod := s.get (RING_PROD_IDX n r)
     
      let open_ := (prod + 2 ^ 32 - s.get (RING_CONS_IDX n r)) % 2 ^ 32
     
      let w := s.locWrite (s.get (RING_BASE_LOC n r)) (s.get (RING_BASE_ADDR n r) * 4096 + 64 * (prod % s.ringSize n r))
            (readBytes s.sq.mem (coreBase c.val + a) 64)
      a % 64 = 0 ∧ 0x10000 ≤ a ∧ a + 64 ≤ 0x30000 ∧ r ≤ 15 ∧ s.on (RING_BASE_EN n r) = true ∧ s.acquired c.val t.val = true ∧
      open_ < s.ringSize n r ∧ w.1 = false) ∧
    (∃ (a n : Nat), (n = 32 ∨ n = 64) ∧ a % n ≠ 0) ∧
    (∃ (a n : Nat), (n = 32 ∨ n = 64) ∧ a % n = 0 ∧ (a < 0x10000 ∨ 0x30000 < a + n)) :=
  ⟨⟨1023, 31, 0x300B, seqs live (threadOf 1 0), by decide +kernel⟩,
    ⟨1023, 31, 0xB00B, seqs live (threadOf 1 0), by decide +kernel⟩,
    ⟨1023, 31, 0x700B, seqs live (threadOf 1 0), by decide +kernel⟩,
    ⟨1023, 31, 0xF00B, seqs live (threadOf 1 0), by decide +kernel⟩,
    ⟨1023, 31, 0x140010AB, seqs live (threadOf 1 0), by decide +kernel⟩,
    ⟨1023, 31, 0x140090AB, seqs live (threadOf 1 0), by decide +kernel⟩,
    ⟨1023, 31, 0x1400102B, seqs live (threadOf 1 0), by decide +kernel⟩,
    ⟨1023, 31, 0x1400902B, seqs live (threadOf 1 0), by decide +kernel⟩,
    ⟨1023, 31, 0xD05B, seqs live (threadOf 0x2FFE1 0), 4, by decide +kernel⟩,
    ⟨1023, 31, 0xD05B, seqs live (threadOf 0x2FFE0 0), by decide +kernel⟩,
    ⟨1023, 31, 0xD05B, tileThread, by decide +kernel⟩,
    ⟨1023, 31, 0x20E05B, seqs live (threadOf 0x2FFE0 0), 4, by decide +kernel⟩,
    ⟨1023, 31, 0x20E05B, seqs live (threadOf 0x2FFC0 16), by decide +kernel⟩,
    ⟨1023, 31, 0x20E05B, seqs (ringed 16) (threadOf 0x2FFC0 15), by decide +kernel⟩,
    ⟨1023, 31, 0x20E05B, seqs (ringed 15) (threadOf 0x2FFC0 15), by decide +kernel⟩,
    ⟨1023, 31, 0x20E05B, seqs (setup (ringed 15) [(MEM_HBM_STATUS_IN_SERVICE, 0)]) (threadOf 0x2FFC0 15), by decide +kernel⟩,
    ⟨1, 32, by decide +kernel⟩,
    ⟨0x30000, 32, by decide +kernel⟩⟩

/-- A live block whose thread 31 of core 1023 waits as `w` says. -/
def waiting (w : ThreadWait) : State := seqs live { threadOf 0 0 with wait := w }
/-- States that meet the hypotheses of `SequencerWaits`, clause by clause. -/
theorem witness_SequencerWaits :
    (∃ (c : Core) (t : Thread) (i : BitVec 32) (r : State), r.canIssue c t ∧ iOp i = 0x5B ∧ iF3 i = 0 ∧ iTop i = 0) ∧
    (∃ (c : Core) (t : Thread) (s : State) (k target rd : Nat) (lim : Option Nat), (s.thread c.val t.val).wait = .lc k target
      lim rd ∧ (s.counter k - BitVec.ofNat 64 target).toNat < 2 ^ 63) ∧
    (∃ (c : Core) (t : Thread) (s : State) (k target rd : Nat) (lim : Option Nat), (s.thread c.val t.val).wait = .lc k target
      lim rd ∧ lim = some 0 ∧ (s.counter k - BitVec.ofNat 64 target).toNat < 2 ^ 63) ∧
    (∃ (c : Core) (t : Thread) (s : State) (k target rd : Nat) (lim : Option Nat), (s.thread c.val t.val).wait = .lc k target
      lim rd ∧ lim = some 0 ∧ 2 ^ 63 ≤ (s.counter k - BitVec.ofNat 64 target).toNat) ∧
    (∃ (c : Core) (t : Thread) (i : BitVec 32) (r : State), r.canIssue c t ∧ iOp i = 0x5B ∧ iF3 i = 1 ∧ iRs2 i = 0 ∧ nbits
      i.toNat 31 26 = 0) ∧
    (∃ (c : Core) (t : Thread) (s : State) (b rd : Nat) (adm : Bool), (s.thread c.val t.val).wait = .beat b adm rd ∧ (s.reg
      TIME_BEAT_NOW - BitVec.ofNat 64 b).toNat < 2 ^ 63) ∧
    (∃ (c : Core) (t : Thread) (i : BitVec 32) (r : State), r.canIssue c t ∧ iOp i = 0x5B ∧ iF3 i = 2 ∧ iRd i = 0 ∧ iRs1 i = 0
      ∧ iRs2 i = 0 ∧ nbits i.toNat 31 27 = 0) ∧
    (∃ (c : Core) (t : Thread) (i : BitVec 32) (r : State), r.canIssue c t ∧ iOp i = 0x5B ∧ iF3 i = 3 ∧ iTop i = 0) ∧
    (∃ (c : Core) (t : Thread) (i : BitVec 32) (r : State), r.canIssue c t ∧ iOp i = 0x5B ∧ iF3 i = 4 ∧ iTop i = 0 ∧ iRs2 i =
      0) ∧
    (∃ (c : Core) (t : Thread) (i : BitVec 32) (r : State), r.canIssue c t ∧ iOp i = 0x5B ∧ iF3 i = 7 ∧ iTop i = 0 ∧ iRd i = 0
      ∧ iRs1 i = 0 ∧ iRs2 i = 0 ∧
      let s := r.issued c.val t.val true
      (s.thread c.val t.val).posted = []) ∧
    (∃ (c : Core) (t : Thread) (i : BitVec 32) (r : State), r.canIssue c t ∧ iOp i = 0x5B ∧ iF3 i = 7 ∧ iTop i = 0 ∧ iRd i = 0
      ∧ iRs1 i = 0 ∧ iRs2 i = 0 ∧
      let s := r.issued c.val t.val true
      (s.thread c.val t.val).posted ≠ []) :=
  ⟨⟨1023, 31, 0x5B, seqs live (threadOf 0 0), by decide +kernel⟩,
    ⟨1023, 31, waiting (.lc 131071 0 none 31), 131071, 0, 31, none, by decide +kernel⟩,
    ⟨1023, 31, waiting (.lc 131071 0 (some 0) 31), 131071, 0, 31, some 0, by decide +kernel⟩,
    ⟨1023, 31, waiting (.lc 131071 1 (some 0) 31), 131071, 1, 31, some 0, by decide +kernel⟩,
    ⟨1023, 31, 0x0200105B, seqs live (threadOf 0 0), by decide +kernel⟩,
    ⟨1023, 31, waiting (.beat 0 true 31), 0, 31, true, by decide +kernel⟩,
    ⟨1023, 31, 0x0600205B, seqs live (threadOf 0 0), by decide +kernel⟩,
    ⟨1023, 31, 0x305B, seqs live (threadOf 0 0), by decide +kernel⟩,
    ⟨1023, 31, 0x405B, seqs live (threadOf 0 0), by decide +kernel⟩,
    ⟨1023, 31, 0x705B, seqs live (threadOf 0 0), by decide +kernel⟩,
    ⟨1023, 31, 0x705B, seqs live { threadOf 0 0 with posted := [(0, 0)] }, by decide +kernel⟩⟩

/-- States that meet the hypotheses of `SequencerLocal`, clause by clause. -/
theorem witness_SequencerLocal :
    (∃ (c : Core) (t : Thread) (r : State) (comp : Bool) (op : LocalOp), r.ready c.val t.val = true ∧
      let s := r.issued c.val t.val false
     
      let h := s.thread c.val t.val
     
      let next := h.pc + (if comp then 2 else 4)
      0x10000 < next) ∧
    (∃ (c : Core) (t : Thread) (r : State) (comp : Bool) (op : AluOp) (w : Bool) (rd rs1 rs2 : Fin 32), r.ready c.val t.val =
      true ∧
      let s := r.issued c.val t.val false
     
      let h := s.thread c.val t.val
     
      let next := h.pc + (if comp then 2 else 4)
      next ≤ 0x10000 ∧ (w = false ∨ aluHasW op = true)) ∧
    (∃ (c : Core) (t : Thread) (r : State) (comp : Bool) (op : AluOp) (w : Bool) (rd rs1 rs2 : Fin 32), r.ready c.val t.val =
      true ∧
      let s := r.issued c.val t.val false
     
      let h := s.thread c.val t.val
     
      let next := h.pc + (if comp then 2 else 4)
      next ≤ 0x10000 ∧ w = true ∧ aluHasW op = false) ∧
    (∃ (c : Core) (t : Thread) (r : State) (comp : Bool) (op : AluOp) (w : Bool) (rd rs1 : Fin 32) (imm : BitVec 12), r.ready
      c.val t.val = true ∧
      let s := r.issued c.val t.val false
     
      let h := s.thread c.val t.val
     
      let next := h.pc + (if comp then 2 else 4)
      next ≤ 0x10000 ∧ aluImmOk op w imm.toNat = true) ∧
    (∃ (c : Core) (t : Thread) (r : State) (comp : Bool) (op : AluOp) (w : Bool) (rd rs1 : Fin 32) (imm : BitVec 12), r.ready
      c.val t.val = true ∧
      let s := r.issued c.val t.val false
     
      let h := s.thread c.val t.val
     
      let next := h.pc + (if comp then 2 else 4)
      next ≤ 0x10000 ∧ aluImmOk op w imm.toNat = false) ∧
    (∃ (c : Core) (t : Thread) (r : State) (comp : Bool) (rd rs1 rs2 : Fin 32), r.ready c.val t.val = true ∧
      let s := r.issued c.val t.val false
     
      let h := s.thread c.val t.val
     
      let next := h.pc + (if comp then 2 else 4)
      next ≤ 0x10000) ∧
    (∃ (c : Core) (t : Thread) (r : State) (comp : Bool) (rd rs1 rs2 : Fin 32), r.ready c.val t.val = true ∧
      let s := r.issued c.val t.val false
     
      let h := s.thread c.val t.val
     
      let next := h.pc + (if comp then 2 else 4)
      next ≤ 0x10000 ∧ h.x rs2 % 2 ^ 64 = 0) ∧
    (∃ (c : Core) (t : Thread) (r : State) (comp : Bool) (k : Fin 4) (u : Bool) (rd rs1 : Fin 32) (imm : BitVec 12), r.ready
      c.val t.val = true ∧
      let s := r.issued c.val t.val false
     
      let h := s.thread c.val t.val
     
      let next := h.pc + (if comp then 2 else 4)
      next ≤ 0x10000 ∧ k.val = 3 ∧ u = true) ∧
    (∃ (c : Core) (t : Thread) (r : State) (comp : Bool) (k : Fin 4) (u : Bool) (rd rs1 : Fin 32) (imm : BitVec 12), r.ready
      c.val t.val = true ∧
      let s := r.issued c.val t.val false
     
      let h := s.thread c.val t.val
     
      let next := h.pc + (if comp then 2 else 4)
      next ≤ 0x10000 ∧
      let a := addImm (h.x rs1) 12 imm.toNat
      (¬ (k.val = 3 ∧ u = true)) ∧ a % 2 ^ k.val ≠ 0) ∧
    (∃ (c : Core) (t : Thread) (r : State) (comp : Bool) (k : Fin 4) (u : Bool) (rd rs1 : Fin 32) (imm : BitVec 12), r.ready
      c.val t.val = true ∧
      let s := r.issued c.val t.val false
     
      let h := s.thread c.val t.val
     
      let next := h.pc + (if comp then 2 else 4)
      next ≤ 0x10000 ∧
      let a := addImm (h.x rs1) 12 imm.toNat
      (¬ (k.val = 3 ∧ u = true)) ∧ a % 2 ^ k.val = 0 ∧ 0x30000 < a + 2 ^ k.val) ∧
    (∃ (c : Core) (t : Thread) (r : State) (comp : Bool) (k : Fin 4) (u : Bool) (rd rs1 : Fin 32) (imm : BitVec 12), r.ready
      c.val t.val = true ∧
      let s := r.issued c.val t.val false
     
      let h := s.thread c.val t.val
     
      let next := h.pc + (if comp then 2 else 4)
      next ≤ 0x10000 ∧
      let a := addImm (h.x rs1) 12 imm.toNat
      (¬ (k.val = 3 ∧ u = true)) ∧ a % 2 ^ k.val = 0 ∧ a + 2 ^ k.val ≤ 0x30000) ∧
    (∃ (c : Core) (t : Thread) (r : State) (comp : Bool) (k : Fin 4) (rs1 rs2 : Fin 32) (imm : BitVec 12), r.ready c.val t.val
      = true ∧
      let s := r.issued c.val t.val false
     
      let h := s.thread c.val t.val
     
      let next := h.pc + (if comp then 2 else 4)
      next ≤ 0x10000 ∧
      let a := addImm (h.x rs1) 12 imm.toNat
      a % 2 ^ k.val ≠ 0) ∧
    (∃ (c : Core) (t : Thread) (r : State) (comp : Bool) (k : Fin 4) (rs1 rs2 : Fin 32) (imm : BitVec 12), r.ready c.val t.val
      = true ∧
      let s := r.issued c.val t.val false
     
      let h := s.thread c.val t.val
     
      let next := h.pc + (if comp then 2 else 4)
      next ≤ 0x10000 ∧
      let a := addImm (h.x rs1) 12 imm.toNat
      a % 2 ^ k.val = 0 ∧ (a < 0x10000 ∨ 0x30000 < a + 2 ^ k.val)) ∧
    (∃ (c : Core) (t : Thread) (r : State) (comp : Bool) (k : Fin 4) (rs1 rs2 : Fin 32) (imm : BitVec 12), r.ready c.val t.val
      = true ∧
      let s := r.issued c.val t.val false
     
      let h := s.thread c.val t.val
     
      let next := h.pc + (if comp then 2 else 4)
      next ≤ 0x10000 ∧
      let a := addImm (h.x rs1) 12 imm.toNat
      a % 2 ^ k.val = 0 ∧ 0x10000 ≤ a ∧ a + 2 ^ k.val ≤ 0x30000) ∧
    (∃ (c : Core) (t : Thread) (r : State) (comp : Bool) (d : Bool) (rd rs1 rs2 : Fin 32) (op : AmoOp), r.ready c.val t.val =
      true ∧
      let s := r.issued c.val t.val false
     
      let h := s.thread c.val t.val
     
      let next := h.pc + (if comp then 2 else 4)
      next ≤ 0x10000 ∧
      let a := h.x rs1
     
      let n := if d then 8 else 4
      a % n ≠ 0) ∧
    (∃ (c : Core) (t : Thread) (r : State) (comp : Bool) (d : Bool) (rd rs1 rs2 : Fin 32) (op : AmoOp), r.ready c.val t.val =
      true ∧
      let s := r.issued c.val t.val false
     
      let h := s.thread c.val t.val
     
      let next := h.pc + (if comp then 2 else 4)
      next ≤ 0x10000 ∧
      let a := h.x rs1
     
      let n := if d then 8 else 4
      a % n = 0 ∧ a + n ≤ 0x30000) ∧
    (∃ (c : Core) (t : Thread) (r : State) (comp : Bool) (d : Bool) (rd rs1 rs2 : Fin 32) (op : AmoOp), r.ready c.val t.val =
      true ∧
      let s := r.issued c.val t.val false
     
      let h := s.thread c.val t.val
     
      let next := h.pc + (if comp then 2 else 4)
      next ≤ 0x10000 ∧
      let a := h.x rs1
     
      let n := if d then 8 else 4
      a % n = 0 ∧ 0x10000 ≤ a ∧ a + n ≤ 0x30000 ∧ h.resv ≠ some (a, n)) ∧
    (∃ (c : Core) (t : Thread) (r : State) (comp : Bool) (d : Bool) (rd rs1 rs2 : Fin 32) (op : AmoOp), r.ready c.val t.val =
      true ∧
      let s := r.issued c.val t.val false
     
      let h := s.thread c.val t.val
     
      let next := h.pc + (if comp then 2 else 4)
      next ≤ 0x10000 ∧
      let a := h.x rs1
     
      let n := if d then 8 else 4
      a % n = 0 ∧ 0x10000 ≤ a ∧ a + n ≤ 0x30000 ∧ h.resv = some (a, n)) ∧
    (∃ (c : Core) (t : Thread) (r : State) (comp : Bool) (d : Bool) (rd rs1 rs2 : Fin 32) (op : AmoOp), r.ready c.val t.val =
      true ∧
      let s := r.issued c.val t.val false
     
      let h := s.thread c.val t.val
     
      let next := h.pc + (if comp then 2 else 4)
      next ≤ 0x10000 ∧
      let a := h.x rs1
     
      let n := if d then 8 else 4
      a % n = 0 ∧ 0x10000 ≤ a ∧ a + n ≤ 0x30000) ∧
    (∃ (c : Core) (t : Thread) (r : State) (comp : Bool) (rd rs1 rs2 : Fin 32) (i12 : BitVec 12) (i13 : BitVec 13) (i20 :
      BitVec 20) (i21 : BitVec 21) (op : BrOp), r.ready c.val t.val = true ∧
      let s := r.issued c.val t.val false
     
      let h := s.thread c.val t.val
     
      let next := h.pc + (if comp then 2 else 4)
      next ≤ 0x10000) ∧
    (∃ (c : Core) (t : Thread) (r : State) (comp : Bool) (rd : Fin 32) (k : BitVec 12) (v : _), r.ready c.val t.val = true ∧
      let s := r.issued c.val t.val false
     
      let h := s.thread c.val t.val
     
      let next := h.pc + (if comp then 2 else 4)
      next ≤ 0x10000 ∧ s.csr c.val t.val k.toNat = some v) ∧
    (∃ (c : Core) (t : Thread) (r : State) (comp : Bool) (rd : Fin 32) (k : BitVec 12), r.ready c.val t.val = true ∧
      let s := r.issued c.val t.val false
     
      let h := s.thread c.val t.val
     
      let next := h.pc + (if comp then 2 else 4)
      next ≤ 0x10000 ∧ s.csr c.val t.val k.toNat = none) ∧
    (∃ (c : Core) (t : Thread) (r : State) (comp : Bool), r.ready c.val t.val = true ∧
      let s := r.issued c.val t.val false
     
      let h := s.thread c.val t.val
     
      let next := h.pc + (if comp then 2 else 4)
      next ≤ 0x10000) :=
  ⟨⟨1023, 31, seqs live { threadOf 1 0 with pc := 0xFFFF }, true, .ecall, by decide +kernel⟩,
    ⟨1023, 31, seqs live { threadOf 1 0 with pc := 0xFFFE }, true, .add, true, 31, 1, 2, by decide +kernel, by decide +kernel,
      Or.inr (by decide +kernel)⟩,
    ⟨1023, 31, seqs live (threadOf 1 0), false, .slt, true, 31, 1, 2, by decide +kernel⟩,
    ⟨1023, 31, seqs live (threadOf 1 0), false, .sra, false, 31, 1, 63, by decide +kernel⟩,
    ⟨1023, 31, seqs live (threadOf 1 0), false, .sub, false, 31, 1, 0, by decide +kernel⟩,
    ⟨1023, 31, seqs live (threadOf 1 0), true, 31, 1, 2, by decide +kernel⟩,
    ⟨1023, 31, seqs live (threadOf 1 0), true, 31, 1, 2, by decide +kernel⟩,
    ⟨1023, 31, seqs live (threadOf 0 0), true, 3, true, 31, 1, 0, by decide +kernel⟩,
    ⟨1023, 31, seqs live (threadOf 1 0), true, 3, false, 31, 1, 0, by decide +kernel⟩,
    ⟨1023, 31, seqs live (threadOf 0x30000 0), true, 3, false, 31, 1, 0, by decide +kernel⟩,
    ⟨1023, 31, seqs live (threadOf 0x2FFF8 0), true, 3, false, 31, 1, 0, by decide +kernel⟩,
    ⟨1023, 31, seqs live (threadOf 1 0), true, 3, 1, 2, 0, by decide +kernel⟩,
    ⟨1023, 31, seqs live (threadOf 0x30000 0), true, 3, 1, 2, 0, by decide +kernel, by decide +kernel, by decide +kernel,
      Or.inr (by decide +kernel)⟩,
    ⟨1023, 31, seqs live (threadOf 0x2FFF8 0), true, 3, 1, 2, 0, by decide +kernel⟩,
    ⟨1023, 31, seqs live (threadOf 1 0), true, true, 31, 1, 2, .swap, by decide +kernel⟩,
    ⟨1023, 31, seqs live (threadOf 0x2FFF8 0), true, true, 31, 1, 2, .swap, by decide +kernel⟩,
    ⟨1023, 31, seqs live (threadOf 0x2FFF8 0), true, true, 31, 1, 2, .swap, by decide +kernel⟩,
    ⟨1023, 31, seqs live { threadOf 0x2FFF8 0 with resv := some (0x2FFF8, 8) }, true, true, 31, 1, 2, .swap,
      by decide +kernel⟩,
    ⟨1023, 31, seqs live (threadOf 0x2FFF8 0), true, true, 31, 1, 2, .minu, by decide +kernel⟩,
    ⟨1023, 31, seqs live (threadOf 1 0), false, 31, 1, 2, 0xFFF, 0x1FFE, 0xFFFFF, 0x1FFFFE, .geu, by decide +kernel⟩,
    ⟨1023, 31, seqs live (threadOf 1 0), false, 31, 0xCC1, 1023 * 32 + 31, by decide +kernel⟩,
    ⟨1023, 31, seqs live (threadOf 1 0), false, 31, 0xFFF, by decide +kernel⟩,
    ⟨1023, 31, seqs live (threadOf 1 0), false, by decide +kernel⟩⟩

/-- A live block whose port 95 is in state `st` with the link record `l`. -/
def linked (st : Nat) (l : Link) : State := (setup live [(PORT_STATUS_STATE 95, st), (PORT_STATUS_LANES 95, 255)]).setLink 95 l
/-- States that meet the hypotheses of `LinkReception`, clause by clause. -/
theorem witness_LinkReception :
    (∃ (p : Port) (lane : Fin 8) (flits : BitVec 5120) (slot : BitVec 20) (check : BitVec 300) (s : State) (m k : _),
      let d := fecDecode (fecJoin flits slot check)
     
      let u := s.fecCount p d
     
      let l := u.link p.val
      s.active p.val = true ∧ (s.get (PORT_STATUS_LANES p)).testBit lane.val = true ∧ d = some (m, k) ∧ nbits (fecSlot m) 19 11
      = l.rxSeq ∧ flitsOk l.due (fecFlits m) = true) ∧
    (∃ (p : Port) (lane : Fin 8) (flits : BitVec 5120) (slot : BitVec 20) (check : BitVec 300) (s : State),
      let d := fecDecode (fecJoin flits slot check)
     
      let u := s.fecCount p d
     
      let l := u.link p.val
      s.active p.val = true ∧ (s.get (PORT_STATUS_LANES p)).testBit lane.val = true ∧ (d = none ∨ (∃ m k, d = some (m, k) ∧
      (nbits (fecSlot m) 19 11 = l.rxSeq ∧ flitsOk l.due (fecFlits m) = false ∨ nbits (fecSlot m) 19 11 ≠ l.rxSeq ∧ l.rxBad =
      false)))) ∧
    (∃ (p : Port) (lane : Fin 8) (flits : BitVec 5120) (slot : BitVec 20) (check : BitVec 300) (s : State) (m k : _),
      let d := fecDecode (fecJoin flits slot check)
     
      let u := s.fecCount p d
     
      let l := u.link p.val
      s.active p.val = true ∧ (s.get (PORT_STATUS_LANES p)).testBit lane.val = true ∧ d = some (m, k) ∧ nbits (fecSlot m) 19 11
      ≠ l.rxSeq ∧ l.rxBad = true) ∧
    (∃ (p : Port) (lane : Fin 8) (flits : BitVec 5120) (slot : BitVec 20) (check : BitVec 300) (s : State), s.active p.val =
      false) ∧
    (∃ (p : Port) (s : State) (n : Nat), (s.link p.val).goBack = some n) ∧
    (∃ (p : Port) (s : State), s.active p.val = true ∧ (s.link p.val).unacked ≠ []) ∧
    (∃ (p : Port) (s : State), s.active p.val = true) ∧
    (∃ (p : Port) (s : State), s.active p.val = true ∧ (s.link p.val).lastBeat + 8 ≤ s.edge) ∧
    (∃ (p : Port) (s : State) (rest : List RxItem), takeFirst (fun i => i == .stomp) (mget [] s.xb.rx p.val) = some (.stomp,
      rest)) ∧
    (∃ (u : Fin 4) (present : Bool) (s : State), s.lsuSensed = true) :=
  ⟨⟨95, 7, (fecEncode (padBlock []) 0).extractLsb' 0 5120, (fecEncode (padBlock []) 0).extractLsb' 5120 20,
      (fecEncode (padBlock []) 0).extractLsb' 5140 300, linked 3 link0, fecMessage (padBlock []) 0 % 2 ^ 5140, 0,
      by decide +kernel⟩,
    ⟨95, 7, 0, 0, 0, linked 3 { link0 with rxSeq := 511 }, by decide +kernel, by decide +kernel, Or.inr ⟨0, 0,
      by decide +kernel, by decide +kernel⟩⟩,
    ⟨95, 7, 0, 0, 0, linked 3 { link0 with rxSeq := 511, rxBad := true }, 0, 0, by decide +kernel⟩,
    ⟨95, 7, 0, 0, 0, linked 2 link0, by decide +kernel⟩,
    ⟨95, linked 3 { link0 with goBack := some 511 }, 511, by decide +kernel⟩,
    ⟨95, linked 3 { link0 with unacked := [⟨0, [], 0, 1⟩] }, by decide +kernel⟩,
    ⟨95, linked 3 link0, by decide +kernel⟩,
    ⟨95, { linked 3 link0 with tm := { live.tm with edges := 8 } }, by decide +kernel⟩,
    ⟨95, { live with xb := { live.xb with rx := [(95, [.stomp])] } }, [], by decide +kernel⟩,
    ⟨3, false, resetting (fun r => { r with sensed := true }), by decide +kernel⟩⟩

/-- A live block whose port 95 trains with the link record `l`. -/
def training (l : Link) : State := (setup live [(PORT_STATUS_STATE 95, 2), (PORT_CFG_MODE 95, 1), (PORT_CFG_VER_CAP 95, 1)]).setLink 95 l
/-- That block with the training message `f` in front. -/
def heard (f : Flit) : State := { training link0 with xb := { live.xb with rx := [(95, [.train f])] } }
/-- States that meet the hypotheses of `LinkTraining`, clause by clause. -/
theorem witness_LinkTraining :
    (∃ (p : Port) (lanes : BitVec 8) (s : State), s.portState p.val = 1 ∧ 7 ≤ s.phase ∧ lanesOf lanes.toNat ≠ 0 ∧ (s.get
      PORT_LSU_READY).testBit (lsuOf p.val) = true) ∧
    (∃ (p : Port) (lane : Fin 8) (s : State), s.portState p.val = 2 ∧ (s.link p.val).lit.testBit lane.val = true) ∧
    (∃ (p : Port) (s u : State) (f : Flit), s.takeTrain p.val 1 = some (f, u) ∧ u.portState p.val = 2 ∧
      let v := u.sendHello p.val
     
      let id := bits (fw f 0) 63 48
     
      let w := (v.put (PORT_STATUS_PEER_ID p) id).setReg (PORT_PEER_CAP p) (fw f 2)
     
      let mode := if w.isAttach p.val then 2 else 1
      bits (fw f 0) 31 24 ≠ mode) ∧
    (∃ (p : Port) (s u : State) (f : Flit), s.takeTrain p.val 1 = some (f, u) ∧ u.portState p.val = 2 ∧
      let v := u.sendHello p.val
     
      let id := bits (fw f 0) 63 48
     
      let w := (v.put (PORT_STATUS_PEER_ID p) id).setReg (PORT_PEER_CAP p) (fw f 2)
     
      let ver := min (w.get (PORT_CFG_VER_CAP p)) (bits (fw f 1) 15 8)
     
      let mode := if w.isAttach p.val then 2 else 1
      bits (fw f 0) 31 24 = mode ∧ (ver < 1 ∨ ver < bits (fw f 1) 7 0)) ∧
    (∃ (p : Port) (s u : State) (f : Flit), s.takeTrain p.val 1 = some (f, u) ∧ u.portState p.val = 2 ∧
      let v := u.sendHello p.val
     
      let id := bits (fw f 0) 63 48
     
      let w := (v.put (PORT_STATUS_PEER_ID p) id).setReg (PORT_PEER_CAP p) (fw f 2)
     
      let ver := min (w.get (PORT_CFG_VER_CAP p)) (bits (fw f 1) 15 8)
     
      let mode := if w.isAttach p.val then 2 else 1
      bits (fw f 0) 31 24 = mode ∧ (¬ (ver < 1 ∨ ver < bits (fw f 1) 7 0))) ∧
    (∃ (p : Port) (s u : State) (f : Flit), s.takeTrain p.val 2 = some (f, u) ∧ u.portState p.val = 2) ∧
    (∃ (p : Port) (s u : State) (f : Flit), s.takeTrain p.val 3 = some (f, u) ∧ u.portState p.val = 2) ∧
    (∃ (p : Port) (s : State), s.portState p.val = 2 ∧ (s.link p.val).switchDue = true) ∧
    (∃ (p : Port) (s u : State) (f : Flit), s.takeTrain p.val 4 = some (f, u) ∧ u.portState p.val = 2 ∧
      let lane := bits (fw f 0) 15 8
     
      let action := bits (fw f 0) 27 26
      (8 ≤ lane ∨ action = 3)) ∧
    (∃ (p : Port) (s u : State) (f : Flit), s.takeTrain p.val 4 = some (f, u) ∧ u.portState p.val = 2 ∧
      let lane := bits (fw f 0) 15 8
     
      let action := bits (fw f 0) 27 26
      lane < 8 ∧ action ≠ 3) ∧
    (∃ (p : Port) (s u : State) (f : Flit), s.takeTrain p.val 5 = some (f, u) ∧ u.portState p.val = 2) ∧
    (∃ (p : Port) (step : Fin 4) (s : State), s.portState p.val = 2 ∧ (s.link p.val).phase = 2 ∧ (s.link p.val).step = step.val
      ∧ mget 0 (s.link p.val).evalOwn (s.link p.val).step = 0 ∧
      let l := s.link p.val
     
      let lanes := setBitsOf 8 (Nat.land l.locked (Nat.land l.lit l.peerLit))
      (∀ i ∈ lanes, 65536 ≤ (mget ⟨0, 0, 0⟩ l.evals i).words)) ∧
    (∃ (p : Port) (s u : State) (f : Flit), s.takeTrain p.val 6 = some (f, u) ∧ u.portState p.val = 2) ∧
    (∃ (p : Port) (s u : State) (f : Flit), s.takeTrain p.val 7 = some (f, u) ∧ u.portState p.val = 2) ∧
    (∃ (p : Port) (s : State), s.portState p.val = 2) ∧
    (∃ (p : Port) (s u : State) (f : Flit), (u.portState p.val = 2 ∨ u.portState p.val = 3) ∧ s.takeTrain p.val 8 = some (f,
      u)) ∧
    (∃ (p : Port) (s u : State) (f : Flit), (u.portState p.val = 2 ∨ u.portState p.val = 3) ∧ s.takeTrain p.val 9 = some (f, u)) :=
  ⟨⟨95, 0xF0, setup live [(PORT_STATUS_STATE 95, 1), (PORT_LSU_READY, 15)], by decide +kernel⟩,
    ⟨95, 7, training { link0 with lit := 128 }, by decide +kernel⟩,
    ⟨95, heard [mkWord [(7, 0, 1), (31, 24, 2)], 0x0101], training link0, [mkWord [(7, 0, 1), (31, 24, 2)], 0x0101],
      by decide +kernel⟩,
    ⟨95, heard [mkWord [(7, 0, 1), (31, 24, 1)], 0x0202], training link0, [mkWord [(7, 0, 1), (31, 24, 1)], 0x0202],
      by decide +kernel⟩,
    ⟨95, heard [mkWord [(7, 0, 1), (31, 24, 1)], 0x0101], training link0, [mkWord [(7, 0, 1), (31, 24, 1)], 0x0101],
      by decide +kernel⟩,
    ⟨95, heard [2], training link0, [2], by decide +kernel⟩,
    ⟨95, heard [3], training link0, [3], by decide +kernel⟩,
    ⟨95, training { link0 with switchDue := true }, by decide +kernel⟩,
    ⟨95, heard [0x0804], training link0, [0x0804], by decide +kernel⟩,
    ⟨95, heard [0x0704], training link0, [0x0704], by decide +kernel⟩,
    ⟨95, heard [5], training link0, [5], by decide +kernel⟩,
    ⟨95, 0, training { link0 with phase := 2, locked := 128, lit := 128, peerLit := 128, evals := [(7, ⟨65536, 0, 0⟩)] },
      by decide +kernel⟩,
    ⟨95, heard [6], training link0, [6], by decide +kernel⟩,
    ⟨95, heard [7], training link0, [7], by decide +kernel⟩,
    ⟨95, training link0, by decide +kernel⟩,
    ⟨95, heard [8], training link0, [8], by decide +kernel⟩,
    ⟨95, heard [9], training link0, [9], by decide +kernel⟩⟩

/-- A line that agent 3 owns by name 0 of partition 0, asked for where `r` is 8. -/
def ownedLine (r : Nat) : DirEntry := ⟨0, true, 8, r, false, [(3, (0, 0))]⟩
/-- A live block whose port 95 attaches accelerator 3, its internal ports closed where `core` says, admitting partition 0 where
`mask` is 1, with the directory entry of that line. -/
def attached (core : Bool) (mask r : Nat) : State :=
  let s := setup live [(PORT_STATUS_STATE 95, 3), (PORT_CFG_MODE 95, 0), (PORT_CFG_PART_MASK 95, mask), (XBAR_PORT_CFG_ACCEL_SLOT 95, 3)]
  { s with dir := [ownedLine r], xb := { s.xb with closed := core } }
/-- A block with the attach message `f` in front. -/
def messaged (s : State) (f : Flit) (d : Option Flit) : State := { s with xb := { s.xb with rx := [(95, [.attach f d])] } }
/-- What is left when the message of kind `k` is taken. -/
def left (s : State) (f : Flit) (d : Option Flit) (k : Nat) : State := (((messaged s f d).takeAttach 95 k).getD (attachMsg f d, live)).2
/-- States that meet the hypotheses of `AttachMessages`, clause by clause. -/
theorem witness_AttachMessages :
    (∃ (p : Port) (s u : State) (x : AMsg), s.takeAttach p.val 0x10 = some (x, u) ∧ u.xb.closed = true) ∧
    (∃ (p : Port) (s u : State) (x : AMsg), s.takeAttach p.val 0x10 = some (x, u) ∧ u.xb.closed = false ∧ u.portAdmits p.val
      x.part = false) ∧
    (∃ (p : Port) (s u : State) (x : AMsg), s.takeAttach p.val 0x10 = some (x, u) ∧ u.xb.closed = false ∧ u.portAdmits p.val
      x.part = true) ∧
    (∃ (p : Port) (id : Nat) (s : State) (w : LcWait) (rest : List LcWait), takeFirst (fun (w : LcWait) => w.id == id &&
      w.limit != 0 && decide (w.limit ≤ w.edges)) (s.link p.val).lcWaits = some (w, rest)) ∧
    (∃ (p : Port) (s u : State) (x : AMsg), s.takeAttach p.val 0x11 = some (x, u) ∧ u.xb.closed = false ∧ u.portAdmits p.val
      x.part = true) ∧
    (∃ (p : Port) (own : Bool) (s u : State) (x : AMsg), s.takeAttach p.val (if own then 0x21 else 0x20) = some (x, u) ∧
      u.xb.closed = false ∧ u.portAdmits p.val x.part = true) ∧
    (∃ (p : Port) (s u : State) (x : AMsg) (e : DirEntry), s.takeAttach p.val 0x23 = some (x, u) ∧ u.xb.closed = false ∧
      u.portAdmits p.val x.part = true ∧ u.dirNamed (u.agentAt p.val) x = some e ∧ e.recalling.testBit (u.agentAt p.val) =
      false) ∧
    (∃ (p : Port) (s u : State) (x : AMsg) (e : DirEntry) (d : List Byte), s.takeAttach p.val 0x22 = some (x, u) ∧ u.xb.closed
      = false ∧
      let a := u.agentAt p.val
      u.dirNamed a x = some e ∧ e.owned = true ∧ x.data = some d) ∧
    (∃ (p : Port) (s u : State) (x : AMsg), s.takeAttach p.val 0x22 = some (x, u) ∧ u.xb.closed = false ∧
      let a := u.agentAt p.val
      (u.dirNamed a x = none ∨ (∃ e : DirEntry, u.dirNamed a x = some e ∧ e.owned = false))) ∧
    (∃ (p : Port) (s u : State) (x : AMsg) (e : DirEntry), u.xb.closed = false ∧ u.dirNamed (u.agentAt p.val) x = some e ∧
      e.recalling.testBit (u.agentAt p.val) = true ∧ s.takeAttach p.val 0x30 = some (x, u)) ∧
    (∃ (p : Port) (s u : State) (x : AMsg) (e : DirEntry), u.xb.closed = false ∧ u.dirNamed (u.agentAt p.val) x = some e ∧
      e.recalling.testBit (u.agentAt p.val) = true ∧ s.takeAttach p.val 0x31 = some (x, u)) ∧
    (∃ (p : Port) (s u : State) (x : AMsg), s.takeAttach p.val 0x32 = some (x, u)) ∧
    (∃ (p : Port) (s u : State) (f : Flit) (d : Option Flit), s.takeRx p.val isAttachItem = some (.attach f d, u) ∧ (s.isAttach
      p.val = false ∨ fromAccel (attachMsg f d).msg = false)) :=
  ⟨⟨95, messaged (attached true 1 0) [0x10] none, left (attached true 1 0) [0x10] none 0x10, attachMsg [0x10] none,
      by decide +kernel⟩,
    ⟨95, messaged (attached false 0 0) [0x10] none, left (attached false 0 0) [0x10] none 0x10, attachMsg [0x10] none,
      by decide +kernel⟩,
    ⟨95, messaged (attached false 1 0) [0x10] none, left (attached false 1 0) [0x10] none 0x10, attachMsg [0x10] none,
      by decide +kernel⟩,
    ⟨95, 0, live.setLink 95 { link0 with lcWaits := [⟨0, 0, 0, 1, 65535, 65535⟩] }, ⟨0, 0, 0, 1, 65535, 65535⟩, [],
      by decide +kernel⟩,
    ⟨95, messaged (attached false 1 0) [0x11] none, left (attached false 1 0) [0x11] none 0x11, attachMsg [0x11] none,
      by decide +kernel⟩,
    ⟨95, true, messaged (attached false 1 0) [0x21] none, left (attached false 1 0) [0x21] none 0x21, attachMsg [0x21] none,
      by decide +kernel⟩,
    ⟨95, messaged (attached false 1 0) [0x23] none, left (attached false 1 0) [0x23] none 0x23, attachMsg [0x23] none,
      ownedLine 0, by decide +kernel⟩,
    ⟨95, messaged (attached false 1 0) [0x22] (some [0]), left (attached false 1 0) [0x22] (some [0]) 0x22,
      attachMsg [0x22] (some [0]), ownedLine 0, wordsBytes [0], by decide +kernel⟩,
    ⟨95, messaged (attached false 1 0) [0x22, 64] (some [0]), left (attached false 1 0) [0x22, 64] (some [0]) 0x22,
      attachMsg [0x22, 64] (some [0]), by decide +kernel, by decide +kernel, Or.inl (by decide +kernel)⟩,
    ⟨95, messaged (attached false 1 8) [0x30] (some [0]), left (attached false 1 8) [0x30] (some [0]) 0x30,
      attachMsg [0x30] (some [0]), ownedLine 8, by decide +kernel⟩,
    ⟨95, messaged (attached false 1 8) [0x31] none, left (attached false 1 8) [0x31] none 0x31, attachMsg [0x31] none,
      ownedLine 8, by decide +kernel⟩,
    ⟨95, messaged (attached false 1 0) [0x32] none, left (attached false 1 0) [0x32] none 0x32, attachMsg [0x32] none,
      by decide +kernel⟩,
    ⟨95, messaged (attached false 1 0) [0x90] none, attached false 1 0, [0x90], none, by decide +kernel⟩⟩

/-- States that meet the hypotheses of `CxlAndHostMemory`, clause by clause. -/
theorem witness_CxlAndHostMemory :
    (∃ (s : State), s.cxlUp = true) ∧
    (∃ (s : State), s.cxlUp = false) ∧
    (∃ (x16 gt64 : Bool) (s : State), 6 ≤ s.phase ∧ s.rs.perst = false ∧ s.cxlUp = false) ∧
    (∃ (pa len : Nat) (wr : Option (List Byte)) (ca : Bool) (s : State), s.hostOpen = true ∧ s.hdmClaims pa = true ∧ 0 < len ∧
      let addr := pa - s.hm.hdmBase
      addr % 64 + len ≤ 64 ∧ s.hdmClosed (addr / 2 ^ 30) = true) ∧
    (∃ (pa len : Nat) (wr : Option (List Byte)) (ca : Bool) (s : State), s.hostOpen = true ∧ s.hdmClaims pa = true ∧ 0 < len ∧
      let addr := pa - s.hm.hdmBase
      addr % 64 + len ≤ 64 ∧ s.hdmClosed (addr / 2 ^ 30) = false) ∧
    (∃ (i : Nat) (v : Word) (s : State), i < 3 ∧ s.hostOpen = true ∧ s.on GLOBAL_BOOT_STATUS_HALTED = false ∧ s.on
      GLOBAL_CXL_STATUS_HDM_COMMITTED = false ∧ i < 2) ∧
    (∃ (i : Nat) (v : Word) (s : State), i < 3 ∧ s.hostOpen = true ∧ s.on GLOBAL_BOOT_STATUS_HALTED = false ∧ s.on
      GLOBAL_CXL_STATUS_HDM_COMMITTED = false ∧ i = 2 ∧ bit v 9 = true ∧ (mget 0 s.hm.hdmRegs 1).toNat = 2 ^ 38) ∧
    (∃ (i : Nat) (v : Word) (s : State), i < 3 ∧ s.hostOpen = true ∧ s.on GLOBAL_BOOT_STATUS_HALTED = false ∧ s.on
      GLOBAL_CXL_STATUS_HDM_COMMITTED = false ∧ i = 2 ∧ bit v 9 = false) :=
  ⟨⟨setup live [(GLOBAL_CXL_STATUS_LINK_UP, 1)], by decide +kernel⟩,
    ⟨live, by decide +kernel⟩,
    ⟨true, true, live, by decide +kernel⟩,
    ⟨2 ^ 38 - 1, 1, none, true, setup live [(GLOBAL_CXL_STATUS_LINK_UP, 1), (GLOBAL_CXL_STATUS_HDM_COMMITTED, 1)],
      by decide +kernel⟩,
    ⟨2 ^ 38 - 2 ^ 30 - 64, 64, some [], true,
      setup live [(GLOBAL_CXL_STATUS_LINK_UP, 1), (GLOBAL_CXL_STATUS_HDM_COMMITTED, 1), (MEM_HBM_STATUS_IN_SERVICE, 15)],
      by decide +kernel⟩,
    ⟨1, 0, setup live [(GLOBAL_CXL_STATUS_LINK_UP, 1)], by decide +kernel⟩,
    ⟨2, 0x200, { setup live [(GLOBAL_CXL_STATUS_LINK_UP, 1)] with hm := { live.hm with hdmRegs := [(1, 2 ^ 38)] } },
      by decide +kernel⟩,
    ⟨2, 0, setup live [(GLOBAL_CXL_STATUS_LINK_UP, 1)], by decide +kernel⟩⟩

/-- A Sparge of partition 31 that has cleared everything. -/
def spargeOf : Sparge := ⟨31, true, 32, false, true, 0⟩
/-- States that meet the hypotheses of `Partitions`, clause by clause. -/
theorem witness_Partitions :
    (∃ (m : Mbx) (s : State),
      let n := s.selPart m
      bit (s.arg m 0) 0 = false ∧ s.mbReady { primary 0xB01 2 true with kept := true } m (decide (s.cmdLen m = 2)) ∧ n ≠ 0 ∧
      s.get (PART_STATE_STATE n) ≠ 1 ∧ s.get (PART_STATE_STATE n) ≠ 2) ∧
    (∃ (m : Mbx) (s : State),
      let n := s.selPart m
      bit (s.arg m 0) 0 = true ∧ s.mbReady { primary 0xB01 2 true with kept := true } m (decide (s.cmdLen m = 20)) ∧ n ≠ 0 ∧
      s.get (PART_STATE_STATE n) ≠ 1 ∧ s.get (PART_STATE_STATE n) ≠ 2) ∧
    (∃ (m : Mbx) (s : State), s.mbReady { tenant 0xB04 1 with kept := true } m true) ∧
    (∃ (m : Mbx) (s : State),
      let n := s.selPart m
      s.mbReady (primary 0xB02 2 true) m true ∧ (∀ x ∈ s.pa.sparges, x.mbx ≠ m) ∧ s.get (PART_STATE_STATE n) = 1) ∧
    (∃ (n : Part) (d : Nat) (s : State) (x : Sparge), s.pa.sparges.find? (fun x => x.part == n.val) = some x ∧ x.quiet = true ∧
      (∀ o ∈ s.tr.ops, Pkt.part o.2.pkt ≠ n) ∧ (∀ e ∈ s.dir, s.dirMine n e = false) ∧ s.rs.core = false ∧ x.mbx ∉ s.hm.held ∧
      s.spargeLeast x ≤ d) ∧
    (∃ (m : Mbx) (s : State),
      let n := s.selPart m
      s.mbReady (primary 0xB03 1 true) m true ∧ n ≠ 0 ∧ s.get (PART_STATE_STATE n) = 3) :=
  ⟨⟨32, cmd live 32 0xB01 [sel 31 0 0, 0], by decide +kernel⟩,
    ⟨32, cmd live 32 0xB01 ([sel 31 0 0, 1] ++ List.replicate 18 0), by decide +kernel⟩,
    ⟨0, cmd live 0 0xB04 [sel 0 0 0], by decide +kernel⟩,
    ⟨32, cmd live 32 0xB02 [sel 0 0 0, 1], by decide +kernel⟩,
    ⟨31, 6000, { live with pa := { live.pa with sparges := [spargeOf] } }, spargeOf, by decide +kernel⟩,
    ⟨32, setup (cmd live 32 0xB03 [sel 31 0 0]) [(PART_STATE_STATE 31, 3)], by decide +kernel⟩⟩

/-- A pair whose first part is known. -/
theorem pair_of {α β : Type} (f : α × β) {a : α} (h : f.1 = a) : ∃ b, f = (a, b) := ⟨f.2, by rw [← h]⟩
/-- A mailbox that reads the calibration store into `HBM`. -/
def calReading : State := setup (cmd live 32 0xE01 [sel 0 1 0, 0, 512]) [(MEM_HBM_STATUS_IN_SERVICE, 15)]
/-- States that meet the hypotheses of `FirmwareAndCalibration`, clause by clause. -/
theorem witness_FirmwareAndCalibration :
    (∃ (m : Mbx) (a : Reply) (s : State) (bs : List Byte), s.mbReady
      { primary 0xB05 3 with kept := true, units := locUnits (s.bulkLoc m), bulk := true } m (s.bulkOk m) ∧ s.on
      PART_STATUS_WRITING = false ∧ s.bulkRead m a = .ok bs) ∧
    (∃ (m : Mbx) (a : Reply) (s : State) (st : Nat), s.mbReady
      { primary 0xB05 3 with kept := true, units := locUnits (s.bulkLoc m), bulk := true } m (s.bulkOk m) ∧ s.on
      PART_STATUS_WRITING = false ∧ s.bulkRead m a = .error st) ∧
    (∃ (m : Mbx) (s : State), s.mbReady { primary 0xB06 2 with kept := true } m true ∧ s.rs.calWrite ≠ none) ∧
    (∃ (m : Mbx) (s : State) (bs : List Byte), s.mbReady { primary 0xB06 2 with kept := true } m true ∧ s.pa.staged = some bs ∧
      (bit (s.arg m 0) 0 = false ∨ wb (bytesWords 2 (bs.take 16)) 1 31 0 ≤ 255) ∧ s.rs.calWrite = none) ∧
    (∃ (s : State) (m : Nat) (adv : Bool), s.pa.commit = some (m, adv)) ∧
    (∃ (m : Mbx) (s : State),
      let kind := bits (s.arg m 0) 1 0
     
      let spec : MbSpec := { tenant 0xB07 (if kind = 0 then 8 else 2) with naming := false, kept := true }
      s.mbReady spec m true) ∧
    (∃ (m : Mbx) (s t : State),
      let k := s.cmdIdx m
      s.mbReady { primary 0xE01 3 with kept := true, units := locUnits (s.bulkLoc m), bulk := true } m (decide (k ≤ 3) &&
      s.bulkOk m) ∧ (calSection k).2 ≤ s.bulkLen m ∧ s.bulkWrite m (s.calBytes k) = (0, t)) ∧
    (∃ (m : Mbx) (a : Reply) (s : State) (bs : List Byte),
      let k := s.cmdIdx m
      s.mbReady { primary 0xE02 3 with kept := true, units := locUnits (s.bulkLoc m), bulk := true } m (decide (k < 3) &&
      s.bulkOk m) ∧ s.bulkLen m = (calSection k).2 ∧ s.on PART_STATUS_WRITING = false ∧ s.bulkRead m a = .ok bs ∧ (bytesWords
      ((calSection k).2 / 8) bs).all (calReserved k) = true) ∧
    (∃ (s : State) (m k : Nat) (bs : List Byte), s.rs.calWrite = some (m, k, bs) ∧ k < 3) ∧
    (∃ (m : Mbx) (s : State),
      let mode := bits (s.arg m 0) 1 0
     
      let spec : MbSpec := { tenant 0xD01 2 with naming := false, kept := true, units := [GLOBAL_OPTIONS_CASK_PRESENT] }
      s.mbReady spec m (decide (mode < 3)) ∧ s.on CASK_STATUS_LINK_UP = true ∧ mode = 0 ∧ s.on CASK_STATUS_READOUT_VALID =
      true) ∧
    (∃ (m : Mbx) (s : State),
      let mode := bits (s.arg m 0) 1 0
     
      let spec : MbSpec := { tenant 0xD01 2 with naming := false, kept := true, units := [GLOBAL_OPTIONS_CASK_PRESENT] }
      s.mbReady spec m (decide (mode < 3)) ∧ s.on CASK_STATUS_LINK_UP = true ∧ mode = 1 ∧ s.on CASK_STATUS_CERT_VALID = true) ∧
    (∃ (m : Mbx) (s : State) (l : _),
      let mode := bits (s.arg m 0) 1 0
     
      let spec : MbSpec := { tenant 0xD01 2 with naming := false, kept := true, units := [GLOBAL_OPTIONS_CASK_PRESENT] }
      s.mbReady spec m (decide (mode < 3)) ∧ s.on CASK_STATUS_LINK_UP = true ∧ mode = 2 ∧ s.sh.log = some l) :=
  ⟨⟨32, .ok [], cmd live 32 0xB05 [0, 0, 64], List.replicate 64 0, by decide +kernel⟩,
    ⟨32, .error, cmd live 32 0xB05 [0, 0, 64], 8, by decide +kernel⟩,
    ⟨32, { cmd live 32 0xB06 [0, 1] with rs := { live.rs with calWrite := some (32, 2, []) } }, by decide +kernel⟩,
    ⟨32, { cmd live 32 0xB06 [0, 1] with pa := { live.pa with staged := some [] } }, [], by decide +kernel⟩,
    ⟨{ live with pa := { live.pa with commit := some (32, true) } }, 32, true, by decide +kernel⟩,
    ⟨0, cmd live 0 0xB07 [0, 3], by decide +kernel⟩,
(by
      obtain ⟨t, h⟩ := pair_of (calReading.bulkWrite (32 : Mbx).val (calReading.calBytes (calReading.cmdIdx (32 : Mbx).val)))
        (by decide +kernel : _ = 0)
      exact ⟨32, calReading, t, by decide +kernel, by decide +kernel, h⟩),
    ⟨32, .ok [], cmd live 32 0xE02 [sel 0 1 0, 0, 512], List.replicate 512 0, by decide +kernel⟩,
    ⟨{ live with rs := { live.rs with calWrite := some (32, 2, []) } }, 32, 2, [], by decide +kernel⟩,
    ⟨0, setup (cmd live 0 0xD01 [0, 0]) [(CASK_STATUS_LINK_UP, 1), (CASK_STATUS_READOUT_VALID, 1)], by decide +kernel⟩,
    ⟨0, setup (cmd live 0 0xD01 [0, 1]) [(CASK_STATUS_LINK_UP, 1), (CASK_STATUS_CERT_VALID, 1)], by decide +kernel⟩,
    ⟨0, { setup (cmd live 0 0xD01 [0, 2]) [(CASK_STATUS_LINK_UP, 1)] with sh := { live.sh with log := some [] } }, [],
      by decide +kernel⟩⟩

/-- `s` with an offset of 0 for every temperature sensor. -/
def trimmed (s : State) : State :=
  { s with rs := { s.rs with cal := (List.range 32).flatMap (fun i => [(0x1840 + 8 * i, 0), (0x1841 + 8 * i, 0)]) } }
/-- States that meet the hypotheses of `PowerGovernor`, clause by clause. -/
theorem witness_PowerGovernor :
    (∃ (s : State) (g : Ramp), s.pg.grant = some g ∧ g.stop ≤ s.beat) ∧
    (∃ (s : State) (q e b : Nat), s.pg.asked = some (q, e, b) ∧ b + s.get PGOV_CONFIG_ARB_WAIT ≤ s.edge) ∧
    (∃ (s : State), s.on PGOV_STATUS_ALERT = false ∧ s.rs.por = false ∧ s.rs.level ≠ 2) ∧
    (∃ (s : State), s.on PGOV_STATUS_ALERT = true) ∧
    (∃ (s : State), s.on PGOV_STATUS_ALERT = true ∧ s.pg.capKept = none) ∧
    (∃ (s : State) (w : _), s.on PGOV_STATUS_ALERT = true ∧ s.pg.capKept = some w) ∧
    (∃ (v : List (BitVec 16)) (s : State) (i : Nat), s.rs.por = false ∧ i < 32 ∧ 6400 ≤ s.sensorTemp v i) ∧
    (∃ (v : List (BitVec 16)) (s : State), s.on GLOBAL_THERMAL_HOT = true ∧ (∀ i < 32, s.sensorTemp v i < 6080)) :=
  ⟨⟨{ live with pg := { live.pg with grant := some ⟨1, 0, 0, 0, 0⟩ } }, ⟨1, 0, 0, 0, 0⟩, by decide +kernel⟩,
    ⟨{ live with tm := { live.tm with edges := 0xFFFF }, pg := { live.pg with asked := some (0, 1, 0) } }, 0, 1, 0,
      by decide +kernel⟩,
    ⟨live, by decide +kernel⟩,
    ⟨setup live [(PGOV_STATUS_ALERT, 1)], by decide +kernel⟩,
    ⟨setup live [(PGOV_STATUS_ALERT, 1)], by decide +kernel⟩,
    ⟨{ setup live [(PGOV_STATUS_ALERT, 1)] with pg := { live.pg with capKept := some 65535 } }, 65535, by decide +kernel⟩,
    ⟨List.replicate 32 6400, trimmed live, 0, by decide +kernel⟩,
    ⟨List.replicate 32 6079, trimmed (setup live [(GLOBAL_THERMAL_HOT, 1)]), by decide +kernel⟩⟩

/-- `s` with the control message `m` of endpoint 2 in front. -/
def told (s : State) (m : List Word) : State := { s with xb := { s.xb with ctlIn := [(2, m)] } }
/-- `s` when its control message has been taken. -/
def counted (s : State) : State := s.bump HEALTH_NOTICE_COUNT
/-- The first word of a message of type `k` from endpoint 2 with tag 65535. -/
def ctlWord (k : Nat) : Word := mkWord [(7, 0, k), (31, 16, 65535), (63, 48, 2)]
/-- An acting arbiter. -/
def acting : State := { setup live [(PGOV_STATUS_ARB_ACTING, 1), (HEALTH_CONFIG_EXPEL_BUDGET, 1)] with
  pg := { live.pg with actingAt := some 0 }, tm := { live.tm with clock := span600 } }
/-- A module that has asked endpoint 3 for a ramp. -/
def askedRamp : State := { setup live [(whole PGOV_ARB_LIST, 0xFFFFFFFFFFFF0003)] with pg := { live.pg with asked := some (65535, 3, 0) } }
/-- An expulsion asked for. -/
def expelOf : Expel := ⟨65535, true, 95, 0⟩
/-- A module that waits for its answer. -/
def expelling : State := { live with he := { live.he with asks := [expelOf] } }
/-- States that meet the hypotheses of `ControlMessages`, clause by clause. -/
theorem witness_ControlMessages :
    (∃ (s : State) (b : Nat), s.pg.firstSince = some b ∧ b + s.rd PGOV_GRANT_MAX_LEN ≤ s.edge ∧ s.on PGOV_STATUS_ARB_ACTING =
      false) ∧
    (∃ (s v : State) (m : List Word), s.takesCtl 1 m v ∧
      let u := v.arbAge
      (u.on PGOV_STATUS_ARB_ACTING = false ∨ 64 ≤ u.pg.ledger.length)) ∧
    (∃ (s v : State) (m : List Word), s.takesCtl 1 m v ∧
      let u := v.arbAge
     
      let rack := u.rd PGOV_RACK_SLOPE_UP
     
      let slope := min (wb m 1 63 32) rack
     
      let len := u.rampBeats (wb m 1 31 0) slope
     
      let t0 := u.beat + u.get PGOV_CONFIG_ARB_LEAD
     
      let fits := fun t => slopeFits u.pg.ledger rack slope t len
      u.on PGOV_STATUS_ARB_ACTING = true ∧ u.pg.ledger.length < 64 ∧ fits t0 = true) ∧
    (∃ (s v : State) (m : List Word) (q e b : Nat), v.pg.asked = some (q, e, b) ∧ q = ctReq m ∧ s.takesCtl 2 m v) ∧
    (∃ (s v : State) (m : List Word) (q e b : Nat), v.pg.asked = some (q, e, b) ∧ q = ctReq m ∧ s.takesCtl 3 m v ∧ v.arbiter =
      some e) ∧
    (∃ (s v : State) (m : List Word), s.takesCtl 4 m v) ∧
    (∃ (s v : State) (m : List Word) (t : _), s.takesCtl 5 m v ∧
      let u := v.arbAge
      u.on PGOV_STATUS_ARB_ACTING = true ∧ u.pg.actingAt = some t ∧ t + span600 ≤ u.tm.clock ∧ u.pg.expels.length < u.get
      HEALTH_CONFIG_EXPEL_BUDGET) ∧
    (∃ (s v : State) (m : List Word), s.takesCtl 5 m v ∧
      let u := v.arbAge
      (u.on PGOV_STATUS_ARB_ACTING = false ∨ u.get HEALTH_CONFIG_EXPEL_BUDGET ≤ u.pg.expels.length)) ∧
    (∃ (s v : State) (m : List Word) (a : Expel) (rest : List Expel), takeFirst (fun (a : Expel) => a.req == ctReq m) v.he.asks
      = some (a, rest) ∧ s.takesCtl 6 m v) ∧
    (∃ (s v : State) (m : List Word) (a : Expel) (rest : List Expel), takeFirst (fun (a : Expel) => a.req == ctReq m) v.he.asks
      = some (a, rest) ∧ s.takesCtl 7 m v) ∧
    (∃ (s v : State) (m : List Word), s.takesCtl 8 m v) ∧
    (∃ (s v : State) (m : List Word), s.takesCtl 9 m v) ∧
    (∃ (s v : State) (m : List Word), s.takesCtl 10 m v ∧ (∀ i < 96, v.get (HEALTH_PEER_A_STATE i) ≠ 2 ∧ v.get
      (HEALTH_PEER_A_STATE i) ≠ 3)) ∧
    (∃ (s v : State) (m : List Word) (i : Nat), s.takesCtl 11 m v ∧ (List.range 96).find? (fun i => v.get (HEALTH_PEER_A_STATE
      i) != 0 && v.get (HEALTH_PEER_A_PEER_EP i) == ctSender m) = some i) :=
  ⟨⟨{ live with tm := { live.tm with edges := 0xFFFFFFFFFFFFFFFF }, pg := { live.pg with firstSince := some 0 } }, 0,
      by decide +kernel⟩,
    ⟨told live [ctlWord 1], counted live, [ctlWord 1], by decide +kernel⟩,
    ⟨told acting [ctlWord 1, 0xFFFFFFFF00000001], counted acting, [ctlWord 1, 0xFFFFFFFF00000001], by decide +kernel⟩,
    ⟨told askedRamp [ctlWord 2], counted askedRamp, [ctlWord 2], 65535, 3, 0, by decide +kernel⟩,
    ⟨told askedRamp [ctlWord 3], counted askedRamp, [ctlWord 3], 65535, 3, 0, by decide +kernel⟩,
    ⟨told live [ctlWord 4], counted live, [ctlWord 4], by decide +kernel⟩,
    ⟨told acting [ctlWord 5], counted acting, [ctlWord 5], 0, by decide +kernel⟩,
    ⟨told live [ctlWord 5], counted live, [ctlWord 5], by decide +kernel⟩,
    ⟨told expelling [ctlWord 6], counted expelling, [ctlWord 6], expelOf, [], by decide +kernel⟩,
    ⟨told expelling [ctlWord 7], counted expelling, [ctlWord 7], expelOf, [], by decide +kernel⟩,
    ⟨told live [ctlWord 8], counted live, [ctlWord 8], by decide +kernel⟩,
    ⟨told live [ctlWord 9], counted live, [ctlWord 9], by decide +kernel⟩,
    ⟨told live [ctlWord 10], counted live, [ctlWord 10], by decide +kernel⟩,
    ⟨told (setup live [(HEALTH_PEER_A_STATE 95, 1), (HEALTH_PEER_A_PEER_EP 95, 2)]) [ctlWord 11],
      counted (setup live [(HEALTH_PEER_A_STATE 95, 1), (HEALTH_PEER_A_PEER_EP 95, 2)]), [ctlWord 11], 95, by decide +kernel⟩⟩

/-- States that meet the hypotheses of `Health`, clause by clause. -/
theorem witness_Health :
    (∃ (i : Port) (s : State) (b : Nat), mget none s.he.downAt i.val = some b ∧ s.get (HEALTH_PEER_A_STATE i.val) = 1 ∧ b +
      s.get HEALTH_CONFIG_DEAD_HOLD ≤ s.edge ∧ (∀ p ∈ s.peerPorts i.val, s.active p = false)) ∧
    (∃ (m : Mbx) (s : State),
      let a := s.arg m
      s.mbReady { primary 0xC01 9 with kept := true } m (decide (1 ≤ bits (a 0) 63 48) && decide (1 ≤ bits (a 0) 20 16) &&
      decide (bits (a 0) 20 16 ≤ 16))) ∧
    (∃ (m : Mbx) (s : State), s.mbReady { primary 0xC02 2 with kept := true } m true ∧ s.on PGOV_STATUS_ALERT = true) ∧
    (∃ (m : Mbx) (s : State), s.mbReady { primary 0xC02 2 with kept := true } m true ∧ s.on PGOV_STATUS_ALERT = false) ∧
    (∃ (m : Mbx) (s : State), s.mbReady { primary 0xC05 2 with kept := true, minor := 2 } m true) ∧
    (∃ (m : Mbx) (s : State),
      let i := s.cmdIdx m
     
      let peer := bit (s.arg m 0) 0
     
      let spec := fun (op : Nat) =>
          { primary op 2 with kept := true, units := if peer then [] else [⟨GLOBAL_OPTIONS, 8 + i / 8, 8 + i / 8⟩] }
      s.mbReady (spec 0xC04) m (decide (i < 96)) ∧ peer = true ∧ s.get (HEALTH_PEER_A_STATE i) = 1) ∧
    (∃ (m : Mbx) (s : State),
      let i := s.cmdIdx m
     
      let peer := bit (s.arg m 0) 0
     
      let spec := fun (op : Nat) =>
          { primary op 2 with kept := true, units := if peer then [] else [⟨GLOBAL_OPTIONS, 8 + i / 8, 8 + i / 8⟩] }
      s.mbReady (spec 0xC04) m (decide (i < 96)) ∧ peer = true ∧ s.get (HEALTH_PEER_A_STATE i) ≠ 1) ∧
    (∃ (m : Mbx) (s : State),
      let i := s.cmdIdx m
     
      let peer := bit (s.arg m 0) 0
     
      let spec := fun (op : Nat) =>
          { primary op 2 with kept := true, units := if peer then [] else [⟨GLOBAL_OPTIONS, 8 + i / 8, 8 + i / 8⟩] }
      s.mbReady (spec 0xC04) m (decide (i < 96)) ∧ peer = false ∧ s.portState i ≠ 5 ∧ s.portState i ≠ 0) ∧
    (∃ (m : Mbx) (s : State),
      let i := s.cmdIdx m
     
      let peer := bit (s.arg m 0) 0
     
      let spec := fun (op : Nat) =>
          { primary op 2 with kept := true, units := if peer then [] else [⟨GLOBAL_OPTIONS, 8 + i / 8, 8 + i / 8⟩] }
      s.mbReady (spec 0xC03) m (decide (i < 96)) ∧ peer = true ∧ s.get (HEALTH_PEER_A_STATE i) = 3) ∧
    (∃ (m : Mbx) (s : State),
      let i := s.cmdIdx m
     
      let peer := bit (s.arg m 0) 0
     
      let spec := fun (op : Nat) =>
          { primary op 2 with kept := true, units := if peer then [] else [⟨GLOBAL_OPTIONS, 8 + i / 8, 8 + i / 8⟩] }
      s.mbReady (spec 0xC03) m (decide (i < 96)) ∧ peer = false ∧ s.portState i = 5) :=
  ⟨⟨95,
      { setup live [(HEALTH_PEER_A_STATE 95, 1), (HEALTH_PEER_A_PEER_EP 95, 2), (HEALTH_CONFIG_DEAD_HOLD, 1)] with tm := { live.tm with edges := 0xFFFFFFFF }, he := { live.he with downAt := [(95, some 0)] } },
      0, by decide +kernel⟩,
    ⟨32, cmd live 32 0xC01 ([0, mkWord [(63, 48, 1), (20, 16, 16)]] ++ List.replicate 7 0), by decide +kernel⟩,
    ⟨32, setup (cmd live 32 0xC02 [0, 0xFFFF]) [(PGOV_STATUS_ALERT, 1)], by decide +kernel⟩,
    ⟨32, cmd live 32 0xC02 [0, 0xFFFF], by decide +kernel⟩,
    ⟨32, cmd live 32 0xC05 [0, 0], by decide +kernel⟩,
    ⟨32, setup (cmd live 32 0xC04 [sel 0 95 0, 1]) [(HEALTH_PEER_A_STATE 95, 1)], by decide +kernel⟩,
    ⟨32, cmd live 32 0xC04 [sel 0 95 0, 1], by decide +kernel⟩,
    ⟨32, setup (cmd live 32 0xC04 [sel 0 95 0, 0]) [(PORT_STATUS_STATE 95, 1)], by decide +kernel⟩,
    ⟨32, setup (cmd live 32 0xC03 [sel 0 95 0, 1]) [(HEALTH_PEER_A_STATE 95, 3)], by decide +kernel⟩,
    ⟨32, setup (cmd live 32 0xC03 [sel 0 95 0, 0]) [(PORT_STATUS_STATE 95, 5)], by decide +kernel⟩⟩

/-- States that meet the hypotheses of `Resets`, clause by clause. -/
theorem witness_Resets :
    (∃ (s : State), s.rs.por = false ∧ s.rs.level = 0) ∧
    (∃ (s : State), (s.rs.por = true ∨ s.rs.level ≠ 0)) ∧
    (∃ (s : State), s.rs.core = true ∧ s.rs.level = 0 ∧ s.rs.por = false) ∧
    (∃ (s : State), s.rs.por = false ∧ s.rs.level ≠ 2) ∧
    (∃ (s : State), s.rs.por = true ∧ s.rs.pinHeld = false) ∧
    (∃ (s : State), s.rs.por = true ∧ s.rs.pinHeld = true) ∧
    (∃ (s : State), s.rs.por = false ∧ s.rs.level = 1) ∧
    (∃ (s : State), s.rs.por = false ∧ s.rs.level = 2) ∧
    (∃ (s : State) (src mode : BitVec 2) (pins : PorPins), s.rs.por = true ∧ s.rs.off = false ∧ s.rs.pinHeld = false) ∧
    (∃ (s t : State) (aux : PinLevel), (exec .powerOnReset s = .next t ∧ aux = (if t.rs.aux then .on else .off) ∨ exec
      .thermalTrip s = .next t ∧ s.rs.por = false ∧ aux = .off ∨ exec .breakerOpen s = .next t ∧ aux = .off ∨ exec
      .hotSwapCharge s = .next t ∧ aux = .on)) ∧
    (∃ (s : State), s.rs.por = false) :=
  ⟨⟨live, by decide +kernel⟩,
    ⟨State.reset, by decide +kernel⟩,
    ⟨resetting (fun r => { r with core := true }), by decide +kernel⟩,
    ⟨live, by decide +kernel⟩,
    ⟨State.reset, by decide +kernel⟩,
    ⟨{ State.reset with rs := { State.reset.rs with pinHeld := true } }, by decide +kernel⟩,
    ⟨resetting (fun r => { r with level := 1 }), by decide +kernel⟩,
    ⟨resetting (fun r => { r with level := 2 }), by decide +kernel⟩,
    ⟨State.reset, 3, 3, ⟨7, true⟩, by decide +kernel⟩,
    ⟨live, _, .off, Or.inr (Or.inl ⟨rfl, rfl, rfl⟩)⟩,
    ⟨live, by decide +kernel⟩⟩

/-- The block in bring-up phase `p`, waiting on source `w`. -/
def booting (p : Nat) (w : Option Nat) : State := setup (resetting (fun r => { r with wait := w })) [(GLOBAL_BOOT_STATUS_PHASE, p)]
/-- The block with a transfer from source `k` under way. -/
def transferring (k : Nat) : State :=
  setup (resetting (fun r => { r with wait := some k, transfer := true, imageLen := 1, next := 1 })) [(GLOBAL_BOOT_STATUS_PHASE, 0)]
/-- States that meet the hypotheses of `Bringup`, clause by clause. -/
theorem witness_Bringup :
    (∃ (line host : List Byte) (crc : Option (BitVec 32)) (ok : Bool) (s : State), s.booting = true ∧ s.rs.transfer = true ∧
      s.rs.wait = some 1) ∧
    (∃ (line host : List Byte) (crc : Option (BitVec 32)) (ok : Bool) (s : State), s.booting = true ∧ s.rs.transfer = true ∧
      s.rs.wait = some 2 ∧ crc = none) ∧
    (∃ (line host : List Byte) (crc : Option (BitVec 32)) (ok : Bool) (s : State) (c : _), s.booting = true ∧ s.rs.transfer =
      true ∧ s.rs.wait = some 2 ∧ crc = some c) ∧
    (∃ (line host : List Byte) (crc : Option (BitVec 32)) (ok : Bool) (s : State), s.booting = true ∧ s.rs.transfer = true ∧
      s.rs.wait = some 3 ∧ s.rs.imageLen ≠ 0 ∧ s.rs.asked = 0 ∧ s.rs.want ≤ s.rs.next) ∧
    (∃ (s : State) (src : Nat) (bs : List Byte), src < 4) ∧
    (∃ (s : State) (k : Nat), s.rs.wait = some k ∧ 0 < k ∧ s.booting = true ∧ s.rs.transfer = false) ∧
    (∃ (s : State), s.booting = true ∧ s.phase = 0) ∧
    (∃ (s : State) (bytes : List Byte), s.booting = true ∧ s.phase = 0 ∧ s.rs.wait = none) ∧
    (∃ (s : State) (store : Bool) (f : BitVec 3) (wr : BitVec 32) (pr re : BitVec 4) (b : Bool), s.booting = true ∧ s.phase = 1
      ∧ s.get GLOBAL_STRAPS_CLK_MODE = 3) ∧
    (∃ (s : State) (store : Bool) (f : BitVec 3) (wr : BitVec 32) (pr re : BitVec 4), s.booting = true ∧ s.phase = 1 ∧ s.get
      GLOBAL_STRAPS_CLK_MODE = 0) ∧
    (∃ (s : State) (store : Bool) (f : BitVec 3) (wr : BitVec 32) (pr re : BitVec 4), s.booting = true ∧ s.phase = 1 ∧ s.get
      GLOBAL_STRAPS_CLK_MODE ≤ 1) ∧
    (∃ (s : State) (store : Bool) (f : BitVec 3) (wr : BitVec 32) (pr re : BitVec 4) (b : Bool), s.booting = true ∧ s.phase = 1
      ∧ s.get GLOBAL_STRAPS_CLK_MODE = 2) ∧
    (∃ (s : State), s.booting = true ∧ s.phase = 2) ∧
    (∃ (s : State) (faults : List Nat), s.booting = true ∧ s.phase = 2) ∧
    (∃ (s : State), s.booting = true ∧ s.rs.wait = none) ∧
    (∃ (s : State), s.booting = true ∧ s.rs.wait = some 1) ∧
    (∃ (s : State), s.booting = true ∧ s.rs.wait = some 3) ∧
    (∃ (s : State), s.booting = true ∧ s.phase = 3) ∧
    (∃ (s : State) (ok : BitVec 4) (rows : List (Nat × Nat)), s.booting = true ∧ s.phase = 4) ∧
    (∃ (s : State) (up x16 gt64 : Bool), s.booting = true ∧ s.phase = 5) ∧
    (∃ (s : State), s.booting = true ∧ s.phase = 7 ∧ s.rs.wait = none) ∧
    (∃ (s : State) (cols : List (BitVec 10)) (a b : Nat), s.booting = true ∧ s.phase = 8 ∧ s.rs.core = false) ∧
    (∃ (s : State) (cols : List (BitVec 10)) (a b : Nat), s.rs.full = true) :=
  ⟨⟨[], [], none, true, transferring 1, by decide +kernel⟩,
    ⟨[], [], none, true, transferring 2, by decide +kernel⟩,
    ⟨[], [], some 0, true, transferring 2, 0, by decide +kernel⟩,
    ⟨[], [], none, true, transferring 3, by decide +kernel⟩,
    ⟨live, 3, [], by decide +kernel⟩,
    ⟨booting 0 (some 3), 3, by decide +kernel⟩,
    ⟨booting 0 none, by decide +kernel⟩,
    ⟨booting 0 none, [], by decide +kernel⟩,
    ⟨setup (booting 1 none) [(GLOBAL_STRAPS_CLK_MODE, 3)], true, 0, 0, 0, 0, true, by decide +kernel⟩,
    ⟨booting 1 none, true, 7, 0xFFFFFFFF, 15, 15, by decide +kernel⟩,
    ⟨setup (booting 1 none) [(GLOBAL_STRAPS_CLK_MODE, 1)], true, 7, 0xFFFFFFFF, 15, 15, by decide +kernel⟩,
    ⟨setup (booting 1 none) [(GLOBAL_STRAPS_CLK_MODE, 2)], true, 7, 0xFFFFFFFF, 15, 15, true, by decide +kernel⟩,
    ⟨booting 2 none, by decide +kernel⟩,
    ⟨booting 2 none, [5], by decide +kernel⟩,
    ⟨booting 2 none, by decide +kernel⟩,
    ⟨booting 2 (some 1), by decide +kernel⟩,
    ⟨booting 2 (some 3), by decide +kernel⟩,
    ⟨booting 3 none, by decide +kernel⟩,
    ⟨booting 4 none, 15, [], by decide +kernel⟩,
    ⟨booting 5 none, true, true, false, by decide +kernel⟩,
    ⟨booting 7 none, by decide +kernel⟩,
    ⟨booting 8 none, [1023], 0, 0, by decide +kernel⟩,
    ⟨live, [1023], 0, 0, by decide +kernel⟩⟩

/-- States that meet the hypotheses of `CaskEvents`, clause by clause. -/
theorem witness_CaskEvents :
    (∃ (v : Sample) (s : State), s.ck.running = true) ∧
    (∃ (s : State), s.ck.running = true ∧ 16000 ≤ s.ck.since) ∧
    (∃ (s : State), s.ck.running = true) ∧
    (∃ (s : State),
      let n := (s.ck.frames + 1) % 2000
      n = 1000) ∧
    (∃ (s : State),
      let n := (s.ck.frames + 1) % 2000
      n = 0) ∧
    (∃ (s : State),
      let n := (s.ck.frames + 1) % 2000
      n ≠ 0 ∧ n ≠ 1000) ∧
    (∃ (s : State), s.ck.running = false) ∧
    (∃ (ok : Bool) (s : State), s.ck.running = false) ∧
    (∃ (ppm : Int) (s : State), s.ck.running = true) ∧
    (∃ (s : State), s.ck.running = true ∧ s.ck.tamper = false) ∧
    (∃ (s : State), s.ck.running = true ∧ s.ck.tamper = true) :=
  ⟨⟨⟨60000, -2000, true⟩, casked id, by decide +kernel⟩,
    ⟨casked (fun c => { c with since := 16000 }), by decide +kernel⟩,
    ⟨casked id, by decide +kernel⟩,
    ⟨casked (fun c => { c with frames := 999 }), by decide +kernel⟩,
    ⟨casked (fun c => { c with frames := 1999 }), by decide +kernel⟩,
    ⟨casked id, by decide +kernel⟩,
    ⟨live, by decide +kernel⟩,
    ⟨true, live, by decide +kernel⟩,
    ⟨10001, casked id, by decide +kernel⟩,
    ⟨casked id, by decide +kernel⟩,
    ⟨casked (fun c => { c with tamper := true }), by decide +kernel⟩⟩

/-- States that meet the hypotheses of `CaskInterface`, clause by clause. -/
theorem witness_CaskInterface :
    (∃ (s : State), s.ck.running = true) ∧
    (∃ (s : State) (a : Fin 32), s.ck.running = true ∧ 12 ≤ a.val) ∧
    (∃ (s : State) (l : List Sample) (n : Nat) (v : Sample), 0 < n ∧ l = List.replicate n v) ∧
    (∃ (s : State), s.ck.running = true ∧ s.ck.readout ≠ []) ∧
    (∃ (s : State), s.ck.running = true ∧ s.ck.readout = []) ∧
    (∃ (s : State) (a : Fin 8), s.ck.running = true) ∧
    (∃ (a : Fin 8) (v : Word) (s : State), s.ck.running = true ∧ s.ck.tamper = true ∧ s.ck.calEn = true) ∧
    (∃ (a : Fin 8) (v : Word) (s : State), s.ck.running = true ∧ (¬ (s.ck.tamper = true ∧ s.ck.calEn = true))) ∧
    (∃ (block : List Byte) (s : State), s.ck.running = true ∧ s.ck.tamper = true ∧ s.ck.calEn = true) ∧
    (∃ (block : List Byte) (s : State) (last : Bool), s.ck.running = true ∧ (¬ (s.ck.tamper = true ∧ s.ck.calEn = true))) ∧
    (∃ (i : Instr) (s : State) (a : Fin 32) (b : Fin 8) (v : Word) (last : Bool) (im : List Byte), s.ck.running = false ∧ i ∈
      [.caskTwRead a, .caskReadReadout, .caskReadCert, .caskReadLog, .caskCalRead b, .caskCalWrite b v, .caskFwUpdate last im]) :=
  ⟨⟨casked id, by decide +kernel⟩,
    ⟨casked id, 12, by decide +kernel⟩,
    ⟨live, [⟨52000, -7, true⟩], 1, ⟨52000, -7, true⟩, by decide +kernel⟩,
    ⟨casked (fun c => { c with readout := [0] }), by decide +kernel⟩,
    ⟨casked id, by decide +kernel⟩,
    ⟨casked id, 7, by decide +kernel⟩,
    ⟨7, 0, casked (fun c => { c with tamper := true, calEn := true }), by decide +kernel⟩,
    ⟨7, 0, casked (fun c => { c with tamper := true }), by decide +kernel⟩,
    ⟨[], casked (fun c => { c with tamper := true, calEn := true }), by decide +kernel⟩,
    ⟨[], casked (fun c => { c with calEn := true }), true, by decide +kernel⟩,
    ⟨.caskTwRead 31, live, 31, 0, 0, true, [], by decide +kernel⟩⟩

/-- States that meet the hypotheses of `IkioMonitor`, clause by clause. -/
theorem witness_IkioMonitor :
    (∃ (s : State), s.ikioReady) ∧
    (∃ (s : State) (r k : Nat), s.ikioReady ∧ baudRates.findIdx? (· == r) = some k) ∧
    (∃ (s : State) (r : Nat), s.ikioReady ∧ r ∉ baudRates) ∧
    (∃ (s : State) (off : Nat), s.ikioReady ∧
      let e := s.emit .uartEcho
     
      let u := e.bump DBG_IKIO_CMD_COUNT
      goodAccess off 8 = true ∧ off < barSize ∧ u.barReady off = true) ∧
    (∃ (s : State) (off : Nat), s.ikioReady ∧
      let e := s.emit .uartEcho
     
      let u := e.bump DBG_IKIO_CMD_COUNT
      goodAccess off 8 = true ∧ off < barSize ∧ u.barReady off = false) ∧
    (∃ (s : State) (off : Nat) (v : Word), s.ikioReady ∧
      let e := s.emit .uartEcho
     
      let u := e.bump DBG_IKIO_CMD_COUNT
      goodAccess off 8 = true ∧ off < barSize ∧ (findReg off regAddr).elim (cxlComponent off) directWrite = true ∧ u.barReady
      off = true) ∧
    (∃ (s : State) (off : Nat) (v : Word), s.ikioReady ∧ goodAccess off 8 = true ∧ off < barSize ∧ (findReg off regAddr).elim
      (cxlComponent off) directWrite = false) ∧
    (∃ (s : State) (off : Nat) (v : Word), s.ikioReady ∧ (goodAccess off 8 = false ∨ barSize ≤ off)) ∧
    (∃ (s : State) (n : Part) (a : Word) (len : Nat) (bs : List Byte), s.ikioReady ∧ (len = 0 ∨ 256 < len)) ∧
    (∃ (s : State) (n : Part) (a : Word) (len : Nat) (bs : List Byte), s.ikioReady ∧ (bs = [] ∨ 256 < bs.length)) ∧
    (∃ (s : State), s.ikioReady ∧ s.rs.level ≠ 2) ∧
    (∃ (s : State), s.ikioReady ∧ s.rs.level = 2) ∧
    (∃ (s : State) (len : Nat), s.ikioReady ∧ s.booting = true ∧ s.rs.wait = some 2 ∧ s.rs.transfer = false) ∧
    (∃ (s : State) (len : Nat), s.ikioReady ∧ (¬ (s.booting = true ∧ s.rs.wait = some 2 ∧ s.rs.transfer = false))) ∧
    (∃ (n : Part) (a : Word) (len : Nat) (bs : List Byte) (s : State), s.ikioReady ∧ 0 < len ∧ len ≤ 256 ∧ 0 < bs.length ∧
      bs.length ≤ 256 ∧
      let u := (s.emit .uartEcho).bump DBG_IKIO_CMD_COUNT
      u.confidential n.val = true) ∧
    (∃ (n : Part) (a : Word) (len : Nat) (bs : List Byte) (s : State), s.ikioReady ∧ 0 < len ∧ len ≤ 256 ∧ 0 < bs.length ∧
      bs.length ≤ 256 ∧
      let u := (s.emit .uartEcho).bump DBG_IKIO_CMD_COUNT
      u.confidential n.val = false ∧ s.xb.closed = true) ∧
    (∃ (n : Part) (a : Word) (len : Nat) (bs : List Byte) (s : State), s.ikioReady ∧ 0 < len ∧ len ≤ 256 ∧ 0 < bs.length ∧
      bs.length ≤ 256 ∧
      let u := (s.emit .uartEcho).bump DBG_IKIO_CMD_COUNT
      u.confidential n.val = false ∧ s.xb.closed = false) :=
  ⟨⟨live, by decide +kernel⟩,
    ⟨live, 115200, (baudRates.findIdx (· == 115200)), by decide +kernel⟩,
    ⟨live, 0, by decide +kernel⟩,
    ⟨live, 0, by decide +kernel⟩,
    ⟨{ live with rs := { live.rs with level := 2 } }, 0x40020, by decide +kernel⟩,
    ⟨live, 0x40020, 1, by decide +kernel⟩,
    ⟨live, 0, 1, by decide +kernel⟩,
    ⟨live, 4, 0, by decide +kernel⟩,
    ⟨live, 0, 0, 257, [], by decide +kernel⟩,
    ⟨live, 0, 0, 257, [], by decide +kernel⟩,
    ⟨live, by decide +kernel⟩,
    ⟨resetting (fun r => { r with level := 2 }), by decide +kernel⟩,
    ⟨setup (resetting (fun r => { r with wait := some 2 })) [(GLOBAL_BOOT_STATUS_PHASE, 0)], 0, by decide +kernel⟩,
    ⟨live, 0, by decide +kernel⟩,
    ⟨31, 0, 256, List.replicate 256 0, setup live [(PART_STATE_POLICY 31, 1)], by decide +kernel⟩,
    ⟨31, 0, 256, List.replicate 256 0, { live with xb := { live.xb with closed := true } }, by decide +kernel⟩,
    ⟨31, 0, 256, List.replicate 256 0, live, by decide +kernel⟩⟩

/-- States that meet the hypotheses of `ManagementTarget`, clause by clause. -/
theorem witness_ManagementTarget :
    (∃ (s : State), s.twReady) ∧
    (∃ (s : State) (b : Byte), s.twReady) ∧
    (∃ (s : State) (w : BitVec 16), s.twReady) ∧
    (∃ (s : State) (c : Byte) (n : Nat), s.twReady ∧ c.toNat ∉ [0, 1, 2, 3, 4, 5, 6, 8, 16]) ∧
    (∃ (s : State) (c : Byte), s.twReady ∧ c.toNat ≠ 2 ∧ c.toNat ≠ 3) ∧
    (∃ (s : State), ¬ s.twReady) ∧
    (∃ (s : State), s.rs.por = false) ∧
    (∃ (s : State) (pre : List Bool), s.rs.por = false) ∧
    (∃ (s : State), s.rs.por = false ∧ (s.on GLOBAL_BOOT_STATUS_HALTED = true ∨ s.phase = 6)) ∧
    (∃ (s : State), s.rs.por = false ∧ s.on GLOBAL_BOOT_STATUS_HALTED = false ∧ s.phase ≠ 6) :=
  ⟨⟨resetting (fun r => { r with wire := true }), by decide +kernel⟩,
    ⟨resetting (fun r => { r with wire := true }), 1, by decide +kernel⟩,
    ⟨resetting (fun r => { r with wire := true }), 0xFFFF, by decide +kernel⟩,
    ⟨resetting (fun r => { r with wire := true }), 7, 255, by decide +kernel⟩,
    ⟨resetting (fun r => { r with wire := true }), 7, by decide +kernel⟩,
    ⟨live, by decide +kernel⟩,
    ⟨live, by decide +kernel⟩,
    ⟨live, [true], by decide +kernel⟩,
    ⟨setup live [(GLOBAL_BOOT_STATUS_PHASE, 6)], by decide +kernel⟩,
    ⟨live, by decide +kernel⟩⟩

/-- States that meet the hypotheses of `CaskShadow`, clause by clause. -/
theorem witness_CaskShadow :
    (∃ (ok : Bool) (f : CaskFrame) (s : State), (s.rs.por = true ∨ s.rs.level = 2)) ∧
    (∃ (f : CaskFrame) (s : State), s.rs.por = false ∧ s.rs.level ≠ 2) ∧
    (∃ (s : State) (ws : List Word) (w : Nat), w < 24) ∧
    (∃ (s : State) (ws : List (Word × Word)), ws.length ≤ 64) ∧
    (∃ (s : State) (ws : List (Word × Word)) (i : Nat), ws.length ≤ 64 ∧ i < 64) :=
  ⟨⟨true, .readout [], State.reset, by decide +kernel⟩,
    ⟨.readout [], live, by decide +kernel⟩,
    ⟨live, [0, 1], 23, by decide +kernel⟩,
    ⟨live, List.replicate 64 (0, 0), by decide +kernel⟩,
    ⟨live, List.replicate 64 (0, 0), 63, by decide +kernel⟩⟩

/-- States that meet the hypotheses of `IdleOnEmptyQueue`, clause by clause. -/
theorem witness_IdleOnEmptyQueue :
    (∃ (s : State), s.pending = []) :=
  ⟨live, by decide +kernel⟩

/-- The state after reset meets `State.wf`. -/
theorem reset_wf : State.reset.WF := ⟨by decide +kernel, by decide +kernel, by decide +kernel, by decide +kernel, by decide +kernel, by decide +kernel⟩
/-- States that meet the hypotheses of `StepKeepsCanonicalForm`, clause by clause. -/
theorem witness_StepKeepsCanonicalForm :
    (∃ (s t : State), s.WF ∧ step s = .next t) :=
  ⟨State.reset, State.reset, reset_wf, rfl⟩

/-- States that meet the hypotheses of `NothingElseReachesTheCask`, clause by clause. -/
theorem witness_NothingElseReachesTheCask :
    (∃ (c : Instr) (s t : State), Instr.ofCask c = false ∧ exec c s = .next t) :=
  ⟨.trstN, live, resetting (fun r => { r with tap := 3, scan := [] }), rfl, rfl⟩

/-- States that meet the hypotheses of `EnergyOnlyRises`, clause by clause. -/
theorem witness_EnergyOnlyRises :
    (∃ (c : Instr) (s t : State), exec c s = .next t) ∧
    (∃ (c : Instr) (s t : State), (∀ v, c ≠ .caskSample v) ∧ exec c s = .next t) ∧
    (∃ (v : Sample) (s : State), s.ck.running = true) :=
  ⟨⟨.trstN, live, resetting (fun r => { r with tap := 3, scan := [] }), rfl⟩,
    ⟨.trstN, live, resetting (fun r => { r with tap := 3, scan := [] }), (fun _ => Instr.noConfusion), rfl⟩,
    ⟨⟨60000, 0, false⟩, casked id, rfl⟩⟩

/-- States that meet the hypotheses of `OnlySupplyStopsTheCask`, clause by clause. -/
theorem witness_OnlySupplyStopsTheCask :
    (∃ (c : Instr) (s t : State), exec c s = .next t ∧ s.ck.running = true ∧ c ≠ .caskPowerDown) ∧
    (∃ (c : Instr) (s t : State), exec c s = .next t ∧ s.ck.running = true ∧ c = .caskPowerDown) ∧
    (∃ (c : Instr) (s t : State), exec c s = .next t ∧ s.ck.running = false ∧ (∀ ok, c ≠ .caskPowerUp ok)) ∧
    (∃ (c : Instr) (s t : State), exec c s = .next t ∧ s.ck.running = false ∧ (∃ ok, c = .caskPowerUp ok)) ∧
    (∃ (c : Instr) (s t : State) (v : _), exec c s = .next t ∧ s.ck.running = true ∧ c = .caskSample v) :=
  ⟨⟨.caskSample ⟨60000, 0, false⟩, casked id, _, rfl, rfl, nofun⟩,
    ⟨.caskPowerDown, casked id, _, rfl, rfl, rfl⟩,
    ⟨.trstN, live, resetting (fun r => { r with tap := 3, scan := [] }), rfl, rfl, nofun⟩,
    ⟨.caskPowerUp true, live, _, rfl, rfl, true, rfl⟩,
    ⟨.caskSample ⟨60000, 0, false⟩, casked id, _, ⟨60000, 0, false⟩, rfl, rfl, rfl⟩⟩

/-- States that meet the hypotheses of `MailboxCompletion`, clause by clause. -/
theorem witness_MailboxCompletion :
    (∃ (s : State) (m status0 sc0 : Nat) (ws0 : List Word), m < 33 ∧ ws0.length < 128 ∧ status0 < 256 ∧ sc0 < 65536) ∧
    (∃ (s : State) (m status0 sc0 : Nat) (ws0 : List Word) (i : Nat), m < 33 ∧ ws0.length < 128 ∧ status0 < 256 ∧ sc0 < 65536 ∧
      let late := s.hm.doomed.contains m
     
      let ws := if late then [] else ws0
      i < ws.length) ∧
    (∃ (s : State) (m status0 sc0 : Nat) (ws0 : List Word), m < 33 ∧ ws0.length < 128 ∧ status0 < 256 ∧ sc0 < 65536 ∧
      let v := s.get (MB_VECTOR_VEC m)
     
      let masked := (s.msixWord (2 * v + 1)).getLsbD 32
      s.on (MB_VECTOR_VALID m) = true ∧ masked = true) :=
  ⟨⟨live, 32, 255, 65535, List.replicate 127 0, by decide +kernel⟩,
    ⟨live, 32, 255, 65535, List.replicate 127 0, 126, by decide +kernel⟩,
    ⟨setup live [(MB_VECTOR_VALID 32, 1), (MB_VECTOR_VEC 32, 1023)], 32, 255, 65535, [], by decide +kernel⟩⟩

/-- A mailbox of partition 0 with the command `PART_GET` (R414) in progress. -/
def getting : State := cmd live 0 0xB04 [sel 0 0 0]
/-- The same in the primary mailbox. -/
def primaryGet : State := cmd live 32 0xB04 [sel 0 0 0]
/-- States that meet the hypotheses of `MailboxChecks`, clause by clause. -/
theorem witness_MailboxChecks :
    (∃ (c : MbSpec) (m st sc : Nat) (valid : Bool) (body : MbRes) (s : State), s.on (MB_STATUS_BUSY m) = true ∧ s.cmdOp m =
      c.opcode ∧ m ∉ s.hm.running ∧ m ∉ s.hm.held ∧ (c.bulk && s.bulkHeld m) = false ∧ s.mbTurn m = true ∧ s.mbCheck c m valid
      = some (st, sc)) ∧
    (∃ (c : MbSpec) (m : Nat) (valid : Bool) (s : State),
      let hello := c.opcode = 1
     
      let negotiated := s.get (MB_STATUS_VER_MAJOR m) ≠ 0
      ¬ negotiated ∧ ¬ hello) ∧
    (∃ (c : MbSpec) (m : Nat) (valid : Bool) (s : State),
      let negotiated := s.get (MB_STATUS_VER_MAJOR m) ≠ 0
     
      let minor := negotiated → c.minor ≤ s.get (MB_STATUS_VER_MINOR m)
      negotiated ∧ ¬ minor) ∧
    (∃ (c : MbSpec) (m : Nat) (valid : Bool) (s : State),
      let hello := c.opcode = 1
     
      let negotiated := s.get (MB_STATUS_VER_MAJOR m) ≠ 0
     
      let mine := 32 ≤ m ∨ c.tenant = true ∧ (c.naming = false ∨ bits (s.cmd m 1) 4 0 = m)
     
      let minor := negotiated → c.minor ≤ s.get (MB_STATUS_VER_MINOR m)
      (negotiated ∨ hello) ∧ minor ∧ ¬ mine) ∧
    (∃ (c : MbSpec) (m : Nat) (valid : Bool) (s : State),
      let hello := c.opcode = 1
     
      let negotiated := s.get (MB_STATUS_VER_MAJOR m) ≠ 0
     
      let mine := 32 ≤ m ∨ c.tenant = true ∧ (c.naming = false ∨ bits (s.cmd m 1) 4 0 = m)
     
      let minor := negotiated → c.minor ≤ s.get (MB_STATUS_VER_MINOR m)
     
      let active := 32 ≤ m ∨ s.partActive m = true ∨ s.closing m = true
      (negotiated ∨ hello) ∧ minor ∧ mine ∧ ¬ active) ∧
    (∃ (c : MbSpec) (m : Nat) (valid : Bool) (s : State),
      let hello := c.opcode = 1
     
      let negotiated := s.get (MB_STATUS_VER_MAJOR m) ≠ 0
     
      let mine := 32 ≤ m ∨ c.tenant = true ∧ (c.naming = false ∨ bits (s.cmd m 1) 4 0 = m)
     
      let good := c.need ≤ s.cmdLen m ∧ s.cmdLen m ≤ 223 ∧ valid = true
     
      let minor := negotiated → c.minor ≤ s.get (MB_STATUS_VER_MINOR m)
     
      let active := 32 ≤ m ∨ s.partActive m = true ∨ s.closing m = true
      (negotiated ∨ hello) ∧ minor ∧ mine ∧ active ∧ ¬ good) ∧
    (∃ (c : MbSpec) (m : Nat) (valid : Bool) (s : State),
      let hello := c.opcode = 1
     
      let negotiated := s.get (MB_STATUS_VER_MAJOR m) ≠ 0
     
      let mine := 32 ≤ m ∨ c.tenant = true ∧ (c.naming = false ∨ bits (s.cmd m 1) 4 0 = m)
     
      let good := c.need ≤ s.cmdLen m ∧ s.cmdLen m ≤ 223 ∧ valid = true
     
      let minor := negotiated → c.minor ≤ s.get (MB_STATUS_VER_MINOR m)
     
      let active := 32 ≤ m ∨ s.partActive m = true ∨ s.closing m = true
      (negotiated ∨ hello) ∧ minor ∧ mine ∧ active ∧ good ∧ (∃ u ∈ c.units, s.on u = false)) ∧
    (∃ (c : MbSpec) (m : Nat) (valid : Bool) (s : State),
      let hello := c.opcode = 1
     
      let negotiated := s.get (MB_STATUS_VER_MAJOR m) ≠ 0
     
      let mine := 32 ≤ m ∨ c.tenant = true ∧ (c.naming = false ∨ bits (s.cmd m 1) 4 0 = m)
     
      let good := c.need ≤ s.cmdLen m ∧ s.cmdLen m ≤ 223 ∧ valid = true
     
      let minor := negotiated → c.minor ≤ s.get (MB_STATUS_VER_MINOR m)
     
      let present := ∀ u ∈ c.units, s.on u = true
     
      let active := 32 ≤ m ∨ s.partActive m = true ∨ s.closing m = true
      (negotiated ∨ hello) ∧ minor ∧ mine ∧ active ∧ good ∧ present ∧ s.rs.core = true ∧ c.kept = false) ∧
    (∃ (c : MbSpec) (m : Nat) (valid : Bool) (s : State),
      let hello := c.opcode = 1
     
      let negotiated := s.get (MB_STATUS_VER_MAJOR m) ≠ 0
     
      let mine := 32 ≤ m ∨ c.tenant = true ∧ (c.naming = false ∨ bits (s.cmd m 1) 4 0 = m)
     
      let good := c.need ≤ s.cmdLen m ∧ s.cmdLen m ≤ 223 ∧ valid = true
     
      let minor := negotiated → c.minor ≤ s.get (MB_STATUS_VER_MINOR m)
     
      let present := ∀ u ∈ c.units, s.on u = true
     
      let from_ := if m < 32 then 9 else c.ready
     
      let active := 32 ≤ m ∨ s.partActive m = true ∨ s.closing m = true
      (negotiated ∨ hello) ∧ minor ∧ mine ∧ active ∧ good ∧ present ∧ (s.rs.core = true → c.kept = true) ∧ (s.phase < from_ ∨
      s.rs.wait ≠ none)) ∧
    (∃ (c : MbSpec) (m : Nat) (valid : Bool) (s : State),
      let hello := c.opcode = 1
     
      let negotiated := s.get (MB_STATUS_VER_MAJOR m) ≠ 0
     
      let mine := 32 ≤ m ∨ c.tenant = true ∧ (c.naming = false ∨ bits (s.cmd m 1) 4 0 = m)
     
      let good := c.need ≤ s.cmdLen m ∧ s.cmdLen m ≤ 223 ∧ valid = true
     
      let minor := negotiated → c.minor ≤ s.get (MB_STATUS_VER_MINOR m)
     
      let present := ∀ u ∈ c.units, s.on u = true
     
      let from_ := if m < 32 then 9 else c.ready
     
      let active := 32 ≤ m ∨ s.partActive m = true ∨ s.closing m = true
      (negotiated ∨ hello) ∧ minor ∧ mine ∧ active ∧ good ∧ present ∧ (s.rs.core = true → c.kept = true) ∧ from_ ≤ s.phase ∧
      s.rs.wait = none) ∧
    (∃ (m : Mbx) (s : State), s.on (MB_STATUS_BUSY m) = true ∧ m.val ∉ s.hm.running ∧ m.val ∉ s.hm.held ∧ s.mbTurn m = true ∧
      s.cmdOp m = 1 ∧ 1 ≤ s.cmdLen m ∧ s.cmdLen m ≤ 223 ∧ (32 ≤ m.val ∨ s.partActive m = true) ∧ s.phase < (if m.val < 32 then
      9 else 6)) ∧
    (∃ (m : Mbx) (s : State), s.on (MB_STATUS_BUSY m) = true ∧ m.val ∉ s.hm.running ∧ m.val ∉ s.hm.held ∧ s.mbTurn m = true ∧
      s.cmdOp m = 0xB04 ∧ 1 ≤ s.cmdLen m ∧ s.cmdLen m ≤ 223 ∧ s.get (MB_STATUS_VER_MAJOR m) ≠ 0 ∧ (32 ≤ m.val ∨ bits (s.cmd m
      1) 4 0 = m.val ∧ s.partActive m = true) ∧ s.phase < (if m.val < 32 then 9 else 6)) ∧
    (∃ (m : Mbx) (s : State), s.on (MB_STATUS_BUSY m) = true ∧ m.val ∉ s.hm.running ∧ m.val ∉ s.hm.held ∧ s.mbTurn m = true ∧
      s.cmdOp m = 0x903 ∧ 1 ≤ s.cmdLen m ∧ s.cmdLen m ≤ 223 ∧ s.get (MB_STATUS_VER_MAJOR m) ≠ 0 ∧ 32 ≤ m.val ∧ s.cmdIdx m < 96
      ∧ s.on ⟨GLOBAL_OPTIONS, 8 + s.cmdIdx m / 8, 8 + s.cmdIdx m / 8⟩ = true ∧ s.phase < 8) :=
  ⟨⟨tenant 0xB04 2, 0, stACCESS_DENIED, 0, true, .done [] live, getting, by decide +kernel⟩,
    ⟨tenant 0xB04 1, 0, true, live, by decide +kernel⟩,
    ⟨{ tenant 0xB04 1 with minor := 3 }, 0, true, getting, by decide +kernel⟩,
    ⟨primary 0xB04 1, 0, true, getting, by decide +kernel⟩,
    ⟨tenant 0xB04 1, 31, true, cmd live 31 0xB04 [sel 31 0 0], by decide +kernel⟩,
    ⟨tenant 0xB04 2, 0, true, getting, by decide +kernel⟩,
    ⟨{ tenant 0xB04 1 with units := [GLOBAL_OPTIONS_TUN_PRESENT] }, 0, true, setup getting [(GLOBAL_OPTIONS_TUN_PRESENT, 0)],
      by decide +kernel⟩,
    ⟨tenant 0xB04 1, 0, true, { getting with rs := { getting.rs with core := true } }, by decide +kernel⟩,
    ⟨tenant 0xB04 1, 0, true, setup getting [(GLOBAL_BOOT_STATUS_PHASE, 8)], by decide +kernel⟩,
    ⟨primary 0xB04 1, 32, true, setup (primaryGet) [(GLOBAL_BOOT_STATUS_PHASE, 6)], by decide +kernel⟩,
    ⟨0, setup (cmd live 0 1 [1]) [(GLOBAL_BOOT_STATUS_PHASE, 8), (MB_STATUS_VER_MAJOR 0, 0)], by decide +kernel⟩,
    ⟨32, setup primaryGet [(GLOBAL_BOOT_STATUS_PHASE, 5)], by decide +kernel⟩,
    ⟨32, setup (cmd live 32 0x903 [sel 0 95 0]) [(GLOBAL_BOOT_STATUS_PHASE, 7)], by decide +kernel⟩⟩

/-- States that meet the hypotheses of `MemoryReadsBack`, clause by clause. -/
theorem witness_MemoryReadsBack :
    (∃ (s : State) (a : Nat) (bs : List Byte) (b : _), (¬ (a ≤ b ∧ b < a + bs.length))) ∧
    (∃ (s : State) (a : Nat) (bs : List Byte), Memory.wf s.hbm) ∧
    (∃ (s : State) (a : Nat) (bs : List Byte), Memory.wf s.tu.store) ∧
    (∃ (s : State) (c t a n v : Nat) (b : _), (¬ (coreBase c + a ≤ b ∧ b < coreBase c + a + n))) ∧
    (∃ (s : State) (c t a n v : Nat), Memory.wf s.sq.mem) :=
  ⟨⟨live, 2 ^ 38 - 1, [1], 0, by decide +kernel⟩,
    ⟨live, 0, [], by decide +kernel⟩,
    ⟨live, 0, [], by decide +kernel⟩,
    ⟨live, 1023, 31, 0x2FFFF, 1, 1, 0, by decide +kernel⟩,
    ⟨live, 0, 0, 0, 0, 0, by decide +kernel⟩⟩

/-- States that meet the hypotheses of `LandingCounters`, clause by clause. -/
theorem witness_LandingCounters :
    (∃ (s : State) (i n : Nat) (j : _), j ≠ i) ∧
    (∃ (seen : Word) (want got : Nat), want < 2 ^ 63 ∧ got < 2 ^ 63) :=
  ⟨⟨live, 131071, 1, 0, by decide +kernel⟩,
    ⟨0xFFFFFFFFFFFFFFFF, 2 ^ 63 - 1, 2 ^ 63 - 1, by decide +kernel⟩⟩

/-- A live block whose core 1023 has an image of 32 threads with 4 KiB of stack. -/
def imaged : State := { live with sq := { live.sq with image := [(1023, (65534, 32, 4096))] } }
/-- States that meet the hypotheses of `CoreStart`, clause by clause. -/
theorem witness_CoreStart :
    (∃ (s : State) (n c entry threads stack : Nat) (t : Nat), mget (0, 0, 0) s.sq.image c = (entry, threads, stack) ∧ threads ≤
      32 ∧ threads * stack ≤ 131072 ∧ t < threads) ∧
    (∃ (s : State) (n c entry threads stack : Nat) (t : Nat) (r : _), mget (0, 0, 0) s.sq.image c = (entry, threads, stack) ∧
      threads ≤ 32 ∧ threads * stack ≤ 131072 ∧ t < threads ∧ r ∉ [2, 10, 11]) ∧
    (∃ (s : State) (n c entry threads stack : Nat) (t : _), mget (0, 0, 0) s.sq.image c = (entry, threads, stack) ∧ threads ≤
      32 ∧ threads * stack ≤ 131072 ∧ threads ≤ t ∧ t < 32) ∧
    (∃ (s : State) (n c entry threads stack : Nat), mget (0, 0, 0) s.sq.image c = (entry, threads, stack) ∧ threads ≤ 32 ∧
      threads * stack ≤ 131072) :=
  ⟨⟨imaged, 0, 1023, 65534, 32, 4096, 31, by decide +kernel⟩,
    ⟨imaged, 0, 1023, 65534, 32, 4096, 31, 31, by decide +kernel⟩,
    ⟨{ live with sq := { live.sq with image := [(1023, (65534, 31, 4096))] } }, 0, 1023, 65534, 31, 4096, 31,
      by decide +kernel⟩,
    ⟨imaged, 0, 1023, 65534, 32, 4096, by decide +kernel⟩⟩

/-- States that meet the hypotheses of `DoubleFree`, clause by clause. -/
theorem witness_DoubleFree :
    (∃ (k : Fin 5) (index : Nat) (more : Bool) (s : State), k.val ≠ 0 ∧ index < poolCount k.val ∧ (∀ b, s.buf k.val index =
      some b → b.inUse = false)) :=
  ⟨4, poolCount 4 - 1, false, live, by decide +kernel, by decide +kernel,
      fun _ h => nomatch (show live.buf (4 : Fin 5).val (poolCount 4 - 1) = none by decide +kernel) ▸ h⟩

/-- States that meet the hypotheses of `AlarmPin`, clause by clause. -/
theorem witness_AlarmPin :
    (∃ (s : State), s.twReady) ∧
    (∃ (s t : State), s.rs.por = false ∧ s.rs.level ≠ 2 ∧ exec .systemReset s = .next t) :=
  ⟨⟨resetting (fun r => { r with wire := true }), by decide +kernel⟩,
    ⟨resetting (fun r => { r with wire := true }), _, rfl, by decide, rfl⟩⟩

end Sys2Proof.Tests
end

section
/-! O57, landing counters (R147). An addition to a counter answers the attach ports that wait for it (R374); sending those
answers moves links and output only, so the tracker, and with it every counter, stays as it was. -/

namespace Sys2Proof.Machine

variable (s : State)

/-! ## Sending on a link leaves the tracker alone -/

/-- A fold of updates that leave the tracker alone leaves it alone. -/
theorem foldl_tr {α : Type} (f : State → α → State) (l : List α) (hf : ∀ t x, (f t x).tr = t.tr) :
    (l.foldl f s).tr = s.tr :=
  List.foldlRecOn (motive := fun t => t.tr = s.tr) l f rfl fun t ht x _ => (hf t x).trans ht

@[simp] theorem setLink_tr (p : Nat) (l : Link) : (s.setLink p l).tr = s.tr := rfl

@[simp] theorem emitBlock_tr (p slot : Nat) (fl : List Flit) : (s.emitBlock p slot fl).tr = s.tr := rfl

@[simp] theorem sendBlock_tr (p : Nat) (fl : List Flit) : (s.sendBlock p fl).tr = s.tr := by
  unfold State.sendBlock
  dsimp only
  split
  · simp only [emitBlock_tr, setLink_tr]
  · exact setLink_tr s _ _

@[simp] theorem sendFlits_tr (p : Nat) (fl : List Flit) : (s.sendFlits p fl).tr = s.tr := sendBlock_tr s p _

@[simp] theorem grantSent_tr (p : Nat) (m : AttachOut) : (s.grantSent p m).tr = s.tr := by
  unfold State.grantSent
  split
  · rfl
  · exact foldl_tr s _ _ fun t q => setLink_tr t q _

@[simp] theorem drainAttach_tr (p n : Nat) : (drainAttach p n s).tr = s.tr := by
  induction n generalizing s with
  | zero => rfl
  | succ n ih =>
    unfold drainAttach
    dsimp only
    split
    · rfl
    · split
      · rw [ih, emit_tr, grantSent_tr, sendFlits_tr, setLink_tr]
      · rfl

@[simp] theorem sendAttach_tr (p msg status id : Nat) (keep : Bool) (part : Nat) (addr value : Word)
    (data : Option (List Byte)) (undo : Option (Nat × Bool × Bool)) :
    (s.sendAttach p msg status id keep part addr value data undo).tr = s.tr := by
  unfold State.sendAttach
  exact drainAttach_tr _ _ _

/-! ## An addition changes the counter that it names, and no other -/

@[simp] theorem lcNotifyPort_tr (i p : Nat) : (s.lcNotifyPort i p).tr = s.tr := by
  unfold State.lcNotifyPort
  exact foldl_tr _ _ _ fun t w => sendAttach_tr t _ _ _ _ _ _ _ _ _ _

/-- The ports that wait are answered without a change of the tracker. -/
theorem lcAdd_tr (i n : Nat) : (s.lcAdd i n).tr = (s.setCounter i (s.counter i + BitVec.ofNat 64 n)).tr := by
  unfold State.lcAdd
  exact foldl_tr _ _ _ fun t p => lcNotifyPort_tr t i p

theorem counter_eq_of_tr_eq {s t : State} (h : s.tr = t.tr) (i : Nat) : s.counter i = t.counter i := by
  simp only [State.counter, h]

@[simp] theorem counter_lcAdd_same (i n : Nat) : (s.lcAdd i n).counter i = s.counter i + BitVec.ofNat 64 n := by
  rw [counter_eq_of_tr_eq (lcAdd_tr s i n), counter_setCounter_same]

theorem counter_lcAdd_other {i j : Nat} (n : Nat) (h : j ≠ i) : (s.lcAdd i n).counter j = s.counter j := by
  rw [counter_eq_of_tr_eq (lcAdd_tr s i n), counter_setCounter_other s _ h]

/-! ## Reaching a target -/

theorem reached_iff_toNat_lt (a t : Word) : reached a t = true ↔ (a - t).toNat < 2 ^ 63 := decide_eq_true_iff

/-- The test of the model is the sign of the difference (R147). -/
theorem reached_iff_toInt_nonneg (a t : Word) : reached a t = true ↔ 0 ≤ (a - t).toInt := by
  rw [reached_iff_toNat_lt, BitVec.toInt_pos_iff]
  omega

/-- What counter and target have in common cancels, so where the counter wraps plays no part (R147). -/
theorem reached_add_left (c a t : Word) : reached (c + a) (c + t) = reached a t := by
  simp only [reached, add_sub_add_left_eq_sub]

/-- Of two numbers below 2⁶³ the signed difference has the sign of the difference itself. -/
theorem reached_ofNat_iff {got want : Nat} (hw : want < 2 ^ 63) (hg : got < 2 ^ 63) :
    reached (BitVec.ofNat 64 got) (BitVec.ofNat 64 want) = true ↔ want ≤ got := by
  rw [reached_iff_toNat_lt, BitVec.toNat_sub, BitVec.toNat_ofNat, BitVec.toNat_ofNat]
  omega

/-- Settles O57: an addition changes its own counter alone, since the answers that it sends leave the tracker alone, and what
was last observed cancels from the signed difference. -/
theorem landingCounters : Obligations.LandingCounters := by
  unfold Obligations.LandingCounters
  refine ⟨fun s i n => ⟨counter_lcAdd_same s i n, fun j hj => counter_lcAdd_other s n hj⟩,
    reached_iff_toInt_nonneg, fun seen want got hw hg => ?_⟩
  rw [reached_add_left]
  exact reached_ofNat_iff hw hg

end Sys2Proof.Machine
end

section
/-! O59, a free of a free buffer (R193). The free records the error in three registers of the pool manager,
`POOL_STATUS`, `POOL_DOUBLE_FREE_COUNT` and `POOL_ERR_INFO`: one lemma says what each of them reads afterwards, and one
that nothing else of the state changes. -/

namespace Sys2Proof.Machine

variable (s : State) (k i : Nat)

/-! ## Updates that touch named registers only -/

theorem OnlyRegs.refl (ks : List Key) : OnlyRegs s s ks := ⟨rfl, fun _ _ => rfl⟩

/-- A write to one of the registers that may change keeps the frame. -/
theorem OnlyRegs.setReg {s t : State} {ks : List Key} (h : OnlyRegs s t ks) {key : Key} (v : Word) (hk : key ∈ ks) :
    OnlyRegs s (t.setReg key v) ks := by
  obtain ⟨hrest, hregs⟩ := h
  refine ⟨hrest, fun j hj => ?_⟩
  have hne : j ≠ key := fun e => hj (e ▸ hk)
  rw [reg_setReg_other t v hne, hregs j hj]

theorem OnlyRegs.pl_eq {s t : State} {ks : List Key} (h : OnlyRegs s t ks) : t.pl = s.pl :=
  (congrArg State.pl h.1 :)

theorem OnlyRegs.out_eq {s t : State} {ks : List Key} (h : OnlyRegs s t ks) : t.out = s.out :=
  (congrArg State.out h.1 :)

/-! ## The record of a double free -/

theorem poolStatus_ne_doubleFreeCount : POOL_STATUS ≠ POOL_DOUBLE_FREE_COUNT k := by
  simp [POOL_STATUS, POOL_DOUBLE_FREE_COUNT]

theorem doubleFreeCount_ne_poolErrInfo : POOL_DOUBLE_FREE_COUNT k ≠ POOL_ERR_INFO := by
  simp [POOL_DOUBLE_FREE_COUNT, POOL_ERR_INFO]

theorem doubleFree_onlyRegs : OnlyRegs s (s.doubleFree k i) [POOL_STATUS, POOL_DOUBLE_FREE_COUNT k, POOL_ERR_INFO] := by
  unfold State.doubleFree State.poolErr State.bump State.put
  refine (((OnlyRegs.refl s _).setReg _ ?_).setReg _ ?_).setReg _ ?_
  · exact .head _
  · exact .tail _ (.head _)
  · exact .tail _ (.tail _ (.head _))

/-- The count goes up by 1, since neither of the other two writes reaches it. -/
theorem reg_doubleFree_count :
    (s.doubleFree k i).reg (POOL_DOUBLE_FREE_COUNT k) = s.reg (POOL_DOUBLE_FREE_COUNT k) + 1 := by
  unfold State.doubleFree State.poolErr
  rw [reg_setReg_other _ _ (doubleFreeCount_ne_poolErrInfo k), reg_bump_same,
    reg_put_other s _ (poolStatus_ne_doubleFreeCount k).symm]

@[simp] theorem reg_doubleFree_errInfo :
    (s.doubleFree k i).reg POOL_ERR_INFO = mkWord [(55, 48, 1), (42, 40, k), (16, 0, i)] :=
  reg_setReg_same _ _ _

theorem get_doubleFree_status : (s.doubleFree k i).get POOL_STATUS_DOUBLE_FREE =
    (s.get POOL_STATUS_DOUBLE_FREE ||| 2 ^ k) % 2 ^ 5 := by
  have herr : POOL_STATUS_DOUBLE_FREE.key ≠ POOL_ERR_INFO := by decide
  unfold State.doubleFree State.poolErr State.bump
  rw [get_setReg_other _ _ herr, get_setReg_other _ _ (poolStatus_ne_doubleFreeCount k)]
  exact get_put_same s _ _ (by decide) (by decide)

/-- Of the five bits of `DOUBLE_FREE`, that of the pool becomes 1 and the others stay. -/
theorem testBit_doubleFree_status {j : Nat} (hj : j < 5) : ((s.doubleFree k i).get POOL_STATUS_DOUBLE_FREE).testBit j =
    ((s.get POOL_STATUS_DOUBLE_FREE).testBit j || j == k) := by
  have hbit : decide (k = j) = (j == k) := by rw [beq_eq_decide, decide_eq_decide]; exact eq_comm
  rw [get_doubleFree_status, Nat.testBit_mod_two_pow, Nat.testBit_or, Nat.testBit_two_pow, hbit, decide_eq_true hj,
    Bool.true_and]

/-! ## The fields of `POOL_ERR_INFO` -/

/-- The field set last reads its value, when the value fits. -/
theorem bits_mkWord_head {hi lo v : Nat} (r : List (Nat × Nat × Nat)) (h : lo ≤ hi) (h64 : hi < 64)
    (hv : v < 2 ^ (hi + 1 - lo)) : bits (mkWord ((hi, lo, v) :: r)) hi lo = v :=
  (bits_setBits_same _ _ _ _ h h64).trans (Nat.mod_eq_of_lt hv)

/-- A field below the one set last reads as in the rest of the word. -/
theorem bits_mkWord_below {hi lo hi' : Nat} (v lo' : Nat) (r : List (Nat × Nat × Nat)) (h : lo ≤ hi) (h64 : hi < 64)
    (hd : hi' < lo) : bits (mkWord ((hi, lo, v) :: r)) hi' lo' = bits (mkWord r) hi' lo' :=
  bits_setBits_other _ _ _ _ _ _ h h64 (.inl hd)

theorem errInfo_kind {kind : Nat} (h : kind < 256) :
    bits (mkWord [(55, 48, kind), (42, 40, k), (16, 0, i)]) 55 48 = kind :=
  bits_mkWord_head _ (by decide) (by decide) h

theorem errInfo_pool (kind : Nat) {k : Nat} (h : k < 8) :
    bits (mkWord [(55, 48, kind), (42, 40, k), (16, 0, i)]) 42 40 = k := by
  rw [bits_mkWord_below _ _ _ (by decide) (by decide) (by decide)]
  exact bits_mkWord_head _ (by decide) (by decide) h

theorem errInfo_index (kind : Nat) {i : Nat} (h : i < 131072) :
    bits (mkWord [(55, 48, kind), (42, 40, k), (16, 0, i)]) 16 0 = i := by
  rw [bits_mkWord_below _ _ _ (by decide) (by decide) (by decide),
    bits_mkWord_below _ _ _ (by decide) (by decide) (by decide)]
  exact bits_mkWord_head _ (by decide) (by decide) h

/-- Every index of a buffer fits its field. -/
theorem poolCount_le (k : Fin 5) : poolCount k.val ≤ 131072 := by revert k; decide

/-! ## The command -/

/-- A free of a buffer without a record, or with a record that says it is free, records the error and ends the cycle. -/
theorem exec_poolRelease_of_free {k : Fin 5} {index : Nat} (more : Bool) (s : State) (hk : k.val ≠ 0)
    (hi : index < poolCount k.val) (hfree : ∀ b, s.buf k.val index = some b → b.inUse = false) :
    exec (.poolRelease k ⟨index, more⟩) s = .next ((s.doubleFree k.val index).poolCycle more) := by
  have hguard : ¬ (k.val = 0 ∨ poolCount k.val ≤ index) := by omega
  change execPoolRelease k ⟨index, more⟩ s = _
  simp only [execPoolRelease, if_neg hguard]
  cases hb : s.buf k.val index with
  | none => rfl
  | some b => simp only [hfree b hb, Bool.false_eq_true, if_false]

/-- Settles O59: the state that the free leaves before its cycle ends is `s.doubleFree`, and each clause is what that
record writes or leaves alone. -/
theorem doubleFree : Obligations.DoubleFree := by
  unfold Obligations.DoubleFree
  intro k index more s hk hi hfree
  have hframe := doubleFree_onlyRegs s k.val index
  have hcount : (s.doubleFree k.val index).reg (POOL_DOUBLE_FREE_COUNT k) =
      (s.bump (POOL_DOUBLE_FREE_COUNT k)).reg (POOL_DOUBLE_FREE_COUNT k) := by
    rw [reg_doubleFree_count, reg_bump_same]
  refine ⟨s.doubleFree k.val index, exec_poolRelease_of_free more s hk hi hfree, hframe.pl_eq, hframe.out_eq,
    fun j hj => testBit_doubleFree_status s _ _ hj, hcount, ?_, ?_, ?_, hframe⟩
  all_goals rw [reg_doubleFree_errInfo]
  · exact errInfo_kind _ _ (by decide)
  · exact errInfo_pool _ _ (by omega)
  · exact errInfo_index _ _ (hi.trans_le (poolCount_le k))

end Sys2Proof.Machine
end

section
/-! O58, the state in which a core starts (R342). A start resets the core's turn, sets its threads one after another and
marks the core in `SEQ_CORE_STATE`. Setting threads and turns touches nothing else of the state, so every thread takes its
index from the same share, and registers and memories change by the mark alone. -/

namespace Sys2Proof.Machine

/-! ## The registers of a thread -/

/-- A register other than x0 reads the number set, as a 64-bit word. -/
theorem x_setX_same (h : ThreadSt) {r : Nat} (v : Nat) (hr : r ≠ 0) : (h.setX r v).x r = v % 2 ^ 64 := by
  simp only [ThreadSt.x, ThreadSt.setX, if_neg hr, mget_mset_same, BitVec.toNat_ofNat]

theorem x_setX_other (h : ThreadSt) {r k : Nat} (v : Nat) (hk : k ≠ r) : (h.setX r v).x k = h.x k := by
  unfold ThreadSt.setX
  split
  · rfl
  · simp only [ThreadSt.x, mget_mset_other _ _ _ hk]

@[simp] theorem x_thread0 (r : Nat) : thread0.x r = 0 := ite_self 0

/-! ## Updates that touch threads and turns only -/

/-- Nothing but the threads and the turns of the cores differs from `s` to `t`. -/
def OnlyThreads (s t : State) : Prop :=
  { t with sq := { t.sq with threads := s.sq.threads, turns := s.sq.turns } } = s

theorem OnlyThreads.refl (s : State) : OnlyThreads s s := rfl

section
variable {s t : State}

theorem OnlyThreads.setTurn (h : OnlyThreads s t) (c : Nat) (x : CoreTurn) : OnlyThreads s (t.setTurn c x) := h

theorem OnlyThreads.setThread (h : OnlyThreads s t) (c j : Nat) (x : ThreadSt) : OnlyThreads s (t.setThread c j x) := h

theorem OnlyThreads.reg_eq (h : OnlyThreads s t) (k : Key) : t.reg k = s.reg k :=
  (congrArg (State.reg · k) h :)

theorem OnlyThreads.get_eq (h : OnlyThreads s t) (f : Fld) : t.get f = s.get f :=
  (congrArg (State.get · f) h :)

theorem OnlyThreads.sameMem (h : OnlyThreads s t) : SameMem s t :=
  ⟨(congrArg State.hbm h :), (congrArg (·.tu.store) h :), (congrArg (·.tu.scale) h :), (congrArg (·.sq.mem) h :)⟩

end

/-! ## The memories -/

theorem SameMem.trans {s t u : State} (h : SameMem s t) (h' : SameMem t u) : SameMem s u := by
  obtain ⟨hhbm, hstore, hscale, hmem⟩ := h
  obtain ⟨hhbm', hstore', hscale', hmem'⟩ := h'
  exact ⟨hhbm'.trans hhbm, hstore'.trans hstore, hscale'.trans hscale, hmem'.trans hmem⟩

variable (s : State)

theorem put_sameMem (f : Fld) (v : Nat) : SameMem s (s.put f v) :=
  ⟨put_hbm s f v, congrArg TunU.store (put_tu s f v), congrArg TunU.scale (put_tu s f v),
    congrArg SeqU.mem (put_sq s f v)⟩

/-! ## Reading a thread -/

@[simp] theorem thread_setThread_same (c t : Nat) (x : ThreadSt) : (s.setThread c t x).thread c t = x :=
  mget_mset_same _ _ _ _

theorem thread_setThread_other (c : Nat) {t j : Nat} (x : ThreadSt) (h : j ≠ t) :
    (s.setThread c t x).thread c j = s.thread c j :=
  mget_mset_other _ _ _ fun e => h (Nat.add_left_cancel e)

@[simp] theorem thread_put (f : Fld) (v c t : Nat) : (s.put f v).thread c t = s.thread c t := by
  unfold State.thread
  rw [put_sq]

theorem thread_setTurn (c k t : Nat) (x : CoreTurn) : (s.setTurn c x).thread k t = s.thread k t := rfl

/-! ## A thread that starts -/

/-- Thread `t` as it starts in the core of index `i` within its share (R342). -/
def startThread (i entry stack t : Nat) : ThreadSt :=
  { ((thread0.setX 2 (0x30000 - t * stack)).setX 10 i).setX 11 t with running := true, pc := entry }

section
variable (i entry stack t : Nat)

theorem startThread_x (r : Nat) : (startThread i entry stack t).x r =
    (((thread0.setX 2 (0x30000 - t * stack)).setX 10 i).setX 11 t).x r := rfl

theorem startThread_x2 : (startThread i entry stack t).x 2 = 0x30000 - t * stack := by
  rw [startThread_x, x_setX_other _ _ (by decide), x_setX_other _ _ (by decide), x_setX_same _ _ (by decide)]
  omega

theorem startThread_x10 : (startThread i entry stack t).x 10 = i % 2 ^ 64 := by
  rw [startThread_x, x_setX_other _ _ (by decide), x_setX_same _ _ (by decide)]

theorem startThread_x11 {t : Nat} (ht : t < 2 ^ 64) : (startThread i entry stack t).x 11 = t := by
  rw [startThread_x, x_setX_same _ _ (by decide), Nat.mod_eq_of_lt ht]

theorem startThread_x_other {r : Nat} (hr : r ∉ [2, 10, 11]) : (startThread i entry stack t).x r = 0 := by
  simp only [List.mem_cons, List.not_mem_nil, or_false, not_or] at hr
  obtain ⟨h2, h10, h11⟩ := hr
  rw [startThread_x, x_setX_other _ _ h11, x_setX_other _ _ h10, x_setX_other _ _ h2, x_thread0]

end

/-! ## The threads of a core that starts -/

/-- The first `m` threads of core `c` started, as `State.startCore` starts them. -/
def State.startThreads (s : State) (n c entry stack m : Nat) : State :=
  (List.range m).foldl
    (fun u t => u.setThread c t (startThread (c - u.get (SEQ_PART_CORES_FIRST n)) entry stack t)) s

/-- The mark of a core that starts with `m` threads (R343, R345). -/
def State.markRunning (s : State) (c m : Nat) : State :=
  (s.put (SEQ_CORE_STATE_STATE c) 2).put (SEQ_CORE_STATE_RUN_MASK c) (2 ^ m - 1)

variable (n c entry stack m : Nat)

theorem startCore_eq {threads : Nat} (h : mget (0, 0, 0) s.sq.image c = (entry, threads, stack)) :
    s.startCore n c = ((s.setTurn c {}).startThreads n c entry stack threads).markRunning c threads := by
  have himage : mget (0, 0, 0) (s.setTurn c {}).sq.image c = (entry, threads, stack) := h
  simp only [State.startCore, himage]
  rfl

theorem startThreads_succ : s.startThreads n c entry stack (m + 1) =
    (s.startThreads n c entry stack m).setThread c m
      (startThread (c - (s.startThreads n c entry stack m).get (SEQ_PART_CORES_FIRST n)) entry stack m) := by
  simp only [State.startThreads, List.range_succ, List.foldl_append, List.foldl_cons, List.foldl_nil]

theorem OnlyThreads.startThreads {s u : State} (h : OnlyThreads s u) :
    OnlyThreads s (u.startThreads n c entry stack m) := by
  induction m with
  | zero => exact h
  | succ m ih =>
    rw [startThreads_succ]
    exact ih.setThread c m _

theorem get_startThreads (f : Fld) : (s.startThreads n c entry stack m).get f = s.get f :=
  ((OnlyThreads.refl s).startThreads n c entry stack m).get_eq f

/-- Each of the first `m` threads starts with the core's index in the share, which no thread's start moves. -/
theorem thread_startThreads_of_lt {m t : Nat} (ht : t < m) : (s.startThreads n c entry stack m).thread c t =
    startThread (c - s.get (SEQ_PART_CORES_FIRST n)) entry stack t := by
  induction m with
  | zero => exact absurd ht (Nat.not_lt_zero t)
  | succ m ih =>
    rw [startThreads_succ]
    obtain hlt | rfl := Nat.lt_succ_iff_lt_or_eq.1 ht
    · rw [thread_setThread_other _ _ _ hlt.ne, ih hlt]
    · rw [thread_setThread_same, get_startThreads]

theorem thread_startThreads_of_le {m t : Nat} (ht : m ≤ t) :
    (s.startThreads n c entry stack m).thread c t = s.thread c t := by
  induction m with
  | zero => rfl
  | succ m ih =>
    have hne : t ≠ m := by omega
    rw [startThreads_succ, thread_setThread_other _ _ _ hne, ih (by omega)]

/-! ## The mark of the core -/

@[simp] theorem markRunning_thread (t : Nat) : (s.markRunning c m).thread c t = s.thread c t :=
  (thread_put _ _ _ c t).trans (thread_put s _ _ c t)

theorem get_markRunning_state : (s.markRunning c m).get (SEQ_CORE_STATE_STATE c) = 2 := by
  have hmask := get_put_disjoint (s.put (SEQ_CORE_STATE_STATE c) 2) (SEQ_CORE_STATE_RUN_MASK c) (SEQ_CORE_STATE_STATE c)
    (2 ^ m - 1) (Nat.zero_le 31) (by decide : 31 < 64) rfl (.inr (by decide : 31 < 62))
  exact hmask.trans (get_put_same s (SEQ_CORE_STATE_STATE c) 2 (by decide : 62 ≤ 63) (by decide : 63 < 64))

/-- The run mask has room for 32 threads. -/
theorem get_markRunning_runMask {m : Nat} (hm : m ≤ 32) :
    (s.markRunning c m).get (SEQ_CORE_STATE_RUN_MASK c) = 2 ^ m - 1 := by
  have hle : 2 ^ m ≤ 2 ^ 32 := Nat.pow_le_pow_right (by decide) hm
  have hlt : 2 ^ m - 1 < 2 ^ 32 := by omega
  exact (get_put_same _ (SEQ_CORE_STATE_RUN_MASK c) _ (Nat.zero_le 31) (by decide : 31 < 64)).trans (Nat.mod_eq_of_lt hlt)

theorem markRunning_sameRegs : SameRegs s (s.markRunning c m) [SEQ_CORE_STATE c] := by
  intro k hk
  have hne : k ≠ SEQ_CORE_STATE c := fun e => hk (List.mem_singleton.2 e)
  unfold State.markRunning
  rw [reg_put_other _ _ hne, reg_put_other _ _ hne]

theorem markRunning_sameMem : SameMem s (s.markRunning c m) :=
  (put_sameMem s _ _).trans (put_sameMem _ _ _)

/-- Settles O58: the threads that start read as `startThread`, and of the rest of the state only the turn and the core's
mark have changed. -/
theorem coreStart : Obligations.CoreStart := by
  unfold Obligations.CoreStart
  intro s n c entry threads stack himage hthreads _
  dsimp only
  have honly : OnlyThreads s ((s.setTurn c {}).startThreads n c entry stack threads) :=
    ((OnlyThreads.refl s).setTurn c {}).startThreads n c entry stack threads
  rw [startCore_eq s n c entry stack himage]
  refine ⟨fun t ht => ?_, fun t ht _ => ?_, get_markRunning_state _ c threads, get_markRunning_runMask _ c hthreads,
    fun k hk => (markRunning_sameRegs _ c threads k hk).trans (honly.reg_eq k),
    honly.sameMem.trans (markRunning_sameMem _ c threads)⟩
  · rw [markRunning_thread, thread_startThreads_of_lt _ _ _ _ _ ht]
    exact ⟨rfl, rfl, startThread_x2 _ _ _ _, startThread_x10 _ _ _ _, startThread_x11 _ _ _ (by omega),
      fun r hr => startThread_x_other _ _ _ _ hr, rfl, rfl, rfl, rfl, rfl⟩
  · rw [markRunning_thread, thread_startThreads_of_le _ _ _ _ _ ht, thread_setTurn]

end Sys2Proof.Machine
end

section
/-! O53, the Cask's supply (R478). Every command that is not the Cask's own keeps the Cask as it is: one lemma per
command says that it passes `Keeps` on, each by the lemmas of the operations that the command is made of, and
`exec_keeps` collects them. Of the Cask's own commands only the fall and the rise of its supply change whether it
runs. -/

namespace Sys2Proof.Machine

section

variable {b : Bool} {s₀ s : State}

/-! ## Outcomes and choices -/

theorem OkR.imp {P Q : State → Prop} {o : Host.Outcome State Fault Refusal} (h : OkR P o) (hpq : ∀ t, P t → Q t) :
    OkR Q o := by
  cases o with
  | next t => exact hpq t h
  | fault _ => trivial
  | refused _ => trivial

theorem OkR.of_next {P : State → Prop} {o : Host.Outcome State Fault Refusal} {t : State} (h : OkR P o)
    (e : o = .next t) : P t := by
  subst e
  exact h

theorem OkR.ite {P : State → Prop} {c : Prop} [Decidable c] {x y : Host.Outcome State Fault Refusal} (hx : OkR P x)
    (hy : OkR P y) : OkR P (if c then x else y) := by
  split <;> assumption

theorem OkM.ite {P : State → Prop} {c : Prop} [Decidable c] {x y : MbRes} (hx : OkM P x) (hy : OkM P y) :
    OkM P (if c then x else y) := by
  split <;> assumption

/-- A choice whose first branch goes on from the second. -/
theorem ite_keeps_of_else {c : Prop} [Decidable c] {x y : State} (hx : Keeps b s₀ y → Keeps b s₀ x)
    (hy : Keeps b s₀ y) : Keeps b s₀ (if c then x else y) := ite_keeps (hx hy) hy

/-- A choice whose second branch goes on from the first. -/
theorem ite_keeps_of_then {c : Prop} [Decidable c] {x y : State} (hy : Keeps b s₀ x → Keeps b s₀ y)
    (hx : Keeps b s₀ x) : Keeps b s₀ (if c then x else y) := ite_keeps hx (hy hx)

/-! ## Rings and steps -/

theorem execDescriptorFetch_keeps (n : Part) (r : RingId) (h : Keeps b s₀ s) :
    OkR (Keeps b s₀) (execDescriptorFetch n r s) :=
  OkR.ite (ringFull_keeps _ _ (ite_keeps_of_else (fun h => emit_keeps h _) (put_keeps (setRing_keeps _ _ _ h) _ _)))
    (ringFull_keeps _ _ h)

theorem execFetchComplete_keeps (n : Part) (r : RingId) (a : Reply) (h : Keeps b s₀ s) :
    OkR (Keeps b s₀) (execFetchComplete n r a s) := by
  unfold execFetchComplete
  dsimp only
  split
  · exact ringFull_keeps _ _ (put_keeps (setRing_keeps _ _ _ h) _ _)
  · exact ringFull_keeps _ _ (put_keeps (flag_keeps (setRing_keeps _ _ _ h) _) _ _)
  · exact h

theorem execCqRecordRetry_keeps (n : Part) (r : RingId) (ok : Bool) (h : Keeps b s₀ s) :
    OkR (Keeps b s₀) (execCqRecordRetry n r ok s) := by
  unfold execCqRecordRetry
  dsimp only
  split
  · exact h
  · refine OkR.ite (setRing_keeps _ _ _ (cqWrite_keeps _ _ _ _ ?_ h)) (flag_keeps (cqWrite_keeps _ _ _ _ ?_ h) _) <;>
      exact fun _ _ _ h => ite_snd (ite_keeps_of_else (fun h => emit_keeps h _) h)
        (ite_keeps_of_else (fun h => hbmWrite_keeps h _ _) h)

theorem execBeatSlip_keeps (id : Nat) (h : Keeps b s₀ s) : OkR (Keeps b s₀) (execBeatSlip id s) := by
  unfold execBeatSlip
  split
  · exact h
  · exact OkR.ite (bump_keeps (flag_keeps (setStep_keeps _ h) _) _) h

/-! ## Tile moves -/

theorem execTileMoveStart_keeps (mover : Fin 64) (h : Keeps b s₀ s) :
    OkR (Keeps b s₀) (execTileMoveStart mover s) := by
  unfold execTileMoveStart
  refine OkR.ite h ?_
  extract_lets pick
  clear_value pick
  split
  · exact h
  · refine OkR.ite ?_ (bump_keeps h _)
    have hside {c : Prop} [Decidable c] {t : State} (p q : Pkt) (h : Keeps b s₀ t) :
        Keeps b s₀ (if c then t.deliver onDie p else t.send 96 q) := ite_keeps (deliver_keeps _ _ h) (send_keeps _ _ h)
    exact hside _ _ (hside _ _ (setMove_keeps _ _ (openEntry_keeps _ _ _ (keeps_mk.2 (.of h)))))

theorem execTileMoveEnd_keeps (id now : Nat) (h : Keeps b s₀ s) : OkR (Keeps b s₀) (execTileMoveEnd id now s) := by
  unfold execTileMoveEnd
  split
  · exact h
  · exact OkR.ite (endStep_keeps _ _ _ _ h) h

/-! ## Pools -/

theorem execPoolAlloc_keeps (u : PoolUser) (n : Part) (size : InCycle Nat) (h : Keeps b s₀ s) :
    OkR (Keeps b s₀) (execPoolAlloc u n size s) := by
  unfold execPoolAlloc
  split
  · exact poolCycle_keeps _ h
  · exact OkR.ite (poolCycle_keeps _ (keeps_mk.2 (.of h))) (poolCycle_keeps _ (keeps_mk.2 (.of h)))

theorem execPoolRelease_keeps (k : Fin 5) (index : InCycle Nat) (h : Keeps b s₀ s) :
    OkR (Keeps b s₀) (execPoolRelease k index s) := by
  unfold execPoolRelease
  refine OkR.ite (poolCycle_keeps _ h) ?_
  split
  · exact OkR.ite (poolCycle_keeps _ (poolGive_keeps _ _ _ h)) (poolCycle_keeps _ (doubleFree_keeps _ _ h))
  · exact poolCycle_keeps _ (doubleFree_keeps _ _ h)

theorem execCellBatchFree_keeps (first : InCycle Nat) (w held : Word) (h : Keeps b s₀ s) :
    OkR (Keeps b s₀) (execCellBatchFree first w held s) :=
  OkR.ite (poolCycle_keeps _ (foldl_keeps _ _ (fun _ _ h => freeCell_keeps _ _ h) h)) (poolCycle_keeps _
    (poolErr_keeps _ _ _ (bump_keeps (flag_keeps (foldl_keeps _ _ (fun _ _ h => loseCell_keeps _ h) h) _) _)))

theorem execAuditSweep_keeps (h : Keeps b s₀ s) : OkR (Keeps b s₀) (execAuditSweep s) :=
  OkR.ite (poolServe_keeps (wr_keeps (keeps_mk.2 (.of (foldl_keeps _ _ (fun _ _ h => foldl_keeps _ _
    (fun _ _ h => auditBuf_keeps _ _ h) h) h))) _ _)) h

/-! ## Reductions and multicast -/

theorem execReduce_keeps (now : Nat) (parity : Bool) (h : Keeps b s₀ s) : OkR (Keeps b s₀) (execReduce now parity s) :=
  beginContribution_keeps _ _ _ h

theorem execReduceMem_keeps (now : Nat) (parity : Bool) (h : Keeps b s₀ s) :
    OkR (Keeps b s₀) (execReduceMem now parity s) :=
  beginContribution_keeps _ _ _ h

theorem execChunkTimeout_keeps (g : Row) (chunk : Nat) (h : Keeps b s₀ s) :
    OkR (Keeps b s₀) (execChunkTimeout g chunk s) := by
  unfold execChunkTimeout
  split
  · exact h
  · exact bump_keeps (flag_keeps (endChunk_keeps _ _ h) _) _

theorem execParkedContributionOpen_keeps (g : Row) (free : SlotsFree) (h : Keeps b s₀ s) :
    OkR (Keeps b s₀) (execParkedContributionOpen g free s) :=
  unpark_keeps _ _ _ _ h

theorem execMcastStore_keeps (h : Keeps b s₀ s) : OkR (Keeps b s₀) (execMcastStore s) := by
  unfold execMcastStore
  split
  · exact beginInner_keeps _ h
  · rename_i heq
    exact Keeps.of_some_pair heq (takeRdx_keeps _ h)
  · rename_i heq
    have h := Keeps.of_some_pair heq (takeRdx_keeps _ h)
    exact OkR.ite (ack_keeps _ _ h) (OkR.ite (replicate_keeps _ _ h) (reply_keeps _ _ _ _ _ h))

theorem execMcastAckCombine_keeps (op : Nat) (h : Keeps b s₀ s) : OkR (Keeps b s₀) (execMcastAckCombine op s) := by
  unfold execMcastAckCombine
  split
  · exact OkR.ite (reply_keeps _ _ _ _ _ (keeps_mk.2 (.of h))) h
  · exact h

/-! ## Time -/

theorem execBeatFrame_keeps (p : Port) (arrival : BitVec 32) (h : Keeps b s₀ s) :
    OkR (Keeps b s₀) (execBeatFrame p arrival s) := by
  unfold execBeatFrame
  split
  · rename_i heq
    have h := Keeps.of_some_pair heq (takeRx_keeps _ _ h)
    exact ite_keeps_of_else (fun h => takePending_keeps _ _ (followParent_keeps _ _ _ h))
      (leaveParent_keeps _ (adopt_keeps (ite_keeps_of_else (fun h => fibreLow_keeps (setReg_keeps h _ _)) (take_keeps
        (ite_keeps_of_then (fun h => keeps_mk.2 (.of h)) (setLink_keeps _ _ (setPt_keeps _ _ h)))))))
  · exact h

theorem execLockAcquired_keeps (h : Keeps b s₀ s) : OkR (Keeps b s₀) (execLockAcquired s) :=
  OkR.ite (flushSeal_keeps (keeps_mk.2 (.of (put_keeps (put_keeps h _ _) _ _)))) h

theorem execHoldover_keeps (h : Keeps b s₀ s) : OkR (Keeps b s₀) (execHoldover s) :=
  OkR.ite (keeps_mk.2 (.of (dropTime_keeps _ h))) h

theorem execElection_keeps (h : Keeps b s₀ s) : OkR (Keeps b s₀) (execElection s) :=
  OkR.ite (OkR.ite (adopt_keeps (dropTime_keeps _ h)) (adopt_keeps h)) (OkR.ite (OkR.ite (adopt_keeps h) (OkR.ite
    (flushSeal_keeps (keeps_mk.2 (.of (put_keeps (put_keeps (put_keeps (put_keeps
    (dropTime_keeps _ h) _ _) _ _) _ _) _ _)))) h)) h)

theorem execGridChangeApply_keeps (h : Keeps b s₀ s) : OkR (Keeps b s₀) (execGridChangeApply s) :=
  applyGrid_keeps h

/-! ## The switch core -/

theorem execPacketSwitch_keeps (p : XPort) (busy : Bool) (h : Keeps b s₀ s) :
    OkR (Keeps b s₀) (execPacketSwitch p busy s) := by
  unfold execPacketSwitch
  extract_lets i
  split
  · rename_i heq
    exact Keeps.of_pair heq (switchRanks_keeps _ _ _ h)
  · rename_i heq
    have h := Keeps.of_pair heq (switchRanks_keeps _ _ _ h)
    split
    · rename_i hcut
      split at hcut
      · exact Keeps.of_some hcut (startCut_keeps _ _ h)
      · cases hcut
    · extract_lets s₁
      have h₁ : Keeps b s₀ s₁ := by
        unfold s₁
        split
        · exact ite_keeps_of_else (judge_keeps _ _) h
        · exact h
      clear_value s₁
      exact ite_keeps h₁ (drain_keeps _ h₁)

theorem execCombWindowClose_keeps (p : Port) (id : Nat) (h : Keeps b s₀ s) :
    OkR (Keeps b s₀) (execCombWindowClose p id s) := by
  unfold execCombWindowClose
  split
  · exact xqCounts_keeps (closeComb_keeps _ h)
  · exact h

theorem execCombinedReply_keeps (h : Keeps b s₀ s) : OkR (Keeps b s₀) (execCombinedReply s) := by
  unfold execCombinedReply
  split
  · refine OkR.ite ?_ h
    split
    · split
      · rename_i heq
        have h := Keeps.of_some_pair heq (takeEp_keeps _ h)
        have h := fun t => closeEntry_keeps t false h
        exact OkR.ite (failComb_keeps _ _ _ (h _)) (answerComb_keeps _ _ (fun _ _ _ _ h => ite_keeps (send_keeps _ _ h)
          (ite_keeps (send_keeps _ _ h) (send_keeps _ _ h))) (h _))
      · rename_i heq
        exact Keeps.of_some_pair heq (takeEp_keeps _ h)
      · exact h
    · exact h
  · exact h

theorem execBankSwitch_keeps (h : Keeps b s₀ s) : OkR (Keeps b s₀) (execBankSwitch s) :=
  OkR.ite (xqCounts_keeps (keeps_mk.2 (.of (flag_keeps (put_keeps (put_keeps (put_keeps h _ _) _ _) _ _) _)))) h

theorem execDrainEnd_keeps (h : Keeps b s₀ s) : OkR (Keeps b s₀) (execDrainEnd s) :=
  OkR.ite (put_keeps h _ _) h

/-! ## Collectives and barriers -/

theorem execCollStepEnd_keeps (id now : Nat) (h : Keeps b s₀ s) : OkR (Keeps b s₀) (execCollStepEnd id now s) := by
  unfold execCollStepEnd
  split
  · exact h
  · extract_lets done status
    clear_value status
    split
    · exact endStep_keeps _ _ _ _ (closeWhole_keeps _ h)
    · exact h

theorem execBarrierArrival_keeps (g : Row) (now : Nat) (h : Keeps b s₀ s) :
    OkR (Keeps b s₀) (execBarrierArrival g now s) := by
  unfold execBarrierArrival
  refine OkR.ite ?_ h
  split
  exact send_keeps _ _ (put_keeps (keeps_mk.2 (.of (Keeps.of_pair ‹_› (take_keeps h)))) _ _)

theorem execBarrierTimeout_keeps (g : Row) (h : Keeps b s₀ s) : OkR (Keeps b s₀) (execBarrierTimeout g s) := by
  unfold execBarrierTimeout
  dsimp only
  split
  · refine OkR.ite (OkR.next (foldl_keeps _ _ ?_ h)) h
    intro _ _ h
    split
    · exact endHead_keeps _ _ _ _ _ _ h
    · exact h
  · exact h

/-! ## Requests, lines and translation -/

theorem execLoad_keeps (h : Keeps b s₀ s) : OkR (Keeps b s₀) (execLoad s) :=
  beginRequest_keeps _ h

theorem execStore_keeps (h : Keeps b s₀ s) : OkR (Keeps b s₀) (execStore s) :=
  beginRequest_keeps _ h

theorem execAtomic_keeps (h : Keeps b s₀ s) : OkR (Keeps b s₀) (execAtomic s) :=
  beginRequest_keeps _ h

theorem execLineQueueAdmit_keeps (line waitNs : Nat) (h : Keeps b s₀ s) :
    OkR (Keeps b s₀) (execLineQueueAdmit line waitNs s) := by
  unfold execLineQueueAdmit
  refine OkR.ite ?_ h
  split
  · exact h
  · exact lineAdd_keeps _ _ (raise_keeps _ _ (keeps_mk.2 (.of h)))

theorem execLineEntryPerform_keeps (line : Nat) (h : Keeps b s₀ s) :
    OkR (Keeps b s₀) (execLineEntryPerform line s) := by
  unfold execLineEntryPerform
  split
  · refine OkR.ite ?_ h
    split
    exact dirSettle_keeps (finishLine_keeps _ _ _ (Keeps.of_pair ‹_› (lineDo_keeps _ _ h)))
  · exact h

theorem execLowerLimitTimeout_keeps (line : Nat) (h : Keeps b s₀ s) :
    OkR (Keeps b s₀) (execLowerLimitTimeout line s) := by
  unfold execLowerLimitTimeout
  split
  · exact OkR.ite (finishLine_keeps _ _ _ (ite_keeps_of_else (closeEntry_keeps _ _) (bump_keeps (flag_keeps h _) _))) h
  · exact h

theorem execRecallTimeout_keeps (line : Nat) (agent : Fin 5) (h : Keeps b s₀ s) :
    OkR (Keeps b s₀) (execRecallTimeout line agent s) := by
  unfold execRecallTimeout
  split
  · exact h
  · exact OkR.ite (dirSettle_keeps (failHeads_keeps _ _ (dirDrop_keeps _ _ _ (bump_keeps (flag_keeps h _) _)))) h

theorem execCxlCacheResponse_keeps (line : Nat) (a : Reply) (h : Keeps b s₀ s) :
    OkR (Keeps b s₀) (execCxlCacheResponse line a s) := by
  unfold execCxlCacheResponse
  split
  · refine OkR.ite h ?_
    split
    · exact finishLine_keeps _ _ _ h
    · exact OkR.ite (OkR.ite (finishLine_keeps _ _ _ h) (emit_keeps (setOp_keeps _ h) _)) (finishLine_keeps _ _ _ h)
  · exact h

theorem execBackInvalidationResponse_keeps (line : Nat) (data : Option (List Byte)) (h : Keeps b s₀ s) :
    OkR (Keeps b s₀) (execBackInvalidationResponse line data s) :=
  recallAnswer_keeps _ _ _ h

theorem execHostSnoop_keeps (addr : Nat) (h : Keeps b s₀ s) : OkR (Keeps b s₀) (execHostSnoop addr s) :=
  emit_keeps h _

theorem execTranslationCompletion_keeps (n : Part) (pasid : Nat) (va : Word) (a : AtsAnswer) (h : Keeps b s₀ s) :
    OkR (Keeps b s₀) (execTranslationCompletion n pasid va a s) := by
  unfold execTranslationCompletion
  refine OkR.ite h ?_
  split
  · exact regionDone_keeps _ _ _ _ _ h
  · exact regionDone_keeps _ _ _ _ _ h
  · exact OkR.ite (regionDone_keeps _ _ _ _ _ (keeps_mk.2 (.of h))) (regionDone_keeps _ _ _ _ _ (bump_keeps h _))

theorem execAtsTimeout_keeps (n : Part) (pasid : Nat) (va : Word) (h : Keeps b s₀ s) :
    OkR (Keeps b s₀) (execAtsTimeout n pasid va s) :=
  OkR.ite (regionDone_keeps _ _ _ _ _ (bump_keeps h _)) h

theorem execInvalidateRequest_keeps (itag : Nat) (pasid : Option Nat) (va : Word) (size : Nat) (h : Keeps b s₀ s) :
    OkR (Keeps b s₀) (execInvalidateRequest itag pasid va size s) :=
  keeps_mk.2 (.of h)

theorem execInvalidationCompletion_keeps (itag : Nat) (h : Keeps b s₀ s) :
    OkR (Keeps b s₀) (execInvalidationCompletion itag s) := by
  unfold execInvalidationCompletion
  split
  · exact h
  · exact OkR.ite h (emit_keeps (bump_keeps (keeps_mk.2 (.of h)) _) _)

/-! ## Fabric health -/

theorem execPeerDead_keeps (i : Port) (h : Keeps b s₀ s) : OkR (Keeps b s₀) (execPeerDead i s) := by
  unfold execPeerDead
  split
  · exact OkR.ite (declareDead_keeps _ h) h
  · exact h

theorem execGravityBucketExpire_keeps (h : Keeps b s₀ s) : OkR (Keeps b s₀) (execGravityBucketExpire s) :=
  foldl_keeps _ _ (fun _ _ h => showScore_keeps _ _ h) (foldl_keeps _ _ (fun _ _ h => showScore_keeps _ _ h)
    (foldl_keeps _ _ (fun _ _ h => showScore_keeps _ _ h) (keeps_mk.2 (.of h))))

/-! ## Attach links -/

theorem execLcWait_keeps (p : Port) (h : Keeps b s₀ s) : OkR (Keeps b s₀) (execLcWait p s) :=
  onRequest_keeps _ _ _ _ (fun _ _ h => ite_keeps (sendAttach_keeps _ _ _ _ _ _ _ _ _ _ h) (ite_keeps
    (sendAttach_keeps _ _ _ _ _ _ _ _ _ _ h) (ite_keeps (sendAttach_keeps _ _ _ _ _ _ _ _ _ _ h)
    (setLink_keeps _ _ h)))) h

theorem execLcWaitTimeout_keeps (p : Port) (id : Nat) (h : Keeps b s₀ s) :
    OkR (Keeps b s₀) (execLcWaitTimeout p id s) := by
  unfold execLcWaitTimeout
  dsimp only
  split
  · exact h
  · exact sendAttach_keeps _ _ _ _ _ _ _ _ _ _ (setLink_keeps _ _ h)

theorem execAttachLcRead_keeps (p : Port) (h : Keeps b s₀ s) : OkR (Keeps b s₀) (execAttachLcRead p s) :=
  onRequest_keeps _ _ _ _ (fun _ _ h => sendAttach_keeps _ _ _ _ _ _ _ _ _ _ h) h

theorem execRdShared_keeps (p : Port) (h : Keeps b s₀ s) : OkR (Keeps b s₀) (execRdShared p s) :=
  onRequest_keeps _ _ _ _ (fun _ _ h => attachRead_keeps _ _ _ h) h

theorem execRdOwn_keeps (p : Port) (h : Keeps b s₀ s) : OkR (Keeps b s₀) (execRdOwn p s) :=
  onRequest_keeps _ _ _ _ (fun _ _ h => attachRead_keeps _ _ _ h) h

theorem execDrop_keeps (p : Port) (h : Keeps b s₀ s) : OkR (Keeps b s₀) (execDrop p s) := by
  unfold execDrop
  refine onRequest_keeps _ _ _ _ ?_ h
  intro _ _ h
  dsimp only
  split
  · exact ite_keeps h (dirSettle_keeps (dirAnswer_keeps _ _ _ h))
  · exact h

theorem execWb_keeps (p : Port) (h : Keeps b s₀ s) : OkR (Keeps b s₀) (execWb p s) := by
  refine onResponse_keeps _ _ _ (fun x t h => ?_) h
  have hack {u : State} (st : Nat) (hu : Keeps b s₀ u) :=
    sendAttach_keeps p.val 0xA2 st x.id false x.part x.addr 0 none none hu
  dsimp only
  split
  · refine ite_keeps ?_ (hack _ (lateWb_keeps h))
    cases x.data with
    | none => exact ite_keeps (hack _ h) (hack _ (dirSettle_keeps (dirAnswer_keeps _ _ _ h)))
    | some d =>
      exact ite_keeps (hack _ (hbmWrite_keeps h _ _))
        (hack _ (dirSettle_keeps (dirAnswer_keeps _ _ _ (hbmWrite_keeps h _ _))))
  · exact hack _ (lateWb_keeps h)

theorem execRecallRsp_keeps (p : Port) (h : Keeps b s₀ s) : OkR (Keeps b s₀) (execRecallRsp p s) :=
  onResponse_keeps _ _ _ (fun _ _ h => recallAnswer_keeps _ _ _ h) h

theorem execInvalRsp_keeps (p : Port) (h : Keeps b s₀ s) : OkR (Keeps b s₀) (execInvalRsp p s) :=
  onResponse_keeps _ _ _ (fun _ _ h => recallAnswer_keeps _ _ _ h) h

theorem execResetAck_keeps (p : Port) (h : Keeps b s₀ s) : OkR (Keeps b s₀) (execResetAck p s) :=
  onResponse_keeps _ _ _ (fun _ _ h => h) h

theorem execAttachDiscard_keeps (p : Port) (h : Keeps b s₀ s) : OkR (Keeps b s₀) (execAttachDiscard p s) := by
  unfold execAttachDiscard
  dsimp only
  split
  · exact OkR.ite h (returnAttach_keeps _ _ _ (bump_keeps (Keeps.of_some_pair ‹_› (takeRx_keeps _ _ h)) _))
  · exact h

theorem execCxlLinkDown_keeps (h : Keeps b s₀ s) : OkR (Keeps b s₀) (execCxlLinkDown s) :=
  cxlDown_keeps h

theorem execCxlLinkUp_keeps (x16 gt64 : Bool) (h : Keeps b s₀ s) : OkR (Keeps b s₀) (execCxlLinkUp x16 gt64 s) :=
  OkR.ite (cxlTrained_keeps _ _ h) h

theorem execPerstN_keeps (low : Bool) (h : Keeps b s₀ s) : OkR (Keeps b s₀) (execPerstN low s) :=
  ite_keeps_of_else cxlDown_keeps (keeps_mk.2 (.of h))

theorem execHdmAccess_keeps (pa len : Nat) (wr : Option (List Byte)) (cacheable : Bool) (h : Keeps b s₀ s) :
    OkR (Keeps b s₀) (execHdmAccess pa len wr cacheable s) :=
  OkR.ite h (OkR.ite (emit_keeps (bump_keeps (flag_keeps h _) _) _) (startOp_keeps _ _ _ h))

/-! ## The Tun -/

theorem execTunJobStart_keeps (h : Keeps b s₀ s) : OkR (Keeps b s₀) (execTunJobStart s) := by
  unfold execTunJobStart
  split
  · exact h
  · refine OkR.ite h (OkR.ite (put_keeps (setStep_keeps _ h) _ _) ?_)
    dsimp only
    split
    · exact setStep_keeps _ (jobFault_keeps _ _ _ _ h)
    · refine put_keeps (setStep_keeps _ ?_) _ _
      exact keeps_mk.2 (.of h)

theorem execProjectChunkTake_keeps (chunk : Nat) (h : Keeps b s₀ s) :
    OkR (Keeps b s₀) (execProjectChunkTake chunk s) := by
  unfold execProjectChunkTake
  split
  · exact h
  · refine OkR.ite ?_ h
    split
    · exact h
    · exact OkR.ite (setStep_keeps _ (rdxCounts_keeps _ (setStaged_keeps _ h))) (ite_keeps_of_else
        (fun h => put_keeps h _ _) (keeps_mk.2 (.of (rdxCounts_keeps _ (setStaged_keeps _ h)))))

theorem execStagedChunkExpire_keeps (g : Row) (chunk : Nat) (h : Keeps b s₀ s) :
    OkR (Keeps b s₀) (execStagedChunkExpire g chunk s) := by
  unfold execStagedChunkExpire
  split
  · exact OkR.ite (stageDrop_keeps (rdxCounts_keeps _ (setStaged_keeps _ h))) h
  · exact h

theorem execProjectTimeout_keeps (h : Keeps b s₀ s) : OkR (Keeps b s₀) (execProjectTimeout s) :=
  keeps_mk.2 (.of h)

theorem execTunJobOutput_keeps (h : Keeps b s₀ s) : OkR (Keeps b s₀) (execTunJobOutput s) := by
  unfold execTunJobOutput
  split
  · exact h
  · exact OkR.ite h (OkR.ite (countBusy_keeps _ _ (emitPkts_keeps _ _ _ h)) (OkR.ite (countBusy_keeps _ _
      (emitPkts_keeps _ _ _ h)) (countBusy_keeps _ _ (emitContribs_keeps _ _ _ h))))

theorem execTunJobEnd_keeps (now : Nat) (parity : Option WordFault) (h : Keeps b s₀ s) :
    OkR (Keeps b s₀) (execTunJobEnd now parity s) := by
  unfold execTunJobEnd
  dsimp only
  split
  · exact h
  · exact endStep_keeps _ _ _ _ (tunNext_keeps (bump_keeps (tunParity_keeps _ (ite_keeps_of_then
      (fun h => put_keeps h _ _) (tunClear_keeps _ (closeWhole_keeps _ (ite_keeps_of_else (partBusy_keeps _)
      (ite_keeps (wordFault_keeps _ h) h)))))) _))

theorem execSliceLoadStart_keeps (h : Keeps b s₀ s) : OkR (Keeps b s₀) (execSliceLoadStart s) := by
  unfold execSliceLoadStart
  split
  · exact h
  · refine OkR.ite h (OkR.ite h ?_)
    split
    · split
      exact endLoad_keeps _ _ _ _ (Keeps.of_pair ‹_› (jobFault_keeps _ _ _ _ h))
    · exact OkR.ite (endLoad_keeps _ _ _ _ h) (OkR.ite (setLoad_keeps _ (put_keeps (setReg_keeps
        (setReg_keeps h _ _) _ _) _ _)) (loadNext_keeps _ (put_keeps (setReg_keeps (setReg_keeps h _ _) _ _) _ _)))

theorem execSliceLoadEnd_keeps (parity : Option WordFault) (h : Keeps b s₀ s) :
    OkR (Keeps b s₀) (execSliceLoadEnd parity s) := by
  unfold execSliceLoadEnd
  split
  · exact h
  · split
    · exact endLoad_keeps _ _ _ _ (tunParity_keeps _ h)
    · exact endLoad_keeps _ _ _ _ (tunParity_keeps _ h)
    · exact endLoad_keeps _ _ _ _ (tunParity_keeps _ (wordFault_keeps _ h))
    · exact OkR.ite (endLoad_keeps _ _ _ _ (writeSlice_keeps _ h)) h

/-! ## The attention pass -/

theorem execAttnJobStart_keeps (h : Keeps b s₀ s) : OkR (Keeps b s₀) (execAttnJobStart s) := by
  unfold execAttnJobStart
  split
  · exact h
  · extract_lets ws n mine out hostFails xl s₁ fails qLen s0
    have h₁ : Keeps b s₀ s₁ := by
      unfold s₁
      clear_value mine
      split
      · exact keeps_mk.2 (.of h)
      · exact h
    clear_value s₁
    refine OkR.ite h ?_
    -- the two runs that are translated, then which of them fails
    split
    split
    split
    · exact setStep_keeps _ (jobFault_keeps _ _ _ _ h₁)
    · exact setStep_keeps _ (jobFault_keeps _ _ _ _ h₁)
    · extract_lets entries list first f0
      split
      rename_i heq
      have hs := Keeps.of_pair heq (foldl_keeps_snd (p := (_, s₁)) _ _
        (fun _ _ h => resolvePage_keeps _ _ _ _ _ _ _ h) h₁)
      refine OkR.ite ?_ (OkR.ite (setStep_keeps _ h₁) ?_)
      · refine OkR.next ?_
        split
        · exact atsWait_keeps _ _ _ h₁
        · exact h₁
      · split
        · exact bumpBy_keeps (setStep_keeps _ hs) _ _
        · extract_lets q load bad s₂ s₃ w tu s₄
          have h₂ : Keeps b s₀ s₂ := ite_keeps_of_else (fun h => bump_keeps (flag_keeps h _) _) hs
          have h₄ : Keeps b s₀ s₄ := keeps_mk.2 (.of (bumpBy_keeps h₂ _ _))
          exact put_keeps (setStep_keeps _ h₄) _ _

theorem execAttnOutput_keeps (h : Keeps b s₀ s) : OkR (Keeps b s₀) (execAttnOutput s) := by
  unfold execAttnOutput
  split
  · extract_lets ws due out outs dst root
    have hout {t : State} (ht : Keeps b s₀ t) : Keeps b s₀ (out t) :=
      ite_keeps_of_else (fun h => put_keeps h _ _) (countBusy_keeps _ _ ht)
    exact OkR.ite h (OkR.ite (hout (emitPkts_keeps _ _ _ h)) (hout (emitContribs_keeps _ _ _ h)))
  · exact h

theorem execAttnJobEnd_keeps (now : Nat) (parity : Option (WordFault × Fin 1024)) (h : Keeps b s₀ s) :
    OkR (Keeps b s₀) (execAttnJobEnd now parity s) := by
  unfold execAttnJobEnd
  dsimp only
  split
  · exact h
  · exact endStepSc_keeps _ _ _ _ _ (tunNext_keeps (bump_keeps (ite_keeps_of_else (fun h => bump_keeps
      (flag_keeps h _) _) (ite_keeps_of_then (fun h => setReg_keeps h _ _) (ite_keeps_of_else
      (fun h => put_keeps h _ _) (tunClear_keeps _ (closeWhole_keeps _ (ite_keeps_of_else (partBusy_keeps _)
      (ite_keeps (wordFault_keeps _ h) h))))))) _))

/-! ## Sequencer instructions -/

theorem execThreadException_keeps (c : Core) (t : Thread) (cause : BitVec 8) (h : Keeps b s₀ s) :
    OkR (Keeps b s₀) (execThreadException c t cause s) :=
  OkR.ite (seqFault_keeps _ _ _ h) h

theorem execRld_keeps (c : Core) (t : Thread) (ins : BitVec 32) (h : Keeps b s₀ s) :
    OkR (Keeps b s₀) (execRld c t ins s) := by
  unfold execRld
  exact fabric_keeps _ _ _ _ _ (fun _ h => seqBlock_keeps _ _ _ _ _ h) h

theorem execRst_keeps (c : Core) (t : Thread) (ins : BitVec 32) (h : Keeps b s₀ s) :
    OkR (Keeps b s₀) (execRst c t ins s) := by
  unfold execRst
  exact fabric_keeps _ _ _ _ _ (fun _ h => ite_keeps h (seqPost_keeps _ _ _ _ _ h)) h

theorem execRamo_keeps (c : Core) (t : Thread) (ins : BitVec 32) (h : Keeps b s₀ s) :
    OkR (Keeps b s₀) (execRamo c t ins s) := by
  unfold execRamo
  exact fabric_keeps _ _ _ _ _ (fun _ h => ite_keeps (ite_keeps h (seqPost_keeps _ _ _ _ _ h))
    (seqBlock_keeps _ _ _ _ _ h)) h

theorem execWaitlc_keeps (c : Core) (t : Thread) (ins : BitVec 32) (h : Keeps b s₀ s) :
    OkR (Keeps b s₀) (execWaitlc c t ins s) :=
  fabric_keeps _ _ _ _ _ (fun _ h => ite_keeps (blockEnd_keeps _ _ _ _ _ h) (ite_keeps (blockEnd_keeps _ _ _ _ _ h)
    (setThread_keeps _ _ _ h))) h

theorem execWaitlcWake_keeps (c : Core) (t : Thread) (h : Keeps b s₀ s) : OkR (Keeps b s₀) (execWaitlcWake c t s) := by
  unfold execWaitlcWake
  split
  · exact OkR.ite (endWaitlc_keeps _ _ _ _ h) h
  · exact h

theorem execWaitlcTimeout_keeps (c : Core) (t : Thread) (h : Keeps b s₀ s) :
    OkR (Keeps b s₀) (execWaitlcTimeout c t s) := by
  unfold execWaitlcTimeout
  split
  · exact OkR.ite (endWaitlc_keeps _ _ _ _ h) (endWaitlc_keeps _ _ _ _ (bump_keeps h _))
  · exact h

theorem execWaitbeat_keeps (c : Core) (t : Thread) (ins : BitVec 32) (h : Keeps b s₀ s) :
    OkR (Keeps b s₀) (execWaitbeat c t ins s) :=
  fabric_keeps _ _ _ _ _ (fun _ h => ite_keeps (blockEnd_keeps _ _ _ _ _ h) (setThread_keeps _ _ _ h)) h

theorem execWaitbeatWake_keeps (c : Core) (t : Thread) (h : Keeps b s₀ s) :
    OkR (Keeps b s₀) (execWaitbeatWake c t s) := by
  unfold execWaitbeatWake
  dsimp only
  split
  · exact OkR.ite (wake_keeps _ _ (setThread_keeps _ _ _ h)) h
  · exact h

theorem execFenceS_keeps (c : Core) (t : Thread) (ins : BitVec 32) (h : Keeps b s₀ s) :
    OkR (Keeps b s₀) (execFenceS c t ins s) :=
  fabric_keeps _ _ _ _ _ (fun _ h => ite_keeps (blockEnd_keeps _ _ _ _ _ h) (setThread_keeps _ _ _ h)) h

theorem execLcset_keeps (c : Core) (t : Thread) (ins : BitVec 32) (h : Keeps b s₀ s) :
    OkR (Keeps b s₀) (execLcset c t ins s) :=
  fabric_keeps _ _ _ _ _ (fun _ h => ite_keeps (blockEnd_keeps _ _ _ _ _ (lcPut_keeps _ _ h))
    (blockEnd_keeps _ _ _ _ _ h)) h

theorem execLcread_keeps (c : Core) (t : Thread) (ins : BitVec 32) (h : Keeps b s₀ s) :
    OkR (Keeps b s₀) (execLcread c t ins s) :=
  fabric_keeps _ _ _ _ _ (fun _ h => ite_keeps (blockEnd_keeps _ _ _ _ _ h) (blockEnd_keeps _ _ _ _ _ h)) h

theorem execPosttile_keeps (c : Core) (t : Thread) (ins : BitVec 32) (h : Keeps b s₀ s) :
    OkR (Keeps b s₀) (execPosttile c t ins s) := by
  unfold execPosttile
  refine fabric_keeps _ _ _ _ _ ?_ h
  intro _ h
  dsimp only
  split
  · exact seqFault_keeps _ _ _ h
  · exact ite_keeps (setThread_keeps _ _ _ h) (ite_keeps h (setThread_keeps _ _ _ (keeps_mk.2 (.of h))))

theorem execPoststep_keeps (c : Core) (t : Thread) (ins : BitVec 32) (h : Keeps b s₀ s) :
    OkR (Keeps b s₀) (execPoststep c t ins s) := by
  unfold execPoststep
  refine fabric_keeps _ _ _ _ _ ?_ h
  intro _ h
  split
  · dsimp only
    split
    · exact seqFault_keeps _ _ _ h
    · exact ite_keeps (blockEnd_keeps _ _ _ _ _ h) h
  · dsimp only
    split
    · exact seqFault_keeps _ _ _ h
    · exact ite_keeps (blockEnd_keeps _ _ _ _ _ h) (ite_keeps (blockEnd_keeps _ _ _ _ _ h) (ite_keeps
        (blockEnd_keeps _ _ _ _ _ (ringFull_keeps _ _ (put_keeps (locWrite_keeps _ _ _ h) _ _)))
        (blockEnd_keeps _ _ _ _ _ (take_keeps (locWrite_keeps _ _ _ h)))))

theorem execHalt_keeps (c : Core) (t : Thread) (ins : BitVec 32) (h : Keeps b s₀ s) :
    OkR (Keeps b s₀) (execHalt c t ins s) :=
  fabric_keeps _ _ _ _ _ (fun _ h => ite_keeps (haltThread_keeps _ _ h) (setThread_keeps _ _ _ h)) h

/-! ## Local instructions -/

theorem execLocalAccess_keeps (c : Core) (t : Thread) (op : LocalOp) (compressed : Bool) (h : Keeps b s₀ s) :
    OkR (Keeps b s₀) (execLocalAccess c t op compressed s) :=
  OkR.ite h (OkR.ite (seqFault_keeps _ _ _ (issued_keeps _ _ _ h)) (localDo_keeps _ _ _ _ (issued_keeps _ _ _ h)))

theorem execCsrWrite_keeps (c : Core) (t : Thread) (op : CsrOp) (rd : Fin 32) (csr : BitVec 12) (v : Word)
    (h : Keeps b s₀ s) :
    OkR (Keeps b s₀) (execCsrWrite c t op rd csr v s) :=
  OkR.ite h (OkR.ite (seqFault_keeps _ _ _ (issued_keeps _ _ _ h)) (OkR.ite (setGo_keeps _ _ _ _ _
    (setThread_keeps _ _ _ (issued_keeps _ _ _ h))) (seqFault_keeps _ _ _ (issued_keeps _ _ _ h))))

/-! ## Translation commands -/

theorem execTranslationChangeDone_keeps (m : Mbx) (h : Keeps b s₀ s) :
    OkR (Keeps b s₀) (execTranslationChangeDone m s) :=
  OkR.ite h (mbComplete_keeps _ _ _ _ (keeps_mk.2 (.of h)))

/-! ## Sequencer commands -/

theorem execSeqStopDone_keeps (m : Mbx) (h : Keeps b s₀ s) : OkR (Keeps b s₀) (execSeqStopDone m s) :=
  stopDone_keeps _ h

/-! ## Extent moves -/

theorem execExtentMoveStart_keeps (n : Part) (e : Nat) (h : Keeps b s₀ s) :
    OkR (Keeps b s₀) (execExtentMoveStart n e s) := by
  unfold execExtentMoveStart
  dsimp only
  split
  · split
    · exact tierFail_keeps _ _ h
    · refine OkR.ite (tierFail_keeps _ _ h) (OkR.ite (tierFail_keeps _ _ h) (OkR.ite h (OkR.ite (tierDone_keeps _
        (setStep_keeps _ (applyPin_keeps _ _ h))) (OkR.ite h ?_))))
      split
      · exact startMove_keeps _ _ _ _ _ _ _ _ (setStep_keeps _ (obtain_keeps _ _ _ _ _ h))
      · exact OkR.ite (evict_keeps _ _ _ (obtain_keeps _ _ _ _ _ h)) (tierFail_keeps _ _ (bump_keeps
          (evict_keeps _ _ _ (obtain_keeps _ _ _ _ _ h)) _))
  · split
    · exact h
    · split
      · refine OkR.ite ?_ h
        split
        · exact startMove_keeps _ _ _ _ _ _ _ _ (obtain_keeps _ _ _ _ _ h)
        · exact ite_keeps_of_then (returnToT3_keeps _ _) (evict_keeps _ _ _ (obtain_keeps _ _ _ _ _ h))
      · exact h

theorem execExtentCopyDone_keeps (n : Part) (e : Nat) (a : CopyEnd) (h : Keeps b s₀ s) :
    OkR (Keeps b s₀) (execExtentCopyDone n e a s) := by
  unfold execExtentCopyDone
  split
  · exact h
  · refine OkR.ite h ?_
    split
    · exact moveFails_keeps _ _ h
    · refine OkR.ite (setExtMove_keeps _ (freeCopy_keeps _ (copyBlocks_keeps _ _ _ h))) ?_
      split
      · dsimp only
        exact setExtMove_keeps _ (copyBuf_keeps _ (freeCopy_keeps _ (copyBlocks_keeps _ _ _ h)))
      · dsimp only
        exact setExtMove_keeps _ (copyBuf_keeps _ (freeCopy_keeps _ (copyBlocks_keeps _ _ _ h)))
    · split
      · exact moveFails_keeps _ _ (Keeps.of_some_pair ‹_› (copyFailed_keeps _ _ h))
      · exact h

theorem execExtentTileRetry_keeps (n : Part) (e : Nat) (h : Keeps b s₀ s) :
    OkR (Keeps b s₀) (execExtentTileRetry n e s) := by
  unfold execExtentTileRetry
  split
  · exact h
  · refine OkR.ite h ?_
    split
    exact setExtMove_keeps _ (Keeps.of_pair ‹_› (copyBuf_keeps _ h))

theorem execExtentSwitch_keeps (n : Part) (e : Nat) (h : Keeps b s₀ s) : OkR (Keeps b s₀) (execExtentSwitch n e s) := by
  unfold execExtentSwitch
  split
  · exact h
  · refine OkR.ite (setExtMove_keeps _ (copyBuf_keeps _ h)) (OkR.ite h (OkR.ite (moveFails_keeps _ _ h) ?_))
    rename_i m _
    have h := applyPin_keeps m.entry m.pinOp (setExt_keeps m.entry (setBits (setBits ((s.closeMove m).ext0 m.entry) 2 0
      (m.dest + 2)) 4 4 (b2n m.shared)) (BitVec.ofNat 64 m.frame) (closeMove_keeps m h))
    dsimp only
    split
    · split
      · exact tierDone_keeps _ (setStep_keeps _ (bump_keeps (tierCounts_keeps
          (ite_keeps_of_else (promote_keeps _ _) h)) _))
      · exact bump_keeps (tierCounts_keeps (ite_keeps_of_else (promote_keeps _ _) h)) _
    · exact settleReturns_keeps (vacated_keeps _ _ _ (bump_keeps (tierCounts_keeps
        (ite_keeps_of_else (promote_keeps _ _) h)) _))

theorem execTierMoveEnd_keeps (id : Nat) (h : Keeps b s₀ s) : OkR (Keeps b s₀) (execTierMoveEnd id s) := by
  unfold execTierMoveEnd
  split
  · exact h
  · exact OkR.ite (endStep_keeps _ _ _ _ h) h

/-! ## Partitions -/

theorem execPartSparge_keeps (m : Mbx) (h : Keeps b s₀ s) : OkR (Keeps b s₀) (execPartSparge m s) := by
  unfold execPartSparge
  refine mb_keeps _ _ _ _ ?_ h
  split
  · exact OkM.ite (OkM.again h) (OkM.wait (spargeQuiet_keeps _ h))
  · split
    · exact OkM.ite (OkM.again (dropStepsOf_keeps _ (keeps_mk.2 (.of (put_keeps h _ _))))) (OkM.wait
        (spargeQuiet_keeps _ (dropStepsOf_keeps _ (keeps_mk.2 (.of (put_keeps h _ _))))))
    · exact OkM.conflict
    · exact OkM.conflict

theorem execSpargeComplete_keeps (n : Part) (durationNs : Nat) (h : Keeps b s₀ s) :
    OkR (Keeps b s₀) (execSpargeComplete n durationNs s) := by
  unfold execSpargeComplete
  dsimp only
  split
  · exact h
  · exact OkR.ite h (mbComplete_keeps _ _ _ _ (put_keeps (put_keeps (put_keeps (put_keeps (keeps_mk.2 (.of
      (spargeClear_keeps _ h))) _ _) _ _) _ _) _ _))

/-! ## Firmware and calibration -/

theorem execFwCommit_keeps (m : Mbx) (h : Keeps b s₀ s) : OkR (Keeps b s₀) (execFwCommit m s) := by
  unfold execFwCommit
  refine mb_keeps _ _ _ _ (OkM.ite (OkM.again h) ?_) h
  split
  · exact OkM.conflict
  · exact OkM.ite OkM.denied (OkM.wait (put_keeps (keeps_mk.2 (.of h)) _ _))

theorem execFwCommitDone_keeps (matched : Bool) (h : Keeps b s₀ s) : OkR (Keeps b s₀) (execFwCommitDone matched s) := by
  unfold execFwCommitDone
  split
  · exact h
  · exact OkR.ite (mbComplete_keeps _ _ _ _ (flag_keeps (keeps_mk.2 (.of (put_keeps (keeps_mk.2 (.of h)) _ _))) _))
      (mbComplete_keeps _ _ _ _ (ite_keeps_of_else (fun h => put_keeps h _ _) (put_keeps (keeps_mk.2 (.of (put_keeps
      (keeps_mk.2 (.of h)) _ _))) _ _)))

theorem execCalWrite_keeps (m : Mbx) (host : Reply) (h : Keeps b s₀ s) : OkR (Keeps b s₀) (execCalWrite m host s) := by
  unfold execCalWrite
  refine mb_keeps _ _ _ _ (OkM.ite OkM.denied (OkM.ite OkM.conflict ?_)) h
  split
  · exact OkM.ends (bulkFault_keeps _ h)
  · exact OkM.ite (OkM.wait (put_keeps (keeps_mk.2 (.of h)) _ _)) OkM.denied

theorem execCalWriteDone_keeps (matched : Bool) (h : Keeps b s₀ s) : OkR (Keeps b s₀) (execCalWriteDone matched s) := by
  unfold execCalWriteDone
  split
  · exact h
  · exact OkR.ite (mbComplete_keeps _ _ _ _ (flag_keeps (put_keeps (keeps_mk.2 (.of h)) _ _) _))
      (mbComplete_keeps _ _ _ _ (keeps_mk.2 (.of (calHead_keeps (calProgram_keeps _ _ (put_keeps (keeps_mk.2
      (.of h)) _ _))))))

/-! ## The Cask's shadow block -/

theorem execStatusFrame_keeps (crcOk : Bool) (f : CaskFrame) (h : Keeps b s₀ s) :
    OkR (Keeps b s₀) (execStatusFrame crcOk f s) :=
  OkR.ite h (OkR.ite (bump_keeps h _) (put_keeps (bump_keeps (shadow_keeps _ h) _) _ _))

theorem execCaskLinkTimeout_keeps (h : Keeps b s₀ s) : OkR (Keeps b s₀) (execCaskLinkTimeout s) :=
  put_keeps h _ _

/-! ## Power and control messages -/

theorem execGrantEnd_keeps (h : Keeps b s₀ s) : OkR (Keeps b s₀) (execGrantEnd s) := by
  unfold execGrantEnd
  split
  · exact ite_keeps (dropRamp_keeps h) h
  · exact h

theorem execArbWaitExpire_keeps (h : Keeps b s₀ s) : OkR (Keeps b s₀) (execArbWaitExpire s) := by
  unfold execArbWaitExpire
  split
  · exact OkR.ite (bump_keeps (flag_keeps (keeps_mk.2 (.of h)) _) _) h
  · exact h

theorem execPwrCapAlert_keeps (h : Keeps b s₀ s) : OkR (Keeps b s₀) (execPwrCapAlert s) :=
  OkR.ite h (rampDone_keeps (bump_keeps (flag_keeps (flag_keeps (put_keeps (put_keeps h _ _) _ _) _) _) _))

theorem execPwrCapAlertEnd_keeps (h : Keeps b s₀ s) : OkR (Keeps b s₀) (execPwrCapAlertEnd s) := by
  unfold execPwrCapAlertEnd
  refine OkR.ite h ?_
  dsimp only
  split
  · exact setCap_keeps _ (keeps_mk.2 (.of (setEnv_keeps _ (put_keeps h _ _))))
  · exact setEnv_keeps _ (put_keeps h _ _)

theorem execHotEnter_keeps (sensors : List (BitVec 16)) (h : Keeps b s₀ s) :
    OkR (Keeps b s₀) (execHotEnter sensors s) :=
  OkR.ite h (ite_keeps_of_then (fun h => bump_keeps h _) (flag_keeps (put_keeps h _ _) _))

theorem execHotExit_keeps (sensors : List (BitVec 16)) (h : Keeps b s₀ s) : OkR (Keeps b s₀) (execHotExit sensors s) :=
  OkR.ite h (put_keeps (put_keeps h _ _) _ _)

theorem execArbiterTakeover_keeps (h : Keeps b s₀ s) : OkR (Keeps b s₀) (execArbiterTakeover s) := by
  unfold execArbiterTakeover
  split
  · exact OkR.ite (put_keeps (keeps_mk.2 (.of h)) _ _) h
  · exact h

theorem execRampReq_keeps (h : Keeps b s₀ s) : OkR (Keeps b s₀) (execRampReq s) :=
  takeCtl_keeps _ _ (fun _ _ h => ite_keeps (sendCtl_keeps _ _ (arbAge_keeps h)) (sendCtl_keeps _ _ (bump_keeps
    (keeps_mk.2 (.of (arbAge_keeps h))) _))) h

theorem execRampGrant_keeps (h : Keeps b s₀ s) : OkR (Keeps b s₀) (execRampGrant s) := by
  unfold execRampGrant
  refine takeCtl_keeps _ _ ?_ h
  intro _ _ h
  split
  · exact ite_keeps (showRamp_keeps (bump_keeps (keeps_mk.2 (.of h)) _)) h
  · exact h

theorem execRampBusy_keeps (h : Keeps b s₀ s) : OkR (Keeps b s₀) (execRampBusy s) := by
  unfold execRampBusy
  refine takeCtl_keeps _ _ ?_ h
  intro _ _ h
  split
  · exact ite_keeps (keeps_mk.2 (.of h)) h
  · exact h

theorem execRampDone_keeps (h : Keeps b s₀ s) : OkR (Keeps b s₀) (execRampDone s) :=
  takeCtl_keeps _ _ (fun _ _ h => keeps_mk.2 (.of h)) h

theorem execExpelReq_keeps (h : Keeps b s₀ s) : OkR (Keeps b s₀) (execExpelReq s) :=
  takeCtl_keeps _ _ (fun _ _ h => ite_keeps (sendCtl_keeps _ _ (arbAge_keeps (keeps_mk.2 (.of (arbAge_keeps h)))))
    (sendCtl_keeps _ _ (arbAge_keeps h))) h

theorem execExpelGrant_keeps (h : Keeps b s₀ s) : OkR (Keeps b s₀) (execExpelGrant s) := by
  unfold execExpelGrant
  refine takeCtl_keeps _ _ ?_ h
  intro _ _ h
  split
  · exact h
  · exact ite_keeps (keeps_mk.2 (.of h)) (ite_keeps (bump_keeps (fencePeer_keeps _ (keeps_mk.2 (.of h))) _)
      (isolate_keeps _ (keeps_mk.2 (.of h))))

theorem execExpelDeny_keeps (h : Keeps b s₀ s) : OkR (Keeps b s₀) (execExpelDeny s) := by
  unfold execExpelDeny
  refine takeCtl_keeps _ _ ?_ h
  intro _ _ h
  split
  · exact h
  · exact suspect_keeps _ _ (keeps_mk.2 (.of h))

theorem execExpelAnswerTimeout_keeps (h : Keeps b s₀ s) : OkR (Keeps b s₀) (execExpelAnswerTimeout s) :=
  foldl_keeps _ _ (fun _ _ h => suspect_keeps _ _ h) (keeps_mk.2 (.of h))

theorem execNoticeLost_keeps (h : Keeps b s₀ s) : OkR (Keeps b s₀) (execNoticeLost s) :=
  takeCtl_keeps _ _ (fun _ _ h => foldl_keeps _ _ (fun _ _ h => markLost_keeps _ h) h) h

theorem execNoticeFenced_keeps (h : Keeps b s₀ s) : OkR (Keeps b s₀) (execNoticeFenced s) :=
  takeCtl_keeps _ _ (fun _ _ h => foldl_keeps _ _ (fun _ _ h => markFenced_keeps _ h) h) h

theorem execNoticeReadmit_keeps (h : Keeps b s₀ s) : OkR (Keeps b s₀) (execNoticeReadmit s) :=
  takeCtl_keeps _ _ (fun _ _ h => foldl_keeps _ _ (fun _ _ h => unmark_keeps _ h) h) h

theorem execOwned_keeps (h : Keeps b s₀ s) : OkR (Keeps b s₀) (execOwned s) := by
  unfold execOwned
  refine takeCtl_keeps _ _ ?_ h
  intro _ _ h
  split
  · exact put_keeps (setReg_keeps h _ _) _ _
  · exact h

/-! ## Link reception -/

theorem execFecBlock_keeps (p : Port) (lane : Fin 8) (flits : BitVec 5120) (slot : BitVec 20) (check : BitVec 300)
    (h : Keeps b s₀ s) :
    OkR (Keeps b s₀) (execFecBlock p lane flits slot check s) := by
  unfold execFecBlock
  refine OkR.ite (ite_keeps (takeBlock_keeps _ _ (fecCount_keeps _ _ h)) h) (OkR.next ?_)
  split
  · exact rxIdle_keeps _ _ _ (evalCount_keeps _ _ _ (fecCount_keeps _ _ h))
  · exact evalCount_keeps _ _ _ (fecCount_keeps _ _ h)

theorem execLinkReplay_keeps (p : Port) (h : Keeps b s₀ s) : OkR (Keeps b s₀) (execLinkReplay p s) := by
  unfold execLinkReplay
  dsimp only
  split
  · exact h
  · exact linkGo_keeps _ (foldl_keeps _ _ (fun _ _ h => emitBlock_keeps _ _ _ h) (bumpBy_keeps
      (setLink_keeps _ _ h) _ _))

theorem execAckTimeout_keeps (p : Port) (h : Keeps b s₀ s) : OkR (Keeps b s₀) (execAckTimeout p s) :=
  linkEvent_keeps _ _ _ h

theorem execStomp_keeps (p : Port) (h : Keeps b s₀ s) : OkR (Keeps b s₀) (execStomp p s) := by
  unfold execStomp
  split
  · exact stomped_keeps _ (Keeps.of_some_pair ‹_› (takeRx_keeps _ _ h))
  · exact h

theorem execLos_keeps (p : Port) (h : Keeps b s₀ s) : OkR (Keeps b s₀) (execLos p s) :=
  linkEvent_keeps _ _ _ h

theorem execHeartbeatLoss_keeps (p : Port) (h : Keeps b s₀ s) : OkR (Keeps b s₀) (execHeartbeatLoss p s) :=
  linkEvent_keeps _ _ _ h

theorem execLsuFail_keeps (u : Fin 4) (present : Bool) (h : Keeps b s₀ s) :
    OkR (Keeps b s₀) (execLsuFail u present s) :=
  OkR.ite (foldl_keeps _ _ (fun _ _ h => ite_keeps (dropLink_keeps _ _ h) h) (setReg_keeps h _ _)) h

theorem execLsuReady_keeps (u : Fin 4) (h : Keeps b s₀ s) : OkR (Keeps b s₀) (execLsuReady u s) :=
  OkR.ite (setReg_keeps h _ _) h

/-! ## Training -/

theorem execLightDetect_keeps (p : Port) (lanes : BitVec 8) (h : Keeps b s₀ s) :
    OkR (Keeps b s₀) (execLightDetect p lanes s) :=
  OkR.ite (presetTaps_keeps _ _ (setLink_keeps _ _ (keeps_mk.2 (.of (ite_keeps_of_else (calApply_keeps _ _)
    (bump_keeps (put_keeps h _ _) _)))))) h

theorem execBlockLock_keeps (p : Port) (lane : Fin 8) (h : Keeps b s₀ s) : OkR (Keeps b s₀) (execBlockLock p lane s) :=
  OkR.ite (ite_keeps (sendHello_keeps _ (setLink_keeps _ _ h)) (askTap_keeps _ _ (setLink_keeps _ _ h))) h

theorem execHello_keeps (p : Port) (h : Keeps b s₀ s) : OkR (Keeps b s₀) (execHello p s) := by
  refine onTrain_keeps p 1 _ (fun f l t h => ?_) h
  have h := setReg_keeps (put_keeps (sendHello_keeps p.val h) (PORT_STATUS_PEER_ID p.val) (bits (fw f 0) 63 48))
    (PORT_PEER_CAP p.val) (fw f 2)
  have hfail {u : State} (cause : Nat) (hu : Keeps b s₀ u) := flag_keeps (put_keeps (linkOut_keeps p.val 4 hu)
    (PORT_STATUS_DROP_CAUSE p.val) cause) (PORT_STATUS_MISMATCH p.val)
  exact ite_keeps (hfail 7 (say_keeps _ _ _ _ _ _ h)) (ite_keeps (hfail 8 h)
    (ite_keeps (dropLink_keeps _ _ (setLink_keeps _ _ h)) (nextStep_keeps _ (setLink_keeps _ _ h))))

theorem execSpeedReq_keeps (p : Port) (h : Keeps b s₀ s) : OkR (Keeps b s₀) (execSpeedReq p s) :=
  onTrain_keeps _ _ _ (fun _ _ _ h => ite_keeps (say_keeps _ _ _ _ _ _ (setLink_keeps _ _ h)) (settle_keeps _
    (say_keeps _ _ _ _ _ _ h))) h

theorem execSpeedAck_keeps (p : Port) (h : Keeps b s₀ s) : OkR (Keeps b s₀) (execSpeedAck p s) :=
  onTrain_keeps _ _ _ (fun _ _ _ h => ite_keeps (setLink_keeps _ _ h) (settle_keeps _ h)) h

theorem execSpeedSwitch_keeps (p : Port) (h : Keeps b s₀ s) : OkR (Keeps b s₀) (execSpeedSwitch p s) :=
  OkR.ite (presetTaps_keeps _ _ (setLink_keeps _ _ h)) h

theorem execTapReq_keeps (p : Port) (h : Keeps b s₀ s) : OkR (Keeps b s₀) (execTapReq p s) := by
  refine onTrain_keeps p 4 _ (fun f l t h => ite_keeps (sendTrain_keeps _ _ _ _ _ _ _ h) ?_) h
  have h := take_keeps h
  dsimp only
  split
  · exact sendTrain_keeps _ _ _ _ _ _ _ (presetTaps_keeps _ _ h)
  · exact ite_keeps (sendTrain_keeps _ _ _ _ _ _ _ h) (sendTrain_keeps _ _ _ _ _ _ _ (setReg_keeps h _ _))
  · exact ite_keeps (sendTrain_keeps _ _ _ _ _ _ _ h) (sendTrain_keeps _ _ _ _ _ _ _ (setReg_keeps h _ _))

theorem execTapRsp_keeps (p : Port) (h : Keeps b s₀ s) : OkR (Keeps b s₀) (execTapRsp p s) :=
  onTrain_keeps _ _ _ (fun _ _ _ h => askTap_keeps _ _ (setLink_keeps _ _ h)) h

theorem execLaneEvaluation_keeps (p : Port) (step : Fin 4) (h : Keeps b s₀ s) :
    OkR (Keeps b s₀) (execLaneEvaluation p step s) :=
  OkR.ite (evalDone_keeps _ (say_keeps _ _ _ _ _ _ (setLink_keeps _ _ h))) h

theorem execEvalDone_keeps (p : Port) (h : Keeps b s₀ s) : OkR (Keeps b s₀) (execEvalDone p s) :=
  onTrain_keeps _ _ _ (fun _ _ _ h => evalDone_keeps _ (setLink_keeps _ _ h)) h

theorem execReady_keeps (p : Port) (h : Keeps b s₀ s) : OkR (Keeps b s₀) (execReady p s) :=
  onTrain_keeps _ _ _ (fun _ _ _ h => ite_keeps (activate_keeps _ (settle_keeps _ h)) (settle_keeps _ h)) h

theorem execTrainPhaseTimeout_keeps (p : Port) (h : Keeps b s₀ s) : OkR (Keeps b s₀) (execTrainPhaseTimeout p s) :=
  OkR.ite (ite_keeps (activate_keeps _ h) (settle_keeps _ h)) h

theorem execRetrain_keeps (p : Port) (h : Keeps b s₀ s) : OkR (Keeps b s₀) (execRetrain p s) :=
  peerDown_keeps _ _ h

theorem execDown_keeps (p : Port) (h : Keeps b s₀ s) : OkR (Keeps b s₀) (execDown p s) :=
  peerDown_keeps _ _ h

/-! ## Resets -/

theorem execCoreReset_keeps (h : Keeps b s₀ s) : OkR (Keeps b s₀) (execCoreReset s) :=
  OkR.ite h (setReg_keeps (put_keeps (put_keeps (flag_keeps (keeps_mk.2 (.of (maskRegs_keeps _ (resetPools_keeps
    (clearCore_keeps (endIkio_keeps (domainReset_keeps (holdCommands_keeps h)))))))) _) _ _) _ _) _ _)

theorem execInternalPortsReopen_keeps (h : Keeps b s₀ s) : OkR (Keeps b s₀) (execInternalPortsReopen s) := by
  unfold execInternalPortsReopen
  refine OkR.ite ?_ h
  extract_lets run rs tu pl s₁ used s₂
  have h₁ : Keeps b s₀ s₁ :=
    ⟨h.pending, h.out, h.free, fun w => let w := h.wf w; ⟨w.hbm, rfl, rfl, w.local_, w.regs⟩, h.ck⟩
  clear_value s₁
  have h₂ : Keeps b s₀ s₂ := setBufs_keeps _ _ _ h₁
  clear_value s₂
  exact dirSettle_keeps (ringsFull_keeps (poolServe_keeps (keeps_mk.2 (.of h₂))))

theorem execSystemReset_keeps (h : Keeps b s₀ s) : OkR (Keeps b s₀) (execSystemReset s) := by
  refine OkR.ite h (showPin_keeps _ (put_keeps (put_keeps (flag_keeps (put_keeps (afterClear_keeps (keepFuses_keeps _
    (maskRegs_keeps _ ?_))) _ _) _) _ _) _ _))
  have h := cutFlash_keeps (endIkio_keeps h)
  exact ⟨h.pending, h.out, h.free, fun w => ⟨rfl, rfl, rfl, rfl, (h.wf w).regs⟩, h.ck⟩

theorem execResetEnd_keeps (h : Keeps b s₀ s) : OkR (Keeps b s₀) (execResetEnd s) := by
  unfold execResetEnd
  refine OkR.ite (ite_keeps (startBringup_keeps h) h) ?_
  split
  · exact h
  · exact showPin_keeps _ (emit_keeps (keeps_mk.2 (.of h)) _)
  · exact showPin_keeps _ (startBringup_keeps h)

theorem execPowerOnReset_keeps (h : Keeps b s₀ s) : OkR (Keeps b s₀) (execPowerOnReset s) := by
  unfold execPowerOnReset
  split
  exact powerOff_keeps _ _ _ (Keeps.of_pair ‹_› (take_keeps h))

theorem execPorRelease_keeps (bootSrc clkMode : BitVec 2) (pins : PorPins) (h : Keeps b s₀ s) :
    OkR (Keeps b s₀) (execPorRelease bootSrc clkMode pins s) :=
  OkR.ite (ite_keeps (keeps_mk.2 (.of (keeps_mk.2 (.of (put_keeps (put_keeps (put_keeps h _ _) _ _) _ _)))))
    (startBringup_keeps (keeps_mk.2 (.of (put_keeps (put_keeps (put_keeps h _ _) _ _) _ _))))) h

theorem execThermalTrip_keeps (h : Keeps b s₀ s) : OkR (Keeps b s₀) (execThermalTrip s) :=
  ite_keeps h (powerOff_keeps _ _ _ h)

theorem execBreakerOpen_keeps (h : Keeps b s₀ s) : OkR (Keeps b s₀) (execBreakerOpen s) :=
  powerOff_keeps _ _ _ h

theorem execHotSwapCharge_keeps (h : Keeps b s₀ s) : OkR (Keeps b s₀) (execHotSwapCharge s) :=
  powerOff_keeps _ _ _ h

/-! ## Bring-up -/

theorem execImageTransferEnd_keeps (line : List Byte) (crc : Option (BitVec 32)) (host : List Byte) (ok : Bool)
    (h : Keeps b s₀ s) :
    OkR (Keeps b s₀) (execImageTransferEnd line crc host ok s) :=
  OkR.ite (imageCame_keeps _ _ h) h

theorem execImageTransferStall_keeps (line : List Byte) (crc : Option (BitVec 32)) (host : List Byte) (ok : Bool)
    (h : Keeps b s₀ s) :
    OkR (Keeps b s₀) (execImageTransferStall line crc host ok s) :=
  OkR.ite (imageCame_keeps _ _ h) h

theorem execBootSourceWaitExpire_keeps (h : Keeps b s₀ s) : OkR (Keeps b s₀) (execBootSourceWaitExpire s) := by
  unfold execBootSourceWaitExpire
  split
  · exact OkR.ite (nextSource_keeps h) h
  · exact h

theorem startCompute_keeps (h : Keeps b s₀ s) : Keeps b s₀ s.startCompute := keeps_mk.2 (.of (setPhase_keeps _ h))

theorem endStacks_keeps (ok : BitVec 4) (rows : List (Nat × Nat)) (h : Keeps b s₀ s) :
    Keeps b s₀ (s.endStacks ok rows) :=
  setPhase_keeps _ (put_keeps (keeps_mk.2 (.of h)) _ _)

theorem execBringupPhaseEnd_keeps (work : PhaseWork) (h : Keeps b s₀ s) :
    OkR (Keeps b s₀) (execBringupPhaseEnd work s) := by
  refine OkR.ite ?_ h
  generalize s.phase = k
  match k with
  | 0 =>
    cases work with
    | romSelftest => exact haltBoot_keeps _ h
    | image bytes => exact endMaltster_keeps _ h
    | _ => exact h
  | 1 =>
    cases work with
    | clock board store factory writes present ready => exact endClock_keeps _ _ _ _ _ _ h
    | _ => exact h
  | 2 =>
    cases work with
    | sramBad => exact haltBoot_keeps _ h
    | pass => exact endSram_keeps (repairSram_keeps _ h)
    | sram faults => exact endSram_keeps (repairSram_keeps _ h)
    | _ => exact h
  | 3 =>
    cases work with
    | pass => exact setPhase_keeps _ h
    | _ => exact h
  | 4 =>
    cases work with
    | hbm4e ok rows => exact endStacks_keeps _ _ h
    | _ => exact h
  | 5 =>
    cases work with
    | cxl up x16 gt64 => exact endCxl_keeps _ _ _ h
    | _ => exact h
  | 7 =>
    cases work with
    | pass => exact ite_keeps (startCompute_keeps h) h
    | _ => exact h
  | 8 =>
    cases work with
    | compute cols mw1 mw0 => exact ite_keeps h (endCompute_keeps _ _ _ h)
    | _ => exact h
  | 6 | _ + 9 => cases work <;> exact h

/-! ## Reads and writes of registers -/

theorem execRcRead_keeps (off : Nat) (h : Keeps b s₀ s) : OkR (Keeps b s₀) (execRcRead off s) := by
  unfold execRcRead
  refine OkR.ite ?_ h
  split
  exact emit_keeps (Keeps.of_pair ‹_› (readOff_keeps _ h)) _

theorem execBar0BadAccess_keeps (off width : Nat) (write : Bool) (h : Keeps b s₀ s) :
    OkR (Keeps b s₀) (execBar0BadAccess off width write s) :=
  OkR.ite (emit_keeps h _) h

theorem execRegisterWrite_keeps (off : Nat) (v : Word) (h : Keeps b s₀ s) :
    OkR (Keeps b s₀) (execRegisterWrite off v s) :=
  ite_keeps (writeOff_keeps _ _ h) h

/-! ## Admission and fences -/

theorem execAdmissionPass_keeps (now : Nat) (h : Keeps b s₀ s) : OkR (Keeps b s₀) (execAdmissionPass now s) :=
  runAdmission_keeps _ h

theorem execDeferLimitTimeout_keeps (n : Part) (r : RingId) (h : Keeps b s₀ s) :
    OkR (Keeps b s₀) (execDeferLimitTimeout n r s) := by
  unfold execDeferLimitTimeout
  split
  · exact OkR.ite (endHead_keeps _ _ _ _ _ _ h) h
  · exact h

theorem execBarrierRelease_keeps (g : Row) (now : Nat) (h : Keeps b s₀ s) :
    OkR (Keeps b s₀) (execBarrierRelease g now s) :=
  OkR.ite (runAdmission_keeps _ (takeRelease_keeps _ _ h)) h

theorem execFenceComplete_keeps (e : Engine) (h : Keeps b s₀ s) : OkR (Keeps b s₀) (execFenceComplete e s) := by
  unfold execFenceComplete
  split
  · dsimp only
    split
    · exact OkR.ite (setThread_keeps _ _ _ h) h
    · exact h
  · dsimp only
    split
    · exact OkR.ite (setRing_keeps _ _ _ h) h
    · exact h

theorem execReleaseSend_keeps (e : Engine) (h : Keeps b s₀ s) : OkR (Keeps b s₀) (execReleaseSend e s) := by
  unfold execReleaseSend
  split
  · exact releaseHeld_keeps _ _ _ h
  · exact h

/-! ## The beat edge -/

theorem execBeatEdge_keeps (drawMw : Nat) (h : Keeps b s₀ s) : OkR (Keeps b s₀) (execBeatEdge drawMw s) :=
  OkR.ite h (waitEdges_keeps (calEdge_keeps (arbView_keeps (govEdge_keeps _ _ (scanRings_keeps (seeDescs_keeps
    (sendBeatFrames_keeps (newBeat_keeps (timeEdge_keeps (ballastCycles_keeps _ (keeps_mk.2 (.of h))))))))))))

/-! ## Ikio, the two-wire target and the test port -/

theorem execIkioHelp_keeps (h : Keeps b s₀ s) : OkR (Keeps b s₀) (execIkioHelp s) :=
  ikioCmd_keeps _ (fun _ h => sayEnd_keeps _ (foldl_keeps _ _ (fun _ _ h => say__keeps _ h) h)) h

theorem execIkioBaud_keeps (rate : Nat) (h : Keeps b s₀ s) : OkR (Keeps b s₀) (execIkioBaud rate s) := by
  unfold execIkioBaud
  split
  · exact ikioCmd_keeps _ (fun _ h => put_keeps (sayEnd_keeps _ h) _ _) h
  · exact badLine_keeps h

theorem execIkioStatus_keeps (h : Keeps b s₀ s) : OkR (Keeps b s₀) (execIkioStatus s) :=
  ikioCmd_keeps _ (fun _ h => sayEnd_keeps _ (say__keeps _ (say__keeps _ (say__keeps _ (say__keeps _ (say__keeps _
    (say__keeps _ h))))))) h

theorem execIkioRd_keeps (off : Nat) (h : Keeps b s₀ s) : OkR (Keeps b s₀) (execIkioRd off s) := by
  unfold execIkioRd
  refine OkR.ite (ikioCmd_keeps _ ?_ h) (badLine_keeps h)
  intro _ h
  refine ite_keeps ?_ (sayEnd_keeps _ h)
  split
  exact sayEnd_keeps _ (say__keeps _ (Keeps.of_pair ‹_› (readOff_keeps _ h)))

theorem execIkioWr_keeps (off : Nat) (v : Word) (h : Keeps b s₀ s) : OkR (Keeps b s₀) (execIkioWr off v s) :=
  OkR.ite (ikioCmd_keeps _ (fun _ h => ite_keeps (sayEnd_keeps _ h) (ite_keeps (sayEnd_keeps _ (writeOff_keeps _ _ h))
    (sayEnd_keeps _ h))) h) (badLine_keeps h)

theorem execIkioMrd_keeps (n : Part) (addr : Word) (len : Nat) (h : Keeps b s₀ s) :
    OkR (Keeps b s₀) (execIkioMrd n addr len s) :=
  ikioMem_keeps _ _ _ _ h

theorem execIkioMwr_keeps (n : Part) (addr : Word) (bytes : List Byte) (h : Keeps b s₀ s) :
    OkR (Keeps b s₀) (execIkioMwr n addr bytes s) :=
  ikioMem_keeps _ _ _ _ h

theorem execIkioRelease_keeps (h : Keeps b s₀ s) : OkR (Keeps b s₀) (execIkioRelease s) :=
  ikioCmd_keeps _ (fun _ h => sayEnd_keeps _ (release_keeps h)) h

theorem execIkioBootFull_keeps (h : Keeps b s₀ s) : OkR (Keeps b s₀) (execIkioBootFull s) :=
  ikioCmd_keeps _ (fun _ h => ite_keeps (sayEnd_keeps _ h) (sayEnd_keeps _ (putRecord_keeps _ h))) h

theorem execIkioLoad_keeps (len : Nat) (h : Keeps b s₀ s) : OkR (Keeps b s₀) (execIkioLoad len s) :=
  OkR.ite (ikioCmd_keeps _ (fun _ h => sayEnd_keeps _ (keeps_mk.2 (.of h))) h) (badLine_keeps h)

theorem execIkioBadLine_keeps (h : Keeps b s₀ s) : OkR (Keeps b s₀) (execIkioBadLine s) :=
  badLine_keeps h

theorem execTwPart_keeps (h : Keeps b s₀ s) : OkR (Keeps b s₀) (execTwPart s) :=
  tw_keeps _ (fun _ h => twSay_keeps _ _ h) h

theorem execTwStatus_keeps (h : Keeps b s₀ s) : OkR (Keeps b s₀) (execTwStatus s) :=
  tw_keeps _ (fun _ h => twSay_keeps _ _ h) h

theorem execTwRelease_keeps (v : Option Byte) (h : Keeps b s₀ s) : OkR (Keeps b s₀) (execTwRelease v s) := by
  unfold execTwRelease
  refine tw_keeps _ ?_ h
  intro _ h
  split
  · exact twSay_keeps _ _ h
  · exact ite_keeps_of_else release_keeps (twAck_keeps h)

theorem execTwCap_keeps (v : Option (BitVec 16)) (h : Keeps b s₀ s) : OkR (Keeps b s₀) (execTwCap v s) := by
  unfold execTwCap
  refine tw_keeps _ ?_ h
  intro _ h
  split
  · exact twSay_keeps _ _ h
  · exact setCap_keeps _ (twAck_keeps h)

theorem execTwMeasured_keeps (h : Keeps b s₀ s) : OkR (Keeps b s₀) (execTwMeasured s) :=
  tw_keeps _ (fun _ h => twSay_keeps _ _ h) h

theorem execTwJunction_keeps (h : Keeps b s₀ s) : OkR (Keeps b s₀) (execTwJunction s) :=
  tw_keeps _ (fun _ h => twSay_keeps _ _ (senseHeat_keeps h)) h

theorem execTwResetCause_keeps (h : Keeps b s₀ s) : OkR (Keeps b s₀) (execTwResetCause s) :=
  tw_keeps _ (fun _ h => twSay_keeps _ _ h) h

theorem execTwSerial_keeps (h : Keeps b s₀ s) : OkR (Keeps b s₀) (execTwSerial s) :=
  tw_keeps _ (fun _ h => twSay_keeps _ _ h) h

theorem execTwEnergyIn_keeps (h : Keeps b s₀ s) : OkR (Keeps b s₀) (execTwEnergyIn s) :=
  tw_keeps _ (fun _ h => twSay_keeps _ _ h) h

theorem execTwUndefined_keeps (cmd : Byte) (read : Option Nat) (h : Keeps b s₀ s) :
    OkR (Keeps b s₀) (execTwUndefined cmd read s) := by
  unfold execTwUndefined
  refine tw_keeps _ ?_ h
  intro _ h
  split
  · exact ite_keeps h (emit_keeps h _)
  · exact ite_keeps h (twAck_keeps h)

theorem execTapBypass_keeps (h : Keeps b s₀ s) : OkR (Keeps b s₀) (execTapBypass s) :=
  tapTo_keeps _ _ h

theorem execTapSamplePreload_keeps (preload : List Bool) (h : Keeps b s₀ s) :
    OkR (Keeps b s₀) (execTapSamplePreload preload s) := by
  unfold execTapSamplePreload
  refine OkR.ite h ?_
  split
  exact tapTo_keeps _ _ (keeps_mk.2 (.of (Keeps.of_pair ‹_› (freeBits_keeps _ h))))

theorem execTapExtest_keeps (h : Keeps b s₀ s) : OkR (Keeps b s₀) (execTapExtest s) :=
  OkR.ite (tapTo_keeps _ _ h) (tapTo_keeps _ _ h)

theorem execTapIdcode_keeps (h : Keeps b s₀ s) : OkR (Keeps b s₀) (execTapIdcode s) :=
  tapTo_keeps _ _ h

theorem execTrstN_keeps (h : Keeps b s₀ s) : OkR (Keeps b s₀) (execTrstN s) :=
  keeps_mk.2 (.of h)

/-! ## Replies and the tracker -/

theorem execData_keeps (h : Keeps b s₀ s) : OkR (Keeps b s₀) (execData s) :=
  onReply_keeps _ h

theorem execAck_keeps (h : Keeps b s₀ s) : OkR (Keeps b s₀) (execAck s) :=
  onReply_keeps _ h

theorem execAtomicValue_keeps (h : Keeps b s₀ s) : OkR (Keeps b s₀) (execAtomicValue s) :=
  onReply_keeps _ h

theorem execTileGrant_keeps (h : Keeps b s₀ s) : OkR (Keeps b s₀) (execTileGrant s) :=
  onReply_keeps _ h

theorem execTileDone_keeps (h : Keeps b s₀ s) : OkR (Keeps b s₀) (execTileDone s) :=
  onReply_keeps _ h

theorem execTrackerTimeout_keeps (tag : Nat) (h : Keeps b s₀ s) : OkR (Keeps b s₀) (execTrackerTimeout tag s) := by
  unfold execTrackerTimeout
  split
  · exact OkR.ite (endEntry_keeps _ _ _ _ _ (bump_keeps h _)) h
  · exact h

theorem execTrackerLost_keeps (tag : Nat) (h : Keeps b s₀ s) : OkR (Keeps b s₀) (execTrackerLost tag s) := by
  unfold execTrackerLost
  split
  · split
    · exact OkR.ite (endEntry_keeps _ _ _ _ _ (bump_keeps h _)) h
    · exact h
  · exact h

theorem execTrackerStallResume_keeps (n : Part) (h : Keeps b s₀ s) :
    OkR (Keeps b s₀) (execTrackerStallResume n s) := by
  unfold execTrackerStallResume
  refine OkR.ite h ?_
  split
  · exact h
  · extract_lets tr s₁ port
    have h : Keeps b s₀ s₁ := keeps_mk.2 (.of h)
    clear_value s₁ port
    split
    · split
      · exact h
      · exact OkR.ite h (OkR.ite (ite_keeps_of_else (runColl_keeps _) (setStep_keeps _ (openEntry_keeps _ _ _ h)))
          (issueNow_keeps _ _ _ h))
    · exact issueNow_keeps _ _ _ h
    · exact issueNow_keeps _ _ _ h

theorem execParityRefetch_keeps (at_ : ParityPoint) (attempt : Nat) (h : Keeps b s₀ s) :
    OkR (Keeps b s₀) (execParityRefetch at_ attempt s) := by
  unfold execParityRefetch
  refine OkR.ite ?_ ?_
  · split
    · exact askReplay_keeps _ h
    · exact bump_keeps h _
  · cases at_ with
    | write line => exact parityLine_keeps _ h
    | record line => exact keeps_mk.2 (.of h)
    | hbm stack line =>
      dsimp only
      split
      · exact parityLine_keeps _ (hbmUncorr_keeps _ h)
      · exact keeps_mk.2 (.of h)
    | _ => exact parityPkt_keeps _ _ h

/-! ## The service watchdog -/

theorem execSvcWatchdog_keeps (applied : List (Mbx × Reply)) (h : Keeps b s₀ s) :
    OkR (Keeps b s₀) (execSvcWatchdog applied s) :=
  bump_keeps (flag_keeps (foldl_keeps _ _ (fun _ _ h => mbEnd_keeps _ _ h) h) _) _

/-! ## Tile grants -/

theorem execTileOpen_keeps (h : Keeps b s₀ s) : OkR (Keeps b s₀) (execTileOpen s) := by
  unfold execTileOpen
  split
  · exact OkR.ite (keeps_mk.2 (.of h)) (beginRequest_keeps _ h)
  · exact h

theorem execTileRead_keeps (h : Keeps b s₀ s) : OkR (Keeps b s₀) (execTileRead s) :=
  tilePacket_keeps _ _ h

theorem execTileWrite_keeps (h : Keeps b s₀ s) : OkR (Keeps b s₀) (execTileWrite s) :=
  tilePacket_keeps _ _ h

theorem execTileClose_keeps (h : Keeps b s₀ s) : OkR (Keeps b s₀) (execTileClose s) := by
  unfold execTileClose
  split
  · exact h
  · rename_i heq
    exact Keeps.of_some_pair heq (takeEp_keeps _ h)
  · rename_i heq
    have h := Keeps.of_some_pair heq (takeEp_keeps _ h)
    refine OkR.ite (ack_keeps _ _ h) ?_
    split
    · exact ite_keeps (bump_keeps h _) (ack_keeps _ _ h)
    · exact OkR.ite (ack_keeps _ _ h) (OkR.ite (tileDone_keeps _ _ _ h) (setGrants_keeps _ h))

theorem execTileCloseComplete_keeps (handle : Nat) (h : Keeps b s₀ s) :
    OkR (Keeps b s₀) (execTileCloseComplete handle s) := by
  unfold execTileCloseComplete
  split
  · exact OkR.ite (tileDone_keeps _ _ _ h) h
  · exact h

theorem execGrantIdle_keeps (handle : Nat) (h : Keeps b s₀ s) : OkR (Keeps b s₀) (execGrantIdle handle s) := by
  unfold execGrantIdle
  split
  · exact OkR.ite (keeps_mk.2 (.of (bump_keeps (tileDone_keeps _ _ _ h) _))) h
  · exact h

/-! ## Every command of another unit -/

/-- A command that is not the Cask's own is one of the above: it leaves the queue, what was sent and the canonical forms
alone, and with `b` all of the Cask (R478, R489). -/
theorem exec_keeps {c : Instr} (hc : Instr.ofCask c = false) (h : Keeps b s₀ s) : OkR (Keeps b s₀) (exec c s) := by
  cases c with
  | registerWrite => exact execRegisterWrite_keeps _ _ h
  | rcRead => exact execRcRead_keeps _ h
  | bar0BadAccess => exact execBar0BadAccess_keeps _ _ _ h
  | fqConsWrite => exact execFqConsWrite_keeps _ _ h
  | ringProdWrite => exact execRingProdWrite_keeps _ _ _ h
  | ringCqConsWrite => exact execRingCqConsWrite_keeps _ _ _ h
  | bootHostGo => exact execBootHostGo_keeps _ h
  | beatEdge => exact execBeatEdge_keeps _ h
  | admissionPass => exact execAdmissionPass_keeps _ h
  | deferLimitTimeout => exact execDeferLimitTimeout_keeps _ _ h
  | beatSlip => exact execBeatSlip_keeps _ h
  | beatFrame => exact execBeatFrame_keeps _ _ h
  | lockAcquired => exact execLockAcquired_keeps h
  | holdover => exact execHoldover_keeps h
  | election => exact execElection_keeps h
  | gridChangeApply => exact execGridChangeApply_keeps h
  | barrierArrival => exact execBarrierArrival_keeps _ _ h
  | barrierRelease => exact execBarrierRelease_keeps _ _ h
  | barrierTimeout => exact execBarrierTimeout_keeps _ h
  | packetSwitch => exact execPacketSwitch_keeps _ _ h
  | combWindowClose => exact execCombWindowClose_keeps _ _ h
  | combinedReply => exact execCombinedReply_keeps h
  | load => exact execLoad_keeps h
  | store => exact execStore_keeps h
  | atomic => exact execAtomic_keeps h
  | mcastStore => exact execMcastStore_keeps h
  | reduce => exact execReduce_keeps _ _ h
  | reduceMem => exact execReduceMem_keeps _ _ h
  | tileOpen => exact execTileOpen_keeps h
  | tileRead => exact execTileRead_keeps h
  | tileWrite => exact execTileWrite_keeps h
  | tileClose => exact execTileClose_keeps h
  | tileCloseComplete => exact execTileCloseComplete_keeps _ h
  | grantIdle => exact execGrantIdle_keeps _ h
  | translationCompletion => exact execTranslationCompletion_keeps _ _ _ _ h
  | atsTimeout => exact execAtsTimeout_keeps _ _ _ h
  | invalidateRequest => exact execInvalidateRequest_keeps _ _ _ _ h
  | invalidationCompletion => exact execInvalidationCompletion_keeps _ h
  | translationChangeDone => exact execTranslationChangeDone_keeps _ h
  | lineQueueAdmit => exact execLineQueueAdmit_keeps _ _ h
  | lineEntryPerform => exact execLineEntryPerform_keeps _ h
  | lowerLimitTimeout => exact execLowerLimitTimeout_keeps _ h
  | recallTimeout => exact execRecallTimeout_keeps _ _ h
  | mcastAckCombine => exact execMcastAckCombine_keeps _ h
  | data => exact execData_keeps h
  | ack => exact execAck_keeps h
  | atomicValue => exact execAtomicValue_keeps h
  | tileGrant => exact execTileGrant_keeps h
  | tileDone => exact execTileDone_keeps h
  | trackerTimeout => exact execTrackerTimeout_keeps _ h
  | trackerLost => exact execTrackerLost_keeps _ h
  | trackerStallResume => exact execTrackerStallResume_keeps _ h
  | parityRefetch => exact execParityRefetch_keeps _ _ h
  | releaseSend => exact execReleaseSend_keeps _ h
  | fenceComplete => exact execFenceComplete_keeps _ h
  | bankSwitch => exact execBankSwitch_keeps h
  | drainEnd => exact execDrainEnd_keeps h
  | poolAlloc => exact execPoolAlloc_keeps _ _ _ h
  | poolRelease => exact execPoolRelease_keeps _ _ h
  | cellBatchFree => exact execCellBatchFree_keeps _ _ _ h
  | auditSweep => exact execAuditSweep_keeps h
  | chunkTimeout => exact execChunkTimeout_keeps _ _ h
  | parkedContributionOpen => exact execParkedContributionOpen_keeps _ _ h
  | descriptorFetch => exact execDescriptorFetch_keeps _ _ h
  | fetchComplete => exact execFetchComplete_keeps _ _ _ h
  | tileMoveStart => exact execTileMoveStart_keeps _ h
  | tileMoveEnd => exact execTileMoveEnd_keeps _ _ h
  | cqRecordRetry => exact execCqRecordRetry_keeps _ _ _ h
  | collStepEnd => exact execCollStepEnd_keeps _ _ h
  | tunJobStart => exact execTunJobStart_keeps h
  | projectChunkTake => exact execProjectChunkTake_keeps _ h
  | stagedChunkExpire => exact execStagedChunkExpire_keeps _ _ h
  | projectTimeout => exact execProjectTimeout_keeps h
  | tunJobOutput => exact execTunJobOutput_keeps h
  | tunJobEnd => exact execTunJobEnd_keeps _ _ h
  | sliceLoadStart => exact execSliceLoadStart_keeps h
  | sliceLoadEnd => exact execSliceLoadEnd_keeps _ h
  | attnJobStart => exact execAttnJobStart_keeps h
  | attnOutput => exact execAttnOutput_keeps h
  | attnJobEnd => exact execAttnJobEnd_keeps _ _ h
  | extentMoveStart => exact execExtentMoveStart_keeps _ _ h
  | extentCopyDone => exact execExtentCopyDone_keeps _ _ _ h
  | extentTileRetry => exact execExtentTileRetry_keeps _ _ h
  | extentSwitch => exact execExtentSwitch_keeps _ _ h
  | tierMoveEnd => exact execTierMoveEnd_keeps _ h
  | rld => exact execRld_keeps _ _ _ h
  | rst => exact execRst_keeps _ _ _ h
  | ramo => exact execRamo_keeps _ _ _ h
  | waitlc => exact execWaitlc_keeps _ _ _ h
  | waitlcWake => exact execWaitlcWake_keeps _ _ h
  | waitlcTimeout => exact execWaitlcTimeout_keeps _ _ h
  | waitbeat => exact execWaitbeat_keeps _ _ _ h
  | waitbeatWake => exact execWaitbeatWake_keeps _ _ h
  | fenceS => exact execFenceS_keeps _ _ _ h
  | lcset => exact execLcset_keeps _ _ _ h
  | lcread => exact execLcread_keeps _ _ _ h
  | posttile => exact execPosttile_keeps _ _ _ h
  | poststep => exact execPoststep_keeps _ _ _ h
  | halt => exact execHalt_keeps _ _ _ h
  | localAccess => exact execLocalAccess_keeps _ _ _ _ h
  | csrWrite => exact execCsrWrite_keeps _ _ _ _ _ _ h
  | threadException => exact execThreadException_keeps _ _ _ h
  | fecBlock => exact execFecBlock_keeps _ _ _ _ _ h
  | linkReplay => exact execLinkReplay_keeps _ h
  | ackTimeout => exact execAckTimeout_keeps _ h
  | stomp => exact execStomp_keeps _ h
  | lightDetect => exact execLightDetect_keeps _ _ h
  | hello => exact execHello_keeps _ h
  | speedReq => exact execSpeedReq_keeps _ h
  | speedAck => exact execSpeedAck_keeps _ h
  | speedSwitch => exact execSpeedSwitch_keeps _ h
  | tapReq => exact execTapReq_keeps _ h
  | tapRsp => exact execTapRsp_keeps _ h
  | laneEvaluation => exact execLaneEvaluation_keeps _ _ h
  | evalDone => exact execEvalDone_keeps _ h
  | ready => exact execReady_keeps _ h
  | trainPhaseTimeout => exact execTrainPhaseTimeout_keeps _ h
  | retrain => exact execRetrain_keeps _ h
  | down => exact execDown_keeps _ h
  | los => exact execLos_keeps _ h
  | heartbeatLoss => exact execHeartbeatLoss_keeps _ h
  | gravityBucketExpire => exact execGravityBucketExpire_keeps h
  | lsuFail => exact execLsuFail_keeps _ _ h
  | lsuReady => exact execLsuReady_keeps _ h
  | lcWait => exact execLcWait_keeps _ h
  | lcWaitTimeout => exact execLcWaitTimeout_keeps _ _ h
  | attachLcRead => exact execAttachLcRead_keeps _ h
  | rdShared => exact execRdShared_keeps _ h
  | rdOwn => exact execRdOwn_keeps _ h
  | drop => exact execDrop_keeps _ h
  | wb => exact execWb_keeps _ h
  | recallRsp => exact execRecallRsp_keeps _ h
  | invalRsp => exact execInvalRsp_keeps _ h
  | resetAck => exact execResetAck_keeps _ h
  | attachDiscard => exact execAttachDiscard_keeps _ h
  | cxlLinkDown => exact execCxlLinkDown_keeps h
  | perstN => exact execPerstN_keeps _ h
  | hdmAccess => exact execHdmAccess_keeps _ _ _ _ h
  | mbHello => exact execMbHello_keeps _ h
  | timeGridSet => exact execTimeGridSet_keeps _ h
  | timeConfigSet => exact execTimeConfigSet_keeps _ h
  | xlatEpSet => exact execXlatEpSet_keeps _ h
  | xlatAtsSet => exact execXlatAtsSet_keeps _ h
  | xlatFqSet => exact execXlatFqSet_keeps _ h
  | xlatWindowSet => exact execXlatWindowSet_keeps _ h
  | xlatPageSet => exact execXlatPageSet_keeps _ h
  | xlatPageClear => exact execXlatPageClear_keeps _ h
  | xlatPageGet => exact execXlatPageGet_keeps _ h
  | xlatAtsPrefetch => exact execXlatAtsPrefetch_keeps _ h
  | xlatShareSet => exact execXlatShareSet_keeps _ h
  | trackConfigSet => exact execTrackConfigSet_keeps _ h
  | trackShareSet => exact execTrackShareSet_keeps _ h
  | lcShareSet => exact execLcShareSet_keeps _ h
  | lcRead => exact execLcRead_keeps _ h
  | lcSet => exact execLcSet_keeps _ h
  | dirConfigSet => exact execDirConfigSet_keeps _ h
  | xbarRouteLoad => exact execXbarRouteLoad_keeps _ _ h
  | xbarGroupLoad => exact execXbarGroupLoad_keeps _ _ h
  | xbarEpochSwitch => exact execXbarEpochSwitch_keeps _ h
  | xbarConfigSet => exact execXbarConfigSet_keeps _ h
  | xbarPortSet => exact execXbarPortSet_keeps _ h
  | poolWarnSet => exact execPoolWarnSet_keeps _ h
  | poolLimitSet => exact execPoolLimitSet_keeps _ h
  | rdxConfigSet => exact execRdxConfigSet_keeps _ h
  | collMembersSet => exact execCollMembersSet_keeps _ h
  | collForm => exact execCollForm_keeps _ h
  | collSuspend => exact execCollSuspend_keeps _ h
  | collReform => exact execCollReform_keeps _ h
  | collDissolve => exact execCollDissolve_keeps _ h
  | collWeightSet => exact execCollWeightSet_keeps _ h
  | mcGroupSet => exact execMcGroupSet_keeps _ h
  | mcGroupClear => exact execMcGroupClear_keeps _ h
  | mcGroupGet => exact execMcGroupGet_keeps _ h
  | collPartSet => exact execCollPartSet_keeps _ h
  | tunShareSet => exact execTunShareSet_keeps _ h
  | tunSliceClear => exact execTunSliceClear_keeps _ h
  | tunSliceGet => exact execTunSliceGet_keeps _ h
  | tunBindSet => exact execTunBindSet_keeps _ h
  | tunBindClear => exact execTunBindClear_keeps _ h
  | memShareSet => exact execMemShareSet_keeps _ h
  | tierRegionSet => exact execTierRegionSet_keeps _ h
  | tierT3Set => exact execTierT3Set_keeps _ h
  | tierQuotaSet => exact execTierQuotaSet_keeps _ h
  | tierExtShareSet => exact execTierExtShareSet_keeps _ h
  | tierExtentSet => exact execTierExtentSet_keeps _ h
  | tierExtentFree => exact execTierExtentFree_keeps _ h
  | tierExtentGet => exact execTierExtentGet_keeps _ h
  | tierConfigSet => exact execTierConfigSet_keeps _ h
  | tierLendOffer => exact execTierLendOffer_keeps _ h
  | tierLendClose => exact execTierLendClose_keeps _ h
  | tierLendAccept => exact execTierLendAccept_keeps _ h
  | tierLendReturn => exact execTierLendReturn_keeps _ h
  | seqShareSet => exact execSeqShareSet_keeps _ h
  | seqLoad => exact execSeqLoad_keeps _ _ h
  | seqStart => exact execSeqStart_keeps _ h
  | seqStop => exact execSeqStop_keeps _ h
  | seqStopDone => exact execSeqStopDone_keeps _ h
  | portModeSet => exact execPortModeSet_keeps _ h
  | portEnable => exact execPortEnable_keeps _ h
  | portDisable => exact execPortDisable_keeps _ h
  | portRetrain => exact execPortRetrain_keeps _ h
  | ringSet => exact execRingSet_keeps _ _ h
  | ringClear => exact execRingClear_keeps _ h
  | partCreate => exact execPartCreate_keeps _ h
  | partSparge => exact execPartSparge_keeps _ h
  | spargeComplete => exact execSpargeComplete_keeps _ _ h
  | partDestroy => exact execPartDestroy_keeps _ h
  | partGet => exact execPartGet_keeps _ h
  | fwStage => exact execFwStage_keeps _ _ h
  | fwCommit => exact execFwCommit_keeps _ h
  | fwCommitDone => exact execFwCommitDone_keeps _ h
  | attestGet => exact execAttestGet_keeps _ h
  | pgovSet => exact execPgovSet_keeps _ h
  | pgovCapSet => exact execPgovCapSet_keeps _ h
  | healthBudgetSet => exact execHealthBudgetSet_keeps _ h
  | healthIsolate => exact execHealthIsolate_keeps _ h
  | healthReadmit => exact execHealthReadmit_keeps _ h
  | caskReadout => exact execCaskReadout_keeps _ h
  | calRead => exact execCalRead_keeps _ h
  | calWrite => exact execCalWrite_keeps _ _ h
  | calWriteDone => exact execCalWriteDone_keeps _ h
  | svcWatchdog => exact execSvcWatchdog_keeps _ h
  | pwrCapAlert => exact execPwrCapAlert_keeps h
  | pwrCapAlertEnd => exact execPwrCapAlertEnd_keeps h
  | rampReq => exact execRampReq_keeps h
  | rampGrant => exact execRampGrant_keeps h
  | rampBusy => exact execRampBusy_keeps h
  | rampDone => exact execRampDone_keeps h
  | grantEnd => exact execGrantEnd_keeps h
  | arbWaitExpire => exact execArbWaitExpire_keeps h
  | arbiterTakeover => exact execArbiterTakeover_keeps h
  | expelReq => exact execExpelReq_keeps h
  | expelGrant => exact execExpelGrant_keeps h
  | expelDeny => exact execExpelDeny_keeps h
  | noticeLost => exact execNoticeLost_keeps h
  | noticeFenced => exact execNoticeFenced_keeps h
  | noticeReadmit => exact execNoticeReadmit_keeps h
  | owned => exact execOwned_keeps h
  | peerDead => exact execPeerDead_keeps _ h
  | hotEnter => exact execHotEnter_keeps _ h
  | hotExit => exact execHotExit_keeps _ h
  | thermalTrip => exact execThermalTrip_keeps h
  | breakerOpen => exact execBreakerOpen_keeps h
  | hotSwapCharge => exact execHotSwapCharge_keeps h
  | powerOnReset => exact execPowerOnReset_keeps h
  | porRelease => exact execPorRelease_keeps _ _ _ h
  | coreReset => exact execCoreReset_keeps h
  | systemReset => exact execSystemReset_keeps h
  | resetEnd => exact execResetEnd_keeps h
  | internalPortsReopen => exact execInternalPortsReopen_keeps h
  | bringupPhaseEnd => exact execBringupPhaseEnd_keeps _ h
  | bootSourceWaitExpire => exact execBootSourceWaitExpire_keeps h
  | imageTransferEnd => exact execImageTransferEnd_keeps _ _ _ _ h
  | imageTransferStall => exact execImageTransferStall_keeps _ _ _ _ h
  | ikioHelp => exact execIkioHelp_keeps h
  | ikioBaud => exact execIkioBaud_keeps _ h
  | ikioStatus => exact execIkioStatus_keeps h
  | ikioRd => exact execIkioRd_keeps _ h
  | ikioWr => exact execIkioWr_keeps _ _ h
  | ikioMrd => exact execIkioMrd_keeps _ _ _ h
  | ikioMwr => exact execIkioMwr_keeps _ _ _ h
  | ikioRelease => exact execIkioRelease_keeps h
  | ikioBootFull => exact execIkioBootFull_keeps h
  | ikioLoad => exact execIkioLoad_keeps _ h
  | ikioBadLine => exact execIkioBadLine_keeps h
  | twPart => exact execTwPart_keeps h
  | twStatus => exact execTwStatus_keeps h
  | twRelease => exact execTwRelease_keeps _ h
  | twCap => exact execTwCap_keeps _ h
  | twMeasured => exact execTwMeasured_keeps h
  | twJunction => exact execTwJunction_keeps h
  | twResetCause => exact execTwResetCause_keeps h
  | twSerial => exact execTwSerial_keeps h
  | twEnergyIn => exact execTwEnergyIn_keeps h
  | twUndefined => exact execTwUndefined_keeps _ _ h
  | tapBypass => exact execTapBypass_keeps h
  | tapSamplePreload => exact execTapSamplePreload_keeps _ h
  | tapExtest => exact execTapExtest_keeps h
  | tapIdcode => exact execTapIdcode_keeps h
  | trstN => exact execTrstN_keeps h
  | statusFrame => exact execStatusFrame_keeps _ _ h
  | caskLinkTimeout => exact execCaskLinkTimeout_keeps h
  | blockLock => exact execBlockLock_keeps _ _ h
  | cxlLinkUp => exact execCxlLinkUp_keeps _ _ h
  | hostSnoop => exact execHostSnoop_keeps _ h
  | backInvalidationResponse => exact execBackInvalidationResponse_keeps _ _ h
  | cxlCacheResponse => exact execCxlCacheResponse_keeps _ _ h
  | expelAnswerTimeout => exact execExpelAnswerTimeout_keeps h
  | _ => exact absurd hc.symm Bool.false_ne_true

end

section

variable {s : State}

/-! ## What the Cask's own commands do to its running -/

/-- A command leaves the Cask running, or stopped, as it was. -/
def RunsAs (s t : State) : Prop := t.ck.running = s.ck.running

theorem RunsAs.of_ck {t : State} (h : t.ck = s.ck) : RunsAs s t := congrArg CaskU.running h

theorem Keeps.runsAs {t : State} (h : Keeps true s t) : RunsAs s t := .of_ck (h.ck rfl)

theorem caskEvent_runsAs {f : CaskU → CaskU} (hf : ∀ c, (f c).running = c.running) :
    OkR (RunsAs s) (s.caskEvent f) := by
  change RunsAs s (if s.ck.running then s.setCask (f s.ck) else s)
  split
  · exact hf s.ck
  · rfl

theorem caskWrite_runsAs {f : CaskU → CaskU} (hf : ∀ c, (f c).running = c.running) :
    OkR (RunsAs s) (s.caskWrite f) := by
  change RunsAs s (if s.ck.running then (s.setCask (if s.ck.unsealed then f s.ck else s.ck)).emit .caskAck else s)
  split
  · change (if s.ck.unsealed then f s.ck else s.ck).running = s.ck.running
    split
    · exact hf s.ck
    · rfl
  · rfl

theorem caskAnswer_runsAs {t : State} (bs : List Byte) (h : Keeps true s t) : OkR (RunsAs s) (t.caskAnswer bs) :=
  (caskAnswer_keeps bs h).imp fun _ => Keeps.runsAs

theorem caskGap_runsAs : RunsAs s s.caskGap := by
  unfold State.caskGap
  dsimp only
  split
  · rfl
  · split <;> rfl

/-- The pulses that a sample gives do not reach the Cask. -/
theorem samplePulses_ck (n : Nat) : ((List.range n).foldl
    (fun s _ => (s.emit (.pin "CASK_PULSE" .low)).emit (.pin "CASK_PULSE" .released)) s).ck = s.ck :=
  (foldl_keeps _ _ (fun _ _ h => emit_keeps (emit_keeps h _) _) (Keeps.refl true s)).ck rfl

theorem execCaskSample_runsAs (v : Sample) : OkR (RunsAs s) (execCaskSample v s) :=
  OkR.ite rfl ((congrArg CaskU.running (samplePulses_ck _)).trans rfl)

/-- A running Cask takes the sample (R478). -/
theorem execCaskSample_count (v : Sample) (hrun : s.ck.running = true) :
    OkR (fun t => t.ck.count = s.ck.count + 1) (execCaskSample v s) := by
  simp only [execCaskSample, hrun, Bool.not_true, Bool.false_eq_true, if_false, OkR, samplePulses_ck]
  rfl

theorem execSignedReadout_runsAs : OkR (RunsAs s) (execSignedReadout s) := by
  unfold execSignedReadout
  extract_lets c c₁
  have hrun : c₁.running = s.ck.running := rfl
  clear_value c₁
  split
  · rfl
  · split
    exact hrun

theorem execStatusFrameSend_runsAs : OkR (RunsAs s) (execStatusFrameSend s) :=
  OkR.ite rfl (caskGap_runsAs.trans (caskMeans_keeps _ (Keeps.refl true s)).runsAs)

theorem execCaskPowerDown_running : OkR (fun t => t.ck.running = false) (execCaskPowerDown s) := by
  unfold execCaskPowerDown
  dsimp only
  split
  · rename_i hrun
    simpa [OkR] using hrun
  · rfl

theorem execCaskPowerUp_running (ok : Bool) : OkR (fun t => t.ck.running = true) (execCaskPowerUp ok s) := by
  unfold execCaskPowerUp
  split
  · assumption
  · cases ok <;> rfl

theorem execClockFault_runsAs (ppm : Int) : OkR (RunsAs s) (execClockFault ppm s) :=
  caskEvent_runsAs fun c => by dsimp only; split <;> rfl

theorem execTamperOpen_runsAs : OkR (RunsAs s) (execTamperOpen s) :=
  caskEvent_runsAs fun c => by split <;> rfl

theorem execTamperClose_runsAs : OkR (RunsAs s) (execTamperClose s) :=
  caskEvent_runsAs fun c => by split <;> rfl

theorem execOverrange_runsAs : OkR (RunsAs s) (execOverrange s) := caskEvent_runsAs fun _ => rfl

theorem execCaskTwRead_runsAs (a : Fin 32) : OkR (RunsAs s) (execCaskTwRead a s) := by
  have hs := Keeps.refl true s
  have hmeans := caskMeans_keeps (lastSamples 16 s.ck.window) hs
  unfold execCaskTwRead
  dsimp only
  split
  case h_5 | h_6 => exact OkR.ite (caskAnswer_runsAs _ hmeans) rfl
  all_goals exact caskAnswer_runsAs _ hs

theorem execCaskReadReadout_runsAs : OkR (RunsAs s) (execCaskReadReadout s) := by
  have hs := Keeps.refl true s
  refine OkR.ite rfl (OkR.ite ?_ (caskAnswer_runsAs _ hs))
  split
  rename_i heq
  exact caskAnswer_runsAs _ (Keeps.of_pair heq (takeWords_keeps _ hs))

theorem execCaskCalWrite_runsAs (a : Fin 8) (v : Word) : OkR (RunsAs s) (execCaskCalWrite a v s) :=
  caskWrite_runsAs fun _ => rfl

theorem execCaskFwUpdate_runsAs (last : Bool) (block : List Byte) : OkR (RunsAs s) (execCaskFwUpdate last block s) :=
  caskWrite_runsAs fun c => by
    dsimp only
    split
    · rfl
    · split <;> rfl

/-! ## Only the supply stops and starts the Cask (R478) -/

/-- Every command but the fall and the rise of the Cask's supply leaves it running, or stopped, as it was: a command of
another unit leaves all of the Cask alone. -/
theorem exec_runsAs {c : Instr} (hdown : c ≠ .caskPowerDown) (hup : ∀ ok, c ≠ .caskPowerUp ok) :
    OkR (RunsAs s) (exec c s) := by
  cases hc : Instr.ofCask c with
  | false => exact (exec_keeps hc (Keeps.refl true s)).imp fun _ => Keeps.runsAs
  | true =>
    cases c with
    | caskPowerDown => exact absurd rfl hdown
    | caskPowerUp ok => exact absurd rfl (hup ok)
    | caskSample v => exact execCaskSample_runsAs v
    | signedReadout => exact execSignedReadout_runsAs
    | statusFrameSend => exact execStatusFrameSend_runsAs
    | clockFault ppm => exact execClockFault_runsAs ppm
    | tamperOpen => exact execTamperOpen_runsAs
    | tamperClose => exact execTamperClose_runsAs
    | overrange => exact execOverrange_runsAs
    | caskTwRead a => exact execCaskTwRead_runsAs a
    | caskReadReadout => exact execCaskReadReadout_runsAs
    | caskReadCert => exact caskAnswer_runsAs _ (Keeps.refl true s)
    | caskReadLog => exact caskAnswer_runsAs _ (Keeps.refl true s)
    | caskCalRead a => exact caskAnswer_runsAs _ (Keeps.refl true s)
    | caskCalWrite a v => exact execCaskCalWrite_runsAs a v
    | caskFwUpdate last block => exact execCaskFwUpdate_runsAs last block
    | _ => exact absurd hc Bool.false_ne_true

end

/-- Settles O53: the fall and the rise of the supply set whether the Cask runs, no other command changes it, and a
running Cask counts each sample. -/
theorem onlySupplyStopsTheCask : Obligations.OnlySupplyStopsTheCask := by
  unfold Obligations.OnlySupplyStopsTheCask
  intro c s t hc
  refine ⟨fun hrun hdown => ?_, fun _ e => ?_, fun hstop hup => ?_, fun _ ⟨ok, e⟩ => ?_, fun v hrun e => ?_⟩
  · by_cases hup : ∃ ok, c = .caskPowerUp ok
    · obtain ⟨ok, rfl⟩ := hup
      exact (execCaskPowerUp_running ok).of_next hc
    · exact ((exec_runsAs hdown (not_exists.1 hup)).of_next hc).trans hrun
  · subst e
    exact execCaskPowerDown_running.of_next hc
  · by_cases hdown : c = .caskPowerDown
    · subst hdown
      exact execCaskPowerDown_running.of_next hc
    · exact ((exec_runsAs hdown hup).of_next hc).trans hstop
  · subst e
    exact (execCaskPowerUp_running ok).of_next hc
  · subst e
    exact (execCaskSample_count v hrun).of_next hc

end Sys2Proof.Machine
end

section
/-! O60, the alarm pin (R533). The alarms are bits 8 to 11 of the number that a read of the two-wire `STATUS` answers, and
the rest of it stays below bit 8, so the pin is low exactly when those bits are not all 0. A system reset records the pin's
level, and its later steps leave the reset unit alone, so the pin goes on standing where it stood (R504). -/

namespace Sys2Proof.Machine

/-! ## A field of a number and its bits -/

/-- Bits [hi:lo] of a number are not 0 exactly when one of them is 1. -/
theorem nbits_ne_zero_iff {v hi lo : Nat} : nbits v hi lo ≠ 0 ↔ ∃ b, lo ≤ b ∧ b ≤ hi ∧ v.testBit b = true := by
  have htest : ∀ i, (nbits v hi lo).testBit i = (decide (i < hi + 1 - lo) && v.testBit (i + lo)) := fun i => by
    rw [nbits, Nat.testBit_mod_two_pow, Nat.testBit_div_two_pow]
  constructor
  · intro h
    obtain ⟨i, hbit⟩ := Nat.exists_testBit_of_ne_zero h
    rw [htest, Bool.and_eq_true, decide_eq_true_iff] at hbit
    obtain ⟨hwidth, hset⟩ := hbit
    exact ⟨i + lo, by omega, by omega, hset⟩
  · rintro ⟨b, hlo, hhi, hset⟩ hzero
    have hwidth : b - lo < hi + 1 - lo := by omega
    have hbit := htest (b - lo)
    rw [hzero, Nat.zero_testBit, Nat.sub_add_cancel hlo, hset, decide_eq_true hwidth] at hbit
    exact Bool.false_ne_true hbit

/-! ## The two-wire `STATUS` register -/

section
variable (s : State)

/-- A one-bit field is 0 or 1. -/
theorem get_lt_two (k : Key) (i : Nat) : s.get ⟨k, i, i⟩ < 2 :=
  (bits_lt (s.reg k) i i).trans_eq (by rw [Nat.add_sub_cancel_left, Nat.pow_one])

theorem phase_lt : s.phase < 16 := bits_lt _ _ _

/-- The part of the two-wire `STATUS` below the alarms (R535). -/
def State.twProgress : Nat :=
  s.phase + 16 * s.get GLOBAL_BOOT_STATUS_HALTED + 32 * s.get GLOBAL_BOOT_STATUS_RELEASED +
    64 * s.get GLOBAL_BOOT_STATUS_DONE

/-- The number that a read of the two-wire `STATUS` answers (R535). -/
def State.twStatus : Nat := s.twProgress + s.twAlarms

theorem twProgress_lt : s.twProgress < 2 ^ 8 := by
  have hphase := phase_lt s
  have hhalted : s.get GLOBAL_BOOT_STATUS_HALTED < 2 := get_lt_two s _ _
  have hreleased : s.get GLOBAL_BOOT_STATUS_RELEASED < 2 := get_lt_two s _ _
  have hdone : s.get GLOBAL_BOOT_STATUS_DONE < 2 := get_lt_two s _ _
  unfold State.twProgress
  omega

/-- The alarms are four bits, from bit 8 on. -/
theorem twAlarms_eq : ∃ n < 2 ^ 4, s.twAlarms = 2 ^ 8 * n := by
  have hlag : s.get PGOV_STATUS_CAP_LAG < 2 := get_lt_two s _ _
  have halert : s.get PGOV_STATUS_ALERT < 2 := get_lt_two s _ _
  have hhot : s.get GLOBAL_THERMAL_HOT < 2 := get_lt_two s _ _
  have hhalted : s.get GLOBAL_BOOT_STATUS_HALTED < 2 := get_lt_two s _ _
  refine ⟨s.get PGOV_STATUS_CAP_LAG + 2 * s.get PGOV_STATUS_ALERT + 4 * s.get GLOBAL_THERMAL_HOT +
    8 * s.get GLOBAL_BOOT_STATUS_HALTED, by omega, ?_⟩
  unfold State.twAlarms
  omega

theorem twStatus_lt : s.twStatus < 65536 := by
  have hlow := twProgress_lt s
  obtain ⟨n, hn, e⟩ := twAlarms_eq s
  unfold State.twStatus
  omega

/-- Bits 8 to 11 of `STATUS` are 0 exactly when there is no alarm: nothing carries into them from below. -/
theorem nbits_twStatus_eq_zero_iff : nbits s.twStatus 11 8 = 0 ↔ s.twAlarms = 0 := by
  have hlow := twProgress_lt s
  obtain ⟨n, hn, e⟩ := twAlarms_eq s
  have hfield : nbits s.twStatus 11 8 = n := by
    unfold nbits State.twStatus
    omega
  omega

/-! ## The level of the pin (R533) -/

/-- Outside a system reset the pin is low exactly while there is an alarm. -/
theorem mgmtIntN_eq_false_iff {s : State} (h : s.rs.level ≠ 2) : s.mgmtIntN = false ↔ s.twAlarms ≠ 0 := by
  have hfree : s.mgmtIntN = (s.twAlarms == 0) := if_neg fun hr => h hr.2
  rw [hfree, beq_eq_false_iff_ne]

/-- A system reset holds the pin at the level `v`. -/
def HoldsPin (v : Bool) (t : State) : Prop := t.rs.por = false ∧ t.rs.level = 2 ∧ t.rs.intHeld = some v

/-- A held pin stands at the level that was recorded (R504). -/
theorem HoldsPin.mgmtIntN_eq {v : Bool} {t : State} (h : HoldsPin v t) : t.mgmtIntN = v := by
  obtain ⟨hpor, hlevel, hheld⟩ := h
  have hkept : t.mgmtIntN = t.rs.intHeld.getD (t.twAlarms == 0) := if_pos ⟨hpor, hlevel⟩
  rw [hkept, hheld, Option.getD_some]

/-- While the pin is held the two-wire target does not answer (R504). -/
theorem HoldsPin.not_twReady {v : Bool} {t : State} (h : HoldsPin v t) : ¬ t.twReady := by
  obtain ⟨_, hlevel, _⟩ := h
  exact fun ⟨_, _, hanswers⟩ => hanswers hlevel

/-! ## A read of `STATUS` -/

theorem exec_twStatus_of_ready {s : State} (h : s.twReady) :
    exec .twStatus s = .next (s.emit (.twoWire s.twAddr (leBytes 2 s.twStatus))) := if_pos h

theorem exec_twStatus_of_not_ready {s : State} (h : ¬ s.twReady) : exec .twStatus s = .next s := if_neg h

/-! ## The reset unit after a system reset -/

@[simp] theorem maskRegs_rs (keep : RegInfo → Nat) : (s.maskRegs keep).rs = s.rs := rfl

@[simp] theorem keepFuses_rs (old : Word) : (s.keepFuses old).rs = s.rs := put_rs s _ _

@[simp] theorem showPin_rs (p : OutPin) : (s.showPin p).rs = s.rs := rfl

/-- A fold of updates that leave the reset unit alone leaves it alone. -/
theorem foldl_rs {α : Type} (f : State → α → State) (l : List α) (hf : ∀ t x, (f t x).rs = t.rs) :
    (l.foldl f s).rs = s.rs :=
  List.foldlRecOn (motive := fun t => t.rs = s.rs) l f rfl fun t ht x _ => (hf t x).trans ht

@[simp] theorem afterClear_rs : s.afterClear.rs = s.rs := by
  unfold State.afterClear
  exact (foldl_rs _ _ _ fun t _ => put_rs t _ _).trans ((wr_rs _ _ _).trans (wr_rs _ _ _))

theorem HoldsPin.of_rs {v : Bool} {t u : State} (e : t.rs = u.rs) (h : HoldsPin v u) : HoldsPin v t := by
  unfold HoldsPin
  rwa [e]

/-- A system reset records the pin's level, and what it does after that leaves the record alone. -/
theorem execSystemReset_holdsPin {s : State} (hpor : s.rs.por = false) (hlevel : s.rs.level ≠ 2) :
    OkR (HoldsPin s.mgmtIntN) (execSystemReset s) := by
  have hrun : ¬ (s.rs.por = true ∨ s.rs.level = 2) := by simp [hpor, hlevel]
  unfold execSystemReset
  rw [if_neg hrun]
  refine .of_rs (showPin_rs _ _) (.of_rs (put_rs _ _ _) (.of_rs (put_rs _ _ _) (.of_rs (flag_rs _ _) (.of_rs (put_rs _ _ _)
    (.of_rs (afterClear_rs _) (.of_rs (keepFuses_rs _ _) (.of_rs (maskRegs_rs _ _) ?_)))))))
  exact ⟨rfl, rfl, rfl⟩

end

/-- Settles O60: a read of `STATUS` answers the alarms in bits 8 to 11, which set the pin, and a system reset records the
level at which the pin stands. -/
theorem alarmPin : Obligations.AlarmPin := by
  unfold Obligations.AlarmPin
  refine ⟨fun s hready => ?_, fun s t hpor hlevel hreset => ?_⟩
  · refine ⟨s.twStatus, exec_twStatus_of_ready hready, twStatus_lt s, ?_⟩
    obtain ⟨_, _, hlevel⟩ := hready
    rw [mgmtIntN_eq_false_iff hlevel, ← nbits_ne_zero_iff, ne_eq, ne_eq, nbits_twStatus_eq_zero_iff]
  · have hheld := (execSystemReset_holdsPin hpor hlevel).of_next hreset
    exact ⟨hheld.mgmtIntN_eq, exec_twStatus_of_not_ready hheld.not_twReady⟩

end Sys2Proof.Machine
end

section
/-! O49 to O52, what every command keeps. A command of another unit passes `Keeps true` on (`exec_keeps`); one of the Cask's
own passes `Keeps false` on, which is all but the Cask itself. No arm of `exec` stops, so each ends in a next state. -/

namespace Sys2Proof.Machine

section

variable {s₀ s : State}

/-! ## What the Cask's own commands leave alone -/

theorem Keeps.weaken {b : Bool} {s t : State} (h : Keeps b s t) : Keeps false s t :=
  ⟨h.pending, h.out, h.free, h.wf, fun e => absurd e Bool.false_ne_true⟩

theorem execCaskSample_keeps (v : Sample) (h : Keeps false s₀ s) : OkR (Keeps false s₀) (execCaskSample v s) := by
  unfold execCaskSample
  extract_lets c w p win high c' n fresh u
  have hu : Keeps false s₀ u := setCask_keeps _ h
  clear_value u fresh
  exact OkR.ite h (foldl_keeps _ _ (fun _ _ h => emit_keeps (emit_keeps h _) _) hu)

theorem execSignedReadout_keeps (h : Keeps false s₀ s) : OkR (Keeps false s₀) (execSignedReadout s) := by
  unfold execSignedReadout
  extract_lets c c₁
  clear_value c₁
  refine OkR.ite h ?_
  split
  rename_i heq
  exact caskSend_keeps _ (setCask_keeps _ (Keeps.of_pair2 heq (caskMeans_keeps _ (setCask_keeps _ h))))

theorem execStatusFrameSend_keeps (h : Keeps false s₀ s) : OkR (Keeps false s₀) (execStatusFrameSend s) :=
  OkR.ite h (caskGap_keeps (caskSend_keeps _ (caskMeans_keeps _ h)))

theorem execCaskPowerDown_keeps (h : Keeps false s₀ s) : OkR (Keeps false s₀) (execCaskPowerDown s) :=
  have hoff : Keeps false s₀ { s with rs := { s.rs with off := false } } := keeps_mk.2 (.of h)
  OkR.ite hoff (setCask_keeps _ (take_keeps hoff))

theorem execCaskPowerUp_keeps (ok : Bool) (h : Keeps false s₀ s) : OkR (Keeps false s₀) (execCaskPowerUp ok s) :=
  OkR.ite h (setCask_keeps _ h)

theorem execCaskTwRead_keeps (a : Fin 32) (h : Keeps false s₀ s) : OkR (Keeps false s₀) (execCaskTwRead a s) := by
  have hmeans := caskMeans_keeps (lastSamples 16 s.ck.window) h
  unfold execCaskTwRead
  dsimp only
  split
  case h_5 | h_6 => exact OkR.ite (caskAnswer_keeps _ hmeans) h
  all_goals exact caskAnswer_keeps _ h

theorem execCaskReadReadout_keeps (h : Keeps false s₀ s) : OkR (Keeps false s₀) (execCaskReadReadout s) := by
  refine OkR.ite h (OkR.ite ?_ (caskAnswer_keeps _ h))
  split
  rename_i heq
  exact caskAnswer_keeps _ (Keeps.of_pair heq (takeWords_keeps _ h))

/-! ## Every command -/

/-- Every command leaves the queue, what was sent and the canonical forms alone. -/
theorem exec_keepsBlock (c : Instr) (s : State) : OkR (Keeps false s) (exec c s) := by
  have h := Keeps.refl false s
  unfold exec
  cases hc : Instr.ofCask c with
  | false => exact exec_keeps hc h
  | true =>
    cases c with
    | caskSample v => exact execCaskSample_keeps v h
    | signedReadout => exact execSignedReadout_keeps h
    | statusFrameSend => exact execStatusFrameSend_keeps h
    | caskPowerDown => exact execCaskPowerDown_keeps h
    | caskPowerUp ok => exact execCaskPowerUp_keeps ok h
    | clockFault | tamperOpen | tamperClose | overrange => exact caskEvent_keeps _ h
    | caskTwRead a => exact execCaskTwRead_keeps a h
    | caskReadReadout => exact execCaskReadReadout_keeps h
    | caskReadCert | caskReadLog | caskCalRead => exact caskAnswer_keeps _ h
    | caskCalWrite | caskFwUpdate => exact caskWrite_keeps _ h
    | _ => exact absurd hc Bool.false_ne_true

end

section

variable (s : State)

/-! ## No command stops the block -/

/-- An outcome is a next state. -/
def Answers (o : Host.Outcome State Fault Refusal) : Prop := ∃ t, o = .next t

theorem Answers.of_eq {o : Host.Outcome State Fault Refusal} {t : State} (e : o = .next t) : Answers o := ⟨t, e⟩

theorem Answers.next {t : State} : Answers (.next t) := .of_eq rfl

theorem Answers.ite {c : Prop} [Decidable c] {x y : Host.Outcome State Fault Refusal} (hx : Answers x)
    (hy : Answers y) : Answers (if c then x else y) := by
  split <;> assumption

theorem onTrain_answers (p : Port) (m : Nat) (f : Flit → Link → State → State) : Answers (s.onTrain p m f) := by
  unfold State.onTrain
  split <;> exact .next

theorem peerDown_answers (p m : Nat) : Answers (s.peerDown p m) := by
  unfold State.peerDown
  split <;> exact .next

theorem onRequest_answers (p m : Nat) (answer : Option Nat) (f : AMsg → State → State) :
    Answers (s.onRequest p m answer f) := by
  unfold State.onRequest
  split
  · exact .next
  · exact .ite .next (.ite .next .next)

theorem onResponse_answers (p m : Nat) (f : AMsg → State → State) : Answers (s.onResponse p m f) := by
  unfold State.onResponse
  split <;> exact .next

theorem takeCtl_answers (k : Nat) (f : List Word → State → State) : Answers (s.takeCtl k f) := by
  unfold State.takeCtl
  split
  · exact .ite .next .next
  · exact .next

theorem onReply_answers (op : Nat) : Answers (s.onReply op) := by
  unfold State.onReply
  split
  · refine .ite .next ?_
    split <;> exact .next
  · exact .next

theorem execIkioBaud_answers (rate : Nat) : Answers (execIkioBaud rate s) := by
  unfold execIkioBaud
  split <;> exact .ite .next .next

theorem execSignedReadout_answers : Answers (execSignedReadout s) := by
  unfold execSignedReadout
  extract_lets c c₁
  clear_value c₁
  refine .ite .next ?_
  split
  exact .next

theorem execBringupPhaseEnd_answers (work : PhaseWork) : Answers (execBringupPhaseEnd work s) := by
  unfold execBringupPhaseEnd
  refine .ite ?_ .next
  generalize s.phase = phase
  match phase with
  | 0 | 1 | 2 | 3 | 4 | 5 | 6 | 7 | 8 => cases work <;> exact .next
  | _ + 9 => exact .next

/-- Every command ends in a next state: most are a next state as they stand, some choose between next states by a test, by a
shared operation of threads, training or replies, or by what they find in the state. -/
theorem exec_answers (c : Instr) : Answers (exec c s) := by
  unfold exec
  cases c with
  | rcRead | bar0BadAccess | fqConsWrite | ringProdWrite | ringCqConsWrite | beatEdge | lockAcquired | holdover |
  barrierArrival | barrierRelease | atsTimeout | translationChangeDone | bankSwitch | drainEnd | cellBatchFree |
  auditSweep | descriptorFetch | threadException | fecBlock | lightDetect | speedSwitch | laneEvaluation |
  trainPhaseTimeout | lsuFail | lsuReady | pwrCapAlert | hotEnter | hotExit | porRelease | coreReset | systemReset |
  internalPortsReopen | imageTransferEnd | imageTransferStall | ikioHelp | ikioStatus | ikioRelease | ikioBootFull |
  ikioBadLine | twPart | twStatus | twRelease | twCap | twMeasured | twJunction | twResetCause | twSerial | twEnergyIn
  | twUndefined | tapBypass | tapIdcode | caskSample | statusFrameSend | caskPowerDown | caskPowerUp | blockLock |
  cxlLinkUp =>
    exact .ite .next .next
  | bootHostGo =>
    exact .ite (.ite .next .next) .next
  | data | ack | atomicValue | tileGrant | tileDone =>
    exact onReply_answers _ _
  | rld | rst | ramo | waitlc | waitbeat | fenceS | lcset | lcread | posttile | poststep | halt | csrWrite =>
    exact .ite .next (.ite .next (.ite .next .next))
  | localAccess | hdmAccess | tapSamplePreload | statusFrame | caskReadReadout =>
    exact .ite .next (.ite .next .next)
  | hello | speedReq | speedAck | tapReq | tapRsp | evalDone | ready =>
    exact onTrain_answers _ _ _ _
  | retrain | down =>
    exact peerDown_answers _ _ _
  | lcWait | attachLcRead | rdShared | rdOwn | drop =>
    exact onRequest_answers _ _ _ _ _
  | wb | recallRsp | invalRsp | resetAck =>
    exact onResponse_answers _ _ _ _
  | rampReq | rampGrant | rampBusy | rampDone | expelReq | expelGrant | expelDeny | noticeLost | noticeFenced |
  noticeReadmit | owned =>
    exact takeCtl_answers _ _ _
  | bringupPhaseEnd => exact execBringupPhaseEnd_answers s _
  | ikioBaud => exact execIkioBaud_answers s _
  | signedReadout => exact execSignedReadout_answers s
  | ikioRd | ikioWr | ikioMrd | ikioMwr | ikioLoad | tapExtest =>
    exact .ite (.ite .next .next) (.ite .next .next)
  | deferLimitTimeout | beatSlip | beatFrame | election | barrierTimeout | packetSwitch | combWindowClose |
  combinedReply | mcastStore | tileOpen | tileClose | tileCloseComplete | grantIdle | translationCompletion |
  invalidationCompletion | lineQueueAdmit | lineEntryPerform | lowerLimitTimeout | recallTimeout | mcastAckCombine |
  trackerTimeout | trackerLost | trackerStallResume | parityRefetch | releaseSend | fenceComplete | poolAlloc |
  poolRelease | chunkTimeout | fetchComplete | tileMoveStart | tileMoveEnd | cqRecordRetry | collStepEnd | tunJobStart
  | projectChunkTake | stagedChunkExpire | tunJobOutput | tunJobEnd | sliceLoadStart | sliceLoadEnd | attnJobStart |
  attnOutput | attnJobEnd | extentMoveStart | extentCopyDone | extentTileRetry | extentSwitch | tierMoveEnd |
  waitlcWake | waitlcTimeout | waitbeatWake | linkReplay | stomp | lcWaitTimeout | attachDiscard | spargeComplete |
  fwCommitDone | calWriteDone | pwrCapAlertEnd | grantEnd | arbWaitExpire | arbiterTakeover | peerDead | resetEnd |
  bootSourceWaitExpire | caskTwRead | cxlCacheResponse =>
    simp only [execDeferLimitTimeout, execBeatSlip, execBeatFrame, execElection, execBarrierTimeout, execPacketSwitch,
      execCombWindowClose, execCombinedReply, execMcastStore, execTileOpen, execTileClose, execTileCloseComplete,
      execGrantIdle, execTranslationCompletion, execInvalidationCompletion, execLineQueueAdmit, execLineEntryPerform,
      execLowerLimitTimeout, execRecallTimeout, execMcastAckCombine, execTrackerTimeout, execTrackerLost,
      execTrackerStallResume, execParityRefetch, execReleaseSend, execFenceComplete, execPoolAlloc, execPoolRelease,
      execChunkTimeout, execFetchComplete, execTileMoveStart, execTileMoveEnd, execCqRecordRetry, execCollStepEnd,
      execTunJobStart, execProjectChunkTake, execStagedChunkExpire, execTunJobOutput, execTunJobEnd,
      execSliceLoadStart, execSliceLoadEnd, execAttnJobStart, execAttnOutput, execAttnJobEnd, execExtentMoveStart,
      execExtentCopyDone, execExtentTileRetry, execExtentSwitch, execTierMoveEnd, execWaitlcWake, execWaitlcTimeout,
      execWaitbeatWake, execLinkReplay, execStomp, execLcWaitTimeout, execAttachDiscard, execSpargeComplete,
      execFwCommitDone, execCalWriteDone, execPwrCapAlertEnd, execGrantEnd, execArbWaitExpire, execArbiterTakeover,
      execPeerDead, execResetEnd, execBootSourceWaitExpire, execCaskTwRead, execCxlCacheResponse]
    repeat' split
    all_goals exact .next
  | _ => exact .of_eq rfl

end

/-- Settles O49: a step is its command on the rest of the queue, and every command keeps the canonical forms. -/
theorem stepKeepsCanonicalForm : Obligations.StepKeepsCanonicalForm := by
  unfold Obligations.StepKeepsCanonicalForm
  intro s t hwf hstep
  unfold step at hstep
  split at hstep
  · injection hstep with e
    exact e ▸ hwf
  · obtain ⟨hhbm, hstore, hscale, hlocal, hregs⟩ := hwf
    exact ((exec_keepsBlock _ _).of_next hstep).wf ⟨hhbm, hstore, hscale, hlocal, hregs⟩

/-- Settles O50: each command has a next state, which keeps the queue, what was sent and the free values. -/
theorem everyCommandAnswers : Obligations.EveryCommandAnswers := by
  unfold Obligations.EveryCommandAnswers
  intro c s
  obtain ⟨t, e⟩ := exec_answers s c
  have h := (exec_keepsBlock c s).of_next e
  exact ⟨t, e, h.pending, h.out, h.free⟩

/-- Settles O51: a command that is not the Cask's own keeps all of the Cask. -/
theorem nothingElseReachesTheCask : Obligations.NothingElseReachesTheCask := by
  unfold Obligations.NothingElseReachesTheCask
  intro c s t hc e
  exact ((exec_keeps hc (Keeps.refl true s)).of_next e).ck rfl

section

variable {s : State}

/-! ## The energy registers (R477) -/

/-- Both energy registers. -/
def CaskU.energies (c : CaskU) : Nat × Nat := (c.energyIn, c.energyOut)

theorem energies_congr {c d : CaskU} (hin : c.accIn = d.accIn) (hout : c.accOut = d.accOut) :
    c.energies = d.energies := by
  simp only [CaskU.energies, CaskU.energyIn, CaskU.energyOut, hin, hout]

/-- A command leaves both energy registers as they were. -/
def EnergyAs (s t : State) : Prop := t.ck.energies = s.ck.energies

theorem EnergyAs.of_ck {t : State} (h : t.ck = s.ck) : EnergyAs s t := congrArg CaskU.energies h

theorem Keeps.energyAs {t : State} (h : Keeps true s t) : EnergyAs s t := .of_ck (h.ck rfl)

theorem EnergyAs.fst_eq {t : State} (h : EnergyAs s t) : t.ck.energyIn = s.ck.energyIn := congrArg Prod.fst h

theorem EnergyAs.snd_eq {t : State} (h : EnergyAs s t) : t.ck.energyOut = s.ck.energyOut := congrArg Prod.snd h

theorem caskEvent_energyAs {f : CaskU → CaskU} (hf : ∀ c, (f c).energies = c.energies) :
    OkR (EnergyAs s) (s.caskEvent f) := by
  change EnergyAs s (if s.ck.running then s.setCask (f s.ck) else s)
  split
  · exact hf s.ck
  · rfl

theorem caskWrite_energyAs {f : CaskU → CaskU} (hf : ∀ c, (f c).energies = c.energies) :
    OkR (EnergyAs s) (s.caskWrite f) := by
  change EnergyAs s (if s.ck.running then (s.setCask (if s.ck.unsealed then f s.ck else s.ck)).emit .caskAck else s)
  split
  · change (if s.ck.unsealed then f s.ck else s.ck).energies = s.ck.energies
    split
    · exact hf s.ck
    · rfl
  · rfl

theorem caskAnswer_energyAs {t : State} (bs : List Byte) (h : Keeps true s t) : OkR (EnergyAs s) (t.caskAnswer bs) :=
  (caskAnswer_keeps bs h).imp fun _ => Keeps.energyAs

theorem caskGap_energyAs : EnergyAs s s.caskGap := by
  unfold State.caskGap
  dsimp only
  split
  · rfl
  · split <;> rfl

theorem execSignedReadout_energyAs : OkR (EnergyAs s) (execSignedReadout s) := by
  unfold execSignedReadout
  extract_lets c c₁
  have henergy : c₁.energies = s.ck.energies := energies_congr rfl rfl
  clear_value c₁
  split
  · rfl
  · split
    exact henergy

theorem execStatusFrameSend_energyAs : OkR (EnergyAs s) (execStatusFrameSend s) :=
  OkR.ite rfl (caskGap_energyAs.trans (caskMeans_keeps _ (Keeps.refl true s)).energyAs)

/-- The save keeps or drops the part of a mJ, which the registers do not show (R479; log 85). -/
theorem wholeMj_div (keep : Bool) (a : Nat) : (if keep then a / 16000000 * 16000000 else a) / 16000000 = a / 16000000 := by
  cases keep
  · rfl
  · exact Nat.mul_div_cancel _ (by decide)

theorem execCaskPowerDown_energyAs : OkR (EnergyAs s) (execCaskPowerDown s) := by
  unfold execCaskPowerDown
  dsimp only
  split
  · rfl
  · refine Prod.ext ?_ ?_ <;> refine (wholeMj_div _ _).trans ?_ <;> split <;> rfl

theorem execCaskPowerUp_energyAs (ok : Bool) : OkR (EnergyAs s) (execCaskPowerUp ok s) := by
  cases ok <;> exact OkR.ite rfl rfl

theorem execCaskTwRead_energyAs (a : Fin 32) : OkR (EnergyAs s) (execCaskTwRead a s) := by
  have hs := Keeps.refl true s
  have hmeans := caskMeans_keeps (lastSamples 16 s.ck.window) hs
  unfold execCaskTwRead
  dsimp only
  split
  case h_5 | h_6 => exact OkR.ite (caskAnswer_energyAs _ hmeans) rfl
  all_goals exact caskAnswer_energyAs _ hs

theorem execCaskReadReadout_energyAs : OkR (EnergyAs s) (execCaskReadReadout s) := by
  have hs := Keeps.refl true s
  refine OkR.ite rfl (OkR.ite ?_ (caskAnswer_energyAs _ hs))
  split
  rename_i heq
  exact caskAnswer_energyAs _ (Keeps.of_pair heq (takeWords_keeps _ hs))

theorem execClockFault_energyAs (ppm : Int) : OkR (EnergyAs s) (execClockFault ppm s) :=
  caskEvent_energyAs fun c => by dsimp only; split <;> rfl

theorem execTamperOpen_energyAs : OkR (EnergyAs s) (execTamperOpen s) :=
  caskEvent_energyAs fun c => by split <;> rfl

theorem execTamperClose_energyAs : OkR (EnergyAs s) (execTamperClose s) :=
  caskEvent_energyAs fun c => by split <;> rfl

theorem execOverrange_energyAs : OkR (EnergyAs s) (execOverrange s) := caskEvent_energyAs fun _ => rfl

theorem execCaskCalWrite_energyAs (a : Fin 8) (v : Word) : OkR (EnergyAs s) (execCaskCalWrite a v s) :=
  caskWrite_energyAs fun _ => rfl

theorem execCaskFwUpdate_energyAs (last : Bool) (block : List Byte) :
    OkR (EnergyAs s) (execCaskFwUpdate last block s) :=
  caskWrite_energyAs fun c => by
    dsimp only
    split
    · rfl
    · split <;> rfl

/-- Every command but a sample leaves both energy registers as they were. -/
theorem exec_energyAs {c : Instr} (hsample : ∀ v, c ≠ .caskSample v) : OkR (EnergyAs s) (exec c s) := by
  have hs := Keeps.refl true s
  cases hc : Instr.ofCask c with
  | false => exact (exec_keeps hc hs).imp fun _ => Keeps.energyAs
  | true =>
    cases c with
    | caskSample v => exact absurd rfl (hsample v)
    | signedReadout => exact execSignedReadout_energyAs
    | statusFrameSend => exact execStatusFrameSend_energyAs
    | caskPowerDown => exact execCaskPowerDown_energyAs
    | caskPowerUp ok => exact execCaskPowerUp_energyAs ok
    | clockFault ppm => exact execClockFault_energyAs ppm
    | tamperOpen => exact execTamperOpen_energyAs
    | tamperClose => exact execTamperClose_energyAs
    | overrange => exact execOverrange_energyAs
    | caskTwRead a => exact execCaskTwRead_energyAs a
    | caskReadReadout => exact execCaskReadReadout_energyAs
    | caskReadCert | caskReadLog | caskCalRead => exact caskAnswer_energyAs _ hs
    | caskCalWrite a v => exact execCaskCalWrite_energyAs a v
    | caskFwUpdate last block => exact execCaskFwUpdate_energyAs last block
    | _ => exact absurd hc Bool.false_ne_true

/-- A running Cask adds the power of a measured sample to one accumulator, by its sign. -/
theorem exec_caskSample_of_running (v : Sample) (hrun : s.ck.running = true) :
    ∃ t : State, exec (.caskSample v) s = .next t ∧ t.ck.accIn = s.ck.accIn + (sampleUw (s.ck.measured v)).toNat ∧
      t.ck.accOut = s.ck.accOut + (-sampleUw (s.ck.measured v)).toNat := by
  simp only [exec, execCaskSample, hrun, Bool.not_true, Bool.false_eq_true, if_false]
  exact ⟨_, rfl, congrArg CaskU.accIn (samplePulses_ck _), congrArg CaskU.accOut (samplePulses_ck _)⟩

/-- A sample never takes energy back. -/
theorem execCaskSample_energy_le (v : Sample) : OkR (fun t => s.ck.energyIn ≤ t.ck.energyIn ∧
    s.ck.energyOut ≤ t.ck.energyOut) (execCaskSample v s) := by
  cases hrun : s.ck.running with
  | false =>
    rw [execCaskSample, hrun]
    exact ⟨le_rfl, le_rfl⟩
  | true =>
    obtain ⟨t, e, hin, hout⟩ := exec_caskSample_of_running v hrun
    change OkR _ (exec (.caskSample v) s)
    rw [e]
    exact ⟨Nat.div_le_div_right (by omega), Nat.div_le_div_right (by omega)⟩

end

/-- Settles O52: a sample adds to one accumulator, and every other command leaves both registers as they were. -/
theorem energyOnlyRises : Obligations.EnergyOnlyRises := by
  unfold Obligations.EnergyOnlyRises
  refine ⟨fun c s t e => ?_, fun c s t hc e => ?_, fun v s hrun => ?_⟩
  · by_cases hc : ∃ v, c = .caskSample v
    · obtain ⟨v, rfl⟩ := hc
      exact (execCaskSample_energy_le v).of_next e
    · have hsame := (exec_energyAs (not_exists.1 hc)).of_next e
      exact ⟨hsame.fst_eq.ge, hsame.snd_eq.ge⟩
  · have hsame := (exec_energyAs hc).of_next e
    exact ⟨hsame.fst_eq, hsame.snd_eq⟩
  · obtain ⟨t, e, hin, hout⟩ := exec_caskSample_of_running v hrun
    have hmv : (0 : Int) ≤ (s.ck.measured v).mv := Int.natCast_nonneg _
    refine ⟨t, e, fun h => ?_, fun h => ?_⟩
    · have hpow : 0 ≤ sampleUw (s.ck.measured v) := Int.mul_nonneg hmv h
      rw [sampleUw] at hin hout hpow
      omega
    · have hpow : sampleUw (s.ck.measured v) ≤ 0 := Int.mul_nonpos_of_nonneg_of_nonpos hmv h.le
      rw [sampleUw] at hin hout hpow
      omega

end Sys2Proof.Machine
end

section
/-! Reading registers after writes. Two registers with different numbers in the register tables are different, and a
change of registers alone leaves every other part of the state alone. -/

namespace Sys2Proof.Machine

/-- Registers of different tables are different; the numbers decide it, whatever the indices. -/
theorem Key.ne_of_id {k j : Key} (h : Nat.beq k.id j.id = false) : k ≠ j := fun e => by
  subst e
  exact Nat.ne_of_beq_eq_false h rfl

/-- Registers of one table are different when their indices are. -/
theorem Key.ne_of_idx {k j : Key} (h : k.idx ≠ j.idx) : k ≠ j := fun e => h (congrArg Key.idx e)

variable {s t : State} {ks : List Key}

theorem OnlyRegs.trans {u : State} (h : OnlyRegs s t ks) (h' : OnlyRegs t u ks) : OnlyRegs s u ks := by
  obtain ⟨hrest, hregs⟩ := h
  obtain ⟨hrest', hregs'⟩ := h'
  exact ⟨(congrArg (fun x : State => { x with regs := s.regs }) hrest' :).trans hrest,
    fun k hk => (hregs' k hk).trans (hregs k hk)⟩

theorem OnlyRegs.mono {ks' : List Key} (h : OnlyRegs s t ks) (hk : ks ⊆ ks') : OnlyRegs s t ks' :=
  ⟨h.1, fun k hn => h.2 k fun hm => hn (hk hm)⟩

theorem OnlyRegs.put (h : OnlyRegs s t ks) {f : Fld} (n : Nat) (hk : f.key ∈ ks) : OnlyRegs s (t.put f n) ks :=
  h.setReg _ hk

theorem OnlyRegs.bump (h : OnlyRegs s t ks) {k : Key} (hk : k ∈ ks) : OnlyRegs s (t.bump k) ks := h.setReg _ hk

theorem OnlyRegs.reg_eq (h : OnlyRegs s t ks) {k : Key} (hk : k ∉ ks) : t.reg k = s.reg k := h.2 k hk

theorem OnlyRegs.get_eq (h : OnlyRegs s t ks) {f : Fld} (hk : f.key ∉ ks) : t.get f = s.get f := by
  rw [State.get, h.reg_eq hk, State.get]

theorem OnlyRegs.on_eq (h : OnlyRegs s t ks) {f : Fld} (hk : f.key ∉ ks) : t.on f = s.on f := by
  rw [State.on, h.get_eq hk, State.on]

theorem OnlyRegs.sameMem (h : OnlyRegs s t ks) : SameMem s t :=
  ⟨(congrArg State.hbm h.1 :), (congrArg (·.tu.store) h.1 :), (congrArg (·.tu.scale) h.1 :), (congrArg (·.sq.mem) h.1 :)⟩

theorem OnlyRegs.hm_eq (h : OnlyRegs s t ks) : t.hm = s.hm := (congrArg State.hm h.1 :)

/-- A one-bit field that was set reads 1 or 0. -/
theorem get_put_bit (s : State) (k : Key) {i : Nat} (hi : i < 64) {n : Nat} (hn : n < 2) :
    (s.put ⟨k, i, i⟩ n).get ⟨k, i, i⟩ = n := by
  rw [get_put_same _ _ _ le_rfl hi, Nat.add_sub_cancel_left, Nat.pow_one, Nat.mod_eq_of_lt hn]

theorem on_eq_get (f : Fld) : s.on f = (s.get f == 1) := rfl

end Sys2Proof.Machine
end

section
/-! O54, the completion of a mailbox command (R386, R387, R389, R392). The response, `DONE`, the count and `BUSY` are
registers; what follows forgets the command and sends the message of the vector. -/

namespace Sys2Proof.Machine

/-! ## The response area -/

section

variable (s : State) (m : Nat)

/-- The registers of mailbox `m`'s response. -/
def rspKeys : List Key := (List.range 128).map (MB_RSP m)

theorem rsp_mem_rspKeys {i : Nat} (hi : i < 128) : MB_RSP m i ∈ rspKeys m :=
  List.mem_map_of_mem (List.mem_range.2 hi)

theorem not_mem_rspKeys_of_id {k : Key} (h : Nat.beq k.id 267 = false) : k ∉ rspKeys m := by
  intro hk
  obtain ⟨i, _, rfl⟩ := List.mem_map.1 hk
  exact Key.ne_of_id (k := MB_RSP m i) (j := MB_RSP m i) h rfl

theorem putRsp_onlyRegs {k : Nat} {ws : List Word} (h : k + ws.length ≤ 128) : OnlyRegs s (putRsp m k ws s) (rspKeys m) := by
  induction ws generalizing k s with
  | nil => exact .refl s _
  | cons w r ih =>
    rw [List.length_cons] at h
    have hk : k < 128 := by omega
    exact ((OnlyRegs.refl s _).setReg w (rsp_mem_rspKeys m hk)).trans (ih _ (by omega))

/-- Words from `k` on leave the words below alone. -/
theorem reg_putRsp_below {k i : Nat} (ws : List Word) (hi : i < k) :
    (putRsp m k ws s).reg (MB_RSP m i) = s.reg (MB_RSP m i) := by
  induction ws generalizing k s with
  | nil => rfl
  | cons w r ih =>
    have hne : MB_RSP m i ≠ MB_RSP m k := Key.ne_of_idx (by simp [MB_RSP, hi.ne])
    exact (ih _ (by omega)).trans (reg_setReg_other s w hne)

/-- Each word reads back. -/
theorem reg_putRsp {k i : Nat} {ws : List Word} (hi : i < ws.length) :
    (putRsp m k ws s).reg (MB_RSP m (k + i)) = ws.getD i 0 := by
  induction ws generalizing k i s with
  | nil => exact absurd hi (Nat.not_lt_zero i)
  | cons w r ih =>
    cases i with
    | zero => exact (reg_putRsp_below _ m r (Nat.lt_succ_self k)).trans (reg_setReg_same s _ w)
    | succ i =>
      have := ih (s.setReg (MB_RSP m k) w) (k := k + 1) (Nat.lt_of_succ_lt_succ hi)
      rwa [Nat.add_assoc, Nat.add_comm 1 i] at this

/-! ## The header of a response (R386) -/

/-- The header of a response: opcode, length, status, sequence number and state code. -/
def rspHeader (op len status seq sc : Nat) : Word :=
  mkWord [(15, 0, op), (23, 16, len), (31, 24, status), (47, 32, seq), (63, 48, sc)]

section
variable {op len status seq sc : Nat}

theorem rspHeader_opcode (h : op < 65536) : bits (rspHeader op len status seq sc) 15 0 = op :=
  bits_mkWord_head _ (by decide) (by decide) h

/-- A field above the one set last reads as in the rest of the word. -/
theorem bits_mkWord_above {hi lo lo' : Nat} (v hi' : Nat) (r : List (Nat × Nat × Nat)) (h : lo ≤ hi) (h64 : hi < 64)
    (hd : hi < lo') : bits (mkWord ((hi, lo, v) :: r)) hi' lo' = bits (mkWord r) hi' lo' :=
  bits_setBits_other _ _ _ _ _ _ h h64 (.inr hd)

theorem rspHeader_len (h : len < 256) : bits (rspHeader op len status seq sc) 23 16 = len := by
  rw [rspHeader, bits_mkWord_above _ _ _ (by decide) (by decide) (by decide)]
  exact bits_mkWord_head _ (by decide) (by decide) h

theorem rspHeader_status (h : status < 256) : bits (rspHeader op len status seq sc) 31 24 = status := by
  rw [rspHeader, bits_mkWord_above _ _ _ (by decide) (by decide) (by decide),
    bits_mkWord_above _ _ _ (by decide) (by decide) (by decide)]
  exact bits_mkWord_head _ (by decide) (by decide) h

theorem rspHeader_seq (h : seq < 65536) : bits (rspHeader op len status seq sc) 47 32 = seq := by
  rw [rspHeader, bits_mkWord_above _ _ _ (by decide) (by decide) (by decide),
    bits_mkWord_above _ _ _ (by decide) (by decide) (by decide),
    bits_mkWord_above _ _ _ (by decide) (by decide) (by decide)]
  exact bits_mkWord_head _ (by decide) (by decide) h

theorem rspHeader_sc (h : sc < 65536) : bits (rspHeader op len status seq sc) 63 48 = sc := by
  rw [rspHeader, bits_mkWord_above _ _ _ (by decide) (by decide) (by decide),
    bits_mkWord_above _ _ _ (by decide) (by decide) (by decide),
    bits_mkWord_above _ _ _ (by decide) (by decide) (by decide),
    bits_mkWord_above _ _ _ (by decide) (by decide) (by decide)]
  exact bits_mkWord_head _ (by decide) (by decide) h

end

/-! ## Completion -/

/-- The registers that a completion of mailbox `m` writes. -/
def completionKeys : List Key := MB_STATUS m :: MB_DONE_COUNT m :: rspKeys m

/-- A response written, with `DONE`, the count and `BUSY` (R389). -/
def State.respond (ws : List Word) : State :=
  (((putRsp m 0 ws s).flag (MB_STATUS_DONE m)).bump (MB_DONE_COUNT m)).put (MB_STATUS_BUSY m) 0

/-- The command of mailbox `m` forgotten, and a Sparge that waited for it goes on. -/
def State.forgotten : State :=
  let u := s.mbForget m
  let closed := updWhere (fun (x : Sparge) => x.part == m) (fun x => { x with closing := false }) u.pa.sparges
  { u with pa := { u.pa with sparges := closed } }

@[simp] theorem forgotten_reg (k : Key) : (s.forgotten m).reg k = s.reg k := rfl
@[simp] theorem forgotten_get (f : Fld) : (s.forgotten m).get f = s.get f := rfl
@[simp] theorem forgotten_on (f : Fld) : (s.forgotten m).on f = s.on f := rfl
@[simp] theorem forgotten_out : (s.forgotten m).out = s.out := rfl

theorem forgotten_sameMem : SameMem s (s.forgotten m) := ⟨rfl, rfl, rfl, rfl⟩

/-- The message of the mailbox's vector, where it is valid (R387). -/
def State.signal : State :=
  if s.on (MB_VECTOR_VALID m) then s.sendMsix (s.get (MB_VECTOR_VEC m)) else s

theorem mbComplete_eq {m : Nat} (hm : m < 33) (status sc : Nat) (ws : List Word) :
    s.mbComplete m status sc ws =
      (let late := s.hm.doomed.contains m
       let ws := if late then [] else ws
       ((s.respond m (rspHeader (s.cmdOp m) ws.length (if late then stTIMEOUT else status) (bits (s.cmd m 0) 47 32)
        (if late then 0 else sc) :: ws)).forgotten m).signal m) := by
  rw [State.mbComplete, if_neg (Nat.not_le.2 hm)]
  rfl

variable {m} {ws : List Word}

theorem respond_onlyRegs (h : ws.length ≤ 128) : OnlyRegs s (s.respond m ws) (completionKeys m) :=
  ((((putRsp_onlyRegs s m (by omega)).mono fun _ hk => .tail _ (.tail _ hk)).put _ (.head _)).bump
    (.tail _ (.head _))).put _ (.head _)

theorem reg_respond_rsp {i : Nat} (hi : i < ws.length) : (s.respond m ws).reg (MB_RSP m i) = ws.getD i 0 := by
  have h := reg_putRsp s m (k := 0) hi
  rw [Nat.zero_add] at h
  rw [State.respond, reg_put_other _ _ (Key.ne_of_id rfl), reg_bump_other _ (Key.ne_of_id rfl), State.flag,
    reg_put_other _ _ (Key.ne_of_id rfl), h]

theorem get_respond_done : (s.respond m ws).get (MB_STATUS_DONE m) = 1 := by
  rw [State.respond, get_put_disjoint _ (MB_STATUS_BUSY m) (MB_STATUS_DONE m) _ le_rfl (by decide : 0 < 64) rfl (.inr (by decide : 0 < 1)),
    State.bump, get_setReg_other _ _ (Key.ne_of_id rfl)]
  exact get_put_bit _ _ (by decide) (by decide)

theorem get_respond_busy : (s.respond m ws).get (MB_STATUS_BUSY m) = 0 := get_put_bit _ _ (by decide) (by decide)

theorem reg_respond_count (h : ws.length ≤ 128) :
    (s.respond m ws).reg (MB_DONE_COUNT m) = s.reg (MB_DONE_COUNT m) + 1 := by
  rw [State.respond, reg_put_other _ _ (Key.ne_of_id rfl), reg_bump_same, State.flag, reg_put_other _ _ (Key.ne_of_id rfl),
    (putRsp_onlyRegs s m (by omega)).reg_eq (not_mem_rspKeys_of_id m rfl)]

/-- The vector is none of the registers that a completion writes. -/
theorem vector_not_mem_completionKeys : MB_VECTOR m ∉ completionKeys m := by
  simp only [completionKeys, List.mem_cons, not_or]
  exact ⟨Key.ne_of_id rfl, Key.ne_of_id rfl, not_mem_rspKeys_of_id m rfl⟩

theorem sendMsix_sameMem (v : Nat) : SameMem s (s.sendMsix v) := by
  unfold State.sendMsix
  split
  · split <;> exact ⟨rfl, rfl, rfl, rfl⟩
  · exact ⟨rfl, rfl, rfl, rfl⟩

/-- The vector's mask bit is set. -/
def State.msixMasked (v : Nat) : Bool := (s.msixWord (2 * v + 1)).getLsbD 32

@[simp] theorem forgotten_msixMasked (v : Nat) : (s.forgotten m).msixMasked v = s.msixMasked v := rfl

theorem sendMsix_out (v : Nat) : (s.sendMsix v).out = s.out ++ if s.msixMasked v then [] else [.msix v] := by
  unfold State.sendMsix State.msixMasked
  split
  · split <;> exact (List.append_nil _).symm
  · rfl

/-- The message of a masked vector is pending. -/
theorem mem_sendMsix_msixPend {v : Nat} (h : s.msixMasked v = true) : v ∈ (s.sendMsix v).hm.msixPend := by
  unfold State.msixMasked at h
  rw [State.sendMsix, if_pos h]
  split
  · exact List.contains_iff_mem.1 ‹_›
  · exact List.mem_append_right _ (.head _)

theorem signal_reg (k : Key) : (s.signal m).reg k = s.reg k := by
  unfold State.signal
  split
  · exact sendMsix_reg _ _ _
  · rfl

theorem signal_get (f : Fld) : (s.signal m).get f = s.get f := by rw [State.get, signal_reg, State.get]

theorem signal_sameMem : SameMem s (s.signal m) := by
  unfold State.signal
  split
  · exact sendMsix_sameMem _ _
  · exact ⟨rfl, rfl, rfl, rfl⟩

theorem signal_out : (s.signal m).out = s.out ++
    if s.on (MB_VECTOR_VALID m) && !s.msixMasked (s.get (MB_VECTOR_VEC m)) then [.msix (s.get (MB_VECTOR_VEC m))] else [] := by
  unfold State.signal
  split
  · rename_i hvalid
    rw [sendMsix_out, hvalid]
    cases s.msixMasked (s.get (MB_VECTOR_VEC m)) <;> rfl
  · rename_i hvalid
    rw [Bool.not_eq_true] at hvalid
    rw [hvalid]
    exact (List.append_nil _).symm

theorem mem_signal_msixPend (hvalid : s.on (MB_VECTOR_VALID m) = true)
    (hmask : s.msixMasked (s.get (MB_VECTOR_VEC m)) = true) : s.get (MB_VECTOR_VEC m) ∈ (s.signal m).hm.msixPend := by
  rw [State.signal, if_pos hvalid]
  exact mem_sendMsix_msixPend s hmask

end

section

variable {s : State} {m : Nat} {ws : List Word} (hws : ws.length ≤ 128)

/-! What a completion with the response `ws` leaves, read after the message has gone. -/

theorem reg_completed (k : Key) : (((s.respond m ws).forgotten m).signal m).reg k = (s.respond m ws).reg k := by
  rw [signal_reg, forgotten_reg]

theorem get_completed (f : Fld) : (((s.respond m ws).forgotten m).signal m).get f = (s.respond m ws).get f := by
  rw [signal_get, forgotten_get]

include hws

theorem completed_sameRegs : SameRegs s (((s.respond m ws).forgotten m).signal m) (completionKeys m) := fun k hk => by
  rw [reg_completed, (respond_onlyRegs s hws).reg_eq hk]

theorem completed_sameMem : SameMem s (((s.respond m ws).forgotten m).signal m) :=
  (respond_onlyRegs s hws).sameMem.trans ((forgotten_sameMem _ m).trans (signal_sameMem _))

theorem respond_msixMasked (v : Nat) : (s.respond m ws).msixMasked v = s.msixMasked v := by
  unfold State.msixMasked State.msixWord
  rw [(respond_onlyRegs s hws).hm_eq]

theorem completed_out : (((s.respond m ws).forgotten m).signal m).out = s.out ++
    if s.on (MB_VECTOR_VALID m) && !s.msixMasked (s.get (MB_VECTOR_VEC m)) then [.msix (s.get (MB_VECTOR_VEC m))] else [] := by
  have honly := respond_onlyRegs s (m := m) hws
  rw [signal_out, forgotten_on, forgotten_get, forgotten_out, honly.on_eq vector_not_mem_completionKeys,
    honly.get_eq vector_not_mem_completionKeys, forgotten_msixMasked, respond_msixMasked hws, honly.out_eq]

theorem mem_completed_msixPend (hvalid : s.on (MB_VECTOR_VALID m) = true)
    (hmask : s.msixMasked (s.get (MB_VECTOR_VEC m)) = true) :
    s.get (MB_VECTOR_VEC m) ∈ (((s.respond m ws).forgotten m).signal m).hm.msixPend := by
  have honly := respond_onlyRegs s (m := m) hws
  have hpend := mem_signal_msixPend ((s.respond m ws).forgotten m) (m := m)
  rw [forgotten_on, forgotten_get, honly.on_eq vector_not_mem_completionKeys,
    honly.get_eq vector_not_mem_completionKeys, forgotten_msixMasked, respond_msixMasked hws] at hpend
  exact hpend hvalid hmask

end

/-- Settles O54: the registers are those of `State.respond`, the message is that of `State.signal`, and neither the
forgetting of the command nor the message touches a register or a memory. -/
theorem mailboxCompletion : Obligations.MailboxCompletion := by
  unfold Obligations.MailboxCompletion
  intro s m status0 sc0 ws0 hm hws0 hstatus0 hsc0 late status sc ws t v masked
  have hstatus : status < 256 := by
    dsimp only [status]
    split <;> [decide; exact hstatus0]
  have hsc : sc < 65536 := by
    dsimp only [sc]
    split <;> [decide; exact hsc0]
  have hws : ws.length < 128 := by
    dsimp only [ws]
    split <;> [decide; exact hws0]
  have hseq : bits (s.cmd m 0) 47 32 < 65536 := bits_lt _ _ _
  have hop : s.cmdOp m < 65536 := bits_lt _ _ _
  obtain ⟨r, hr⟩ : ∃ r, r = rspHeader (s.cmdOp m) ws.length status (bits (s.cmd m 0) 47 32) sc :: ws := ⟨_, rfl⟩
  have ht : t = ((s.respond m r).forgotten m).signal m := hr ▸ mbComplete_eq s hm status0 sc0 ws0
  have hlen : r.length = ws.length + 1 := by rw [hr, List.length_cons]
  have hr128 : r.length ≤ 128 := by omega
  clear_value t ws sc status
  have hrsp : ∀ i < r.length, t.reg (MB_RSP m i) = r.getD i 0 := fun i hi => by
    rw [ht, reg_completed, reg_respond_rsp s hi]
  have hheader := hrsp 0 (by omega)
  rw [hr, List.getD_cons_zero] at hheader
  rw [hheader]
  refine ⟨rspHeader_opcode hop, rspHeader_len (by omega), rspHeader_status hstatus, rspHeader_seq hseq, rspHeader_sc hsc,
    fun i hi => ?_, ?_, ?_, ?_, ?_⟩
  · rw [hrsp (i + 1) (by omega), hr, List.getD_cons_succ]
  · rw [ht, get_completed, get_respond_done]
  · rw [ht, get_completed, get_respond_busy]
  · rw [ht, reg_completed, reg_respond_count s hr128, reg_bump_same]
  · rw [ht]
    exact ⟨completed_sameRegs hr128, completed_sameMem hr128, completed_out hr128, mem_completed_msixPend hr128⟩

end Sys2Proof.Machine
end

section
/-! O56, memories (R11, R256, R302, R330). All three are byte memories that `writeBytes` changes; a write of local memory
also drops reservations, which touches threads only. -/

namespace Sys2Proof.Machine

/-- A single byte outside the bytes written reads as before. -/
theorem readByte_writeBytes_outside (m : SMap Byte) {a b : Nat} (bs : List Byte) (h : ¬ (a ≤ b ∧ b < a + bs.length)) :
    readBytes (writeBytes m a bs) b 1 = readBytes m b 1 :=
  readBytes_writeBytes_outside _ _ _ _ _ (by omega)

/-- A fold of updates that leave local memory alone leaves it alone. -/
theorem foldl_sq_mem {α : Type} (f : State → α → State) (l : List α) (hf : ∀ t x, (f t x).sq.mem = t.sq.mem) (s : State) :
    (l.foldl f s).sq.mem = s.sq.mem :=
  List.foldlRecOn (motive := fun t => t.sq.mem = s.sq.mem) l f rfl fun t ht x _ => (hf t x).trans ht

/-- Dropping reservations leaves the bytes written as they are. -/
@[simp] theorem localWrite_mem (s : State) (c t a n v : Nat) :
    (s.localWrite c t a n v).sq.mem = writeBytes s.sq.mem (coreBase c + a) (leBytes n v) := by
  unfold State.localWrite
  extract_lets u
  rw [foldl_sq_mem]
  intro t k
  split
  · split <;> rfl
  · rfl

/-- A number written to local memory reads back, modulo its width. -/
theorem localRead_localWrite (s : State) (c t a n v : Nat) : (s.localWrite c t a n v).localRead c a n = v % 2 ^ (8 * n) := by
  have hread := readBytes_writeBytes s.sq.mem (coreBase c + a) (leBytes n v)
  rw [leBytes_length] at hread
  rw [State.localRead, localWrite_mem, hread, leNat_leBytes, Nat.pow_mul]

/-- Settles O56: each clause is a law of byte memories. -/
theorem memoryReadsBack : Obligations.MemoryReadsBack := by
  unfold Obligations.MemoryReadsBack
  refine ⟨fun s a bs => ⟨hbmRead_hbmWrite s a bs, fun b => readByte_writeBytes_outside s.hbm bs, hbmWrite_canon s a bs⟩,
    fun s a bs => ⟨readBytes_writeBytes s.tu.store a bs, fun b => readByte_writeBytes_outside s.tu.store bs,
      writeBytes_canon s.tu.store a bs⟩, fun s c t a n v => ?_⟩
  dsimp only
  rw [localWrite_mem]
  refine ⟨localRead_localWrite s c t a n v, fun b hb => readByte_writeBytes_outside s.sq.mem _ ?_, writeBytes_canon _ _ _⟩
  rwa [leBytes_length]

end Sys2Proof.Machine
end

section
/-! O20, what the home performs in HBM4E (R103, R105, R121, R302). A line that no agent holds is performed at once, on the
bytes of its slice; what follows (the line's queue, the operation's end, its answer, recalls) leaves the memories alone. -/

namespace Sys2Proof.Machine

section

variable (s : State)

/-! ## What leaves the memories alone -/

/-- All memories of the block. -/
def State.mems : SMap Byte × SMap Byte × SMap Byte × SMap Byte := (s.hbm, s.tu.store, s.tu.scale, s.sq.mem)

theorem sameMem_iff_mems {s t : State} : SameMem s t ↔ t.mems = s.mems := by
  simp only [SameMem, State.mems, Prod.mk.injEq]

/-- A fold of updates that leave the memories alone leaves them alone. -/
theorem foldl_mems {α : Type} (f : State → α → State) (l : List α) (hf : ∀ t x, (f t x).mems = t.mems) :
    (l.foldl f s).mems = s.mems :=
  List.foldlRecOn (motive := fun t => t.mems = s.mems) l f rfl fun t ht x _ => (hf t x).trans ht

@[simp] theorem setReg_mems (k : Key) (v : Word) : (s.setReg k v).mems = s.mems := rfl
@[simp] theorem put_mems (f : Fld) (n : Nat) : (s.put f n).mems = s.mems := rfl
@[simp] theorem wr_mems (k : Key) (n : Nat) : (s.wr k n).mems = s.mems := rfl
@[simp] theorem bump_mems (k : Key) : (s.bump k).mems = s.mems := rfl
@[simp] theorem bumpBy_mems (k : Key) (n : Nat) : (s.bumpBy k n).mems = s.mems := rfl
@[simp] theorem emit_mems (o : Out) : (s.emit o).mems = s.mems := rfl
@[simp] theorem setCounter_mems (i : Nat) (v : Word) : (s.setCounter i v).mems = s.mems := rfl
@[simp] theorem setLink_mems (p : Nat) (l : Link) : (s.setLink p l).mems = s.mems := rfl
@[simp] theorem setDir_mems (d : List DirEntry) : (s.setDir d).mems = s.mems := rfl
@[simp] theorem setLines_mems (l : List LineQ) : (s.setLines l).mems = s.mems := rfl
@[simp] theorem setOp_mems (o : HOp) : (s.setOp o).mems = s.mems := rfl
@[simp] theorem forgotten_mems (m : Nat) : (s.forgotten m).mems = s.mems := rfl

theorem OnlyRegs.mems_eq {s t : State} {ks : List Key} (h : OnlyRegs s t ks) : t.mems = s.mems :=
  sameMem_iff_mems.1 h.sameMem

@[simp] theorem sendMsix_mems (v : Nat) : (s.sendMsix v).mems = s.mems := sameMem_iff_mems.1 (sendMsix_sameMem s v)

@[simp] theorem signal_mems (m : Nat) : (s.signal m).mems = s.mems := sameMem_iff_mems.1 (signal_sameMem s)

theorem putRsp_mems (m k : Nat) (ws : List Word) : (putRsp m k ws s).mems = s.mems := by
  induction ws generalizing k s with
  | nil => rfl
  | cons w r ih => exact (ih _ _).trans (setReg_mems s _ _)

@[simp] theorem respond_mems (m : Nat) (ws : List Word) : (s.respond m ws).mems = s.mems := by
  rw [State.respond, put_mems, bump_mems, State.flag, put_mems, putRsp_mems]

@[simp] theorem mbComplete_mems (m status sc : Nat) (ws : List Word) : (s.mbComplete m status sc ws).mems = s.mems := by
  by_cases hm : m < 33
  · rw [mbComplete_eq s hm, signal_mems, forgotten_mems, respond_mems]
  · rw [State.mbComplete, if_pos (Nat.not_lt.1 hm)]

/-! ## Links -/

@[simp] theorem emitBlock_mems (p slot : Nat) (fl : List Flit) : (s.emitBlock p slot fl).mems = s.mems := rfl

@[simp] theorem sendBlock_mems (p : Nat) (fl : List Flit) : (s.sendBlock p fl).mems = s.mems := by
  unfold State.sendBlock
  dsimp only
  split
  · rw [emitBlock_mems, setLink_mems]
  · exact setLink_mems s _ _

@[simp] theorem sendFlits_mems (p : Nat) (fl : List Flit) : (s.sendFlits p fl).mems = s.mems := sendBlock_mems s p _

@[simp] theorem grantSent_mems (p : Nat) (m : AttachOut) : (s.grantSent p m).mems = s.mems := by
  unfold State.grantSent
  split
  · rfl
  · exact foldl_mems s _ _ fun t q => setLink_mems t q _

@[simp] theorem drainAttach_mems (p n : Nat) : (drainAttach p n s).mems = s.mems := by
  induction n generalizing s with
  | zero => rfl
  | succ n ih =>
    unfold drainAttach
    dsimp only
    split
    · rfl
    · split
      · rw [ih, emit_mems, grantSent_mems, sendFlits_mems, setLink_mems]
      · rfl

@[simp] theorem sendAttach_mems (p msg status id : Nat) (keep : Bool) (part : Nat) (addr value : Word)
    (data : Option (List Byte)) (undo : Option (Nat × Bool × Bool)) :
    (s.sendAttach p msg status id keep part addr value data undo).mems = s.mems := by
  simp only [State.sendAttach, drainAttach_mems, setLink_mems]

/-! ## Packets -/

@[simp] theorem deliver_mems (from_ : Nat) (p : Pkt) : (s.deliver from_ p).mems = s.mems := by
  unfold State.deliver
  split <;> rfl

@[simp] theorem toSwitch_mems (port : Nat) (p : Pkt) : (s.toSwitch port p).mems = s.mems := by
  unfold State.toSwitch
  split <;> rfl

@[simp] theorem sealPkt_mems (p : Pkt) : (s.sealPkt p).2.mems = s.mems :=
  have hpa : ∀ pa, ({ s with pa := pa } : State).mems = s.mems := fun _ => rfl
  hpa _

@[simp] theorem sendOut_mems (port : Nat) (p : Pkt) : (s.sendOut port p).mems = s.mems := by
  unfold State.sendOut
  split
  · split
    · split
      rename_i q u heq
      have hu : u.mems = s.mems := by
        rw [← sealPkt_mems s p, heq]
      exact (toSwitch_mems u _ _).trans hu
    · rfl
  · exact toSwitch_mems s _ _

@[simp] theorem send_mems (port : Nat) (p : Pkt) : (s.send port p).mems = s.mems := by
  unfold State.send
  extract_lets own
  clear_value own
  split
  · exact deliver_mems s _ _
  · exact sendOut_mems s _ _

@[simp] theorem reply_mems (q : Pkt) (opcode status : Nat) (payload : List Byte) (w3 : Word) :
    (s.reply q opcode status payload w3).mems = s.mems := send_mems s _ _

@[simp] theorem ack_mems (q : Pkt) (status : Nat) : (s.ack q status).mems = s.mems := by
  unfold State.ack
  extract_lets t
  have ht : t.mems = s.mems := by
    unfold t
    split <;> rfl
  split
  · exact ht
  · exact (reply_mems t _ _ _ _ _).trans ht

/-! ## The end of an access -/

@[simp] theorem lcNotifyPort_mems (i p : Nat) : (s.lcNotifyPort i p).mems = s.mems := by
  unfold State.lcNotifyPort
  exact foldl_mems _ _ _ fun t w => sendAttach_mems t _ _ _ _ _ _ _ _ _ _

@[simp] theorem lcUpdate_mems (p : Pkt) : (s.lcUpdate p).mems = s.mems := by
  unfold State.lcUpdate State.lcAdd
  split
  · exact foldl_mems _ _ _ fun t q => lcNotifyPort_mems t _ q
  · rfl

@[simp] theorem dequeue_mems (op line : Nat) : (s.dequeue op line).mems = s.mems := rfl

/-- The answer to a request. -/
@[simp] theorem answer_request_mems (p : Pkt) (status : Nat) (bytes : List Byte) :
    (s.answer .request p status bytes).mems = s.mems := by
  unfold State.answer
  dsimp only
  split
  · exact ack_mems s _ _
  · split
    · exact reply_mems s _ _ _ _ _
    · exact reply_mems s _ _ _ _ _
    · split
      · exact ack_mems s _ _
      · exact reply_mems s _ _ _ _ _
    · exact ack_mems s _ _

theorem endOp_mems {o : HOp} (hsrc : o.src = .request) (status : Nat) : (s.endOp o status).mems = s.mems := by
  unfold State.endOp
  extract_lets t bytes u v
  have ht : t.mems = s.mems := foldl_mems s _ _ fun t l => dequeue_mems t _ l
  have hu : u.mems = s.mems := by
    unfold u
    split
    · exact (lcUpdate_mems t _).trans ht
    · exact ht
  have hv : v.mems = s.mems := by
    unfold v
    rw [hsrc, answer_request_mems, hu]
  exact hv

theorem finishLine_done_mems {o : HOp} (hsrc : o.src = .request) (line : Nat) (bytes : List Byte) :
    (s.finishLine line o (.done bytes)).mems = s.mems := by
  unfold State.finishLine
  dsimp -zeta only
  extract_lets got o' t
  have ht : t.mems = s.mems := rfl
  split
  · exact (endOp_mems t (o := o') hsrc 0).trans ht
  · exact ht

/-! ## Recalls -/

@[simp] theorem sendRecall_mems (e : DirEntry) (mask : Nat) (modified keep : Bool) :
    (s.sendRecall e mask modified keep).mems = s.mems := by
  unfold State.sendRecall
  extract_lets t u
  refine (foldl_mems u _ _ fun t a => ?_).trans rfl
  split
  · rfl
  · split
    split
    · exact sendAttach_mems t _ _ _ _ _ _ _ _ _ _
    · rfl

@[simp] theorem recallPart_mems (n : Nat) : (s.recallPart n).mems = s.mems :=
  foldl_mems s _ _ fun t _ => sendRecall_mems t _ _ _ _

@[simp] theorem dirSettle_mems : s.dirSettle.mems = s.mems := by
  unfold State.dirSettle
  extract_lets t ms off out
  have ht : t.mems = s.mems := foldl_mems s _ _ fun t x => recallPart_mems t x.part
  split
  · exact ht
  · split
    · exact (foldl_mems t _ _ fun t m => mbComplete_mems t _ _ _ _).trans ht
    · exact (foldl_mems t _ _ fun t e => sendRecall_mems t _ _ _ _).trans ht

/-! ## A line that no agent holds -/

section

variable {s} {dl : Nat}

theorem find_dir_eq_none (h : ∀ e ∈ s.dir, e.line ≠ dl) : s.dir.find? (fun e => e.line == dl) = none :=
  List.find?_eq_none.2 fun e he hl => h e he (eq_of_beq hl)

theorem dirBefore_of_no_entry (h : ∀ e ∈ s.dir, e.line ≠ dl) (agent : Option Nat) (load domain : Bool) :
    s.dirBefore dl agent load domain = (false, s) := by
  unfold State.dirBefore
  rw [find_dir_eq_none h]

theorem dirTouch_of_no_entry (h : ∀ e ∈ s.dir, e.line ≠ dl) : s.dirTouch dl = s := by
  unfold State.dirTouch
  rw [find_dir_eq_none h]

/-- A request on an `HBM` page is performed on the bytes of its slice. -/
theorem lineDo_hbm {o : HOp} {line : Nat} (hkind : o.kind = 0) (hsrc : o.src = .request)
    (h : ∀ e ∈ s.dir, e.line ≠ lineAddr line / 64) :
    s.lineDo o line = s.doHbm o (opSlice o line).1 (opSlice o line).2 (opSlice o line).1 := by
  unfold State.lineDo
  split
  rename_i lo n hslice
  simp only [hkind, State.doHbmPage, dirBefore_of_no_entry h, hsrc, dirTouch_of_no_entry h, Bool.false_eq_true, if_false,
    hslice]

theorem perform_load {o : HOp} (hsrc : o.src = .request) (hop : Pkt.opcode o.pkt = 1) (lo n : Nat) (old : List Byte) :
    o.perform lo n old = (old, none) := by
  simp only [HOp.perform, hsrc, hop]

theorem perform_store {o : HOp} (hsrc : o.src = .request) (hop : Pkt.opcode o.pkt = 2) (lo n : Nat) (old : List Byte) :
    o.perform lo n old = ([], some (o.bytesFor lo n)) := by
  simp only [HOp.perform, hsrc, hop]

theorem perform_atomic {o : HOp} (hsrc : o.src = .request) (hop : Pkt.opcode o.pkt = 3) (lo n : Nat) (old : List Byte) :
    o.perform lo n old = (old, some (atomicApply o.pkt old)) := by
  simp only [HOp.perform, hsrc, hop]

/-- The head of a line that waits for nothing is performed, and ends with its result. -/
theorem exec_lineEntryPerform {line : Nat} {q : LineQ} {o : HOp} {r : LineRes} {u : State}
    (hhead : s.headOp line = some (q, o)) (hwait : q.wait = .none) (hdo : s.lineDo o line = (r, u)) :
    exec (.lineEntryPerform line) s = .next (u.finishLine line o r).dirSettle := by
  change execLineEntryPerform line s = _
  simp only [execLineEntryPerform, hhead, hwait, if_true, hdo]

/-- What the home wrote stands in HBM4E after the access has ended, and nothing else has changed. -/
theorem performed_mems {line : Nat} {o : HOp} (hsrc : o.src = .request) (bytes : List Byte) (lo : Nat) (bs : List Byte) :
    (((s.hbmWrite lo bs).finishLine line o (.done bytes)).dirSettle).mems = (s.hbmWrite lo bs).mems := by
  rw [dirSettle_mems, finishLine_done_mems _ hsrc]

end

theorem bytesFor_length_le (o : HOp) (lo n : Nat) : (o.bytesFor lo n).length ≤ n := List.length_take_le _ _

@[simp] theorem atomicApply_length (p : Pkt) (old : List Byte) : (atomicApply p old).length = Pkt.size p := leBytes_length _ _

/-- A state whose HBM4E is `s`'s with bytes written reads as `s` outside them. -/
theorem hbmRead_of_writeBytes {s t : State} {lo k : Nat} {bs : List Byte} (h : t.hbm = writeBytes s.hbm lo bs)
    (hk : bs.length ≤ k) {a : Nat} (ha : a + 1 ≤ lo ∨ lo + k ≤ a) : t.hbmRead a 1 = s.hbmRead a 1 := by
  rw [State.hbmRead, h]
  exact readBytes_writeBytes_outside _ _ _ _ _ (by omega)

end

/-- Settles O20: the opcode decides what the slice writes, and nothing after that touches a memory. -/
theorem homePerformsInHbm : Obligations.HomePerformsInHbm := by
  unfold Obligations.HomePerformsInHbm
  intro line s q o hhead hwait hkind hsrc hdir lo n
  have hslice : opSlice o line = (lo, n) := rfl
  have hdo := lineDo_hbm hkind hsrc hdir
  rw [hslice] at hdo
  dsimp only [State.doHbm] at hdo
  have hwrite : ∀ (bytes bs : List Byte),
      let t := ((s.hbmWrite lo bs).finishLine line o (.done bytes)).dirSettle
      t.hbm = writeBytes s.hbm lo bs ∧ t.tu.store = s.tu.store ∧ t.sq.mem = s.sq.mem := fun bytes bs => by
    obtain ⟨hhbm, hstore, _, hmem⟩ := sameMem_iff_mems.2 (performed_mems (s := s) (line := line) hsrc bytes lo bs)
    exact ⟨hhbm, hstore, hmem⟩
  refine ⟨fun hop => ?_, fun hop => ?_, fun hop => ?_⟩
  · rw [perform_load hsrc hop] at hdo
    refine ⟨_, exec_lineEntryPerform hhead hwait hdo, sameMem_iff_mems.2 ?_, rfl⟩
    rw [dirSettle_mems, finishLine_done_mems _ hsrc]
  · rw [perform_store hsrc hop] at hdo
    obtain ⟨hhbm, hstore, hmem⟩ := hwrite [] (o.bytesFor lo n)
    exact ⟨_, exec_lineEntryPerform hhead hwait hdo, hhbm, hstore, hmem,
      fun a ha => hbmRead_of_writeBytes hhbm (bytesFor_length_le _ _ _) ha⟩
  · rw [perform_atomic hsrc hop] at hdo
    obtain ⟨hhbm, hstore, hmem⟩ := hwrite (s.hbmRead lo n) (atomicApply o.pkt (s.hbmRead lo n))
    exact ⟨_, exec_lineEntryPerform hhead hwait hdo, hhbm, hstore, hmem,
      fun a ha => hbmRead_of_writeBytes hhbm (atomicApply_length _ _).le ha⟩

end Sys2Proof.Machine
end

section
/-! O28, waits, counters, fences and the end of a thread (R327, R328, R334, R335, R343). A thread that can issue carries out
its instruction on the state whose core has counted it; every instruction is then one equation. -/

namespace Sys2Proof.Machine

section

variable (s : State)

/-! ## Issuing (R327, R333) -/

@[simp] theorem thread_issued (c t : Nat) (fabric : Bool) (k j : Nat) : (s.issued c t fabric).thread k j = s.thread k j := rfl

/-- A well-formed instruction of the thread whose turn it is has its effect on the state that has counted it. -/
theorem fabric_of_canIssue {s : State} {c : Core} {t : Thread} (h : s.canIssue c t) {names reserved : Bool}
    (hn : names = true) (hr : reserved = false) (body : State → State) :
    s.fabric c t names reserved body = .next (body (s.issued c.val t.val true)) := by
  obtain ⟨hready, hpc⟩ := h
  have hin : ¬ 0x10000 < ((s.issued c.val t.val true).thread c.val t.val).pc + 4 := by
    rw [thread_issued]
    exact Nat.not_lt.2 hpc
  unfold State.fabric
  rw [hn, hr, hready, if_neg (by decide)]
  dsimp only
  rw [if_neg hin, if_neg Bool.false_ne_true]

/-- A counter test and its signed form (R147). -/
theorem reached_eq_true_iff (a b : Word) : (reached a b = true) = ((a - b).toNat < 2 ^ 63) := by
  rw [reached_iff_toNat_lt]

theorem reached_eq_false_of_le {a b : Word} (h : 2 ^ 63 ≤ (a - b).toNat) : reached a b = false :=
  decide_eq_false (Nat.not_lt.2 h)

/-- Issued in its form: the word names the instruction and its reserved bits are 0. -/
theorem named {i : BitVec 32} {op f3 : Nat} (hop : iOp i = op) (hf3 : iF3 i = f3) :
    (iOp i == op && iF3 i == f3) = true := by
  rw [hop, hf3, beq_self_eq_true, beq_self_eq_true, Bool.and_self]

/-! ## The run mask (R343) -/

/-- Taking a power of two off a number that has its bit clears that bit and no other. -/
theorem testBit_sub_two_pow {m t : Nat} (h : m.testBit t = true) (k : Nat) :
    (m - 2 ^ t).testBit k = (m.testBit k && k != t) := by
  have hlow : m % 2 ^ t < 2 ^ t := Nat.mod_lt _ (Nat.two_pow_pos t)
  have hodd : m / 2 ^ t % 2 = 1 := by
    rw [Nat.testBit_eq_decide_div_mod_eq, decide_eq_true_iff] at h
    exact h
  have hm : m = 2 ^ t * (m / 2 ^ t) + m % 2 ^ t := (Nat.div_add_mod m _).symm
  have hsub : m - 2 ^ t = 2 ^ t * (m / 2 ^ t - 1) + m % 2 ^ t := by
    have hpos : 0 < m / 2 ^ t := Nat.pos_of_ne_zero fun e => by simp [e] at hodd
    have hle : 2 ^ t ≤ 2 ^ t * (m / 2 ^ t) := Nat.le_mul_of_pos_right _ hpos
    rw [Nat.mul_sub, Nat.mul_one]
    omega
  rw [hsub, Nat.testBit_two_pow_mul_add _ hlow]
  conv_rhs => rw [hm, Nat.testBit_two_pow_mul_add _ hlow]
  by_cases hk : k < t
  · simp [hk, hk.ne]
  · rw [if_neg hk, if_neg hk]
    obtain rfl | hgt := Nat.eq_or_lt_of_not_lt hk
    · simp only [bne_self_eq_false, Bool.and_false, Nat.sub_self, Nat.testBit_zero, decide_eq_false_iff_not]
      omega
    · obtain ⟨j, hj⟩ : ∃ j, k - t = j + 1 := ⟨k - t - 1, (Nat.succ_pred_eq_of_pos (Nat.sub_pos_of_lt hgt)).symm⟩
      have hhalf : ∀ q, q % 2 = 1 → (q - 1) / 2 = q / 2 := fun q hq => by omega
      rw [hj, Nat.testBit_succ, Nat.testBit_succ, hhalf _ hodd, bne_iff_ne.2 (Nat.ne_of_gt hgt), Bool.and_true]

/-- The mask without a thread. -/
def maskWithout (m t : Nat) : Nat := m - (if m.testBit t then 2 ^ t else 0)

theorem testBit_maskWithout (m t k : Nat) : (maskWithout m t).testBit k = (m.testBit k && k != t) := by
  unfold maskWithout
  split
  · exact testBit_sub_two_pow ‹_› k
  · rename_i hclear
    rw [Nat.sub_zero]
    by_cases hk : k = t
    · subst hk
      rw [Bool.eq_false_iff.2 hclear, Bool.false_and]
    · rw [bne_iff_ne.2 hk, Bool.and_true]

theorem maskWithout_le (m t : Nat) : maskWithout m t ≤ m := Nat.sub_le _ _

/-! ## Settling a core -/

variable (c : Nat)

@[simp] theorem thread_coreSettle (k j : Nat) : (s.coreSettle c).thread k j = s.thread k j := by
  unfold State.coreSettle
  split
  · exact thread_put s _ _ k j
  · rfl

/-- Settling a core shows its state, beside its run mask. -/
@[simp] theorem get_coreSettle_runMask :
    (s.coreSettle c).get (SEQ_CORE_STATE_RUN_MASK c) = s.get (SEQ_CORE_STATE_RUN_MASK c) := by
  unfold State.coreSettle
  split
  · exact get_put_disjoint s (SEQ_CORE_STATE_STATE c) (SEQ_CORE_STATE_RUN_MASK c) 1 (by decide : 62 ≤ 63)
      (by decide : 63 < 64) rfl (.inl (by decide : 31 < 62))
  · rfl

theorem coreSettle_onlyRegs : OnlyRegs s (s.coreSettle c) [SEQ_CORE_STATE c] := by
  unfold State.coreSettle
  split
  · exact (OnlyRegs.refl s _).put _ (.head _)
  · exact .refl s _

/-! ## Halting a thread (R328, R343) -/

variable (t : Nat)

/-- The thread and the turn of a halted thread. -/
def State.stopThread : State :=
  let x := s.coreTurn c
  let u := s.setTurn c { x with run := if x.last = t then 0 else x.run, woken := x.woken.erase t }
  u.setThread c t { u.thread c t with running := false, wait := .none }

theorem haltThread_eq : s.haltThread c t = ((s.stopThread c t).put (SEQ_CORE_STATE_RUN_MASK c)
    (maskWithout (s.get (SEQ_CORE_STATE_RUN_MASK c)) t)).coreSettle c := rfl

theorem thread_haltThread_running : ((s.haltThread c t).thread c t).running = false := by
  rw [haltThread_eq, thread_coreSettle, thread_put, State.stopThread, thread_setThread_same]

theorem get_haltThread_runMask :
    (s.haltThread c t).get (SEQ_CORE_STATE_RUN_MASK c) = maskWithout (s.get (SEQ_CORE_STATE_RUN_MASK c)) t := by
  have hlt : s.get (SEQ_CORE_STATE_RUN_MASK c) < 2 ^ 32 := bits_lt _ _ _
  have hle := maskWithout_le (s.get (SEQ_CORE_STATE_RUN_MASK c)) t
  rw [haltThread_eq, get_coreSettle_runMask, get_put_same _ _ _ (by decide : 0 ≤ 31) (by decide : 31 < 64)]
  exact Nat.mod_eq_of_lt (hle.trans_lt hlt)

theorem stopThread_onlyThreads : OnlyThreads s (s.stopThread c t) :=
  ((OnlyThreads.refl s).setTurn c _).setThread c t _

theorem haltThread_sameRegs : SameRegs s (s.haltThread c t) [SEQ_CORE_STATE c] := fun k hk => by
  rw [haltThread_eq, (coreSettle_onlyRegs _ c).reg_eq hk, reg_put_other _ _ fun e => hk (List.mem_singleton.2 e),
    (stopThread_onlyThreads s c t).reg_eq]

theorem haltThread_sameMem : SameMem s (s.haltThread c t) := by
  rw [haltThread_eq]
  exact ((stopThread_onlyThreads s c t).sameMem.trans (put_sameMem _ _ _)).trans (coreSettle_onlyRegs _ c).sameMem

end

/-- Settles O28: each instruction and each wake is the equation of its own function. -/
theorem sequencerWaits : Obligations.SequencerWaits := by
  unfold Obligations.SequencerWaits
  refine ⟨fun c t i r h hop hf3 htop => ?waitlc, fun c t s k target rd lim hw => ?waitlcEnd,
    fun c t i r h hop hf3 hrs2 htop => ?waitbeat, fun c t s b rd adm hw hb => ?waitbeatWake,
    fun c t i r h hop hf3 hrd hrs1 hrs2 htop => ?fence, fun c t i r h hop hf3 htop => ?lcset,
    fun c t i r h hop hf3 htop hrs2 => ?lcread, fun c t i r h hop hf3 htop hrd hrs1 hrs2 => ?halt⟩
  case waitlc =>
    change execWaitlc c t i r = _
    rw [execWaitlc, fabric_of_canIssue h (named hop hf3) (by simp [htop])]
    simp only [reached_eq_true_iff, Bool.not_eq_true']
  case waitlcEnd =>
    change (_ → execWaitlcWake c t s = _) ∧ (_ → _ → execWaitlcTimeout c t s = _) ∧ (_ → _ → execWaitlcTimeout c t s = _)
    refine ⟨fun hk => ?_, fun hl hk => ?_, fun hl hk => ?_⟩
    · simp only [execWaitlcWake, hw, reached_eq_true_iff, hk, if_true]
    · simp only [execWaitlcTimeout, hw, hl, reached_eq_true_iff, hk, if_true]
    · simp only [execWaitlcTimeout, hw, hl, reached_eq_false_of_le hk, Bool.false_eq_true, if_false]
  case waitbeat =>
    change execWaitbeat c t i r = _
    rw [execWaitbeat, fabric_of_canIssue h (named hop hf3) (by simp [hrs2, htop])]
    simp only [reached_eq_true_iff]
  case waitbeatWake =>
    change execWaitbeatWake c t s = _
    simp only [execWaitbeatWake, hw, reached_eq_true_iff, hb, if_true]
  case fence =>
    change execFenceS c t i r = _
    rw [execFenceS, fabric_of_canIssue h (named hop hf3) (by simp [hrd, hrs1, hrs2, htop])]
  case lcset =>
    change execLcset c t i r = _
    rw [execLcset, fabric_of_canIssue h (named hop hf3) (by simp [htop])]
  case lcread =>
    change execLcread c t i r = _
    rw [execLcread, fabric_of_canIssue h (named hop hf3) (by simp [htop, hrs2])]
  case halt =>
    intro s
    have hexec : exec (.halt c t i) r = .next (if (s.thread c.val t.val).posted.isEmpty then s.haltThread c.val t.val
        else s.setThread c.val t.val { s.thread c.val t.val with wait := .halting }) := by
      change execHalt c t i r = _
      rw [execHalt, fabric_of_canIssue h (named hop hf3) (by simp [htop, hrd, hrs1, hrs2])]
    refine ⟨fun hposted => ⟨s.haltThread c.val t.val, ?_, thread_haltThread_running _ _ _, ?_, fun k _ hk => ?_,
      haltThread_sameRegs _ _ _, haltThread_sameMem _ _ _⟩, fun hposted => ?_⟩
    · rw [hexec, hposted, List.isEmpty_nil, if_pos rfl]
    · rw [get_haltThread_runMask, testBit_maskWithout, bne_self_eq_false, Bool.and_false]
    · rw [get_haltThread_runMask, testBit_maskWithout, bne_iff_ne.2 hk, Bool.and_true]
    · rw [hexec, if_neg (by rwa [List.isEmpty_iff])]

end Sys2Proof.Machine
end

section
/-! O30, reception on a link (R25, R348 to R350, R356 to R358, R366, R368). A decoded block is good, out of order or bad, and
each is one branch of `State.takeBlock`; a replay emits its blocks one after another, which moves only the count of blocks
sent. -/

namespace Sys2Proof.Machine

/-! ## A block on a link in service (R356) -/

section

variable {s : State} {p : Nat} {d : Option (Nat × Nat)} {m k : Nat}

theorem takeBlock_good (hd : d = some (m, k)) (hseq : nbits (fecSlot m) 19 11 = (s.link p).rxSeq)
    (hok : flitsOk (s.link p).due (fecFlits m) = true) :
    s.takeBlock p d =
      (let l := s.link p
       let v := ((fecFlits m).foldl (fun (x : State) f => x.rxFlit p f)
        (s.setLink p { l with rxSeq := (l.rxSeq + 1) % 512, rxBad := false, ackDue := true })).ctlSlot p (fecSlot m)
       if v.active p = true then v.flushLink p else v) := by
  subst hd
  simp only [State.takeBlock, hseq, beq_self_eq_true, hok, Bool.and_self, if_true]

/-- What a link does with a block that it does not take: it owes a `NAK`, unless one is owed and the block is out of order. -/
theorem takeBlock_refused (h : ∀ m k, d = some (m, k) →
      nbits (fecSlot m) 19 11 ≠ (s.link p).rxSeq ∨ flitsOk (s.link p).due (fecFlits m) = false) :
    s.takeBlock p d =
      (let l := s.link p
       let expected := match d with | some (m, _) => nbits (fecSlot m) 19 11 == l.rxSeq | none => false
       if l.rxBad && d.isSome && !expected then s
       else (s.setLink p { l with rxBad := true, nakDue := true }).flushLink p) := by
  cases d with
  | none => rfl
  | some x =>
    obtain ⟨m, k⟩ := x
    have hbad : ¬ ((nbits (fecSlot m) 19 11 == (s.link p).rxSeq) && flitsOk (s.link p).due (fecFlits m)) = true := by
      obtain hseq | hok := h m k rfl
      · simp [hseq]
      · simp [hok]
    simp only [State.takeBlock, if_neg hbad]

/-- A codeword that does not decode, a bad block, or the first block out of order, owes a `NAK`. -/
theorem takeBlock_bad (h : d = none ∨ ∃ m k, d = some (m, k) ∧
      (nbits (fecSlot m) 19 11 = (s.link p).rxSeq ∧ flitsOk (s.link p).due (fecFlits m) = false ∨
        nbits (fecSlot m) 19 11 ≠ (s.link p).rxSeq ∧ (s.link p).rxBad = false)) :
    s.takeBlock p d = (s.setLink p { s.link p with rxBad := true, nakDue := true }).flushLink p := by
  obtain rfl | ⟨m, k, rfl, ⟨hseq, hok⟩ | ⟨hseq, hbad⟩⟩ := h
  · rw [takeBlock_refused (d := none) fun _ _ e => nomatch e]
    simp
  · rw [takeBlock_refused fun m' k' e => by cases e; exact .inr hok]
    simp [hseq]
  · rw [takeBlock_refused fun m' k' e => by cases e; exact .inl hseq]
    simp [hbad]

/-- A later block out of order is discarded. -/
theorem takeBlock_out_of_order (hd : d = some (m, k)) (hseq : nbits (fecSlot m) 19 11 ≠ (s.link p).rxSeq)
    (hbad : (s.link p).rxBad = true) : s.takeBlock p d = s := by
  subst hd
  rw [takeBlock_refused fun m' k' e => by cases e; exact .inl hseq]
  simp [hseq, hbad]

end

/-- A codeword on a lane in service of a link in service is counted and taken. -/
theorem exec_fecBlock_active {p : Port} {lane : Fin 8} {s : State} (hactive : s.active p.val = true)
    (hlane : (s.get (PORT_STATUS_LANES p)).testBit lane.val = true) (flits : BitVec 5120) (slot : BitVec 20)
    (check : BitVec 300) : exec (.fecBlock p lane flits slot check) s =
      .next ((s.fecCount p (fecDecode (fecJoin flits slot check))).takeBlock p (fecDecode (fecJoin flits slot check))) := by
  change execFecBlock p lane flits slot check s = _
  simp only [execFecBlock, hactive, if_true, hlane]

/-- On any other link it counts in its lane's evaluation, and `TRAIN` flits alone are kept. -/
theorem exec_fecBlock_idle {p : Port} {s : State} (hactive : s.active p.val = false) (lane : Fin 8) (flits : BitVec 5120)
    (slot : BitVec 20) (check : BitVec 300) : exec (.fecBlock p lane flits slot check) s =
      (let d := fecDecode (fecJoin flits slot check)
       let u := (s.fecCount p d).evalCount p lane d
       .next (match d with | some (m, _) => rxIdle p.val 0 (fecFlits m) u | none => u)) := by
  change execFecBlock p lane flits slot check s = _
  simp only [execFecBlock, hactive, Bool.false_eq_true, if_false] <;> rfl

/-! ## A replay (R357, R358) -/

section

variable (s : State) (p : Nat)

@[simp] theorem link_setLink_same (l : Link) : (s.setLink p l).link p = l := mget_mset_same _ _ _ _

theorem link_setLink_other {q : Nat} (l : Link) (h : q ≠ p) : (s.setLink p l).link q = s.link q := mget_mset_other _ _ _ h

@[simp] theorem setLink_setLink_link (l l' : Link) : ((s.setLink p l).setLink p l').link p = l' := link_setLink_same _ _ _

@[simp] theorem reg_setLink (l : Link) (k : Key) : (s.setLink p l).reg k = s.reg k := rfl

@[simp] theorem get_setLink (l : Link) (f : Fld) : (s.setLink p l).get f = s.get f := rfl

@[simp] theorem reg_emitBlock (slot : Nat) (fl : List Flit) (k : Key) : (s.emitBlock p slot fl).reg k = s.reg k := rfl

@[simp] theorem link_emit (o : Out) (q : Nat) : (s.emit o).link q = s.link q := rfl

@[simp] theorem link_emitBlock (slot : Nat) (fl : List Flit) :
    (s.emitBlock p slot fl).link p = { s.link p with sent := (s.link p).sent + 1 } := by
  rw [State.emitBlock, link_emit, link_setLink_same]

theorem laneOf_eq {t : State} (h : t.reg (PORT_STATUS p) = s.reg (PORT_STATUS p)) (n : Nat) : t.laneOf p n = s.laneOf p n := by
  have hlanes : t.get (PORT_STATUS_LANES p) = s.get (PORT_STATUS_LANES p) := by
    unfold State.get
    rw [show (PORT_STATUS_LANES p).key = PORT_STATUS p from rfl, h]
  unfold State.laneOf
  rw [hlanes]

/-- Blocks emitted one after another. -/
def State.emitBlocks (bs : List TxBlock) : State := bs.foldl (fun s b => s.emitBlock p b.slot b.flits) s

theorem reg_emitBlocks (bs : List TxBlock) (k : Key) : (s.emitBlocks p bs).reg k = s.reg k :=
  List.foldlRecOn (motive := fun t : State => t.reg k = s.reg k) bs _ rfl fun _ ht _ _ => (reg_emitBlock _ _ _ _ k).trans ht

theorem emitBlocks_mems (bs : List TxBlock) : (s.emitBlocks p bs).mems = s.mems :=
  foldl_mems s _ _ fun t b => emitBlock_mems t p b.slot b.flits

/-- Each block moves the count of blocks sent, and nothing else of the link. -/
theorem link_emitBlocks (bs : List TxBlock) :
    (s.emitBlocks p bs).link p = { s.link p with sent := (s.link p).sent + bs.length } := by
  induction bs generalizing s with
  | nil => rfl
  | cons b r ih =>
    rw [State.emitBlocks, List.foldl_cons, ← State.emitBlocks, ih, link_emitBlock, List.length_cons, Nat.add_assoc,
      Nat.add_comm 1]

/-- The blocks go out on the lanes in turn. -/
theorem out_emitBlocks (bs : List TxBlock) : (s.emitBlocks p bs).out = s.out ++ bs.mapIdx (fun i (b : TxBlock) =>
    Out.block p (s.laneOf p ((s.link p).sent + i)) (fecEncode b.flits b.slot)) := by
  induction bs generalizing s with
  | nil => exact (List.append_nil _).symm
  | cons b r ih =>
    have hlane : ∀ n, (s.emitBlock p b.slot b.flits).laneOf p n = s.laneOf p n := fun n => laneOf_eq s p rfl n
    have hout : (s.emitBlock p b.slot b.flits).out =
        s.out ++ [Out.block p (s.laneOf p (s.link p).sent) (fecEncode b.flits b.slot)] := rfl
    rw [State.emitBlocks, List.foldl_cons, ← State.emitBlocks, ih, hout, link_emitBlock, List.mapIdx_cons,
      List.append_assoc, List.singleton_append]
    simp only [hlane, Nat.add_assoc, Nat.add_comm 1, Nat.add_zero]

end

/-! ## A stomped packet (R368) -/

theorem get_stomped_flag (s : State) (p : Nat) : (s.stomped p).get (PORT_STATUS_STOMP p) = 1 :=
  get_put_bit _ _ (by decide) (by decide)

theorem stomped_onlyRegs (s : State) (p : Nat) : OnlyRegs s (s.stomped p) [PORT_STOMP_COUNT p, PORT_STATUS p] :=
  ((OnlyRegs.refl s _).bump (.head _)).put _ (.tail _ (.head _))

theorem reg_stomped_count (s : State) (p : Nat) : (s.stomped p).reg (PORT_STOMP_COUNT p) = s.reg (PORT_STOMP_COUNT p) + 1 := by
  rw [State.stomped, State.flag, reg_put_other _ _ (Key.ne_of_id rfl), reg_bump_same]

/-- An event of a link in service drops it, with its cause (R366). -/
theorem linkEvent_active {s : State} {p : Nat} (h : s.active p = true) (cause : Nat) {seen : Bool} (hseen : seen = true) :
    s.linkEvent p cause seen = s.dropLink p cause := by
  rw [State.linkEvent, if_pos h, if_pos hseen]

/-- Settles O30: each clause is the branch of its command that the premises pick. -/
theorem linkReception : Obligations.LinkReception := by
  unfold Obligations.LinkReception
  refine ⟨fun p lane flits slot check s => ?service, fun p lane flits slot check s h => exec_fecBlock_idle h lane flits slot check,
    fun p s n hback => ?replay, fun p s hactive => ?drops, fun p s rest hstomp => ?stomp, fun u present s hsensed => ?lsu⟩
  case service =>
    intro d u l hactive hlane
    have hexec := exec_fecBlock_active hactive hlane flits slot check
    refine ⟨fun m k hd hseq hok => ?_, fun h => ?_, fun m k hd hseq hbad => ?_⟩
    · rw [hexec, takeBlock_good hd hseq hok]
    · rw [hexec, takeBlock_bad h]
    · rw [hexec, takeBlock_out_of_order hd hseq hbad]
  case replay =>
    intro l keep again
    let t₀ := (s.setLink p.val { l with goBack := none, unacked := keep ++ again }).bumpBy (PORT_REPLAY_COUNT p) again.length
    have hlink : t₀.link p.val = { l with goBack := none, unacked := keep ++ again } := link_setLink_same s p.val _
    have hlane : ∀ n, t₀.laneOf p.val n = s.laneOf p.val n :=
      laneOf_eq s p.val ((reg_bumpBy_other _ _ (Key.ne_of_id rfl)).trans (reg_setLink _ _ _ _))
    refine ⟨t₀.emitBlocks p.val again, ?_, ?_, ?_, fun k hk => ?_, ?_⟩
    · change execLinkReplay p s = _
      simp only [execLinkReplay, hback]
      rfl
    · rw [out_emitBlocks, hlink]
      simp only [hlane]
      rfl
    · rw [link_emitBlocks, hlink]
    · rw [reg_emitBlocks, reg_bumpBy_other _ _ fun e => hk (List.mem_singleton.2 e), reg_setLink]
    · rw [sameMem_iff_mems, emitBlocks_mems, bumpBy_mems, setLink_mems]
  case drops =>
    refine ⟨fun hunacked => ?_, ?_, fun hbeat => ?_⟩
    · exact congrArg _ (linkEvent_active hactive 4 (by simpa using hunacked))
    · exact congrArg _ (linkEvent_active hactive 1 rfl)
    · exact congrArg _ (linkEvent_active hactive 2 (decide_eq_true hbeat))
  case stomp =>
    let u : State := { s with xb := { s.xb with rx := mset [] s.xb.rx p.val rest } }
    have hu : ∀ k, u.reg k = s.reg k := fun _ => rfl
    have hframe := stomped_onlyRegs u p.val
    refine ⟨u.stomped p.val, ?_, ?_, get_stomped_flag u p.val, ?_, fun k hk => (hframe.reg_eq hk).trans (hu k), ?_⟩
    · change execStomp p s = _
      simp only [execStomp, State.takeRx, hstomp, Option.map_some]
      rfl
    · exact (congrArg (fun x : State => mget [] x.xb.rx p.val) hframe.1 :).trans (mget_mset_same _ _ _ _)
    · rw [reg_stomped_count, reg_bump_same, hu]
    · exact sameMem_iff_mems.2 hframe.mems_eq
  case lsu =>
    exact ⟨if_pos hsensed, if_pos hsensed⟩

end Sys2Proof.Machine
end

section
/-! O39: a system reset ends the monitor's memory access that is in progress, so it says more than the level of `RESET_N`. -/

namespace Sys2Proof.Machine

/-- What a state has sent, as a length. -/
def SentUpTo (n : Nat) (t : State) : Prop := t.out.length = n

theorem SentUpTo.of_out {n : Nat} {t u : State} (e : t.out = u.out) (h : SentUpTo n u) : SentUpTo n t := by
  unfold SentUpTo
  rwa [e]

theorem SentUpTo.showPin {n : Nat} {t : State} (p : OutPin) (h : SentUpTo n t) : SentUpTo (n + 1) (t.showPin p) := by
  have hout : (t.showPin p).out = t.out ++ [.pin (pinName p) (t.pinLevel p)] := rfl
  unfold SentUpTo at h ⊢
  rw [hout, List.length_append, h, List.length_singleton]

@[simp] theorem afterClear_out (s : State) : s.afterClear.out = s.out := by
  unfold State.afterClear
  exact (List.foldlRecOn (motive := fun t => t.out = ((s.wr (POOL_FREE 0) (s.poolSize 0)).wr (POOL_LOW_MARK 0)
    ((s.wr (POOL_FREE 0) (s.poolSize 0)).poolSize 0)).out) _ _ rfl fun t ht x _ => (put_out t _ _).trans ht).trans
      ((wr_out _ _ _).trans (wr_out _ _ _))

@[simp] theorem cutFlash_out (s : State) : s.cutFlash.out = s.out := by
  have hflash : ∀ (c : Bool), (if c = true then { s with pa := { s.pa with flash := some [] } } else s : State).out = s.out := by
    intro c; cases c <;> rfl
  unfold State.cutFlash
  extract_lets pa t
  have ht : t.out = s.out := hflash _
  split
  · exact ht
  · show (if _ then _ else _ : State).out = s.out
    split
    · exact ht
    · exact ht

/-- A system reset sends what ends the monitor's access, and then one level of a pin. -/
theorem execSystemReset_out {s : State} (hpor : s.rs.por = false) (hlevel : s.rs.level ≠ 2) :
    OkR (SentUpTo (s.endIkio.out.length + 1)) (execSystemReset s) := by
  have hrun : ¬ (s.rs.por = true ∨ s.rs.level = 2) := by simp [hpor, hlevel]
  unfold execSystemReset
  rw [if_neg hrun]
  refine .showPin .resetN (.of_out (put_out _ _ _) (.of_out (put_out _ _ _) (.of_out (flag_out _ _) (.of_out (put_out _ _ _)
    (.of_out (afterClear_out _) (.of_out (put_out _ _ _) (.of_out rfl ?_)))))))
  exact congrArg List.length (cutFlash_out s.endIkio)

/-- A module out of reset whose monitor waits for a read of memory. -/
def ikioReading : State := { rs := { por := false, ikio := some { write := false, waiting := 1, got := [], fail := none } } }

/-- Refutes O39: a system reset during a memory access of the monitor first says the access's last line (`State.endIkio`),
where the part of the statement on a system reset has it send the level of `RESET_N` and nothing else. -/
theorem not_resets : ¬ Obligations.Resets := by
  unfold Obligations.Resets
  intro h
  obtain ⟨-, -, -, hsys, -⟩ := h
  obtain ⟨t, ht, -, -, -, -, -, -, -, -, -, -, -, -, hout, -⟩ := hsys ikioReading rfl (by decide)
  have hsent : t.out.length = 2 := (execSystemReset_out (s := ikioReading) rfl (by decide)).of_next ht
  rw [hout] at hsent
  exact absurd hsent (by decide)

end Sys2Proof.Machine
end

section
/-! O46 to O48, the step and the state after reset, and O55, the checks of a mailbox command. -/

namespace Sys2Proof.Machine

/-- Settles O46: the step is defined on the front of the queue. -/
theorem stepRunsFrontCommand : Obligations.StepRunsFrontCommand := by
  unfold Obligations.StepRunsFrontCommand
  intro c rest s
  rfl

/-- Settles O47, by the empty queue's case of the step. -/
theorem idleOnEmptyQueue : Obligations.IdleOnEmptyQueue := by
  unfold Obligations.IdleOnEmptyQueue
  intro s h
  unfold step
  rw [h]

theorem reset_reg (k : Key) : State.reset.reg k = porWord k.id k.idx := rfl

/-- Nothing is listed in a memory after reset, so every byte reads 0. -/
theorem reset_hbmRead (a n : Nat) : State.reset.hbmRead a n = List.replicate n 0 := by
  unfold State.hbmRead readBytes
  exact List.eq_replicate_iff.2 ⟨by simp, fun b hb => by
    obtain ⟨i, -, rfl⟩ := List.mem_map.1 hb
    rfl⟩

/-- Settles O48: after reset nothing is stored, so every register and every byte reads its power-on value. -/
theorem resetState : Obligations.ResetState := by
  unfold Obligations.ResetState
  have hwf : State.reset.WF := ⟨by decide, by decide, by decide, by decide, by decide, by decide⟩
  exact ⟨rfl, rfl, rfl, hwf, reset_reg, reset_hbmRead, rfl, rfl, rfl, rfl, by decide, by decide, by decide, by decide, by decide,
    by decide, by decide, by decide, by decide, by decide, by decide⟩

/-! ## The checks (R394, R512) -/

section
variable {s : State} {c : MbSpec} {m : Nat} {valid : Bool}

theorem units_all_iff : c.units.all s.on = true ↔ ∀ u ∈ c.units, s.on u = true := List.all_eq_true

/-- The checks of R394 as one chain of propositions. -/
theorem mbCheck_eq : s.mbCheck c m valid =
    if s.get (MB_STATUS_VER_MAJOR m) = 0 ∧ c.opcode ≠ 1 then some (stSTATE_CONFLICT, scNO_HELLO)
    else if s.get (MB_STATUS_VER_MAJOR m) ≠ 0 ∧ s.get (MB_STATUS_VER_MINOR m) < c.minor then some (stVERSION, 0)
    else if m < 32 ∧ (c.tenant = false ∨ c.naming = true ∧ bits (s.cmd m 1) 4 0 ≠ m) then some (stACCESS_DENIED, 0)
    else if m < 32 ∧ s.partActive m = false ∧ s.closing m = false then some (stSTATE_CONFLICT, scPART_INACTIVE)
    else if ¬ (c.need ≤ s.cmdLen m ∧ s.cmdLen m ≤ 223 ∧ valid = true) then some (stACCESS_DENIED, 0)
    else if ¬ (∀ u ∈ c.units, s.on u = true) then some (stSTATE_CONFLICT, scUNIT_ABSENT)
    else if s.rs.core = true ∧ c.kept = false then some (stSTATE_CONFLICT, scCORE_RESET)
    else if s.rs.wait ≠ none ∨ s.phase < (if m < 32 then 9 else c.ready) then some (stSTATE_CONFLICT, scBRINGUP)
    else none := by
  unfold State.mbCheck
  simp only [Bool.not_eq_true', not_and_or, ← Bool.not_eq_true, ← units_all_iff, Option.isSome_iff_ne_none, and_assoc,
    Bool.and_eq_true, decide_eq_true_iff, beq_iff_eq, ne_eq]

/-- The partition of mailbox `m` takes commands, or the mailbox is the primary one. -/
abbrev State.mbLive (s : State) (m : Nat) : Prop := 32 ≤ m ∨ s.partActive m = true ∨ s.closing m = true

/-- The command of mailbox `m` is one that the mailbox may give. -/
abbrev MbSpec.mineAt (c : MbSpec) (s : State) (m : Nat) : Prop :=
  32 ≤ m ∨ c.tenant = true ∧ (c.naming = false ∨ bits (s.cmd m 1) 4 0 = m)

theorem not_denied (h : c.mineAt s m) : ¬ (m < 32 ∧ (c.tenant = false ∨ c.naming = true ∧ bits (s.cmd m 1) 4 0 ≠ m)) := by
  rcases h with h | ⟨ht, hn | hn⟩
  · omega
  · simp [ht, hn]
  · simp [ht, hn]

theorem denied_of_not_mineAt (h : ¬ c.mineAt s m) : m < 32 ∧ (c.tenant = false ∨ c.naming = true ∧ bits (s.cmd m 1) 4 0 ≠ m) := by
  simp only [MbSpec.mineAt, not_or, not_and_or, not_le, Bool.not_eq_true, Bool.not_eq_false] at h
  exact h

theorem not_inactive (h : s.mbLive m) : ¬ (m < 32 ∧ s.partActive m = false ∧ s.closing m = false) := by
  rcases h with h | h | h
  · omega
  · simp [h]
  · simp [h]

theorem inactive_of_not_mbLive (h : ¬ s.mbLive m) : m < 32 ∧ s.partActive m = false ∧ s.closing m = false := by
  simpa only [State.mbLive, not_or, not_le, Bool.not_eq_true] using h

end

/-- A command that passes every check but the last completes with `BRINGUP` (R512). -/
theorem mbCheck_bringup {s : State} {c : MbSpec} {m : Nat} {valid : Bool} (hver : s.get (MB_STATUS_VER_MAJOR m) ≠ 0 ∨ c.opcode = 1)
    (hminor : s.get (MB_STATUS_VER_MAJOR m) ≠ 0 → c.minor ≤ s.get (MB_STATUS_VER_MINOR m)) (hmine : c.mineAt s m) (hlive : s.mbLive m)
    (hgood : c.need ≤ s.cmdLen m ∧ s.cmdLen m ≤ 223 ∧ valid = true) (hunits : ∀ u ∈ c.units, s.on u = true)
    (hcore : s.rs.core = true → c.kept = true) :
    s.mbCheck c m valid = if s.rs.wait ≠ none ∨ s.phase < (if m < 32 then 9 else c.ready) then some (stSTATE_CONFLICT, scBRINGUP)
      else none := by
  rw [mbCheck_eq, if_neg (by tauto), if_neg (fun h => absurd (hminor h.1) (by omega)), if_neg (not_denied hmine),
    if_neg (not_inactive hlive), if_neg (not_not.2 hgood), if_neg (not_not.2 hunits), if_neg (fun h => by simp [hcore h.1] at h)]

/-- Settles O55: the first three parts of each clause say that the earlier checks pass, so the chain of `mbCheck_eq` reaches
the one named. -/
theorem mailboxChecks : Obligations.MailboxChecks := by
  unfold Obligations.MailboxChecks
  refine ⟨fun c m st sc valid body s hbusy hop hrun hheld hbulk hturn hcheck => ?_, fun c m valid s => ?_, fun m s hbusy hrun hheld
    hturn hop hneed hlen hlive hphase => ?_, fun m s hbusy hrun hheld hturn hop hneed hlen hver hlive hphase => ?_,
    fun m s hbusy hrun hheld hturn hop hneed hlen hver hm hp hon hphase => ?_⟩
  · exact congrArg Host.Outcome.next (mbRun_refused body st sc hbusy hop hrun hheld hbulk hturn hcheck)
  · intro hello negotiated mine good minor present from_ active
    refine ⟨fun hn hh => ?_, fun hn hv => ?_, fun hver hv hmine => ?_, fun hver hv hmine hlive => ?_,
      fun hver hv hmine hlive hgood => ?_, fun hver hv hmine hlive hgood habs => ?_,
      fun hver hv hmine hlive hgood hunits hcore hkept => ?_, fun hver hv hmine hlive hgood hunits hcore hlate => ?_,
      fun hver hv hmine hlive hgood hunits hcore hphase hwait => ?_⟩
    · rw [mbCheck_eq, if_pos ⟨not_not.1 hn, hh⟩]
    · have hlt : s.get (MB_STATUS_VER_MINOR m) < c.minor := by
        by_contra hle
        exact hv fun _ => not_lt.1 hle
      rw [mbCheck_eq, if_neg (fun h => hn h.1), if_pos ⟨hn, hlt⟩]
    · rw [mbCheck_eq, if_neg (by tauto), if_neg (fun h => absurd (hv h.1) (by omega)), if_pos (denied_of_not_mineAt hmine)]
    · rw [mbCheck_eq, if_neg (by tauto), if_neg (fun h => absurd (hv h.1) (by omega)), if_neg (not_denied hmine),
        if_pos (inactive_of_not_mbLive hlive)]
    · rw [mbCheck_eq, if_neg (by tauto), if_neg (fun h => absurd (hv h.1) (by omega)), if_neg (not_denied hmine),
        if_neg (not_inactive hlive), if_pos hgood]
    · rw [mbCheck_eq, if_neg (by tauto), if_neg (fun h => absurd (hv h.1) (by omega)), if_neg (not_denied hmine),
        if_neg (not_inactive hlive), if_neg (not_not.2 hgood), if_pos]
      obtain ⟨u, hu, hoff⟩ := habs
      exact fun h => Bool.false_ne_true (hoff.symm.trans (h u hu))
    · rw [mbCheck_eq, if_neg (by tauto), if_neg (fun h => absurd (hv h.1) (by omega)), if_neg (not_denied hmine),
        if_neg (not_inactive hlive), if_neg (not_not.2 hgood), if_neg (not_not.2 hunits), if_pos ⟨hcore, hkept⟩]
    · rw [mbCheck_bringup hver hv hmine hlive hgood hunits hcore, if_pos hlate.symm]
    · rw [mbCheck_bringup hver hv hmine hlive hgood hunits hcore, if_neg (not_or.2 ⟨not_not.2 hwait, not_lt.2 hphase⟩)]
  · refine congrArg Host.Outcome.next (mbRun_refused _ _ _ hbusy hop hrun hheld rfl hturn ?_)
    rw [mbCheck_bringup (.inr rfl) (fun _ => Nat.zero_le _) ?_ ?_ ⟨hneed, hlen, rfl⟩ (by simp) (fun _ => rfl), if_pos (.inr hphase)]
    · exact .inr ⟨rfl, .inl rfl⟩
    · exact hlive.imp_right .inl
  · refine congrArg Host.Outcome.next (mbRun_refused _ _ _ hbusy hop hrun hheld rfl hturn ?_)
    rw [mbCheck_bringup (.inl hver) (fun _ => Nat.zero_le _) ?_ ?_ ⟨hneed, hlen, rfl⟩ (by simp [tenant]) (fun _ => rfl),
      if_pos (.inr hphase)]
    · exact hlive.imp_right fun h => ⟨rfl, .inr h.1⟩
    · exact hlive.imp_right fun h => .inl h.2
  · refine congrArg Host.Outcome.next (mbRun_refused _ _ _ hbusy hop hrun hheld rfl hturn ?_)
    rw [mbCheck_bringup (.inl hver) (fun _ => Nat.zero_le _) (.inl hm) (.inl hm) ⟨hneed, hlen, ?_⟩ ?_ (fun _ => rfl), if_pos (.inr (by rwa [if_neg (not_lt.2 hm)]))]
    · rw [decide_eq_true hp]
      rfl
    · simpa using hon

end Sys2Proof.Machine
end

section
/-! O44, the management target, and O45, the CASK shadow block. -/

namespace Sys2Proof.Machine

/-! ## Registers of different blocks

Each lemma's side condition compares two register numbers, and closes by evaluation. -/

section
variable {s : State} {j k : Key} {f g : Fld}

theorem reg_setReg_of_id (v : Word) (h : Nat.beq j.id k.id = false) : (s.setReg k v).reg j = s.reg j :=
  reg_setReg_other s v (Key.ne_of_id h)
theorem reg_wr_of_id (n : Nat) (h : Nat.beq j.id k.id = false) : (s.wr k n).reg j = s.reg j := reg_setReg_of_id _ h
theorem reg_bump_of_id (h : Nat.beq j.id k.id = false) : (s.bump k).reg j = s.reg j := reg_setReg_of_id _ h
theorem reg_put_of_id (n : Nat) (h : Nat.beq j.id f.key.id = false) : (s.put f n).reg j = s.reg j := reg_setReg_of_id _ h
theorem get_setReg_of_id (v : Word) (h : Nat.beq f.key.id k.id = false) : (s.setReg k v).get f = s.get f := by
  rw [State.get, reg_setReg_of_id v h, State.get]
theorem get_wr_of_id (n : Nat) (h : Nat.beq f.key.id k.id = false) : (s.wr k n).get f = s.get f := get_setReg_of_id _ h
theorem get_bump_of_id (h : Nat.beq f.key.id k.id = false) : (s.bump k).get f = s.get f := get_setReg_of_id _ h
theorem get_put_of_id (n : Nat) (h : Nat.beq g.key.id f.key.id = false) : (s.put f n).get g = s.get g := get_setReg_of_id _ h

/-- Two fields lie in registers of different blocks, or share no bit of their registers. -/
def Fld.apart (f g : Fld) : Bool :=
  !Nat.beq g.key.id f.key.id || (Nat.ble f.lo f.hi && Nat.blt f.hi 64 && (Nat.blt g.hi f.lo || Nat.blt f.hi g.lo))

/-- Setting a field leaves every field apart from it alone. -/
theorem get_put_apart (n : Nat) (h : f.apart g = true) : (s.put f n).get g = s.get g := by
  by_cases hk : g.key = f.key
  · have hid : Nat.beq g.key.id f.key.id = true := by rw [hk, Nat.beq_refl]
    rw [Fld.apart, hid, Bool.not_true, Bool.false_or] at h
    simp only [Bool.and_eq_true, Bool.or_eq_true, Nat.ble_eq, Nat.blt_eq] at h
    obtain ⟨⟨hle, h64⟩, hd⟩ := h
    exact get_put_disjoint s f g n hle h64 hk hd
  · exact get_put_key s n hk

theorem get_flag_apart (h : f.apart g = true) : (s.flag f).get g = s.get g := get_put_apart 1 h

theorem get_put_field {n : Nat} (h : f.lo ≤ f.hi) (h64 : f.hi < 64) (hn : n < 2 ^ (f.hi + 1 - f.lo)) : (s.put f n).get f = n := by
  rw [get_put_same s f n h h64, Nat.mod_eq_of_lt hn]

end

/-! ## Folds over the rows of a register block -/

section
variable {s : State}

/-- A fold of updates that keep a value keeps it. -/
theorem foldl_same {α β : Type} (g : State → β) (f : State → α → State) (l : List α) (hf : ∀ t x, x ∈ l → g (f t x) = g t) :
    g (l.foldl f s) = g s :=
  List.foldlRecOn (motive := fun t => g t = g s) l f rfl fun t ht x hx => (hf t x hx).trans ht

/-- A fold over the rows of a block, each step of which sets its own row's register alone, leaves row `i` as its step set it. -/
theorem reg_foldl_range {n i : Nat} (hi : i < n) (k : Key) (v : Word) (f : State → Nat → State) (hset : ∀ t, (f t i).reg k = v)
    (hother : ∀ t j, j ≠ i → (f t j).reg k = t.reg k) : ((List.range n).foldl f s).reg k = v := by
  induction n with
  | zero => omega
  | succ n ih =>
    rw [List.range_succ, List.foldl_append, List.foldl_cons, List.foldl_nil]
    by_cases h : n = i
    · subst h
      exact hset _
    · rw [hother _ _ h]
      exact ih (by omega)

end

/-! ## The shadow block (R490, R495, R496) -/

section
variable (s : State)

theorem shadow_status (k secs ein eout w7 w8 w9 : Word) : let t := s.shadow (.status k secs ein eout w7 w8 w9)
    t.reg CASK_SECONDS = secs ∧ t.reg CASK_ENERGY_IN = ein ∧ t.reg CASK_ENERGY_OUT = eout ∧ t.reg CASK_INSTANT = w7 ∧
      t.get CASK_POWER_POWER = bits w8 31 0 ∧ t.get CASK_EVENTS_EVENTS = bits w8 63 32 ∧ t.get CASK_STATUS_FLAGS = bits w9 5 0 ∧
      t.get CASK_STATUS_LAST_EVENT = bits w9 31 16 := by
  simp only [State.shadow]
  refine ⟨?_, ?_, ?_, ?_, ?_, ?_, ?_, get_put_field (by decide) (by decide) (bits_lt _ _ _)⟩
  · simp (disch := exact id rfl) only [reg_put_of_id, reg_setReg_of_id, reg_setReg_same]
  · simp (disch := exact id rfl) only [reg_put_of_id, reg_setReg_of_id, reg_setReg_same]
  · simp (disch := exact id rfl) only [reg_put_of_id, reg_setReg_of_id, reg_setReg_same]
  · simp (disch := exact id rfl) only [reg_put_of_id, reg_setReg_same]
  · simp (disch := exact id rfl) only [get_put_of_id]
    exact get_put_field (by decide) (by decide) (bits_lt _ _ _)
  · simp (disch := exact id rfl) only [get_put_of_id]
    exact get_put_field (by decide) (by decide) (bits_lt _ _ _)
  · rw [get_put_disjoint _ CASK_STATUS_LAST_EVENT CASK_STATUS_FLAGS _ (by decide) (by decide) rfl (by decide)]
    exact get_put_field (by decide) (by decide) (bits_lt _ _ _)

theorem shadow_readout (ws : List Word) : let t := s.shadow (.readout ws)
    (∀ w < 24, t.reg (CASK_READOUT w) = wd ws w) ∧ t.reg CASK_READOUT_BEAT = s.reg TIME_BEAT_NOW ∧
      t.get CASK_STATUS_READOUT_VALID = 1 ∧ t.reg CASK_SERIAL = wd ws 1 ∧ t.get CASK_IDENT_FW_ID = bits (wd ws 2) 31 0 ∧
      t.get CASK_IDENT_FW_VER = bits (wd ws 2) 47 32 := by
  simp only [State.shadow]
  have hbeat : ((List.range 24).foldl (fun s w => s.setReg (CASK_READOUT w) (wd ws w)) s).reg TIME_BEAT_NOW = s.reg TIME_BEAT_NOW :=
    foldl_same (fun t => t.reg TIME_BEAT_NOW) _ _ fun t x _ => reg_setReg_other t _ (Key.ne_of_id rfl)
  refine ⟨fun w hw => ?_, ?_, ?_, ?_, ?_, get_put_field (by decide) (by decide) (bits_lt _ _ _)⟩
  · simp (disch := exact id rfl) only [reg_put_of_id, reg_setReg_of_id]
    exact reg_foldl_range hw _ _ _ (fun t => reg_setReg_same t _ _) fun t j hj => reg_setReg_other t _ (Key.ne_of_idx (Ne.symm hj))
  · simp (disch := exact id rfl) only [reg_put_of_id, reg_setReg_of_id, reg_setReg_same, hbeat]
  · simp (disch := exact id rfl) only [get_put_of_id, get_setReg_of_id]
    exact get_put_field (by decide) (by decide) (by decide)
  · simp (disch := exact id rfl) only [reg_put_of_id, reg_setReg_same]
  · rw [get_put_disjoint _ CASK_IDENT_FW_VER CASK_IDENT_FW_ID _ (by decide) (by decide) rfl (by decide)]
    exact get_put_field (by decide) (by decide) (bits_lt _ _ _)

/-- The step of `State.shadow` that shows entry `i` of the log. -/
def State.showLog (l : List (Word × Word)) (s : State) (i : Nat) : State :=
  (s.setReg (CASK_LOG_W0 i) (l.getD i (0, 0)).1).setReg (CASK_LOG_W1 i) (l.getD i (0, 0)).2

theorem reg_showLog_w0 (l : List (Word × Word)) (i : Nat) : (s.showLog l i).reg (CASK_LOG_W0 i) = (l.getD i (0, 0)).1 := by
  rw [State.showLog, reg_setReg_other _ _ (Key.ne_of_id rfl), reg_setReg_same]

theorem reg_showLog_other {k : Key} (l : List (Word × Word)) (i : Nat) (h : k.idx ≠ i) : (s.showLog l i).reg k = s.reg k := by
  rw [State.showLog, reg_setReg_other _ _ (Key.ne_of_idx h), reg_setReg_other _ _ (Key.ne_of_idx h)]

theorem shadow_log (ws : List (Word × Word)) (h : ws.length ≤ 64) : let t := s.shadow (.log ws)
    t.sh.log = some ws ∧ t.sh.cert = s.sh.cert ∧
      ∀ i < 64, t.reg (CASK_LOG_W0 i) = (ws.getD i (0, 0)).1 ∧ t.reg (CASK_LOG_W1 i) = (ws.getD i (0, 0)).2 := by
  have hshadow : s.shadow (.log ws) = (List.range 64).foldl (State.showLog ws) { s with sh := { s.sh with log := some ws } } := by
    simp only [State.shadow, List.take_of_length_le h]
    rfl
  intro t
  have hsh : t.sh = { s.sh with log := some ws } := by
    rw [show t = _ from hshadow]
    exact foldl_same State.sh _ _ fun _ _ _ => rfl
  refine ⟨by rw [hsh], by rw [hsh], fun i hi => ?_⟩
  rw [show t = _ from hshadow]
  exact ⟨reg_foldl_range hi _ _ _ (fun u => reg_showLog_w0 u ws i) fun u j hj => reg_showLog_other u ws j (Ne.symm hj),
    reg_foldl_range hi _ _ _ (fun u => reg_setReg_same _ _ _) fun u j hj => reg_showLog_other u ws j (Ne.symm hj)⟩

end

/-- Settles O45: each kind of frame is one list of register writes to different registers or fields. -/
theorem caskShadow : Obligations.CaskShadow := by
  unfold Obligations.CaskShadow
  refine ⟨fun ok f s h => if_pos h, fun f s hpor hlevel => ?_, shadow_status, shadow_readout, fun s der => ?_, shadow_log, fun s => rfl⟩
  · have hrun : ¬ (s.rs.por = true ∨ s.rs.level = 2) := by simp [hpor, hlevel]
    exact ⟨if_neg hrun, if_neg hrun⟩
  · exact ⟨rfl, get_put_field (by decide) (by decide) (by decide), rfl⟩

/-! ## The two-wire target and the test access port (R534 to R536, R542) -/

section
variable {s : State}

theorem tapTo_of_run (h : s.rs.por = false) (k : Nat) (bs : List Bool) :
    s.tapTo k bs = .next (({ s with rs := { s.rs with tap := k } } : State).emit (.tap bs)) :=
  if_neg (by rw [h]; decide)

theorem freeBits_length (n : Nat) (s : State) : (freeBits n s).1.length = n := by
  induction n generalizing s with
  | zero => rfl
  | succ n ih =>
    simp only [freeBits, List.length_cons]
    rw [ih]

theorem freeBits_regs (n : Nat) (s : State) : (freeBits n s).2.regs = s.regs := by
  induction n generalizing s with
  | zero => rfl
  | succ n ih =>
    simp only [freeBits]
    rw [ih]
    rfl

theorem freeBits_rs (n : Nat) (s : State) : (freeBits n s).2.rs = s.rs := by
  induction n generalizing s with
  | zero => rfl
  | succ n ih =>
    simp only [freeBits]
    rw [ih]
    rfl

end

/-- Settles O44: each command of the target answers its register, and each instruction of the test port selects its own. -/
theorem managementTarget : Obligations.ManagementTarget := by
  unfold Obligations.ManagementTarget
  refine ⟨fun s h => ?_, fun s h => exec_twStatus_of_not_ready h, fun s hpor => ?_, fun s => rfl⟩
  · refine ⟨if_pos h, if_pos h, if_pos h, fun b => if_pos h, if_pos h, fun w => if_pos h, if_pos h, if_pos h, if_pos h, if_pos h,
      if_pos h, fun c n hc => (if_pos h).trans (congrArg Host.Outcome.next (if_neg ?_)), fun c h2 h3 =>
      (if_pos h).trans (congrArg Host.Outcome.next (if_neg (not_or.2 ⟨h2, h3⟩))), rfl⟩
    simpa [twDefined] using hc
  · intro sel
    have hbypass : exec .tapBypass s = .next (sel s 0 [false]) := tapTo_of_run hpor 0 [false]
    refine ⟨hbypass, fun pre => ?_, fun h => (if_pos h).trans (tapTo_of_run hpor 2 _),
      fun h6 hp => if_neg (not_or.2 ⟨by simp [h6], hp⟩), _, tapTo_of_run hpor 3 _, by simp, fun i hi => ?_⟩
    · have hrun : ¬ s.rs.por = true := by simp [hpor]
      refine ⟨{ (freeBits pre.length s).2 with rs := { (freeBits pre.length s).2.rs with scan := pre } }, (freeBits pre.length s).1,
        (if_neg hrun).trans (tapTo_of_run (s := { (freeBits pre.length s).2 with rs := _ }) ?_ 1 _), freeBits_length _ _, rfl,
        freeBits_regs _ _⟩
      show (freeBits pre.length s).2.rs.por = false
      rw [freeBits_rs, hpor]
    · rw [List.getD_eq_getElem _ _ (by simpa using hi), List.getElem_map, List.getElem_range]
      rfl

end Sys2Proof.Machine
end

section
/-! O42, the Cask's own two-wire interface (R482, R483, R485, R488). -/

namespace Sys2Proof.Machine

section
variable (s : State)

/-! ## Means of samples (R485) -/

@[simp] theorem take_snd_ck : s.take.2.ck = s.ck := rfl

@[simp] theorem mean_ck (unit : Nat) (l : List Int) : (s.mean unit l).2.ck = s.ck := (mean_keeps unit l (Keeps.refl true s)).ck rfl

theorem mean_reg (unit : Nat) (l : List Int) (k : Key) : (s.mean unit l).2.reg k = s.reg k := by
  unfold State.mean
  dsimp only
  split <;> rfl

theorem mean_sameMem (unit : Nat) (l : List Int) : SameMem s (s.mean unit l).2 := by
  unfold State.mean
  dsimp only
  split <;> exact ⟨rfl, rfl, rfl, rfl⟩

/-- The mean of equal samples is each of them: there is no part of a unit to round. -/
theorem mean_replicate (n : Nat) (hn : 0 < n) (v : Int) : (s.mean 1 (List.replicate n v)).1 = v := by
  have hne : (List.replicate n v).isEmpty = false := by
    cases n with
    | zero => omega
    | succ n => rfl
  have hpos : (n : Int) ≠ 0 := by omega
  simp only [State.mean, hne, Bool.false_eq_true, if_false, List.length_replicate, List.sum_replicate, nsmul_eq_mul, Nat.cast_one,
    mul_one, Int.mul_emod_right, if_true, add_zero]
  exact Int.mul_ediv_cancel_left v hpos

theorem caskMeans_ck (l : List Sample) : (s.caskMeans l).2.2.ck = s.ck := (caskMeans_keeps l (Keeps.refl true s)).ck rfl

theorem caskMeans_sameRegs (l : List Sample) : SameRegs s (s.caskMeans l).2.2 [] := fun k _ => by
  simp only [State.caskMeans, mean_reg]

theorem caskMeans_sameMem (l : List Sample) : SameMem s (s.caskMeans l).2.2 :=
  (mean_sameMem _ _ _).trans ((mean_sameMem _ _ _).trans (mean_sameMem _ _ _))

theorem ofSigned_lt (n : Nat) (i : Int) : ofSigned n i < 2 ^ n := by
  have hpos : (0 : Int) < ((2 ^ n : Nat) : Int) := by positivity
  have hlt := Int.emod_lt_of_pos i hpos
  have hge := Int.emod_nonneg i hpos.ne'
  unfold ofSigned
  omega

/-- Word 8 of a readout ends with `EVENTS`. -/
theorem caskMeans_events (l : List Sample) : bits (s.caskMeans l).2.1 63 32 = s.ck.eventCount % 2 ^ 32 := by
  simp only [State.caskMeans, mean_ck]
  rw [bits_mkWord_above _ _ _ (by decide) (by decide) (by decide), mkWord, bits_setBits_same _ _ _ _ (by decide) (by decide)]

/-- Word 7 of a readout over equal samples holds their voltage and their current. -/
theorem caskMeans_replicate (n : Nat) (hn : 0 < n) (v : Sample) :
    bits (s.caskMeans (List.replicate n v)).1 31 0 = ofSigned 32 v.mv ∧
      bits (s.caskMeans (List.replicate n v)).1 63 32 = ofSigned 32 v.ma := by
  simp only [State.caskMeans, List.map_replicate, mean_replicate _ n hn]
  refine ⟨bits_mkWord_head _ (by decide) (by decide) (ofSigned_lt 32 _), ?_⟩
  rw [bits_mkWord_above _ _ _ (by decide) (by decide) (by decide)]
  exact bits_mkWord_head _ (by decide) (by decide) (ofSigned_lt 32 _)

/-! ## Answers and writes -/

theorem caskCert_length : caskCert.length = Config.certLen Config.caskKey 4 := by rw [caskCert, List.length_map, List.length_range]

theorem frameBytes_log (c : CaskU) : frameBytes (.log c.logWords) =
    wordsBytes (((c.log ++ List.replicate (64 - c.log.length) (0, 0, 0)).take 64).flatMap
      (fun (e : Nat × Nat × Nat) => [BitVec.ofNat 64 e.2.1, mkWord [(15, 0, e.1), (47, 16, e.2.2)]])) := by
  rw [frameBytes, CaskU.logWords, List.flatMap_map]

theorem takeWords_facts (n : Nat) : (State.takeWords n s).1.length = n ∧ (State.takeWords n s).2.ck = s.ck ∧
    (State.takeWords n s).2.regs = s.regs := by
  induction n generalizing s with
  | zero => exact ⟨rfl, rfl, rfl⟩
  | succ n ih =>
    obtain ⟨hlen, hck, hregs⟩ := ih s.take.2
    exact ⟨congrArg (· + 1) hlen, hck, hregs⟩

end

section
variable {s : State}

theorem caskAnswer_of_running (h : s.ck.running = true) (bs : List Byte) : s.caskAnswer bs = .next (s.emit (.caskWire bs)) :=
  congrArg Host.Outcome.next (if_pos h)

theorem caskAnswer_of_stopped (h : s.ck.running = false) (bs : List Byte) : s.caskAnswer bs = .next s :=
  congrArg Host.Outcome.next (if_neg (by simp [h]))

theorem caskWrite_of_unsealed (h : s.ck.running = true) (ht : s.ck.tamper = true) (hc : s.ck.calEn = true) (f : CaskU → CaskU) :
    s.caskWrite f = .next ((s.setCask (f s.ck)).emit .caskAck) := by
  have hun : s.ck.unsealed = true := by rw [CaskU.unsealed, ht, hc]; rfl
  rw [State.caskWrite, if_pos h, if_pos hun]

theorem caskWrite_of_sealed (h : s.ck.running = true) (hs : ¬ (s.ck.tamper = true ∧ s.ck.calEn = true)) (f : CaskU → CaskU) :
    s.caskWrite f = .next (s.emit .caskAck) := by
  have hun : ¬ s.ck.unsealed = true := by rwa [CaskU.unsealed, Bool.and_eq_true]
  rw [State.caskWrite, if_pos h, if_neg hun]
  rfl

theorem caskWrite_of_stopped (h : s.ck.running = false) (f : CaskU → CaskU) : s.caskWrite f = .next s :=
  congrArg Host.Outcome.next (if_neg (by simp [h]))

/-- A calibration word that is taken (R482). -/
theorem execCaskCalWrite_of_unsealed (h : s.ck.running = true) (ht : s.ck.tamper = true) (hc : s.ck.calEn = true) (a : Fin 8) (v : Word) :
    execCaskCalWrite a v s =
      .next ((s.setCask (({ s.ck with cal := mset 0 s.ck.cal a.val v } : CaskU).logEvent 5 true)).emit .caskAck) :=
  caskWrite_of_unsealed h ht hc _

theorem execCaskCalWrite_of_sealed (h : s.ck.running = true) (hs : ¬ (s.ck.tamper = true ∧ s.ck.calEn = true)) (a : Fin 8) (v : Word) :
    execCaskCalWrite a v s = .next (s.emit .caskAck) := caskWrite_of_sealed h hs _

/-- An image's blocks so far, with one more. -/
def CaskU.staged (c : CaskU) (block : List Byte) : List Byte := c.stage ++ (block ++ List.replicate 256 0).take 256

theorem execCaskFwUpdate_block (h : s.ck.running = true) (ht : s.ck.tamper = true) (hc : s.ck.calEn = true) (block : List Byte) :
    execCaskFwUpdate false block s = .next ((s.setCask { s.ck with stage := s.ck.staged block }).emit .caskAck) :=
  caskWrite_of_unsealed h ht hc _

theorem execCaskFwUpdate_last (h : s.ck.running = true) (ht : s.ck.tamper = true) (hc : s.ck.calEn = true) (block : List Byte) :
    execCaskFwUpdate true block s = .next ((s.setCask (if caskFwOk (s.ck.staged block)
      then ({ s.ck with stage := [], fwImage := s.ck.staged block, fwVer := Config.caskFwVer (s.ck.staged block) % 65536 } : CaskU).logEvent 6 true
      else { s.ck with stage := [] })).emit .caskAck) :=
  caskWrite_of_unsealed h ht hc _

theorem execCaskFwUpdate_of_sealed (h : s.ck.running = true) (hs : ¬ (s.ck.tamper = true ∧ s.ck.calEn = true)) (last : Bool)
    (block : List Byte) : execCaskFwUpdate last block s = .next (s.emit .caskAck) := caskWrite_of_sealed h hs _

theorem execCaskReadCert_of_running (h : s.ck.running = true) : execCaskReadCert s =
    .next (s.emit (.caskWire (leBytes 2 (Config.certLen Config.caskKey 4) ++
      (List.range (Config.certLen Config.caskKey 4)).map (Config.certByte Config.caskKey 4)))) := by
  rw [execCaskReadCert, caskAnswer_of_running h, caskCert_length, caskCert]

theorem execCaskReadLog_of_running (h : s.ck.running = true) : execCaskReadLog s =
    .next (s.emit (.caskWire (wordsBytes (((s.ck.log ++ List.replicate (64 - s.ck.log.length) (0, 0, 0)).take 64).flatMap
      (fun (e : Nat × Nat × Nat) => [BitVec.ofNat 64 e.2.1, mkWord [(15, 0, e.1), (47, 16, e.2.2)]]))))) := by
  rw [execCaskReadLog, caskAnswer_of_running h, frameBytes_log]

theorem caskTwRead_of_high {a : Fin 32} (ha : 12 ≤ a.val) : execCaskTwRead a s = s.caskAnswer (leBytes 8 0) := by
  obtain ⟨n, hn⟩ : ∃ n, a.val = n + 12 := ⟨a.val - 12, by omega⟩
  unfold execCaskTwRead
  rw [hn]
  rfl

/-- Registers 4 and 5 read the means of the latest samples. -/
theorem caskTwRead_means (h : s.ck.running = true) : let m := s.caskMeans (lastSamples 16 s.ck.window)
    execCaskTwRead 4 s = .next (m.2.2.emit (.caskWire (wordBytes m.1))) ∧
      execCaskTwRead 5 s = .next (m.2.2.emit (.caskWire (wordBytes m.2.1))) := by
  intro m
  have hrun : m.2.2.ck.running = true := by rw [caskMeans_ck, h]
  exact ⟨(if_pos h).trans (caskAnswer_of_running hrun _), (if_pos h).trans (caskAnswer_of_running hrun _)⟩

/-- A Cask without its supply answers no read of a register. -/
theorem caskTwRead_of_stopped (h : s.ck.running = false) (a : Fin 32) : execCaskTwRead a s = .next s := by
  have hoff : ∀ bs, s.caskAnswer bs = .next s := caskAnswer_of_stopped h
  unfold execCaskTwRead
  simp only [h, hoff, Bool.false_eq_true, if_false]
  split <;> rfl

theorem caskReadReadout_of_empty (h : s.ck.running = true) (he : s.ck.readout = []) :
    execCaskReadReadout s = (State.takeWords 24 s).2.caskAnswer (wordsBytes (State.takeWords 24 s).1) := by
  unfold execCaskReadReadout
  rw [if_neg (by simp [h]), if_pos (by simp [he])]

theorem caskReadReadout_of_some (h : s.ck.running = true) (he : s.ck.readout ≠ []) :
    execCaskReadReadout s = .next (s.emit (.caskWire (wordsBytes s.ck.readout))) := by
  unfold execCaskReadReadout
  rw [if_neg (by simp [h]), if_neg (by simpa using he), caskAnswer_of_running h]

end

/-- Settles O42: a read answers its register and writes nothing, and a write reaches the Cask only unsealed. -/
theorem caskInterface : Obligations.CaskInterface := by
  unfold Obligations.CaskInterface
  refine ⟨fun s h => ?_, fun s l => ⟨caskMeans_ck s l, caskMeans_sameRegs s l, caskMeans_sameMem s l, caskMeans_events s l, ?_⟩,
    fun s h => ⟨caskReadReadout_of_some h, fun he => ?_, ?_, ?_, fun a => caskAnswer_of_running h _⟩,
    fun a v s h => ⟨fun ht hc => ?_, fun hs => ?_⟩, fun block s h => ⟨fun ht hc => ⟨?_, ?_⟩, fun last hs => ?_⟩,
    fun i s a b v last im h hi => ?_⟩
  · have hsay : ∀ bs, s.caskAnswer bs = .next (s.emit (.caskWire bs)) := caskAnswer_of_running h
    exact ⟨hsay _, hsay _, hsay _, hsay _, caskTwRead_means h, hsay _, hsay _, hsay _, hsay _, hsay _, hsay _,
      fun a ha => (caskTwRead_of_high ha).trans (hsay _)⟩
  · rintro n v hn rfl
    exact caskMeans_replicate s n hn v
  · obtain ⟨hlen, hck, hregs⟩ := takeWords_facts s 24
    exact ⟨_, _, (caskReadReadout_of_empty h he).trans (caskAnswer_of_running (by rw [hck, h]) _), hlen, hck, hregs⟩
  · exact execCaskReadCert_of_running h
  · exact execCaskReadLog_of_running h
  · exact execCaskCalWrite_of_unsealed h ht hc a v
  · exact execCaskCalWrite_of_sealed h hs a v
  · exact execCaskFwUpdate_block h ht hc block
  · exact execCaskFwUpdate_last h ht hc block
  · exact execCaskFwUpdate_of_sealed h hs last block
  · have hoff : ∀ bs, s.caskAnswer bs = .next s := caskAnswer_of_stopped h
    simp only [List.mem_cons, List.not_mem_nil, or_false] at hi
    rcases hi with rfl | rfl | rfl | rfl | rfl | rfl | rfl
    · exact caskTwRead_of_stopped h a
    · exact if_pos (by simp [h])
    · exact hoff _
    · exact hoff _
    · exact hoff _
    · exact (show execCaskCalWrite b v s = .next s from caskWrite_of_stopped h _)
    · exact (show execCaskFwUpdate last im s = .next s from caskWrite_of_stopped h _)

end Sys2Proof.Machine
end

section
/-! O36, the power governor's events (R451, R458, R541). -/

namespace Sys2Proof.Machine

section
variable {s t : State} {ks : List Key}

theorem OnlyRegs.flag (h : OnlyRegs s t ks) {f : Fld} (hk : f.key ∈ ks) : OnlyRegs s (t.flag f) ks := h.put 1 hk

theorem OnlyRegs.wr (h : OnlyRegs s t ks) {k : Key} (n : Nat) (hk : k ∈ ks) : OnlyRegs s (t.wr k n) ks := h.setReg _ hk

theorem OnlyRegs.pg_eq (h : OnlyRegs s t ks) : t.pg = s.pg := (congrArg State.pg h.1 :)

/-- A flag that was set reads 1. -/
theorem get_flag_same {f : Fld} (h : f.lo ≤ f.hi) (h64 : f.hi < 64) : (s.flag f).get f = 1 :=
  get_put_field h h64 (Nat.one_lt_two_pow (by omega))

/-- A field that was cleared reads 0. -/
theorem get_put_zero {f : Fld} (h : f.lo ≤ f.hi) (h64 : f.hi < 64) : (s.put f 0).get f = 0 := by
  rw [get_put_same s f 0 h h64, Nat.zero_mod]

end

/-! ## Grants (R458) -/

section
variable (s : State)

theorem dropRamp_sameRegs : SameRegs s s.dropRamp [PGOV_STATUS, PGOV_GRANT_SLOPE.key] :=
  (((OnlyRegs.refl (s := { s with pg := { s.pg with grant := none } }) _).put 0 (by simp [PGOV_STATUS_GRANT_ACTIVE])).put 0 (by simp)).2

theorem dropRamp_get_active : s.dropRamp.get PGOV_STATUS_GRANT_ACTIVE = 0 :=
  (get_put_of_id _ rfl).trans (get_put_zero (by decide) (by decide))

/-- What the alert does before it gives the grant back (R451). -/
def State.alerted : State :=
  ((((s.put PGOV_STATUS_THROTTLE (s.get PGOV_CONFIG_ALERT_THROTTLE)).put TUN_STATUS_BALLAST_DUTY 0).flag PGOV_STATUS_ALERT).flag
    PGOV_STATUS_ALERT_SEEN).bump PGOV_ALERT_COUNT

theorem alerted_onlyRegs : OnlyRegs s s.alerted [PGOV_STATUS, TUN_STATUS, PGOV_ALERT_COUNT] :=
  (((((OnlyRegs.refl (s := s) _).put _ (by simp [PGOV_STATUS_THROTTLE])).put _ (by simp [TUN_STATUS_BALLAST_DUTY])).flag
    (by simp [PGOV_STATUS_ALERT])).flag (by simp [PGOV_STATUS_ALERT_SEEN])).bump (by simp)

theorem alerted_throttle : s.alerted.get PGOV_STATUS_THROTTLE = s.get PGOV_CONFIG_ALERT_THROTTLE := by
  rw [State.alerted, get_bump_of_id rfl, get_flag_apart rfl, get_flag_apart rfl, get_put_apart _ rfl]
  exact get_put_field (by decide) (by decide) (bits_lt _ _ _)

theorem alerted_duty : s.alerted.get TUN_STATUS_BALLAST_DUTY = 0 := by
  rw [State.alerted, get_bump_of_id rfl, get_flag_apart rfl, get_flag_apart rfl]
  exact get_put_zero (by decide) (by decide)

theorem alerted_alert : s.alerted.get PGOV_STATUS_ALERT = 1 := by
  rw [State.alerted, get_bump_of_id rfl, get_flag_apart rfl]
  exact get_flag_same (by decide) (by decide)

theorem alerted_seen : s.alerted.get PGOV_STATUS_ALERT_SEEN = 1 := by
  rw [State.alerted, get_bump_of_id rfl]
  exact get_flag_same (by decide) (by decide)

theorem alerted_count : s.alerted.reg PGOV_ALERT_COUNT = (s.bump PGOV_ALERT_COUNT).reg PGOV_ALERT_COUNT := by
  simp (disch := exact id rfl) only [State.alerted, State.flag, reg_bump_same, reg_put_of_id]

/-! ## The end of an alert (R450, R451) -/

/-- `CAP_LAG` shows and counts a lag in the governor's status alone. -/
theorem capLag_onlyRegs : OnlyRegs s s.capLag [PGOV_STATUS, PGOV_CAP_LAG_COUNT] := by
  have hlag := (OnlyRegs.refl (s := s) [PGOV_STATUS, PGOV_CAP_LAG_COUNT]).put (f := PGOV_STATUS_CAP_LAG)
    (b2n (decide (s.capUw < s.get PGOV_POWER_MEASURED * 1000))) (by simp [PGOV_STATUS_CAP_LAG])
  unfold State.capLag
  dsimp only
  split
  · exact (hlag.flag (by simp [PGOV_STATUS_CAP_LAG_SEEN])).bump (by simp)
  · exact hlag

theorem capLag_pg : s.capLag.pg = s.pg := (capLag_onlyRegs s).pg_eq

/-- A new cap outside an alert. -/
theorem setCap_of_no_alert (h : s.on PGOV_STATUS_ALERT = false) (w : Nat) : s.setCap w = (s.put PGOV_CAP_CAP w).capLag :=
  if_neg (by simp [h])

theorem get_capLag_cap (w : Nat) : (s.put PGOV_CAP_CAP w).capLag.get PGOV_CAP_CAP = w % 65536 := by
  rw [(capLag_onlyRegs _).get_eq (by decide)]
  exact get_put_same s _ _ (by decide) (by decide)

/-- The end of an alert with a last draw of `e` µW, before a kept cap takes effect. -/
def State.alertOver (e : Nat) : State := (s.put PGOV_STATUS_ALERT 0).setEnv e

theorem alertOver_pg (e : Nat) : (s.alertOver e).pg = { s.pg with env := e } := rfl

theorem alertOver_alert (e : Nat) : (s.alertOver e).get PGOV_STATUS_ALERT = 0 := by
  have hclear : (s.put PGOV_STATUS_ALERT 0).get PGOV_STATUS_ALERT = 0 := get_put_zero (by decide) (by decide)
  unfold State.alertOver State.setEnv
  rw [get_put_apart _ rfl]
  exact hclear

theorem alertOver_capKept (e : Nat) : (s.alertOver e).pg.capKept = s.pg.capKept := by rw [alertOver_pg]

theorem setEnv_sameMem (e : Nat) : SameMem s (s.setEnv e) :=
  (show SameMem s { s with pg := { s.pg with env := e } } from ⟨rfl, rfl, rfl, rfl⟩).trans (put_sameMem _ _ _)

theorem alertOver_sameMem (e : Nat) : SameMem s (s.alertOver e) := (put_sameMem _ _ _).trans (setEnv_sameMem _ e)

/-- No cap is kept any longer. -/
def State.capTaken : State := { s with pg := { s.pg with capKept := none } }

theorem capTaken_on (f : Fld) : s.capTaken.on f = s.on f := rfl

theorem capTaken_sameMem : SameMem s s.capTaken := ⟨rfl, rfl, rfl, rfl⟩

/-- What the end of an alert does with a kept cap. -/
def State.takeKept (s : State) : State := match s.pg.capKept with | some w => s.capTaken.setCap w | none => s

theorem takeKept_of_none {s : State} (h : s.pg.capKept = none) : s.takeKept = s := by rw [State.takeKept, h]

theorem takeKept_of_some {s : State} {w : Nat} (h : s.pg.capKept = some w) : s.takeKept = s.capTaken.setCap w := by
  rw [State.takeKept, h]

theorem execPwrCapAlertEnd_of_alert {s : State} (h : s.on PGOV_STATUS_ALERT = true) :
    execPwrCapAlertEnd s = .next (s.alertOver (s.get PGOV_POWER_MEASURED * 1000)).takeKept := by
  have hrun : ¬ (!s.on PGOV_STATUS_ALERT) = true := by simp [h]
  unfold execPwrCapAlertEnd
  rw [if_neg hrun]
  change (match (s.alertOver (s.get PGOV_POWER_MEASURED * 1000)).pg.capKept with
    | some w => Host.Outcome.next ((s.alertOver (s.get PGOV_POWER_MEASURED * 1000)).capTaken.setCap w)
    | none => Host.Outcome.next (s.alertOver (s.get PGOV_POWER_MEASURED * 1000))) = _
  generalize s.alertOver (s.get PGOV_POWER_MEASURED * 1000) = u
  unfold State.takeKept
  cases u.pg.capKept <;> rfl

theorem setCap_alertOver (e w : Nat) : (s.alertOver e).capTaken.setCap w = ((s.alertOver e).capTaken.put PGOV_CAP_CAP w).capLag := by
  refine setCap_of_no_alert _ ?_ w
  rw [capTaken_on, State.on, alertOver_alert]
  rfl

/-! ## The junction (R541) -/

variable (v : List (BitVec 16))

theorem le_foldl_max {f : Nat → Int} {l : List Nat} {a b : Int} (h : b ≤ a ∨ ∃ i ∈ l, b ≤ f i) :
    b ≤ l.foldl (fun a i => max a (f i)) a := by
  induction l generalizing a with
  | nil => simpa using h
  | cons i l ih =>
    refine ih ?_
    rcases h with h | ⟨j, hj, h⟩
    · exact .inl (h.trans (le_max_left _ _))
    · rcases List.mem_cons.1 hj with rfl | hj
      · exact .inl (h.trans (le_max_right _ _))
      · exact .inr ⟨j, hj, h⟩

theorem foldl_max_lt {f : Nat → Int} {l : List Nat} {a b : Int} (h : a < b) (hf : ∀ i ∈ l, f i < b) :
    l.foldl (fun a i => max a (f i)) a < b := by
  induction l generalizing a with
  | nil => exact h
  | cons i l ih => exact ih (max_lt h (hf i (by simp))) fun j hj => hf j (by simp [hj])

theorem le_junctionMax {i : Nat} (hi : i < 32) (h : 6400 ≤ s.sensorTemp v i) : 6400 ≤ s.junctionMax v :=
  le_min (by decide) (le_foldl_max (.inr ⟨i, List.mem_range.2 hi, h⟩))

theorem junctionMax_lt (h : ∀ i < 32, s.sensorTemp v i < 6080) : s.junctionMax v < 6080 :=
  lt_of_le_of_lt (min_le_right _ _) (foldl_max_lt (by decide) fun i hi => h i (List.mem_range.1 hi))

/-- What a junction at 100 °C does before it is counted. -/
def State.heated : State := (s.put GLOBAL_THERMAL_JUNCTION_MAX (ofSigned 16 (s.junctionMax v))).flag GLOBAL_THERMAL_HOT

theorem heated_onlyRegs : OnlyRegs s (s.heated v) [GLOBAL_THERMAL, GLOBAL_HOT_COUNT] :=
  ((OnlyRegs.refl (s := s) _).put _ (by simp [GLOBAL_THERMAL_JUNCTION_MAX])).flag (by simp [GLOBAL_THERMAL_HOT])

theorem heated_junction : (s.heated v).get GLOBAL_THERMAL_JUNCTION_MAX = ofSigned 16 (s.junctionMax v) := by
  rw [State.heated, get_flag_apart rfl]
  exact get_put_field (by decide) (by decide) (ofSigned_lt 16 _)

end

/-- Settles O36: each event is a list of writes to fields of the governor's and the thermal registers. -/
theorem powerGovernor : Obligations.PowerGovernor := by
  unfold Obligations.PowerGovernor
  refine ⟨fun s g hg hstop => ?_, fun s q e b hasked hlate => ?_, fun s halert hpor hlevel => ?_, fun s halert => ?_,
    fun v s i hpor hi htemp => ?_, fun v s hhot htemp => ?_⟩
  · have hend : exec .grantEnd s = .next s.dropRamp := by
      change execGrantEnd s = _
      simp only [execGrantEnd, hg, if_pos hstop]
    exact ⟨_, hend, rfl, dropRamp_get_active s, get_put_zero (by decide) (by decide), dropRamp_sameRegs s, rfl, rfl, rfl, rfl⟩
  · let u : State := { s with pg := { s.pg with asked := none, solo := true, askAt := s.edge + s.get PGOV_CONFIG_ARB_WAIT } }
    have hend : exec .arbWaitExpire s = .next ((u.flag PGOV_STATUS_ARB_TIMEOUT).bump PGOV_ARB_TIMEOUT_COUNT) := by
      change execArbWaitExpire s = _
      simp only [execArbWaitExpire, hasked, if_pos hlate, u]
    refine ⟨_, hend, rfl, rfl, rfl, ?_, ?_, ?_, rfl, rfl, rfl, rfl⟩
    · exact (get_bump_of_id rfl).trans (get_flag_same (by decide) (by decide))
    · rw [reg_bump_same, reg_bump_same, State.flag, reg_put_of_id _ rfl]
      rfl
    · exact (((OnlyRegs.refl (s := u) _).flag (by simp [PGOV_STATUS_ARB_TIMEOUT])).bump (by simp)).2
  · have hrun : ¬ (s.on PGOV_STATUS_ALERT = true ∨ s.rs.por = true ∨ s.rs.level = 2) := by simp [halert, hpor, hlevel]
    exact ⟨s.alerted, if_neg hrun, alerted_throttle s, alerted_duty s, alerted_alert s, alerted_seen s, alerted_count s, alerted_onlyRegs s⟩
  · intro e u
    have hend : exec .pwrCapAlertEnd s = .next (s.alertOver e).takeKept := execPwrCapAlertEnd_of_alert halert
    clear_value e
    refine ⟨rfl, alertOver_alert s e, fun hkept => ?_, fun w hkept => ?_⟩
    · rw [takeKept_of_none ((alertOver_capKept s e).trans hkept)] at hend
      exact hend
    · rw [takeKept_of_some ((alertOver_capKept s e).trans hkept), setCap_alertOver] at hend
      exact ⟨_, hend, get_capLag_cap _ w, capLag_pg _, (alertOver_sameMem s e).trans ((capTaken_sameMem _).trans
        ((put_sameMem _ _ _).trans (capLag_onlyRegs _).sameMem))⟩
  · have hrun : ¬ (s.rs.por = true ∨ s.junctionMax v < 6400) := by
      simp [hpor, le_junctionMax s v hi htemp]
    have henter : exec (.hotEnter v) s = .next (if s.on GLOBAL_THERMAL_HOT then s.heated v else (s.heated v).bump GLOBAL_HOT_COUNT) :=
      if_neg hrun
    refine ⟨_, henter, ?_⟩
    have hcount : (s.heated v).reg GLOBAL_HOT_COUNT = s.reg GLOBAL_HOT_COUNT := by
      simp (disch := exact id rfl) only [State.heated, State.flag, reg_put_of_id]
    cases s.on GLOBAL_THERMAL_HOT with
    | true => exact ⟨get_flag_same (by decide) (by decide), heated_junction s v, hcount, heated_onlyRegs s v⟩
    | false =>
      refine ⟨(get_bump_of_id rfl).trans (get_flag_same (by decide) (by decide)), (get_bump_of_id rfl).trans (heated_junction s v), ?_,
        (heated_onlyRegs s v).bump (by simp)⟩
      simp only [Bool.false_eq_true, if_false, reg_bump_same, hcount]
  · have hrun : ¬ ((!s.on GLOBAL_THERMAL_HOT) = true ∨ 6080 ≤ s.junctionMax v) := by
      simp [hhot, junctionMax_lt s v htemp]
    refine ⟨_, if_neg hrun, get_put_zero (by decide) (by decide), ?_,
      ((OnlyRegs.refl (s := s) _).put _ (by simp [GLOBAL_THERMAL_JUNCTION_MAX])).put _ (by simp [GLOBAL_THERMAL_HOT])⟩
    exact (get_put_apart _ rfl).trans (get_put_field (by decide) (by decide) (ofSigned_lt 16 _))

end Sys2Proof.Machine
end

section
/-! O26 and O27, the registers, exceptions and fabric requests of sequencer threads (R327 to R339). -/

namespace Sys2Proof.Machine

section
variable {s : State} {c : Core} {t : Thread}

/-! ## Issuing an instruction that takes its exception -/

/-- A word with a reserved bit set is illegal (R332). -/
theorem fabric_of_reserved (h : s.canIssue c t) {names reserved : Bool} (hn : names = true) (hr : reserved = true)
    (body : State → State) :
    s.fabric c t names reserved body = .next ((s.issued c.val t.val true).seqFault c.val t.val exIllegal) := by
  obtain ⟨hready, hpc⟩ := h
  have hin : ¬ 0x10000 < ((s.issued c.val t.val true).thread c.val t.val).pc + 4 := by
    rw [thread_issued]
    exact Nat.not_lt.2 hpc
  unfold State.fabric
  rw [hn, hr, hready, if_neg (by decide)]
  dsimp only
  rw [if_neg hin, if_pos rfl]

/-! ## CSR instructions (R337) -/

/-- What the instruction makes of the old value. -/
def csrNew (op : CsrOp) (v : Word) (old : Nat) : Nat :=
  (match op with | .rw => v | .rs => BitVec.ofNat 64 old ||| v | .rc => BitVec.ofNat 64 old &&& ~~~v).toNat

theorem csrWrite_of_fetch (hready : s.ready c.val t.val = true) (hpc : 0x10000 < (s.thread c.val t.val).pc + 4) (op : CsrOp)
    (rd : Fin 32) (csr : BitVec 12) (v : Word) :
    execCsrWrite c t op rd csr v s = .next ((s.issued c.val t.val false).seqFault c.val t.val exFetch) := by
  have hout : 0x10000 < ((s.issued c.val t.val false).thread c.val t.val).pc + 4 := by
    rw [thread_issued]
    exact hpc
  unfold execCsrWrite
  dsimp only
  rw [hready, if_neg (by decide), if_pos hout]

/-- An issued CSR instruction, past the fetch. -/
theorem csrWrite_of_canIssue (h : s.canIssue c t) (op : CsrOp) (rd : Fin 32) (csr : BitVec 12) (v : Word) :
    execCsrWrite c t op rd csr v s =
      let s := s.issued c.val t.val false
      let h := s.thread c.val t.val
      let old := (s.csr c.val t.val csr.toNat).getD 0
      let h' := if csr = 0x800 then { h with seqlc := nbits (csrNew op v old) 18 0 }
        else if csr = 0x801 then { h with seqwait := nbits (csrNew op v old) 15 0 } else { h with seqerr := 0 }
      if csr = 0x800 ∨ csr = 0x801 ∨ csr = 0x802 then .next ((s.setThread c.val t.val h').setGo c.val t.val rd.val old (h'.pc + 4))
      else .next (s.seqFault c.val t.val exIllegal) := by
  obtain ⟨hready, hpc⟩ := h
  have hin : ¬ 0x10000 < ((s.issued c.val t.val false).thread c.val t.val).pc + 4 := by
    rw [thread_issued]
    exact Nat.not_lt.2 hpc
  unfold execCsrWrite
  dsimp only
  rw [hready, if_neg (by decide), if_neg hin]
  rfl

/-! ## Exceptions (R329) -/

/-- An exception as recorded and counted, before the thread halts. -/
def State.faultShown (s : State) (c t cause : Nat) : State :=
  ((s.setReg SEQ_FAULT_INFO (mkWord [(49, 32, (s.thread c t).pc), (26, 22, t), (21, 12, c), (7, 0, cause)])).flag
    SEQ_STATUS_FAULT).bump SEQ_FAULT_COUNT

theorem seqFault_eq (c t cause : Nat) : s.seqFault c t cause = (s.faultShown c t cause).haltThread c t := rfl

theorem faultShown_onlyRegs (c t cause : Nat) :
    OnlyRegs s (s.faultShown c t cause) [SEQ_FAULT_INFO, SEQ_STATUS, SEQ_FAULT_COUNT] :=
  (((OnlyRegs.refl (s := s) _).setReg _ (by simp)).flag (by simp [SEQ_STATUS_FAULT])).bump (by simp)

theorem not_mem_coreState {k : Key} {c : Nat} (h : Nat.beq k.id (SEQ_CORE_STATE c).id = false) : k ∉ [SEQ_CORE_STATE c] :=
  fun hk => Key.ne_of_id h (List.mem_singleton.1 hk)

end

/-- Settles O26: a CSR instruction is its equation, and an exception is recorded before the thread halts. -/
theorem sequencerRegisters : Obligations.SequencerRegisters := by
  unfold Obligations.SequencerRegisters
  refine ⟨fun h v r k => ⟨rfl, rfl, fun hr hv => ?_, fun hk => x_setX_other h v (Ne.symm hk)⟩, fun c t op rd csr v r hcan => ?_,
    fun c t i r hcan hop hf3 hrd => ?_, fun c t r hready hpc op rd csr v => csrWrite_of_fetch hready hpc op rd csr v,
    fun c t cause s hrun => ?_⟩
  · rw [x_setX_same h v hr.ne', Nat.mod_eq_of_lt hv]
  · have heq := csrWrite_of_canIssue hcan op rd csr v
    intro s h new
    refine ⟨fun hc => ?_, fun hc => ?_, fun hc => ?_, fun hc => ?_⟩
    · subst hc
      exact heq.trans (if_pos (.inl rfl))
    · subst hc
      exact heq.trans (if_pos (.inr (.inl rfl)))
    · subst hc
      exact heq.trans (if_pos (.inr (.inr rfl)))
    · exact heq.trans (if_neg (by simpa using hc))
  · change execHalt c t i r = _
    rw [execHalt, fabric_of_reserved hcan (named hop hf3) (by simp [hrd])]
  · refine ⟨s.seqFault c.val t.val cause.toNat, if_pos hrun, thread_haltThread_running _ _ _, ?_, ?_, ?_, fun k hk => ?_, ?_⟩
    · rw [seqFault_eq, haltThread_sameRegs _ _ _ _ (not_mem_coreState rfl), State.faultShown]
      simp (disch := exact id rfl) only [State.flag, reg_bump_of_id, reg_put_of_id, reg_setReg_same]
    · rw [seqFault_eq, State.get, haltThread_sameRegs _ _ _ _ (not_mem_coreState rfl), ← State.get, State.faultShown,
        get_bump_of_id rfl]
      exact get_flag_same (by decide) (by decide)
    · rw [seqFault_eq, haltThread_sameRegs _ _ _ _ (not_mem_coreState rfl), State.faultShown]
      simp (disch := exact id rfl) only [State.flag, reg_bump_same, reg_put_of_id, reg_setReg_of_id]
    · simp only [List.mem_cons, List.not_mem_nil, or_false, not_or] at hk
      obtain ⟨hinfo, hstatus, hcount, hcore⟩ := hk
      rw [seqFault_eq, haltThread_sameRegs _ _ _ _ (by simpa using hcore)]
      exact (faultShown_onlyRegs _ _ _).2 k (by simp [hinfo, hstatus, hcount])
    · rw [seqFault_eq]
      exact (faultShown_onlyRegs _ _ _).sameMem.trans (haltThread_sameMem _ _ _)

/-! ## Requests (R334, R336) -/

section
variable {s : State} {c t rd code : Nat} {f : ReqForm}

theorem seqBlock_of_aligned {al : Bool} (h : al = true) : s.seqBlock c t rd al f =
    (s.setThread c t { (s.thread c t).next4 with nextSeq := (s.thread c t).nextSeq + 1, wait := .reply (s.thread c t).nextSeq rd }).issueThread
      c t f.pkt (.thread c t (s.thread c t).nextSeq) := by
  rw [State.seqBlock, h]
  rfl

theorem seqBlock_of_misaligned {al : Bool} (h : al = false) : s.seqBlock c t rd al f = s.blockEnd c t rd 0 stACCESS_DENIED := by
  rw [State.seqBlock, h]
  rfl

theorem seqPost_of_aligned {al : Bool} (h : al = true) : s.seqPost c t code al f =
    (s.setThread c t { (s.thread c t).next4 with
      nextSeq := (s.thread c t).nextSeq + 1, posted := (s.thread c t).posted ++ [((s.thread c t).nextSeq, code)] }).issueThread
      c t f.pkt (.thread c t (s.thread c t).nextSeq) := by
  rw [State.seqPost, h]
  rfl

theorem seqPost_of_misaligned {al : Bool} (h : al = false) : s.seqPost c t code al f =
    (s.setThread c t { (s.thread c t).next4 with
      nextSeq := (s.thread c t).nextSeq + 1, posted := (s.thread c t).posted ++ [((s.thread c t).nextSeq, code)] }).postedDone
      c t (s.thread c t).nextSeq stACCESS_DENIED := by
  rw [State.seqPost, h]
  rfl

theorem aligned_iff {a n : Nat} (h : a % n = 0) : (a % n == 0) = true := beq_iff_eq.2 h

theorem misaligned_iff {a n : Nat} (h : a % n ≠ 0) : (a % n == 0) = false := beq_eq_false_iff_ne.2 h

theorem dataFault_none {a n : Nat} (ha : a % n = 0) (hlo : 0x10000 ≤ a) (hhi : a + n ≤ 0x30000) : dataFault a n = none := by
  rw [dataFault, if_neg (not_not.2 ha), if_pos ⟨hlo, hhi⟩]

end

section
variable {s : State} {c : Core} {t : Thread}

/-! ## Posting tiles and steps (R338, R339) -/

/-- What `POSTTILE` does with a block of data memory. -/
def State.postTile (s : State) (c t rd : Nat) (ws : List Word) : State :=
  let h := s.thread c t
  let len := wb ws 2 20 0
  let mine := s.tr.queued.filter (fun m => m.mover == c % 64 && (match m.owner with | .thread .. => true | _ => false))
  if (wd ws 0).toNat % 64 ≠ 0 ∨ (wd ws 1).toNat % 64 ≠ 0 ∨ len % 64 ≠ 0 ∨ len < 64 ∨ 0x100000 < len then
    s.setThread c t (h.next4.setX rd stACCESS_DENIED)
  else if 64 ≤ mine.length ∨ s.postFull c t ∨ s.acquired c t = false then s
  else
    let m := newMove (c % 64) (s.corePart c) (wd ws 0) (wd ws 1) len (s.seqTc c (bit (wd ws 2) 21)) (bit (wd ws 2) 41)
      (bit (wd ws 2) 42) (wb ws 2 40 24) (.thread c t h.nextSeq)
    ({ s with tr := { s.tr with queued := s.tr.queued ++ [m] } } : State).setThread c t
      { (h.next4.setX rd 0) with nextSeq := h.nextSeq + 1, posted := h.posted ++ [(h.nextSeq, 2)] }

/-- The block names a move of whole lines, from 64 bytes to 1 MiB (R338). -/
def tileGood (ws : List Word) (len : Nat) : Prop :=
  (wd ws 0).toNat % 64 = 0 ∧ (wd ws 1).toNat % 64 = 0 ∧ len % 64 = 0 ∧ 64 ≤ len ∧ len ≤ 0x100000

theorem not_tileGood_iff (ws : List Word) (len : Nat) : ¬ tileGood ws len ↔
    ((wd ws 0).toNat % 64 ≠ 0 ∨ (wd ws 1).toNat % 64 ≠ 0 ∨ len % 64 ≠ 0 ∨ len < 64 ∨ 0x100000 < len) := by
  simp only [tileGood, not_and_or, not_le, ne_eq]

theorem postTile_of_bad {c t rd : Nat} {ws : List Word} (h : ¬ tileGood ws (wb ws 2 20 0)) :
    s.postTile c t rd ws = s.setThread c t ((s.thread c t).next4.setX rd stACCESS_DENIED) := by
  unfold State.postTile
  exact if_pos ((not_tileGood_iff _ _).1 h)

theorem postTile_of_good {c t rd : Nat} {ws : List Word} (h : tileGood ws (wb ws 2 20 0)) (hfull : s.postFull c t = false)
    (hacq : s.acquired c t = true)
    (hroom : (s.tr.queued.filter (fun (m : Move) => m.mover == c % 64 && (match m.owner with | .thread .. => true | _ => false))).length < 64) :
    s.postTile c t rd ws =
      ({ s with tr := { s.tr with queued := s.tr.queued ++ [newMove (c % 64) (s.corePart c) (wd ws 0) (wd ws 1) (wb ws 2 20 0)
        (s.seqTc c (bit (wd ws 2) 21)) (bit (wd ws 2) 41) (bit (wd ws 2) 42) (wb ws 2 40 24) (.thread c t (s.thread c t).nextSeq)] } } : State).setThread
        c t { ((s.thread c t).next4.setX rd 0) with
          nextSeq := (s.thread c t).nextSeq + 1, posted := (s.thread c t).posted ++ [((s.thread c t).nextSeq, 2)] } := by
  unfold State.postTile
  dsimp only
  rw [if_neg fun hbad => (not_tileGood_iff _ _).2 hbad h, if_neg]
  rw [hfull, hacq]
  simp only [not_or, not_le, Bool.false_eq_true, not_false_eq_true, and_true, Bool.true_eq_false]
  exact hroom

theorem posttile_of_canIssue (hcan : s.canIssue c t) {i : BitVec 32} (hop : iOp i = 0x5B) (hf3 : iF3 i = 5) (htop : iTop i = 0)
    (hrs2 : iRs2 i = 0) : let s' := s.issued c.val t.val true
    let a := (s'.thread c.val t.val).x (iRs1 i)
    execPosttile c t i s = .next (match dataFault a 32 with
      | some x => s'.seqFault c.val t.val x
      | none => s'.postTile c.val t.val (iRd i) (bytesWords 4 (readBytes s'.sq.mem (coreBase c.val + a) 32))) := by
  rw [execPosttile, fabric_of_canIssue hcan (named hop hf3) (by simp [htop, hrs2])]
  rfl

/-- What `POSTSTEP` does with a descriptor of data memory, for ring `r` of partition `n`. -/
def State.postStep (s : State) (c t rd n r a : Nat) : State :=
  let prod := s.get (RING_PROD_IDX n r)
  let w := s.locWrite (s.get (RING_BASE_LOC n r)) (s.get (RING_BASE_ADDR n r) * 4096 + 64 * (prod % s.ringSize n r))
    (readBytes s.sq.mem (coreBase c + a) 64)
  if 15 < r ∨ s.on (RING_BASE_EN n r) = false then s.blockEnd c t rd stACCESS_DENIED stACCESS_DENIED
  else if s.acquired c t = false then s
  else if s.ringSize n r ≤ (prod + 2 ^ 32 - s.get (RING_CONS_IDX n r)) % 2 ^ 32 then
    s.blockEnd c t rd stSTATE_CONFLICT stSTATE_CONFLICT
  else if w.1 then ((w.2.put (RING_PROD_IDX n r) (prod + 1)).ringFull n r).blockEnd c t rd 0 0
  else w.2.take.2.blockEnd c t rd (bits w.2.take.1 7 0) (bits w.2.take.1 7 0)

theorem poststep_of_canIssue (hcan : s.canIssue c t) {i : BitVec 32} (hop : iOp i = 0x5B) (hf3 : iF3 i = 6) (htop : iTop i = 0) :
    let s' := s.issued c.val t.val true
    let a := (s'.thread c.val t.val).x (iRs1 i)
    execPoststep c t i s = .next (match dataFault a 64 with
      | some x => s'.seqFault c.val t.val x
      | none => s'.postStep c.val t.val (iRd i) (s'.corePart c.val) ((s'.thread c.val t.val).x (iRs2 i)) a) := by
  rw [execPoststep, fabric_of_canIssue hcan (named hop hf3) (by simp [htop])]
  rfl

theorem dataFault_out {a n : Nat} (ha : a % n = 0) (hout : a < 0x10000 ∨ 0x30000 < a + n) : dataFault a n = some 5 := by
  rw [dataFault, if_neg (not_not.2 ha), if_neg]
  · rfl
  · rw [not_and_or, not_le, not_le]
    exact hout

end

/-- Settles O27: each request is the equation of its instruction, aligned or not. -/
theorem sequencerRequests : Obligations.SequencerRequests := by
  unfold Obligations.SequencerRequests
  refine ⟨fun c t i o hcan hop hf3 hrs2 h28 h30 => ?rld, fun c t i o hcan hop hf3 hrd h30 hfull => ?rst,
    fun c t i o hcan hop hk => ?ramo, fun c t i o hcan hop hf3 htop hrs2 => ?tile, fun c t i o hcan hop hf3 htop => ?step,
    fun a n hn => ⟨fun ha => if_pos ha, fun ha hout => ?_⟩⟩
  case rld =>
    change (_ → execRld c t i o = _) ∧ (_ → execRld c t i o = _)
    rw [execRld, fabric_of_canIssue hcan (by simp [hop, hf3]) (by simp [hrs2, h28, h30])]
    exact ⟨fun ha => congrArg Host.Outcome.next (seqBlock_of_aligned (aligned_iff ha)),
      fun ha => congrArg Host.Outcome.next (seqBlock_of_misaligned (misaligned_iff ha))⟩
  case rst =>
    change (_ → execRst c t i o = _) ∧ (_ → execRst c t i o = _)
    rw [execRst, fabric_of_canIssue hcan (by simp [hop, hf3]) (by simp [hrd, h30])]
    have hroom : ¬ (o.issued c.val t.val true).postFull c.val t.val = true := by
      rw [State.postFull, thread_issued]
      simpa [State.postFull] using hfull
    dsimp only
    rw [if_neg hroom]
    exact ⟨fun ha => congrArg Host.Outcome.next (seqPost_of_aligned (aligned_iff ha)),
      fun ha => congrArg Host.Outcome.next (seqPost_of_misaligned (misaligned_iff ha))⟩
  case ramo =>
    have hrun := fabric_of_canIssue hcan (names := iOp i == 0x2B) (reserved := decide (10 < nbits i.toNat 28 25)) (by simp [hop])
      (by simpa using hk)
    change (_ → _ → execRamo c t i o = _) ∧ (_ → _ → execRamo c t i o = _) ∧ (_ → _ → _ → execRamo c t i o = _) ∧
      (_ → _ → _ → execRamo c t i o = _)
    rw [execRamo, hrun]
    refine ⟨fun hrd ha => congrArg Host.Outcome.next ?_, fun hrd ha => congrArg Host.Outcome.next ?_,
      fun hrd ha hfull => congrArg Host.Outcome.next ?_, fun hrd ha hfull => congrArg Host.Outcome.next ?_⟩
    · exact (if_neg hrd).trans (seqBlock_of_aligned (aligned_iff ha))
    · exact (if_neg hrd).trans (seqBlock_of_misaligned (misaligned_iff ha))
    · exact (if_pos hrd).trans ((if_neg (by simp [hfull])).trans (seqPost_of_aligned (aligned_iff ha)))
    · exact (if_pos hrd).trans ((if_neg (by simp [hfull])).trans (seqPost_of_misaligned (misaligned_iff ha)))
  case tile =>
    intro s h a ws len
    have hrun : exec (.posttile c t i) o = _ := posttile_of_canIssue hcan hop hf3 htop hrs2
    refine ⟨fun x hx => hrun.trans (by rw [hx]), fun ha hlo hhi => ?_⟩
    rw [dataFault_none ha hlo hhi] at hrun
    intro good
    exact ⟨fun hbad => hrun.trans (congrArg Host.Outcome.next (postTile_of_bad hbad)),
      fun hgood hfull hacq hroom => hrun.trans (congrArg Host.Outcome.next (postTile_of_good hgood hfull hacq hroom))⟩
  case step =>
    intro s h a r n prod open_ w
    have hrun : exec (.poststep c t i) o = _ := poststep_of_canIssue hcan hop hf3 htop
    refine ⟨fun x hx => hrun.trans (by rw [hx]), fun ha hlo hhi => ?_⟩
    rw [dataFault_none ha hlo hhi] at hrun
    have hopen : r ≤ 15 → s.on (RING_BASE_EN n r) = true → ¬ (15 < r ∨ s.on (RING_BASE_EN n r) = false) := fun hr hon => by
      rw [hon]
      simpa using hr
    have hacquired : s.acquired c.val t.val = true → ¬ s.acquired c.val t.val = false := fun h => by
      rw [h]
      decide
    refine ⟨fun hbad => hrun.trans (congrArg Host.Outcome.next (if_pos hbad)), fun hr hon hacq hfull => hrun.trans (congrArg Host.Outcome.next ?_),
      fun hr hon hacq hroom hok => hrun.trans (congrArg Host.Outcome.next ?_),
      fun hr hon hacq hroom hbad => ⟨bits w.2.take.1 7 0, bits_lt _ _ _, hrun.trans (congrArg Host.Outcome.next ?_)⟩⟩
    · exact (if_neg (hopen hr hon)).trans ((if_neg (hacquired hacq)).trans (if_pos hfull))
    · exact (if_neg (hopen hr hon)).trans ((if_neg (hacquired hacq)).trans ((if_neg (Nat.not_le.2 hroom)).trans (if_pos hok)))
    · exact (if_neg (hopen hr hon)).trans ((if_neg (hacquired hacq)).trans ((if_neg (Nat.not_le.2 hroom)).trans (if_neg (Bool.eq_false_iff.1 hbad))))
  · exact dataFault_out ha hout

end Sys2Proof.Machine
end

section
/-! O29, the standard instructions of sequencer threads (R329 to R331). An issued instruction is one equation,
`localAccess_of_ready`, and what it does with an operand follows from its arm of `State.localDo`. -/

namespace Sys2Proof.Machine

/-! ## Updates of the sequencers alone -/

/-- Nothing but the sequencers' state may differ. -/
def OnlySeq (s t : State) : Prop := { t with sq := s.sq } = s

section
variable {s t : State}

theorem OnlySeq.reg_eq (h : OnlySeq s t) (k : Key) : t.reg k = s.reg k := (congrArg (fun u : State => u.reg k) h :)

theorem OnlySeq.sameRegs (h : OnlySeq s t) : SameRegs s t [] := fun k _ => h.reg_eq k

theorem OnlySeq.hbm_eq (h : OnlySeq s t) : t.hbm = s.hbm := (congrArg State.hbm h :)

theorem OnlySeq.tu_eq (h : OnlySeq s t) : t.tu = s.tu := (congrArg State.tu h :)

theorem OnlySeq.setThread (h : OnlySeq s t) (c j : Nat) (x : ThreadSt) : OnlySeq s (t.setThread c j x) := h

theorem OnlySeq.setGo (h : OnlySeq s t) (c j rd v pc : Nat) : OnlySeq s (t.setGo c j rd v pc) := h

theorem OnlySeq.goTo (h : OnlySeq s t) (c j pc : Nat) : OnlySeq s (t.goTo c j pc) := h

theorem OnlySeq.issued (h : OnlySeq s t) (c j : Nat) (fabric : Bool) : OnlySeq s (t.issued c j fabric) := h

/-- A write of local memory drops reservations and writes memory. -/
theorem OnlySeq.localWrite (h : OnlySeq s t) (c j a n v : Nat) : OnlySeq s (t.localWrite c j a n v) := by
  unfold State.localWrite
  extract_lets q u
  have hu : OnlySeq s u := h
  clear_value u
  refine List.foldlRecOn (motive := OnlySeq s) _ _ hu fun x hx k _ => ?_
  split
  · split
    · exact hx
    · exact hx
  · exact hx

end

/-! ## Integers -/

theorem toSigned_toNat (n : Nat) (b : BitVec n) : toSigned n b.toNat = b.toInt := by
  have hb := b.isLt
  rw [toSigned, Nat.mod_eq_of_lt hb, BitVec.toInt_eq_toNat_cond]
  cases n with
  | zero => simp [BitVec.eq_nil b]
  | succ n =>
    have hpow : 2 ^ (n + 1) = 2 * 2 ^ n := by rw [Nat.pow_succ, Nat.mul_comm]
    rw [Nat.add_sub_cancel]
    by_cases h : b.toNat < 2 ^ n
    · rw [if_pos h, if_pos (by omega)]
    · rw [if_neg h, if_neg (by omega)]

theorem signExtend_toNat (b : BitVec 12) : (b.signExtend 64).toNat = ofSigned 64 (toSigned 12 b.toNat) := by
  rw [toSigned_toNat, BitVec.signExtend, BitVec.toNat_ofInt, ofSigned]

theorem aluRun_div_zero {a b : Nat} (h : b % 2 ^ 64 = 0) : aluRun .div false a b = 2 ^ 64 - 1 := by
  unfold aluRun aluOp
  rw [if_neg Bool.false_ne_true]
  dsimp only
  rw [if_pos h]

theorem aluRun_remu_zero {a b : Nat} (h : b % 2 ^ 64 = 0) : aluRun .remu false a b = a % 2 ^ 64 := by
  unfold aluRun aluOp
  rw [if_neg Bool.false_ne_true]
  dsimp only
  rw [if_pos h]

/-! ## Faults of a local access (R329, R330) -/

section
variable {a n : Nat}

theorem localFault_of_misaligned (h : a % n ≠ 0) (w : Bool) : localFault a n w = some (if w then exStoreAlign else exLoadAlign) :=
  if_pos h

theorem localFault_write_of_out (h : a % n = 0) (hout : a < 0x10000 ∨ 0x30000 < a + n) : localFault a n true = some exStore := by
  unfold localFault
  rw [if_neg (not_not.2 h), if_pos rfl, if_neg]
  rw [not_and_or, not_le, not_le]
  exact hout

theorem localFault_write_of_in (h : a % n = 0) (hlo : 0x10000 ≤ a) (hhi : a + n ≤ 0x30000) : localFault a n true = none := by
  unfold localFault
  rw [if_neg (not_not.2 h), if_pos rfl, if_pos ⟨hlo, hhi⟩]

theorem localFault_read_of_out (h : a % n = 0) (hout : 0x30000 < a + n) : localFault a n false = some exLoad := by
  unfold localFault
  rw [if_neg (not_not.2 h), if_neg Bool.false_ne_true, if_neg (not_le.2 hout)]

theorem localFault_read_of_in (h : a % n = 0) (hhi : a + n ≤ 0x30000) : localFault a n false = none := by
  unfold localFault
  rw [if_neg (not_not.2 h), if_neg Bool.false_ne_true, if_pos hhi]

end

/-! ## Arms of `State.localDo` -/

section
variable {s : State} {c t step : Nat}

@[simp] theorem setThread_mem (x : ThreadSt) : (s.setThread c t x).sq.mem = s.sq.mem := rfl

@[simp] theorem goTo_mem (pc : Nat) : (s.goTo c t pc).sq.mem = s.sq.mem := rfl

@[simp] theorem setGo_mem (rd v pc : Nat) : (s.setGo c t rd v pc).sq.mem = s.sq.mem := rfl

/-- The registers after an instruction that goes on. -/
theorem x_setGo (rd : Fin 32) (v pc : Nat) (hrd : rd ≠ 0) (hv : v < 2 ^ 64) : ((s.setGo c t rd v pc).thread c t).x rd = v := by
  have hne : rd.val ≠ 0 := fun e => hrd (Fin.ext e)
  have hx : ((s.setGo c t rd v pc).thread c t).x rd = ((s.thread c t).setX rd (x64 v)).x rd := by
    rw [State.setGo, thread_setThread_same]
    rfl
  rw [hx, x_setX_same _ _ hne, x64, Nat.mod_mod, Nat.mod_eq_of_lt hv]

theorem pc_setGo (rd v pc : Nat) : ((s.setGo c t rd v pc).thread c t).pc = x64 pc := by
  rw [State.setGo, thread_setThread_same]

theorem resv_setGo (rd v pc : Nat) : ((s.setGo c t rd v pc).thread c t).resv = (s.thread c t).resv := by
  rw [State.setGo, thread_setThread_same]
  simp only [ThreadSt.setX]
  split <;> rfl

theorem localDo_load {k : Fin 4} {u : Bool} {rd rs1 : Fin 32} {imm : BitVec 12} (hform : ¬ (k.val = 3 ∧ u = true)) :
    s.localDo c t step (.load k u rd rs1 imm) = match localFault (addImm ((s.thread c t).x rs1) 12 imm.toNat) (2 ^ k.val) false with
      | some x => s.seqFault c t x
      | none =>
        let v := s.localRead c (addImm ((s.thread c t).x rs1) 12 imm.toNat) (2 ^ k.val)
        s.setGo c t rd (if u then v else ofSigned 64 (toSigned (8 * 2 ^ k.val) v)) ((s.thread c t).pc + step) := if_neg hform

theorem localDo_store {k : Fin 4} {rs1 rs2 : Fin 32} {imm : BitVec 12} :
    s.localDo c t step (.store k rs1 rs2 imm) = match localFault (addImm ((s.thread c t).x rs1) 12 imm.toNat) (2 ^ k.val) true with
      | some x => s.seqFault c t x
      | none => (s.localWrite c t (addImm ((s.thread c t).x rs1) 12 imm.toNat) (2 ^ k.val) ((s.thread c t).x rs2)).goTo c t
          ((s.thread c t).pc + step) := rfl

theorem localDo_lr {d : Bool} {rd rs1 : Fin 32} :
    s.localDo c t step (.lr d rd rs1) = match localFault ((s.thread c t).x rs1) (if d then 8 else 4) false with
      | some x => s.seqFault c t x
      | none => (s.setThread c t { s.thread c t with resv := some ((s.thread c t).x rs1, if d then 8 else 4) }).setGo c t rd
          (ofSigned 64 (toSigned (8 * (if d then 8 else 4)) (s.localRead c ((s.thread c t).x rs1) (if d then 8 else 4))))
          ((s.thread c t).pc + step) := rfl

theorem localDo_sc {d : Bool} {rd rs1 rs2 : Fin 32} :
    s.localDo c t step (.sc d rd rs1 rs2) = match localFault ((s.thread c t).x rs1) (if d then 8 else 4) true with
      | some x => s.seqFault c t x
      | none =>
        let ok := (s.thread c t).resv == some ((s.thread c t).x rs1, if d then 8 else 4)
        let u := if ok then s.localWrite c t ((s.thread c t).x rs1) (if d then 8 else 4) ((s.thread c t).x rs2) else s
        (u.setThread c t { u.thread c t with resv := none }).setGo c t rd (b2n !ok) ((s.thread c t).pc + step) := rfl

theorem localDo_amo {op : AmoOp} {d : Bool} {rd rs1 rs2 : Fin 32} :
    s.localDo c t step (.amo op d rd rs1 rs2) = match localFault ((s.thread c t).x rs1) (if d then 8 else 4) true with
      | some x => s.seqFault c t x
      | none =>
        let n := if d then 8 else 4
        let old := s.localRead c ((s.thread c t).x rs1) n
        (s.localWrite c t ((s.thread c t).x rs1) n (amoNew op (8 * n) old ((s.thread c t).x rs2 % 2 ^ (8 * n)))).setGo c t rd
          (ofSigned 64 (toSigned (8 * n) old)) ((s.thread c t).pc + step) := rfl

end

section
variable {s : State} {c : Core} {t : Thread} {comp : Bool}

/-- An issued standard instruction that lies in instruction memory. -/
theorem localAccess_of_ready (hready : s.ready c.val t.val = true)
    (hpc : ((s.issued c.val t.val false).thread c.val t.val).pc + (if comp then 2 else 4) ≤ 0x10000) (op : LocalOp) :
    execLocalAccess c t op comp s =
      .next ((s.issued c.val t.val false).localDo c.val t.val (if comp then 2 else 4) op) := by
  unfold execLocalAccess
  dsimp only
  rw [hready, if_neg (by decide), if_neg (Nat.not_lt.2 hpc)]

/-- An issued instruction that does not end within instruction memory (R330). -/
theorem localAccess_of_fetch (hready : s.ready c.val t.val = true)
    (hpc : 0x10000 < ((s.issued c.val t.val false).thread c.val t.val).pc + (if comp then 2 else 4)) (op : LocalOp) :
    execLocalAccess c t op comp s = .next ((s.issued c.val t.val false).seqFault c.val t.val exFetch) := by
  unfold execLocalAccess
  dsimp only
  rw [hready, if_neg (by decide), if_pos hpc]

end

/-- Settles O29: every instruction is its arm of `State.localDo`. -/
theorem sequencerLocal : Obligations.SequencerLocal := by
  unfold Obligations.SequencerLocal
  intro c t r comp hready s h next
  refine ⟨fun hpc op => localAccess_of_fetch hready hpc op, fun hpc => ?_⟩
  have hrun : ∀ op : LocalOp, exec (.localAccess c t op comp) r = .next (s.localDo c.val t.val (if comp then 2 else 4) op) :=
    fun op => localAccess_of_ready hready hpc op
  have hsame : OnlySeq r s := (show OnlySeq r r from rfl).issued c.val t.val false
  have hnext : (s.thread c.val t.val).pc + (if comp then 2 else 4) = next := rfl
  refine ⟨fun op w rd rs1 rs2 => ?alu, fun op w rd rs1 imm => ?alui, fun rd rs1 rs2 => ?named, fun k u rd rs1 imm => ?load,
    fun k rs1 rs2 imm => ?store, fun d rd rs1 rs2 op => ?atomic, fun rd rs1 rs2 i12 i13 i20 i21 op => ?other, fun rd k => ?csr,
    hrun _, hrun _⟩
  case alu =>
    have hdo : s.localDo c.val t.val (if comp then 2 else 4) (.alu op w rd rs1 rs2) =
        if (w && !aluHasW op) = true then s.seqFault c.val t.val exIllegal
        else s.setGo c.val t.val rd (aluRun op w (h.x rs1) (h.x rs2)) next := rfl
    rw [hrun, hdo]
    refine ⟨fun hform => congrArg Host.Outcome.next (if_neg ?_), fun hw hop => congrArg Host.Outcome.next (if_pos ?_)⟩
    · rcases hform with hw | hop
      · simp [hw]
      · simp [hop]
    · simp [hw, hop]
  case alui =>
    have hdo : s.localDo c.val t.val (if comp then 2 else 4) (.alui op w rd rs1 imm) =
        if (!aluImmOk op w imm.toNat) = true then s.seqFault c.val t.val exIllegal
        else s.setGo c.val t.val rd (aluRun op w (h.x rs1) (ofSigned 64 (toSigned 12 imm.toNat))) next := rfl
    rw [hrun, hdo, signExtend_toNat]
    exact ⟨fun hok => congrArg Host.Outcome.next (if_neg (by simp [hok])), fun hbad => congrArg Host.Outcome.next (if_pos (by simp [hbad]))⟩
  case named =>
    have hdo : ∀ op w, (w && !aluHasW op) = false → exec (.localAccess c t (.alu op w rd rs1 rs2) comp) r =
        .next (s.setGo c.val t.val rd (aluRun op w (h.x rs1) (h.x rs2)) next) :=
      fun op w hform => (hrun _).trans (congrArg Host.Outcome.next (if_neg (Bool.eq_false_iff.1 hform)))
    refine ⟨hdo .add false rfl, hdo .mul true rfl, fun hzero => ⟨(hdo .div false rfl).trans ?_, (hdo .remu false rfl).trans ?_⟩⟩
    · rw [aluRun_div_zero hzero]
    · rw [aluRun_remu_zero hzero]
  case load =>
    intro a v
    rw [hrun]
    refine ⟨fun hk hu => congrArg Host.Outcome.next (if_pos ⟨hk, hu⟩), fun hform ha => ?_, fun hform ha hout => ?_, fun hform ha hin => ?_⟩
    · rw [localDo_load hform, localFault_of_misaligned ha]
      rfl
    · rw [localDo_load hform, localFault_read_of_out ha hout]
    · rw [localDo_load hform, localFault_read_of_in ha hin]
  case store =>
    intro a
    rw [hrun, localDo_store]
    refine ⟨fun ha => ?_, fun ha hout => ?_, fun ha hlo hhi => ?_⟩
    · rw [localFault_of_misaligned ha]
      rfl
    · rw [localFault_write_of_out ha hout]
    · rw [localFault_write_of_in ha hlo hhi]
      have hu := (hsame.localWrite c.val t.val a (2 ^ k.val) (h.x rs2)).goTo c.val t.val next
      refine ⟨_, rfl, ?_, ?_, hu.sameRegs, hu.hbm_eq, hu.tu_eq⟩
      · rw [State.goTo, thread_setThread_same]
      · rw [goTo_mem, localWrite_mem]
  case atomic =>
    intro a n
    rw [hrun, hrun, hrun, localDo_lr, localDo_sc, localDo_amo]
    refine ⟨fun ha => ?_, fun ha hin => ?_, fun ha hlo hhi => ?_⟩
    · rw [localFault_of_misaligned ha, localFault_of_misaligned ha]
      exact ⟨rfl, rfl, rfl⟩
    · rw [localFault_read_of_in ha hin]
    · rw [localFault_write_of_in ha hlo hhi]
      have hwrite : ∀ v, OnlySeq r (s.localWrite c.val t.val a n v) := fun v => hsame.localWrite _ _ _ _ _
      refine ⟨fun hlost => ?_, fun hheld => ?_, ?_⟩
      · have hno : ((s.thread c.val t.val).resv == some ((s.thread c.val t.val).x rs1, if d then 8 else 4)) = false :=
          beq_eq_false_iff_ne.2 hlost
        dsimp only
        rw [hno]
        rfl
      · have hyes : ((s.thread c.val t.val).resv == some ((s.thread c.val t.val).x rs1, if d then 8 else 4)) = true :=
          beq_iff_eq.2 hheld
        dsimp only
        rw [hyes, if_pos rfl]
        refine ⟨_, rfl, ?_, fun hrd => x_setGo rd 0 _ hrd (Nat.two_pow_pos 64), (((hwrite _).setThread _ _ _).setGo _ _ _ _ _).sameRegs, ?_⟩
        · rw [resv_setGo, thread_setThread_same]
        · rw [setGo_mem, setThread_mem, localWrite_mem]
      · refine ⟨_, rfl, pc_setGo _ _ _, ((hwrite _).setGo _ _ _ _ _).sameRegs, fun hrd => x_setGo rd _ _ hrd (ofSigned_lt 64 _), ?_⟩
        rw [setGo_mem, localWrite_mem]
  case other =>
    exact ⟨hrun _, hrun _, hrun _, hrun _, hrun _, hrun _⟩
  case csr =>
    rw [hrun]
    have hdo : s.localDo c.val t.val (if comp then 2 else 4) (.csrr rd k) =
        match s.csr c.val t.val k.toNat with
        | some v => s.setGo c.val t.val rd v next
        | none => s.seqFault c.val t.val exIllegal := rfl
    rw [hdo]
    exact ⟨fun v hv => by rw [hv], fun hv => by rw [hv]⟩

end Sys2Proof.Machine
end

section
/-! O10, the events of the time base (R30, R33, R36 to R40, R58). -/

namespace Sys2Proof.Machine

/-! ## What a beat frame leaves of the ports' records (R36, R38) -/

/-- The ports' records and the switch core with its inboxes are as in `u`. -/
def HeardAs (u s : State) : Prop := s.tm.ports = u.tm.ports ∧ s.xb = u.xb

namespace HeardAs

variable {u s : State}

theorem refl (s : State) : HeardAs s s := ⟨rfl, rfl⟩
theorem setReg (h : HeardAs u s) (k : Key) (v : Word) : HeardAs u (s.setReg k v) := h
theorem put (h : HeardAs u s) (f : Fld) (n : Nat) : HeardAs u (s.put f n) := h
theorem wr (h : HeardAs u s) (k : Key) (n : Nat) : HeardAs u (s.wr k n) := h
theorem bump (h : HeardAs u s) (k : Key) : HeardAs u (s.bump k) := h
theorem take (h : HeardAs u s) : HeardAs u s.take.2 := h
theorem setLink (h : HeardAs u s) (p : Nat) (l : Link) : HeardAs u (s.setLink p l) := h
theorem setTm (h : HeardAs u s) {t : TimeU} (ht : t.ports = s.tm.ports) : HeardAs u { s with tm := t } := ⟨ht.trans h.1, h.2⟩

theorem fibreLow (h : HeardAs u s) : HeardAs u s.fibreLow := h.put _ _

theorem dropTime (h : HeardAs u s) (role : Nat) : HeardAs u (s.dropTime role) :=
  (((((h.put _ _).put _ _).put _ _).put _ _).put _ _).setTm rfl

theorem adopt (h : HeardAs u s) : HeardAs u s.adopt := by
  unfold State.adopt
  split
  · exact h
  · split
    · exact h
    · split
      · exact h
      · dsimp only
        refine setTm (((HeardAs.put ?_ _ _).put _ _).put _ _) rfl
        split
        · exact h
        · exact h.dropTime 0

theorem leaveParent (h : HeardAs u s) (p : Nat) : HeardAs u (s.leaveParent p) := by
  unfold State.leaveParent
  split
  · exact (h.dropTime 0).setTm rfl
  · exact h

theorem setGrid (h : HeardAs u s) (len frac : Nat) : HeardAs u (s.setGrid len frac) := by
  unfold State.setGrid
  extract_lets m tm v
  have hv : HeardAs u v := h.setTm rfl
  exact (hv.put _ _).put _ _

theorem endEra (h : HeardAs u s) : HeardAs u s.endEra := h.setTm rfl

theorem renumber (h : HeardAs u s) (n : Nat) : HeardAs u (s.renumber n) := by
  unfold State.renumber
  extract_lets by_ v tm w
  have hw : HeardAs u w := h.endEra.setTm rfl
  exact hw.wr _ _

theorem stepPhase (h : HeardAs u s) (t : Int) : HeardAs u (s.stepPhase t) := h.endEra.setTm rfl

theorem discipline (h : HeardAs u s) : HeardAs u s.discipline := h.take.put _ _

theorem unlock (h : HeardAs u s) : HeardAs u s.unlock := ((h.put _ _).put _ _).setTm rfl

theorem watchOffset (h : HeardAs u s) (t : Int) : HeardAs u (s.watchOffset t) := by
  unfold State.watchOffset
  split
  · split
    · exact h
    · have hset : HeardAs u { s with tm := { s.tm with excursion := true } } := h.setTm rfl
      exact (hset.put _ _).bump _
  · exact h.setTm rfl

theorem followParent (h : HeardAs u s) (n : Nat) (grid : Word) (theta : Option Int) : HeardAs u (s.followParent n grid theta) := by
  unfold State.followParent
  split
  · split
    · exact h
    · rename_i t
      have hadjust := ((h.put TIME_OFFSET_OFFSET (ofSigned 32 t)).discipline).watchOffset t
      dsimp only
      split
      · exact hadjust.unlock
      · exact hadjust
  · split
    · exact ((h.setGrid _ _).renumber n).setTm rfl
    · split
      · exact h
      · split
        · exact ((h.put _ _).stepPhase _).setTm rfl
        · dsimp only
          split <;> exact ((h.put _ _).discipline).setTm rfl

theorem takePending (h : HeardAs u s) (grid : Word) (n : Nat) : HeardAs u (s.takePending grid n) := by
  unfold State.takePending
  split
  · exact (((h.put _ _).put _ _).put _ _).wr _ _
  · exact h

/-- A frame on the parent port is followed. -/
theorem follow (h : HeardAs u s) (q n : Nat) (grid : Word) (theta : Option Int) (pendAt : Nat) :
    HeardAs u (if s.parent = q then (s.followParent n grid theta).takePending grid pendAt else s) := by
  split
  · exact (h.followParent _ _ _).takePending _ _
  · exact h

end HeardAs

section
variable {s u : State}

/-! ## The edge (R30) -/

/-- Nothing but registers and the time base may differ. -/
def OnlyTime (s t : State) : Prop := { t with regs := s.regs, tm := s.tm } = s

theorem OnlyTime.refl (s : State) : OnlyTime s s := rfl
theorem OnlyTime.put (h : OnlyTime s u) (f : Fld) (n : Nat) : OnlyTime s (u.put f n) := h
theorem OnlyTime.setReg (h : OnlyTime s u) (k : Key) (v : Word) : OnlyTime s (u.setReg k v) := h
theorem OnlyTime.setTm (h : OnlyTime s u) (t : TimeU) : OnlyTime s { u with tm := t } := h
theorem OnlyTime.st_eq (h : OnlyTime s u) : u.st = s.st := (congrArg State.st h :)
theorem OnlyTime.hbm_eq (h : OnlyTime s u) : u.hbm = s.hbm := (congrArg State.hbm h :)
theorem OnlyTime.tr_eq (h : OnlyTime s u) : u.tr = s.tr := (congrArg State.tr h :)
theorem OnlyTime.out_eq (h : OnlyTime s u) : u.out = s.out := (congrArg State.out h :)

/-- A new grid changes two fields of `TIME_CONFIG` and notes the old grid. -/
theorem OnlyTime.setGrid (h : OnlyTime s u) (len frac : Nat) : OnlyTime s (u.setGrid len frac) := by
  unfold State.setGrid
  exact ((h.setTm _).put _ _).put _ _

theorem OnlyTime.applyGrid (h : OnlyTime s u) : OnlyTime s u.applyGrid := by
  unfold State.applyGrid
  split
  · exact (h.setGrid _ _).put _ _
  · exact h

theorem setGrid_clock (len frac : Nat) : (s.setGrid len frac).tm.clock = s.tm.clock := by
  unfold State.setGrid
  extract_lets m tm v
  rw [put_tm, put_tm]

theorem applyGrid_clock : s.applyGrid.tm.clock = s.tm.clock := by
  unfold State.applyGrid
  split
  · rw [put_tm, setGrid_clock]
  · rfl

theorem applyGrid_beat : s.applyGrid.reg TIME_BEAT_NOW = s.reg TIME_BEAT_NOW := by
  unfold State.applyGrid
  split
  · rw [reg_put_of_id _ rfl, State.setGrid, reg_put_of_id _ rfl, reg_put_of_id _ rfl]
    rfl
  · rfl

theorem timeEdge_onlyTime : OnlyTime s s.timeEdge := by
  unfold State.timeEdge
  exact ((((OnlyTime.refl s).setReg _ _).setTm _).applyGrid).setTm _

theorem timeEdge_clock : s.timeEdge.tm.clock = s.tm.clock + s.beatLen := by
  have hkeep : ∀ (t : State) (x : TimeU), x.clock = t.tm.clock → ({ t with tm := x } : State).tm.clock = t.tm.clock := fun _ _ h => h
  unfold State.timeEdge
  rw [hkeep _ _ rfl, applyGrid_clock, setReg_tm]

theorem timeEdge_beat : s.timeEdge.reg TIME_BEAT_NOW = s.reg TIME_BEAT_NOW + 1 := by
  have hkeep : ∀ (t : State) (x : TimeU), ({ t with tm := x } : State).reg TIME_BEAT_NOW = t.reg TIME_BEAT_NOW := fun _ _ => rfl
  unfold State.timeEdge
  rw [hkeep, applyGrid_beat, hkeep, reg_setReg_same]

/-- The ballast cycles are counted in their own register. -/
theorem ballastCycles_counts (duty : Nat) : let t := s.ballastCycles duty
    t.tm = s.tm ∧ t.st = s.st ∧ t.hbm = s.hbm ∧ t.tr = s.tr ∧ t.out = s.out ∧ SameRegs s t [TUN_BALLAST_CYCLES] := by
  unfold State.ballastCycles
  split
  · exact ⟨rfl, rfl, rfl, rfl, rfl, fun _ _ => rfl⟩
  · refine ⟨bumpBy_tm _ _ _, bumpBy_st _ _ _, bumpBy_hbm _ _ _, bumpBy_tr _ _ _, bumpBy_out _ _ _, fun k hk => ?_⟩
    exact reg_bumpBy_other _ _ fun e => hk (List.mem_singleton.2 e)

/-- What ends the beat, before the new one is announced. -/
def State.beatOver (s : State) : State :=
  ({ s with he := { s.he with justDown := [] }, rs := { s.rs with recording := false } } : State).ballastCycles
    (s.get TUN_STATUS_BALLAST_DUTY)

theorem newBeat_tm : s.newBeat.tm = s.tm := rfl

theorem newBeat_first : s.newBeat.st.first = (s.st.first + 1) % 32 := rfl

theorem newBeat_reg (k : Key) : s.newBeat.reg k = s.reg k := rfl

theorem beatEdge_eq (hpor : s.rs.por = false) (hlevel : s.rs.level ≠ 2) (d : Nat) : execBeatEdge d s =
    .next (((s.beatOver.timeEdge.newBeat.sendBeatFrames.seeDescs.scanRings).govEdge s.beat d).arbView.calEdge.waitEdges) := by
  have hrun : ¬ (s.rs.por = true ∨ s.rs.level = 2) := by simp [hpor, hlevel]
  exact if_neg hrun

theorem beatOver_keeps : s.beatOver.tm = s.tm ∧ s.beatOver.st = s.st ∧ s.beatOver.hbm = s.hbm ∧ s.beatOver.tr = s.tr ∧
    s.beatOver.out = s.out ∧ SameRegs s s.beatOver [TUN_BALLAST_CYCLES] :=
  ballastCycles_counts _

theorem beatOver_beatLen : s.beatOver.beatLen = s.beatLen := by
  obtain ⟨-, -, -, -, -, hregs⟩ := beatOver_keeps (s := s)
  have hconfig : s.beatOver.get TIME_CONFIG_BEAT_LEN = s.get TIME_CONFIG_BEAT_LEN := by
    rw [State.get, hregs _ fun h => Key.ne_of_id rfl (List.mem_singleton.1 h), State.get]
  rw [State.beatLen, hconfig, State.beatLen]

/-! ## Lock, holdover and election (R37 to R40) -/

/-- `TIME_STATUS` with its five fields of the parent and the lock set, and the search begun anew. -/
def State.timeShown (s : State) (role lock parent root stratum : Nat) : State :=
  let s := (((s.put TIME_STATUS_ROLE role).put TIME_STATUS_LOCKED lock).put TIME_STATUS_PARENT_PORT parent).put TIME_STATUS_ROOT_ID root
  let s := s.put TIME_STATUS_STRATUM stratum
  { s with tm := { s.tm with lockStep := 0, goodRun := 0, goodSeen := false, excursion := false } }

theorem dropTime_eq (role : Nat) : s.dropTime role = s.timeShown role 0 0x7F 0xFFFF 0xFF := by
  unfold State.dropTime State.timeShown
  rfl

theorem setTm_reg (t : TimeU) (k : Key) : ({ s with tm := t } : State).reg k = s.reg k := rfl

theorem setTm_sameMem (t : TimeU) : SameMem s { s with tm := t } := ⟨rfl, rfl, rfl, rfl⟩

theorem setTm_get (t : TimeU) (f : Fld) : ({ s with tm := t } : State).get f = s.get f := rfl

variable (role lock parent root stratum : Nat)

theorem timeShown_sameRegs : SameRegs s (s.timeShown role lock parent root stratum) [TIME_STATUS] := by
  have h := (((((OnlyRegs.refl (s := s) [TIME_STATUS]).put (f := TIME_STATUS_ROLE) role (by simp [TIME_STATUS_ROLE])).put
    (f := TIME_STATUS_LOCKED) lock (by simp [TIME_STATUS_LOCKED])).put (f := TIME_STATUS_PARENT_PORT) parent
    (by simp [TIME_STATUS_PARENT_PORT])).put (f := TIME_STATUS_ROOT_ID) root (by simp [TIME_STATUS_ROOT_ID])).put
    (f := TIME_STATUS_STRATUM) stratum (by simp [TIME_STATUS_STRATUM])
  intro k hk
  rw [State.timeShown, setTm_reg]
  exact h.2 k hk

theorem timeShown_sameMem : SameMem s (s.timeShown role lock parent root stratum) := by
  unfold State.timeShown
  exact ((((put_sameMem _ _ _).trans (put_sameMem _ _ _)).trans (put_sameMem _ _ _)).trans (put_sameMem _ _ _)).trans
    ((put_sameMem _ _ _).trans (setTm_sameMem _))

variable {role lock parent root stratum}

/-- The fields of `TIME_STATUS`, each apart from the others. -/
theorem timeShown_role (h : role < 4) : (s.timeShown role lock parent root stratum).get TIME_STATUS_ROLE = role := by
  rw [State.timeShown, setTm_get, get_put_apart _ rfl, get_put_apart _ rfl, get_put_apart _ rfl, get_put_apart _ rfl]
  exact get_put_field (by decide) (by decide) h

theorem timeShown_lock (h : lock < 2) : (s.timeShown role lock parent root stratum).get TIME_STATUS_LOCKED = lock := by
  rw [State.timeShown, setTm_get, get_put_apart _ rfl, get_put_apart _ rfl, get_put_apart _ rfl]
  exact get_put_field (by decide) (by decide) h

theorem timeShown_parent (h : parent < 128) : (s.timeShown role lock parent root stratum).get TIME_STATUS_PARENT_PORT = parent := by
  rw [State.timeShown, setTm_get, get_put_apart _ rfl, get_put_apart _ rfl]
  exact get_put_field (by decide) (by decide) h

theorem timeShown_root (h : root < 65536) : (s.timeShown role lock parent root stratum).get TIME_STATUS_ROOT_ID = root := by
  rw [State.timeShown, setTm_get, get_put_apart _ rfl]
  exact get_put_field (by decide) (by decide) h

theorem timeShown_stratum (h : stratum < 256) : (s.timeShown role lock parent root stratum).get TIME_STATUS_STRATUM = stratum := by
  rw [State.timeShown, setTm_get]
  exact get_put_field (by decide) (by decide) h

/-! ## Taking a frame (R36) -/

/-- An item taken from a port's inbox leaves everything but the inboxes as it was. -/
theorem takeRx_eq {p : Nat} {sel : RxItem → Bool} {x : RxItem} (h : s.takeRx p sel = some (x, u)) :
    ∃ l, u = { s with xb := { s.xb with rx := mset [] s.xb.rx p l } } := by
  obtain ⟨y, -, hy⟩ := Option.map_eq_some_iff.1 h
  exact ⟨y.2, (congrArg Prod.snd hy).symm⟩

/-- The record of a frame on a port (R36, R38). -/
def State.frameSeen (s : State) (p : Nat) (came : Nat) (f : Flit) : PortTime :=
  { heardAt := s.edge, echoBeat := some (fw f 0).toNat, arrived := came, rootId := bits (fw f 3) 15 0,
    rootPrio := bits (fw f 3) 23 16, stratum := bits (fw f 3) 31 24, term := bits (fw f 5) 31 0, accel := s.isAttach p }

/-- The rest of `BEAT_FRAME` keeps the records of the ports as the frame made them. -/
theorem beatFrame_heard {p : Port} {a : BitVec 32} {f : Flit}
    (h : s.takeRx p (fun x => match x with | .beat _ => true | _ => false) = some (.beat f, u)) :
    ∃ t : State, execBeatFrame p a s = .next t ∧ HeardAs (u.setPt p (u.frameSeen p (u.tm.clock + a.toNat) f)) t := by
  unfold execBeatFrame
  split
  next f' u' hrx =>
    obtain ⟨rfl, rfl⟩ : f = f' ∧ u = u' := by
      have e : some (RxItem.beat f, u) = some (RxItem.beat f', u') := h.symm.trans hrx
      simpa using e
    extract_lets q n acc came a4 t v l x tm y m a1 b2 b3 valid dx dy
    have hx : HeardAs (u.setPt p (u.frameSeen p (u.tm.clock + a.toNat) f)) x := (HeardAs.refl v).setLink q l
    have hy : HeardAs (u.setPt p (u.frameSeen p (u.tm.clock + a.toNat) f)) y := by
      dsimp only [y]
      split
      · exact hx
      · exact hx.setTm rfl
    clear_value y valid dx dy
    refine ⟨_, rfl, ?_⟩
    have hz : ∀ c : Bool, ∀ w : Word, HeardAs (u.setPt p (u.frameSeen p (u.tm.clock + a.toNat) f))
        ((if c = true then (y.take.2.setReg (TIME_LINK_DELAY q) w).fibreLow else y.take.2).adopt.leaveParent q) := by
      intro c w
      refine HeardAs.leaveParent (HeardAs.adopt ?_) q
      split
      · exact (hy.take.setReg _ _).fibreLow
      · exact hy.take
    exact HeardAs.follow (hz _ _) q n (fw f 3) _ (fw f 4).toNat
  next hno => exact absurd h (hno f u)

end

section
variable {s : State}

/-- `LOCK_ACQUIRED`, before what waited is sent (R40, R423). -/
def State.lockTaken (s : State) : State :=
  let s := (s.put TIME_STATUS_LOCKED 1).put TIME_STATUS_ROLE 1
  { s with tm := { s.tm with excursion := false } }

theorem lockAcquired_eq (hfree : s.locked = false) (hparent : s.parent ≠ 127) (hstep : s.tm.lockStep = 2) (hrun : 64 ≤ s.tm.goodRun) :
    execLockAcquired s = .next s.lockTaken.flushSeal := by
  have h : (!s.locked && s.parent != 127 && s.tm.lockStep == 2 && decide (64 ≤ s.tm.goodRun)) = true := by
    simp [hfree, hparent, hstep, hrun]
  exact if_pos h

/-- `HOLDOVER` begins 16 beats of `STRATUM` 0xFF (R39). -/
def State.quieted (s : State) : State := { s with tm := { s.tm with quiet := 16, electing := false } }

theorem quieted_quiet : s.quieted.tm.quiet = 16 := rfl
theorem quieted_electing : s.quieted.tm.electing = false := rfl
theorem quieted_get (f : Fld) : s.quieted.get f = s.get f := rfl
theorem quieted_reg (k : Key) : s.quieted.reg k = s.reg k := rfl
theorem quieted_sameMem : SameMem s s.quieted := ⟨rfl, rfl, rfl, rfl⟩

theorem holdover_eq (hparent : s.parent ≠ 127) (hlate : (s.pt s.parent).heardAt + 8 ≤ s.edge) :
    execHoldover s = .next (s.dropTime 3).quieted := by
  have h : (s.parent != 127 && decide ((s.pt s.parent).heardAt + 8 ≤ s.edge)) = true := by simp [hparent, hlate]
  exact if_pos h

/-- The module's registers once it is root (R37). -/
def State.rootShown (s : State) : State :=
  ((((s.dropTime 2).put TIME_STATUS_LOCKED 1).put TIME_STATUS_STRATUM 0).put TIME_STATUS_ROOT_ID (s.dropTime 2).selfId).put
    TIME_OFFSET_OFFSET 0

/-- The term of a claim. -/
def State.nextTerm (s : State) : Nat := ((s.tm.terms.map (·.2)).foldl max s.tm.myTerm) + 1

/-- The claim to be root, before what waited is sent (R37). -/
def State.claimed (s : State) (term : Nat) : State :=
  { s with tm := { s.tm with
      myTerm := term % 2 ^ 32, electing := false, quiet := 0, terms := mset 0 s.tm.terms s.selfId (term % 2 ^ 32) } }

theorem claimed_get (term : Nat) (f : Fld) : (s.claimed term).get f = s.get f := rfl
theorem claimed_myTerm (term : Nat) : (s.claimed term).tm.myTerm = term % 2 ^ 32 := rfl

theorem selfId_dropTime (role : Nat) : (s.dropTime role).selfId = s.selfId := by
  rw [dropTime_eq, State.selfId, State.get, timeShown_sameRegs _ _ _ _ _ _ fun h => Key.ne_of_id rfl (List.mem_singleton.1 h)]
  rfl

theorem election_eq (hrole : s.get TIME_STATUS_ROLE ≠ 2) (hparent : s.parent = 127) (hel : s.tm.electing = true)
    (hadopt : s.adopt.parent = 127) (hprio : s.get TIME_CONFIG_ROOT_PRIO < 0xFF) (hid : s.selfId ≠ 0xFFFF) :
    execElection s = .next (s.rootShown.claimed s.nextTerm).flushSeal := by
  unfold execElection
  dsimp only
  rw [if_neg hrole, if_pos ⟨hparent, hel⟩, if_neg (not_not.2 hadopt), if_pos ⟨hprio, hid⟩]
  rfl

theorem election_root (hrole : s.get TIME_STATUS_ROLE = 2) (hprio : s.get TIME_CONFIG_ROOT_PRIO = 0xFF) :
    execElection s = .next (s.dropTime 0).adopt := by
  unfold execElection
  dsimp only
  rw [if_pos hrole, if_pos hprio]

theorem selfId_lt : s.selfId < 65536 := bits_lt _ _ _

theorem rootShown_fields : s.rootShown.get TIME_STATUS_ROLE = 2 ∧ s.rootShown.get TIME_STATUS_LOCKED = 1 ∧
    s.rootShown.get TIME_STATUS_STRATUM = 0 ∧ s.rootShown.get TIME_STATUS_ROOT_ID = s.selfId ∧
    s.rootShown.get TIME_OFFSET_OFFSET = 0 := by
  have hrole : (s.dropTime 2).get TIME_STATUS_ROLE = 2 := by
    rw [dropTime_eq]
    exact timeShown_role (by decide)
  have hid := selfId_dropTime (s := s) 2
  unfold State.rootShown
  generalize s.dropTime 2 = u at hrole hid
  refine ⟨?_, ?_, ?_, ?_, get_put_zero (by decide) (by decide)⟩
  · rw [get_put_apart _ rfl, get_put_apart _ rfl, get_put_apart _ rfl, get_put_apart _ rfl, hrole]
  · rw [get_put_apart _ rfl, get_put_apart _ rfl, get_put_apart _ rfl]
    exact get_put_field (by decide) (by decide) (by decide)
  · rw [get_put_apart _ rfl, get_put_apart _ rfl]
    exact get_put_zero (by decide) (by decide)
  · rw [get_put_apart _ rfl, hid]
    exact get_put_field (by decide) (by decide) selfId_lt

theorem applyGrid_of_due (hvalid : s.on TIME_PENDING_PEND_VALID = true) (hdue : s.rd TIME_PENDING_AT ≤ s.beat) : s.applyGrid =
    (s.setGrid (s.get TIME_PENDING_PEND_BEAT_LEN) (s.get TIME_PENDING_PEND_SCHED_FRAC)).put TIME_PENDING_PEND_VALID 0 := by
  have h : (s.on TIME_PENDING_PEND_VALID && decide (s.rd TIME_PENDING_AT ≤ s.beat)) = true := by simp [hvalid, hdue]
  exact if_pos h

/-- Setting a grid sets two fields of `TIME_CONFIG` (R33). -/
theorem setGrid_fields {len frac : Nat} (hlen : len < 4) (hfrac : frac < 16) :
    (s.setGrid len frac).get TIME_CONFIG_BEAT_LEN = len ∧ (s.setGrid len frac).get TIME_CONFIG_SCHED_FRAC = frac ∧
    (s.setGrid len frac).get TIME_CONFIG_ROOT_PRIO = s.get TIME_CONFIG_ROOT_PRIO ∧
    SameRegs s (s.setGrid len frac) [TIME_CONFIG, TIME_PENDING] := by
  unfold State.setGrid
  extract_lets m tm v
  have hv : ∀ f, v.get f = s.get f := fun _ => rfl
  have hregs : ∀ k, v.reg k = s.reg k := fun _ => rfl
  clear_value v
  refine ⟨?_, get_put_field (by decide) (by decide) hfrac, ?_, fun k hk => ?_⟩
  · rw [get_put_apart _ rfl]
    exact get_put_field (by decide) (by decide) hlen
  · rw [get_put_apart _ rfl, get_put_apart _ rfl, hv]
  · have h : k ≠ TIME_CONFIG := fun e => hk (by simp [e])
    rw [reg_put_other _ _ h, reg_put_other _ _ h, hregs]

theorem setGrid_put_only (len frac : Nat) (f : Fld) (n : Nat) :
    { (s.setGrid len frac).put f n with
      regs := s.regs, tm := { ((s.setGrid len frac).put f n).tm with marks := s.tm.marks } } = s := rfl

theorem beatSlip_eq {id : Nat} {x : Step} (h : s.step? id = some x) (hsched : x.sched = true) (hedge : x.edge < s.edge)
    (hslip : x.slipAt < s.edge) :
    execBeatSlip id s = .next (((s.setStep { x with slipAt := s.edge }).flag TIME_STATUS_SLIP).bump TIME_SLIP_COUNT) := by
  have hdue : (x.sched && decide (x.edge < s.edge) && decide (x.slipAt < s.edge)) = true := by simp [hsched, hedge, hslip]
  unfold execBeatSlip
  rw [h]
  exact if_pos hdue

end

/-- Settles O10: each event is a list of writes to the time base's registers and records. -/
theorem timeBase : Obligations.TimeBase := by
  unfold Obligations.TimeBase
  refine ⟨fun d s hpor hlevel => ?edge, fun p a s u f h => ?frame, fun s hfree hparent hstep hrun => ?lock, fun s hparent hlate => ?hold,
    fun s hrole hparent hel hadopt hprio hid => ?elect, fun s hrole hprio => election_root hrole hprio, fun s hvalid hdue => ?grid,
    fun id s x h hsched hedge hslip => ?slip⟩
  case edge =>
    obtain ⟨htm, hst, hhbm, htr, hout, hregs⟩ := beatOver_keeps (s := s)
    have hedge := timeEdge_onlyTime (s := s.beatOver)
    refine ⟨s.beatOver.timeEdge.newBeat, ?_, ?_, rfl, rfl, ?_, hedge.hbm_eq.trans hhbm, hedge.tr_eq.trans htr, hedge.out_eq.trans hout,
      beatEdge_eq hpor hlevel d⟩
    · rw [newBeat_reg, timeEdge_beat, hregs _ fun h => Key.ne_of_id rfl (List.mem_singleton.1 h)]
    · rw [newBeat_tm, timeEdge_clock, htm, beatOver_beatLen]
    · rw [newBeat_first, hedge.st_eq, hst]
  case frame =>
    obtain ⟨t, ht, hports, hxb⟩ := beatFrame_heard (a := a) h
    obtain ⟨l, rfl⟩ := takeRx_eq h
    refine ⟨t, ht, by rw [hxb]; rfl, ?_⟩
    rw [State.pt, hports]
    exact mget_mset_same _ _ _ _
  case lock =>
    have hfields : ∀ f, s.lockTaken.get f = ((s.put TIME_STATUS_LOCKED 1).put TIME_STATUS_ROLE 1).get f := fun _ => rfl
    refine ⟨s.lockTaken, lockAcquired_eq hfree hparent hstep hrun, ?_, ?_, ?_, ?_, ?_⟩
    · rw [State.locked, State.on, hfields, get_put_apart _ rfl, get_put_field (by decide) (by decide) (by decide)]
      rfl
    · rw [hfields]
      exact get_put_field (by decide) (by decide) (by decide)
    · rw [State.parent, hfields, get_put_apart _ rfl, get_put_apart _ rfl]
      rfl
    · intro k hk
      have hstatus : k ≠ TIME_STATUS := fun e => hk (List.mem_singleton.2 e)
      rw [State.lockTaken, setTm_reg, reg_put_other _ _ hstatus, reg_put_other _ _ hstatus]
    · unfold State.lockTaken
      exact (put_sameMem _ _ _).trans ((put_sameMem _ _ _).trans (setTm_sameMem _))
  case hold =>
    refine ⟨(s.dropTime 3).quieted, holdover_eq hparent hlate, ?_, ?_, ?_, ?_, ?_, quieted_quiet, quieted_electing, fun k hk => ?_, ?_⟩
    · rw [quieted_get, dropTime_eq]
      exact timeShown_role (by decide)
    · rw [State.locked, State.on, quieted_get, dropTime_eq, timeShown_lock (by decide)]
      rfl
    · rw [State.parent, quieted_get, dropTime_eq]
      exact timeShown_parent (by decide)
    · rw [quieted_get, dropTime_eq]
      exact timeShown_root (by decide)
    · rw [quieted_get, dropTime_eq]
      exact timeShown_stratum (by decide)
    · rw [quieted_reg, dropTime_eq]
      exact timeShown_sameRegs _ _ _ _ _ k hk
    · rw [dropTime_eq]
      exact (timeShown_sameMem _ _ _ _ _).trans quieted_sameMem
  case elect =>
    obtain ⟨hr, hl, hs, hi, ho⟩ := rootShown_fields (s := s)
    refine ⟨s.rootShown.claimed s.nextTerm, election_eq hrole hparent hel hadopt hprio hid, ?_, ?_, ?_, ?_, ?_, claimed_myTerm _⟩
    · rw [claimed_get, hr]
    · rw [State.locked, State.on, claimed_get, hl]
      rfl
    · rw [claimed_get, hs]
    · rw [claimed_get, hi]
    · rw [claimed_get, ho]
  case grid =>
    have hlen : s.get TIME_PENDING_PEND_BEAT_LEN < 4 := bits_lt _ _ _
    have hfrac : s.get TIME_PENDING_PEND_SCHED_FRAC < 16 := bits_lt _ _ _
    obtain ⟨hl, hf, hp, hregs⟩ := setGrid_fields (s := s) hlen hfrac
    refine ⟨_, congrArg Host.Outcome.next (applyGrid_of_due hvalid hdue), ?_, ?_, ?_, get_put_zero (by decide) (by decide), setGrid_put_only _ _ _ _,
      fun k hk => ?_⟩
    · rw [get_put_apart _ rfl, hl]
    · rw [get_put_apart _ rfl, hf]
    · rw [get_put_apart _ rfl, hp]
    · rw [reg_put_other _ _ fun e => hk (by simp [e, TIME_PENDING_PEND_VALID]), hregs k hk]
  case slip =>
    refine ⟨_, beatSlip_eq h hsched hedge hslip, ?_, ?_, rfl, ?_, rfl, rfl, rfl, rfl⟩
    · exact (get_bump_of_id rfl).trans (get_flag_same (by decide) (by decide))
    · rw [reg_bump_same, State.flag, reg_put_of_id _ rfl]
      rfl
    · exact (((OnlyRegs.refl (s := s.setStep { x with slipAt := s.edge }) _).flag (by simp [TIME_STATUS_SLIP])).bump (by simp)).2

end Sys2Proof.Machine
end

section
/-! The line queues, the recalls of the directory and the host's answers to the home (R103, R121, R122, R157, R158,
R323, R384). -/

namespace Sys2Proof.Machine

variable {s : State} {k j : Key}

theorem rd_raise_same {n : Nat} (h : n < 2 ^ 64) : (s.raise k n).rd k = max (s.rd k) n := by
  unfold State.raise
  split
  case isTrue hlt => rw [State.rd, State.wr, reg_setReg_same, BitVec.toNat_ofNat, Nat.mod_eq_of_lt h, max_eq_right hlt.le]
  case isFalse hle => rw [max_eq_left (not_lt.mp hle)]

theorem reg_raise_other (n : Nat) (h : j ≠ k) : (s.raise k n).reg j = s.reg j := by
  unfold State.raise
  split
  · exact reg_setReg_other _ _ h
  · rfl

theorem raise_tr (n : Nat) : (s.raise k n).tr = s.tr := by
  unfold State.raise
  split <;> rfl

theorem raise_sameMem (n : Nat) : SameMem s (s.raise k n) := by
  unfold State.raise
  split <;> exact ⟨rfl, rfl, rfl, rfl⟩

theorem setLines_tr (l : List LineQ) : (s.setLines l).tr = { s.tr with lines := l } := rfl

theorem setLines_inUse (l : List LineQ) : (s.setLines l).reg TRACK_LINE_QUEUES_IN_USE = BitVec.ofNat 64 l.length :=
  reg_setReg_same _ _ _

theorem setLines_sameRegs (l : List LineQ) : SameRegs s (s.setLines l) [TRACK_LINE_QUEUES_IN_USE] := fun _ hk =>
  reg_setReg_other _ _ (List.ne_of_not_mem_cons hk)

theorem setLines_sameMem (l : List LineQ) : SameMem s (s.setLines l) := ⟨rfl, rfl, rfl, rfl⟩

theorem withTr_sameMem (tr : TrackU) : SameMem s { s with tr := tr } := ⟨rfl, rfl, rfl, rfl⟩

/-- The line queues once `op` has joined the end of the one of `line`. -/
def LineQ.joined (line op : Nat) (l : List LineQ) : List LineQ :=
  match l.find? (fun q => q.line == line) with
  | some _ => updWhere (fun q => q.line == line) (fun q => { q with q := q.q ++ [op] }) l
  | none => l ++ [⟨line, [op], .none⟩]

theorem lineAdd_eq (line op : Nat) : s.lineAdd line op = s.setLines (LineQ.joined line op s.tr.lines) := by
  unfold State.lineAdd LineQ.joined
  cases s.tr.lines.find? (fun q => q.line == line) <;> rfl

theorem lineQueueAdmit_of_turn {line ns : Nat} {w : Nat × Nat × Nat × Nat} {rest : List (Nat × Nat × Nat × Nat)}
    (hroom : s.lineRoom line = true) (hturn : s.lineTurn line = some (w, rest)) :
    execLineQueueAdmit line ns s = .next
      ((({ s with tr := { s.tr with lineWaits := rest, lastSrc := mset 0 s.tr.lastSrc line (w.2.2.1 + 1) } } : State).raise
        TRACK_LINE_WAIT_MAX ns).setLines (LineQ.joined line w.2.1 s.tr.lines)) := by
  rw [execLineQueueAdmit, if_pos hroom, hturn]
  dsimp only
  rw [lineAdd_eq, raise_tr]

theorem lineEntryPerform_of_head {line : Nat} {q : LineQ} {o : HOp} (h : s.headOp line = some (q, o)) (hw : q.wait = .none) :
    execLineEntryPerform line s = .next ((s.lineDo o line).2.finishLine line o (s.lineDo o line).1).dirSettle := by
  rw [execLineEntryPerform, h]
  exact if_pos hw

theorem lowerLimitTimeout_of_lender {line tag : Nat} {q : LineQ} {o : HOp} (h : s.headOp line = some (q, o)) (hk : o.kind = 4)
    (hw : q.wait = .lender) (ht : s.lenderTag o.id line = some tag) : execLowerLimitTimeout line s =
      .next ((((s.put MEM_HBM_STATUS_LOWER_TIMEOUT 1).bump MEM_LOWER_TIMEOUT_COUNT).closeEntry tag true).finishLine line o
        (.fail 9)) := by
  rw [execLowerLimitTimeout, h]
  dsimp only
  rw [ht, if_pos ⟨hk, .inl ⟨hw, rfl⟩⟩, if_pos hw]
  rfl

theorem lowerLimitTimeout_of_host {line : Nat} {q : LineQ} {o : HOp} (h : s.headOp line = some (q, o)) (hk : o.kind = 4)
    (hw : q.wait = .host) : execLowerLimitTimeout line s =
      .next (((s.put MEM_HBM_STATUS_LOWER_TIMEOUT 1).bump MEM_LOWER_TIMEOUT_COUNT).finishLine line o (.fail 9)) := by
  have hl : q.wait ≠ .lender := by rw [hw]; exact nofun
  rw [execLowerLimitTimeout, h]
  dsimp only
  rw [if_pos ⟨hk, .inr hw⟩, if_neg hl]
  rfl

theorem recallTimeout_of_recalling {line : Nat} {agent : Fin 5} {e : DirEntry}
    (h : s.dir.find? (fun e => e.line == line) = some e) (hr : e.recalling.testBit agent = true) :
    execRecallTimeout line agent s = .next ((((s.put MEM_DIR_STATUS_RECALL_TIMEOUT 1).bump
      MEM_DIR_RECALL_TIMEOUT_COUNT).dirDrop line agent false).failHeads (s.tr.lines.filter (fun q => q.wait == .dir line))
      9).dirSettle := by
  rw [execRecallTimeout, h]
  exact if_pos hr

/-- Settles O18: each command acts on the queue or the entry that its premise names; the rest is what the queues' own
operations do. -/
theorem lineQueues : Obligations.LineQueues := by
  unfold Obligations.LineQueues
  refine ⟨fun line ns s w rest hroom hturn hns => ⟨_, lineQueueAdmit_of_turn hroom hturn, ?_, ?_, ?_, setLines_inUse _, ?_, ?_⟩,
    fun line s q o h hw => lineEntryPerform_of_head h hw,
    fun line s q o h hk => ⟨fun tag hw ht => lowerLimitTimeout_of_lender h hk hw ht, fun hw => lowerLimitTimeout_of_host h hk hw⟩,
    fun line agent s e h hr => recallTimeout_of_recalling h hr⟩
  · rw [setLines_tr, raise_tr]
  · rw [setLines_tr]
    unfold LineQ.joined
    cases s.tr.lines.find? (fun q => q.line == line) <;> rfl
  · rw [State.rd, setLines_sameRegs _ _ (mt List.mem_singleton.mp (Key.ne_of_id rfl))]
    exact rd_raise_same hns
  · intro k hk
    obtain ⟨hmax, huse⟩ := not_or.mp (mt List.mem_pair.mpr hk)
    exact (setLines_sameRegs _ _ (mt List.mem_singleton.mp huse)).trans (reg_raise_other _ hmax)
  · exact (withTr_sameMem _).trans ((raise_sameMem ns).trans (setLines_sameMem _))

section
variable {line : Nat} {q : LineQ} {o : HOp} (h : s.headOp line = some (q, o)) (hw : q.wait = .host)
include h hw

theorem cxlCacheResponse_of_plain (bytes : List Byte) (h3 : Pkt.opcode o.pkt ≠ 3) :
    execCxlCacheResponse line (.ok bytes) s = .next (s.finishLine line o (.done (if Pkt.opcode o.pkt = 1 ∨ Pkt.opcode o.pkt = 9
      then (bytes ++ List.replicate (opSlice o line).2 0).take (opSlice o line).2 else []))) := by
  rw [execCxlCacheResponse, h]
  exact (if_neg (not_not.mpr hw)).trans (if_neg h3)

theorem cxlCacheResponse_of_atomic (bytes : List Byte) (h3 : Pkt.opcode o.pkt = 3) :
    execCxlCacheResponse line (.ok bytes) s = (if o.got.any (fun g => g.1 == line) then .next (s.finishLine line o (.done []))
      else .next ((s.setOp { o with got := [(line, (bytes ++ List.replicate (opSlice o line).2 0).take (opSlice o line).2)] }).emit
        (.cache (s.hostPa o line) (opSlice o line).2
          (some (atomicApply o.pkt ((bytes ++ List.replicate (opSlice o line).2 0).take (opSlice o line).2)))))) := by
  rw [execCxlCacheResponse, h]
  exact (if_neg (not_not.mpr hw)).trans (if_pos h3)

theorem cxlCacheResponse_of_error : execCxlCacheResponse line .error s = .next (s.finishLine line o (.fail 8)) := by
  rw [execCxlCacheResponse, h]
  exact if_neg (not_not.mpr hw)

end

theorem recallAnswer_of_recalling {line : Nat} {e : DirEntry} (h : s.dir.find? (fun e => e.line == line) = some e)
    (hr : e.recalling.testBit 4 = true) (data : Option (List Byte)) :
    s.recallAnswer (s.dir.find? (fun e => e.line == line)) 4 data = (s.dirAnswer line 4 data).dirSettle := by
  have hline : e.line = line := beq_iff_eq.mp (List.find?_some h :)
  rw [h, State.recallAnswer, if_pos hr, hline]

theorem dirAnswer_of_data {line : Nat} {e : DirEntry} (h : s.dir.find? (fun e => e.line == line) = some e)
    (hr : e.recalling.testBit 4 = true) (d : List Byte) (ho : e.owned = true) (hs : e.sharers.testBit 4 = true) :
    s.dirAnswer line 4 (some d) = (s.hbmWrite (64 * line) (d.take 64)).dirDrop line 4 e.keep := by
  simp only [State.dirAnswer, h, ho, hs, hr, Bool.and_true, Bool.and_self, if_true]

theorem dirAnswer_of_none {line : Nat} {e : DirEntry} (h : s.dir.find? (fun e => e.line == line) = some e)
    (hr : e.recalling.testBit 4 = true) : s.dirAnswer line 4 none = s.dirDrop line 4 (e.keep && e.owned) := by
  simp only [State.dirAnswer, h, hr, Bool.and_true]

theorem recallAnswer_of_late {e : Option DirEntry} (h : ∀ x, e = some x → x.recalling.testBit 4 = false)
    (data : Option (List Byte)) : s.recallAnswer e 4 data = if data.isSome then s.lateWb else s := by
  cases e with
  | none => rfl
  | some x =>
    unfold State.recallAnswer
    exact if_neg (ne_true_of_eq_false (h x rfl))

/-- A line whose head access waits for the host lies in the host line of `a` (R103). -/
def State.snoopHit (s : State) (a : Nat) (q : LineQ) : Bool :=
  q.wait == .host && (match s.headOp q.line with
    | some (_, o) => s.hostPa o q.line / 64 == a / 64
    | none => false)

theorem snoopHit_iff (a : Nat) (q : LineQ) :
    s.snoopHit a q = true ↔ q.wait = .host ∧ ∃ o, s.headOp q.line = some o ∧ s.hostPa o.2 q.line / 64 = a / 64 := by
  rw [State.snoopHit, Bool.and_eq_true, beq_iff_eq]
  refine and_congr_right fun _ => ?_
  cases s.headOp q.line with
  | none => simp
  | some o => simp

theorem hostSnoop_eq (a : Nat) : execHostSnoop a s = .next (s.emit (.snoopRsp a (s.tr.lines.any (s.snoopHit a)))) := rfl

/-- Settles O25: an answer finds the head access that waits for the host or the recall that waits for it, and anything
else is late. -/
theorem hostAnswers : Obligations.HostAnswers := by
  unfold Obligations.HostAnswers
  refine ⟨fun line bytes s q o h hw => ⟨fun hop => ?_, fun h1 h9 h3 => ?_, fun h3 hgot => ?_, fun h3 hgot => ?_,
      cxlCacheResponse_of_error h hw⟩,
    fun line data s e h hr => ⟨congrArg Host.Outcome.next (recallAnswer_of_recalling h hr data), ?_, ?_⟩,
    fun line d s h => ⟨congrArg Host.Outcome.next ((recallAnswer_of_late h (some d)).trans (if_pos rfl)),
      congrArg Host.Outcome.next ((recallAnswer_of_late h none).trans (if_neg Bool.false_ne_true))⟩,
    fun a s => ⟨fun hno => ?_, fun ⟨q, hq, hhit⟩ => ?_⟩⟩
  · have h3 : Pkt.opcode o.pkt ≠ 3 := by rcases hop with h1 | h9 <;> omega
    exact (cxlCacheResponse_of_plain h hw bytes h3).trans (by rw [if_pos hop])
  · exact (cxlCacheResponse_of_plain h hw bytes h3).trans (by rw [if_neg (not_or.mpr ⟨h1, h9⟩)])
  · exact (cxlCacheResponse_of_atomic h hw bytes h3).trans (if_neg fun hany =>
      let ⟨g, hg, hl⟩ := List.any_eq_true.mp hany
      hgot g hg (beq_iff_eq.mp hl))
  · exact (cxlCacheResponse_of_atomic h hw bytes h3).trans (if_pos
      (let ⟨g, hg, hl⟩ := hgot
      List.any_eq_true.mpr ⟨g, hg, beq_iff_eq.mpr hl⟩))
  · rintro d rfl ho hs
    exact dirAnswer_of_data h hr d ho hs
  · rintro rfl
    exact dirAnswer_of_none h hr
  · have hnone : s.tr.lines.any (s.snoopHit a) = false := by
      refine List.any_eq_false.mpr fun q hq hhit => ?_
      obtain ⟨hwait, o, ho, hpa⟩ := (snoopHit_iff a q).mp hhit
      exact hno q hq hwait o ho hpa
    exact (hostSnoop_eq a).trans (by rw [hnone])
  · have hsome : s.tr.lines.any (s.snoopHit a) = true := List.any_eq_true.mpr ⟨q, hq, (snoopHit_iff a q).mpr hhit⟩
    exact (hostSnoop_eq a).trans (by rw [hsome])

end Sys2Proof.Machine
end

section
/-! The buffer pools: the order in which units are served, and frees (R189 to R195). -/

namespace Sys2Proof.Machine

/-- A fold in which one element acts, and everything is at rest before it and after it. -/
theorem foldl_once {σ α : Type} {f : σ → α → σ} {s : σ} {k : α} {l : List α} (hk : k ∈ l) (before : ∀ j ≠ k, f s j = s)
    (after : ∀ j, f (f s k) j = f s k) : l.foldl f s = f s k := by
  induction l with
  | nil => exact absurd hk List.not_mem_nil
  | cons x xs ih =>
    rw [List.foldl_cons]
    by_cases hx : x = k
    · rw [hx]
      exact List.foldl_fixed' after xs
    · rw [before x hx]
      exact ih ((List.mem_cons.mp hk).resolve_left (Ne.symm hx))

/-- The first hit of a turn of `n` places, when no place before it hits. -/
theorem findSome?_turn {α β : Type} {f : α → Option β} {h : Nat → α} {n i : Nat} {b : β} (hi : i < n) (hhit : f (h i) = some b)
    (hmiss : ∀ j < i, f (h j) = none) : ((List.range n).map h).findSome? f = some b := by
  rw [List.findSome?_map]
  obtain ⟨m, rfl⟩ := Nat.exists_eq_add_of_lt hi
  rw [Nat.add_assoc, List.range_add, List.findSome?_append,
    (List.findSome?_eq_none_iff (p := f ∘ h)).mpr fun j hj => hmiss j (List.mem_range.mp hj), Option.none_or, List.range_succ_eq_map,
    List.map_cons, List.findSome?_cons]
  simp only [Function.comp_apply, Nat.add_zero, hhit]

variable {α : Type} {p : α → Bool} {l : List α}

theorem takeFirst_eq_none (h : ∀ a ∈ l, p a = false) : takeFirst p l = none := by
  induction l with
  | nil => rfl
  | cons a l ih =>
    rw [takeFirst, h a (.head l), ih fun x hx => h x (.tail a hx)]
    rfl

theorem takeFirst_cons_of_pos {a : α} (h : p a = true) : takeFirst p (a :: l) = some (a, l) := by
  rw [takeFirst, if_pos h]

variable {s : State} {k n : Nat}

theorem poolWarn_pl (s : State) (k : Nat) : (s.poolWarn k).pl = s.pl := by
  unfold State.poolWarn
  dsimp only
  split <;> rfl

theorem setBufs_pl (s : State) (k : Nat) (m : SMap Buf) (free : Nat) :
    (s.setBufs k m free).pl = { s.pl with bufs := mset [] s.pl.bufs k m } := by
  unfold State.setBufs
  rw [poolWarn_pl]
  dsimp only
  split <;> rfl

/-- A request of the pool manager leaves what waits alone. -/
theorem poolAsk_waiting (s : State) (k n : Nat) (h : Holder) :
    (s.poolAsk k n h).2.pl.asks = s.pl.asks ∧ (s.poolAsk k n h).2.pl.waits = s.pl.waits := by
  unfold State.poolAsk State.poolTake
  split
  next i t heq =>
    split at heq
    · obtain ⟨-, rfl⟩ := Prod.mk.inj (Option.some.inj heq)
      simp only [put_pl, setBufs_pl, and_self]
    · exact absurd heq nofun
  · exact ⟨rfl, rfl⟩

/-- What a unit is told of its request: a buffer, or that the pool is empty (R190). -/
def PoolUser.told (k : Nat) : Option Nat × State → State
  | (some b, s) => s.emit (.buffer k b)
  | (none, s) => s.emit (.poolEnd k 5)

theorem told_pl (k : Nat) (r : Option Nat × State) : (PoolUser.told k r).pl = r.2.pl := by
  obtain ⟨_ | b, t⟩ := r <;> rfl

/-- The state in which the request of unit number `i` on pool `k` is served, with the other requests left. -/
def State.asked (s : State) (k i : Nat) (rest : List (PoolUser × Nat × Nat)) : State :=
  { s with pl := { s.pl with asks := rest, askTurn := mset 0 s.pl.askTurn k ((i + 1) % 3) } }

/-- The unit whose turn comes first among those that ask is served (R192). -/
theorem askOne_of_turn {i : Nat} {u : PoolUser} {rest : List (PoolUser × Nat × Nat)} (hi : i < 3)
    (hu : plainUnits[(mget 0 s.pl.askTurn k + i) % 3]? = some u)
    (hfirst : ∀ j < i, ∀ w ∈ s.pl.asks, w.2.2 = k → some w.1 ≠ plainUnits[(mget 0 s.pl.askTurn k + j) % 3]?)
    (htake : takeFirst (fun (w : PoolUser × Nat × Nat) => w.1 == u && w.2.2 == k) s.pl.asks = some ((u, n, k), rest)) :
    s.askOne k = some (PoolUser.told k ((s.asked k ((mget 0 s.pl.askTurn k + i) % 3) rest).poolAsk k n (.unit u))) := by
  refine findSome?_turn hi ?_ fun j hj => ?_
  · simp only [hu, Option.some_beq_some, htake, Option.map_some]
    unfold State.asked
    generalize State.poolAsk _ k n (.unit u) = r
    obtain ⟨_ | b, t⟩ := r <;> rfl
  · rw [takeFirst_eq_none, Option.map_none]
    rintro w hw
    refine Bool.eq_false_iff.mpr fun htrue => ?_
    obtain ⟨hunit, hpool⟩ := Bool.and_eq_true_iff.mp htrue
    exact hfirst j hj w hw (beq_iff_eq.mp hpool) (beq_iff_eq.mp hunit)

theorem askOne_of_idle (h : ∀ w ∈ s.pl.asks, w.2.2 ≠ k) : s.askOne k = none := by
  refine List.findSome?_eq_none_iff.mpr fun i _ => ?_
  rw [takeFirst_eq_none, Option.map_none]
  intro w hw
  rw [beq_eq_false_iff_ne.mpr (h w hw), Bool.and_false]

theorem askPool_of_idle (m : Nat) (h : ∀ w ∈ s.pl.asks, w.2.2 ≠ k) : askPool k m s = s := by
  cases m with
  | zero => rfl
  | succ m => rw [askPool, askOne_of_idle h]

/-- One pool's part of a serving (R192). -/
def State.serveStep (s : State) (k : Nat) : State := servePool k s.pl.waits.length (askPool k s.pl.asks.length s)

theorem poolServe_eq : s.poolServe = (List.range 5).foldl State.serveStep s := rfl

theorem serveStep_of_idle (hw : s.pl.waits = []) (h : ∀ w ∈ s.pl.asks, w.2.2 ≠ k) : s.serveStep k = s := by
  rw [State.serveStep, askPool_of_idle _ h, hw]
  rfl

theorem idxOf_plainUnits {u : PoolUser} {i : Nat} (h : plainUnits[i]? = some u) : plainUnits.idxOf u = i := by
  obtain ⟨hi, rfl⟩ := List.getElem?_eq_some_iff.mp h
  exact List.Nodup.idxOf_getElem (by decide) i hi

theorem exists_plainUnits {u : PoolUser} (h : PoolUser.exempt u = false) : plainUnits[plainUnits.idxOf u]? = some u := by
  revert h
  cases u <;> decide

/-- A request alone in its cycle is served whosever turn it is. -/
theorem askOne_of_alone {u : PoolUser} (hu : PoolUser.exempt u = false) (hasks : s.pl.asks = [(u, n, k)]) :
    s.askOne k = some (PoolUser.told k ((s.asked k (plainUnits.idxOf u) []).poolAsk k n (.unit u))) := by
  have hidx := exists_plainUnits hu
  have hlt : plainUnits.idxOf u < 3 := (List.getElem?_eq_some_iff.mp hidx).1
  have hturn : (mget 0 s.pl.askTurn k + (plainUnits.idxOf u + 3 - mget 0 s.pl.askTurn k % 3) % 3) % 3 = plainUnits.idxOf u := by
    omega
  rw [← hturn]
  refine askOne_of_turn (Nat.mod_lt _ (by decide)) (hturn.symm ▸ hidx) (fun j hj w hw _ heq => ?_) ?_
  · rw [hasks, List.mem_singleton] at hw
    rw [hw] at heq
    have hj' : plainUnits.idxOf u = _ := idxOf_plainUnits heq.symm
    omega
  · rw [hasks]
    exact takeFirst_cons_of_pos (by rw [beq_self_eq_true, beq_self_eq_true, Bool.and_self])

theorem poolFor_lt {size : Nat} (h : s.poolFor size = some k) : k < 5 := by
  unfold State.poolFor at h
  split_ifs at h <;> cases h <;> decide

/-- A serving with one plain request in its cycle and none of an exempt unit ends that request alone. -/
theorem poolServe_of_alone {u : PoolUser} (hk : k < 5) (hu : PoolUser.exempt u = false) (hasks : s.pl.asks = [(u, n, k)])
    (hwaits : s.pl.waits = []) :
    s.poolServe = PoolUser.told k ((s.asked k (plainUnits.idxOf u) []).poolAsk k n (.unit u)) := by
  have hstep : s.serveStep k = PoolUser.told k ((s.asked k (plainUnits.idxOf u) []).poolAsk k n (.unit u)) := by
    rw [State.serveStep, hwaits, hasks]
    change askPool k 1 s = _
    simp only [askPool, askOne_of_alone hu hasks]
  have hplStep : (s.serveStep k).pl.asks = [] ∧ (s.serveStep k).pl.waits = [] := by
    rw [hstep, told_pl]
    obtain ⟨ha, hw⟩ := poolAsk_waiting (s.asked k (plainUnits.idxOf u) []) k n (.unit u)
    exact ⟨ha, hw.trans hwaits⟩
  rw [poolServe_eq, foldl_once (List.mem_range.mpr hk), hstep]
  · intro j hj
    refine serveStep_of_idle hwaits fun w hw => ?_
    rw [hasks, List.mem_singleton] at hw
    rw [hw]
    exact Ne.symm hj
  · intro j
    refine serveStep_of_idle hplStep.2 ?_
    rw [hplStep.1]
    exact nofun

section
variable {u : PoolUser} {n : Part} {size k : Nat} {more : Bool} (hk : s.poolFor size = some k)
include hk

theorem poolAlloc_of_exempt (hu : PoolUser.exempt u = true) : execPoolAlloc u n ⟨size, more⟩ s =
    .next (({ s with pl := { s.pl with waits := s.pl.waits ++ [(u, n.val, k)] } } : State).poolCycle more) := by
  rw [execPoolAlloc, hk]
  exact if_pos hu

theorem poolAlloc_of_plain (hu : PoolUser.exempt u = false) : execPoolAlloc u n ⟨size, more⟩ s =
    .next (({ s with pl := { s.pl with asks := s.pl.asks ++ [(u, n.val, k)] } } : State).poolCycle more) := by
  rw [execPoolAlloc, hk]
  exact if_neg (ne_true_of_eq_false hu)

theorem poolAlloc_of_alone (hu : PoolUser.exempt u = false) (hmore : more = false) (hasks : s.pl.asks = [])
    (hwaits : s.pl.waits = []) : execPoolAlloc u n ⟨size, more⟩ s =
      .next (PoolUser.told k ((s.asked k (plainUnits.idxOf u) []).poolAsk k n (.unit u))) := by
  rw [poolAlloc_of_plain hk hu, hmore, hasks, State.poolCycle, if_neg Bool.false_ne_true]
  exact congrArg Host.Outcome.next (poolServe_of_alone (poolFor_lt hk) hu rfl hwaits)

end

theorem asked_of_none {i : Nat} (h : s.pl.asks = []) :
    s.asked k i [] = { s with pl := { s.pl with askTurn := mset 0 s.pl.askTurn k ((i + 1) % 3) } } := by
  rw [State.asked, ← h]

theorem poolRelease_of_inUse {k : Fin 5} {i : Nat} {more : Bool} {b : Buf} (hk : k ≠ 0) (hi : i < poolCount k)
    (hb : s.buf k i = some b) (hu : b.inUse = true) : execPoolRelease k ⟨i, more⟩ s =
      .next ((s.poolGive k i (b.holders.head?.getD (.unit .endpoint))).poolCycle more) := by
  have hguard : ¬ (k.val = 0 ∨ poolCount k.val ≤ i) := not_or.mpr ⟨fun h => hk (Fin.ext h), Nat.not_le.mpr hi⟩
  rw [execPoolRelease, if_neg hguard]
  dsimp only
  rw [hb]
  exact if_pos hu

theorem loseCell_regs (s : State) (i : Nat) : (s.loseCell i).regs = s.regs := by
  unfold State.loseCell
  split <;> rfl

theorem loseCell_sameMem (s : State) (i : Nat) : SameMem s (s.loseCell i) := by
  unfold State.loseCell
  split <;> exact ⟨rfl, rfl, rfl, rfl⟩

/-- The buffers that a batch out of range lists lose their holder (R194). -/
def State.lostCells (s : State) (first : Nat) (w held : Word) : State :=
  ((setBitsOf 64 w.toNat).filter (fun i => bit held i)).foldl (fun t i => t.loseCell (first + i)) s

theorem lostCells_regs (first : Nat) (w held : Word) : (s.lostCells first w held).regs = s.regs :=
  foldl_same State.regs _ _ (fun t _ _ => loseCell_regs t _)

theorem lostCells_sameMem (first : Nat) (w held : Word) : SameMem s (s.lostCells first w held) :=
  List.foldlRecOn _ _ ⟨rfl, rfl, rfl, rfl⟩ fun _ h _ _ => h.trans (loseCell_sameMem _ _)

theorem cellBatchFree_of_range {first : Nat} {w held : Word} {more : Bool} (h : first % 64 = 0) (hend : first + 64 ≤ 131072) :
    execCellBatchFree ⟨first, more⟩ w held s =
      .next (((setBitsOf 64 w.toNat).foldl (fun t i => t.freeCell (first + i) (bit held i)) s).poolCycle more) :=
  if_pos ⟨h, hend⟩

/-- The record of a batch out of range (R194). -/
def State.rangeErr (s : State) (first : Nat) : State :=
  ((s.flag POOL_STATUS_RANGE_ERR).bump POOL_RANGE_ERR_COUNT).poolErr 2 0 first

theorem rangeErr_onlyRegs (s : State) (first : Nat) :
    OnlyRegs s (s.rangeErr first) [POOL_STATUS, POOL_RANGE_ERR_COUNT, POOL_ERR_INFO] := by
  unfold State.rangeErr State.poolErr
  exact (((OnlyRegs.refl s _).flag (.head _)).bump (.tail _ (.head _))).setReg _ (.tail _ (.tail _ (.head _)))

theorem rangeErr_flag (s : State) (first : Nat) : (s.rangeErr first).get POOL_STATUS_RANGE_ERR = 1 := by
  unfold State.rangeErr State.poolErr
  rw [get_setReg_of_id _ rfl, get_bump_of_id rfl]
  exact get_flag_same (by decide) (by decide)

theorem rangeErr_count (s : State) (first : Nat) :
    (s.rangeErr first).reg POOL_RANGE_ERR_COUNT = s.reg POOL_RANGE_ERR_COUNT + 1 := by
  unfold State.rangeErr State.poolErr
  rw [reg_setReg_of_id _ rfl, reg_bump_same]
  exact congrArg (· + 1) (reg_put_of_id 1 rfl)

theorem cellBatchFree_out_of_range {first : Nat} {w held : Word} {more : Bool} (h : first % 64 ≠ 0 ∨ 131072 < first + 64) :
    execCellBatchFree ⟨first, more⟩ w held s = .next (((s.lostCells first w held).rangeErr first).poolCycle more) :=
  if_neg fun ⟨hmod, hend⟩ => h.elim (· hmod) (Nat.not_lt.mpr hend)

/-- The state once each buffer's record was audited (R195). -/
def State.audited (s : State) : State :=
  (List.range 5).foldl (fun t k => (mget [] t.pl.bufs k).foldl (fun t e => t.auditBuf k e.1) t) s

theorem auditSweep_of_due (h : s.pl.lastSweep + 4096 ≤ s.edge) : execAuditSweep s =
    .next (({ s.audited with pl := { s.audited.pl with lastSweep := s.audited.edge } } : State).wr POOL_AUDIT_BEAT
      s.audited.beat).poolServe := by
  rw [execAuditSweep, if_pos h]
  unfold State.audited
  generalize List.foldl _ s (List.range 5) = t
  rfl

/-- Settles O24: an allocation joins what its cycle asks for, and a free gives back what its record allows. -/
theorem bufferPools : Obligations.BufferPools := by
  unfold Obligations.BufferPools
  refine ⟨fun u n size k more s hk hu => poolAlloc_of_exempt hk hu,
    fun u n size k more s hk hu => ⟨poolAlloc_of_plain hk hu, fun hmore hasks hwaits => ?_⟩,
    fun k i n u rest s hi hunit hfirst htake => ?_,
    fun k i more s b hk hi hb hu => poolRelease_of_inUse hk hi hb hu,
    fun k i more s hk hi hb => ⟨s.doubleFree k i, ?_, reg_doubleFree_count s k i, ?_, reg_doubleFree_errInfo s k i,
      doubleFree_onlyRegs s k i⟩,
    fun first w held more s h hend => cellBatchFree_of_range h hend,
    fun first w held more s h => ⟨_, cellBatchFree_out_of_range h, rangeErr_flag _ _, ?_, (rangeErr_onlyRegs _ _).pl_eq,
      fun k hk => ?_, (lostCells_sameMem _ _ _).trans (rangeErr_onlyRegs _ _).sameMem⟩,
    fun s h => ?_⟩
  · refine (poolAlloc_of_alone hk hu hmore hasks hwaits).trans (congrArg Host.Outcome.next ?_)
    rw [asked_of_none hasks]
    generalize State.poolAsk _ k _ _ = r
    obtain ⟨_ | b, t⟩ := r <;> rfl
  · rw [askOne_of_turn hi hunit hfirst htake]
    refine congrArg some ?_
    dsimp only [State.asked]
    generalize State.poolAsk _ k n (.unit u) = r
    obtain ⟨_ | b, t⟩ := r <;> rfl
  · exact exec_poolRelease_of_free more s (fun h => hk (Fin.ext h)) hi (by rw [hb]; exact nofun)
  · rw [testBit_doubleFree_status s k i k.isLt, beq_self_eq_true, Bool.or_true]
  · rw [rangeErr_count, State.reg, lostCells_regs, State.reg]
  · rw [(rangeErr_onlyRegs _ _).reg_eq hk, State.reg, lostCells_regs, State.reg]
  · have heq := auditSweep_of_due h
    unfold State.audited at heq
    exact heq

end Sys2Proof.Machine
end

section
/-! Translations by the host and the invalidation of its cached entries (R77 to R82, R85). -/

namespace Sys2Proof.Machine

variable {s : State} {n : Part} {pasid itag : Nat} {va : Word}

theorem contains_of_req (h : (n.val, pasid, va.toNat) ∈ s.xl.reqs) : s.xl.reqs.contains (n.val, pasid, va.toNat) = true :=
  List.contains_iff_mem.mpr h

section
variable (h : (n.val, pasid, va.toNat) ∈ s.xl.reqs)
include h

theorem translationCompletion_of_granule {size : Nat} (hsize : size = 2 ^ 21 ∨ size = 2 ^ 30) (r w : Bool) (pa : Word) :
    let base := va.toNat / size * size
    let e : AtcEntry := ⟨n, pasid, base, size, r, w, pa.toNat / size * size⟩
    let atc := (e :: s.xl.atc.filter (fun x => !(x.part == n && x.pasid == pasid && x.va == base && x.size == size))).take 8192
    execTranslationCompletion n pasid va (.mapped size r w pa) s =
      .next (({ s with xl := { s.xl with atc := atc } }).regionDone n pasid va.toNat
        size (fun write => if (if write then w else r) then none else some (1, some 6))) := by
  dsimp only
  rw [execTranslationCompletion, contains_of_req h]
  exact (if_neg Bool.false_ne_true).trans (if_pos hsize)

theorem translationCompletion_of_other_size {size : Nat} (h21 : size ≠ 2 ^ 21) (h30 : size ≠ 2 ^ 30) (r w : Bool) (pa : Word) :
    execTranslationCompletion n pasid va (.mapped size r w pa) s =
      .next ((s.bump XLAT_GRANULE_COUNT).regionDone n pasid va.toNat (2 ^ 21) (fun _ => some (0xA, some 7))) := by
  rw [execTranslationCompletion, contains_of_req h]
  exact (if_neg Bool.false_ne_true).trans (if_neg (not_or.mpr ⟨h21, h30⟩))

theorem translationCompletion_of_error : execTranslationCompletion n pasid va .error s =
    .next (s.regionDone n pasid va.toNat (2 ^ 21) (fun _ => some (1, some 8))) := by
  rw [execTranslationCompletion, contains_of_req h]
  exact if_neg Bool.false_ne_true

theorem translationCompletion_of_none : execTranslationCompletion n pasid va .none s =
    .next (s.regionDone n pasid va.toNat (2 ^ 21) (fun _ => some (1, some 6))) := by
  rw [execTranslationCompletion, contains_of_req h]
  exact if_neg Bool.false_ne_true

theorem atsTimeout_of_req : execAtsTimeout n pasid va s =
    .next ((s.bump XLAT_ATS_TIMEOUT_COUNT).regionDone n pasid va.toNat (2 ^ 21) (fun _ => some (9, none))) :=
  if_pos (contains_of_req h)

end

section
variable (h : (n.val, pasid, va.toNat) ∉ s.xl.reqs)
include h

theorem not_contains_of_not_req : s.xl.reqs.contains (n.val, pasid, va.toNat) = false :=
  Bool.eq_false_iff.mpr (mt List.contains_iff_mem.mp h)

theorem translationCompletion_of_not_req (a : AtsAnswer) : execTranslationCompletion n pasid va a s = .next s := by
  unfold execTranslationCompletion
  dsimp only
  rw [not_contains_of_not_req h]
  exact if_pos rfl

theorem atsTimeout_of_not_req : execAtsTimeout n pasid va s = .next s :=
  if_neg (ne_true_of_eq_false (not_contains_of_not_req h))

end

/-- A cached translation of the range that an Invalidate Request names (R80). -/
def AtcEntry.hitBy (pasid : Option Nat) (va size : Nat) (e : AtcEntry) : Bool :=
  (match pasid with | some q => e.pasid == q | none => true) && decide (e.va < va + size) && decide (va < e.va + e.size)

theorem hitBy_iff {pasid : Option Nat} {va size : Nat} {e : AtcEntry} : AtcEntry.hitBy pasid va size e = true ↔
    (pasid = none ∨ pasid = some e.pasid) ∧ e.va < va + size ∧ va < e.va + e.size := by
  unfold AtcEntry.hitBy
  rw [Bool.and_eq_true, Bool.and_eq_true, decide_eq_true_eq, decide_eq_true_eq, and_assoc]
  cases pasid with
  | none => simp
  | some q => simp [eq_comm (a := q)]

theorem invalidateRequest_eq (pasid : Option Nat) (size : Nat) : execInvalidateRequest itag pasid va size s =
    .next { s with xl := { s.xl with
      atc := s.xl.atc.filter (fun e => !AtcEntry.hitBy pasid va.toNat size e),
      invals := s.xl.invals ++ [⟨itag, (s.xl.atc.filter (AtcEntry.hitBy pasid va.toNat size)).map
        (fun e => Use.host e.part e.pasid e.va)⟩] } } := rfl

theorem invalidationCompletion_of_unknown (h : ∀ i ∈ s.xl.invals, i.itag ≠ itag) :
    execInvalidationCompletion itag s = .next s := by
  rw [execInvalidationCompletion, takeFirst_eq_none fun i hi => beq_eq_false_iff_ne.mpr (h i hi)]

/-- The end of an invalidation (R81). -/
def State.invalEnd (s : State) (rest : List Inval) (itag : Nat) : State :=
  (({ s with xl := { s.xl with invals := rest } } : State).bump XLAT_INVAL_COUNT).emit (.invalDone itag)

theorem invalEnd_count (rest : List Inval) : (s.invalEnd rest itag).reg XLAT_INVAL_COUNT = s.reg XLAT_INVAL_COUNT + 1 :=
  reg_bump_same (s := { s with xl := { s.xl with invals := rest } }) XLAT_INVAL_COUNT

theorem invalEnd_sameRegs (rest : List Inval) : SameRegs s (s.invalEnd rest itag) [XLAT_INVAL_COUNT] := fun _ hk =>
  reg_bump_other (s := { s with xl := { s.xl with invals := rest } }) (mt List.mem_singleton.mpr hk)

section
variable {i : Inval} {rest : List Inval} (h : takeFirst (fun (i : Inval) => i.itag == itag) s.xl.invals = some (i, rest))
include h

theorem invalidationCompletion_of_held (hu : ∃ u ∈ i.uses, s.useHeld u = true) :
    execInvalidationCompletion itag s = .next s := by
  rw [execInvalidationCompletion, h]
  exact if_pos (List.any_eq_true.mpr hu)

theorem invalidationCompletion_of_free (hu : ∀ u ∈ i.uses, s.useHeld u = false) : execInvalidationCompletion itag s = .next (s.invalEnd rest itag) := by
  rw [execInvalidationCompletion, h]
  exact if_neg fun hany =>
    let ⟨u, hmem, hheld⟩ := List.any_eq_true.mp hany
    Bool.false_ne_true ((hu u hmem).symm.trans hheld)

end

/-- Settles O19: what waits for a region is told by `regionDone` alone, and an invalidation acts on the cache and on the
list of invalidations. -/
theorem hostTranslations : Obligations.HostTranslations := by
  unfold Obligations.HostTranslations
  refine ⟨fun n pasid va size r w pa s h hsize => translationCompletion_of_granule h hsize r w pa,
    fun n pasid va size r w pa s h h21 h30 => translationCompletion_of_other_size h h21 h30 r w pa,
    fun n pasid va s h => ⟨translationCompletion_of_error h, translationCompletion_of_none h, atsTimeout_of_req h⟩,
    fun n pasid va a s h => ⟨translationCompletion_of_not_req h a, atsTimeout_of_not_req h⟩,
    fun itag pasid va size s => ?_,
    fun itag s h => invalidationCompletion_of_unknown h,
    fun itag s i rest h hu => invalidationCompletion_of_held h hu,
    fun itag s i rest h hu => ⟨_, invalidationCompletion_of_free h hu, rfl, rfl, invalEnd_count rest, invalEnd_sameRegs rest,
      ⟨rfl, rfl, rfl, rfl⟩⟩⟩
  have hhit (e : AtcEntry) : decide ((pasid = none ∨ pasid = some e.pasid) ∧ e.va < va.toNat + size ∧ va.toNat < e.va + e.size) =
      AtcEntry.hitBy pasid va.toNat size e := Bool.eq_iff_iff.mpr (decide_eq_true_iff.trans hitBy_iff.symm)
  simp only [decide_not, hhit]
  exact invalidateRequest_eq pasid size

end Sys2Proof.Machine
end

section
/-! The mailbox commands of the time base, the endpoints, the fault queue and the page table's shares (R32, R33, R62,
R64, R88, R94, R398, R399, R462, R513, R547). -/

namespace Sys2Proof.Machine

variable {s t u : State} {ids : List Nat}

/-! ## Changes that reach the registers of some tables alone -/

/-- Every register outside the tables `ids` reads as before. -/
def RegsBut (ids : List Nat) (s t : State) : Prop := ∀ k : Key, ids.any (Nat.beq k.id) = false → t.reg k = s.reg k

theorem RegsBut.refl (ids : List Nat) (s : State) : RegsBut ids s s := fun _ _ => rfl

theorem RegsBut.trans (h : RegsBut ids s t) (h' : RegsBut ids t u) : RegsBut ids s u := fun k hk =>
  (h' k hk).trans (h k hk)

theorem RegsBut.setReg (h : RegsBut ids s t) {k : Key} (v : Word) (hk : ids.any (Nat.beq k.id) = true) :
    RegsBut ids s (t.setReg k v) := fun j hj => by
  rw [reg_setReg_other t v, h j hj]
  rintro rfl
  exact Bool.false_ne_true (hj.symm.trans hk)

theorem RegsBut.put (h : RegsBut ids s t) {f : Fld} (n : Nat) (hk : ids.any (Nat.beq f.key.id) = true) : RegsBut ids s (t.put f n) :=
  h.setReg _ hk

theorem RegsBut.wr (h : RegsBut ids s t) {k : Key} (n : Nat) (hk : ids.any (Nat.beq k.id) = true) : RegsBut ids s (t.wr k n) :=
  h.setReg _ hk

theorem RegsBut.bump (h : RegsBut ids s t) {k : Key} (hk : ids.any (Nat.beq k.id) = true) : RegsBut ids s (t.bump k) := h.setReg _ hk

theorem RegsBut.same (h : RegsBut ids s t) (hr : u.regs = t.regs) : RegsBut ids s u := fun k hk => by
  rw [State.reg, hr]
  exact h k hk

theorem RegsBut.foldl {α : Type} {f : State → α → State} (hf : ∀ t x, RegsBut ids t (f t x)) (l : List α) (s : State) :
    RegsBut ids s (l.foldl f s) :=
  List.foldlRecOn l f (RegsBut.refl ids s) fun t h x _ => h.trans (hf t x)

/-! ## Sending a request -/

/-- The tables that a request sent writes: the tracker's shares and its stalls, and the array's slots. -/
def sendTables : List Nat := [(TRACK_PART_SHARE_IN_USE 0).key.id, TRACK_STALL_COUNT.id, RDX_SLOTS_FREE.id, (RDX_GROUP_B_SLOTS_USED 0).key.id]

theorem deliver_regs (s : State) (n : Nat) (p : Pkt) : (s.deliver n p).regs = s.regs := by
  unfold State.deliver
  split <;> rfl

theorem toSwitch_regs (s : State) (n : Nat) (p : Pkt) : (s.toSwitch n p).regs = s.regs := by
  unfold State.toSwitch
  split <;> rfl

theorem sendOut_regs (s : State) (n : Nat) (p : Pkt) : (s.sendOut n p).regs = s.regs := by
  unfold State.sendOut
  split
  · split
    · exact toSwitch_regs _ _ _
    · rfl
  · exact toSwitch_regs _ _ _

theorem send_regs (s : State) (n : Nat) (p : Pkt) : (s.send n p).regs = s.regs := by
  unfold State.send
  extract_lets own
  split
  · exact deliver_regs _ _ _
  · exact sendOut_regs _ _ _

theorem openEntry_regsBut (s : State) (p : Pkt) (i : Issuer) (other : Nat) :
    RegsBut sendTables s (s.openEntry p i other).2 :=
  RegsBut.put ((RegsBut.refl _ s).same rfl) _ rfl

theorem rdxCounts_regsBut (s : State) (row : Nat) : RegsBut sendTables s (s.rdxCounts row) := by
  unfold State.rdxCounts
  exact .put (.wr (.refl _ s) _ rfl) _ rfl

theorem slotSent_regsBut (s : State) (chunk : Nat) : RegsBut sendTables s (s.slotSent chunk) := by
  unfold State.slotSent
  split
  · rename_i c rest _
    have htaken : RegsBut sendTables s { s with ra := { s.ra with writing := rest } } := .same (.refl _ s) rfl
    exact htaken.trans (rdxCounts_regsBut _ _)
  · exact .refl _ s

theorem issueNow_regsBut (s : State) (port : Nat) (p : Pkt) (i : Issuer) : RegsBut sendTables s (s.issueNow port p i) := by
  have hopen := openEntry_regsBut s p i 0xFFFF
  unfold State.issueNow
  dsimp only
  generalize s.openEntry p i = r at hopen ⊢
  split
  · split
    · split
      · exact (hopen.trans (slotSent_regsBut _ _)).same (send_regs _ _ _)
      · exact hopen.same (send_regs _ _ _)
    · exact hopen.same (send_regs _ _ _)
  · exact hopen.same (deliver_regs _ _ _)

theorem issue_regsBut (s : State) (port : Nat) (p : Pkt) (i : Issuer) : RegsBut sendTables s (s.issue port p i) := by
  unfold State.issue
  split
  · exact issueNow_regsBut _ _ _ _
  · exact ((RegsBut.refl _ s).same rfl).bump rfl

theorem sendCtl_regsBut (s : State) (dst : Nat) (c : Ctl) : RegsBut sendTables s (s.sendCtl dst c) := issue_regsBut _ _ _ _

/-! ## The time base -/

theorem fibreLow_regsBut (s : State) : RegsBut [TIME_STATUS_FIBRE_ALLOW_LOW.key.id] s s.fibreLow :=
  (RegsBut.refl _ s).put _ rfl

/-- `MB_HELLO` with its version negotiated (R398). -/
def State.hello (s : State) (m minor : Nat) : State := (s.put (MB_STATUS_VER_MAJOR m) 1).put (MB_STATUS_VER_MINOR m) minor

theorem hello_facts (s : State) (m : Nat) {minor : Nat} (h : minor < 256) : (s.hello m minor).get (MB_STATUS_VER_MAJOR m) = 1 ∧
    (s.hello m minor).get (MB_STATUS_VER_MINOR m) = minor ∧ ∀ k, k ≠ MB_STATUS m → (s.hello m minor).reg k = s.reg k := by
  unfold State.hello
  refine ⟨?_, get_put_field (show 8 ≤ 15 by decide) (show 15 < 64 by decide) h, fun k hk => ?_⟩
  · rw [get_put_apart]
    · exact get_put_field (show 16 ≤ 23 by decide) (show 23 < 64 by decide) (show 1 < 2 ^ 8 by decide)
    · simp [Fld.apart, MB_STATUS_VER_MAJOR, MB_STATUS_VER_MINOR]
  · exact (reg_setReg_other _ _ hk).trans (reg_setReg_other _ _ hk)

theorem mbHello_of_version {m : Mbx} (h : s.mbReady { opcode := 1, need := 1, tenant := true, naming := false, kept := true } m true)
    (hv : bits (s.cmd m 1) 7 0 = 1) : ∃ w1 w2, execMbHello m s =
      .next ((s.hello m (min (bits (s.cmd m 1) 15 8) 2)).mbComplete m 0 0 [w1, w2, s.reg GLOBAL_OPTIONS]) := by
  unfold execMbHello
  extract_lets n minor t id w1 w2
  refine ⟨w1, w2, ?_⟩
  rw [if_neg (not_not.mpr hv)]
  exact mb_done h _

/-- The grid change that `TIME_GRID_SET` leaves pending (R33). -/
def State.gridPended (s : State) (len frac at_ : Nat) : State :=
  (((s.put TIME_PENDING_PEND_VALID 1).put TIME_PENDING_PEND_BEAT_LEN len).put TIME_PENDING_PEND_SCHED_FRAC frac).wr
    TIME_PENDING_AT at_

theorem gridPended_facts (s : State) {len frac : Nat} (at_ : Nat) (hl : len < 4) (hf : frac < 16) :
    let u := s.gridPended len frac at_
    u.reg TIME_PENDING_AT = BitVec.ofNat 64 at_ ∧ u.get TIME_PENDING_PEND_VALID = 1 ∧ u.get TIME_PENDING_PEND_BEAT_LEN = len ∧
      u.get TIME_PENDING_PEND_SCHED_FRAC = frac ∧ ∀ k, k ≠ TIME_PENDING → k ≠ TIME_PENDING_AT → u.reg k = s.reg k := by
  unfold State.gridPended
  refine ⟨reg_setReg_same _ _ _, ?_, ?_, ?_, fun k hk hat => ?_⟩
  · rw [get_wr_of_id _ rfl, get_put_apart _ rfl, get_put_apart _ rfl]
    exact get_put_field (by decide) (by decide) (by decide)
  · rw [get_wr_of_id _ rfl, get_put_apart _ rfl]
    exact get_put_field (by decide) (by decide) hl
  · rw [get_wr_of_id _ rfl]
    exact get_put_field (by decide) (by decide) hf
  · rw [State.wr, reg_setReg_other _ _ hat]
    exact (reg_put_other _ _ hk).trans ((reg_put_other _ _ hk).trans (reg_put_other _ _ hk))

theorem timeGridSet_of_root {m : Mbx} (h : s.mbReady { primary 0x101 2 with kept := true } m true)
    (hrole : s.get TIME_STATUS_ROLE = 2) (hpend : s.on TIME_PENDING_PEND_VALID = false) : execTimeGridSet m s =
      .next ((s.gridPended (bits (s.arg m 0) 1 0) (bits (s.arg m 0) 7 4) (s.beat + 256)).mbComplete m 0 0 []) := by
  unfold execTimeGridSet
  extract_lets n w t
  rw [if_neg (not_not.mpr hrole), hpend, if_neg Bool.false_ne_true]
  exact mb_done h _

theorem reg_setMask_same (s : State) (k : Key) (mask : Nat) (v : Word) : (s.setMask k mask v).reg k =
    (s.reg k &&& ~~~BitVec.ofNat 64 mask) ||| (v &&& BitVec.ofNat 64 mask) := reg_setReg_same _ _ _

/-- A field that lies within the mask takes its new value. -/
theorem get_setMask_within (s : State) {k : Key} {mask hi lo : Nat} (v : Word) (hm : ∀ i < 64, lo ≤ i → i ≤ hi → mask.testBit i = true)
    (h64 : hi < 64) : (s.setMask k mask v).get ⟨k, hi, lo⟩ = bits v hi lo := by
  rw [State.get, reg_setMask_same, bits, bits, nbits, nbits]
  refine Nat.eq_of_testBit_eq fun i => ?_
  simp only [Nat.testBit_mod_two_pow, Nat.testBit_div_two_pow, BitVec.testBit_toNat]
  by_cases hi' : i < hi + 1 - lo
  · have hlt : i + lo < 64 := by omega
    have hbit := hm (i + lo) hlt (by omega) (by omega)
    simp [-BitVec.getLsbD_eq_getElem, BitVec.getLsbD_ofNat, hbit, hlt]
  · simp [hi']

/-- A field that lies outside the mask keeps its value. -/
theorem get_setMask_outside (s : State) {k : Key} {mask hi lo : Nat} (v : Word) (hm : ∀ i < 64, lo ≤ i → i ≤ hi → mask.testBit i = false)
    (h64 : hi < 64) : (s.setMask k mask v).get ⟨k, hi, lo⟩ = s.get ⟨k, hi, lo⟩ := by
  rw [State.get, reg_setMask_same, State.get, bits, bits, nbits, nbits]
  refine Nat.eq_of_testBit_eq fun i => ?_
  simp only [Nat.testBit_mod_two_pow, Nat.testBit_div_two_pow, BitVec.testBit_toNat]
  by_cases hi' : i < hi + 1 - lo
  · have hlt : i + lo < 64 := by omega
    have hbit := hm (i + lo) hlt (by omega) (by omega)
    simp [-BitVec.getLsbD_eq_getElem, BitVec.getLsbD_ofNat, hbit, hlt]
  · simp [hi']

theorem RegsBut.get_eq (h : RegsBut ids s t) {f : Fld} (hk : ids.any (Nat.beq f.key.id) = false) : t.get f = s.get f := by
  rw [State.get, h _ hk, State.get]

/-- The settings of the time base as `TIME_CONFIG_SET` writes them (R399). -/
def State.timeConfigured (s : State) (w guard allow defer_ barrier : Word) : State :=
  (((((s.setMask TIME_CONFIG 0xFF00 w).setReg TIME_GUARD guard).setReg TIME_FIBRE_ALLOW allow).setReg TIME_DEFER_LIMIT
    defer_).setReg TIME_BARRIER_LIMIT barrier).fibreLow

theorem timeConfigured_facts (s : State) (w guard allow defer_ barrier : Word) :
    let u := s.timeConfigured w guard allow defer_ barrier
    u.get TIME_CONFIG_ROOT_PRIO = bits w 15 8 ∧ u.get TIME_CONFIG_BEAT_LEN = s.get TIME_CONFIG_BEAT_LEN ∧
      u.reg TIME_GUARD = guard ∧ u.reg TIME_FIBRE_ALLOW = allow ∧ u.reg TIME_DEFER_LIMIT = defer_ ∧
      u.reg TIME_BARRIER_LIMIT = barrier := by
  unfold State.timeConfigured
  refine ⟨?_, ?_, ?_, ?_, ?_, ?_⟩
  · rw [(fibreLow_regsBut _).get_eq rfl, get_setReg_of_id _ rfl, get_setReg_of_id _ rfl, get_setReg_of_id _ rfl,
      get_setReg_of_id _ rfl]
    exact get_setMask_within _ _ (by decide) (by decide)
  · rw [(fibreLow_regsBut _).get_eq rfl, get_setReg_of_id _ rfl, get_setReg_of_id _ rfl, get_setReg_of_id _ rfl,
      get_setReg_of_id _ rfl]
    exact get_setMask_outside _ _ (by decide) (by decide)
  · rw [fibreLow_regsBut _ _ rfl, reg_setReg_of_id _ rfl, reg_setReg_of_id _ rfl, reg_setReg_of_id _ rfl, reg_setReg_same]
  · rw [fibreLow_regsBut _ _ rfl, reg_setReg_of_id _ rfl, reg_setReg_of_id _ rfl, reg_setReg_same]
  · rw [fibreLow_regsBut _ _ rfl, reg_setReg_of_id _ rfl, reg_setReg_same]
  · rw [fibreLow_regsBut _ _ rfl, reg_setReg_same]

/-! ## The endpoints -/

theorem showSlot_regsBut (s : State) (i : Nat) : RegsBut [(HEALTH_PEER_A 0).id] s (s.showSlot i) := by
  unfold State.showSlot
  split
  · split
    · exact .put (.refl _ s) _ rfl
    · exact .refl _ s
  · exact .refl _ s

theorem sendOwned_regsBut (s : State) (i : Nat) : RegsBut sendTables s (s.sendOwned i) := sendCtl_regsBut _ _ _

/-- What the peers are told of the identifiers that `XLAT_EP_SET` writes (R462, R547). -/
def State.epTold (s : State) (a b : Word) : State :=
  ((List.range 96).filter (fun i => s.get (HEALTH_PEER_A_STATE i) != 0 && mget none s.he.slots i == none)).foldl
    (fun t i => t.sendOwned i)
    ((List.range 96).foldl (fun t i => t.showSlot i) ((s.setMask XLAT_EP_SELF 0xFFFFFFFF a).setReg XLAT_EP_ACCEL b))

/-- No message and no peer entry holds the serial number. -/
theorem epTold_serial (s : State) (a b : Word) : (s.epTold a b).reg GLOBAL_SERIAL = s.reg GLOBAL_SERIAL := by
  unfold State.epTold
  rw [RegsBut.foldl sendOwned_regsBut _ _ GLOBAL_SERIAL rfl,
    RegsBut.foldl showSlot_regsBut _ _ GLOBAL_SERIAL rfl, reg_setReg_of_id _ rfl]
  exact reg_setReg_of_id _ rfl

theorem putRecord_epTold (s : State) (a b : Word) (r : BootRecord) : (s.epTold a b).putRecord r =
    { s.epTold a b with rs := { (s.epTold a b).rs with
      boot := { r with serial := s.reg GLOBAL_SERIAL, crc := crc32 { r with serial := s.reg GLOBAL_SERIAL }.bytes },
      recording := true } } := by
  unfold State.putRecord
  rw [epTold_serial]

theorem xlatEpSet_of_distinct {m : Mbx} (h : s.mbReady (primary 0x201 3) m true) :
    let a := s.arg m 0
    let b := s.arg m 1
    let ids := ((bits a 15 0 :: (List.range 4).map (fun i => bits b (16 * i + 15) (16 * i))) ++ [bits a 31 16]).filter
      (fun e => e != 0xFFFF)
    0 ∉ ids → ids.eraseDups.length = ids.length → execXlatEpSet m s =
      .next ((if bits a 15 0 = s.selfId then s.epTold a b
        else (s.epTold a b).putRecord { s.rs.boot with selfId := bits a 15 0 }).arbView.mbComplete m 0 0 []) := by
  intro a b ids h0 hdup
  have hok : ¬ (ids.contains 0 = true ∨ ids.eraseDups.length ≠ ids.length) :=
    not_or.mpr ⟨mt List.contains_iff_mem.mp h0, not_not.mpr hdup⟩
  unfold execXlatEpSet State.epTold
  extract_lets
  rw [if_neg hok]
  exact mb_done h _

/-! ## The fault queue and the shares -/

theorem fqFull_regsBut (s : State) (n : Nat) : RegsBut [(XLAT_FQ_STATUS 0).id] s (s.fqFull n) := .put (.refl _ s) _ rfl

/-- The fault queue of partition `n` with its base written and both indices 0 (R88). -/
def State.fqBased (s : State) (n : Nat) (w : Word) : State :=
  (((s.setMask (XLAT_FQ_BASE n) 0xFFFFFFFFFFFFF003 w).wr (XLAT_FQ_PROD n) 0).wr (XLAT_FQ_CONS n) 0).fqFull n

theorem fqBased_facts (s : State) (n : Nat) (w : Word) : (s.fqBased n w).reg (XLAT_FQ_PROD n) = 0 ∧
    (s.fqBased n w).reg (XLAT_FQ_CONS n) = 0 ∧
    (s.fqBased n w).reg (XLAT_FQ_BASE n) = (s.setMask (XLAT_FQ_BASE n) 0xFFFFFFFFFFFFF003 w).reg (XLAT_FQ_BASE n) := by
  unfold State.fqBased
  refine ⟨?_, ?_, ?_⟩
  · rw [fqFull_regsBut _ _ _ rfl, reg_wr_of_id _ rfl]
    exact reg_setReg_same _ _ _
  · rw [fqFull_regsBut _ _ _ rfl]
    exact reg_setReg_same _ _ _
  · rw [fqFull_regsBut _ _ _ rfl, reg_wr_of_id _ rfl, reg_wr_of_id _ rfl]

theorem xlatShareSet_of_free {m : Mbx} (h : s.mbReady (primary 0x209 2 true) m true) (hsel : s.selFree m)
    (hlen : bits (s.arg m 0) 14 0 + bits (s.arg m 0) 31 16 ≤ 32768)
    (hover : s.shareOverlap (s.selPart m) XLAT_PART_PAGES_FIRST XLAT_PART_PAGES_COUNT (bits (s.arg m 0) 14 0)
      (bits (s.arg m 0) 31 16) = false)
    (hkept : ∀ e ∈ s.xl.page0, pgValid e.2 = true → givenUp (s.get (XLAT_PART_PAGES_FIRST (s.selPart m)))
      (s.get (XLAT_PART_PAGES_COUNT (s.selPart m))) (bits (s.arg m 0) 14 0) (bits (s.arg m 0) 31 16) e.1 = false) :
    execXlatShareSet m s = .next ((s.setMask (XLAT_PART_PAGES (s.selPart m)) 0xFFFF7FFF (s.arg m 0)).mbComplete m 0 0 []) := by
  have hfits : ¬ (32768 < bits (s.arg m 0) 14 0 + bits (s.arg m 0) 31 16 ∨ s.shareOverlap (s.selPart m)
      XLAT_PART_PAGES_FIRST XLAT_PART_PAGES_COUNT (bits (s.arg m 0) 14 0) (bits (s.arg m 0) 31 16) = true) :=
    not_or.mpr ⟨Nat.not_lt.mpr hlen, ne_true_of_eq_false hover⟩
  have hnone : ¬ (s.xl.page0.any (fun e => pgValid e.2 && givenUp (s.get (XLAT_PART_PAGES_FIRST (s.selPart m)))
      (s.get (XLAT_PART_PAGES_COUNT (s.selPart m))) (bits (s.arg m 0) 14 0) (bits (s.arg m 0) 31 16) e.1) = true) := by
    intro hany
    obtain ⟨e, he, hboth⟩ := List.any_eq_true.mp hany
    obtain ⟨hvalid, hgiven⟩ := Bool.and_eq_true_iff.mp hboth
    exact Bool.false_ne_true ((hkept e he hvalid).symm.trans hgiven)
  unfold execXlatShareSet
  extract_lets
  rw [spargeGuard_free hsel, if_neg hfits, if_neg hnone]
  exact mb_done h _

/-- Settles O1: each command passes its own checks by its premises and completes with the state that its effect leaves. -/
theorem mailboxTimeAndEndpoints : Obligations.MailboxTimeAndEndpoints := by
  unfold Obligations.MailboxTimeAndEndpoints
  refine ⟨fun m s h hv => ?_, fun m s h hrole hpend => ?_, fun m s h => ?_, fun m s h h0 hdup => ?_,
    fun m s h => mb_done h _, fun m s h => ?_, fun m s h hsel hlen hover hkept => xlatShareSet_of_free h hsel hlen hover hkept⟩
  · obtain ⟨w1, w2, heq⟩ := mbHello_of_version h hv
    exact ⟨_, w1, w2, heq, hello_facts s m (lt_of_le_of_lt (min_le_right _ 2) (by decide))⟩
  · exact ⟨_, timeGridSet_of_root h hrole hpend, gridPended_facts s _ (Nat.mod_lt _ (by decide)) (Nat.mod_lt _ (by decide))⟩
  · exact ⟨s.timeConfigured _ _ _ _ _, mb_done h _, timeConfigured_facts s _ _ _ _ _⟩
  · have heq := xlatEpSet_of_distinct h h0 hdup
    rw [putRecord_epTold] at heq
    exact heq
  · exact ⟨s.fqBased _ _, mb_done h _, fqBased_facts s _ _⟩

end Sys2Proof.Machine
end

section
/-! The mailbox commands of windows and pages (R72, R73, R82, R548, R549). -/

namespace Sys2Proof.Machine

variable {s t : State} {c : MbSpec} {m : Nat} {v : Bool}

/-- A refusal that the negated premise of a check brings in does not come. -/
theorem guard_passes {b : Bool} {x y : MbRes} (h : b = true) : (if !b then x else y) = y := by
  rw [h]
  exact if_neg Bool.false_ne_true

theorem all_of_forall {α : Type} {p : α → Bool} {l : List α} (h : ∀ e ∈ l, p e = true) : l.all p = true := List.all_eq_true.mpr h

/-- A change of a translation that no access uses. -/
theorem changeWait_of_free {uses : List Use} (h : ∀ u ∈ uses, t.useHeld u = false) : t.changeWait m uses = .done [] t :=
  if_neg fun hany =>
    let ⟨u, hu, hheld⟩ := List.any_eq_true.mp hany
    Bool.false_ne_true ((h u hu).symm.trans hheld)

/-- A change of a translation that an access still uses (R82). -/
theorem changeWait_of_held {uses : List Use} (h : ∃ u ∈ uses, t.useHeld u = true) : t.changeWait m uses =
    .wait { t with xl := { t.xl with changes := t.xl.changes ++ [⟨m, uses⟩] } } :=
  if_pos (List.any_eq_true.mpr h)

/-- What a command that changes translations ends in. -/
theorem mb_changeWait (h : s.mbReady c m v) {α : Type} (use : α → Use) (es : List α) :
    if es.all (fun e => !t.useHeld (use e)) then s.mb c m v (t.changeWait m (es.map use)) = .next (t.mbComplete m 0 0 [])
    else s.mb c m v (t.changeWait m (es.map use)) = .next { t with
      xl := { t.xl with changes := t.xl.changes ++ [⟨m, es.map use⟩] },
      hm := { t.hm with running := t.hm.running ++ [m] } } := by
  split
  case isTrue hall =>
    rw [changeWait_of_free, mb_done h]
    intro u hu
    obtain ⟨e, he, rfl⟩ := List.mem_map.mp hu
    exact (Bool.not_eq_true' _).mp (List.all_eq_true.mp hall e he)
  case isFalse hany =>
    rw [changeWait_of_held, mb_wait h]
    have hheld : ∃ e ∈ es, t.useHeld (use e) = true := by simpa using hany
    obtain ⟨e, he, hu⟩ := hheld
    exact ⟨use e, List.mem_map_of_mem he, hu⟩

/-! ## Windows and pages -/

section
variable {m : Mbx}

/-- The entries that `XLAT_WINDOW_SET` writes (R72). -/
def State.windowEntries (s : State) (m : Nat) : List (Nat × Word) :=
  (List.range (min (s.cmdRun m) 223)).map (fun i =>
    (384 * s.selPart m + 64 * (s.cmdIdx m / 64) + s.cmdIdx m % 64 + i, s.arg m i &&& dirMask))

theorem xlatWindowSet_of_ok (hsel : s.selFree m)
    (hlent : s.selPart m = 0 → s.cmdIdx m / 64 = 0 → s.cmdIdx m % 64 + s.cmdRun m ≠ 64 ∧
      ∀ i < s.cmdRun m, s.lentWindow (s.cmdIdx m % 64 + i) = false)
    (hok : ∀ e ∈ s.windowEntries m, s.dirOk (s.selPart m) (s.cmdIdx m / 64) e.2 = true) :
    execXlatWindowSet m s = s.mb (tenant 0x204 (1 + s.cmdRun m)) m
      (decide (s.cmdIdx m / 64 ≤ 5) && decide (s.cmdIdx m % 64 + s.cmdRun m ≤ 64))
      (((s.windowEntries m).foldl (fun t e => { t with xl := { t.xl with winDir := mset 0 t.xl.winDir e.1 e.2 } }) s).changeWait m
        ((s.windowEntries m).map (fun e => Use.dir e.1))) := by
  have hcontrol : ¬ (s.selPart m = 0 ∧ s.cmdIdx m / 64 = 0 ∧ s.cmdIdx m % 64 + s.cmdRun m = 64) :=
    fun ⟨hn, hslot, hrun⟩ => (hlent hn hslot).1 hrun
  have hnone : ¬ (s.selPart m = 0 ∧ s.cmdIdx m / 64 = 0 ∧
      (List.range (min (s.cmdRun m) 64)).any (fun i => s.lentWindow (s.cmdIdx m % 64 + i)) = true) := by
    rintro ⟨hn, hslot, hany⟩
    obtain ⟨i, hi, hl⟩ := List.any_eq_true.mp hany
    have hlt : i < s.cmdRun m := (List.mem_range.mp hi).trans_le (min_le_left _ _)
    exact Bool.false_ne_true (((hlent hn hslot).2 i hlt).symm.trans hl)
  unfold execXlatWindowSet
  extract_lets k n slot win c es t
  have hall : es.all (fun e => s.dirOk n slot e.2) = true := List.all_eq_true.mpr hok
  rw [spargeGuard_free hsel, if_neg hcontrol, if_neg hnone, guard_passes hall]
  rfl

/-- The entries that `XLAT_PAGE_SET` writes (R73). -/
def State.pageEntries (s : State) (m : Nat) : List (Nat × Word × Word) :=
  (List.range (min (s.cmdRun m) 223)).map (fun i =>
    (s.cmdIdx m + i, s.arg m (2 * i) &&& pageMask, s.arg m (2 * i + 1)))

theorem xlatPageSet_of_ok (hsel : s.selFree m)
    (hlent : s.selPart m = 0 → ∀ e ∈ s.pageEntries m, s.lentPage e.1 = false)
    (hshare : s.inPageShare (s.selPart m) (s.cmdIdx m) (s.cmdRun m) = true)
    (hok : ∀ e ∈ s.pageEntries m, s.pageOk (s.selPart m) e.1 e.2.1 e.2.2 = true) :
    execXlatPageSet m s = s.mb { tenant 0x205 (1 + 2 * s.cmdRun m) with units := s.pageUnits m (s.cmdRun m) } m
      (decide (s.cmdIdx m + s.cmdRun m ≤ 32768) && (s.pageEntries m).all (fun e => decide (pgKind e.2.1 ≤ 4)))
      (((s.pageEntries m).foldl (fun t e => t.setPage e.1 e.2.1 e.2.2) s).changeWait m
        ((s.pageEntries m).map (fun e => Use.page e.1))) := by
  unfold execXlatPageSet
  extract_lets k n f c es t
  have hnone : ¬ (n = 0 ∧ es.any (fun e => s.lentPage e.1) = true) := by
    rintro ⟨hn, hany⟩
    obtain ⟨e, he, hl⟩ := List.any_eq_true.mp hany
    exact Bool.false_ne_true ((hlent hn e he).symm.trans hl)
  have hall : (s.inPageShare n f c && es.all (fun e => s.pageOk n e.1 e.2.1 e.2.2)) = true :=
    Bool.and_eq_true_iff.mpr ⟨hshare, List.all_eq_true.mpr hok⟩
  rw [spargeGuard_free hsel, if_neg hnone, guard_passes hall]
  rfl

theorem xlatPageClear_of_share (hsel : s.selFree m) (hshare : s.inPageShare (s.selPart m) (s.cmdIdx m) (s.cmdRun m) = true) :
    execXlatPageClear m s = s.mb (tenant 0x206 1) m (decide (s.cmdIdx m + s.cmdRun m ≤ 32768))
      ((((List.range (min (s.cmdRun m) 32768)).map (· + s.cmdIdx m)).foldl (fun t i => t.setPage i 0 0) s).changeWait m
        (((List.range (min (s.cmdRun m) 32768)).map (· + s.cmdIdx m)).map Use.page)) := by
  unfold execXlatPageClear
  extract_lets
  rw [spargeGuard_free hsel, guard_passes hshare]

theorem xlatPageGet_of_share
    (h : s.mbReady (tenant 0x207 1) m (decide (s.cmdIdx m + s.cmdRun m ≤ 32768) && decide (2 * s.cmdRun m ≤ 127)))
    (hshare : s.inPageShare (s.selPart m) (s.cmdIdx m) (s.cmdRun m) = true) : execXlatPageGet m s =
      .next (s.mbComplete m 0 0 ((List.range (min (s.cmdRun m) 63)).flatMap (fun i =>
        [mget 0 s.xl.page0 (s.cmdIdx m + i), mget 0 s.xl.page1 (s.cmdIdx m + i)]))) := by
  unfold execXlatPageGet
  extract_lets
  rw [guard_passes hshare]
  exact mb_done h _

theorem translationChangeDone_of_free (hmine : ∃ c ∈ s.xl.changes, c.mbx = m) (hheld : m.val ∉ s.hm.held)
    (hfree : ∀ c ∈ s.xl.changes, c.mbx = m → ∀ u ∈ c.uses, s.useHeld u = false) : execTranslationChangeDone m s =
      .next ({ s with xl := { s.xl with changes := s.xl.changes.filter (fun c => c.mbx != m.val) } }.mbComplete m 0 0 []) := by
  refine if_neg (not_or.mpr ⟨?_, not_or.mpr ⟨mt List.contains_iff_mem.mp hheld, fun hany => ?_⟩⟩)
  · obtain ⟨c, hc, hm⟩ := hmine
    rw [List.isEmpty_iff]
    exact List.ne_nil_of_mem (List.mem_filter.mpr ⟨hc, beq_iff_eq.mpr hm⟩)
  · obtain ⟨c, hc, hused⟩ := List.any_eq_true.mp hany
    obtain ⟨hmem, hm⟩ := List.mem_filter.mp hc
    obtain ⟨u, hu, hheld⟩ := List.any_eq_true.mp hused
    exact Bool.false_ne_true ((hfree c hmem (beq_iff_eq.mp hm) u hu).symm.trans hheld)

/-- What `XLAT_ATS_PREFETCH` ends in, once its page and its partition are accepted (R549). -/
def prefetched (m : Mbx) (write : Bool) : Trans × State → MbRes
  | (t, s) => if t.needs.isEmpty then .ends (match lowestFail t.fails with | some f => f.status | none => 0) s
    else .wait (s.atsWait (.prefetch m) t write)

theorem xlatAtsPrefetch_of_slot {slot : Nat} (hslot : s.slotOf (faEp (s.arg m 0)) = some slot)
    (hend : faLow (s.arg m 0) % 2 ^ 42 + bits (s.arg m 1) 31 0 ≤ 2 ^ 42) (hact : s.partActive (s.selPart m) = true) :
    execXlatAtsPrefetch m s = s.mb (tenant 0x208 3) m
      (decide (1 ≤ bits (s.arg m 1) 31 0) && decide (bits (s.arg m 1) 31 0 ≤ 0x80000000))
      (prefetched m (bit (s.arg m 1) 32) (s.translate (s.selPart m) slot (faLow (s.arg m 0)) (bits (s.arg m 1) 31 0)
        (if bit (s.arg m 1) 32 then 2 else 1) (bit (s.arg m 1) 32))) := by
  have hin : ¬ 2 ^ 42 < faLow (s.arg m 0) % 2 ^ 42 + bits (s.arg m 1) 31 0 := Nat.not_lt.mpr hend
  unfold execXlatAtsPrefetch
  dsimp only
  rw [hslot]
  dsimp only
  rw [if_neg hin, guard_passes hact]
  rfl

end

/-- Settles O2: a set or a clear ends in `changeWait`, which waits exactly while an access uses an old entry. -/
theorem mailboxWindowsAndPages : Obligations.MailboxWindowsAndPages := by
  unfold Obligations.MailboxWindowsAndPages
  refine ⟨fun m s => ?_, fun m s => ?_, fun m s => ?_, fun m s h hshare => xlatPageGet_of_share h hshare,
    fun m s hmine hheld hfree => translationChangeDone_of_free hmine hheld hfree, fun m s slot => ?_⟩
  · intro n slot win c es t h hsel hlent hok
    have heq : exec (.xlatWindowSet m) s = _ := xlatWindowSet_of_ok hsel hlent hok
    rw [heq]
    exact mb_changeWait h (fun e : Nat × Word => Use.dir e.1) _
  · intro n f c es t h hsel hlent hshare hok
    have heq : exec (.xlatPageSet m) s = _ := xlatPageSet_of_ok hsel hlent hshare hok
    rw [heq]
    exact mb_changeWait h (fun e : Nat × Word × Word => Use.page e.1) _
  · intro is t h hsel hshare
    have heq : exec (.xlatPageClear m) s = _ := xlatPageClear_of_share hsel hshare
    rw [heq]
    exact mb_changeWait h Use.page _
  · intro a len write r h hslot hend hact
    have heq : exec (.xlatAtsPrefetch m) s = _ := xlatAtsPrefetch_of_slot hslot hend hact
    rw [heq]
    refine ⟨fun hneeds => ?_, fun hneeds => ?_⟩
    · have hbody : prefetched m write r = .ends (match lowestFail r.1.fails with | some f => f.status | none => 0) r.2 :=
        if_pos (List.isEmpty_iff.mpr hneeds)
      exact (congrArg (s.mb (tenant 0x208 3) m _) hbody).trans (mb_ends h _)
    · have hbody : prefetched m write r = .wait (r.2.atsWait (.prefetch m) r.1 write) :=
        if_neg (mt List.isEmpty_iff.mp hneeds)
      exact ⟨_, (congrArg (s.mb (tenant 0x208 3) m _) hbody).trans (mb_wait h), rfl⟩

end Sys2Proof.Machine
end

section
/-! The mailbox commands of the tracker, the landing counters and the directory, and of the switch core and the pools
(R128, R147, R149, R158, R161, R164, R169, R171, R181, R190, R191, R197, R400). -/

namespace Sys2Proof.Machine

variable {s : State} {m : Mbx}

/-! ## The tracker, the landing counters and the directory -/

theorem trackShareSet_of_room (h : s.mbReady (primary 0x302 2 true) m true) (hsel : s.selFree m)
    (hsum : ((List.range 32).map (fun k => (s.setMask (TRACK_PART_SHARE (s.selPart m)) 0x1FFFFF (s.arg m 0)).get
      (TRACK_PART_SHARE_COUNT k))).sum ≤ 1048576) : execTrackShareSet m s =
      .next ((s.setMask (TRACK_PART_SHARE (s.selPart m)) 0x1FFFFF (s.arg m 0)).mbComplete m 0 0 []) := by
  unfold execTrackShareSet
  extract_lets
  rw [spargeGuard_free hsel, if_neg (Nat.not_lt.mpr hsum)]
  exact mb_done h _

theorem lcShareSet_of_free (h : s.mbReady (primary 0x303 2 true) m true) (hsel : s.selFree m)
    (hlen : bits (s.arg m 0) 16 0 + bits (s.arg m 0) 49 32 ≤ 131072)
    (hover : s.shareOverlap (s.selPart m) TRACK_LC_SHARE_FIRST TRACK_LC_SHARE_COUNT (bits (s.arg m 0) 16 0)
      (bits (s.arg m 0) 49 32) = false) : execLcShareSet m s =
      .next ((s.setMask (TRACK_LC_SHARE (s.selPart m)) 0x3FFFF0001FFFF (s.arg m 0)).mbComplete m 0 0 []) := by
  have hfits : ¬ (131072 < bits (s.arg m 0) 16 0 + bits (s.arg m 0) 49 32 ∨ s.shareOverlap (s.selPart m)
      TRACK_LC_SHARE_FIRST TRACK_LC_SHARE_COUNT (bits (s.arg m 0) 16 0) (bits (s.arg m 0) 49 32) = true) :=
    not_or.mpr ⟨Nat.not_lt.mpr hlen, ne_true_of_eq_false hover⟩
  unfold execLcShareSet
  extract_lets
  rw [spargeGuard_free hsel, if_neg hfits]
  exact mb_done h _

theorem lcRead_of_share (h : s.mbReady (tenant 0x304 2) m true) (hshare : s.lcShare (s.selPart m) (s.cmdIdx m) = true) :
    execLcRead m s = .next (s.mbComplete m 0 0 [s.counter (s.cmdIdx m),
      BitVec.ofNat 64 (b2n (reached (s.counter (s.cmdIdx m)) (s.arg m 0)))]) := by
  unfold execLcRead
  extract_lets
  rw [guard_passes hshare]
  exact mb_done h _

theorem lcSet_of_share (h : s.mbReady (tenant 0x305 2) m true) (hshare : s.lcShare (s.selPart m) (s.cmdIdx m) = true) :
    execLcSet m s = .next ((s.lcPut (s.cmdIdx m) (s.arg m 0)).mbComplete m 0 0 []) := by
  unfold execLcSet
  extract_lets
  rw [guard_passes hshare]
  exact mb_done h _

theorem dirConfigSet_of_ready
    (h : s.mbReady { primary 0x306 2 with units := [GLOBAL_OPTIONS_HBM_PRESENT] } m (bits (s.arg m 0) 31 16 != 0)) :
    let t := s.setMask MEM_DIR_CONFIG 0xFFFF001F (s.arg m 0)
    execDirConfigSet m s = .next ({ t with hm := { t.hm with running := t.hm.running ++ [m.val] } } : State).dirSettle :=
  congrArg (fun u : State => Host.Outcome.next u.dirSettle) (h.run (.wait (s.setMask MEM_DIR_CONFIG 0xFFFF001F (s.arg m 0))))

/-- Settles O3: each command passes its own checks by its premises and completes with the state that its effect leaves. -/
theorem mailboxTrackerAndCounters : Obligations.MailboxTrackerAndCounters := by
  unfold Obligations.MailboxTrackerAndCounters
  exact ⟨fun m s h => mb_done h _, fun m s h hsel hsum => trackShareSet_of_room h hsel hsum,
    fun m s h hsel hlen hover => lcShareSet_of_free h hsel hlen hover, fun m s h hshare => lcRead_of_share h hshare,
    fun m s h hshare => lcSet_of_share h hshare, fun m s h => dirConfigSet_of_ready h⟩

/-! ## The switch core and the pools -/

theorem bankBusy_of_idle (hpend : s.on XBAR_STATUS_PEND = false) (hdrain : s.on XBAR_STATUS_DRAINING = false) (r : MbRes) :
    s.bankBusy r = r := by
  unfold State.bankBusy
  rw [hpend, hdrain, if_neg Bool.false_ne_true, if_neg Bool.false_ne_true]

theorem bulkBody_of_ok {k : Nat} {host : Reply} {bs : List Byte} (h : s.bulkRead k host = .ok bs) (f : List Byte → MbRes) :
    s.bulkBody k host f = f bs := by
  unfold State.bulkBody
  rw [h]

/-- The routes written from a bulk transfer (R164). -/
def State.routesLoaded (s : State) (b f : Nat) (es : List (Nat × Word)) : State :=
  es.foldl (fun s e => { s with xb := { s.xb with routes := mset 0 s.xb.routes (65536 * b + f + e.1) (e.2 &&& 0xFFFF3F1F) } }) s

/-- The port groups written from a bulk transfer (R171). -/
def State.groupsLoaded (s : State) (b f : Nat) (es : List (Nat × Word)) : State :=
  es.foldl (fun s e =>
    let w := if e.1 % 2 = 1 then e.2 &&& 0xFFFFFFFF else e.2
    { s with xb := { s.xb with groups := mset 0 s.xb.groups (512 * b + 2 * f + e.1) w } }) s

section
variable {host : Reply} {f c : Nat} {bs : List Byte} (hpend : s.on XBAR_STATUS_PEND = false)
  (hdrain : s.on XBAR_STATUS_DRAINING = false) (hbs : s.bulkRead m host = .ok bs)
include hpend hdrain hbs

theorem xbarRouteLoad_of_ok
    (h : s.mbReady { primary 0x401 3 with kept := true, units := locUnits (s.bulkLoc m), bulk := true } m (s.bulkOk m))
    (hrun : s.loadRun m 65536 8 = some (f, c))
    (hok : ∀ e ∈ (List.range c).zip (bytesWords c bs), s.routeOk s.spareBank (f + e.1) e.2 = true) :
    execXbarRouteLoad m host s =
      .next ((s.routesLoaded s.spareBank f ((List.range c).zip (bytesWords c bs))).mbComplete m 0 0 []) := by
  unfold execXbarRouteLoad
  extract_lets k b
  rw [bankBusy_of_idle hpend hdrain, hrun]
  dsimp only
  rw [bulkBody_of_ok hbs, if_pos (List.all_eq_true.mpr hok)]
  exact mb_done h _

theorem xbarGroupLoad_of_ok
    (h : s.mbReady { primary 0x402 3 with kept := true, units := locUnits (s.bulkLoc m), bulk := true } m (s.bulkOk m))
    (hrun : s.loadRun m 256 16 = some (f, c))
    (hok : ∀ e ∈ (s.groupsLoaded s.spareBank f ((List.range (2 * c)).zip (bytesWords (2 * c) bs))).xb.routes,
      e.1 / 65536 = s.spareBank → bit e.2 0 = true → bit e.2 1 = false →
      (s.groupsLoaded s.spareBank f ((List.range (2 * c)).zip (bytesWords (2 * c) bs))).groupFull s.spareBank
        (bits e.2 23 16) = true) :
    execXbarGroupLoad m host s =
      .next ((s.groupsLoaded s.spareBank f ((List.range (2 * c)).zip (bytesWords (2 * c) bs))).mbComplete m 0 0 []) := by
  have hfull : ((s.groupsLoaded s.spareBank f ((List.range (2 * c)).zip (bytesWords (2 * c) bs))).xb.routes.filter
      (fun e => e.1 / 65536 == s.spareBank && bit e.2 0 && !bit e.2 1)).all (fun e =>
        (s.groupsLoaded s.spareBank f ((List.range (2 * c)).zip (bytesWords (2 * c) bs))).groupFull s.spareBank
          (bits e.2 23 16)) = true := by
    refine List.all_eq_true.mpr fun e he => ?_
    obtain ⟨hmem, hmine⟩ := List.mem_filter.mp he
    simp only [Bool.and_eq_true, beq_iff_eq, Bool.not_eq_true'] at hmine
    obtain ⟨⟨hbank, hvalid⟩, hgroup⟩ := hmine
    exact hok e hmem hbank hvalid hgroup
  unfold execXbarGroupLoad
  extract_lets k b
  rw [bankBusy_of_idle hpend hdrain, hrun]
  dsimp only
  rw [bulkBody_of_ok hbs]
  exact (congrArg (s.mb _ _ _) (if_pos hfull)).trans (mb_done h _)

end

theorem xbarEpochSwitch_of_future (h : s.mbReady { primary 0x403 2 with kept := true } m true)
    (hpend : s.on XBAR_STATUS_PEND = false) (hbeat : s.beat + 1 < (s.arg m 0).toNat) (hlock : s.locked = true) :
    execXbarEpochSwitch m s =
      .next (((s.flag XBAR_STATUS_PEND).wr XBAR_EPOCH_AT (s.arg m 0).toNat).mbComplete m 0 0 []) := by
  unfold execXbarEpochSwitch
  extract_lets
  rw [hpend, if_neg Bool.false_ne_true, if_neg (Nat.not_le.mpr hbeat), guard_passes hlock]
  exact mb_done h _

theorem epochPended_facts (s : State) (w : Word) : let u := (s.flag XBAR_STATUS_PEND).wr XBAR_EPOCH_AT w.toNat
    u.reg XBAR_EPOCH_AT = w ∧ u.get XBAR_STATUS_PEND = 1 ∧ ∀ k, k ≠ XBAR_STATUS → k ≠ XBAR_EPOCH_AT → u.reg k = s.reg k := by
  refine ⟨?_, ?_, fun k hk hat => (reg_setReg_other _ _ hat).trans (reg_put_other _ _ hk)⟩
  · rw [State.wr, reg_setReg_same, BitVec.ofNat_toNat, BitVec.setWidth_eq]
  · rw [get_wr_of_id _ rfl]
    exact get_flag_same (by decide) (by decide)

/-- Settles O4: a load passes the checks of its bank by its premises, and each command completes with the state that its
effect leaves. -/
theorem mailboxSwitchAndPools : Obligations.MailboxSwitchAndPools := by
  unfold Obligations.MailboxSwitchAndPools
  exact ⟨fun m host s f c bs h hpend hdrain hrun hbs hok => xbarRouteLoad_of_ok hpend hdrain hbs h hrun hok,
    fun m host s f c bs h hpend hdrain hrun hbs hok => xbarGroupLoad_of_ok hpend hdrain hbs h hrun hok,
    fun m s h hpend hbeat hlock => ⟨_, xbarEpochSwitch_of_future h hpend hbeat hlock, epochPended_facts s _⟩,
    fun m s h => mb_done h _, fun m s h => mb_done h _, fun m s h => mb_done h _,
    fun m s h hsel => (congrArg (s.mb _ _ _) (spargeGuard_free hsel _)).trans (mb_done h _)⟩

end Sys2Proof.Machine
end

section
/-! The mailbox commands of the reduction array, the collective rows and the multicast entries (R226, R227, R229 to R231,
R233, R245). -/

namespace Sys2Proof.Machine

variable {s : State} {m : Mbx}

/-- A refusal that its condition brings in does not come. -/
theorem guard_misses {b : Bool} {x y : MbRes} (h : b = false) : (if b then x else y) = y := by
  rw [h]
  exact if_neg Bool.false_ne_true

/-- A command on a row that is free or of its own partition goes on (R229). -/
theorem rowOwned_of_own {g : Nat} (hsel : s.selFree m) (h : s.get (RDX_COLL_A_PARTITION g) = s.selPart m) (r : MbRes) :
    s.rowOwned m (bits (s.cmd m 1) 4 0) g r = r :=
  (if_neg fun ⟨_, hother⟩ => hother h).trans (spargeGuard_free hsel r)

theorem collMembersSet_of_idle
    (h : s.mbReady (tenant 0x502 (1 + cdiv (s.cmdCount m) 4)).rdx m
      (decide (s.cmdIdx m + s.cmdCount m ≤ 16384) && decide (s.cmdCount m ≤ 888))) (hsel : s.selFree m)
    (hidle : ∀ g < 256, s.get (RDX_COLL_A_STATE g) = 1 →
      overlaps (s.cmdIdx m) (s.cmdCount m) (s.get (RDX_COLL_B_MEMBER_BASE g)) (s.get (RDX_COLL_B_MEMBERS g)) = false) :
    execCollMembersSet m s = .next (((List.range (min (s.cmdCount m) 888)).foldl (fun t k =>
      t.setReg (RDX_COLL_MEMBER ((s.cmdIdx m + k) / 4)) (setBits (t.reg (RDX_COLL_MEMBER ((s.cmdIdx m + k) / 4)))
        (16 * ((s.cmdIdx m + k) % 4) + 15) (16 * ((s.cmdIdx m + k) % 4))
        (bits (s.arg m (k / 4)) (16 * (k % 4) + 15) (16 * (k % 4))))) s).mbComplete m 0 0 []) := by
  unfold execCollMembersSet
  extract_lets k f c busy t
  have hbusy : busy = false := by
    refine List.any_eq_false.mpr fun g hg hboth => ?_
    obtain ⟨hstate, hover⟩ := Bool.and_eq_true_iff.mp hboth
    exact Bool.false_ne_true ((hidle g (List.mem_range.mp hg) (beq_iff_eq.mp hstate)).symm.trans hover)
  rw [spargeGuard_free hsel, guard_misses hbusy]
  exact mb_done h _

theorem collForm_of_free (h : s.mbReady (tenant 0x503 4).rdx m (decide (s.cmdIdx m < 256) && (s.rowWords m).ok (s.cmdLen m)))
    (hsel : s.selFree m) (hstate : s.get (RDX_COLL_A_STATE (s.cmdIdx m)) = 0)
    (hquar : mget 0 s.ra.quarantine (32 * bits (s.rowWords m).a 59 48 + s.selPart m) ≤ s.edge)
    (huse : s.get (RDX_COLL_PART_USE_ROWS (s.selPart m)) < s.get (RDX_COLL_PART_LIMIT_ROWS (s.selPart m)))
    (hfits : s.rowFits (s.selPart m) (s.cmdIdx m) (s.rowWords m) = true) : execCollForm m s =
      .next (((s.writeRow (s.selPart m) (s.cmdIdx m) (s.rowWords m)).put (RDX_COLL_PART_USE_ROWS (s.selPart m))
        (s.get (RDX_COLL_PART_USE_ROWS (s.selPart m)) + 1)).mbComplete m 0 0 []) := by
  unfold execCollForm
  extract_lets k n g w u
  have hroom : ¬ (s.get (RDX_COLL_PART_LIMIT_ROWS n) ≤ u ∨ s.rowFits n g w = false) :=
    not_or.mpr ⟨Nat.not_le.mpr huse, ne_false_of_eq_true hfits⟩
  rw [spargeGuard_free hsel, if_neg (not_not.mpr hstate), if_neg (Nat.not_lt.mpr hquar), if_neg hroom]
  exact mb_done h _

theorem collSuspend_of_active (h : s.mbReady (tenant 0x504 1).rdx m (decide (s.cmdIdx m < 256))) (hsel : s.selFree m)
    (hstate : s.get (RDX_COLL_A_STATE (s.cmdIdx m)) = 1) (hpart : s.get (RDX_COLL_A_PARTITION (s.cmdIdx m)) = s.selPart m) :
    execCollSuspend m s = .next ((s.take.2.suspendRow (s.cmdIdx m) (bits s.take.1 15 0) 3).mbComplete m 0 0 []) := by
  have heq : execCollSuspend m s = s.mb (tenant 0x504 1).rdx m (decide (s.cmdIdx m < 256))
      (s.rowOwned m (bits (s.cmd m 1) 4 0) (s.cmdIdx m) (if s.get (RDX_COLL_A_STATE (s.cmdIdx m)) ≠ 1 then conflict scGROUP_NOT_ACTIVE
        else .done [] (s.take.2.suspendRow (s.cmdIdx m) (bits s.take.1 15 0) 3))) := rfl
  rw [heq, rowOwned_of_own hsel hpart, if_neg (not_not.mpr hstate)]
  exact mb_done h _

theorem collReform_of_suspended
    (h : s.mbReady (tenant 0x505 4).rdx m (decide (s.cmdIdx m < 256) && (s.rowWords m).ok (s.cmdLen m)))
    (hsel : s.selFree m) (hstate : s.get (RDX_COLL_A_STATE (s.cmdIdx m)) = 2)
    (hpart : s.get (RDX_COLL_A_PARTITION (s.cmdIdx m)) = s.selPart m)
    (hwait : s.get TRACK_CONFIG_LOST_WAIT ≤ (s.beat + 2 ^ 40 - s.get (RDX_COLL_SUSPEND_BEAT (s.cmdIdx m))) % 2 ^ 40)
    (hfits : s.rowFits (s.selPart m) (s.cmdIdx m) (s.rowWords m) = true) : execCollReform m s =
      .next (((s.writeRow (s.selPart m) (s.cmdIdx m) (s.rowWords m)).put (RDX_COLL_C_BAR_GEN (s.cmdIdx m)) 0).mbComplete
        m 0 0 []) := by
  unfold execCollReform
  extract_lets k n g w since
  rw [rowOwned_of_own hsel hpart, if_neg (not_not.mpr hstate), if_pos hwait, if_pos hfits]
  exact mb_done h _

/-- A row dissolved, its group number in quarantine (R230). -/
def State.dissolved (s : State) (n g : Nat) : State :=
  let t := s.put (RDX_COLL_A_STATE g) 0
  let t := if s.on (RDX_COLL_A_ROOT g) then t.put (RDX_GROUP_A_STATE g) 0 else t
  ({ t with ra := { t.ra with
      bar := merase t.ra.bar g, released := merase t.ra.released g,
      quarantine := mset 0 t.ra.quarantine (32 * s.get (RDX_COLL_A_GROUP_ID g) + n) (s.edge + s.get TRACK_CONFIG_LOST_WAIT) } } :
    State).put (RDX_COLL_PART_USE_ROWS n) (s.get (RDX_COLL_PART_USE_ROWS n) - 1)

theorem get_withRa (s : State) (ra : RdxU) (f : Fld) : State.get { s with ra := ra } f = s.get f := rfl

theorem dissolved_facts (s : State) (n g : Nat) : (s.dissolved n g).get (RDX_COLL_A_STATE g) = 0 ∧
    mget 0 (s.dissolved n g).ra.quarantine (32 * s.get (RDX_COLL_A_GROUP_ID g) + n) = s.edge + s.get TRACK_CONFIG_LOST_WAIT ∧
    (s.dissolved n g).hbm = s.hbm := by
  have hfree : (s.put (RDX_COLL_A_STATE g) 0).get (RDX_COLL_A_STATE g) = 0 :=
    get_put_field (show 62 ≤ 63 by decide) (show 63 < 64 by decide) (show 0 < 2 ^ 2 by decide)
  unfold State.dissolved
  extract_lets t t'
  refine ⟨?_, ?_, ?_⟩
  · rw [get_put_of_id _ rfl, get_withRa]
    unfold t'
    split
    · rw [get_put_of_id _ rfl]
      exact hfree
    · exact hfree
  · rw [put_ra]
    exact mget_mset_same _ _ _ _
  · rw [put_hbm]
    change t'.hbm = s.hbm
    unfold t'
    split
    · exact (put_hbm _ _ _).trans (put_hbm _ _ _)
    · exact put_hbm _ _ _

theorem collDissolve_of_idle (h : s.mbReady (tenant 0x506 1).rdx m (decide (s.cmdIdx m < 256))) (hsel : s.selFree m)
    (hstate : s.get (RDX_COLL_A_STATE (s.cmdIdx m)) ≠ 0) (hpart : s.get (RDX_COLL_A_PARTITION (s.cmdIdx m)) = s.selPart m)
    (hbusy : s.rowBusy (s.selPart m) (s.cmdIdx m) = false) :
    execCollDissolve m s = .next ((s.dissolved (s.selPart m) (s.cmdIdx m)).mbComplete m 0 0 []) := by
  unfold execCollDissolve
  extract_lets k n g key t t' ra u
  rw [rowOwned_of_own hsel hpart, if_neg (not_or.mpr ⟨hstate, ne_true_of_eq_false hbusy⟩)]
  exact mb_done h _

theorem collWeightSet_of_row
    (h : s.mbReady { (tenant 0x507 3).rdx with minor := 2 } m (decide (s.cmdIdx m < 256) && bits (s.arg m 0) 16 11 != 0))
    (hsel : s.selFree m) (hstate : s.get (RDX_COLL_A_STATE (s.cmdIdx m)) ≠ 0)
    (hpart : s.get (RDX_COLL_A_PARTITION (s.cmdIdx m)) = s.selPart m) : execCollWeightSet m s =
      .next (((s.put (RDX_COLL_A_WEIGHT (s.cmdIdx m)) (bits (s.arg m 0) 16 11)).put (RDX_COLL_C_WATCH_RANK (s.cmdIdx m))
        (bits (s.arg m 1) 12 0)).mbComplete m 0 0 []) := by
  unfold execCollWeightSet
  extract_lets k g w
  rw [rowOwned_of_own hsel hpart, if_neg hstate]
  exact mb_done h _

/-- The words of a multicast entry as `MC_GROUP_SET` writes them (R233). -/
def State.mcWritten (s : State) (m : Nat) : List Word :=
  setBits (setBits (s.arg m 0 &&& 0x1FFFFFFFFFFFFFFF) 5 1 (s.selPart m)) 59 48 (s.cmdIdx m) ::
    (List.range (cdiv (min (bits (s.arg m 0) 18 12) 96) 2)).map (fun i => s.arg m (1 + i) &&& 0xFFFF007FFFFF007F)

section
variable (hsel : s.selFree m)
include hsel

theorem mcGroupSet_of_free
    (h : s.mbReady (tenant 0x508 (1 + mcWords (bits (s.arg m 0) 18 12))).rdx m (decide (s.cmdIdx m < 4096) &&
      decide (bits (s.arg m 0) 18 12 ≤ 96) &&
      (List.range (min (bits (s.arg m 0) 18 12) 96)).all (fun i => mcChildBelow (s.mcWritten m) i != 0) &&
      decide (1 ≤ bits (setBits (setBits (s.arg m 0 &&& 0x1FFFFFFFFFFFFFFF) 5 1 (s.selPart m)) 59 48 (s.cmdIdx m)) 31 25) &&
      decide (bits (setBits (setBits (s.arg m 0 &&& 0x1FFFFFFFFFFFFFFF) 5 1 (s.selPart m)) 59 48 (s.cmdIdx m)) 31 25 ≤ 102)))
    (hfree : mcValid (wd (s.mcEntry (s.selPart m) (s.cmdIdx m)) 0) = false)
    (hok : s.mcOk (s.mcWritten m) = true)
    (huse : s.get (RDX_COLL_PART_USE_MC (s.selPart m)) < s.get (RDX_COLL_PART_LIMIT_MC (s.selPart m)))
    (hvalid : bit (setBits (setBits (s.arg m 0 &&& 0x1FFFFFFFFFFFFFFF) 5 1 (s.selPart m)) 59 48 (s.cmdIdx m)) 0 = true) :
    execMcGroupSet m s =
      .next (({ s with ra := { s.ra with mc := mset [] s.ra.mc (32 * s.cmdIdx m + s.selPart m) (s.mcWritten m) } }.put
        (RDX_COLL_PART_USE_MC (s.selPart m)) (s.get (RDX_COLL_PART_USE_MC (s.selPart m)) + 1)).mbComplete m 0 0 []) := by
  unfold execMcGroupSet
  extract_lets k n g c w0 ws below fan u
  have hroom : ¬ ((!s.mcOk ws) = true ∨ s.get (RDX_COLL_PART_LIMIT_MC n) ≤ u) :=
    not_or.mpr ⟨by rw [show s.mcOk ws = true from hok]; decide, Nat.not_le.mpr huse⟩
  rw [spargeGuard_free hsel, guard_misses hfree, if_neg hroom, guard_passes hvalid]
  exact mb_done h _

theorem mcGroupClear_of_valid (h : s.mbReady (tenant 0x509 1).rdx m (decide (s.cmdIdx m < 4096)))
    (hvalid : mcValid (wd (s.mcEntry (s.selPart m) (s.cmdIdx m)) 0) = true) : execMcGroupClear m s =
      .next (({ s with ra := { s.ra with mc := mset [] s.ra.mc (32 * s.cmdIdx m + s.selPart m) [] } }.put
        (RDX_COLL_PART_USE_MC (s.selPart m)) (s.get (RDX_COLL_PART_USE_MC (s.selPart m)) - 1)).mbComplete m 0 0 []) := by
  unfold execMcGroupClear
  extract_lets k n g t
  rw [spargeGuard_free hsel, if_pos hvalid]
  exact mb_done h _

end

/-- Settles O5: each command on a row or an entry of its own passes the checks by its premises and completes with the state
that its effect leaves. -/
theorem mailboxCollectives : Obligations.MailboxCollectives := by
  unfold Obligations.MailboxCollectives
  refine ⟨fun m s h => mb_done h _, fun m s h hsel hidle => collMembersSet_of_idle h hsel hidle,
    fun m s h hsel hstate hquar huse hfits => collForm_of_free h hsel hstate hquar huse hfits,
    fun m s h hsel hstate hpart => ⟨_, collSuspend_of_active h hsel hstate hpart⟩,
    fun m s h hsel hstate hpart hwait hfits => collReform_of_suspended h hsel hstate hpart hwait hfits,
    fun m s h hsel hstate hpart hbusy => ⟨_, collDissolve_of_idle h hsel hstate hpart hbusy, dissolved_facts s _ _⟩,
    fun m s h hsel hstate hpart => collWeightSet_of_row h hsel hstate hpart,
    fun m s h hsel => (congrArg (s.mb _ _ _) (spargeGuard_free hsel _)).trans (mb_done h _),
    fun m s h hsel hfree hok huse hvalid => mcGroupSet_of_free hsel h hfree hok huse hvalid,
    fun m s h hsel hvalid => mcGroupClear_of_valid hsel h hvalid, fun m s h => mb_done h _⟩

end Sys2Proof.Machine
end

section
/-! The mailbox commands of the Tun (R258, R265, R273). -/

namespace Sys2Proof.Machine

variable {s : State} {m : Mbx}

/-- An entry that is the command's own, or that the primary mailbox reaches, is not refused (R258). -/
theorem ownEntry_of_own {b : Bool} (h : m.val < 32 → b = true) (r : MbRes) : ownEntry m b r = r :=
  if_neg fun ⟨hlt, hnot⟩ => Bool.false_ne_true (((Bool.not_eq_true' _).mp hnot).symm.trans (h hlt))

theorem tunShareSet_of_free (h : s.mbReady (primary 0x601 2 true).tun m true) (hsel : s.selFree m)
    (hlen : bits (s.arg m 0) 11 0 + bits (s.arg m 0) 43 32 ≤ 3072)
    (hover : s.shareOverlap (s.selPart m) TUN_PART_SHARE_FIRST TUN_PART_SHARE_COUNT (bits (s.arg m 0) 11 0)
      (bits (s.arg m 0) 43 32) = false)
    (hslices : ∀ e < 256, s.get (TUN_SLICE_A_STATE e) = 0 ∨ s.get (TUN_SLICE_A_PARTITION e) ≠ s.selPart m) :
    execTunShareSet m s =
      .next ((s.setMask (TUN_PART_SHARE (s.selPart m)) 0xFFF00000FFF (s.arg m 0)).mbComplete m 0 0 []) := by
  unfold execTunShareSet
  extract_lets k n w f c
  have hfits : ¬ (3072 < f + c ∨ s.shareOverlap n TUN_PART_SHARE_FIRST TUN_PART_SHARE_COUNT f c = true) :=
    not_or.mpr ⟨Nat.not_lt.mpr hlen, ne_true_of_eq_false hover⟩
  have hnone : (List.range 256).any (fun e => s.get (TUN_SLICE_A_STATE e) != 0 && s.get (TUN_SLICE_A_PARTITION e) == n) = false := by
    refine List.any_eq_false.mpr fun e he hboth => ?_
    obtain ⟨hstate, hpart⟩ := Bool.and_eq_true_iff.mp hboth
    exact (hslices e (List.mem_range.mp he)).elim (bne_iff_ne.mp hstate) (· (beq_iff_eq.mp hpart))
  rw [spargeGuard_free hsel, if_neg hfits, guard_misses hnone]
  exact mb_done h _

theorem tunSliceClear_of_idle (h : s.mbReady (tenant 0x602 1).tun m (decide (s.cmdIdx m < 256))) (hsel : s.selFree m)
    (hstate : s.get (TUN_SLICE_A_STATE (s.cmdIdx m)) = 2)
    (hown : m.val < 32 → s.get (TUN_SLICE_A_PARTITION (s.cmdIdx m)) = s.selPart m)
    (hnamed : s.sliceNamed (s.cmdIdx m) = false) : execTunSliceClear m s =
      .next (((s.setReg (TUN_SLICE_A (s.cmdIdx m)) 0).setReg (TUN_SLICE_B (s.cmdIdx m)) 0).mbComplete m 0 0 []) := by
  unfold execTunSliceClear
  extract_lets k n e st
  have hmine : m.val < 32 → (st == 0 || s.get (TUN_SLICE_A_PARTITION e) == n) = true := fun hlt =>
    Bool.or_eq_true_iff.mpr (.inr (beq_iff_eq.mpr (hown hlt)))
  have hst : st = 2 := hstate
  have hused : st ≠ 0 := by rw [hst]; decide
  have hidle : ¬ (st ≠ 2 ∨ s.sliceNamed e = true) := not_or.mpr ⟨not_not.mpr hst, ne_true_of_eq_false hnamed⟩
  rw [spargeGuard_free hsel, ownEntry_of_own hmine, if_neg hused, if_neg hidle]
  exact mb_done h _

theorem tunSliceGet_of_own (h : s.mbReady (tenant 0x603 1).tun m (decide (s.cmdIdx m < 256)))
    (hown : m.val < 32 → s.get (TUN_SLICE_A_STATE (s.cmdIdx m)) = 0 ∨ s.get (TUN_SLICE_A_PARTITION (s.cmdIdx m)) = s.selPart m) :
    execTunSliceGet m s =
      .next (s.mbComplete m 0 0 [s.reg (TUN_SLICE_A (s.cmdIdx m)), s.reg (TUN_SLICE_B (s.cmdIdx m))]) := by
  unfold execTunSliceGet
  extract_lets k e
  have hmine : m.val < 32 → (s.get (TUN_SLICE_A_STATE e) == 0 ||
      s.get (TUN_SLICE_A_PARTITION e) == bits (s.cmd k 1) 4 0) = true := fun hlt =>
    Bool.or_eq_true_iff.mpr ((hown hlt).imp beq_iff_eq.mpr beq_iff_eq.mpr)
  rw [ownEntry_of_own hmine]
  exact mb_done h _

theorem tunBindSet_of_free {g : Nat} (h : s.mbReady { (tenant 0x604 2).tun with minor := 1 } m (decide (s.cmdIdx m < 16)))
    (hsel : s.selFree m) (hfree : s.on (TUN_BIND_VALID (s.cmdIdx m)) = false)
    (hrow : s.collRow (s.selPart m) (bits (s.arg m 0) 11 0) = some g) (hstate : s.get (RDX_COLL_A_STATE g) = 1)
    (hroot : s.on (RDX_COLL_A_ROOT g) = true) : execTunBindSet m s =
      .next ((s.setReg (TUN_BIND (s.cmdIdx m)) (mkWord [(17, 17, 1), (16, 12, s.selPart m),
        (11, 0, bits (s.arg m 0) 11 0)])).mbComplete m 0 0 []) := by
  unfold execTunBindSet
  extract_lets k n b grp rootRow
  have hmine : m.val < 32 → (!s.on (TUN_BIND_VALID b) || s.get (TUN_BIND_PARTITION b) == n) = true := fun _ =>
    Bool.or_eq_true_iff.mpr (.inl ((Bool.not_eq_true' _).mpr hfree))
  have hrootRow : rootRow = true := by
    have hcoll : s.collRow n grp = some g := hrow
    unfold rootRow
    rw [hcoll]
    exact Bool.and_eq_true_iff.mpr ⟨beq_iff_eq.mpr hstate, hroot⟩
  rw [spargeGuard_free hsel, ownEntry_of_own hmine, guard_misses hfree, guard_passes hrootRow]
  exact mb_done h _

theorem tunBindClear_of_idle (h : s.mbReady { (tenant 0x605 1).tun with minor := 1 } m (decide (s.cmdIdx m < 16)))
    (hsel : s.selFree m) (hvalid : s.on (TUN_BIND_VALID (s.cmdIdx m)) = true)
    (hown : m.val < 32 → s.get (TUN_BIND_PARTITION (s.cmdIdx m)) = s.selPart m)
    (hidle : ∀ x ∈ s.tu.jobs.filterMap s.step?, dType (wd x.words 0) = 3 → tjKind x.words = 2 →
      x.part = s.get (TUN_BIND_PARTITION (s.cmdIdx m)) → wb x.words 3 40 29 ≠ s.get (TUN_BIND_GROUP_ID (s.cmdIdx m))) :
    execTunBindClear m s = .next ((s.unbind (s.cmdIdx m) true).mbComplete m 0 0 []) := by
  unfold execTunBindClear
  extract_lets k n b busy
  have hmine : m.val < 32 → (!s.on (TUN_BIND_VALID b) || s.get (TUN_BIND_PARTITION b) == n) = true := fun hlt =>
    Bool.or_eq_true_iff.mpr (.inr (beq_iff_eq.mpr (hown hlt)))
  have hbusy : busy = false := by
    refine List.any_eq_false.mpr fun x hx hall => ?_
    simp only [Bool.and_eq_true, beq_iff_eq] at hall
    obtain ⟨⟨⟨htype, hkind⟩, hpart⟩, hgroup⟩ := hall
    exact hidle x hx htype hkind hpart hgroup
  rw [spargeGuard_free hsel, ownEntry_of_own hmine, guard_passes hvalid, guard_misses hbusy]
  exact mb_done h _

/-- Settles O6: each command finds its share, its slice or its binding free for it by its premises. -/
theorem mailboxTun : Obligations.MailboxTun := by
  unfold Obligations.MailboxTun
  exact ⟨fun m s h hsel hlen hover hslices => tunShareSet_of_free h hsel hlen hover hslices,
    fun m s h hsel hstate hown hnamed => tunSliceClear_of_idle h hsel hstate hown hnamed,
    fun m s h hown => tunSliceGet_of_own h hown,
    fun m s g h hsel hfree hrow hstate hroot => tunBindSet_of_free h hsel hfree hrow hstate hroot,
    fun m s h hsel hvalid hown hidle => tunBindClear_of_idle h hsel hvalid hown hidle⟩

end Sys2Proof.Machine
end

section
/-! The mailbox commands of a port wait for its links (R394, R512): before phase 8 they are refused. -/

namespace Sys2Proof.Machine

variable {s : State}

/-- A completion writes the registers of its mailbox alone. -/
theorem mbComplete_reg {m : Nat} (hm : m < 33) (status sc : Nat) {ws : List Word} (hws : ws.length ≤ 127) {k : Key}
    (hk : k ∉ completionKeys m) : (s.mbComplete m status sc ws).reg k = s.reg k := by
  rw [mbComplete_eq _ hm]
  refine completed_sameRegs ?_ k hk
  rw [List.length_cons]
  split
  · exact Nat.le_of_ble_eq_true rfl
  · exact Nat.succ_le_succ hws

/-- A module in phase 6 of its bring-up whose primary mailbox holds `PORT_MODE_SET` for port 0, disabled. -/
def portTooEarly : State :=
  (((((((({} : State).setReg (MB_STATUS 32) 0x10001).setReg (MB_CMD 32 0) 0x20901).setReg (MB_CMD 32 1) 0).setReg
    (MB_CMD 32 2) 0x10).setReg GLOBAL_OPTIONS 0x100).setReg GLOBAL_BOOT_STATUS 0x60).setReg (PORT_CFG 0) 0).setReg (PORT_STATUS 0) 0

theorem portTooEarly_ready : portTooEarly.mbReady
    { primary 0x901 2 with kept := true, units := [⟨GLOBAL_OPTIONS, 8, 8⟩] } 32 true := by decide

theorem portTooEarly_refused : portTooEarly.mbCheck
    { primary 0x901 2 with kept := true, ready := 8, units := [⟨GLOBAL_OPTIONS, 8, 8⟩] } 32 true =
      some (stSTATE_CONFLICT, scBRINGUP) := by decide

theorem portModeSet_tooEarly : execPortModeSet 32 portTooEarly =
    .next (portTooEarly.mbComplete 32 stSTATE_CONFLICT scBRINGUP []) := by
  obtain ⟨hbusy, hop, hrun, hheld, hbulk, hturn, -⟩ := portTooEarly_ready
  exact congrArg Host.Outcome.next (mbRun_refused _ _ _ hbusy hop hrun hheld hbulk hturn portTooEarly_refused)

theorem portCfg_not_mem_completionKeys : PORT_CFG 0 ∉ completionKeys 32 := by
  simp only [completionKeys, List.mem_cons, not_or]
  exact ⟨Key.ne_of_id rfl, Key.ne_of_id rfl, not_mem_rspKeys_of_id _ rfl⟩

/-- Refutes O8: a port's commands need phase 8 (R512), which its clauses do not ask for. In phase 6 the command of
`portTooEarly` passes every check that the clause names and is refused, and the port's mode stays as it was. -/
theorem not_mailboxSequencersPortsRings : ¬ Obligations.MailboxSequencersPortsRings := by
  unfold Obligations.MailboxSequencersPortsRings
  rintro ⟨-, -, -, -, -, hmode, -⟩
  have hset : exec (.portModeSet 32) portTooEarly =
      .next ((portTooEarly.setMask (PORT_CFG 0) 0xFFFFFFFF00000032 0x10).mbComplete 32 0 0 []) :=
    hmode 32 portTooEarly portTooEarly_ready (by decide)
  have hstate := Host.Outcome.next.inj (hset.symm.trans portModeSet_tooEarly)
  have hcfg := congrArg (State.reg · (PORT_CFG 0)) hstate
  rw [mbComplete_reg (by decide) _ _ (by decide) portCfg_not_mem_completionKeys,
    mbComplete_reg (by decide) _ _ (by decide) portCfg_not_mem_completionKeys] at hcfg
  exact absurd hcfg (by decide)

end Sys2Proof.Machine
end

section
/-! The life of a partition and the restart of the service firmware (R413 to R420, R431). -/

namespace Sys2Proof.Machine

variable {s : State} {m : Mbx}

/-- A field written with a value that fits. -/
theorem get_put_fits (s : State) (k : Key) {hi lo n : Nat} (h : lo ≤ hi) (h64 : hi < 64) (hn : n < 2 ^ (hi + 1 - lo)) :
    (s.put ⟨k, hi, lo⟩ n).get ⟨k, hi, lo⟩ = n := get_put_field h h64 hn

/-- A field of `w` bits takes the low bits of what is written. -/
theorem get_put_rem (s : State) (k : Key) {hi lo w : Nat} (n : Nat) (h : lo ≤ hi) (h64 : hi < 64) (hw : hi + 1 - lo = w) :
    (s.put ⟨k, hi, lo⟩ n).get ⟨k, hi, lo⟩ = n % 2 ^ w := by
  subst hw
  exact get_put_same s _ _ h h64

/-! ## Creation -/

/-- Partition `n` active from this beat on, with its policy (R413). -/
def State.partUp (s : State) (n : Nat) (conf : Bool) : State :=
  let s := { s with pa := { s.pa with created := mset 0 s.pa.created n s.beat } }
  ((s.put (PART_STATE_STATE n) 1).put (PART_STATE_POLICY n) (b2n conf)).put (PART_STATE_CREATED_BEAT n) s.beat

theorem beat_withPa (pa : PartU) : State.beat { s with pa := pa } = s.beat := rfl

theorem withPa_sameMem (pa : PartU) : SameMem s { s with pa := pa } := ⟨rfl, rfl, rfl, rfl⟩

theorem partUp_facts (s : State) (n : Nat) (conf : Bool) : (s.partUp n conf).get (PART_STATE_STATE n) = 1 ∧
    (s.partUp n conf).get (PART_STATE_POLICY n) = b2n conf ∧
    (s.partUp n conf).get (PART_STATE_CREATED_BEAT n) = s.beat % 2 ^ 40 ∧ mget 0 (s.partUp n conf).pa.created n = s.beat ∧
    (s.partUp n conf).pa.keys = s.pa.keys ∧ SameRegs s (s.partUp n conf) [PART_STATE n] ∧ SameMem s (s.partUp n conf) := by
  have hconf : b2n conf < 2 ^ 1 := by cases conf <;> decide
  unfold State.partUp
  refine ⟨?_, ?_, ?_, mget_mset_same _ _ _ _, rfl, fun k hk => ?_,
    (withPa_sameMem _).trans ((put_sameMem _ _ _).trans ((put_sameMem _ _ _).trans (put_sameMem _ _ _)))⟩
  · rw [get_put_apart _ rfl, get_put_apart _ rfl]
    exact get_put_fits _ _ (by decide) (by decide) (by decide)
  · rw [get_put_apart _ rfl]
    exact get_put_fits _ _ (by decide) (by decide) hconf
  · rw [beat_withPa]
    exact get_put_rem _ _ _ (by decide) (by decide) (by decide)
  · have hne : k ≠ PART_STATE n := mt List.mem_singleton.mpr hk
    exact (reg_put_other _ _ hne).trans ((reg_put_other _ _ hne).trans (reg_put_other _ _ hne))

section
variable (hn : s.selPart m ≠ 0) (h1 : s.get (PART_STATE_STATE (s.selPart m)) ≠ 1) (h2 : s.get (PART_STATE_STATE (s.selPart m)) ≠ 2)
include hn h1 h2

theorem partCreate_of_plain (hconf : bit (s.arg m 0) 0 = false)
    (h : s.mbReady { primary 0xB01 2 true with kept := true } m (decide (s.cmdLen m = 2))) :
    execPartCreate m s = .next ((s.partUp (s.selPart m) false).mbComplete m 0 0 []) := by
  unfold execPartCreate
  extract_lets k n conf key up
  have hc : conf = false := hconf
  clear_value conf
  subst hc
  refine (congrArg (s.mb _ k _) ((if_neg hn).trans ?_)).trans (mb_done (t := s.partUp (s.selPart m) false) h [])
  split
  next heq => exact absurd heq h1
  next heq => exact absurd heq h2
  next => rfl

theorem partCreate_of_confidential (hconf : bit (s.arg m 0) 0 = true)
    (h : s.mbReady { primary 0xB01 2 true with kept := true } m (decide (s.cmdLen m = 20))) :
    execPartCreate m s = match s.unwrapKey (s.selPart m) ((List.range 18).map (fun i => s.cmd m (3 + i))) [s.cmd m 1, s.cmd m 2] with
    | some k => .next ((State.partUp { s with pa := { s.pa with keys := mset none s.pa.keys (s.selPart m) (some k) } }
        (s.selPart m) true).mbComplete m 0 0 [])
    | none => .next (s.mbComplete m stACCESS_DENIED 0 []) := by
  unfold execPartCreate
  extract_lets k n conf key up
  have hc : conf = true := hconf
  clear_value conf
  subst hc
  change _ = match key with | some k => _ | none => _
  clear_value key
  cases key with
  | some key =>
    refine (congrArg (s.mb _ k _) ((if_neg hn).trans ?_)).trans (mb_done (t := State.partUp _ n true) h [])
    split
    next heq => exact absurd heq h1
    next heq => exact absurd heq h2
    next => rfl
  | none =>
    refine (congrArg (s.mb _ k _) ((if_neg hn).trans ?_)).trans (mb_fail h stACCESS_DENIED 0)
    split
    next heq => exact absurd heq h1
    next heq => exact absurd heq h2
    next => rfl

end

/-! ## Sparging -/

theorem mb_again {c : MbSpec} {v : Bool} {t : State} (h : s.mbReady c m v) : s.mb c m v (.again t) = .next t := by
  rw [State.mb, h.run]

/-- The Sparge that `PART_SPARGE` begins (R414). -/
def State.spargeOf (s : State) (m : Nat) : Sparge :=
  ⟨s.selPart m, bit (s.arg m 0) 0 || s.confidential (s.selPart m), m, s.on (MB_STATUS_BUSY (s.selPart m)), false, 0⟩

/-- Partition `n` at the beginning of its Sparge (R414, R417). -/
def State.spargeBegun (s : State) (n : Nat) (x : Sparge) : State :=
  let u := s.put (PART_STATE_STATE n) 2
  ({ u with pa := { u.pa with sparges := u.pa.sparges ++ [x] } } : State).dropStepsOf (fun y => y.part == n && dType (wd y.words 0) == 4)

theorem partSparge_of_active (h : s.mbReady (primary 0xB02 2 true) m true) (hnone : ∀ x ∈ s.pa.sparges, x.mbx ≠ m)
    (hstate : s.get (PART_STATE_STATE (s.selPart m)) = 1) :
    let v := s.spargeBegun (s.selPart m) (s.spargeOf m)
    execPartSparge m s = .next (if (s.spargeOf m).closing = true then v
      else { v.spargeQuiet (s.spargeOf m) with hm := { (v.spargeQuiet (s.spargeOf m)).hm with
        running := (v.spargeQuiet (s.spargeOf m)).hm.running ++ [m.val] } }) := by
  intro v
  have hfind : s.pa.sparges.find? (fun x => x.mbx == m.val) = none :=
    List.find?_eq_none.mpr fun x hx => by rw [beq_iff_eq]; exact hnone x hx
  have hbody : execPartSparge m s = s.mb (primary 0xB02 2 true) m true
      (if (s.spargeOf m).closing then .again v else .wait (v.spargeQuiet (s.spargeOf m))) := by
    unfold execPartSparge
    dsimp only
    rw [hfind]
    dsimp only
    refine congrArg (s.mb (primary 0xB02 2 true) m true) ?_
    split
    · rfl
    next heq => exact absurd (hstate.symm.trans heq) (by decide)
    next hne _ => exact absurd hstate hne
  rw [hbody]
  cases (s.spargeOf m).closing
  · exact mb_wait h
  · exact mb_again h

/-- A completed Sparge with the partition's new state, before its command completes (R418, R419). -/
def State.spargeEnded (s : State) (x : Sparge) (n d : Nat) : State :=
  let s := s.spargeClear x
  let pa :=
    { s.pa with
      sparges := s.pa.sparges.filter (fun y => y.part != n),
      sparged := mset 0 s.pa.sparged n (mget 0 s.pa.sparged n + 1) }
  let s := ({ s with pa := pa }).put (PART_SPARGE_INFO_COUNT n) (s.get (PART_SPARGE_INFO_COUNT n) + 1)
  ((s.put (PART_SPARGE_INFO_DURATION n) d).put (PART_STATE_HBM_SCRUB n) (b2n x.hbm)).put (PART_STATE_STATE n) (if n = 0 then 1 else 3)

theorem spargeEnded_facts (s : State) (x : Sparge) (n d : Nat) :
    (s.spargeEnded x n d).get (PART_STATE_STATE n) = (if n = 0 then 1 else 3) ∧
    (s.spargeEnded x n d).get (PART_STATE_HBM_SCRUB n) = b2n x.hbm ∧
    (s.spargeEnded x n d).get (PART_SPARGE_INFO_DURATION n) = d % 2 ^ 32 ∧ ∀ y ∈ (s.spargeEnded x n d).pa.sparges, y.part ≠ n := by
  have hstate : (if n = 0 then 1 else 3) < 2 ^ 2 := by split <;> decide
  have hhbm : b2n x.hbm < 2 ^ 1 := by cases x.hbm <;> decide
  unfold State.spargeEnded
  extract_lets u pa v
  refine ⟨get_put_fits _ _ (by decide) (by decide) hstate, ?_, ?_, fun y hy => ?_⟩
  · rw [get_put_apart _ rfl]
    exact get_put_fits _ _ (by decide) (by decide) hhbm
  · rw [get_put_of_id _ rfl, get_put_of_id _ rfl]
    exact get_put_rem _ _ _ (by decide) (by decide) (by decide)
  · rw [put_pa, put_pa, put_pa] at hy
    exact bne_iff_ne.mp (List.mem_filter.mp hy).2

theorem spargeComplete_of_quiet {n : Part} {d : Nat} {x : Sparge} (hx : s.pa.sparges.find? (fun x => x.part == n.val) = some x)
    (hquiet : x.quiet = true) (hops : ∀ o ∈ s.tr.ops, Pkt.part o.2.pkt ≠ n) (hdir : ∀ e ∈ s.dir, s.dirMine n e = false)
    (hcore : s.rs.core = false) (hheld : x.mbx ∉ s.hm.held) (hd : s.spargeLeast x ≤ d) : execSpargeComplete n d s =
      .next ((s.spargeEnded x n d).mbComplete x.mbx 0 0 [BitVec.ofNat 64 (d % 2 ^ 32)]) := by
  have hopen : (s.tr.ops.any (fun o => Pkt.part o.2.pkt == n.val) || s.dir.any (fun e => s.dirMine n e)) = false :=
    Bool.or_eq_false_iff.mpr ⟨List.any_eq_false.mpr fun o ho => by rw [beq_iff_eq]; exact hops o ho,
      List.any_eq_false.mpr fun e he => ne_true_of_eq_false (hdir e he)⟩
  have hnot : s.hm.held.contains x.mbx = false := Bool.eq_false_iff.mpr (mt List.contains_iff_mem.mp hheld)
  have hlate : decide (d < s.spargeLeast x) = false := decide_eq_false (Nat.not_lt.mpr hd)
  unfold execSpargeComplete
  dsimp only
  rw [hx]
  dsimp only
  rw [hquiet, hopen, hcore, hnot, hlate, if_neg (by decide)]
  rfl

theorem partDestroy_of_scrubbed (h : s.mbReady (primary 0xB03 1 true) m true) (hn : s.selPart m ≠ 0)
    (hstate : s.get (PART_STATE_STATE (s.selPart m)) = 3) : execPartDestroy m s =
      .next (((s.zeroShares (s.selPart m)).put (PART_STATE_STATE (s.selPart m)) 0).mbComplete m 0 0 []) := by
  refine (congrArg (s.mb (primary 0xB03 1 true) m true) ((if_neg hn).trans ?_)).trans
    (mb_done (t := (s.zeroShares (s.selPart m)).put (PART_STATE_STATE (s.selPart m)) 0) h [])
  split
  · rfl
  next heq => exact absurd (hstate.symm.trans heq) (by decide)
  next hne _ => exact absurd hstate hne

/-! ## The restart of the service firmware -/

theorem busy_lt (m : Nat) : s.get (MB_STATUS_BUSY m) < 2 :=
  (Nat.mod_lt _ (Nat.two_pow_pos _) : _ < 2 ^ (0 + 1 - 0))

/-- A command cut off before the restart completes it (R431). -/
def State.doomedCut (s : State) (m : Nat) : State :=
  State.cutMbx { s with hm := { s.hm with doomed := s.hm.doomed ++ [m] } } m

theorem mbEnd_nil (s : State) (m : Nat) : s.mbEnd [] m = if s.on (MB_STATUS_BUSY m) then (s.doomedCut m).mbComplete m stTIMEOUT 0 []
    else { s with hm := { s.hm with doomed := s.hm.doomed ++ [m] } } := rfl

theorem doomedCut_get (m : Nat) (f : Fld) : (s.doomedCut m).get f = s.get f := rfl

theorem doomedCut_sameMem (m : Nat) : SameMem s (s.doomedCut m) := ⟨rfl, rfl, rfl, rfl⟩

theorem mbComplete_sameMem (k status sc : Nat) {ws : List Word} (hws : ws.length ≤ 127) :
    SameMem s (s.mbComplete k status sc ws) := by
  by_cases hk : k < 33
  · rw [mbComplete_eq _ hk]
    refine completed_sameMem ?_
    rw [List.length_cons]
    split
    · exact Nat.le_of_ble_eq_true rfl
    · exact Nat.succ_le_succ hws
  · unfold State.mbComplete
    rw [if_pos (Nat.not_lt.mp hk)]
    exact ⟨rfl, rfl, rfl, rfl⟩

theorem mbComplete_busy {k : Nat} (hk : k < 33) (status sc : Nat) (ws : List Word) :
    (s.mbComplete k status sc ws).get (MB_STATUS_BUSY k) = 0 := by
  rw [mbComplete_eq _ hk, get_completed, get_respond_busy]

theorem mbComplete_busy_other {k j : Nat} (hjk : j ≠ k) (status sc : Nat) {ws : List Word} (hws : ws.length ≤ 127) :
    (s.mbComplete k status sc ws).get (MB_STATUS_BUSY j) = s.get (MB_STATUS_BUSY j) := by
  by_cases hk : k < 33
  · rw [State.get, mbComplete_reg hk _ _ hws, State.get]
    simp only [completionKeys, List.mem_cons, not_or]
    exact ⟨Key.ne_of_idx hjk, Key.ne_of_id rfl, not_mem_rspKeys_of_id _ rfl⟩
  · unfold State.mbComplete
    rw [if_pos (Nat.not_lt.mp hk)]

theorem mbEnd_nil_sameMem (m : Nat) : SameMem s (s.mbEnd [] m) := by
  rw [mbEnd_nil]
  split
  · exact (doomedCut_sameMem m).trans (mbComplete_sameMem _ _ _ (Nat.zero_le _))
  · exact ⟨rfl, rfl, rfl, rfl⟩

theorem mbEnd_nil_busy {m : Nat} (hm : m < 33) : (s.mbEnd [] m).get (MB_STATUS_BUSY m) = 0 := by
  rw [mbEnd_nil]
  split
  case isTrue => exact mbComplete_busy hm _ _ _
  case isFalse hoff =>
    have hlt := busy_lt (s := s) m
    have hne : s.get (MB_STATUS_BUSY m) ≠ 1 := fun h => hoff (beq_iff_eq.mpr h)
    change s.get (MB_STATUS_BUSY m) = 0
    omega

theorem mbEnd_nil_busy_other {m j : Nat} (hj : j ≠ m) : (s.mbEnd [] m).get (MB_STATUS_BUSY j) = s.get (MB_STATUS_BUSY j) := by
  rw [mbEnd_nil]
  split
  · exact (mbComplete_busy_other hj _ _ (Nat.zero_le _)).trans (doomedCut_get _ _)
  · rfl

/-- The commands in progress that the restart ends (R431). -/
def State.cutShort (s : State) (ms : List Nat) : State := ms.foldl (fun t m => t.mbEnd [] m) s

theorem cutShort_sameMem (ms : List Nat) : SameMem s (s.cutShort ms) :=
  List.foldlRecOn ms _ ⟨rfl, rfl, rfl, rfl⟩ fun _ h _ _ => h.trans (mbEnd_nil_sameMem _)

theorem cutShort_busy_of_not_mem {ms : List Nat} {j : Nat} (hj : j ∉ ms) :
    (s.cutShort ms).get (MB_STATUS_BUSY j) = s.get (MB_STATUS_BUSY j) :=
  foldl_same (fun t => t.get (MB_STATUS_BUSY j)) _ ms fun _ _ hx => mbEnd_nil_busy_other fun e => hj (e ▸ hx)

theorem cutShort_busy_of_mem {ms : List Nat} {j : Nat} (hlt : j < 33) (hj : j ∈ ms) :
    (s.cutShort ms).get (MB_STATUS_BUSY j) = 0 := by
  induction ms generalizing s with
  | nil => exact absurd hj List.not_mem_nil
  | cons x xs ih =>
    by_cases hmem : j ∈ xs
    · exact ih hmem
    · have hx : j = x := (List.mem_cons.mp hj).resolve_right hmem
      subst hx
      exact (cutShort_busy_of_not_mem hmem).trans (mbEnd_nil_busy hlt)

/-- The mailboxes whose commands the restart ends, in the order of their `GO` writes. -/
def State.restarted (s : State) : List Nat :=
  s.hm.order.filter (fun m => s.on (MB_STATUS_BUSY m) && !([0xB02, 0xB06, 0xE02] : List Nat).contains (s.cmdOp m))

theorem not_mem_restarted {k : Nat} (h : s.cmdOp k = 0xB02 ∨ s.cmdOp k = 0xB06 ∨ s.cmdOp k = 0xE02) : k ∉ s.restarted := by
  intro hmem
  obtain ⟨-, hkept⟩ := Bool.and_eq_true_iff.mp (List.mem_filter.mp hmem).2
  rcases h with h | h | h <;> rw [h] at hkept <;> exact absurd hkept (by decide)

theorem restarted_busy {k : Nat} (hk : k < 33) (hmem : k ∈ s.hm.order) (h1 : s.cmdOp k ≠ 0xB02) (h2 : s.cmdOp k ≠ 0xB06)
    (h3 : s.cmdOp k ≠ 0xE02) : (s.cutShort s.restarted).get (MB_STATUS_BUSY k) = 0 := by
  by_cases hbusy : s.on (MB_STATUS_BUSY k) = true
  · refine cutShort_busy_of_mem hk (List.mem_filter.mpr ⟨hmem, Bool.and_eq_true_iff.mpr ⟨hbusy, ?_⟩⟩)
    simp [h1, h2, h3]
  · have hnot : k ∉ s.restarted := fun hin => hbusy (Bool.and_eq_true_iff.mp (List.mem_filter.mp hin).2).1
    rw [cutShort_busy_of_not_mem hnot]
    have hlt := busy_lt (s := s) k
    have hne : s.get (MB_STATUS_BUSY k) ≠ 1 := fun h => hbusy (beq_iff_eq.mpr h)
    omega

/-- Settles O34: a partition's command acts by its state, a Sparge ends once nothing of the partition is open, and the
restart ends each command in progress on its own mailbox. -/
theorem partitions : Obligations.Partitions := by
  unfold Obligations.Partitions
  refine ⟨fun m s hconf h hn h1 h2 => ?_, fun m s hconf h hn h1 h2 => ?_, fun m s h => mb_done h _,
    fun m s => ?_,
    fun n d s x hx hquiet hops hdir hcore hheld hd => ⟨_, spargeComplete_of_quiet hx hquiet hops hdir hcore hheld hd,
      spargeEnded_facts s x n d⟩,
    fun m s h hn hstate => partDestroy_of_scrubbed h hn hstate, fun applied s => rfl,
    fun s => ⟨s.cutShort s.restarted, rfl, cutShort_sameMem _,
      fun k _ hop => cutShort_busy_of_not_mem (not_mem_restarted hop),
      fun k hk hmem h1 h2 h3 => restarted_busy hk hmem h1 h2 h3⟩⟩
  · obtain ⟨hstate, hpolicy, hbeat, hcreated, -, hregs, hmem⟩ := partUp_facts s (s.selPart m) false
    exact ⟨_, partCreate_of_plain hn h1 h2 hconf h, hstate, hpolicy, hbeat, hcreated, hregs, hmem⟩
  · have heq : exec (.partCreate m) s = _ := partCreate_of_confidential hn h1 h2 hconf h
    rw [heq]
    cases s.unwrapKey (s.selPart m) ((List.range 18).map (fun i => s.cmd m (3 + i))) [s.cmd m 1, s.cmd m 2] with
    | none => rfl
    | some k =>
      obtain ⟨hstate, hpolicy, -, -, hkeys, hregs, hmem⟩ :=
        partUp_facts { s with pa := { s.pa with keys := mset none s.pa.keys (s.selPart m) (some k) } } (s.selPart m) true
      refine ⟨_, rfl, hstate, hpolicy, ?_, hregs, (withPa_sameMem _).trans hmem⟩
      rw [hkeys]
      exact mget_mset_same none s.pa.keys _ (some k)
  · intro n h hnone hstate x u v
    have hv : v = s.spargeBegun n (s.spargeOf m) := rfl
    have hx : x = s.spargeOf m := rfl
    clear_value v x
    subst hv hx
    have heq : exec (.partSparge m) s = _ := partSparge_of_active h hnone hstate
    rw [heq]

end Sys2Proof.Machine
end

section
/-! Images, attestation, calibration and readouts by the mailbox (R435 to R441, R492, R515 to R520). -/

namespace Sys2Proof.Machine

variable {s : State} {m : Mbx}

/-! ## Images -/

/-- No image staged (R435). -/
def State.unstaged (s : State) : State := ({ s with pa := { s.pa with staged := none } } : State).put PART_STATUS_STAGED 0

theorem unstaged_cmd (k i : Nat) : s.unstaged.cmd k i = s.cmd k i := reg_put_of_id _ rfl

theorem bulkFault_unstaged (k : Nat) : s.unstaged.bulkFault k =
    if s.bulkLoc k = 0 then s.unstaged.hbmUncorr (s.bulkAddr k / 2 ^ 36 % 4) else s.unstaged := by
  unfold State.bulkFault State.bulkLoc State.bulkAddr
  rw [unstaged_cmd]

section
variable {a : Reply}
  (h : s.mbReady { primary 0xB05 3 with kept := true, units := locUnits (s.bulkLoc m), bulk := true } m (s.bulkOk m))
  (hw : s.on PART_STATUS_WRITING = false)
include h hw

theorem fwStage_of_ok {bs : List Byte} (hbs : s.bulkRead m a = .ok bs) : execFwStage m a s =
    .next (if s.imageStatus bs = 0
      then (({ s with pa := { s.pa with staged := some bs } } : State).put PART_STATUS_STAGED 1).mbComplete m 0 0
        [wd (bytesWords 64 (bs.take 512)) 1, wd (bytesWords 64 (bs.take 512)) 5]
      else s.unstaged.mbComplete m (s.imageStatus bs) 0 []) := by
  unfold execFwStage
  dsimp only
  rw [hw, if_neg Bool.false_ne_true, hbs]
  dsimp only
  by_cases hst : s.imageStatus bs = 0
  · rw [if_neg (not_not.mpr hst), if_pos hst]
    exact mb_done h _
  · rw [if_pos hst, if_neg hst]
    exact mb_ends h _

theorem fwStage_of_error {st : Nat} (hst : s.bulkRead m a = .error st) : execFwStage m a s =
    .next ((if s.bulkLoc m = 0 then s.unstaged.hbmUncorr (s.bulkAddr m / 2 ^ 36 % 4) else s.unstaged).mbComplete m st 0 []) := by
  rw [← bulkFault_unstaged]
  unfold execFwStage
  dsimp only
  rw [hw, if_neg Bool.false_ne_true, hst]
  exact mb_ends h _

end

section
variable (h : s.mbReady { primary 0xB06 2 with kept := true } m true)
include h

theorem fwCommit_of_writing (hw : s.rs.calWrite ≠ none) : execFwCommit m s = .next s :=
  (congrArg (s.mb _ _ _) (if_pos (Option.isSome_iff_ne_none.mpr hw))).trans (mb_again h)

theorem fwCommit_of_staged {bs : List Byte} (hbs : s.pa.staged = some bs)
    (hsvn : bit (s.arg m 0) 0 = false ∨ wb (bytesWords 2 (bs.take 16)) 1 31 0 ≤ 255) (hw : s.rs.calWrite = none) :
    let t := ({ s with pa := { s.pa with commit := some (m, bit (s.arg m 0) 0) } } : State).put PART_STATUS_WRITING 1
    execFwCommit m s = .next { t with hm := { t.hm with running := t.hm.running ++ [m.val] } } := by
  have hidle : ¬ s.rs.calWrite.isSome = true := by rw [hw]; exact Bool.false_ne_true
  have hfuse : ¬ (bit (s.arg m 0) 0 && decide (255 < wb (bytesWords 2 (bs.take 16)) 1 31 0)) = true := by
    intro hboth
    obtain ⟨hadv, hover⟩ := Bool.and_eq_true_iff.mp hboth
    exact hsvn.elim (fun hno => Bool.false_ne_true (hno.symm.trans hadv)) (Nat.not_le.mpr (of_decide_eq_true hover))
  intro t
  refine (congrArg (s.mb { primary 0xB06 2 with kept := true } m true) ((if_neg hidle).trans ?_)).trans (mb_wait (t := t) h)
  split
  next heq => exact absurd (hbs.symm.trans heq) nofun
  next bs' heq =>
    obtain rfl : bs = bs' := Option.some.inj (hbs.symm.trans heq)
    exact if_neg hfuse

end

/-- The commit no longer in progress (R438). -/
def State.commitEnded (s : State) : State := ({ s with pa := { s.pa with commit := none } } : State).put PART_STATUS_WRITING 0

/-- The flash written with the staged image (R438). -/
def State.flashed (s : State) : State :=
  ({ s.commitEnded with pa := { s.commitEnded.pa with flash := s.commitEnded.pa.staged } } : State).put PART_STATUS_FW_INVALID 0

theorem flashed_svn : s.flashed.get PART_SVN_FUSED_SVN = s.get PART_SVN_FUSED_SVN :=
  (get_put_of_id (s := { s.commitEnded with pa := _ }) 0 rfl).trans (get_put_of_id (s := { s with pa := _ }) 0 rfl)

theorem fwCommitDone_of_matched {k : Nat} {adv : Bool} (hc : s.pa.commit = some (k, adv)) :
    let svn := wb (bytesWords 2 ((s.pa.staged.getD []).take 16)) 1 31 0
    execFwCommitDone true s = .next (State.mbComplete (if adv = true ∧ s.get PART_SVN_FUSED_SVN < svn ∧ svn ≤ 255
      then s.flashed.put PART_SVN_FUSED_SVN svn else s.flashed) k 0 0 []) := by
  intro svn
  have hcond : (adv && decide (s.flashed.get PART_SVN_FUSED_SVN < svn) && decide (svn ≤ 255)) = true ↔
      adv = true ∧ s.get PART_SVN_FUSED_SVN < svn ∧ svn ≤ 255 := by
    rw [flashed_svn, Bool.and_eq_true, Bool.and_eq_true, decide_eq_true_iff, decide_eq_true_iff, and_assoc]
  have hdone : execFwCommitDone true s = .next (State.mbComplete
      (if (adv && decide (s.flashed.get PART_SVN_FUSED_SVN < svn) && decide (svn ≤ 255)) = true
        then s.flashed.put PART_SVN_FUSED_SVN svn else s.flashed) k 0 0 []) := by
    unfold execFwCommitDone
    rw [hc]
    rfl
  rw [hdone]
  simp only [hcond]

theorem fwCommitDone_of_mismatch {k : Nat} {adv : Bool} (hc : s.pa.commit = some (k, adv)) : execFwCommitDone false s =
    .next ((({ s.commitEnded with pa := { s.commitEnded.pa with flash := some [] } } : State).flag
      PART_STATUS_FW_INVALID).mbComplete k stPARITY 0 []) := by
  unfold execFwCommitDone
  rw [hc]
  rfl

/-! ## The calibration store -/

theorem calRead_of_ok {t : State} (h : s.mbReady { primary 0xE01 3 with kept := true, units := locUnits (s.bulkLoc m), bulk := true } m
      (decide (s.cmdIdx m ≤ 3) && s.bulkOk m)) (hlen : (calSection (s.cmdIdx m)).2 ≤ s.bulkLen m)
    (hw : s.bulkWrite m (s.calBytes (s.cmdIdx m)) = (0, t)) : execCalRead m s = .next (t.mbComplete m 0 0 []) := by
  unfold execCalRead
  dsimp only
  rw [if_neg (Nat.not_lt.mpr hlen), hw]
  exact mb_done h _

theorem calWrite_of_ok {a : Reply} {bs : List Byte}
    (h : s.mbReady { primary 0xE02 3 with kept := true, units := locUnits (s.bulkLoc m), bulk := true } m
      (decide (s.cmdIdx m < 3) && s.bulkOk m)) (hlen : s.bulkLen m = (calSection (s.cmdIdx m)).2)
    (hidle : s.on PART_STATUS_WRITING = false) (hbs : s.bulkRead m a = .ok bs)
    (hres : (bytesWords ((calSection (s.cmdIdx m)).2 / 8) bs).all (calReserved (s.cmdIdx m)) = true) :
    let t := ({ s with rs := { s.rs with calWrite := some (m, s.cmdIdx m, bs) } } : State).put CAL_STATUS_WRITING 1
    execCalWrite m a s = .next { t with hm := { t.hm with running := t.hm.running ++ [m.val] } } := by
  intro t
  unfold execCalWrite
  dsimp only
  rw [if_neg (not_not.mpr hlen), hidle, if_neg Bool.false_ne_true, hbs]
  dsimp only
  rw [if_pos hres]
  exact mb_wait (t := t) h

/-- The calibration store's write no longer in progress (R518). -/
def State.calStopped (s : State) (bad : Bool) : State :=
  ({ s with rs := { s.rs with calWrite := none, storeBad := bad } } : State).put CAL_STATUS_WRITING 0

theorem wr_sameMem (k : Key) (n : Nat) : SameMem s (s.wr k n) := ⟨rfl, rfl, rfl, rfl⟩

theorem withRs_sameMem (rs : ResetU) : SameMem s { s with rs := rs } := ⟨rfl, rfl, rfl, rfl⟩

theorem calStopped_writing (s : State) (bad : Bool) : (s.calStopped bad).get CAL_STATUS_WRITING = 0 :=
  get_put_fits _ _ (by decide) (by decide) (by decide)

theorem calStopped_factory (s : State) (bad : Bool) : (s.calStopped bad).get CAL_STATUS_FACTORY = s.get CAL_STATUS_FACTORY :=
  get_put_apart (s := { s with rs := _ }) 0 rfl

theorem calStopped_count (s : State) (bad : Bool) : (s.calStopped bad).rd CAL_WRITE_COUNT = s.rd CAL_WRITE_COUNT :=
  congrArg BitVec.toNat (reg_put_of_id (s := { s with rs := _ }) 0 rfl)

theorem calStopped_sameRegs (s : State) (bad : Bool) : SameRegs s (s.calStopped bad) [CAL_STATUS] := fun _ hk =>
  reg_put_other { s with rs := _ } _ (List.ne_of_not_mem_cons hk)

theorem calStopped_sameMem (s : State) (bad : Bool) : SameMem s (s.calStopped bad) :=
  (withRs_sameMem _).trans (put_sameMem _ _ _)

/-- The store's head before a write: what it holds, or what the registers show (log 97). -/
def State.storeTop (s : State) : Nat × Nat := s.rs.storeHead.getD (s.get CAL_STATUS_FACTORY, s.rd CAL_WRITE_COUNT)

/-- The word of a head whose section `k` is no longer the factory's. -/
def factoryWord (h : Nat × Nat) (k : Nat) : Word := setBits (BitVec.ofNat 64 h.1) k k 0

theorem storeTop_calStopped (bad : Bool) : (s.calStopped bad).storeTop = s.storeTop := by
  unfold State.storeTop
  rw [calStopped_factory, calStopped_count]
  rfl

theorem calProgram_head (s : State) (k : Nat) (bs : List Byte) : (s.calProgram k bs).rs.storeHead =
    some ((factoryWord s.storeTop k).toNat, (s.storeTop.2 + 1) % 2 ^ 32) := rfl

theorem calProgram_reg (k : Nat) (bs : List Byte) (j : Key) : (s.calProgram k bs).reg j = s.reg j := rfl

theorem calProgram_get (k : Nat) (bs : List Byte) (f : Fld) : (s.calProgram k bs).get f = s.get f := rfl

theorem calProgram_sameMem (k : Nat) (bs : List Byte) : SameMem s (s.calProgram k bs) := ⟨rfl, rfl, rfl, rfl⟩

theorem calHead_of_some {f n : Nat} (h : s.rs.storeHead = some (f, n)) : s.calHead = (s.put CAL_STATUS_FACTORY f).wr CAL_WRITE_COUNT n := by
  rw [State.calHead, h]

/-- The registers that show a head (R519). -/
def State.headShown (s : State) (f n : Nat) : State := (s.put CAL_STATUS_FACTORY f).wr CAL_WRITE_COUNT n

theorem headShown_factory (f n : Nat) : (s.headShown f n).get CAL_STATUS_FACTORY = f % 2 ^ 3 := by
  unfold State.headShown
  rw [get_wr_of_id _ rfl]
  exact get_put_rem _ _ _ (by decide) (by decide) (by decide)

theorem headShown_writing (f n : Nat) : (s.headShown f n).get CAL_STATUS_WRITING = s.get CAL_STATUS_WRITING := by
  unfold State.headShown
  rw [get_wr_of_id _ rfl, get_put_apart _ rfl]

theorem headShown_count {f n : Nat} (hn : n < 2 ^ 64) : (s.headShown f n).rd CAL_WRITE_COUNT = n := by
  unfold State.headShown
  rw [State.rd, State.wr, reg_setReg_same, BitVec.toNat_ofNat, Nat.mod_eq_of_lt hn]

theorem headShown_rs (f n : Nat) : (s.headShown f n).rs = s.rs := rfl

theorem headShown_sameRegs (f n : Nat) : SameRegs s (s.headShown f n) [CAL_STATUS, CAL_WRITE_COUNT] := fun _ hk => by
  obtain ⟨hstatus, hcount⟩ := not_or.mp (mt List.mem_pair.mpr hk)
  exact (reg_setReg_other _ _ hcount).trans (reg_put_other _ _ hstatus)

theorem headShown_sameMem (f n : Nat) : SameMem s (s.headShown f n) := (put_sameMem s CAL_STATUS_FACTORY f).trans (wr_sameMem _ _)

/-- A head shown, with section `k` the latest one written (R519). -/
def State.headWritten (s : State) (k f n : Nat) : State :=
  { s.headShown f n with rs := { s.rs with calNew := s.rs.calNew.erase k ++ [k] } }

theorem get_withRs (rs : ResetU) (f : Fld) : State.get { s with rs := rs } f = s.get f := rfl

theorem reg_withRs (rs : ResetU) (k : Key) : State.reg { s with rs := rs } k = s.reg k := rfl

theorem headWritten_facts (s : State) (k f : Nat) {n : Nat} (hn : n < 2 ^ 64) : let t := s.headWritten k f n
    t.get CAL_STATUS_WRITING = s.get CAL_STATUS_WRITING ∧ t.rs = { s.rs with calNew := s.rs.calNew.erase k ++ [k] } ∧
      t.rd CAL_WRITE_COUNT = n ∧ t.get CAL_STATUS_FACTORY = f % 2 ^ 3 ∧ SameRegs s t [CAL_STATUS, CAL_WRITE_COUNT] ∧ SameMem s t :=
  ⟨(get_withRs _ _).trans (headShown_writing f n), rfl,
    (congrArg BitVec.toNat (reg_withRs _ _)).trans (headShown_count (s := s) (f := f) hn),
    (get_withRs _ _).trans (headShown_factory f n), fun j hj => (reg_withRs _ _).trans (headShown_sameRegs f n j hj),
    (headShown_sameMem f n).trans (withRs_sameMem _)⟩

/-- The state after a section was written and read back, before its command completes (R518, R519). -/
def State.calWritten (s : State) (k : Nat) (bs : List Byte) : State :=
  ((s.calStopped false).calProgram k bs).headWritten k (factoryWord s.storeTop k).toNat ((s.storeTop.2 + 1) % 2 ^ 32)

section
variable {k j : Nat} {bs : List Byte} (h : s.rs.calWrite = some (j, k, bs))
include h

theorem calWriteDone_of_matched : execCalWriteDone true s = .next ((s.calWritten k bs).mbComplete j 0 0 []) := by
  have hhead : ((s.calStopped false).calProgram k bs).calHead =
      ((s.calStopped false).calProgram k bs).headShown (factoryWord s.storeTop k).toNat ((s.storeTop.2 + 1) % 2 ^ 32) := by
    refine calHead_of_some ?_
    rw [calProgram_head, storeTop_calStopped]
  unfold execCalWriteDone
  rw [h]
  exact congrArg (fun u : State => Host.Outcome.next (State.mbComplete { u with rs := { u.rs with
    calNew := u.rs.calNew.erase k ++ [k] } } j 0 0 [])) hhead

theorem calWriteDone_of_mismatch : execCalWriteDone false s =
    .next (((s.calStopped true).flag CAL_STATUS_WRITE_FAIL).mbComplete j stPARITY 0 []) := by
  unfold execCalWriteDone
  rw [h]
  rfl

end

theorem calFailed_facts (s : State) : let t := (s.calStopped true).flag CAL_STATUS_WRITE_FAIL
    t.get CAL_STATUS_WRITE_FAIL = 1 ∧ t.get CAL_STATUS_WRITING = 0 ∧ t.rs.calWrite = none ∧ t.rs.store = s.rs.store ∧
      SameRegs s t [CAL_STATUS] ∧ SameMem s t := by
  refine ⟨get_flag_same (by decide) (by decide), ?_, rfl, rfl, fun k hk => ?_, (calStopped_sameMem _ _).trans (put_sameMem _ _ _)⟩
  · rw [get_flag_apart rfl, calStopped_writing]
  · exact (reg_put_other _ _ (List.ne_of_not_mem_cons hk)).trans (calStopped_sameRegs s true k hk)

theorem calWritten_facts (s : State) {k : Nat} (hk : k < 3) (bs : List Byte) : let t := s.calWritten k bs
    t.get CAL_STATUS_WRITING = 0 ∧ t.rs.calWrite = none ∧ t.rd CAL_WRITE_COUNT = (s.storeTop.2 + 1) % 2 ^ 32 ∧
      t.rs.calNew = s.rs.calNew.erase k ++ [k] ∧
      t.rs.storeHead = some ((factoryWord s.storeTop k).toNat, (s.storeTop.2 + 1) % 2 ^ 32) ∧
      (t.get CAL_STATUS_FACTORY).testBit k = false ∧ SameRegs s t [CAL_STATUS, CAL_WRITE_COUNT] ∧ SameMem s t := by
  have hlt : (s.storeTop.2 + 1) % 2 ^ 32 < 2 ^ 64 :=
    (Nat.mod_lt _ (Nat.two_pow_pos _)).trans (Nat.pow_lt_pow_right (by decide) (by decide))
  have hbit : ((factoryWord s.storeTop k).toNat % 2 ^ 3).testBit k = false := by
    rw [Nat.testBit_mod_two_pow, factoryWord, setBits_testBit _ _ _ _ _ le_rfl (by omega), if_pos ⟨le_rfl, le_rfl⟩,
      Nat.zero_testBit, Bool.and_false]
  have hhead : ((s.calStopped false).calProgram k bs).rs.storeHead =
      some ((factoryWord s.storeTop k).toNat, (s.storeTop.2 + 1) % 2 ^ 32) := by
    rw [calProgram_head, storeTop_calStopped]
  have hwriting : ((s.calStopped false).calProgram k bs).get CAL_STATUS_WRITING = 0 := by
    rw [calProgram_get, calStopped_writing]
  have hmem : SameMem s ((s.calStopped false).calProgram k bs) := (calStopped_sameMem s false).trans (calProgram_sameMem k bs)
  have hregs : SameRegs s ((s.calStopped false).calProgram k bs) [CAL_STATUS] := calStopped_sameRegs s false
  have hnone : ((s.calStopped false).calProgram k bs).rs.calWrite = none := rfl
  have hnew : ((s.calStopped false).calProgram k bs).rs.calNew = s.rs.calNew := rfl
  unfold State.calWritten
  generalize (s.storeTop.2 + 1) % 2 ^ 32 = n at hlt hhead ⊢
  generalize (factoryWord s.storeTop k).toNat = f at hbit hhead ⊢
  generalize (s.calStopped false).calProgram k bs = u at hhead hwriting hmem hregs hnone hnew ⊢
  obtain ⟨hw, hrs, hcount, hfactory, hsame, hsameMem⟩ := headWritten_facts u k f hlt
  refine ⟨hw.trans hwriting, ?_, hcount, ?_, ?_, ?_, fun j hj => ?_, hmem.trans hsameMem⟩
  · rw [hrs]
    exact hnone
  · rw [hrs, hnew]
  · rw [hrs]
    exact hhead
  · rw [hfactory]
    exact hbit
  · exact (hsame j hj).trans (hregs j (mt (List.mem_singleton.mp ·) (List.ne_of_not_mem_cons hj)))

/-! ## Readouts -/

section
variable (h : s.mbReady { tenant 0xD01 2 with naming := false, kept := true, units := [GLOBAL_OPTIONS_CASK_PRESENT] } m
  (decide (bits (s.arg m 0) 1 0 < 3))) (hup : s.on CASK_STATUS_LINK_UP = true)
include h hup

theorem caskReadout_of_readout (hmode : bits (s.arg m 0) 1 0 = 0) (hv : s.on CASK_STATUS_READOUT_VALID = true) :
    execCaskReadout m s =
      .next (s.mbComplete m 0 0 (s.reg CASK_READOUT_BEAT :: (List.range 24).map (fun w => s.reg (CASK_READOUT w)))) := by
  refine (congrArg (s.mb _ m _) ((guard_passes hup).trans ?_)).trans (mb_done (t := s) h _)
  rw [hmode]
  exact if_pos hv

theorem caskReadout_of_cert (hmode : bits (s.arg m 0) 1 0 = 1) (hv : s.on CASK_STATUS_CERT_VALID = true) :
    execCaskReadout m s = .next (s.mbComplete m 0 0 (certWords s.sh.cert.length s.sh.cert)) := by
  refine (congrArg (s.mb _ m _) ((guard_passes hup).trans ?_)).trans (mb_done (t := s) h _)
  rw [hmode]
  exact if_pos hv

theorem caskReadout_of_log {l : List (Word × Word)} (hmode : bits (s.arg m 0) 1 0 = 2) (hl : s.sh.log = some l) :
    let es := (l.drop (s.cmdIdx m)).take 60
    execCaskReadout m s = .next (s.mbComplete m 0 0 (BitVec.ofNat 64 es.length :: es.flatMap (fun e => [e.1, e.2]))) := by
  refine (congrArg (s.mb _ m _) ((guard_passes hup).trans ?_)).trans (mb_done (t := s) h _)
  rw [hmode, hl]
  rfl

end

/-- Settles O35: what a transfer brings decides what is staged or written, and the ends of the flash's and the store's
writes say what they leave. -/
theorem firmwareAndCalibration : Obligations.FirmwareAndCalibration := by
  unfold Obligations.FirmwareAndCalibration
  exact ⟨fun m a s bs h hw hbs => fwStage_of_ok h hw hbs, fun m a s st h hw hst => fwStage_of_error h hw hst,
    fun m s h hw => fwCommit_of_writing h hw, fun m s bs h hbs hsvn hw => fwCommit_of_staged h hbs hsvn hw,
    fun s k adv hc => ⟨fwCommitDone_of_mismatch hc, fwCommitDone_of_matched hc⟩, fun m s h => mb_done h _,
    fun m s t h hlen hw => calRead_of_ok h hlen hw,
    fun m a s bs h hlen hidle hbs hres => calWrite_of_ok h hlen hidle hbs hres,
    fun s j k bs h hk => ⟨⟨_, calWriteDone_of_mismatch h, calFailed_facts s⟩, ⟨_, calWriteDone_of_matched h, calWritten_facts s hk bs⟩⟩,
    fun m s h hup => ⟨fun hmode hv => caskReadout_of_readout h hup hmode hv, fun hmode hv => caskReadout_of_cert h hup hmode hv,
      fun l hmode hl => caskReadout_of_log h hup hmode hl⟩⟩

end Sys2Proof.Machine
end

section
/-! Health: peers lost, the buckets of the scores, and the mailbox commands of the governor, the budgets and isolation
(R459 to R468, R473, R474). -/

namespace Sys2Proof.Machine

variable {s t : State} {m : Mbx}

/-! ## Scores -/

/-- What showing a score leaves: the health block's own state, the memories, and every register but the scores and the
suspects. -/
structure ScoresShown (s t : State) : Prop where
  he : t.he = s.he
  mem : SameMem s t

theorem ScoresShown.refl (s : State) : ScoresShown s s := ⟨rfl, rfl, rfl, rfl, rfl⟩

theorem ScoresShown.trans {u : State} (h : ScoresShown s t) (h' : ScoresShown t u) : ScoresShown s u :=
  ⟨h'.he.trans h.he, h.mem.trans h'.mem⟩

theorem ScoresShown.put (s : State) (f : Fld) (n : Nat) : ScoresShown s (s.put f n) := ⟨put_he s f n, put_sameMem s f n⟩

theorem showScore_shown (s : State) (kind idx : Nat) : ScoresShown s (s.showScore kind idx) := by
  unfold State.showScore
  dsimp only
  split
  · split
    · exact (ScoresShown.put _ _ _).trans (.put _ _ _)
    · exact .put _ _ _
  · split
    · split
      · exact (ScoresShown.put _ _ _).trans (.put _ _ _)
      · exact .put _ _ _
    · exact ⟨setReg_he _ _ _, rfl, rfl, rfl, rfl⟩

theorem ScoresShown.foldl (kind : Nat) (l : List Nat) (s : State) : ScoresShown s (l.foldl (fun t p => t.showScore kind p) s) :=
  List.foldlRecOn l _ (.refl s) fun t h p _ => h.trans (showScore_shown t kind p)

/-- A fold whose step at `p` gives what is read its value, and whose other steps leave it. -/
theorem foldl_sets {α β σ : Type} {Q : σ → Prop} {g : σ → β} {f : σ → α → σ} {p : α} {v : β} (hset : ∀ t, Q t → g (f t p) = v)
    (hkeep : ∀ t q, q ≠ p → g (f t q) = g t) (hQ : ∀ t q, Q t → Q (f t q)) {l : List α} (hp : p ∈ l) {s : σ} (hs : Q s) :
    g (l.foldl f s) = v := by
  induction l generalizing s with
  | nil => exact absurd hp List.not_mem_nil
  | cons x xs ih =>
    by_cases hmem : p ∈ xs
    · exact ih hmem (hQ s x hs)
    · have hx : p = x := (List.mem_cons.mp hp).resolve_right hmem
      subst hx
      have hrest : g (xs.foldl f (f s p)) = g (f s p) :=
        List.foldlRecOn xs f (motive := fun t => g t = g (f s p)) rfl fun t h q hq => (hkeep t q fun e => hmem (e ▸ hq)).trans h
      exact hrest.trans (hset s hs)

theorem showScore_port_get (s : State) (p : Nat) :
    (s.showScore 0 p).get (HEALTH_PORT_GRAVITY_GRAVITY p) = score16 (s.score 0 p) := by
  have hlt : score16 (s.score 0 p) < 2 ^ 16 := (min_le_right _ 65535).trans_lt (by decide)
  have hset : (s.put (HEALTH_PORT_GRAVITY_GRAVITY p) (score16 (s.score 0 p))).get (HEALTH_PORT_GRAVITY_GRAVITY p) =
      score16 (s.score 0 p) := get_put_fits _ _ (by decide) (by decide) hlt
  unfold State.showScore
  dsimp only
  rw [if_pos rfl]
  split
  · exact (get_put_apart (f := HEALTH_PORT_GRAVITY_SUSPECT p) _ rfl).trans hset
  · exact hset

theorem showScore_port_reg_other {p q : Nat} (h : q ≠ p) : (s.showScore 0 q).reg (HEALTH_PORT_GRAVITY p) = s.reg (HEALTH_PORT_GRAVITY p) := by
  have hne : HEALTH_PORT_GRAVITY p ≠ HEALTH_PORT_GRAVITY q := Key.ne_of_idx h.symm
  unfold State.showScore
  dsimp only
  rw [if_pos rfl]
  split
  · exact (reg_put_other (f := HEALTH_PORT_GRAVITY_SUSPECT q) _ _ hne).trans (reg_put_other _ _ hne)
  · exact reg_put_other _ _ hne

theorem showScore_peer_regsBut (s : State) (i : Nat) : RegsBut [(HEALTH_PEER_A 0).id] s (s.showScore 1 i) := by
  unfold State.showScore
  dsimp only
  rw [if_neg (by decide), if_pos rfl]
  split
  · exact .put (f := HEALTH_PEER_A_SUSPECT i) (.put (.refl _ s) _ rfl) _ rfl
  · exact .put (.refl _ s) _ rfl

theorem showScore_self_regsBut (s : State) (i : Nat) : RegsBut [HEALTH_SELF_GRAVITY.id] s (s.showScore 2 i) := by
  unfold State.showScore
  dsimp only
  rw [if_neg (by decide), if_neg (by decide)]
  exact .setReg (.refl _ s) _ rfl

theorem showScore_port_regsBut (s : State) (i : Nat) : RegsBut [(HEALTH_PORT_GRAVITY 0).id] s (s.showScore 0 i) := by
  unfold State.showScore
  dsimp only
  rw [if_pos rfl]
  split
  · exact .put (f := HEALTH_PORT_GRAVITY_SUSPECT i) (.put (.refl _ s) _ rfl) _ rfl
  · exact .put (.refl _ s) _ rfl

/-- The scores of the ports and of the peers `l` shown (R474). -/
def State.scoresShown (s : State) (l : List Nat) : State :=
  l.foldl (fun t i => t.showScore 1 i) ((List.range 96).foldl (fun t p => t.showScore 0 p) s)

theorem scoresShown_shown (s : State) (l : List Nat) : ScoresShown s (s.scoresShown l) :=
  (ScoresShown.foldl 0 _ s).trans (.foldl 1 l _)

theorem scoresShown_gravity (s : State) (l : List Nat) {p : Nat} (hp : p < 96) :
    (s.scoresShown l).get (HEALTH_PORT_GRAVITY_GRAVITY p) = score16 (s.score 0 p) := by
  have hports : ((List.range 96).foldl (fun t p => t.showScore 0 p) s).get (HEALTH_PORT_GRAVITY_GRAVITY p) = score16 (s.score 0 p) :=
    foldl_sets (Q := fun t => t.he = s.he) (g := fun t => t.get (HEALTH_PORT_GRAVITY_GRAVITY p)) (fun t ht => by rw [showScore_port_get, State.score, ht, State.score])
      (fun t q hq => congrArg (bits · 15 0) (showScore_port_reg_other hq)) (fun t q ht => (showScore_shown t 0 q).he.trans ht)
      (List.mem_range.mpr hp) rfl
  unfold State.scoresShown
  rw [(RegsBut.foldl showScore_peer_regsBut l _).get_eq rfl, hports]

/-- The events that the end of a bucket leaves (R473). -/
def State.bucketEnded (s : State) : State :=
  { s with he := { s.he with bucket := s.he.bucket + 1, events := s.he.events.filter (fun e => decide (s.he.bucket + 1 < e.bucket + 10)) } }

theorem bucketEnded_sameMem (s : State) : SameMem s s.bucketEnded := ⟨rfl, rfl, rfl, rfl⟩

theorem gravityBucketExpire_facts (s : State) : ∃ t : State, execGravityBucketExpire s = .next t ∧ t.he = s.bucketEnded.he ∧ SameMem s t ∧
    ∀ p < 96, t.get (HEALTH_PORT_GRAVITY_GRAVITY p) = score16 (s.bucketEnded.score 0 p) := by
  let peers := (List.range 96).filter (fun i => ((List.range 96).foldl (fun s p => s.showScore 0 p) s.bucketEnded).get (HEALTH_PEER_A_STATE i) != 0)
  refine ⟨(List.range 4).foldl (fun s k => s.showScore 2 k) (s.bucketEnded.scoresShown peers), rfl, ?_, ?_, fun p hp => ?_⟩
  · exact ((scoresShown_shown _ _).trans (.foldl 2 _ _)).he
  · exact (bucketEnded_sameMem s).trans ((scoresShown_shown _ _).trans (.foldl 2 _ _)).mem
  · rw [(RegsBut.foldl showScore_self_regsBut _ _).get_eq rfl, scoresShown_gravity _ _ hp]

theorem peerDead_of_silent {i : Port} {b : Nat} (hdown : mget none s.he.downAt i.val = some b)
    (hlive : s.get (HEALTH_PEER_A_STATE i.val) = 1) (hhold : b + s.get HEALTH_CONFIG_DEAD_HOLD ≤ s.edge)
    (hports : ∀ p ∈ s.peerPorts i.val, s.active p = false) : execPeerDead i s = .next (s.declareDead i.val) := by
  have hsilent : (s.peerPorts i.val).all (fun p => !s.active p) = true :=
    List.all_eq_true.mpr fun p hp => (Bool.not_eq_true' _).mpr (hports p hp)
  rw [execPeerDead, hdown]
  exact if_pos ⟨hlive, hhold, hsilent⟩

/-! ## The mailbox's commands -/

/-- The governor's settings as `PGOV_SET` writes them (R474). -/
def State.govSet (s : State) (a : Nat → Word) : State :=
  ((((((((s.setMask PGOV_CONFIG 0xFFFFFFFF001FFFFF (a 0)).setReg PGOV_SLOPE_UP (a 1)).setReg PGOV_SLOPE_DOWN (a 2)).setReg
    PGOV_CAP_SLEW (a 3)).setReg PGOV_SOLO_SLOPE (a 4)).setReg PGOV_RACK_SLOPE_UP (a 5)).setReg PGOV_GRANT_MAX_LEN (a 6)).setReg
    PGOV_ARB_LIST (a 7))

/-- The registers that `PGOV_SET` writes. -/
def govKeys : List Key := [PGOV_CONFIG, PGOV_SLOPE_UP, PGOV_SLOPE_DOWN, PGOV_CAP_SLEW, PGOV_SOLO_SLOPE, PGOV_RACK_SLOPE_UP,
  PGOV_GRANT_MAX_LEN, PGOV_ARB_LIST]

theorem govSet_onlyRegs (s : State) (a : Nat → Word) : OnlyRegs s (s.govSet a) govKeys := by
  unfold State.govSet
  have hconfig : OnlyRegs s (s.setMask PGOV_CONFIG 0xFFFFFFFF001FFFFF (a 0)) govKeys := (OnlyRegs.refl s _).setReg _ (by decide)
  refine ((((((hconfig.setReg _ ?_).setReg _ ?_).setReg _ ?_).setReg _ ?_).setReg _ ?_).setReg _ ?_).setReg _ ?_ <;> decide

theorem govSet_reg (s : State) (a : Nat → Word) : let t := s.govSet a
    t.reg PGOV_SLOPE_UP = a 1 ∧ t.reg PGOV_SLOPE_DOWN = a 2 ∧ t.reg PGOV_CAP_SLEW = a 3 ∧ t.reg PGOV_SOLO_SLOPE = a 4 ∧
      t.reg PGOV_RACK_SLOPE_UP = a 5 ∧ t.reg PGOV_GRANT_MAX_LEN = a 6 ∧ t.reg PGOV_ARB_LIST = a 7 ∧
      t.reg PGOV_CONFIG = (s.setMask PGOV_CONFIG 0xFFFFFFFF001FFFFF (a 0)).reg PGOV_CONFIG := by
  unfold State.govSet
  refine ⟨?_, ?_, ?_, ?_, ?_, ?_, reg_setReg_same _ _ _, ?_⟩ <;>
    simp (disch := exact id rfl) only [reg_setReg_of_id, reg_setReg_same]

theorem pgovSet_of_ready (h : s.mbReady { primary 0xC01 9 with kept := true } m
    (decide (1 ≤ bits (s.arg m 0) 63 48) && decide (1 ≤ bits (s.arg m 0) 20 16) && decide (bits (s.arg m 0) 20 16 ≤ 16))) :
    execPgovSet m s = .next ((s.govSet (s.arg m)).arbView.mbComplete m 0 0 []) := mb_done h []

theorem pgovCapSet_eq (h : s.mbReady { primary 0xC02 2 with kept := true } m true) :
    execPgovCapSet m s = .next ((s.setCap (bits (s.arg m 0) 15 0)).mbComplete m 0 0 []) := mb_done h []

theorem setCap_of_alert (h : s.on PGOV_STATUS_ALERT = true) (w : Nat) :
    s.setCap w = { s with pg := { s.pg with capKept := some (w % 65536) } } := if_pos h

theorem healthBudgetSet_facts (h : s.mbReady { primary 0xC05 2 with kept := true, minor := 2 } m true) :
    ∃ t : State, execHealthBudgetSet m s = .next (t.mbComplete m 0 0 []) ∧
      t.reg HEALTH_CONFIG = (s.setMask HEALTH_CONFIG 0x1FFFFFFFFFFF (s.arg m 0)).reg HEALTH_CONFIG ∧ t.he = s.he ∧ SameMem s t := by
  let u := s.setMask HEALTH_CONFIG 0x1FFFFFFFFFFF (s.arg m 0)
  let peers := (List.range 96).filter (fun i => ((List.range 96).foldl (fun t p => t.showScore 0 p) u).get (HEALTH_PEER_A_STATE i) != 0)
  have hset : ScoresShown s u := ⟨setReg_he _ _ _, rfl, rfl, rfl, rfl⟩
  refine ⟨u.scoresShown peers, mb_done h [], ?_, (hset.trans (scoresShown_shown u peers)).he, (hset.trans (scoresShown_shown u peers)).mem⟩
  unfold State.scoresShown
  rw [RegsBut.foldl showScore_peer_regsBut peers _ HEALTH_CONFIG rfl, RegsBut.foldl showScore_port_regsBut _ _ HEALTH_CONFIG rfl]

theorem healthIsolate_of_live (h : s.mbReady { primary 0xC04 2 with kept := true, units := if bit (s.arg m 0) 0 then [] else
      [⟨GLOBAL_OPTIONS, 8 + s.cmdIdx m / 8, 8 + s.cmdIdx m / 8⟩] } m (decide (s.cmdIdx m < 96))) :
    (bit (s.arg m 0) 0 = true → s.get (HEALTH_PEER_A_STATE (s.cmdIdx m)) = 1 → execHealthIsolate m s =
      .next (((s.fencePeer (s.cmdIdx m)).bump HEALTH_EXPEL_COUNT).mbComplete m 0 0 [])) ∧
    (bit (s.arg m 0) 0 = true → s.get (HEALTH_PEER_A_STATE (s.cmdIdx m)) ≠ 1 → execHealthIsolate m s =
      .next (s.mbComplete m stSTATE_CONFLICT scPEER_NOT_LIVE [])) ∧
    (bit (s.arg m 0) 0 = false → s.portState (s.cmdIdx m) ≠ 5 → s.portState (s.cmdIdx m) ≠ 0 →
      execHealthIsolate m s = .next ((s.isolate (s.cmdIdx m)).mbComplete m 0 0 [])) :=
  ⟨fun hp hlive => (congrArg (s.healthMb m 0xC04) ((if_pos hp).trans (if_pos hlive))).trans (mb_done h []),
    fun hp hlive => (congrArg (s.healthMb m 0xC04) ((if_pos hp).trans (if_neg hlive))).trans (mb_fail h _ _),
    fun hp h5 h0 => (congrArg (s.healthMb m 0xC04) ((guard_misses hp).trans ((if_neg h5).trans (if_neg h0)))).trans (mb_done h [])⟩

theorem healthReadmit_of_ready (h : s.mbReady { primary 0xC03 2 with kept := true, units := if bit (s.arg m 0) 0 then [] else
      [⟨GLOBAL_OPTIONS, 8 + s.cmdIdx m / 8, 8 + s.cmdIdx m / 8⟩] } m (decide (s.cmdIdx m < 96))) :
    (bit (s.arg m 0) 0 = true → s.get (HEALTH_PEER_A_STATE (s.cmdIdx m)) = 3 → execHealthReadmit m s = .next (
      if bits (s.arg m 0) 63 32 = s.get (HEALTH_PEER_C_EPOCH (s.cmdIdx m)) then (s.readmit (s.cmdIdx m)).mbComplete m 0 0 []
      else s.mbComplete m stSTATE_CONFLICT scFENCE_EPOCH_STALE [])) ∧
    (bit (s.arg m 0) 0 = false → s.portState (s.cmdIdx m) = 5 → execHealthReadmit m s =
      .next (((s.put (PORT_STATUS_STATE (s.cmdIdx m)) 1).clearGravity false (s.cmdIdx m)).mbComplete m 0 0 [])) := by
  refine ⟨fun hp hfenced => ?_, fun hp h5 =>
    (congrArg (s.healthMb m 0xC03) ((guard_misses hp).trans (if_pos h5))).trans (mb_done h [])⟩
  have hbody : execHealthReadmit m s = s.healthMb m 0xC03 (if bits (s.arg m 0) 63 32 = s.get (HEALTH_PEER_C_EPOCH (s.cmdIdx m))
      then .done [] (s.readmit (s.cmdIdx m)) else conflict scFENCE_EPOCH_STALE) := by
    refine congrArg (s.healthMb m 0xC03) ((if_pos hp).trans ?_)
    rw [hfenced]
    rfl
  rw [hbody]
  by_cases he : bits (s.arg m 0) 63 32 = s.get (HEALTH_PEER_C_EPOCH (s.cmdIdx m))
  · rw [if_pos he, if_pos he]
    exact mb_done h []
  · rw [if_neg he, if_neg he]
    exact mb_fail h _ _

/-- Settles O38: the score of a port is the sum over the events that are left, and each command acts by the state of its
port or its peer. -/
theorem health : Obligations.Health := by
  unfold Obligations.Health
  refine ⟨fun i s b hdown hlive hhold hports => peerDead_of_silent hdown hlive hhold hports, fun s => ?_,
    fun m s h => ⟨_, pgovSet_of_ready h, ?_⟩, fun m s h => ⟨fun ha => ?_, fun ha => ?_⟩, fun m s h => healthBudgetSet_facts h,
    fun m s => ⟨fun h => healthIsolate_of_live h, fun h => healthReadmit_of_ready h⟩⟩
  · obtain ⟨t, ht, hhe, hmem, hports⟩ := gravityBucketExpire_facts s
    refine ⟨t, ht, by rw [hhe]; rfl, by rw [hhe]; rfl, hmem, fun p hp => ?_⟩
    rw [hports p hp, hhe]
    rfl
  · obtain ⟨h1, h2, h3, h4, h5, h6, h7, hc⟩ := govSet_reg s (s.arg m)
    exact ⟨h1, h2, h3, h4, h5, h6, h7, hc, govSet_onlyRegs s _⟩
  · exact (pgovCapSet_eq h).trans (by rw [setCap_of_alert ha])
  · exact (pgovCapSet_eq h).trans (by rw [setCap_of_no_alert _ ha])

end Sys2Proof.Machine
end

section
/-! Control messages of the ramp arbiter and of expulsion (R455 to R466). -/

namespace Sys2Proof.Machine

variable {s v : State} {m : List Word}

/-- A message of the type that a command takes is given to it. -/
theorem takeCtl_of_takes {n : Nat} (h : s.takesCtl n m v) (f : List Word → State → State) : s.takeCtl n f = .next (f m v) := by
  obtain ⟨hhead, htype, rfl⟩ := h
  unfold State.takeCtl
  cases hctl : s.xb.ctlIn with
  | nil =>
    rw [hctl] at hhead
    exact absurd hhead nofun
  | cons a rest =>
    rw [hctl] at hhead
    obtain rfl : a.2 = m := Option.some.inj hhead
    exact if_pos htype

theorem arbiterTakeover_of_waited {b : Nat} (hb : s.pg.firstSince = some b) (hlen : b + s.rd PGOV_GRANT_MAX_LEN ≤ s.edge)
    (hacting : s.on PGOV_STATUS_ARB_ACTING = false) : execArbiterTakeover s =
      .next (({ s with pg := { s.pg with actingAt := some s.tm.clock } } : State).put PGOV_STATUS_ARB_ACTING 1) := by
  rw [execArbiterTakeover, hb]
  exact if_pos ⟨hlen, by rw [hacting]; rfl⟩

/-- The least of a list whose head is below all that follows, where the head is kept. -/
theorem min?_filter_head {a : Nat} {l : List Nat} {p : Nat → Bool} (hp : p a = true) (hl : ∀ b ∈ l, a ≤ b) :
    ((a :: l).filter p).min? = some a := by
  rw [List.filter_cons_of_pos hp, List.min?_eq_some_iff]
  refine ⟨.head _, fun b hb => ?_⟩
  rcases List.mem_cons.mp hb with rfl | hb
  · exact le_rfl
  · exact hl b (List.mem_filter.mp hb).1

section
variable (h : s.takesCtl 1 m v)
include h

theorem rampReq_of_busy (hbusy : v.arbAge.on PGOV_STATUS_ARB_ACTING = false ∨ 64 ≤ v.arbAge.pg.ledger.length) :
    execRampReq s = .next (v.arbAge.sendCtl (ctSender m) { type := 3, req := ctReq m }) :=
  (takeCtl_of_takes h _).trans (congrArg Host.Outcome.next (if_pos (hbusy.imp_left (Bool.not_eq_true' _).mpr)))

theorem rampReq_of_fits :
    let u := v.arbAge
    let rack := u.rd PGOV_RACK_SLOPE_UP
    let slope := min (wb m 1 63 32) rack
    let len := u.rampBeats (wb m 1 31 0) slope
    let t0 := u.beat + u.get PGOV_CONFIG_ARB_LEAD
    u.on PGOV_STATUS_ARB_ACTING = true → u.pg.ledger.length < 64 → slopeFits u.pg.ledger rack slope t0 len = true →
    execRampReq s = .next ((({ u with pg := { u.pg with ledger := u.pg.ledger ++
        [⟨ctSender m, ctReq m, t0, t0 + len, slope⟩] } } : State).bump PGOV_ARB_GRANTS_OUT).sendCtl (ctSender m)
      { type := 2, req := ctReq m, slope := slope, start := t0, length := len }) := by
  intro u rack slope len t0 hacting hlen hfits
  have hgo : ¬ ((!u.on PGOV_STATUS_ARB_ACTING) = true ∨ 64 ≤ u.pg.ledger.length) :=
    not_or.mpr ⟨by rw [hacting]; decide, Nat.not_le.mpr hlen⟩
  have hstart : (((t0 :: (u.pg.ledger.map (·.stop)).filter (fun b => decide (t0 < b))).filter
      (fun t => slopeFits u.pg.ledger rack slope t len)).min?).getD t0 = t0 := by
    rw [min?_filter_head (p := fun t => slopeFits u.pg.ledger rack slope t len) hfits fun b hb =>
      Nat.le_of_lt (of_decide_eq_true (List.mem_filter.mp hb).2)]
    rfl
  refine (takeCtl_of_takes h _).trans (congrArg Host.Outcome.next ((if_neg hgo).trans ?_))
  exact congrArg (fun start => (({ u with pg := { u.pg with ledger := u.pg.ledger ++
      [⟨ctSender m, ctReq m, start, start + len, slope⟩] } } : State).bump PGOV_ARB_GRANTS_OUT).sendCtl (ctSender m)
    { type := 2, req := ctReq m, slope := slope, start := start, length := len }) hstart

end

theorem rampGrant_of_asked {q e b : Nat} (hasked : v.pg.asked = some (q, e, b)) (hq : q = ctReq m) (h : s.takesCtl 2 m v) :
    let g : Ramp := ⟨e, q, (wd m 2).toNat, (wd m 2).toNat + wb m 3 31 0, wb m 1 63 32⟩
    execRampGrant s = .next ((({ v with pg := { v.pg with asked := none, solo := false, grant := some g } } : State).bump
        PGOV_GRANT_COUNT).showRamp) := by
  refine (takeCtl_of_takes h _).trans (congrArg Host.Outcome.next ?_)
  split
  next q' e' b' heq =>
    obtain ⟨rfl, rfl, rfl⟩ : q = q' ∧ e = e' ∧ b = b' := by simpa using hasked.symm.trans heq
    exact if_pos hq
  next heq => exact absurd (hasked.symm.trans heq) nofun

theorem rampBusy_of_arbiter {q e b : Nat} (hasked : v.pg.asked = some (q, e, b)) (hq : q = ctReq m) (h : s.takesCtl 3 m v)
    (harb : v.arbiter = some e) : execRampBusy s = .next { v with
      pg := { v.pg with asked := none, solo := false, askAt := v.edge + v.get PGOV_CONFIG_ARB_WAIT, skip := 0 } } := by
  refine (takeCtl_of_takes h _).trans (congrArg Host.Outcome.next ?_)
  split
  next q' e' b' heq =>
    obtain ⟨rfl, rfl, rfl⟩ : q = q' ∧ e = e' ∧ b = b' := by simpa using hasked.symm.trans heq
    rw [if_pos hq, if_pos harb]
  next heq => exact absurd (hasked.symm.trans heq) nofun

theorem rampDone_of_takes (h : s.takesCtl 4 m v) : execRampDone s = .next { v with
    pg := { v.pg with ledger := v.pg.ledger.filter (fun r => !(r.ep == ctSender m && r.req == ctReq m)) } } :=
  takeCtl_of_takes h _

section
variable (h : s.takesCtl 5 m v)
include h

theorem expelReq_of_budget {t : Nat} (hacting : v.arbAge.on PGOV_STATUS_ARB_ACTING = true) (hat : v.arbAge.pg.actingAt = some t)
    (hsettled : t + span600 ≤ v.arbAge.tm.clock) (hbudget : v.arbAge.pg.expels.length < v.arbAge.get HEALTH_CONFIG_EXPEL_BUDGET) :
    execExpelReq s = .next (({ v.arbAge with pg := { v.arbAge.pg with expels := v.arbAge.pg.expels ++
      [v.arbAge.tm.clock] } } : State).arbAge.sendCtl (ctSender m) { type := 6, req := ctReq m }) := by
  refine (takeCtl_of_takes h _).trans (congrArg Host.Outcome.next (if_pos ?_))
  rw [hacting, hat, decide_eq_true hbudget]
  exact Bool.and_eq_true_iff.mpr ⟨Bool.and_eq_true_iff.mpr ⟨rfl, decide_eq_true hsettled⟩, rfl⟩

theorem expelReq_of_denied (hdeny : v.arbAge.on PGOV_STATUS_ARB_ACTING = false ∨
      v.arbAge.get HEALTH_CONFIG_EXPEL_BUDGET ≤ v.arbAge.pg.expels.length) :
    execExpelReq s = .next (v.arbAge.sendCtl (ctSender m) { type := 7, req := ctReq m }) := by
  refine (takeCtl_of_takes h _).trans (congrArg Host.Outcome.next (if_neg fun hall => ?_))
  obtain ⟨hboth, hroom⟩ := Bool.and_eq_true_iff.mp hall
  exact hdeny.elim (fun hno => Bool.false_ne_true (hno.symm.trans (Bool.and_eq_true_iff.mp hboth).1))
    (Nat.not_le.mpr (of_decide_eq_true hroom))

end

section
variable {a : Expel} {rest : List Expel} (ha : takeFirst (fun (a : Expel) => a.req == ctReq m) v.he.asks = some (a, rest))
include ha

theorem expelGrant_of_asked (h : s.takesCtl 6 m v) :
    let u : State := { v with he := { v.he with asks := rest } }
    execExpelGrant s = .next (if u.canExpel a.peer a.idx = false then u
      else if a.peer = true then (u.fencePeer a.idx).bump HEALTH_EXPEL_COUNT else u.isolate a.idx) := by
  intro u
  refine (takeCtl_of_takes h _).trans (congrArg Host.Outcome.next ?_)
  dsimp only
  rw [ha]
  simp only [Bool.not_eq_true']
  rfl

theorem expelDeny_of_asked (h : s.takesCtl 7 m v) :
    execExpelDeny s = .next (({ v with he := { v.he with asks := rest } } : State).suspect a.peer a.idx) := by
  refine (takeCtl_of_takes h _).trans (congrArg Host.Outcome.next ?_)
  dsimp only
  rw [ha]

end

theorem noticeLost_of_takes (h : s.takesCtl 8 m v) : execNoticeLost s = .next ((ctAll m).foldl (fun t e => t.markLost e) v) :=
  takeCtl_of_takes h _

theorem noticeFenced_of_takes (h : s.takesCtl 9 m v) :
    execNoticeFenced s = .next ((ctAll m).foldl (fun t e => t.markFenced e) v) :=
  takeCtl_of_takes h _

theorem noticeReadmit_of_no_own (h : s.takesCtl 10 m v)
    (hown : ∀ i < 96, v.get (HEALTH_PEER_A_STATE i) ≠ 2 ∧ v.get (HEALTH_PEER_A_STATE i) ≠ 3) : execNoticeReadmit s =
      .next (((ctSubject m :: ctList m).filter (fun e => e != 0 && e != 0xFFFF)).foldl (fun (t : State) e => t.unmark e) v) := by
  have hnone : (List.range 96).filter (fun i => v.get (HEALTH_PEER_A_STATE i) == 2 || v.get (HEALTH_PEER_A_STATE i) == 3) = [] := by
    refine List.filter_eq_nil_iff.mpr fun i hi hboth => ?_
    obtain ⟨h2, h3⟩ := hown i (List.mem_range.mp hi)
    exact (Bool.or_eq_true_iff.mp hboth).elim (h2 <| beq_iff_eq.mp ·) (h3 <| beq_iff_eq.mp ·)
  refine (takeCtl_of_takes h _).trans (congrArg Host.Outcome.next ?_)
  dsimp only
  rw [hnone]
  simp only [List.flatMap_nil, List.contains_nil, Bool.not_false, Bool.and_true, ctAll]

theorem owned_of_peer {i : Nat} (h : s.takesCtl 11 m v) (hi : (List.range 96).find? (fun i =>
      v.get (HEALTH_PEER_A_STATE i) != 0 && v.get (HEALTH_PEER_A_PEER_EP i) == ctSender m) = some i) :
    let ep := fun i => (ctList m).getD i 0xFFFF
    execOwned s = .next ((v.setReg (HEALTH_PEER_B i)
      (mkWord [(15, 0, ep 1), (31, 16, ep 2), (47, 32, ep 3), (63, 48, ep 4)])).put (HEALTH_PEER_C_OWNED_HOST i) (ep 5)) := by
  intro ep
  refine (takeCtl_of_takes h _).trans (congrArg Host.Outcome.next ?_)
  dsimp only
  rw [hi]

/-- Settles O37: each command takes the message of its type, and what it then does is the branch that the premises name. -/
theorem controlMessages : Obligations.ControlMessages := by
  unfold Obligations.ControlMessages
  exact ⟨fun s b hb hlen hacting => arbiterTakeover_of_waited hb hlen hacting,
    fun s v m h => ⟨rampReq_of_busy h, rampReq_of_fits h⟩,
    fun s v m q e b hasked hq => ⟨rampGrant_of_asked hasked hq, rampBusy_of_arbiter hasked hq⟩,
    fun s v m h => ⟨_, rampDone_of_takes h, rfl, rfl, rfl, rfl, rfl, rfl⟩,
    fun s v m h => ⟨fun t hacting hat hsettled hbudget => expelReq_of_budget h hacting hat hsettled hbudget, expelReq_of_denied h⟩,
    fun s v m a rest ha => ⟨expelGrant_of_asked ha, expelDeny_of_asked ha⟩, fun s => rfl,
    fun s v m => ⟨noticeLost_of_takes, noticeFenced_of_takes, noticeReadmit_of_no_own⟩,
    fun s v m i h hi => owned_of_peer h hi⟩

end Sys2Proof.Machine
end

section
/-! # The CXL link and host-managed memory (R381 to R385, R539) -/
namespace Sys2Proof.Machine

section
variable (s : State)

/-! ## The link -/

/-- The status of a link that is down (R381). -/
def State.linkDown (s : State) : State :=
  ((s.put GLOBAL_CXL_STATUS_LINK_UP 0).put GLOBAL_CXL_STATUS_LANES 0).put GLOBAL_CXL_STATUS_RATE 0

theorem cxlDown_of_up (h : s.cxlUp = true) :
    s.cxlDown = (s.linkDown.bump GLOBAL_CXL_DOWN_COUNT).hostWaitsLost.t3Lost.ringsFull := if_pos h

theorem cxlDown_of_down (h : s.cxlUp = false) : s.cxlDown = s := if_neg (Bool.not_eq_true _ ▸ h)

theorem linkDown_onlyRegs : OnlyRegs s s.linkDown [GLOBAL_CXL_STATUS] :=
  (((OnlyRegs.refl (s := s) [GLOBAL_CXL_STATUS]).put 0 List.mem_cons_self).put 0 List.mem_cons_self).put 0 List.mem_cons_self

theorem linkDown_cxlUp : s.linkDown.cxlUp = false := by
  rw [State.cxlUp, on_eq_get, State.linkDown, get_put_apart 0 rfl, get_put_apart 0 rfl, get_put_zero (by decide) (by decide)]
  rfl

theorem linkDown_lanes : s.linkDown.get GLOBAL_CXL_STATUS_LANES = 0 := by
  rw [State.linkDown, get_put_apart 0 rfl, get_put_zero (by decide) (by decide)]

theorem linkDown_rate : s.linkDown.get GLOBAL_CXL_STATUS_RATE = 0 := get_put_zero (by decide) (by decide)

/-- Only the status words of the rings show whether their completion queues are full. -/
theorem ringsFull_regsBut : RegsBut [(RING_STATUS 0 0).id] s s.ringsFull :=
  RegsBut.foldl (fun t i => by
    split
    · exact .put (.refl _ t) _ rfl
    · exact .refl _ t) _ s

theorem foldl_sameMem {α : Type} {f : State → α → State} (hf : ∀ t x, SameMem t (f t x)) (l : List α) :
    SameMem s (l.foldl f s) :=
  List.foldlRecOn l f ⟨rfl, rfl, rfl, rfl⟩ fun t ht x _ => ht.trans (hf t x)

theorem ringsFull_sameMem : SameMem s s.ringsFull := by
  unfold State.ringsFull
  refine foldl_sameMem s (fun t i => ?_) _
  split
  · exact put_sameMem t _ _
  · exact ⟨rfl, rfl, rfl, rfl⟩

section
variable (x16 gt64 : Bool)

/-- The status of a link that has trained (R382). -/
def State.linkTrained (s : State) (lanes rate : Nat) : State :=
  ((s.put GLOBAL_CXL_STATUS_LINK_UP 1).put GLOBAL_CXL_STATUS_LANES lanes).put GLOBAL_CXL_STATUS_RATE rate

theorem cxlTrained_eq : s.cxlTrained x16 gt64 = (s.linkTrained (if x16 then 16 else 8) (if gt64 then 2 else 1)).ringsFull := rfl

theorem cxlTrained_get {f : Fld} (h : [(RING_STATUS 0 0).id].any (Nat.beq f.key.id) = false) :
    (s.cxlTrained x16 gt64).get f = (s.linkTrained (if x16 then 16 else 8) (if gt64 then 2 else 1)).get f := by
  rw [cxlTrained_eq, (ringsFull_regsBut _).get_eq h]

theorem cxlTrained_cxlUp : (s.cxlTrained x16 gt64).cxlUp = true := by
  rw [State.cxlUp, on_eq_get, cxlTrained_get _ _ _ rfl, State.linkTrained, get_put_apart _ rfl, get_put_apart _ rfl,
    get_put_field (by decide) (by decide) (by decide)]
  rfl

theorem cxlTrained_lanes : (s.cxlTrained x16 gt64).get GLOBAL_CXL_STATUS_LANES = if x16 = true then 16 else 8 := by
  rw [cxlTrained_get _ _ _ rfl, State.linkTrained, get_put_apart _ rfl,
    get_put_field (by decide) (by decide) (by cases x16 <;> decide)]

theorem cxlTrained_rate : (s.cxlTrained x16 gt64).get GLOBAL_CXL_STATUS_RATE = if gt64 = true then 2 else 1 := by
  rw [cxlTrained_get _ _ _ rfl, State.linkTrained, get_put_field (by decide) (by decide) (by cases gt64 <;> decide)]

theorem linkTrained_sameMem (lanes rate : Nat) : SameMem s (s.linkTrained lanes rate) :=
  (put_sameMem s GLOBAL_CXL_STATUS_LINK_UP 1).trans ((put_sameMem _ GLOBAL_CXL_STATUS_LANES lanes).trans
    (put_sameMem _ GLOBAL_CXL_STATUS_RATE rate))

theorem cxlTrained_sameMem : SameMem s (s.cxlTrained x16 gt64) := by
  rw [cxlTrained_eq]
  exact (linkTrained_sameMem s _ _).trans (ringsFull_sameMem _)

end

/-! ## The decoder's registers (log 94) -/

theorem hdmWord_decoder {i : Nat} (hi : i < 3) : hdmWord (8 * (0xE0202 + Config.hdmDecoder % 0x1F0 + i)) = some i := by
  unfold hdmWord
  extract_lets o
  have ho : o = i := by omega
  rw [if_pos (by omega), ho]

/-- A write of the host driver at a word of the decoder reaches that word. -/
theorem registerWrite_hdm {i : Nat} (hi : i < 3) (v : Word) (hopen : s.hostOpen = true)
    (hrun : s.on GLOBAL_BOOT_STATUS_HALTED = false) :
    exec (.registerWrite (8 * (0xE0202 + Config.hdmDecoder % 0x1F0 + i)) v) s = .next (s.hdmWrite i v) := by
  have hd := Nat.mod_lt Config.hdmDecoder (show 0 < 0x1F0 by decide)
  have hw := hdmWord_decoder hi
  generalize hoff : 8 * (0xE0202 + Config.hdmDecoder % 0x1F0 + i) = off at hw ⊢
  have hlow : off < barSize := by rw [barSize]; omega
  have hgood : goodAccess off 8 = true := by
    simp only [goodAccess, beq_self_eq_true, Bool.true_and, Bool.and_eq_true, beq_iff_eq, decide_eq_true_eq]
    omega
  have hcomp : cxlComponent off = true := by
    simp only [cxlComponent, Bool.and_eq_true, decide_eq_true_eq]
    omega
  refine congrArg Host.Outcome.next ((if_pos ⟨hopen, hgood, hrun⟩).trans ?_)
  rw [State.writeOff, if_neg (Nat.not_le.mpr hlow), if_pos hcomp, hw]

section
variable (i : Nat) (v : Word)

/-- The decoder with word `i` written. -/
def State.withHdm (s : State) (i : Nat) (v : Word) : State := { s with hm := { s.hm with hdmRegs := mset 0 s.hm.hdmRegs i v } }

/-- The decoder with its base as words 0 and 1 give it. -/
def State.withHdmBase (s : State) (base : Nat) : State := { s with hm := { s.hm with hdmBase := base } }

variable {s i v} (hfree : s.on GLOBAL_CXL_STATUS_HDM_COMMITTED = false)
include hfree

theorem hdmWrite_of_low (hi : i < 2) : s.hdmWrite i v = s.withHdm i v := by
  rw [State.hdmWrite, if_neg (by simp [hfree]), if_pos hi, State.withHdm]

theorem hdmWrite_commit (hbit : bit v 9 = true) (hsize : (mget 0 s.hm.hdmRegs 1).toNat = 2 ^ 38) :
    s.hdmWrite 2 v = ((s.withHdm 2 v).withHdmBase (bits (mget 0 s.hm.hdmRegs 0) 63 28 * 2 ^ 28)).put
      GLOBAL_CXL_STATUS_HDM_COMMITTED 1 := by
  rw [State.hdmWrite, if_neg (by simp [hfree]), if_neg (by decide), if_pos (by rw [hbit, hsize]; rfl), hfree]
  rfl

theorem hdmWrite_uncommit (hbit : bit v 9 = false) :
    s.hdmWrite 2 v = (s.withHdm 2 v).put GLOBAL_CXL_STATUS_HDM_COMMITTED 0 := by
  rw [State.hdmWrite, if_neg (by simp [hfree]), if_neg (by decide), if_neg (by simp [hbit]), State.withHdm]

end
end

/-- Settles O33: the loss and the training of the link through their puts of the status word, which the rings' full flags
leave as it is; the accesses by the branches of `execHdmAccess`; the decoder's words by their offsets. -/
theorem cxlAndHostMemory : Obligations.CxlAndHostMemory := by
  unfold Obligations.CxlAndHostMemory
  refine ⟨fun s h => ⟨s.linkDown, congrArg Host.Outcome.next (cxlDown_of_up s h), linkDown_cxlUp s, linkDown_lanes s,
      linkDown_rate s, linkDown_onlyRegs s⟩,
    fun s h => congrArg Host.Outcome.next (cxlDown_of_down s h),
    fun x16 gt64 s hphase hperst hdown => ⟨s.cxlTrained x16 gt64, if_pos ⟨hphase, hperst, hdown⟩, cxlTrained_cxlUp s x16 gt64,
      cxlTrained_lanes s x16 gt64, cxlTrained_rate s x16 gt64, cxlTrained_sameMem s x16 gt64⟩,
    fun low s => rfl, ?_, ?_⟩
  · intro pa len wr ca s hopen hclaims hlen addr hline
    have hok : ¬ (!s.hostOpen || !s.hdmClaims pa || len == 0 || decide (64 < addr % 64 + len)) = true := by
      simp [hopen, hclaims, hlen.ne', hline]
    exact ⟨fun hclosed => (if_neg hok).trans (if_pos hclosed),
      fun hunit => (if_neg hok).trans (if_neg (Bool.not_eq_true _ ▸ hunit))⟩
  · intro i v s hi hopen hrun off t hfree
    have hwrite : exec (.registerWrite off v) s = .next (s.hdmWrite i v) := registerWrite_hdm s hi v hopen hrun
    refine ⟨fun hlow => hwrite.trans (congrArg _ (hdmWrite_of_low hfree hlow)), ?_, ?_⟩
    · rintro rfl hbit hsize
      refine ⟨_, hwrite.trans (congrArg _ (hdmWrite_commit hfree hbit hsize)), rfl, ?_, ?_, ?_⟩
      · exact get_put_field (by decide) (by decide) (by decide)
      · exact fun k hk => reg_put_other _ _ (List.ne_of_not_mem_cons hk)
      · exact put_sameMem _ _ _
    · rintro rfl hbit
      exact hwrite.trans (congrArg _ (hdmWrite_uncommit hfree hbit))

end Sys2Proof.Machine
end

section
/-! # Attach messages (R372 to R377, R155, R157, R546) -/
namespace Sys2Proof.Machine

section
variable {s u : State} {x : AMsg} {p c : Nat} {ans : Option Nat} {f : AMsg → State → State}

/-! ## Requests and responses of an accelerator -/

section
variable (h : s.takeAttach p c = some (x, u))
include h

/-- While the internal ports are closed a request is answered `TARGET_LOST`. -/
theorem onRequest_closed {a : Nat} (hc : u.xb.closed = true) :
    s.onRequest p c (some a) f = .next (u.sendAttach p a stTARGET_LOST x.id false x.part x.addr 0 none) := by
  unfold State.onRequest
  rw [h]
  exact if_pos hc

/-- A port that does not let the partition in answers `ACCESS_DENIED` (R546). -/
theorem onRequest_denied {a : Nat} (hc : u.xb.closed = false) (hp : u.portAdmits p x.part = false) :
    s.onRequest p c (some a) f = .next (u.sendAttach p a stACCESS_DENIED x.id false x.part x.addr 0 none) := by
  unfold State.onRequest
  rw [h]
  exact (if_neg (Bool.not_eq_true _ ▸ hc)).trans (if_pos (by rw [hp]; rfl))

theorem onRequest_admitted (hc : u.xb.closed = false) (hp : u.portAdmits p x.part = true) :
    s.onRequest p c ans f = .next (f x u) := by
  unfold State.onRequest
  rw [h]
  exact (if_neg (Bool.not_eq_true _ ▸ hc)).trans (if_neg (by simp [hp]))

theorem onResponse_open (hc : u.xb.closed = false) : s.onResponse p c f = .next (f x u) := by
  unfold State.onResponse
  rw [h]
  exact congrArg Host.Outcome.next (if_neg (Bool.not_eq_true _ ▸ hc))

theorem onResponse_ignored : s.onResponse p c (fun _ t => t) = .next u := by
  unfold State.onResponse
  rw [h]
  exact congrArg Host.Outcome.next (ite_self u)

end

/-! ## What each message asks for -/

/-- An answer that a recall of its line waits for reaches the directory (R157). -/
theorem recallAnswer_of_named {e : DirEntry} {a : Nat} {o : Option DirEntry} (d : Option (List Byte)) (ho : o = some e)
    (hr : e.recalling.testBit a = true) : u.recallAnswer o a d = (u.dirAnswer e.line a d).dirSettle := by
  rw [ho]
  exact if_pos hr

theorem attachRead_eq (p : Nat) (own : Bool) (x : AMsg) :
    u.attachRead p own x =
      (let a := u.agentAt p
       let addr := BitVec.ofNat 64 (x.addr.toNat / 64 * 64)
       let q := ReqForm.pkt
         { opcode := 1, part := x.part, src := u.slotId (a + 1), dst := faEp addr, addr := addr, tag := x.id, w3 := 64 }
       if ¬ ((u.get MEM_DIR_CONFIG_CACHE_EN).testBit a = true ∧ u.confidential x.part = false ∧ u.owns (faEp addr) = true)
         then u.answer (.attach p a own x.part) q stACCESS_DENIED []
         else u.access (.attach p a own x.part) q (if own then 3 else 1) own) := by
  unfold State.attachRead
  extract_lets a addr form src q
  refine ite_congr (propext ?_) (fun _ => rfl) fun _ => rfl
  simp only [Bool.or_eq_true, Bool.not_eq_true', not_and_or, Bool.not_eq_true, Bool.not_eq_false, or_assoc]

variable (p : Port)

theorem exec_lcWait (hc : u.xb.closed = false) (hp : u.portAdmits p.val x.part = true)
    (h : s.takeAttach p.val 0x10 = some (x, u)) :
    exec (.lcWait p) s = .next (
      if u.lcShare x.part (bits x.addr 16 0) = false then
        u.sendAttach p.val 0x90 stACCESS_DENIED x.id false x.part x.addr 0 none
      else if 256 ≤ (u.link p.val).lcWaits.length then
        u.sendAttach p.val 0x90 stPOOL_EMPTY x.id false x.part x.addr 0 none
      else if (u.counter (bits x.addr 16 0) - x.value).toNat < 2 ^ 63 then
        u.sendAttach p.val 0x90 0 x.id false x.part x.addr (u.counter (bits x.addr 16 0)) none
      else u.setLink p.val { u.link p.val with
        lcWaits := (u.link p.val).lcWaits ++ [⟨x.id, x.part, bits x.addr 16 0, x.value, x.limit, 0⟩] }) := by
  change execLcWait p s = _
  unfold execLcWait
  rw [onRequest_admitted h hc hp]
  refine congrArg Host.Outcome.next ?_
  refine ite_congr (propext (by rw [Bool.not_eq_true'])) (fun _ => rfl) fun _ => ?_
  exact ite_congr rfl (fun _ => rfl) fun _ => ite_congr (propext decide_eq_true_iff) (fun _ => rfl) fun _ => rfl

theorem exec_lcWaitTimeout {id : Nat} {w : LcWait} {rest : List LcWait}
    (h : takeFirst (fun (w : LcWait) => w.id == id && w.limit != 0 && decide (w.limit ≤ w.edges)) (s.link p.val).lcWaits =
      some (w, rest)) :
    exec (.lcWaitTimeout p id) s = .next ((s.setLink p.val { s.link p.val with lcWaits := rest }).sendAttach p.val 0x90 stTIMEOUT
      w.id false w.part (BitVec.ofNat 64 w.idx) (s.counter w.idx) none) := by
  change execLcWaitTimeout p id s = _
  unfold execLcWaitTimeout
  extract_lets l
  rw [h]
  rfl

section
variable (hc : u.xb.closed = false)
include hc

theorem exec_drop {e : DirEntry} (h : s.takeAttach p.val 0x23 = some (x, u)) (hp : u.portAdmits p.val x.part = true)
    (he : u.dirNamed (u.agentAt p.val) x = some e) (hr : e.recalling.testBit (u.agentAt p.val) = false) :
    exec (.drop p) s = .next (u.dirAnswer e.line (u.agentAt p.val) none).dirSettle := by
  change execDrop p s = _
  unfold execDrop
  rw [onRequest_admitted h hc hp]
  dsimp only
  rw [he]
  exact congrArg Host.Outcome.next (if_neg (Bool.not_eq_true _ ▸ hr))

/-- The owner's write-back is written at the home, and the copy ends unless a recall will end it. -/
theorem exec_wb_owned {e : DirEntry} {d : List Byte} (h : s.takeAttach p.val 0x22 = some (x, u))
    (he : u.dirNamed (u.agentAt p.val) x = some e) (ho : e.owned = true) (hd : x.data = some d) :
    exec (.wb p) s = .next
      ((if e.recalling.testBit (u.agentAt p.val) then u.hbmWrite (64 * e.line) (d.take 64)
        else ((u.hbmWrite (64 * e.line) (d.take 64)).dirAnswer e.line (u.agentAt p.val) none).dirSettle).sendAttach
        p.val 0xA2 0 x.id false x.part x.addr 0 none) := by
  change execWb p s = _
  unfold execWb
  rw [onResponse_open h hc]
  dsimp only
  rw [he, hd]
  dsimp only
  rw [if_pos ho]
  split <;> rfl

theorem exec_wb_late (h : s.takeAttach p.val 0x22 = some (x, u))
    (he : u.dirNamed (u.agentAt p.val) x = none ∨ ∃ e, u.dirNamed (u.agentAt p.val) x = some e ∧ e.owned = false) :
    exec (.wb p) s = .next (u.lateWb.sendAttach p.val 0xA2 stACCESS_DENIED x.id false x.part x.addr 0 none) := by
  change execWb p s = _
  unfold execWb
  rw [onResponse_open h hc]
  dsimp only
  rcases he with he | ⟨e, he, ho⟩
  · rw [he]
  · rw [he]
    exact congrArg Host.Outcome.next (if_neg (Bool.not_eq_true _ ▸ ho))

end

theorem exec_attachDiscard {f : Flit} {d : Option Flit} (h : s.takeRx p.val isAttachItem = some (.attach f d, u))
    (hbad : s.isAttach p.val = false ∨ fromAccel (attachMsg f d).msg = false) :
    exec (.attachDiscard p) s =
      .next ((u.bump (PORT_ATTACH_DISCARD_COUNT p)).returnAttach p.val (attachClass (attachMsg f d).msg) d) := by
  change execAttachDiscard p s = _
  unfold execAttachDiscard
  extract_lets q
  rw [h]
  exact if_neg (by rw [Bool.and_eq_true, not_and_or, Bool.not_eq_true, Bool.not_eq_true]; exact hbad)

end

/-- Settles O32: each message through what `onRequest` or `onResponse` makes of the one that its port takes. -/
theorem attachMessages : Obligations.AttachMessages := by
  unfold Obligations.AttachMessages
  refine ⟨fun p s u x h => ⟨onRequest_closed h, onRequest_denied h, fun hc hp => exec_lcWait p hc hp h⟩,
    fun p id s w rest h => exec_lcWaitTimeout p h,
    fun p s u x h hc hp => onRequest_admitted (f := _) (ans := some 0x91) h hc hp, ?_,
    fun p s u x e h hc hp he hr => exec_drop p hc h hp he hr, ?_, ?_,
    fun p s u x h => onResponse_ignored h, fun p s u f d h hbad => exec_attachDiscard p h hbad⟩
  · intro p own s u x h hc hp a addr q open_
    refine Eq.trans ?_ (congrArg Host.Outcome.next (attachRead_eq p.val own x))
    cases own with
    | false => exact onRequest_admitted (c := 0x20) (ans := some 0xA0) (f := fun x s => s.attachRead p.val false x) h hc hp
    | true => exact onRequest_admitted (c := 0x21) (ans := some 0xA1) (f := fun x s => s.attachRead p.val true x) h hc hp
  · intro p s u x h hc a ack
    refine ⟨fun e d he ho hd => (exec_wb_owned p hc h he ho hd), fun he => exec_wb_late p hc h he⟩
  · intro p s u x e hc he hr
    exact ⟨fun h => (onResponse_open (f := fun x s => s.recallAnswer (s.dirNamed (s.agentAt p.val) x) (s.agentAt p.val) x.data)
        h hc).trans (congrArg Host.Outcome.next (recallAnswer_of_named _ he hr)),
      fun h => (onResponse_open (f := fun x s => s.recallAnswer (s.dirNamed (s.agentAt p.val) x) (s.agentAt p.val) none)
        h hc).trans (congrArg Host.Outcome.next (recallAnswer_of_named _ he hr))⟩

end Sys2Proof.Machine
end

section
/-! # Training of a link (R360, R362 to R366) -/
namespace Sys2Proof.Machine

section
variable {s u : State} {p : Port} {f : Flit} {c : Nat}

/-! ## Training flits -/

theorem onTrain_training {g : Flit → Link → State → State} (h : s.takeTrain p.val c = some (f, u)) (hp : u.portState p.val = 2) :
    s.onTrain p c g = .next (g f (u.link p.val) u) := by
  unfold State.onTrain
  rw [h]
  exact congrArg Host.Outcome.next (if_pos hp)

/-- A peer that leaves drops a link in training or `ACTIVE`, with cause 5. -/
theorem peerDown_drops (h : s.takeTrain p.val c = some (f, u)) (hp : u.portState p.val = 2 ∨ u.portState p.val = 3) :
    s.peerDown p.val c = .next (u.dropLink p.val 5) := by
  unfold State.peerDown
  rw [h]
  refine congrArg Host.Outcome.next ?_
  rcases hp with hp | hp
  · exact if_pos hp
  · exact (if_neg (by rw [hp]; decide)).trans (linkEvent_active (by rw [State.active, hp]; rfl) 5 rfl)

/-! ## Taps -/

section
variable (s) (q lanes : Nat)

/-- One lane's taps preset from a free value. -/
def State.presetTap (s : State) (q i : Nat) : State := s.take.2.wr (PORT_TAPS q i) (s.take.1.toNat % 2 ^ 32)

theorem presetTaps_eq : s.presetTaps q lanes = (setBitsOf 8 lanes).foldl (fun s i => s.presetTap q i) s := rfl

theorem presetTaps_link : (s.presetTaps q lanes).link = s.link := by
  rw [presetTaps_eq]
  exact foldl_same State.link _ _ fun t i _ => rfl

theorem presetTaps_sameMem : SameMem s (s.presetTaps q lanes) := by
  rw [presetTaps_eq]
  exact foldl_sameMem s (fun t i => wr_sameMem (s := t.take.2) _ _) _

theorem presetTaps_reg {k : Key} (hk : ∀ i, lanes.testBit i = true → i < 8 → k ≠ PORT_TAPS q i) :
    (s.presetTaps q lanes).reg k = s.reg k := by
  rw [presetTaps_eq]
  refine foldl_same (State.reg · k) _ _ fun t i hi => ?_
  obtain ⟨hi8, hbit⟩ := List.mem_filter.mp hi
  exact reg_setReg_other t.take.2 _ (hk i hbit (List.mem_range.mp hi8))

theorem presetTaps_sameRegs : SameRegs s (s.presetTaps q lanes) ((List.range 8).map (PORT_TAPS q)) := fun _ hk =>
  presetTaps_reg s q lanes fun _ _ hi e => hk (e ▸ List.mem_map_of_mem (List.mem_range.mpr hi))

theorem presetTaps_lane (i : Nat) : SameRegs s (s.presetTaps q (2 ^ i)) [PORT_TAPS q i] := fun _ hk =>
  presetTaps_reg s q _ fun j hj _ e => hk (List.mem_singleton.mpr (by
    rw [e, of_decide_eq_true (Nat.testBit_two_pow.symm.trans hj)]))

end

/-! ## A tap request -/

/-- An answer to a tap request: 0 with its lane's taps set anew, or 1, at the end of their range, with no register changed. -/
def TapSet (s t : State) (q i a : Nat) : Prop :=
  a ≤ 1 ∧ (a = 1 → t.regs = s.regs) ∧ SameRegs s t [PORT_TAPS q i] ∧ SameMem s t

theorem tapSet_preset (s : State) (q i : Nat) : TapSet s (s.take.2.presetTaps q (2 ^ i)) q i 0 :=
  ⟨Nat.zero_le 1, fun h => absurd h Nat.zero_ne_one, fun k hk => presetTaps_lane s.take.2 q i k hk,
    presetTaps_sameMem s.take.2 q _⟩

theorem tapSet_moved (s : State) (q i : Nat) (v : Word) : TapSet s (s.take.2.setReg (PORT_TAPS q i) v) q i 0 :=
  ⟨Nat.zero_le 1, fun h => absurd h Nat.zero_ne_one, fun _ hk => reg_setReg_other s.take.2 v (List.ne_of_not_mem_cons hk),
    ⟨rfl, rfl, rfl, rfl⟩⟩

theorem tapSet_limit (s : State) (q i : Nat) : TapSet s s.take.2 q i 1 :=
  ⟨Nat.le_refl 1, fun _ => rfl, fun _ _ => rfl, ⟨rfl, rfl, rfl, rfl⟩⟩

theorem bits_action (w : Word) : nbits (bits w 31 24) 3 2 = bits w 27 26 := by
  simp only [nbits, bits]
  omega

theorem exec_tapReq_bad (h : s.takeTrain p.val 4 = some (f, u)) (hp : u.portState p.val = 2)
    (hbad : 8 ≤ bits (fw f 0) 15 8 ∨ bits (fw f 0) 27 26 = 3) :
    exec (.tapReq p) s = .next (u.sendTrain p.val 5 (bits (fw f 0) 15 8) (bits (fw f 0) 17 16) 2 0 0) := by
  change execTapReq p s = _
  unfold execTapReq
  rw [onTrain_training h hp]
  refine congrArg Host.Outcome.next ?_
  extract_lets q lane step arg answer
  exact if_pos (hbad.imp_right (bits_action _).trans)

theorem exec_tapReq_good (h : s.takeTrain p.val 4 = some (f, u)) (hp : u.portState p.val = 2)
    (hlane : bits (fw f 0) 15 8 < 8) (hact : bits (fw f 0) 27 26 ≠ 3) :
    ∃ (t : State) (a : Nat), TapSet u t p.val (bits (fw f 0) 15 8) a ∧
      exec (.tapReq p) s = .next (t.sendTrain p.val 5 (bits (fw f 0) 15 8) (bits (fw f 0) 17 16) a 0 0) := by
  change ∃ t a, _ ∧ execTapReq p s = _
  unfold execTapReq
  rw [onTrain_training h hp]
  extract_lets q lane step arg answer tap r v
  have hgo : ¬ (8 ≤ lane ∨ nbits arg 3 2 = 3) := not_or.mpr ⟨Nat.not_le.mpr hlane, fun e => hact ((bits_action _).symm.trans e)⟩
  rw [if_neg hgo]
  split
  rename_i w hw
  obtain rfl : u.take.2 = w := congrArg Prod.snd hw
  extract_lets set
  split
  · exact ⟨_, 0, tapSet_preset u p.val lane, rfl⟩
  · split
    · exact ⟨_, 1, tapSet_limit u p.val lane, rfl⟩
    · exact ⟨_, 0, tapSet_moved u p.val lane _, rfl⟩
  · split
    · exact ⟨_, 1, tapSet_limit u p.val lane, rfl⟩
    · exact ⟨_, 0, tapSet_moved u p.val lane _, rfl⟩

/-! ## Light, speed and lanes -/

theorem setReg_sameMem (s : State) (k : Key) (v : Word) : SameMem s (s.setReg k v) := ⟨rfl, rfl, rfl, rfl⟩

/-- The calibration of a port's taps as it comes into force when light starts its training. -/
def State.tapsCalibrated (s : State) (q : Nat) : State := if s.rs.calNew.contains 0 then s.calApply (0x40 + 64 * q) 64 else s

theorem tapsCalibrated_eq (s : State) (q : Nat) : ∃ rs, s.tapsCalibrated q = { s with rs := rs } := by
  unfold State.tapsCalibrated State.calApply
  split
  · exact ⟨_, rfl⟩
  · exact ⟨_, rfl⟩

theorem tapsCalibrated_get (s : State) (q : Nat) (fl : Fld) : (s.tapsCalibrated q).get fl = s.get fl := by
  obtain ⟨rs, h⟩ := tapsCalibrated_eq s q
  rw [h, get_withRs]

theorem tapsCalibrated_sameMem (s : State) (q : Nat) : SameMem s (s.tapsCalibrated q) := by
  obtain ⟨rs, h⟩ := tapsCalibrated_eq s q
  rw [h]
  exact withRs_sameMem rs

/-- A link with no training flit kept and its state that of light alone. -/
def State.freshLink (s : State) (q m : Nat) : State :=
  let keep := fun (i : RxItem) => match i with | .train _ => false | _ => true
  let s := { s with xb := { s.xb with rx := mset [] s.xb.rx q ((mget [] s.xb.rx q).filter keep) } }
  s.setLink q { link0 with lit := m }

theorem freshLink_get (s : State) (q m : Nat) (fl : Fld) : (s.freshLink q m).get fl = s.get fl := rfl

theorem freshLink_link (s : State) (q m : Nat) : (s.freshLink q m).link q = { link0 with lit := m } := mget_mset_same ..

theorem freshLink_sameMem (s : State) (q m : Nat) : SameMem s (s.freshLink q m) := ⟨rfl, rfl, rfl, rfl⟩

/-- A port as light starts its training (R360), before its taps are preset. -/
def State.lit (s : State) (q m : Nat) : State :=
  ((((s.put (PORT_STATUS_STATE q) 2).bump (PORT_TRAIN_COUNT q)).tapsCalibrated q).freshLink q m)

theorem lit_portState (s : State) (q m : Nat) : (s.lit q m).portState q = 2 := by
  rw [State.portState, State.lit, freshLink_get, tapsCalibrated_get, get_bump_of_id rfl, PORT_STATUS_STATE,
    get_put_fits _ _ (by decide) (by decide) (by decide)]

theorem lit_link (s : State) (q m : Nat) : (s.lit q m).link q = { link0 with lit := m } := freshLink_link _ q m

theorem lit_sameMem (s : State) (q m : Nat) : SameMem s (s.lit q m) :=
  (put_sameMem s _ _).trans ((setReg_sameMem _ (PORT_TRAIN_COUNT q) _).trans
    ((tapsCalibrated_sameMem _ q).trans (freshLink_sameMem _ q m)))

theorem exec_lightDetect {lanes : BitVec 8} (hport : s.portState p.val = 1) (hphase : 7 ≤ s.phase)
    (hlanes : lanesOf lanes.toNat ≠ 0) (hlsu : (s.get PORT_LSU_READY).testBit (lsuOf p.val) = true) :
    exec (.lightDetect p lanes) s = .next ((s.lit p.val lanes.toNat).presetTaps p.val lanes.toNat) :=
  if_pos ⟨hport, hphase, hlanes, hlsu⟩

theorem lightDetect_portState (s : State) (q m : Nat) : ((s.lit q m).presetTaps q m).portState q = 2 := by
  rw [← lit_portState s q m, State.portState, State.get, presetTaps_reg _ q m fun i _ _ => Key.ne_of_id rfl]
  rfl

theorem lightDetect_link (s : State) (q m : Nat) : ((s.lit q m).presetTaps q m).link q = { link0 with lit := m } := by
  rw [presetTaps_link, lit_link]

theorem exec_blockLock {lane : Fin 8} (hport : s.portState p.val = 2) (hlit : (s.link p.val).lit.testBit lane.val = true) :
    exec (.blockLock p lane) s = .next (
      if (s.link p.val).step = 0 then (s.setLink p.val { s.link p.val with
        locked := Nat.lor (s.link p.val).locked (2 ^ lane.val), evals := merase (s.link p.val).evals lane.val }).sendHello p.val
      else (s.setLink p.val { s.link p.val with
        locked := Nat.lor (s.link p.val).locked (2 ^ lane.val), evals := merase (s.link p.val).evals lane.val }).askTap
          p.val lane.val) := if_pos ⟨hport, hlit⟩

/-- A link as it switches to its next speed, before its taps are preset (R363). -/
def Link.switched (l : Link) : Link :=
  { l with
    step := l.step + 1, locked := 0, evals := [], switchDue := false, phase := 2,
    evalOwn := if l.step = 0 then mset 0 l.evalOwn 0 (l.pass 0 + 1) else l.evalOwn }

theorem exec_speedSwitch (hport : s.portState p.val = 2) (hdue : (s.link p.val).switchDue = true) :
    exec (.speedSwitch p) s = .next ((s.setLink p.val (s.link p.val).switched).presetTaps p.val
      (Nat.land (s.link p.val).lit (s.link p.val).peerLit)) := if_pos ⟨hport, hdue⟩

theorem speedSwitch_link (s : State) (q m : Nat) (l : Link) : ((s.setLink q l).presetTaps q m).link q = l := by
  rw [presetTaps_link]
  exact mget_mset_same ..

theorem exec_laneEvaluation {step : Fin 4} (hport : s.portState p.val = 2) (hphase : (s.link p.val).phase = 2)
    (hstep : (s.link p.val).step = step.val) (hfirst : mget 0 (s.link p.val).evalOwn (s.link p.val).step = 0)
    (hseen : ∀ i ∈ setBitsOf 8 (s.link p.val).evalLanes, 65536 ≤ (mget ⟨0, 0, 0⟩ (s.link p.val).evals i).words) :
    exec (.laneEvaluation p step) s =
      (let l := s.link p.val
       let m := (((setBitsOf 8 l.evalLanes).filter (fun i => LaneEval.pass (mget ⟨0, 0, 0⟩ l.evals i))).map (2 ^ ·)).sum
       .next (((s.setLink p.val { l with evalOwn := mset 0 l.evalOwn l.step (m + 1) }).say p.val 6 l.step m 0 0).evalDone p.val)) :=
  if_pos ⟨hport, hphase, hstep, hfirst, List.all_eq_true.mpr fun i hi => decide_eq_true (hseen i hi)⟩

theorem exec_speedAck (h : s.takeTrain p.val 3 = some (f, u)) (hp : u.portState p.val = 2) :
    exec (.speedAck p) s = .next (if bits (fw f 0) 31 24 = 0 then u.setLink p.val { u.link p.val with switchDue := true }
      else u.settle p.val) := by
  change execSpeedAck p s = _
  unfold execSpeedAck
  rw [onTrain_training h hp]

theorem exec_tapRsp (h : s.takeTrain p.val 5 = some (f, u)) (hp : u.portState p.val = 2) :
    exec (.tapRsp p) s = .next ((u.setLink p.val { u.link p.val with
      evals := merase (u.link p.val).evals (bits (fw f 0) 15 8 % 8) }).askTap p.val (bits (fw f 0) 15 8 % 8)) := by
  change execTapRsp p s = _
  unfold execTapRsp
  rw [onTrain_training h hp]

theorem exec_evalDone (h : s.takeTrain p.val 6 = some (f, u)) (hp : u.portState p.val = 2) :
    exec (.evalDone p) s = .next ((u.setLink p.val { u.link p.val with
      evalPeer := mset 0 (u.link p.val).evalPeer (bits (fw f 0) 17 16) (bits (fw f 0) 31 24 + 1) }).evalDone p.val) := by
  change execEvalDone p s = _
  unfold execEvalDone
  rw [onTrain_training h hp]

theorem exec_ready (h : s.takeTrain p.val 7 = some (f, u)) (hp : u.portState p.val = 2) :
    exec (.ready p) s =
      .next (if (u.settle p.val).portState p.val = 2 then (u.settle p.val).activate p.val else u.settle p.val) := by
  change execReady p s = _
  unfold execReady
  rw [onTrain_training h hp]

end

/-- Settles O31: light and the speed switch through the preset of the taps, which sets nothing but the taps; a tap request by
its action; the others by the branches that their flits take. -/
theorem linkTraining : Obligations.LinkTraining := by
  unfold Obligations.LinkTraining
  refine ⟨fun p lanes s hport hphase hlanes hlsu => ⟨_, exec_lightDetect hport hphase hlanes hlsu,
      lightDetect_portState s p.val _, lightDetect_link s p.val _, (lit_sameMem s p.val _).trans (presetTaps_sameMem _ p.val _)⟩,
    fun p lane s hport hlit => exec_blockLock hport hlit, ?_, ?_,
    fun p s u f h hp => exec_speedAck h hp,
    fun p s hport hdue => ⟨_, exec_speedSwitch hport hdue, ?_, ?_, ?_, ?_, fun k hk => presetTaps_sameRegs _ p.val _ k hk,
      presetTaps_sameMem (s.setLink p.val _) p.val _⟩,
    fun p s u f h hp => ⟨exec_tapReq_bad h hp, ?_⟩,
    fun p s u f h hp => exec_tapRsp h hp,
    fun p step s hport hphase hstep hfirst => exec_laneEvaluation hport hphase hstep hfirst,
    fun p s u f h hp => exec_evalDone h hp,
    fun p s u f h hp => exec_ready h hp,
    fun p s hport => if_pos hport,
    fun p s u f hp => ⟨fun h => peerDown_drops h hp, fun h => peerDown_drops h hp⟩⟩
  · intro p s u f h hp v id w ver fail mode l
    change (_ → execHello p s = _) ∧ (_ → _ → execHello p s = _) ∧ (_ → _ → execHello p s = _)
    unfold execHello
    rw [onTrain_training h hp]
    exact ⟨fun hmode => congrArg Host.Outcome.next (if_pos hmode),
      fun hmode hver => congrArg Host.Outcome.next ((if_neg (not_not.mpr hmode)).trans (if_pos hver)),
      fun hmode hver => congrArg Host.Outcome.next ((if_neg (not_not.mpr hmode)).trans (if_neg hver))⟩
  · intro p s u f h hp k l
    change execSpeedReq p s = _
    unfold execSpeedReq
    rw [onTrain_training h hp]
    refine congrArg Host.Outcome.next ?_
    exact ite_congr (propext (and_congr_right' (and_congr_right' (iff_of_eq (Bool.not_eq_true' _))))) (fun _ => rfl) fun _ => rfl
  · exact congrArg Link.step (speedSwitch_link s p.val _ _)
  · exact congrArg Link.locked (speedSwitch_link s p.val _ _)
  · exact congrArg Link.switchDue (speedSwitch_link s p.val _ _)
  · exact congrArg Link.phase (speedSwitch_link s p.val _ _)
  · intro hlane hact
    obtain ⟨t, a, ⟨ha, hregs, hsame, hmem⟩, hexec⟩ := exec_tapReq_good h hp hlane hact
    exact ⟨t, a, ha, hexec, hregs, hsame, hmem⟩

end Sys2Proof.Machine
end

section
/-! # The Ikio monitor (R421, R510, R513, R514, R521, R522) -/
namespace Sys2Proof.Machine

section
variable {s : State} (h : s.ikioReady)

/-! ## Lines, accepted and refused -/

/-- A line of the monitor, echoed. -/
def State.echoed (s : State) : State := s.emit .uartEcho

/-- A command of the monitor, echoed and counted. -/
def State.ikioCounted (s : State) : State := s.echoed.bump DBG_IKIO_CMD_COUNT

section
include h

theorem ikioReady_runs : ¬ (s.rs.por = true ∨ s.rs.ikio.isSome = true) := by
  obtain ⟨hpor, hidle⟩ := h
  simp [hpor, hidle]

theorem ikioCmd_ready (f : State → State) : s.ikioCmd f = .next (f s.ikioCounted) := if_neg (ikioReady_runs h)

theorem badLine_ready : s.badLine = .next (s.echoed.sayEnd stACCESS_DENIED) := if_neg (ikioReady_runs h)

end

/-! ## Registers -/

theorem rdLine_ok {off : Nat} (hgood : goodAccess off 8 = true) (hoff : off < barSize) :
    (goodAccess off 8 && decide (off < barSize)) = true := by
  rw [hgood, decide_eq_true hoff, Bool.and_self]

theorem rdLine_bad {off : Nat} (hbad : goodAccess off 8 = false ∨ barSize ≤ off) :
    ¬ (goodAccess off 8 && decide (off < barSize)) = true := by
  rw [Bool.and_eq_true, decide_eq_true_eq]
  rintro ⟨hgood, hoff⟩
  rcases hbad with hbad | hbad
  · exact Bool.false_ne_true (hbad.symm.trans hgood)
  · exact Nat.not_le.mpr hoff hbad

section
variable {off : Nat} (hgood : goodAccess off 8 = true) (hoff : off < barSize)
include h hgood hoff

theorem exec_ikioRd :
    exec (.ikioRd off) s = .next
      (if s.ikioCounted.barReady off then
        ((s.ikioCounted.readOff off).2.say_ (hex 16 (s.ikioCounted.readOff off).1.toNat)).sayEnd 0
      else s.ikioCounted.sayEnd stSTATE_CONFLICT) :=
  (if_pos (rdLine_ok hgood hoff)).trans (ikioCmd_ready h _)

theorem exec_ikioWr (v : Word) :
    exec (.ikioWr off v) s = .next
      (if !((findReg off regAddr).elim (cxlComponent off) directWrite) then s.ikioCounted.sayEnd stACCESS_DENIED
      else if s.ikioCounted.barReady off then (s.ikioCounted.writeOff off v).sayEnd 0
      else s.ikioCounted.sayEnd stSTATE_CONFLICT) :=
  (if_pos (rdLine_ok hgood hoff)).trans (ikioCmd_ready h _)

end

/-! ## Memory -/

/-- The packets of an access to memory, one for each 256 B block, and the access that waits for their answers. -/
def State.ikioSent (s : State) (n : Nat) (addr : Word) (len : Nat) (bytes : Option (List Byte)) : State :=
  (splitUnits 256 addr.toNat len).foldl (fun t c => t.issue 96 (ReqForm.pkt
      { opcode := if bytes.isSome then 2 else 1, part := n, src := t.selfId, dst := faEp addr, addr := BitVec.ofNat 64 c.2.1,
        w3 := if bytes.isSome then 0 else BitVec.ofNat 64 c.2.2,
        payload := match bytes with | some b => slice b c.1 c.2.2 | none => [] }) .ikio)
    { s with rs := { s.rs with ikio := some ⟨bytes.isSome, (splitUnits 256 addr.toNat len).length, [], none⟩ } }

section
variable {n len : Nat} {addr : Word} {bytes : Option (List Byte)}
include h

theorem ikioMem_bad (hlen : len = 0 ∨ 256 < len) : s.ikioMem n addr len bytes = .next (s.echoed.sayEnd stACCESS_DENIED) :=
  (if_pos hlen).trans (badLine_ready h)

theorem ikioMem_good (hlen : ¬ (len = 0 ∨ 256 < len)) :
    s.ikioMem n addr len bytes = .next
      (if s.ikioCounted.confidential n then (s.ikioCounted.sayEnd stACCESS_DENIED).bump DBG_IKIO_DENIED_COUNT
      else if s.ikioCounted.xb.closed then s.ikioCounted.sayEnd stSTATE_CONFLICT
      else s.ikioCounted.ikioSent n addr len bytes) :=
  (if_neg hlen).trans (ikioCmd_ready h _)

variable (hlen : ¬ (len = 0 ∨ 256 < len))
include hlen

theorem ikioMem_confidential (hc : s.ikioCounted.confidential n = true) :
    s.ikioMem n addr len bytes = .next ((s.ikioCounted.sayEnd stACCESS_DENIED).bump DBG_IKIO_DENIED_COUNT) :=
  (ikioMem_good h hlen).trans (congrArg Host.Outcome.next (if_pos hc))

theorem ikioMem_closed (hc : s.ikioCounted.confidential n = false) (hx : s.xb.closed = true) :
    s.ikioMem n addr len bytes = .next (s.ikioCounted.sayEnd stSTATE_CONFLICT) :=
  (ikioMem_good h hlen).trans (congrArg Host.Outcome.next ((if_neg (Bool.not_eq_true _ ▸ hc)).trans (if_pos hx)))

theorem ikioMem_sent (hc : s.ikioCounted.confidential n = false) (hx : s.xb.closed = false) :
    s.ikioMem n addr len bytes = .next (s.ikioCounted.ikioSent n addr len bytes) :=
  (ikioMem_good h hlen).trans (congrArg Host.Outcome.next
    ((if_neg (Bool.not_eq_true _ ▸ hc)).trans (if_neg (Bool.not_eq_true _ ▸ hx))))

end

/-! ## The other commands -/

section
include h

theorem exec_ikioHelp : ∃ ls : List String,
    exec .ikioHelp s = .next ((ls.foldl State.say_ s.ikioCounted).sayEnd 0) ∧ ls.length = 10 := by
  change ∃ ls, execIkioHelp s = _ ∧ _
  unfold execIkioHelp
  rw [ikioCmd_ready h]
  exact ⟨_, rfl, rfl⟩

/-- The lines of `status`, in the order in which they go out. -/
def State.statusLines (s : State) : List String :=
  ["halt" ++ " " ++ hex 4 (s.get GLOBAL_BOOT_STATUS_HALT_CAUSE), "phase" ++ " " ++ hex 1 s.phase,
    "straps" ++ " " ++ hex 4 (s.rd GLOBAL_STRAPS), "reset" ++ " " ++ hex 16 (s.rd GLOBAL_RESET_CAUSE),
    "cask" ++ " " ++ hex 1 (s.get CASK_STATUS_LINK_UP), "lock" ++ " " ++ hex 1 (s.get TIME_STATUS_LOCKED)]

theorem exec_ikioStatus :
    exec .ikioStatus s = .next ((s.ikioCounted.statusLines.foldl State.say_ s.ikioCounted).sayEnd 0) := by
  change execIkioStatus s = _
  unfold execIkioStatus
  rw [ikioCmd_ready h]
  rfl

theorem exec_ikioRelease : exec .ikioRelease s = .next (s.ikioCounted.release.sayEnd 0) := by
  change execIkioRelease s = _
  unfold execIkioRelease
  rw [ikioCmd_ready h]

theorem exec_ikioBootFull :
    exec .ikioBootFull s = .next
      (if s.rs.level = 2 then s.ikioCounted.sayEnd stSTATE_CONFLICT
      else (s.ikioCounted.putRecord { s.ikioCounted.rs.boot with
        full := true, selfId := if s.ikioCounted.bootValid then s.ikioCounted.rs.boot.selfId else s.ikioCounted.selfId }).sayEnd
          0) := by
  change execIkioBootFull s = _
  unfold execIkioBootFull
  rw [ikioCmd_ready h]
  rfl

theorem exec_ikioBaud {r k : Nat} (hk : baudRates.findIdx? (· == r) = some k) :
    exec (.ikioBaud r) s = .next ((s.ikioCounted.sayEnd 0).put DBG_IKIO_BAUD k) := by
  change execIkioBaud r s = _
  unfold execIkioBaud
  rw [hk]
  exact ikioCmd_ready h _

theorem exec_ikioBaud_bad {r : Nat} (hr : r ∉ baudRates) : exec (.ikioBaud r) s = .next (s.echoed.sayEnd stACCESS_DENIED) := by
  have hnone : baudRates.findIdx? (· == r) = none :=
    List.findIdx?_eq_none_iff.mpr fun x hx => beq_false_of_ne fun e => hr (e ▸ hx)
  change execIkioBaud r s = _
  unfold execIkioBaud
  rw [hnone]
  exact badLine_ready h

end
end

/-- Settles O43: a line runs its command on the echoed and counted state, or is refused; then each command by its branches. -/
theorem ikioMonitor : Obligations.IkioMonitor := by
  unfold Obligations.IkioMonitor
  constructor
  · intro s h e u
    refine ⟨exec_ikioHelp h, fun r k hk => exec_ikioBaud h hk, fun r hr => exec_ikioBaud_bad h hr, ⟨_, exec_ikioStatus h, rfl⟩,
      fun off hgood hoff hready => (exec_ikioRd h hgood hoff).trans (congrArg Host.Outcome.next (if_pos hready)),
      fun off hgood hoff hready => (exec_ikioRd h hgood hoff).trans
        (congrArg Host.Outcome.next (if_neg (Bool.not_eq_true _ ▸ hready))),
      fun off v hgood hoff hdirect hready => (exec_ikioWr h hgood hoff v).trans
        (congrArg Host.Outcome.next ((if_neg (by rw [hdirect]; decide)).trans (if_pos hready))),
      fun off v hgood hoff hdirect => (exec_ikioWr h hgood hoff v).trans
        (congrArg Host.Outcome.next (if_pos (by rw [hdirect]; rfl))),
      fun off v hbad => ⟨(if_neg (rdLine_bad hbad)).trans (badLine_ready h), (if_neg (rdLine_bad hbad)).trans (badLine_ready h)⟩,
      fun n a len bs => ⟨fun hlen => ikioMem_bad h hlen,
        fun hbs => ikioMem_bad h (hbs.imp_left fun e => congrArg List.length e)⟩,
      exec_ikioRelease h, fun hlevel => (exec_ikioBootFull h).trans (congrArg Host.Outcome.next (if_neg hlevel)),
      fun hlevel => (exec_ikioBootFull h).trans (congrArg Host.Outcome.next (if_pos hlevel)),
      fun len hboot hwait hidle => (if_pos ⟨hboot, hwait, hidle⟩).trans (ikioCmd_ready h _),
      fun len hno => (if_neg hno).trans (badLine_ready h), badLine_ready h⟩
  · intro n a len bs s h hlen hlen' hbs hbs' u
    have hr : ¬ (len = 0 ∨ 256 < len) := by omega
    have hw : ¬ (bs.length = 0 ∨ 256 < bs.length) := by omega
    exact ⟨fun hc => ⟨ikioMem_confidential h hr hc, ikioMem_confidential h hw hc⟩,
      fun hc hx => ⟨ikioMem_closed h hr hc hx, ikioMem_closed h hw hc hx⟩,
      fun hc hx => ⟨ikioMem_sent h hr hc hx, ikioMem_sent h hw hc hx⟩⟩

end Sys2Proof.Machine
end

section
/-! # Bring-up from reset to operation (R348, R439, R505 to R517) -/
namespace Sys2Proof.Machine

section
variable {s : State}

/-! ## Recovery images (R439, R514) -/

section
variable {line host bs : List Byte} {crc : Option (BitVec 32)} {ok : Bool} (hboot : s.booting = true)
  (hmove : s.rs.transfer = true)
include hboot hmove

/-- Any source but a neighbour has sent its image when its transfer ends. -/
theorem exec_imageTransferEnd (hwait : s.rs.wait ≠ some 3) : exec (.imageTransferEnd line crc host ok) s =
    .next (s.imageCame (s.imageBytes line host) (s.imageSound line crc ok true)) :=
  if_pos ⟨hboot, hmove, by rw [bne_iff_ne.mpr hwait, Bool.true_or]⟩

theorem exec_imageTransferEnd_neighbour (hlen : s.rs.imageLen ≠ 0) (hasked : s.rs.asked = 0) (hall : s.rs.want ≤ s.rs.next) :
    exec (.imageTransferEnd line crc host ok) s =
      .next (s.imageCame (s.imageBytes line host) (s.imageSound line crc ok true)) :=
  if_pos ⟨hboot, hmove, by rw [bne_iff_ne.mpr hlen, hasked, decide_eq_true hall, beq_self_eq_true, Bool.and_true,
    Bool.and_true, Bool.or_true]⟩

theorem exec_imageTransferStall : exec (.imageTransferStall line crc host ok) s =
    .next (s.imageCame (s.imageBytes line host) (s.imageSound line crc ok false)) := if_pos ⟨hboot, hmove⟩

end

section
variable {line host : List Byte} (b : Bool)

/-- An image from the host's memory is as long as the host said (R524). -/
theorem imageCame_host (h : s.rs.wait = some 1) : s.imageCame host b =
    if s.imageStatus (host.take (s.get GLOBAL_BOOT_HOST_LEN_LEN)) = 0 ∧ b = true then
      s.bootImage 1 (host.take (s.get GLOBAL_BOOT_HOST_LEN_LEN)) else s.nextSource := by
  rw [State.imageCame, h]
  rfl

theorem imageCame_uart (h : s.rs.wait = some 2) : s.imageCame line b =
    if s.imageStatus (line.take s.rs.imageLen) = 0 ∧ b = true then s.bootImage 2 (line.take s.rs.imageLen) else s.nextSource := by
  rw [State.imageCame, h]
  rfl

theorem imageCame_neighbour (h : s.rs.wait = some 3) (bytes : List Byte) : s.imageCame bytes true =
    if s.imageStatus (readBytes s.rs.image 0 (min s.rs.imageLen s.rs.next)) = 0 then
      s.bootDrop.bootImage 3 (readBytes s.rs.image 0 (min s.rs.imageLen s.rs.next)) else s.nextSource := by
  rw [State.imageCame, h]
  exact ite_congr (propext (and_iff_left rfl)) (fun _ => rfl) fun _ => rfl

theorem imageBytes_host (h : s.rs.wait = some 1) : s.imageBytes line host = host := by
  rw [State.imageBytes, h]
  rfl

theorem imageBytes_uart (h : s.rs.wait = some 2) : s.imageBytes line host = line := if_pos h

variable {crc : Option (BitVec 32)} {ok whole : Bool}

theorem imageSound_host (h : s.rs.wait = some 1) : s.imageSound line crc ok whole = ok := by
  unfold State.imageSound
  rw [h]
  rfl

theorem imageSound_neighbour (h : s.rs.wait = some 3) : s.imageSound line crc ok whole = true := by
  unfold State.imageSound
  rw [h]
  rfl

/-- Without a CRC a UART transfer is sound where it stalled (log 133). -/
theorem imageSound_uart_none (h : s.rs.wait = some 2) : s.imageSound line none ok whole = !whole := by
  unfold State.imageSound
  rw [h]
  rfl

theorem imageSound_uart_crc (h : s.rs.wait = some 2) (c : BitVec 32) :
    s.imageSound line (some c) ok whole = decide (c.toNat = crc32 (line.take s.rs.imageLen)) := by
  unfold State.imageSound
  rw [h]
  rfl

end

/-! ## The image that runs -/

/-- The registers that show the image that runs (R435, R439). -/
def State.imageShown (s : State) (source : Nat) (h : List Word) : State :=
  (((((s.setReg PART_FW (wd h 5)).put PART_SVN_IMAGE_SVN (bits (wd h 1) 31 0)).put PART_SVN_KEY_SLOT (bits (wd h 0) 51 48)).put
    GLOBAL_BOOT_STATUS_SOURCE source).put PART_STATUS_RECOVERED (b2n (source != 0))).put GLOBAL_BOOT_STATUS_WAIT_CXL 0

/-- The reset unit when no source is waited for. -/
def ResetU.unwaited (rs : ResetU) : ResetU :=
  { rs with wait := none, transfer := false, port := none, from_ := 0, image := [], next := 0, asked := 0, imageLen := 0 }

/-- The state that runs an image with its section hashes (R433, R441). -/
def State.running (s : State) (hashes : List (BitVec 384)) : State :=
  { s with pa := { s.pa with hashes := hashes }, rs := s.rs.unwaited }

theorem running_reg (l : List (BitVec 384)) (k : Key) : (s.running l).reg k = s.reg k := rfl

theorem running_get (l : List (BitVec 384)) (f : Fld) : (s.running l).get f = s.get f := rfl

section
variable (s : State) (src : Nat) (bs : List Byte)

theorem bootImage_eq : s.bootImage src bs =
    ((s.imageShown src (bytesWords 64 (bs.take 512))).running ((List.range 3).map (fun k => Config.sha384
      (slice bs (section_ (bytesWords 64 (bs.take 512)) k).1 (section_ (bytesWords 64 (bs.take 512)) k).2)))).setPhase 1 := by
  unfold State.bootImage State.running State.imageShown ResetU.unwaited
  rfl

theorem bootImage_get {f : Fld} (h : GLOBAL_BOOT_STATUS_PHASE.apart f = true) :
    (s.bootImage src bs).get f = (s.imageShown src (bytesWords 64 (bs.take 512))).get f := by
  rw [bootImage_eq, State.setPhase, get_put_apart _ h, running_get]

theorem bootImage_fw : (s.bootImage src bs).reg PART_FW = wd (bytesWords 64 (bs.take 512)) 5 := by
  rw [bootImage_eq]
  generalize bytesWords 64 (bs.take 512) = h
  rw [State.setPhase, reg_put_of_id _ rfl, running_reg, State.imageShown, reg_put_of_id _ rfl, reg_put_of_id _ rfl,
    reg_put_of_id _ rfl, reg_put_of_id _ rfl, reg_put_of_id _ rfl, reg_setReg_same]

theorem bootImage_svn :
    (s.bootImage src bs).get PART_SVN_IMAGE_SVN = bits (wd (bytesWords 64 (bs.take 512)) 1) 31 0 := by
  rw [bootImage_get _ _ _ rfl, State.imageShown, get_put_apart _ rfl, get_put_apart _ rfl, get_put_apart _ rfl,
    get_put_apart _ rfl]
  exact get_put_field (by decide) (by decide) (bits_lt _ 31 0)

theorem bootImage_slot :
    (s.bootImage src bs).get PART_SVN_KEY_SLOT = bits (wd (bytesWords 64 (bs.take 512)) 0) 51 48 := by
  rw [bootImage_get _ _ _ rfl, State.imageShown, get_put_apart _ rfl, get_put_apart _ rfl, get_put_apart _ rfl]
  exact get_put_field (by decide) (by decide) (bits_lt _ 51 48)

theorem bootImage_source (h : src < 4) : (s.bootImage src bs).get GLOBAL_BOOT_STATUS_SOURCE = src := by
  rw [bootImage_get _ _ _ rfl, State.imageShown, get_put_apart _ rfl, get_put_apart _ rfl,
    get_put_field (by decide) (by decide) h]

theorem bootImage_recovered : (s.bootImage src bs).get PART_STATUS_RECOVERED = b2n (src != 0) := by
  rw [bootImage_get _ _ _ rfl, State.imageShown, get_put_apart _ rfl,
    get_put_field (by decide) (by decide) (by cases src != 0 <;> decide)]

theorem setPhase_phase {k : Nat} (h : k < 16) : (s.setPhase k).phase = k := get_put_field (by decide) (by decide) h

end

/-! ## The reference and the calibration store (phase 1) -/

section
variable (s : State)

theorem pickClock_of_own (h : s.get GLOBAL_STRAPS_CLK_MODE ≠ 2) : s.pickClock = s := if_neg h

theorem pickClock_fabric (h : s.get GLOBAL_STRAPS_CLK_MODE = 2) :
    s.pickClock.get GLOBAL_STRAPS_CLK_ACTIVE = if (List.range 96).any (fun p => s.active p && !s.isAttach p) then 2 else 1 := by
  unfold State.pickClock
  rw [if_pos h]
  extract_lets ok cur
  by_cases hcur : cur < 96 ∧ ok cur = true
  · obtain ⟨h96, hok⟩ := hcur
    rw [if_pos ⟨h96, hok⟩, if_pos (List.any_eq_true.mpr ⟨cur, List.mem_range.mpr h96, hok⟩),
      get_put_field (by decide) (by decide) (by decide)]
  · rw [if_neg hcur]
    cases hfind : (List.range 96).find? ok with
    | some p =>
      dsimp only
      rw [if_pos (List.any_eq_true.mpr ⟨p, List.mem_of_find?_eq_some hfind, List.find?_some hfind⟩),
        get_put_field (by decide) (by decide) (by decide)]
    | none =>
      dsimp only
      rw [if_neg, get_put_field (by decide) (by decide) (by decide)]
      rw [List.any_eq_true]
      rintro ⟨p, hp, hok⟩
      exact List.find?_eq_none.mp hfind p hp hok

/-- The calibration store's header as shown, and the laser sources found. -/
def State.sensed (s : State) (good : Bool) (f n pr re : Nat) : State :=
  ((((((s.put CAL_STATUS_VALID (b2n good)).put CAL_STATUS_DEFAULTS (b2n !good)).put CAL_STATUS_FACTORY f).wr CAL_WRITE_COUNT n).put
    PORT_LSU_PRESENT pr).put PORT_LSU_READY re).setPhase 2

section
variable (good : Bool) (f n pr re : Nat)

theorem sensed_phase : (s.sensed good f n pr re).phase = 2 := setPhase_phase _ (by decide)

theorem sensed_rs : (s.sensed good f n pr re).rs = s.rs := rfl

theorem sensed_valid : (s.sensed good f n pr re).get CAL_STATUS_VALID = b2n good := by
  rw [State.sensed, State.setPhase, get_put_apart _ rfl, get_put_apart _ rfl, get_put_apart _ rfl, get_wr_of_id _ rfl,
    get_put_apart _ rfl, get_put_apart _ rfl, get_put_field (by decide) (by decide) (by cases good <;> decide)]

theorem sensed_present (h : pr < 16) : (s.sensed good f n pr re).get PORT_LSU_PRESENT = pr := by
  rw [State.sensed, State.setPhase, get_put_apart _ rfl, get_put_apart _ rfl, get_put_field (by decide) (by decide) h]

theorem sensed_ready (h : re < 16) : (s.sensed good f n pr re).get PORT_LSU_READY = re := by
  rw [State.sensed, State.setPhase, get_put_apart _ rfl, get_put_field (by decide) (by decide) h]

theorem sensed_clk : (s.sensed good f n pr re).get GLOBAL_STRAPS_CLK_ACTIVE = s.get GLOBAL_STRAPS_CLK_ACTIVE := by
  simp (disch := exact id rfl) only [State.sensed, State.setPhase, get_put_of_id, get_wr_of_id]

end

/-- The reset unit with the calibration store read (R516, R518). -/
def ResetU.calRead (rs : ResetU) (good : Bool) (head : Nat × Nat) : ResetU :=
  { rs with wire := true, sensed := true, calRom := !good, cal := if good then rs.store else [], calNew := [], storeHead := some head }

variable (board store : Bool) (fac : BitVec 3) (wr : BitVec 32) (pr re : BitVec 4)

/-- The state with its clock picked. -/
def State.clocked (s : State) : State :=
  (s.put GLOBAL_STRAPS_CLK_ACTIVE
    (if s.get GLOBAL_STRAPS_CLK_MODE = 2 then 1 else s.get GLOBAL_STRAPS_CLK_MODE)).pickClock

/-- Phase 1 done, on the state with its clock picked. -/
def State.calibrated (t : State) (store : Bool) (fac : BitVec 3) (wr : BitVec 32) (pr re : BitVec 4) : State :=
  State.sensed { t with rs := t.rs.calRead (store && !t.rs.storeBad) (t.rs.storeHead.getD (fac.toNat, wr.toNat)) }
    (store && !t.rs.storeBad) (t.rs.storeHead.getD (fac.toNat, wr.toNat)).1 (t.rs.storeHead.getD (fac.toNat, wr.toNat)).2
    pr.toNat (Nat.land pr.toNat re.toNat)

theorem endClock_done (hmode : s.get GLOBAL_STRAPS_CLK_MODE ≠ 3) (hboard : ¬ (s.get GLOBAL_STRAPS_CLK_MODE = 0 ∧ board = false)) :
    s.endClock board store fac wr pr re = s.clocked.calibrated store fac wr pr re :=
  (if_neg hmode).trans (if_neg hboard)

theorem clocked_own (h : s.get GLOBAL_STRAPS_CLK_MODE ≤ 1) :
    s.clocked = s.put GLOBAL_STRAPS_CLK_ACTIVE (s.get GLOBAL_STRAPS_CLK_MODE) := by
  have h2 : s.get GLOBAL_STRAPS_CLK_MODE ≠ 2 := by omega
  unfold State.clocked
  rw [if_neg h2, pickClock_of_own _ (by rwa [get_put_apart _ rfl])]

theorem clocked_fabric (h : s.get GLOBAL_STRAPS_CLK_MODE = 2) :
    s.clocked.get GLOBAL_STRAPS_CLK_ACTIVE = if (List.range 96).any (fun p => s.active p && !s.isAttach p) then 2 else 1 := by
  have hsame : ∀ p, ((s.put GLOBAL_STRAPS_CLK_ACTIVE 1).active p && !(s.put GLOBAL_STRAPS_CLK_ACTIVE 1).isAttach p) =
      (s.active p && !s.isAttach p) := fun p => by
    rw [State.active, State.portState, State.isAttach, get_put_of_id _ rfl, get_put_of_id _ rfl]
    rfl
  unfold State.clocked
  rw [if_pos h, pickClock_fabric _ (by rwa [get_put_apart _ rfl])]
  simp only [hsame]

theorem calibrated_clk (t : State) :
    (t.calibrated store fac wr pr re).get GLOBAL_STRAPS_CLK_ACTIVE = t.get GLOBAL_STRAPS_CLK_ACTIVE := by
  unfold State.calibrated
  rw [sensed_clk, get_withRs]

theorem calibrated_phase (t : State) : (t.calibrated store fac wr pr re).phase = 2 := sensed_phase ..

end

end
end Sys2Proof.Machine
end

section
/-! # The end of bring-up (R508, R511, R513), and its phases -/
namespace Sys2Proof.Machine

section
variable {s : State}

/-! ## The boot record -/

/-- A record with its checksum. -/
def BootRecord.sealed (r : BootRecord) : BootRecord := { r with crc := crc32 r.bytes }

/-- The record that a full boot rebuilds (R513). -/
def State.rebuilt (s : State) (cols : List (BitVec 10)) : BootRecord :=
  { selfId := if s.bootValid then s.rs.boot.selfId else s.selfId, cols := cols, sram := s.rs.sram, rows := s.rs.rows,
    serial := s.reg GLOBAL_SERIAL }

/-- The state with a record being written. -/
def State.recorded (s : State) (r : BootRecord) : State := { s with rs := { s.rs with boot := r, recording := true } }

theorem recorded_get (r : BootRecord) (f : Fld) : (s.recorded r).get f = s.get f := rfl

theorem recorded_reg (r : BootRecord) (k : Key) : (s.recorded r).reg k = s.reg k := rfl

theorem recorded_full (r : BootRecord) : (s.recorded r).rs.full = s.rs.full := rfl

theorem writeRecord_full (h : s.rs.full = true) (cols : List (BitVec 10)) :
    s.writeRecord cols = s.recorded (s.rebuilt cols).sealed := if_pos h

theorem rebuilt_congr {t : State} (cols : List (BitVec 10)) (hrs : t.rs = s.rs) (hserial : t.reg GLOBAL_SERIAL = s.reg GLOBAL_SERIAL)
    (hself : t.selfId = s.selfId) : t.rebuilt cols = s.rebuilt cols := by
  unfold State.rebuilt State.bootValid
  rw [hrs, hserial, hself]

/-! ## Columns and costs -/

section
variable (s : State)

theorem mapColumns_onlyRegs (cols : List Nat) : OnlyRegs s (s.mapColumns cols) [TUN_REPAIR_A, TUN_REPAIR_B, TUN_STATUS] := by
  unfold State.mapColumns
  extract_lets col pack t u
  have hu : OnlyRegs s u [TUN_REPAIR_A, TUN_REPAIR_B, TUN_STATUS] :=
    (((OnlyRegs.refl (s := s) _).setReg _ (by simp)).put _ (by simp [TUN_REPAIR_B_COL6_COL7])).put _ (by simp [TUN_REPAIR_B_COUNT])
  split
  · exact hu.flag (by simp [TUN_STATUS_FAILED])
  · exact hu

theorem mapColumns_count (cols : List Nat) : (s.mapColumns cols).get TUN_REPAIR_B_COUNT = min 9 cols.length := by
  unfold State.mapColumns
  extract_lets col pack t u
  have hu : u.get TUN_REPAIR_B_COUNT = min 9 cols.length := get_put_field (by decide) (by decide)
    (Nat.lt_of_le_of_lt (Nat.min_le_left 9 _) (by decide))
  split
  · rw [get_flag_apart rfl, hu]
  · exact hu

/-- The costs of R53 loaded. -/
def State.withCosts (s : State) : State := (costTable.mapIdx (fun i v => (i, v))).foldl (fun s e => s.wr (TIME_COST e.1) e.2) s

theorem withCosts_eq : s.withCosts = (List.range 17).foldl (fun s i => s.wr (TIME_COST i) (costTable.getD i 0)) s := by
  have hrows : costTable.mapIdx (fun i v => (i, v)) = (List.range 17).map fun i => (i, costTable.getD i 0) := by decide
  rw [State.withCosts, hrows, List.foldl_map]

theorem withCosts_regsBut : RegsBut [(TIME_COST 0).id] s s.withCosts := by
  rw [withCosts_eq]
  exact RegsBut.foldl (fun t i => .wr (.refl _ t) _ rfl) _ s

theorem withCosts_rs : s.withCosts.rs = s.rs := by
  rw [withCosts_eq]
  exact foldl_same State.rs _ _ fun _ _ _ => rfl

theorem withCosts_cost {i : Nat} (h : i < 17) : s.withCosts.rd (TIME_COST i) = costTable.getD i 0 := by
  have hfits : ∀ j < 17, costTable.getD j 0 < 2 ^ 64 := by decide
  have hreg : s.withCosts.reg (TIME_COST i) = BitVec.ofNat 64 (costTable.getD i 0) := by
    rw [withCosts_eq]
    exact reg_foldl_range h _ _ _ (fun t => reg_setReg_same ..)
      fun t j hj => reg_setReg_other t _ (Key.ne_of_idx (Ne.symm hj))
  rw [State.rd, hreg, BitVec.toNat_ofNat, Nat.mod_eq_of_lt (hfits i h)]

end

/-! ## The end of phase 8 -/

/-- The power of the Tun's ballast (R511), a part of a W rounded by a free bit (log 8). -/
def State.ballastWatts (s : State) (mw1 mw0 : Nat) : Nat :=
  let d := if s.on GLOBAL_OPTIONS_TUN_PRESENT then 16 * (mw1 - mw0) else 0
  d / 1000 + (if d % 1000 = 0 then 0 else b2n (bit s.take.1 0))

/-- The ballast measured at `w` W. -/
def State.ballasted (s : State) (w : Nat) : State := s.take.2.wr PGOV_BALLAST_W w

theorem ballasted_rs (w : Nat) : (s.ballasted w).rs = s.rs := rfl

theorem ballasted_reg (w : Nat) {k : Key} (hk : Nat.beq k.id PGOV_BALLAST_W.id = false) : (s.ballasted w).reg k = s.reg k :=
  reg_wr_of_id (s := s.take.2) w hk

/-- The columns mapped and the costs loaded. -/
def State.mapped (s : State) (cols : List (BitVec 10)) : State := (s.mapColumns (columnMap cols)).withCosts

/-- Phase 8 ended, before the record: the columns mapped, the costs loaded, the ballast measured (R511). -/
def State.measured (s : State) (cols : List (BitVec 10)) (mw1 mw0 : Nat) : State :=
  (s.mapped cols).ballasted ((s.mapped cols).ballastWatts mw1 mw0)

/-- The internal ports open. -/
def State.opened (s : State) : State := { s with xb := { s.xb with closed := false } }

theorem opened_get (f : Fld) : s.opened.get f = s.get f := rfl

theorem opened_reg (k : Key) : s.opened.reg k = s.reg k := rfl

/-- Bring-up is done, before the completion queues of the rings are looked at. -/
def State.broughtUp (s : State) (full : Bool) : State :=
  (((s.put GLOBAL_RESET_CAUSE_FULL_BOOT (b2n full)).flag GLOBAL_BOOT_STATUS_DONE).put TUN_STATUS_BALLAST_DUTY 0).opened.setPhase 9

section
variable (cols : List (BitVec 10)) (a b : Nat)

theorem mapColumns_rs (l : List Nat) : (s.mapColumns l).rs = s.rs := (congrArg State.rs (mapColumns_onlyRegs s l).1 :)

theorem measured_rs : (s.measured cols a b).rs = s.rs := by
  rw [State.measured, ballasted_rs, State.mapped, withCosts_rs, mapColumns_rs]

theorem measured_reg {k : Key}
    (hk : [(TIME_COST 0).id, PGOV_BALLAST_W.id, TUN_REPAIR_A.id, TUN_REPAIR_B.id, TUN_STATUS.id].any (Nat.beq k.id) = false) :
    (s.measured cols a b).reg k = s.reg k := by
  simp only [List.any_cons, List.any_nil, Bool.or_false, Bool.or_eq_false_iff] at hk
  obtain ⟨hcost, hballast, ha, hb, htun⟩ := hk
  rw [State.measured, ballasted_reg _ hballast, State.mapped, withCosts_regsBut _ k (by simp [hcost])]
  refine (mapColumns_onlyRegs s _).reg_eq ?_
  simp only [List.mem_cons, List.not_mem_nil, or_false, not_or]
  exact ⟨Key.ne_of_id ha, Key.ne_of_id hb, Key.ne_of_id htun⟩

theorem measured_cost {i : Nat} (h : i < 17) : (s.measured cols a b).rd (TIME_COST i) = costTable.getD i 0 := by
  rw [State.rd, State.measured, ballasted_reg _ rfl]
  exact withCosts_cost _ h

theorem measured_count : (s.measured cols a b).get TUN_REPAIR_B_COUNT = min 9 (columnMap cols).length := by
  rw [State.get, State.measured, ballasted_reg _ rfl, State.mapped, withCosts_regsBut _ _ rfl]
  exact mapColumns_count s _

/-- The record written where a full boot or a new repair asks for it. -/
def State.recordKept (s : State) (cols : List (BitVec 10)) : State :=
  if s.rs.full ∨ s.rs.boot.cols.length < cols.length then s.writeRecord cols else s

theorem recordKept_full (h : s.rs.full = true) : s.recordKept cols = s.recorded (s.rebuilt cols).sealed :=
  (if_pos (Or.inl h)).trans (writeRecord_full h cols)

theorem broughtUp_eq : s.broughtUp s.rs.full =
    State.setPhase { (((s.put GLOBAL_RESET_CAUSE_FULL_BOOT (b2n s.rs.full)).flag GLOBAL_BOOT_STATUS_DONE).put
      TUN_STATUS_BALLAST_DUTY 0) with
      xb := { (((s.put GLOBAL_RESET_CAUSE_FULL_BOOT (b2n s.rs.full)).flag GLOBAL_BOOT_STATUS_DONE).put
        TUN_STATUS_BALLAST_DUTY 0).xb with closed := false } } 9 := by
  unfold State.broughtUp State.opened
  rfl

theorem endCompute_eq (h : s.rs.full = true) : s.endCompute cols a b =
    (((s.measured cols a b).recordKept cols).broughtUp ((s.measured cols a b).recordKept cols).rs.full).ringsFull := by
  have hall : (if s.rs.full then cols else s.rs.boot.cols ++ cols.filter (fun c => !s.rs.boot.cols.contains c)) = cols := if_pos h
  unfold State.endCompute
  rw [hall]
  extract_lets all u1 u2 d
  have hmap : s.mapped cols = u2 := by
    unfold State.mapped State.withCosts
    rfl
  have hwatts : u2.ballastWatts a b = d / 1000 + (if d % 1000 = 0 then 0 else b2n (bit u2.take.1 0)) := rfl
  have hball : ∀ w, u2.take.2.wr PGOV_BALLAST_W w = u2.ballasted w := fun _ => rfl
  have hmeasured : u2.ballasted (u2.ballastWatts a b) = s.measured cols a b := by rw [State.measured, hmap]
  clear_value d u2
  split
  rename_i v u3 htake
  obtain rfl : u2.take.1 = v := congrArg Prod.fst htake
  obtain rfl : u2.take.2 = u3 := congrArg Prod.snd htake
  rw [← hwatts, hball, hmeasured]
  generalize s.measured cols a b = m
  rw [broughtUp_eq]
  unfold State.recordKept
  rfl

theorem endCompute_full (h : s.rs.full = true) : s.endCompute cols a b =
    (((s.measured cols a b).recorded (s.rebuilt cols).sealed).broughtUp true).ringsFull := by
  have hrs : (s.measured cols a b).rs = s.rs := measured_rs cols a b
  have hfull : (s.measured cols a b).rs.full = true := by rw [hrs, h]
  have hrec : (s.measured cols a b).rebuilt cols = s.rebuilt cols := rebuilt_congr cols hrs (measured_reg cols a b rfl)
    (by rw [State.selfId, State.get, measured_reg cols a b rfl, State.selfId, State.get])
  have hkept := recordKept_full cols hfull
  rw [endCompute_eq cols a b h, hkept, hrec, recorded_full, hfull]

end

section
variable (s : State) (full : Bool)

theorem broughtUp_phase : (s.broughtUp full).phase = 9 := setPhase_phase _ (by decide)

theorem broughtUp_closed : (s.broughtUp full).xb.closed = false := rfl

theorem broughtUp_rs : (s.broughtUp full).rs = s.rs := rfl

theorem broughtUp_done : (s.broughtUp full).get GLOBAL_BOOT_STATUS_DONE = 1 := by
  rw [State.broughtUp, State.setPhase, get_put_apart _ rfl, opened_get, get_put_apart _ rfl,
    get_flag_same (by decide) (by decide)]

theorem broughtUp_full : (s.broughtUp full).get GLOBAL_RESET_CAUSE_FULL_BOOT = b2n full := by
  rw [State.broughtUp, State.setPhase, get_put_apart _ rfl, opened_get, get_put_apart _ rfl, get_flag_apart rfl,
    get_put_field (by decide) (by decide) (by cases full <;> decide)]

theorem broughtUp_reg {k : Key} (hk : [GLOBAL_RESET_CAUSE.id, GLOBAL_BOOT_STATUS.id, TUN_STATUS.id].any (Nat.beq k.id) = false) :
    (s.broughtUp full).reg k = s.reg k := by
  simp only [List.any_cons, List.any_nil, Bool.or_false, Bool.or_eq_false_iff] at hk
  obtain ⟨hcause, hboot, htun⟩ := hk
  rw [State.broughtUp, State.setPhase, reg_put_of_id _ hboot, opened_reg, reg_put_of_id _ htun, State.flag,
    reg_put_of_id _ hboot, reg_put_of_id _ hcause]

end

/-! ## The other phases -/

theorem ringsFull_rs (s : State) : s.ringsFull.rs = s.rs := by
  unfold State.ringsFull
  refine foldl_same State.rs _ _ fun t i _ => ?_
  split
  · rfl
  · rfl

theorem linkTrained_rs (lanes rate : Nat) : (s.linkTrained lanes rate).rs = s.rs := by
  rw [State.linkTrained, put_rs, put_rs, put_rs]

theorem cxlTrained_rs (x16 gt64 : Bool) : (s.cxlTrained x16 gt64).rs = s.rs := by
  rw [cxlTrained_eq, ringsFull_rs, linkTrained_rs]

theorem endCxl_eq (up x16 gt64 : Bool) : s.endCxl up x16 gt64 =
    (let u := if up && !s.rs.perst then s.cxlTrained x16 gt64 else s
     if s.rs.wait = some 1 then u.flag GLOBAL_BOOT_STATUS_WAIT_CXL else u.reachHold) := by
  unfold State.endCxl
  extract_lets u
  have hu : u.rs = s.rs := by
    by_cases h : (up && !s.rs.perst) = true
    · exact (congrArg State.rs (if_pos h)).trans (cxlTrained_rs x16 gt64)
    · exact congrArg State.rs (if_neg h)
  clear_value u
  rw [hu]

theorem repairSram_eq (faults : List Nat) : s.repairSram faults =
    (let more := (faults.filter (fun x => !s.rs.boot.sram.contains x)).eraseDups
     let all := if s.rs.full then faults.eraseDups else s.rs.boot.sram ++ more
     let u : State := { s with rs := { s.rs with sram := all } }
     if s.rs.full = true ∨ more = [] then u else u.putRecord { s.rs.boot with sram := all }) := by
  unfold State.repairSram
  by_cases hfull : s.rs.full = true
  · simp only [hfull, if_true, true_or]
  · simp only [hfull, Bool.false_eq_true, if_false, false_or, List.isEmpty_iff]

theorem reachHold_eq : s.reachHold =
    if s.on GLOBAL_BOOT_STATUS_RELEASED = true then (s.setPhase 6).leaveHold else s.setPhase 6 := by
  have hon : (s.setPhase 6).on GLOBAL_BOOT_STATUS_RELEASED = s.on GLOBAL_BOOT_STATUS_RELEASED := by
    rw [on_eq_get, on_eq_get, State.setPhase, get_put_apart _ rfl]
  by_cases h : s.on GLOBAL_BOOT_STATUS_RELEASED = true
  · rw [if_pos h, State.reachHold]
  · rw [if_neg h, State.reachHold, State.leaveHold, if_neg fun hc => h (hon ▸ hc.1)]

theorem endMaltster_first (h : s.rs.wait = none) (bytes : List Byte) : s.endMaltster bytes =
    (let bs := s.pa.flash.getD bytes
     let u : State := { s with pa := { s.pa with flash := some bs } }
     if u.imageStatus bs = 0 then u.bootImage 0 bs else u.trySource (s.get GLOBAL_STRAPS_BOOT_SRC)) := by
  refine (if_pos (Or.inl h)).trans (ite_congr rfl (fun _ => rfl) fun _ => ?_)
  unfold State.nextSource
  change (match s.rs.wait with | none => _ | some k => _) = _
  rw [h]
  rfl

section
variable (store : Bool) (fac : BitVec 3) (wr : BitVec 32) (pr re : BitVec 4) (t : State)

theorem calibrated_rs : (t.calibrated store fac wr pr re).rs =
    t.rs.calRead (store && !t.rs.storeBad) (t.rs.storeHead.getD (fac.toNat, wr.toNat)) := sensed_rs ..

theorem calibrated_valid : (t.calibrated store fac wr pr re).get CAL_STATUS_VALID = b2n (store && !t.rs.storeBad) :=
  sensed_valid ..

theorem calibrated_present : (t.calibrated store fac wr pr re).get PORT_LSU_PRESENT = pr.toNat := sensed_present _ _ _ _ _ _ pr.isLt

theorem calibrated_ready : (t.calibrated store fac wr pr re).get PORT_LSU_READY = Nat.land pr.toNat re.toNat :=
  sensed_ready _ _ _ _ _ _ (Nat.lt_of_le_of_lt Nat.and_le_left pr.isLt)

end

/-- What the work of phase `k` does as it ends (R507). -/
def State.phaseWork (s : State) (k : Nat) (w : PhaseWork) : Host.Outcome State Fault Refusal :=
  match k, w with
  | 0, .romSelftest => .next (s.haltBoot 4)
  | 0, .image bytes => .next (s.endMaltster bytes)
  | 1, .clock board store fac wr pr re => .next (s.endClock board store fac wr pr re)
  | 2, .sramBad => .next (s.haltBoot 3)
  | 2, .pass => .next (s.repairSram []).endSram
  | 2, .sram faults => .next (s.repairSram faults).endSram
  | 3, .pass => .next (s.setPhase 4)
  | 4, .hbm4e ok rows => .next (s.endStacks ok rows)
  | 5, .cxl up x16 gt64 => .next (s.endCxl up x16 gt64)
  | 7, .pass => .next (if s.rs.wait = none then s.startCompute else s)
  | 8, .compute cols a b => .next (if s.rs.core then s else s.endCompute cols a b)
  | _, _ => .next s

theorem exec_phaseEnd (hboot : s.booting = true) {k : Nat} (hk : s.phase = k) (w : PhaseWork) :
    exec (.bringupPhaseEnd w) s = s.phaseWork k w := by
  change execBringupPhaseEnd w s = _
  unfold execBringupPhaseEnd
  rw [if_pos hboot, hk]
  rfl

end

/-- Settles O40: a transfer's end through `imageCame`, the image that runs through the registers that show it, each phase by
its work, and the end of phase 8 through the state before the rings are looked at. -/
theorem bringup : Obligations.Bringup := by
  unfold Obligations.Bringup
  refine ⟨fun line host crc ok s hboot hmove => ⟨?_, ?_, ?_⟩, ?_, ?_, ?_, fun s => reachHold_eq, ?_⟩
  · intro hwait bs r
    have hr : s.imageCame (s.imageBytes line host) ok = r := by rw [imageBytes_host hwait, imageCame_host _ hwait]
    refine ⟨(exec_imageTransferEnd hboot hmove (by rw [hwait]; decide)).trans ?_, (exec_imageTransferStall hboot hmove).trans ?_⟩
    · rw [imageSound_host hwait, hr]
    · rw [imageSound_host hwait, hr]
  · intro hwait bs r
    have hcame : ∀ b : Bool, s.imageCame (s.imageBytes line host) b =
        if s.imageStatus bs = 0 ∧ b = true then s.bootImage 2 bs else s.nextSource := fun b => by
      rw [imageBytes_uart hwait, imageCame_uart _ hwait]
    have hr : s.imageCame (s.imageBytes line host) true = r := (hcame true).trans
      (ite_congr (propext (and_iff_left rfl)) (fun _ => rfl) fun _ => rfl)
    have hno : s.imageCame (s.imageBytes line host) false = s.nextSource := (hcame false).trans
      (if_neg fun h => Bool.false_ne_true h.2)
    have hend := exec_imageTransferEnd (line := line) (host := host) (crc := crc) (ok := ok) hboot hmove (by rw [hwait]; decide)
    have hstall := exec_imageTransferStall (line := line) (host := host) (crc := crc) (ok := ok) hboot hmove
    refine ⟨?_, ?_⟩
    · rintro rfl
      rw [hend, hstall, imageSound_uart_none hwait, imageSound_uart_none hwait, Bool.not_true, Bool.not_false, hr, hno]
      exact ⟨rfl, rfl⟩
    · rintro c rfl
      rw [hend, hstall, imageSound_uart_crc hwait, imageSound_uart_crc hwait]
      refine ⟨congrArg Host.Outcome.next ?_, rfl⟩
      by_cases hc : c.toNat = crc32 bs
      · rw [if_pos hc, decide_eq_true hc, hr]
      · rw [if_neg hc, decide_eq_false hc, hno]
  · intro hwait hlen hasked hall bs
    refine (exec_imageTransferEnd_neighbour hboot hmove hlen hasked hall).trans ?_
    rw [imageSound_neighbour hwait, imageCame_neighbour hwait]
  · intro s src bs hsrc t h
    refine ⟨bootImage_fw s src bs, bootImage_svn s src bs, bootImage_slot s src bs, bootImage_source s src bs hsrc,
      bootImage_recovered s src bs, setPhase_phase _ (by decide), ?_, ?_⟩
    · exact (congrArg (·.rs.wait) (bootImage_eq s src bs) :)
    · exact (congrArg (·.pa.hashes) (bootImage_eq s src bs) :)
  · intro s k hwait hk hboot hidle
    change execBootSourceWaitExpire s = _
    obtain ⟨j, rfl⟩ := Nat.exists_eq_add_of_le' hk
    unfold execBootSourceWaitExpire State.nextSource
    rw [hwait]
    exact if_pos ⟨hboot, hidle⟩
  · intro s hboot
    have hwork : ∀ {k : Nat}, s.phase = k → ∀ w, exec (.bringupPhaseEnd w) s = s.phaseWork k w :=
      fun hk w => exec_phaseEnd hboot hk w
    refine ⟨fun hk => hwork hk _, ?_, ?_, fun hk => hwork hk _, ?_, fun hk => (hwork hk _).trans (hwork hk (.sram [])).symm,
      fun h => ?_, fun h => ?_, fun h => ?_, fun hk => hwork hk _, fun ok rows hk => hwork hk _, ?_, ?_, ?_⟩
    · intro bytes hk hwait bs u
      exact (hwork hk _).trans (congrArg Host.Outcome.next (endMaltster_first hwait bytes))
    · intro store fac wr pr re hk
      refine ⟨fun hmode b => ?_, fun hmode => ?_, fun hmode => ?_, fun hmode b => ?_⟩
      · exact (hwork hk _).trans (congrArg Host.Outcome.next (if_pos hmode))
      · exact (hwork hk _).trans (congrArg Host.Outcome.next ((if_neg (by omega)).trans (if_pos ⟨hmode, rfl⟩)))
      · refine ⟨_, (hwork hk _).trans (congrArg Host.Outcome.next (endClock_done s true store fac wr pr re (by omega)
          fun h => Bool.false_ne_true h.2.symm)), calibrated_phase .., ?_⟩
        rw [calibrated_clk, calibrated_rs, calibrated_valid, calibrated_present, calibrated_ready, clocked_own s hmode, put_rs]
        exact ⟨rfl, rfl, rfl, rfl, rfl, get_put_field (by decide) (by decide) (Nat.lt_of_le_of_lt hmode (by decide))⟩
      · refine ⟨_, (hwork hk _).trans (congrArg Host.Outcome.next (endClock_done s b store fac wr pr re (by omega)
          fun h => by omega)), calibrated_phase .., ?_⟩
        rw [calibrated_clk, clocked_fabric s hmode]
    · intro faults hk more all u v
      exact (hwork hk _).trans (congrArg (fun t : State => Host.Outcome.next t.endSram) (repairSram_eq faults))
    · rw [State.endSram, h]
      rfl
    · exact if_pos h
    · rw [State.endSram, h]
      rfl
    · intro up x16 gt64 hk u
      exact (hwork hk _).trans (congrArg Host.Outcome.next (endCxl_eq up x16 gt64))
    · intro hk hwait
      exact (hwork hk _).trans (congrArg Host.Outcome.next (if_pos hwait))
    · intro cols a b hk hcore
      exact (hwork hk _).trans (congrArg Host.Outcome.next (if_neg (Bool.not_eq_true _ ▸ hcore)))
  · intro s cols a b hfull
    refine ⟨_, endCompute_full cols a b hfull, broughtUp_phase _ true, broughtUp_closed _ true, broughtUp_done _ true,
      broughtUp_full _ true, fun i hi => ?_, ?_, ?_⟩
    · rw [State.rd, broughtUp_reg _ _ rfl, recorded_reg]
      exact measured_cost cols a b hi
    · rw [broughtUp_rs]
      rfl
    · rw [State.get, broughtUp_reg _ _ rfl, recorded_reg]
      exact measured_count cols a b

end Sys2Proof.Machine
end

section
/-! # The work rings (R47, R50, R137, R138, R140, R404, R405, R408) -/
namespace Sys2Proof.Machine

section
variable {s u : State} {n r : Nat}

/-! ## A completion record written -/

/-- The producer index moved on after a completion record, with one less outstanding (R405). -/
def State.cqAdvanced (u : State) (n r prod : Nat) : State :=
  let v := u.put (RING_CQ_PROD_IDX n r) (prod + 1)
  (v.put (RING_STATUS_OUTSTANDING n r) (v.get (RING_STATUS_OUTSTANDING n r) - 1)).ringFull n r

section
variable (u n r) (prod : Nat)

theorem cqAdvanced_hbm : (u.cqAdvanced n r prod).hbm = u.hbm := by
  unfold State.cqAdvanced State.ringFull
  extract_lets v
  rw [put_hbm, put_hbm]
  exact put_hbm u _ _

theorem cqAdvanced_out : (u.cqAdvanced n r prod).out = u.out := by
  unfold State.cqAdvanced State.ringFull
  extract_lets v
  rw [put_out, put_out]
  exact put_out u _ _

theorem cqAdvanced_hm : (u.cqAdvanced n r prod).hm = u.hm := by
  unfold State.cqAdvanced State.ringFull
  extract_lets v
  rw [put_hm, put_hm]
  exact put_hm u _ _


theorem cqAdvanced_idx : (u.cqAdvanced n r prod).get (RING_CQ_PROD_IDX n r) = (prod + 1) % 2 ^ 32 := by
  unfold State.cqAdvanced State.ringFull
  extract_lets v
  rw [get_put_of_id _ rfl, get_put_of_id _ rfl]
  exact get_put_rem u _ _ (by decide) (by decide) rfl

theorem cqAdvanced_vec : (u.cqAdvanced n r prod).get (RING_CFG_VEC n r) = u.get (RING_CFG_VEC n r) := by
  unfold State.cqAdvanced State.ringFull
  extract_lets v
  rw [get_put_of_id _ rfl, get_put_of_id _ rfl]
  exact get_put_of_id _ rfl

end

/-- The message of a completion record that asks for one (R408). -/
def State.cqTold (u : State) (n r : Nat) (irq : Bool) : State := if irq then u.sendMsix (u.get (RING_CFG_VEC n r)) else u

theorem cqTold_hbm (irq : Bool) : (u.cqTold n r irq).hbm = u.hbm := by
  cases irq with
  | false => rfl
  | true => exact sendMsix_hbm u _

theorem cqTold_get (irq : Bool) (f : Fld) : (u.cqTold n r irq).get f = u.get f := by
  cases irq with
  | false => rfl
  | true => exact sendMsix_get u _ f

theorem sendMsix_out_congr (v : Nat) (hout : u.out = s.out) (hhm : u.hm = s.hm) : (u.sendMsix v).out = (s.sendMsix v).out := by
  rw [sendMsix_out, sendMsix_out, hout, State.msixMasked, State.msixWord, hhm]
  rfl

theorem cqTold_out (irq : Bool) (hout : u.out = s.out) (hhm : u.hm = s.hm)
    (hvec : u.get (RING_CFG_VEC n r) = s.get (RING_CFG_VEC n r)) :
    (u.cqTold n r irq).out = (if irq then s.sendMsix (s.get (RING_CFG_VEC n r)) else s).out := by
  cases irq with
  | false => exact hout
  | true =>
    change (u.sendMsix _).out = (s.sendMsix _).out
    rw [hvec]
    exact sendMsix_out_congr _ hout hhm

/-- The first word of a completion record, with the phase of its pass over the queue (R405). -/
def State.cqPhased (s : State) (n r : Nat) (c : CqRec) : List Byte :=
  wordsBytes [setBits c.w0 16 16 (b2n (s.get (RING_CQ_PROD_IDX n r) / s.ringSize n r % 2 == 0)), c.w1]

/-- Where the next completion record goes. -/
def State.cqSlot (s : State) (n r : Nat) : Nat :=
  s.get (RING_CQ_BASE_ADDR n r) * 4096 + 16 * (s.get (RING_CQ_PROD_IDX n r) % s.ringSize n r)

section
variable {c : CqRec} {write : Nat → List Byte → State → Bool × State}

theorem cqWrite_done (h : write (s.cqSlot n r) (s.cqPhased n r c) s = (true, u)) :
    s.cqWrite n r c write = (true, (u.cqAdvanced n r (s.get (RING_CQ_PROD_IDX n r))).cqTold n r c.irq) := by
  unfold State.cqSlot State.cqPhased at h
  unfold State.cqWrite
  extract_lets prod size w0
  rw [h]
  rfl

theorem cqWrite_failed (h : write (s.cqSlot n r) (s.cqPhased n r c) s = (false, u)) : s.cqWrite n r c write = (false, u) := by
  unfold State.cqSlot State.cqPhased at h
  unfold State.cqWrite
  extract_lets prod size w0
  rw [h]
  rfl

end

section
variable {n : Part} {r : RingId} {c : CqRec} {rest : List CqRec} (hretry : (s.ring n r).retry = c :: rest)

/-- The write of a completion record that waits: to host memory, which needs the CXL link, or to HBM4E. -/
def State.cqPlaced (s : State) (n r : Nat) (ok : Bool) (a : Nat) (b : List Byte) (t : State) : Bool × State :=
  if s.on (RING_CQ_BASE_LOC n r) then (ok && s.cxlUp, if ok && s.cxlUp then t.emit (.hostWrite a b) else t)
  else (ok, if ok then t.hbmWrite a b else t)

theorem cqPlaced_local {ok : Bool} {a : Nat} {b : List Byte} (hloc : s.on (RING_CQ_BASE_LOC n.val r.val) = false) :
    s.cqPlaced n.val r.val ok a b s = (ok, if ok then s.hbmWrite a b else s) := if_neg (Bool.not_eq_true _ ▸ hloc)

theorem cqPlaced_host {ok : Bool} {a : Nat} {b : List Byte} (hloc : s.on (RING_CQ_BASE_LOC n.val r.val) = true) :
    s.cqPlaced n.val r.val ok a b s = (ok && s.cxlUp, if ok && s.cxlUp then s.emit (.hostWrite a b) else s) := if_pos hloc

include hretry

theorem exec_cqRecordRetry (ok : Bool) : exec (.cqRecordRetry n r ok) s =
    (let w := s.cqWrite n.val r.val c (s.cqPlaced n.val r.val ok)
     if w.1 then .next (w.2.setRing n.val r.val { w.2.ring n.val r.val with retry := rest })
     else .next (w.2.flag (RING_STATUS_CQ_ERR n.val r.val))) := by
  change execCqRecordRetry n r ok s = _
  unfold execCqRecordRetry
  extract_lets q p x
  have hx : x.retry = c :: rest := hretry
  rw [hx]
  rfl

theorem cqRetry_failed {ok : Bool} (h : s.cqPlaced n.val r.val ok (s.cqSlot n.val r.val) (s.cqPhased n.val r.val c) s = (false, s)) :
    exec (.cqRecordRetry n r ok) s = .next (s.put (RING_STATUS_CQ_ERR n r) 1) := by
  rw [exec_cqRecordRetry hretry, cqWrite_failed h]
  rfl

/-- What a record that waited leaves once it is written. -/
theorem cqRetry_done {ok : Bool} (h : s.cqPlaced n.val r.val ok (s.cqSlot n.val r.val) (s.cqPhased n.val r.val c) s = (true, u))
    (hvec : u.get (RING_CFG_VEC n r) = s.get (RING_CFG_VEC n r)) :
    ∃ t : State, exec (.cqRecordRetry n r ok) s = .next t ∧
      t.get (RING_CQ_PROD_IDX n r) = (s.get (RING_CQ_PROD_IDX n r) + 1) % 2 ^ 32 ∧ (t.ring n r).retry = rest ∧ t.hbm = u.hbm ∧
      t.out = (if c.irq then u.sendMsix (s.get (RING_CFG_VEC n r)) else u).out := by
  have hexec := exec_cqRecordRetry hretry ok
  rw [cqWrite_done h] at hexec
  refine ⟨_, hexec, ?_, ?_, ?_, ?_⟩
  · exact (cqTold_get _ _).trans (cqAdvanced_idx ..)
  · exact (congrArg Ring.retry (mget_mset_same ring0 _ _ _) :)
  · exact (cqTold_hbm _).trans (cqAdvanced_hbm ..)
  · rw [← hvec]
    exact cqTold_out c.irq (cqAdvanced_out ..) (cqAdvanced_hm ..) (cqAdvanced_vec ..)

end

/-! ## Fetches, heads and fences -/

section
variable (n : Part) (r : RingId)

theorem exec_descriptorFetch (hfetch : s.mayFetch n r = true) (hroom : s.cqRoom n r = true) :
    exec (.descriptorFetch n r) s =
      (let idx := (s.get (RING_CONS_IDX n r) + (s.ring n r).fetching.length) % 2 ^ 32
       let t := s.setRing n r { s.ring n r with fetching := (s.ring n r).fetching ++ [idx] }
       let t := t.put (RING_STATUS_OUTSTANDING n r) (s.get (RING_STATUS_OUTSTANDING n r) + 1)
       .next ((if s.on (RING_BASE_LOC n r) then
         t.emit (.hostRead (s.get (RING_BASE_ADDR n r) * 4096 + 64 * (idx % s.ringSize n r)) 64) else t).ringFull n r)) := by
  refine (if_pos (by rw [hfetch, hroom]; rfl)).trans (congrArg (fun t : State => Host.Outcome.next (t.ringFull n r)) ?_)
  refine ite_congr (congrArg (· = true) ?_) (fun _ => rfl) fun _ => rfl
  exact congrArg (· == 1) (get_put_of_id (g := RING_BASE_LOC n r) _ rfl)

theorem exec_fetchComplete_ok {bytes : List Byte} {idx : Nat} {rest : List Nat} (h : (s.ring n r).fetching = idx :: rest) :
    exec (.fetchComplete n r (.ok bytes)) s =
      (let a := s.get (RING_BASE_ADDR n r) * 4096 + 64 * (idx % s.ringSize n r)
       let d : Desc := ⟨idx, bytesWords 8 (if s.on (RING_BASE_LOC n r) then bytes else s.hbmRead a 64), false, false, 0, none, false⟩
       let t := s.setRing n r { s.ring n r with fetching := rest, descs := (s.ring n r).descs ++ [d] }
       .next ((t.put (RING_CONS_IDX n r) (idx + 1)).ringFull n r)) := by
  change execFetchComplete n r (.ok bytes) s = _
  unfold execFetchComplete
  extract_lets q p x
  have hx : x.fetching = idx :: rest := h
  rw [hx]

theorem exec_fetchComplete_error (h : (s.ring n r).fetching ≠ []) :
    exec (.fetchComplete n r .error) s =
      (let t := (s.setRing n r { s.ring n r with fetching := [] }).put (RING_STATUS_FETCH_ERR n r) 1
       .next ((t.put (RING_STATUS_OUTSTANDING n r)
        (t.get (RING_STATUS_OUTSTANDING n r) - (s.ring n r).fetching.length)).ringFull n r)) := by
  obtain ⟨idx, rest, hcons⟩ := List.exists_cons_of_ne_nil h
  change execFetchComplete n r .error s = _
  unfold execFetchComplete
  extract_lets q p x t
  have hx : x.fetching = idx :: rest := hcons
  rw [hx]
  rfl

theorem exec_deferLimitTimeout {d : Desc} {rest : List Desc} (h : (s.ring n r).descs = d :: rest) (hspent : d.spent = true) :
    exec (.deferLimitTimeout n r) s = .next ((s.takeHead n r).complete n r d.idx d.words 9 0 0) := by
  change execDeferLimitTimeout n r s = _
  unfold execDeferLimitTimeout
  rw [h]
  exact if_pos hspent

theorem exec_fenceComplete_thread {c : Core} {t : Thread} {scope : Nat} (hwait : (s.thread c t).wait = .fence scope)
    (hheld : mget [] s.tr.held (engThread c t) = []) (hdrained : s.drained c t scope = true) :
    exec (.fenceComplete (.thread c t)) s = .next (s.setThread c t { s.thread c t with wait := .none, seqst := 0 }) := by
  change execFenceComplete (.thread c t) s = _
  unfold execFenceComplete
  extract_lets h
  have hh : h.wait = .fence scope := hwait
  dsimp only
  rw [hh]
  exact if_pos (by rw [hheld, hdrained]; rfl)

theorem exec_fenceComplete_ring {d : Desc} {rest : List Desc} (h : (s.ring n r).descs = d :: rest)
    (hfence : dFence (wd d.words 0) = true) (hopen : (s.ring n r).open_ = []) (hretry : (s.ring n r).retry = []) :
    exec (.fenceComplete (.ring n r)) s = .next (s.setRing n r { s.ring n r with
      descs := { d with words := setBits (wd d.words 0) 12 12 0 :: d.words.drop 1 } :: rest }) := by
  change execFenceComplete (.ring n r) s = _
  unfold execFenceComplete
  extract_lets x
  have hx : x.descs = d :: rest := h
  have hfree : ringFenced x d = false := by
    rw [ringFenced, show x.open_ = [] from hopen, show x.retry = [] from hretry]
    exact Bool.and_false _
  dsimp only
  rw [hx]
  exact if_pos (by rw [hfence, hfree]; rfl)

end
end

/-- Settles O11: a record that waited through what its write leaves, the others by the branches that their premises choose. -/
theorem workRings : Obligations.WorkRings := by
  unfold Obligations.WorkRings
  refine ⟨fun n r s hfetch hroom => exec_descriptorFetch n r hfetch hroom,
    fun n r bytes s idx rest h => exec_fetchComplete_ok n r h, fun n r s h => exec_fetchComplete_error n r h, ?_, ?_,
    fun now s h => congrArg Host.Outcome.next (if_pos h),
    fun n r s d rest h hspent => exec_deferLimitTimeout n r h hspent,
    fun c t s scope hwait hheld hdrained => exec_fenceComplete_thread hwait hheld hdrained,
    fun n r s d rest h hfence hopen hretry => exec_fenceComplete_ring n r h hfence hopen hretry,
    fun c t s => rfl⟩
  · intro n r s c rest h hloc prod a w0
    refine ⟨cqRetry_failed h (cqPlaced_local hloc), ?_⟩
    obtain ⟨t, hexec, hidx, hretry, hhbm, hout⟩ := cqRetry_done (ok := true) h (cqPlaced_local hloc) rfl
    exact ⟨t, hexec, hhbm, hidx, hretry, hout.trans (cqTold_out (u := s.hbmWrite a (wordsBytes [w0, c.w1])) c.irq rfl rfl rfl)⟩
  · intro n r ok s c rest h hloc prod a w0 sent
    refine ⟨fun hok => cqRetry_failed h ((cqPlaced_host hloc).trans (by rw [hok]; rfl)), fun hok => ?_⟩
    obtain ⟨t, hexec, hidx, hretry, hhbm, hout⟩ := cqRetry_done (u := sent) (ok := ok) h
      ((cqPlaced_host hloc).trans (by rw [hok]; rfl)) rfl
    exact ⟨t, hexec, hidx, hretry, hhbm, hout⟩

end Sys2Proof.Machine
end

section
/-! # Tile moves: a move of a partition whose tracker has room waits while an older request of the partition is stalled (R125) -/
namespace Sys2Proof.Machine

/-- A tile move of a step of partition 0, from endpoint 1 to endpoint 1. -/
def waitingMove : Move :=
  { mover := 0, part := 0, tag := 0, gen := 0, src := 0x1000000000000, dst := 0x1000000000000, len := 64, tc := 0, lcEn := false,
    lcMode := false, lcIdx := 0, grantS := none, grantD := none, failS := none, failD := none, fail := none, reads := 0,
    issued := false, closed := false, aborted := false, doneS := false, doneD := none, bytes := 0, owner := .step 0 0 }

/-- The move waits, and so does an older request of partition 0, whose share of the tracker has an entry free. -/
def moveBehindStall : State :=
  ({ tr := { queued := [waitingMove], stalled := [(ReqForm.pkt { opcode := 1, part := 0, src := 0, dst := 0, addr := 0 }, .ikio)] } } :
    State).setReg (TRACK_PART_SHARE 0) 1

theorem moveBehindStall_next : takeFirst (fun (x : Move) => x.mover == 0 && x.ofStep) moveBehindStall.tr.queued =
    some (waitingMove, []) := by decide

theorem moveBehindStall_room : moveBehindStall.trackRoom waitingMove.part = true := by decide

theorem moveBehindStall_trackOpen : moveBehindStall.trackOpen waitingMove.part = false := by decide

theorem tileMoveStart_stalls : exec (.tileMoveStart 0) moveBehindStall = .next (moveBehindStall.bump TRACK_STALL_COUNT) := by
  change execTileMoveStart 0 moveBehindStall = _
  unfold execTileMoveStart
  rw [if_neg (by decide)]
  extract_lets pick
  have hpick : pick = some (waitingMove, []) := by rfl
  rw [hpick]
  exact if_neg (by rw [moveBehindStall_trackOpen]; decide)

/-- A tracker entry opened counts in its partition's share, and changes no other register. -/
theorem openEntry_shareOnly (s : State) (p : Pkt) (i : Issuer) (other : Nat) :
    RegsBut [(TRACK_PART_SHARE 0).id] s (s.openEntry p i other).2 :=
  RegsBut.put ((RegsBut.refl _ s).same rfl) _ rfl

theorem setMove_regs (s : State) (id : Nat) (m : Move) : (s.setMove id m).regs = s.regs := rfl

/-- Refutes O12: room in the partition's share does not let a move start while an older request of the partition is stalled
(R125): the move of `moveBehindStall` stalls, which counts, and the clause has it sent, which counts no stall. -/
theorem not_movesAndCollectives : ¬ Obligations.MovesAndCollectives := by
  unfold Obligations.MovesAndCollectives
  rintro ⟨-, hstart, -⟩
  have hsent := hstart 0 moveBehindStall waitingMove [] (fun e he => absurd he List.not_mem_nil) moveBehindStall_next
    moveBehindStall_room (by decide) (by decide) (by decide) (by decide)
  have hstate := Host.Outcome.next.inj (tileMoveStart_stalls.symm.trans hsent)
  have hregs := congrArg State.regs hstate
  rw [send_regs, send_regs, setMove_regs] at hregs
  have hcount : (moveBehindStall.bump TRACK_STALL_COUNT).reg TRACK_STALL_COUNT = moveBehindStall.reg TRACK_STALL_COUNT := by
    rw [State.reg, hregs]
    exact openEntry_shareOnly _ _ _ _ TRACK_STALL_COUNT rfl
  exact absurd hcount (by decide)

end Sys2Proof.Machine
end

section
/-! # Slice loads (R263, R264, R308, R316) -/
namespace Sys2Proof.Machine

section
variable {s : State} {l : SliceLoad} {rest : List SliceLoad}

/-! ## The start of a load -/

/-- What a load's start finds of its rows. -/
def State.loadRuns (s : State) (l : SliceLoad) : Trans :=
  s.runsTrans l.part (wd l.words 1).toNat (tunSources l.words (tjN l.words))

section
variable (hload : s.tu.loads = l :: rest) (hidle : l.started = false)
  (hfree : ∀ x ∈ s.tu.jobs.filterMap s.step?, dType (wd x.words 0) = 3 → tjSlice x.words ≠ tjSlice l.words)
include hidle hfree

theorem loadUnnamed : (l.started || (s.tu.jobs.filterMap s.step?).any
    (fun x => dType (wd x.words 0) == 3 && tjSlice x.words == tjSlice l.words)) = false := by
  rw [hidle, Bool.false_or, List.any_eq_false]
  intro x hx hnamed
  obtain ⟨htype, hslice⟩ := (Bool.and_eq_true _ _).mp hnamed
  exact hfree x hx (beq_iff_eq.mp htype) (beq_iff_eq.mp hslice)

include hload

/-- A load waits for the switch of a move that has closed an extent of its rows (R316). -/
theorem sliceLoadStart_waits (hclosed : s.closedIn (s.loadRuns l).pieces ≠ []) : exec .sliceLoadStart s = .next s := by
  change execSliceLoadStart s = _
  unfold execSliceLoadStart
  rw [hload]
  dsimp only
  rw [loadUnnamed hidle hfree]
  refine (if_neg Bool.false_ne_true).trans (if_pos ?_)
  rw [Bool.not_eq_true', List.isEmpty_eq_false_iff]
  exact hclosed

section
variable (hclosed : s.closedIn (s.loadRuns l).pieces = [])
include hclosed

theorem sliceLoadStart_faults {f : PageFail} (hfault : decided (s.loadRuns l).fails (s.loadRuns l).needs = some f) :
    exec .sliceLoadStart s =
      (let r := s.jobFault l.part (wd l.words 1) ((tjN l.words - 1) * wb l.words 7 31 0 + rowSpan (tjIn l.words) (tjK l.words)) f
       .next (r.2.endLoad l (s.reg (TUN_SLICE_A (tjSlice l.words))) (s.reg (TUN_SLICE_B (tjSlice l.words))) r.1)) := by
  unfold State.loadRuns at hclosed hfault
  change execSliceLoadStart s = _
  unfold execSliceLoadStart
  rw [hload]
  dsimp only
  rw [loadUnnamed hidle hfree, hclosed, hfault]
  rfl

variable (hok : decided (s.loadRuns l).fails (s.loadRuns l).needs = none)
include hok

theorem sliceLoadStart_denied (hdenied : s.loadDenied l = true) : exec .sliceLoadStart s =
    .next (s.endLoad l (s.reg (TUN_SLICE_A (tjSlice l.words))) (s.reg (TUN_SLICE_B (tjSlice l.words))) stACCESS_DENIED) := by
  unfold State.loadRuns at hclosed hok
  change execSliceLoadStart s = _
  unfold execSliceLoadStart
  rw [hload]
  dsimp only
  rw [loadUnnamed hidle hfree, hclosed, hok]
  exact (if_neg Bool.false_ne_true).trans ((if_neg (by decide)).trans (if_pos hdenied))

/-- A slice's entry shown as loading. -/
def State.loadShown (s : State) (l : SliceLoad) : State :=
  ((s.setReg (TUN_SLICE_A (tjSlice l.words)) (sliceA 1 l.part l.words)).setReg (TUN_SLICE_B (tjSlice l.words))
    (sliceB l.words (s.loadBase l / 262144))).put TUN_STATUS_LOADING 1

/-- The chunks of a load's rows. -/
def SliceLoad.chunks (l : SliceLoad) : List (Nat × Nat × Nat) :=
  let cs := rowChunks (tjIn l.words) (tjK l.words)
  ((tunSources l.words (tjN l.words)).mapIdx (fun r x => cs.map (fun c =>
    (r * cs.length + c.1, x.1 + 256 * c.1, chunkBytes (tjIn l.words) c.2)))).flatten

/-- A load as it starts, with its entry as it was and the translations that it holds (log 155). -/
def State.loadStarted (s : State) (l : SliceLoad) : SliceLoad :=
  { l with
    started := true, oldA := s.reg (TUN_SLICE_A (tjSlice l.words)), oldB := s.reg (TUN_SLICE_B (tjSlice l.words)),
    uses := (s.loadRuns l).pieces.flatMap (·.uses) }

theorem sliceLoadStart_reads (hallowed : s.loadDenied l = false) : exec .sliceLoadStart s =
    .next (if (tunSources l.words (tjN l.words)).all (fun r => s.ownAddr (BitVec.ofNat 64 r.1)) &&
        (foreignAt (s.loadRuns l)).isNone then
      (s.loadShown l).setLoad { s.loadStarted l with
        got := l.chunks.map (fun c => (c.1, ((s.loadShown l).jobBytes l.part (BitVec.ofNat 64 c.2.1) c.2.2).getD [])) }
      else (s.loadShown l).loadNext { s.loadStarted l with todo := l.chunks }) := by
  unfold State.loadRuns at hclosed hok
  unfold State.loadStarted State.loadRuns
  change execSliceLoadStart s = _
  unfold execSliceLoadStart
  rw [hload]
  dsimp only
  rw [loadUnnamed hidle hfree, hclosed, hok]
  refine (if_neg Bool.false_ne_true).trans ((if_neg (by decide)).trans ((if_neg (Bool.not_eq_true _ ▸ hallowed)).trans ?_))
  split
  · rfl
  · rfl

end
end

/-! ## The end of a load -/

section
variable (hnow : s.loadNow = some l) (a : Option WordFault)
include hnow

theorem sliceLoadEnd_kept {st : Nat} (hfail : l.fail = some (st, true)) :
    exec (.sliceLoadEnd a) s = .next ((s.tunParity st).endLoad l l.oldA l.oldB st) := by
  change execSliceLoadEnd a s = _
  unfold execSliceLoadEnd
  rw [hnow]
  dsimp only
  rw [hfail]

theorem sliceLoadEnd_emptied {st : Nat} (hfail : l.fail = some (st, false)) :
    exec (.sliceLoadEnd a) s = .next ((s.tunParity st).endLoad l 0 0 st) := by
  change execSliceLoadEnd a s = _
  unfold execSliceLoadEnd
  rw [hnow]
  dsimp only
  rw [hfail]

theorem sliceLoadEnd_parity (hfail : l.fail = none) (ha : a ≠ none) : exec (.sliceLoadEnd a) s =
    .next ((((s.wordFault a).flag TUN_STATUS_PARITY).bump TUN_PARITY_COUNT).endLoad l 0 0 stPARITY) := by
  obtain ⟨w, rfl⟩ := Option.ne_none_iff_exists'.mp ha
  change execSliceLoadEnd (some w) s = _
  unfold execSliceLoadEnd
  rw [hnow]
  dsimp only
  rw [hfail]
  rfl

theorem sliceLoadEnd_done (hfail : l.fail = none) (hwait : l.waiting = 0) (htodo : l.todo = []) :
    exec (.sliceLoadEnd none) s = .next ((s.writeSlice l).endLoad l (sliceA 2 l.part l.words)
      (sliceB l.words ((s.writeSlice l).loadBase l / 262144)) 0) := by
  change execSliceLoadEnd none s = _
  unfold execSliceLoadEnd
  rw [hnow]
  dsimp only
  rw [hfail]
  exact if_pos ⟨hwait, by rw [htodo]; rfl⟩

end
end

/-- Settles O13: the start of a load by what its translation finds, its end by how its reads went. -/
theorem sliceLoads : Obligations.SliceLoads := by
  unfold Obligations.SliceLoads
  constructor
  · intro s l rest hload hidle hfree a b src tr
    refine ⟨sliceLoadStart_waits hload hidle hfree, fun f hclosed hfault => sliceLoadStart_faults hload hidle hfree hclosed hfault,
      fun hclosed hok hdenied => sliceLoadStart_denied hload hidle hfree hclosed hok hdenied, fun hclosed hok hallowed => ?_⟩
    have hreads := sliceLoadStart_reads hload hidle hfree hclosed hok hallowed
    unfold State.loadStarted State.loadShown SliceLoad.chunks State.loadRuns at hreads
    exact hreads
  · intro a s l hnow
    refine ⟨fun st hfail => sliceLoadEnd_kept hnow a hfail, fun st hfail => sliceLoadEnd_emptied hnow a hfail,
      fun hfail ha => sliceLoadEnd_parity hnow a hfail ha, ?_⟩
    rintro hfail rfl hwait htodo
    exact sliceLoadEnd_done hnow hfail hwait htodo

end Sys2Proof.Machine
end

section
/-! # Array jobs (R266, R268, R271 to R276) -/
namespace Sys2Proof.Machine

section
variable {s : State} {x : Step}

/-! ## The start of a job -/

section
variable (hhead : s.tunHead = some x) (htype : dType (wd x.words 0) = 3) (hphase : x.phase = 0) (hfail : x.fail = none)
include htype hphase hfail

/-- What the rows of a job that starts resolve to, rows of other endpoints failing (R74). -/
def State.jobTrans (s : State) (x : Step) : Trans := s.runsTrans x.part (wd x.words 1).toNat (tunSources x.words (tjRows x.words))

/-- The first failure of a job that starts. -/
def State.jobFirstFail (s : State) (x : Step) : Option PageFail :=
  runsFail { s.jobTrans x with
    fails := (s.jobTrans x).fails ++ s.alienRuns (wd x.words 1).toNat (tunSources x.words (tjRows x.words)) }

theorem tunJobStart_starts : ¬ (dType (wd x.words 0) ≠ 3 ∨ x.phase ≠ 0 ∨ x.fail.isSome = true) := by
  rw [htype, hphase, hfail]
  decide

include hhead

theorem tunJobStart_project (hkind : tjKind x.words = 2) :
    exec .tunJobStart s = .next ((s.setStep { x with phase := 1 }).put TUN_STATUS_STATE 2) := by
  change execTunJobStart s = _
  unfold execTunJobStart
  rw [hhead]
  exact (if_neg (tunJobStart_starts htype hphase hfail)).trans (if_pos hkind)

variable (hkind : tjKind x.words ≠ 2)
include hkind

theorem tunJobStart_reads (hok : s.jobFirstFail x = none) : exec .tunJobStart s =
    .next ((({ s with tu := { s.tu with
      acts := (tunSources x.words (tjRows x.words)).map (fun (r : Nat × Nat) => s.readRow x.part (tjIn x.words) (tjK x.words) r.1)
      uses := (s.jobTrans x).pieces.flatMap (fun (c : Piece) => c.uses) } }).setStep { x with phase := 1 }).put
        TUN_STATUS_STATE 1) := by
  unfold State.jobFirstFail State.jobTrans at hok
  change execTunJobStart s = _
  unfold execTunJobStart
  rw [hhead]
  refine (if_neg (tunJobStart_starts htype hphase hfail)).trans ((if_neg hkind).trans ?_)
  dsimp only
  rw [hok]
  rfl

theorem tunJobStart_fails {f : PageFail} (hfault : s.jobFirstFail x = some f) : exec .tunJobStart s =
    (let r := s.jobFault x.part (wd x.words 1)
       ((tjRows x.words - 1) * wb x.words 7 31 0 + rowSpan (tjIn x.words) (tjK x.words)) f
     .next (r.2.setStep ({ x with phase := 1 }.failFirst r.1))) := by
  unfold State.jobFirstFail State.jobTrans at hfault
  change execTunJobStart s = _
  unfold execTunJobStart
  rw [hhead]
  refine (if_neg (tunJobStart_starts htype hphase hfail)).trans ((if_neg hkind).trans ?_)
  dsimp only
  rw [hfault]

end

/-! ## Chunks -/

theorem projectChunkTake_takes {chunk : Nat} {c : Staged} {rest : List Staged} (hhead : s.tunHead = some x)
    (htype : dType (wd x.words 0) = 3) (hkind : tjKind x.words = 2) (hphase : x.phase = 1) (hfail : x.fail = none)
    (hpos : projectPos x.words chunk < projectCount x.words) (hnew : ∀ c ∈ s.tu.taken, c.1 ≠ projectPos x.words chunk)
    (hc : takeFirst (fun (c : Staged) => c.grp == wb x.words 3 40 29 && c.part == x.part && c.num == chunk) s.tu.staged =
      some (c, rest)) :
    exec (.projectChunkTake chunk) s =
      (let i := projectPos x.words chunk
       let full := chunkBytes (tjIn x.words) (min (chunkElems (tjIn x.words)) (tjK x.words - i * chunkElems (tjIn x.words)))
       let t := (s.setStaged rest).rdxCounts c.row
       let t' : State := { t with tu := { t.tu with taken := t.tu.taken ++ [(i, c.payload)] } }
       .next (if c.payload.length ≠ full then t.setStep (x.failFirst stACCESS_DENIED)
        else if t'.tu.taken.length = projectCount x.words then t'.put TUN_STATUS_STATE 1 else t')) := by
  change execProjectChunkTake chunk s = _
  unfold execProjectChunkTake
  rw [hhead]
  refine (if_pos ⟨htype, hkind, hphase, by rw [hfail]; rfl, hpos,
    List.all_eq_true.mpr fun c hm => bne_iff_ne.mpr (hnew c hm)⟩).trans ?_
  rw [hc]
  dsimp only
  split
  · rfl
  · rfl

theorem stagedChunkExpire_late {g : Row} {chunk : Nat} {c : Staged} {rest : List Staged}
    (hc : takeFirst (fun (c : Staged) => c.row == g.val && c.num == chunk) s.tu.staged = some (c, rest))
    (hlate : c.edge + s.get RDX_CONFIG_CHUNK_LIMIT ≤ s.edge) :
    exec (.stagedChunkExpire g chunk) s = .next (((s.setStaged rest).rdxCounts g.val).stageDrop) := by
  change execStagedChunkExpire g chunk s = _
  unfold execStagedChunkExpire
  rw [hc]
  exact if_pos hlate

/-- A job whose chunks are too late (R272). -/
def State.jobLate (s : State) (id : Nat) (x : Step) : Prop :=
  id ∈ s.tu.jobs ∧ dType (wd x.words 0) = 3 ∧ tjKind x.words = 2 ∧ x.phase < 2 ∧
    x.edge + s.get RDX_CONFIG_CHUNK_LIMIT ≤ s.edge ∧ s.projectStaged x = false

theorem updWhere_find {α : Type} (p q : α → Bool) (f : α → α) (hf : ∀ a, q (if p a then f a else a) = q a) (l : List α) :
    (updWhere p f l).find? q = (l.find? q).map fun a => if p a then f a else a := by
  rw [updWhere, List.find?_map]
  exact congrArg (fun r => Option.map _ (l.find? r)) (funext hf)

/-- Every step stands as it did, but for the jobs whose chunks are too late. -/
theorem projectTimeout_steps : ∃ t : State, exec .projectTimeout s = .next t ∧ SameRegs s t [] ∧ SameMem s t ∧
    ∀ id, t.step? id = (s.step? id).map (fun x =>
      if id ∈ s.tu.jobs ∧ dType (wd x.words 0) = 3 ∧ tjKind x.words = 2 ∧ x.phase < 2 ∧
        x.edge + s.get RDX_CONFIG_CHUNK_LIMIT ≤ s.edge ∧ s.projectStaged x = false
      then x.failFirst stTIMEOUT else x) := by
  refine ⟨_, rfl, fun _ _ => rfl, ⟨rfl, rfl, rfl, rfl⟩, fun id => ?_⟩
  refine (updWhere_find _ _ _ (fun a => ?_) _).trans (Option.map_congr fun y hy => ?_)
  · split
    · rfl
    · rfl
  · have hid : y.id = id := beq_iff_eq.mp (List.find?_some hy :)
    subst hid
    refine ite_congr (propext ?_) (fun _ => rfl) fun _ => rfl
    simp only [Bool.and_eq_true, List.contains_iff_mem, beq_iff_eq, decide_eq_true_eq, Bool.not_eq_true', and_assoc]

/-! ## Output -/

/-- The rows that a job works on: its activation rows, or the one row of a `PROJECT` job's chunks. -/
def State.jobRows (s : State) (x : Step) : List (List (List Byte)) :=
  if tjKind x.words = 2
  then [(List.range (projectCount x.words)).map (fun i => ((s.tu.taken.find? (fun c => c.1 == i)).map (·.2)).getD [])]
  else s.tu.acts

/-- The rows of a job's output, in chunks. -/
def State.jobOuts (s : State) (x : Step) : List (List (List Byte)) :=
  (s.jobRows x).map (fun r => outChunks (tjOut x.words) (s.tunRow x.words r))

/-- A job puts out its rows in phase 1, and a `PROJECT` job with contributions goes on in phase 2. -/
def Step.putsOut (x : Step) : Bool := decide (x.phase = 1) || (decide (x.phase = 2) && tunSingle x.words && decide (0 < x.todo))

section
variable (hhead : s.tunHead = some x) (htype : dType (wd x.words 0) = 3) (hfail : x.fail = none) (hdue : x.putsOut = true)
  (hup : s.projectDown x = false)
include htype hfail hdue hup

theorem tunJobOutput_runs (hwhole : tjKind x.words = 2 → s.tu.taken.length = projectCount x.words) :
    ¬ (dType (wd x.words 0) ≠ 3 ∨ x.putsOut = false ∨ x.fail.isSome = true ∨ s.projectDown x = true ∨
      (tjKind x.words = 2 ∧ s.tu.taken.length ≠ projectCount x.words)) := by
  rw [htype, hfail, hdue, hup]
  rintro (h | h | h | h | ⟨hkind, h⟩)
  · exact h rfl
  · exact Bool.false_ne_true h.symm
  · exact Bool.false_ne_true h
  · exact Bool.false_ne_true h
  · exact h (hwhole hkind)

include hhead

theorem tunJobOutput_stores (hkind : tjKind x.words ≠ 2) : exec .tunJobOutput s =
    .next (s.countBusy (s.emitPkts x.id 96 ((s.jobOuts x).mapIdx (fun r cs => cs.mapIdx (fun i b =>
      let a := BitVec.ofNat 64 ((wd x.words 2).toNat + r * wb x.words 7 63 32 + 256 * i)
      jobForm s x (wd x.words 5) 2 (faEp a) a 0 b))).flatten) x.id (tunCycles x.words)) := by
  change execTunJobOutput s = _
  unfold execTunJobOutput
  rw [hhead]
  refine (if_neg (tunJobOutput_runs htype hfail hdue hup fun h => absurd h hkind)).trans (if_pos ?_)
  rw [decide_eq_false hkind]
  rfl

section
variable (hkind : tjKind x.words = 2) (hwhole : s.tu.taken.length = projectCount x.words)
include hkind hwhole

theorem tunJobOutput_multicast (hout : tjOutKind x.words = 0) : exec .tunJobOutput s =
    .next (s.countBusy (s.emitPkts x.id 97 ((s.jobOuts x).flatten.mapIdx (fun i b =>
      jobForm s x (wd x.words 5) 4 (s.mcRootOf x.part (wb x.words 3 52 41)) (faMake 0 ((wd x.words 2).toNat % 2 ^ 48 + 256 * i))
        (BitVec.ofNat 64 (wb x.words 3 52 41)) b))) x.id (tunCycles x.words)) := by
  change execTunJobOutput s = _
  unfold execTunJobOutput
  rw [hhead]
  refine (if_neg (tunJobOutput_runs htype hfail hdue hup fun _ => hwhole)).trans ((if_neg ?_).trans (if_pos hout))
  rw [decide_eq_true hkind]
  exact Bool.false_ne_true

theorem tunJobOutput_contributes (hout : tjOutKind x.words ≠ 0) : exec .tunJobOutput s =
    (let g := (s.tunOutRow x.part x.words).getD 0
     let root := s.get (RDX_COLL_B_ROOT_EP g)
     .next (s.countBusy (s.emitContribs x.id root ((s.jobOuts x).flatten.mapIdx (fun i b =>
      jobForm s x (wd x.words 5) 5 root (faMake 0 ((wd x.words 2).toNat % 2 ^ 48)) (redWord (wb x.words 3 52 41)
        (s.get (RDX_GROUP_A_RED_OP g)) (tjOut x.words) (s.get (RDX_GROUP_A_MODE g)) (wb x.words 5 49 37)
        ((wb x.words 7 35 6 + i) % 2 ^ 30)) b))) x.id (tunCycles x.words))) := by
  change execTunJobOutput s = _
  unfold execTunJobOutput
  rw [hhead]
  refine (if_neg (tunJobOutput_runs htype hfail hdue hup fun _ => hwhole)).trans ((if_neg ?_).trans (if_neg hout))
  rw [decide_eq_true hkind]
  exact Bool.false_ne_true

end
end

/-! ## The end of a job -/

/-- The job at the head of the Tun is the first of its type. -/
theorem find_headJob {rest : List Nat} {p q : Step → Bool} (hjobs : s.tu.jobs = x.id :: rest) (hstep : s.step? x.id = some x)
    (hp : p x = true) (hq : q x = true) : ((s.tu.jobs.filterMap s.step?).filter p).find? q = some x := by
  rw [hjobs, List.filterMap_cons, hstep]
  dsimp only
  rw [List.filter_cons, if_pos hp, List.find?_cons_of_pos hq]

theorem tunJobEnd_ends {now st : Nat} {parity : Option WordFault} {rest : List Nat} (hjobs : s.tu.jobs = x.id :: rest)
    (hstep : s.step? x.id = some x) (htype : dType (wd x.words 0) = 3) (hends : s.tunEnds x parity.isSome = some st) :
    exec (.tunJobEnd now parity) s =
      (let a := if x.fail = none ∧ st = stPARITY then s.wordFault parity else s
       let b := if x.phase = 1 ∧ ¬ (s.tu.acts = [] ∧ s.tu.taken = []) then a.partBusy (tunCycles x.words) else a
       let t := (b.closeWhole x).tunClear x
       let u := if x.phase = 0 then t else t.put TUN_STATUS_STATE 0
       let v := if st = stPARITY then (u.flag TUN_STATUS_PARITY).bump TUN_PARITY_COUNT else u
       .next ((v.bump TUN_JOB_COUNT).tunNext.endStep x now st 0)) := by
  have hfind : ((s.tu.jobs.filterMap s.step?).filter (fun x => dType (wd x.words 0) == 3)).find?
      (fun x => (s.tunEnds x (parity.isSome && s.tu.jobs.head? == some x.id)).isSome) = some x := by
    refine find_headJob hjobs hstep (beq_iff_eq.mpr htype) ?_
    rw [hjobs, List.head?_cons, beq_self_eq_true, Bool.and_true, hends]
    rfl
  change execTunJobEnd now parity s = _
  unfold execTunJobEnd
  extract_lets js
  rw [show js.find? _ = some x from hfind]
  dsimp only
  rw [hends]
  simp only [Option.getD_some, State.tunParity, Option.isNone_iff_eq_none, Bool.and_eq_true, beq_iff_eq, Bool.not_eq_true',
    Bool.and_eq_false_iff, List.isEmpty_eq_false_iff, ne_eq, ← not_and_or]
  rfl

end

/-- Settles O14: the start by the first failure of the job's rows, a late chunk through the steps as they stood, the output by
the kind of the job, and the end by its first event. -/
theorem arrayJobs : Obligations.ArrayJobs := by
  unfold Obligations.ArrayJobs
  refine ⟨?_, fun chunk s x c rest hhead htype hkind hphase hfail hpos hnew hc =>
      projectChunkTake_takes hhead htype hkind hphase hfail hpos hnew hc,
    fun g chunk s c rest hc hlate => stagedChunkExpire_late hc hlate, fun s => projectTimeout_steps, ?_,
    fun now parity s x rest st hjobs hstep htype hends => tunJobEnd_ends hjobs hstep htype hends⟩
  · intro s x hhead htype hphase hfail a0 src tr alien fail
    exact ⟨fun hkind => tunJobStart_project hhead htype hphase hfail hkind,
      fun hkind hok => tunJobStart_reads hhead htype hphase hfail hkind hok,
      fun f hkind hfault => tunJobStart_fails hhead htype hphase hfail hkind hfault⟩
  · intro s x hhead htype hfail busy dst rows outs grp
    have hone : x.phase = 1 → x.putsOut = true := fun h => by rw [Step.putsOut, decide_eq_true h]; rfl
    refine ⟨fun hkind hphase => tunJobOutput_stores hhead htype hfail (hone hphase) ?_ hkind,
      fun hkind hup hwhole hout hphase => tunJobOutput_multicast hhead htype hfail (hone hphase) hup hkind hwhole hout,
      fun hkind hup hwhole hout hphase => tunJobOutput_contributes hhead htype hfail ?_ hup hkind hwhole (by omega)⟩
    · rw [State.projectDown, beq_false_of_ne hkind, Bool.false_and]
    · rcases hphase with hphase | ⟨hphase, htodo⟩
      · exact hone hphase
      · rw [Step.putsOut, tunSingle, decide_eq_true hphase, decide_eq_true htodo, hkind, hout]
        exact Bool.or_true _

end Sys2Proof.Machine
end

section
/-! # Attention jobs (R286, R287, R291, R292, R297, R298) -/
namespace Sys2Proof.Machine

section
variable {s u r : State} {x : Step}

/-! ## The start of a job -/

/-- A job's Translation Requests that are out. -/
def State.jobWait (s : State) (x : Step) : Option (AtsWait × List AtsWait) :=
  takeFirst (fun (w : AtsWait) => w.who == .job x.id) s.xl.waits

/-- A job waits while its Translation Requests can still change which page fails first (R77). -/
theorem attnJobStart_waits {w : AtsWait} {rest : List AtsWait} (hhead : s.tunHead = some x)
    (hwait : s.jobWait x = some (w, rest)) (hneeds : w.needs ≠ []) (hopen : decided w.fails w.needs = none) :
    exec .attnJobStart s = .next s := by
  unfold State.jobWait at hwait
  have hout : (!w.needs.isEmpty && (decided w.fails w.needs).isNone) = true := by
    rw [List.isEmpty_eq_false_iff.mpr hneeds, hopen]
    rfl
  change execAttnJobStart s = _
  unfold execAttnJobStart
  rw [hhead]
  dsimp only
  rw [hwait]
  exact if_pos (Or.inr (Or.inr (Or.inr hout)))

/-- The pages and the queries found by a job that starts, from the fold over the entries of its list. -/
def State.attnFound (s : State) (x : Step) (host : Option (List PageFail)) (tp tq : Trans) : AttnFind × State :=
  ((bytesWords (aPages x.words) (tp.pieces.flatMap s.pieceBytes)).mapIdx (fun i e => (i, e))).foldl
    (fun a e => a.2.resolvePage x.part x.words (x.todo == 1) host a.1 e.1 e.2)
    ({ uses := (tp.pieces ++ tq.pieces).flatMap (·.uses),
       banks := hbmPart tp.pieces ++ (queryChunks x.words).flatMap (fun c => hbmPart (s.ownTrans x.part c.1 c.2).pieces) }, s)

/-- A job whose reads would take one stack longer than R292 spreads them over. -/
def spreadMiss (ws : List Word) (banks : List (Nat × Nat)) : Bool :=
  (List.range 4).any (fun k => decide (cdiv (attnBytes ws) (attnSpread ws) < ((banks.filter (fun x => x.1 == k)).map (·.2)).sum))

theorem spreadMiss_iff {ws : List Word} {banks : List (Nat × Nat)} : spreadMiss ws banks = true ↔
    ∃ k < 4, cdiv (attnBytes ws) (attnSpread ws) < ((banks.filter (fun (b : Nat × Nat) => b.1 == k)).map (·.2)).sum := by
  simp only [spreadMiss, List.any_eq_true, List.mem_range, decide_eq_true_eq]

/-- A job that starts with what it has found (R287). -/
def State.attnStarted (u : State) (x : Step) (f : AttnFind) (q : List (List Byte)) : State :=
  let u := u.bumpBy TUN_ATTN_HBM_BYTES (f.banks.map (·.2)).sum
  ((({ u with tu := { u.tu with attn := [⟨x.id, f.pages, q, f.uses⟩] } } : State).setStep
    { x with phase := 1, todo := 0 }).put TUN_ATTN_STATUS_STATE 2)

/-- The queries of a job. -/
def State.attnQueries (u : State) (x : Step) : List (List Byte) :=
  (List.range (aRows x.words)).map (fun r =>
    (u.readRow x.part (aFmt x.words) (aD x.words) ((wd x.words 1).toNat + 256 * aCq x.words * r)).flatten)

section
variable {mine : Option (AtsWait × List AtsWait)} {tp tq : Trans} {f : AttnFind} (hhead : r.tunHead = some x)
  (htype : dType (wd x.words 0) = 4) (hphase : x.phase = 0) (hfail : x.fail = none) (hmine : r.jobWait x = mine)
  (hgo : mine.all (fun m => m.1.needs.isEmpty || (decided m.1.fails m.1.needs).isSome) = true)
  (hs : mine.elim r (fun m => { r with xl := { r.xl with waits := m.2 } }) = s)
  (hp : s.attnRun x.part (wd x.words 2) (8 * aPages x.words) = (tp, none))
  (hq : s.attnRun x.part (wd x.words 1) ((aRows x.words - 1) * (256 * aCq x.words) + rowSpan (aFmt x.words) (aD x.words)) = (tq, none))
  (hfound : s.attnFound x (mine.map (fun m => m.1.fails)) tp tq = (f, u))
include hhead htype hphase hfail hmine hgo hs hp hq hfound

/-- What the start of a job does with what it has found. -/
theorem exec_attnJobStart : exec .attnJobStart r =
    if f.ask.isSome then .next (match f.ask with | some t => s.atsWait (.job x.id) t false | none => s)
    else if f.wait then .next (s.setStep { x with todo := 1 })
    else match f.fail with
    | some (c, st) =>
      .next ((u.setStep { x with phase := 1, fail := some (c, st) }).bumpBy TUN_ATTN_HBM_BYTES ((hbmPart tp.pieces).map (·.2)).sum)
    | none => .next (State.attnStarted (if spreadMiss x.words f.banks then (u.flag TUN_ATTN_STATUS_SPREAD_MISS).bump TUN_ATTN_SPREAD_MISS_COUNT
        else u) x f (u.attnQueries x)) := by
  unfold State.jobWait at hmine
  unfold State.attnFound at hfound
  change execAttnJobStart r = _
  unfold execAttnJobStart
  rw [hhead]
  dsimp only
  rw [hmine]
  subst hs
  cases mine with
  | none =>
    rw [if_neg (by rw [htype, hphase, hfail]; decide)]
    dsimp only [Option.elim, Option.map] at hp hq hfound ⊢
    rw [hp, hq]
    simp only [hfound]
    rfl
  | some m =>
    obtain ⟨w, rest⟩ := m
    have hout : (!w.needs.isEmpty && (decided w.fails w.needs).isNone) = false := by
      rw [← Bool.not_not (_ && _), Bool.not_and, Bool.not_not, Option.not_isNone]
      exact congrArg not hgo
    have hruns : ¬ (dType (wd x.words 0) ≠ 4 ∨ x.phase ≠ 0 ∨ x.fail.isSome = true ∨
        (!w.needs.isEmpty && (decided w.fails w.needs).isNone) = true) := by
      rw [htype, hphase, hfail, hout]
      decide
    rw [if_neg hruns]
    dsimp only [Option.elim, Option.map] at hp hq hfound ⊢
    rw [hp, hq]
    simp only [hfound]
    rfl

end

/-! ## Output -/

section
variable {w : AttnWork} {rest : List AttnWork} (hhead : s.tunHead = some x) (hattn : s.tu.attn = w :: rest)
  (htype : dType (wd x.words 0) = 4) (hfail : x.fail = none) (hup : s.attnDown x = false)

/-- A job puts out its rows in phase 1, and one with contributions goes on in phase 2. -/
def Step.attnPutsOut (x : Step) : Bool :=
  decide (x.phase = 1) || (decide (x.phase = 2) && aOutKind x.words == 1 && decide (0 < x.todo))

/-- The rows of a job's output, in units. -/
def attnOuts (x : Step) (w : AttnWork) : List (List Byte) :=
  (List.range (aRows x.words)).flatMap (fun r => rowOutput x.words (rowTriple x.words w r))

/-- What the output of a job leaves, its cycles counted when all of it is out (log 58). -/
def State.attnLeft (s : State) (x : Step) (t : State) : State :=
  let t := s.countBusy t x.id (attnCycles x.words)
  if (t.step? x.id).any (fun y => y.phase == 2) then t.put TUN_ATTN_STATUS_STATE 3 else t

variable (hdue : x.attnPutsOut = true)
include hhead hattn htype hfail hup hdue

/-- The output of a job whose rows can go out. -/
theorem exec_attnOutput : exec .attnOutput s =
    if aOutKind x.words = 0 then
      .next (s.attnLeft x (s.emitPkts x.id 96 ((attnOuts x w).mapIdx (fun u b =>
        let a := BitVec.ofNat 64 ((wd x.words 3).toNat + 256 * u)
        jobForm s x (wd x.words 6) 2 (faEp a) a 0 b))))
    else
      let root := match s.collRow x.part (wb x.words 6 48 37) with | some g => s.get (RDX_COLL_B_ROOT_EP g) | none => s.selfId
      .next (s.attnLeft x (s.emitContribs x.id root ((attnOuts x w).mapIdx (fun u b =>
        jobForm s x (wd x.words 6) 5 root (faMake 0 ((wd x.words 3).toNat % 2 ^ 48 + 256 * u))
          (redWord (wb x.words 6 48 37) 7 (aOut x.words) 1 (wb x.words 4 63 51) ((wb x.words 5 61 32 + u) % 2 ^ 30)) b)))) := by
  unfold Step.attnPutsOut at hdue
  change execAttnOutput s = _
  unfold execAttnOutput
  rw [hhead, hattn]
  dsimp only
  rw [if_neg (by rw [htype, hdue, hfail, hup]; decide)]
  rfl

end

/-! ## The end of a job -/

theorem showScore_self_tu (k : Nat) : (s.showScore 2 k).tu = s.tu := by
  unfold State.showScore
  extract_lets n
  rw [if_neg (by decide), if_neg (by decide), setReg_tu]

theorem hbmUncorr_tu (k : Nat) : (s.hbmUncorr k).tu = s.tu := by
  unfold State.hbmUncorr State.hardEvent
  simp only [List.foldl_cons, List.foldl_nil, if_true, showScore_self_tu, bump_tu, flag_tu]

theorem wordFault_tu (w : Option WordFault) : (s.wordFault w).tu = s.tu := by
  unfold State.wordFault
  split
  · exact hbmUncorr_tu _
  · rfl

theorem exec_attnJobEnd {now st c : Nat} {parity : Option (WordFault × Fin 1024)} {rest : List Nat} (hjobs : s.tu.jobs = x.id :: rest)
    (hstep : s.step? x.id = some x) (htype : dType (wd x.words 0) = 4)
    (hends : s.attnEnds x (parity.map (·.2.val)) = some (st, c)) :
    exec (.attnJobEnd now parity) s =
      (let a := if x.fail = none ∧ st = stPARITY then s.wordFault (parity.map (·.1)) else s
       let b := if x.phase = 1 ∧ s.tu.attn ≠ [] then a.partBusy (attnCycles x.words) else a
       let t := (b.closeWhole x).tunClear x
       let u := t.put TUN_ATTN_STATUS_STATE 0
       let v := if st = 0 then u else u.setReg TUN_ATTN_FAIL_INFO (mkWord [(28, 24, x.part), (23, 16, c % 256), (9, 0, c / 256)])
       let w := if st = stPARITY then (v.flag TUN_ATTN_STATUS_PARITY).bump TUN_ATTN_PARITY_COUNT else v
       .next ((w.bump TUN_ATTN_JOB_COUNT).tunNext.endStepSc x now st (if st = stSTATE_CONFLICT then scKV_NOT_RESIDENT else 0) 0)) := by
  have hhead : (s.tu.jobs.head? == some x.id) = true := by rw [hjobs, List.head?_cons, beq_self_eq_true]
  have hfind : ((s.tu.jobs.filterMap s.step?).filter (fun x => dType (wd x.words 0) == 4)).find?
      (fun x => (s.attnEnds x (if s.tu.jobs.head? == some x.id then parity.map (·.2.val) else none)).isSome) = some x := by
    refine find_headJob hjobs hstep (beq_iff_eq.mpr htype) ?_
    rw [if_pos hhead, hends]
    rfl
  have hattn : (if x.fail = none ∧ st = stPARITY then s.wordFault (parity.map (·.1)) else s).tu.attn = s.tu.attn := by
    split
    · rw [wordFault_tu]
    · rfl
  change execAttnJobEnd now parity s = _
  unfold execAttnJobEnd
  extract_lets js bad
  rw [show js.find? _ = some x from hfind]
  have hbad : bad x = parity.map (·.2.val) := if_pos hhead
  clear_value bad
  simp only [hbad, hends, Option.getD_some, hhead, if_true, Option.isNone_iff_eq_none, hattn, List.isEmpty_eq_false_iff]
  rfl

end
/-- Settles O15: the start of a job by what the fold over its page list finds, its output by its kind, and its end by its
first event. -/
theorem attentionJobs : Obligations.AttentionJobs := by
  unfold Obligations.AttentionJobs
  refine ⟨fun s x w rest hhead hwait hneeds hopen => attnJobStart_waits hhead hwait hneeds hopen, ?_, ?_,
    fun now parity s x rest st c hjobs hstep htype hends => exec_attnJobEnd hjobs hstep htype hends⟩
  · intro r x hhead htype hphase hfail hgo mine host s qLen tp tq hold list f0 found hp hq
    have hs : mine.elim r (fun m => { r with xl := { r.xl with waits := m.2 } }) = s := by
      change mine.elim r _ = match mine with | some m => _ | none => r
      cases mine with
      | none => rfl
      | some m => rfl
    have hstart := exec_attnJobStart (f := found.1) (u := found.2) hhead htype hphase hfail rfl hgo hs (Prod.ext rfl hp)
      (Prod.ext rfl hq) rfl
    refine ⟨fun t hask => ?_, fun hask hwait => ?_, fun c st hask hwait hfault => ?_, fun hask hwait hok => ?_⟩
    · rw [hstart, hask]
      rfl
    · rw [hstart, hask, hwait]
      rfl
    · rw [hstart, hask, hwait, hfault]
      rfl
    · rw [hstart, hask, hwait, hok]
      refine ⟨fun hfits => ?_, fun hmiss => ?_⟩
      · have hno : spreadMiss x.words found.1.banks = false := Bool.eq_false_iff.mpr fun h => hfits (spreadMiss_iff.mp h)
        rw [hno]
        rfl
      · rw [spreadMiss_iff.mpr hmiss]
        rfl
  · intro s x w rest hhead hattn htype hfail hup outs dst out
    have hone : x.phase = 1 → x.attnPutsOut = true := fun h => by
      rw [Step.attnPutsOut.eq_def, decide_eq_true h]
      rfl
    refine ⟨fun hkind hphase => (exec_attnOutput hhead hattn htype hfail hup (hone hphase)).trans (if_pos hkind),
      fun g hkind hphase hrow => ?_⟩
    have hdue : x.attnPutsOut = true := by
      rcases hphase with hphase | ⟨hphase, htodo⟩
      · exact hone hphase
      · rw [Step.attnPutsOut.eq_def, decide_eq_true hphase, decide_eq_true htodo, hkind]
        exact Bool.or_true _
    refine (exec_attnOutput hhead hattn htype hfail hup hdue).trans ((if_neg (by omega)).trans ?_)
    rw [hrow]
    rfl

end Sys2Proof.Machine
end

section
/-! # Moves of extents (R314 to R317, R321, R322) -/
namespace Sys2Proof.Machine

section
variable {s : State} {n : Part} {e k : Nat}

/-! ## The start of an extent's move -/

section
variable {x : Step} (htier : s.tierStep n.val e = some x)
include htier

/-- A descriptor that names no extent of its partition fails. -/
theorem extentMoveStart_unnamed (hno : s.extentAt n.val e = none) :
    exec (.extentMoveStart n e) s = .next (s.tierFail x stACCESS_DENIED) := by
  change execExtentMoveStart n e s = _
  unfold execExtentMoveStart
  dsimp only
  rw [htier, hno]

variable (hk : s.extentAt n.val e = some k)
include hk

theorem extentMoveStart_unmapped (hstate : s.extState k = 0) :
    exec (.extentMoveStart n e) s = .next (s.tierFail x stACCESS_DENIED) := by
  change execExtentMoveStart n e s = _
  unfold execExtentMoveStart
  dsimp only
  rw [htier, hk]
  exact if_pos hstate

theorem extentMoveStart_lost (hstate : s.extState k = 5) :
    exec (.extentMoveStart n e) s = .next (s.tierFail x stTARGET_LOST) := by
  change execExtentMoveStart n e s = _
  unfold execExtentMoveStart
  dsimp only
  rw [htier, hk]
  exact (if_neg (by omega)).trans (if_pos hstate)

variable (hmapped : s.extState k ≠ 0) (hheld : s.extState k ≠ 5) (hstill : s.extMoving k = false)
include hmapped hheld hstill

/-- An extent that is already where the descriptor wants it takes its `PIN` alone. -/
theorem extentMoveStart_there (hthere : tmDest x.words = 3 ∨ s.extState k = tmDest x.words + 2) :
    exec (.extentMoveStart n e) s = .next (((s.applyPin k (tmPin x.words)).setStep { x with todo := x.todo - 1 }).tierDone x) := by
  change execExtentMoveStart n e s = _
  unfold execExtentMoveStart
  dsimp only
  rw [htier, hk]
  exact (if_neg hmapped).trans ((if_neg hheld).trans ((if_neg (Bool.not_eq_true _ ▸ hstill)).trans (if_pos hthere)))

theorem extentMoveStart_moves {fr : Nat} {sh : Bool} {u : State} (haway : ¬ (tmDest x.words = 3 ∨ s.extState k = tmDest x.words + 2))
    (hroom : ¬ (8 ≤ s.engineMoves ∨ s.awaitsFrame k = true))
    (hframe : s.obtain n.val (tmDest x.words) k (wb x.words 1 36 34) (tmLend x.words) = (some (fr, sh), u)) :
    exec (.extentMoveStart n e) s = .next ((u.setStep { x with todo := x.todo - 1, outstanding := x.outstanding + 1 }).startMove
      k (tmDest x.words) fr sh (tmPin x.words) (some x.id) none none) := by
  change execExtentMoveStart n e s = _
  unfold execExtentMoveStart
  dsimp only
  rw [htier, hk]
  refine (if_neg hmapped).trans ((if_neg hheld).trans ((if_neg (Bool.not_eq_true _ ▸ hstill)).trans
    ((if_neg haway).trans ((if_neg hroom).trans ?_))))
  rw [hframe]

end

/-! ## Copies -/

/-- An extent that may switch has no block left to copy. -/
theorem switchDue_clean {m : ExtMove} (hdue : s.switchDue m = true) : ¬ (m.pass = 5 ∧ m.dirty.isEmpty = false) := by
  rw [State.switchDue, Bool.and_eq_true, Bool.and_eq_true] at hdue
  obtain ⟨⟨-, hclean⟩, -⟩ := hdue
  rw [hclean]
  exact fun h => Bool.false_ne_true h.2.symm

theorem switch_goesOn {m : ExtMove} (hhere : s.extState m.entry ≠ 5) (hdest : s.destLost m = false) :
    ¬ (s.extState m.entry = 5 ∨ s.destLost m = true) := by
  rw [hdest]
  exact fun h => h.elim hhere Bool.false_ne_true


section
variable {m : ExtMove} (hk : s.extentAt n.val e = some k) (hm : s.moveOf k = some m)
include hk hm

theorem extentMove_found : (s.extentAt n.val e).bind s.moveOf = some m := by
  rw [hk]
  exact hm

section
variable {a : CopyEnd} (hready : ¬ (m.buf.isNone = true ∨ 5 ≤ m.pass ∨ (m.pass = 4 ∧ s.extQuiet m.entry = false)))
include hready

theorem extentCopyDone_barred {st : Nat} (hbars : s.copyBars m = some st) :
    exec (.extentCopyDone n e a) s = .next (s.moveFails m st) := by
  change execExtentCopyDone n e a s = _
  unfold execExtentCopyDone
  rw [extentMove_found hk hm]
  refine (if_neg hready).trans ?_
  rw [hbars]

variable (hfree : s.copyBars m = none)
include hfree

theorem extentCopyDone_failed {st : Nat} {u : State} (hfail : s.copyFailed m a = some (st, u)) :
    exec (.extentCopyDone n e a) s = .next (u.moveFails m st) := by
  change execExtentCopyDone n e a s = _
  unfold execExtentCopyDone
  rw [extentMove_found hk hm]
  refine (if_neg hready).trans ?_
  rw [hfree]
  cases a with
  | ok data => exact absurd hfail nofun
  | hbm =>
    dsimp only
    rw [hfail]
  | late =>
    dsimp only
    rw [hfail]
  | failed status =>
    dsimp only
    rw [hfail]

theorem extentCopyDone_last {data : List Byte} (hlast : m.pass = 4) : exec (.extentCopyDone n e (.ok data)) s =
    .next (((s.copyBlocks m m.dirty data).freeCopy m).setExtMove { m with dirty := [], pass := 5, buf := none }) := by
  change execExtentCopyDone n e (.ok data) s = _
  unfold execExtentCopyDone
  rw [extentMove_found hk hm]
  refine (if_neg hready).trans ?_
  rw [hfree]
  exact if_pos hlast

theorem extentCopyDone_next {data : List Byte} (hmore : m.pass < 4) : exec (.extentCopyDone n e (.ok data)) s =
    (let c := ((s.copyBlocks m m.copying data).freeCopy m).copyBuf m.entry
     .next (if 64 < m.dirty.length ∧ m.pass < 3
      then c.2.setExtMove { m with copying := m.dirty, dirty := [], pass := m.pass + 1, buf := c.1 }
      else c.2.setExtMove { m with copying := [], pass := 4, buf := c.1 })) := by
  change execExtentCopyDone n e (.ok data) s = _
  unfold execExtentCopyDone
  rw [extentMove_found hk hm]
  refine (if_neg hready).trans ?_
  rw [hfree]
  refine (if_neg (by omega)).trans ?_
  dsimp only
  split
  · rfl
  · rfl

end

/-- A copy that found no tile buffer asks for one again (R315). -/
theorem extentTileRetry_asks (hbuf : m.buf = none) (hpass : m.pass < 5) : exec (.extentTileRetry n e) s =
    .next ((s.copyBuf m.entry).2.setExtMove { m with buf := (s.copyBuf m.entry).1 }) := by
  change execExtentTileRetry n e s = _
  unfold execExtentTileRetry
  rw [extentMove_found hk hm]
  exact if_neg (by rw [hbuf]; rintro (h | h); exacts [Bool.false_ne_true h, by omega])

/-! ## The switch -/

/-- What was written since the last pass is copied again. -/
theorem extentSwitch_dirty (hpass : m.pass = 5) (hdirty : m.dirty ≠ []) : exec (.extentSwitch n e) s =
    .next ((s.copyBuf m.entry).2.setExtMove { m with pass := 4, buf := (s.copyBuf m.entry).1 }) := by
  change execExtentSwitch n e s = _
  unfold execExtentSwitch
  rw [extentMove_found hk hm]
  exact if_pos ⟨hpass, List.isEmpty_eq_false_iff.mpr hdirty⟩

variable (hdue : s.switchDue m = true)
include hdue

theorem extentSwitch_lost (hlost : s.extState m.entry = 5 ∨ s.destLost m = true) :
    exec (.extentSwitch n e) s = .next (s.moveFails m stTARGET_LOST) := by
  change execExtentSwitch n e s = _
  unfold execExtentSwitch
  rw [extentMove_found hk hm]
  exact (if_neg (switchDue_clean hdue)).trans ((if_neg (by rw [hdue]; decide)).trans (if_pos hlost))

/-- The entry pointed at its new frame, with its `PIN` as the descriptor says, and the move counted (R316, R317). -/
def State.switched (s : State) (m : ExtMove) : State :=
  let c := s.closeMove m
  let w := setBits (setBits (c.ext0 m.entry) 2 0 (m.dest + 2)) 4 4 (b2n m.shared)
  let t := (c.setExt m.entry w (BitVec.ofNat 64 m.frame)).applyPin m.entry m.pinOp
  let u := if 2 ≤ s.extState m.entry ∧ (!s.extShared m.entry) = true then t.promote m.part (s.extState m.entry - 2) else t
  u.tierCounts.bump MEM_MOVE_COUNT

variable (hhere : s.extState m.entry ≠ 5) (hdest : s.destLost m = false)
include hhere hdest

/-- A move that no descriptor asked for frees its old frame at its switch. -/
theorem extentSwitch_alone (hstep : m.step = none) : exec (.extentSwitch n e) s =
    .next (((s.switched m).vacated m (s.extState m.entry - 2) (s.extLoc m.entry)).settleReturns) := by
  change execExtentSwitch n e s = _
  unfold execExtentSwitch
  rw [extentMove_found hk hm]
  refine (if_neg (switchDue_clean hdue)).trans ((if_neg (by rw [hdue]; decide)).trans
    ((if_neg (switch_goesOn hhere hdest)).trans ?_))
  dsimp only
  rw [hstep]
  rfl

theorem extentSwitch_asked {id : Nat} {y : Step} (hstep : m.step = some id) (hy : (s.switched m).step? id = some y) :
    exec (.extentSwitch n e) s =
      .next (((s.switched m).setStep { y with outstanding := y.outstanding - 1 }).tierDone y) := by
  unfold State.switched at hy
  change execExtentSwitch n e s = _
  unfold execExtentSwitch
  rw [extentMove_found hk hm]
  refine (if_neg (switchDue_clean hdue)).trans ((if_neg (by rw [hdue]; decide)).trans
    ((if_neg (switch_goesOn hhere hdest)).trans ?_))
  dsimp only
  rw [hstep]
  dsimp only
  rw [hy]
  rfl

end
end

/-- Settles O16: each command by the branches that the extent's state and the move's pass choose. -/
theorem extentMoves : Obligations.ExtentMoves := by
  unfold Obligations.ExtentMoves
  refine ⟨fun n e s x htier => ⟨extentMoveStart_unnamed htier, fun k hk => ⟨extentMoveStart_unmapped htier hk,
      extentMoveStart_lost htier hk, extentMoveStart_there htier hk, ?_⟩⟩, ?_,
    fun n e s k m hk hm hbuf hpass => extentTileRetry_asks hk hm hbuf hpass,
    fun n e s k m hk hm => ⟨extentSwitch_dirty hk hm, extentSwitch_lost hk hm, ?_⟩, ?_⟩
  · intro fr sh u hmapped hheld hstill hdest haway hroom hframe hobtain
    refine extentMoveStart_moves htier hk hmapped hheld hstill (not_or.mpr ⟨hdest, haway⟩) ?_ hobtain
    rw [hframe]
    exact fun h => h.elim (Nat.not_le.mpr hroom) Bool.false_ne_true
  · intro n e a s k m hk hm hbuf hpass hquiet
    have hready : ¬ (m.buf.isNone = true ∨ 5 ≤ m.pass ∨ (m.pass = 4 ∧ s.extQuiet m.entry = false)) := by
      rintro (h | h | ⟨h4, h⟩)
      · exact hbuf (Option.isNone_iff_eq_none.mp h)
      · omega
      · exact Bool.false_ne_true (h.symm.trans (hquiet h4))
    refine ⟨fun st hbars => extentCopyDone_barred hk hm hready hbars,
      fun st u hfree hfail => extentCopyDone_failed hk hm hready hfree hfail, ?_⟩
    rintro data hfree rfl
    exact ⟨extentCopyDone_last hk hm hready hfree, extentCopyDone_next hk hm hready hfree⟩
  · intro hdue hhere hdest c w t u v
    have hv : s.switched m = v := by
      unfold State.switched
      simp only [Bool.not_eq_true']
      rfl
    refine ⟨fun hstep => ?_, fun id y hstep hy => ?_⟩
    · rw [← hv]
      exact extentSwitch_alone hk hm hdue hhere hdest hstep
    · rw [← hv] at hy ⊢
      exact extentSwitch_asked hk hm hdue hhere hdest hstep hy
  · intro id s x hstep htype hphase htodo hout
    change execTierMoveEnd id s = _
    unfold execTierMoveEnd
    rw [hstep]
    exact if_pos ⟨htype, hphase, htodo, hout⟩

end Sys2Proof.Machine
end

section
/-! # The switch core: a packet that was judged not to cut through is no longer judged once it is switched (R180) -/
namespace Sys2Proof.Machine

/-- A reply of unknown kind, of the highest rank of R175. -/
def unknownReply : Pkt := ⟨0x600080, 0, 0, 0, [], false, 0, 0⟩

/-- It waits at input 96, and was judged when no cell was free for it. -/
def judgedReply : State := { xb := { out96 := [unknownReply], judged := [(96, 7)] } }

theorem switchPkt_unknownReply (s : State) (busy : Bool) :
    s.switchPkt 96 unknownReply busy = s.bump XBAR_BAD_REPLY_COUNT := by
  have hbad : badReply unknownReply = true := by decide
  unfold State.switchPkt
  rw [if_neg fun h => absurd h.1 (by decide), if_pos hbad]

theorem xqCounts_xb (s : State) : s.xqCounts.xb = s.xb := by
  unfold State.xqCounts
  extract_lets n t
  split
  · rfl
  · rfl

/-- The state without the waiting packet. -/
def replyTaken : State := { xb := { out96 := [], judged := [(96, 7)] } }

theorem switchFirst_judgedReply : judgedReply.switchFirst 96 7 false =
    judgedReply.ifCell ((replyTaken.unjudge 96 7).bump XBAR_BAD_REPLY_COUNT) := by
  have htake : takeFirst (fun q => rank175 q == 7) judgedReply.xb.out96 = some (unknownReply, []) := by decide
  unfold State.switchFirst
  extract_lets busy
  rw [if_neg (by decide), if_pos rfl, htake]
  dsimp only
  rw [switchPkt_unknownReply]
  rfl

theorem ifCell_judgedReply : judgedReply.ifCell ((replyTaken.unjudge 96 7).bump XBAR_BAD_REPLY_COUNT) =
    some ((replyTaken.unjudge 96 7).bump XBAR_BAD_REPLY_COUNT).xqCounts := if_pos (Nat.zero_le _)

theorem packetSwitch_judgedReply : exec (.packetSwitch 96 false) judgedReply =
    .next ((replyTaken.unjudge 96 7).bump XBAR_BAD_REPLY_COUNT).xqCounts := by
  change execPacketSwitch 96 false judgedReply = _
  unfold execPacketSwitch
  extract_lets i
  have hranks : switchRanks i false [7, 6, 5, 4, 3, 2, 1, 0] judgedReply =
      (true, ((replyTaken.unjudge 96 7).bump XBAR_BAD_REPLY_COUNT).xqCounts) := by
    rw [switchRanks, show judgedReply.switchFirst i 7 false = _ from switchFirst_judgedReply, ifCell_judgedReply]
  rw [hranks]

/-- Refutes O21: `judgedReply` was judged when no cell was free for it; as it is switched the mark goes (R180), and the second
clause has it stay. -/
theorem not_switchCore : ¬ Obligations.SwitchCore := by
  unfold Obligations.SwitchCore
  rintro ⟨-, htaken, -⟩
  have hnext := htaken false judgedReply unknownReply [] 7 (by decide) (by decide) (by decide)
  dsimp only at hnext
  rw [switchPkt_unknownReply] at hnext
  have hstate := Host.Outcome.next.inj ((hnext (Nat.zero_le _)).symm.trans packetSwitch_judgedReply)
  have hjudged := congrArg (·.xb.judged) hstate
  rw [xqCounts_xb, xqCounts_xb] at hjudged
  exact absurd hjudged (by decide)

end Sys2Proof.Machine
end

section
/-! # Contributions and multicast stores at the reduction array (R109, R110, R213, R216, R218, R232) -/
namespace Sys2Proof.Machine

section
variable {s u v : State} {p : Pkt} {now g : Nat} {b : Bool}

/-! ## Contributions taken -/

theorem beginContribution_takes {op : Nat} (htake : s.takeRdx op = some (some p, u)) (hjoin : u.contribute p now b = some v) :
    s.beginContribution op now b = v := by
  unfold State.beginContribution
  rw [htake]
  dsimp only
  rw [hjoin]

section
variable (hresult : u.isResult p = false) (hsrc : u.fenced (Pkt.src p) = false) (hdst : u.fenced (Pkt.dst p) = false)
  (hactive : u.partActive (Pkt.part p) = true) (hrow : u.contribRow p = some g)
include hresult hsrc hdst hactive hrow

/-- A contribution that fails a check of R213 is rejected. -/
theorem contribute_rejected (hbad : u.contribCheck g p ≠ 0) :
    u.contribute p now b = some (u.reject p (u.contribCheck g p)) := by
  unfold State.contribute
  extract_lets at_
  rw [if_neg (Bool.not_eq_true _ ▸ hresult), if_neg (by rw [hsrc, hdst]; decide), if_neg (by rw [hactive]; decide), hrow]
  exact if_pos hbad

/-- A contribution that finds no free slot parks (R216). -/
theorem contribute_parks {i : Nat} (hgood : u.contribCheck g p = 0) (hnew : u.chunk? g (Pkt.chunk p) = none)
    (hfull : u.get (RDX_GROUP_B_SLOTS g) ≤ u.get (RDX_GROUP_B_SLOTS_USED g))
    (hcell : u.poolTake 0 (Pkt.part p) (.chunk g (Pkt.chunk p) (Pkt.rank p)) = some (i, v)) :
    u.contribute p now b = some (({ v with
      ra := { v.ra with parked := v.ra.parked ++ [⟨g, p, i, u.tm.clock + now⟩] } } : State).bump RDX_PARK_COUNT) := by
  unfold State.contribute
  extract_lets at_
  rw [if_neg (Bool.not_eq_true _ ▸ hresult), if_neg (by rw [hsrc, hdst]; decide), if_neg (by rw [hactive]; decide), hrow]
  refine (if_neg (not_not.mpr hgood)).trans ((if_pos ?_).trans ?_)
  · rw [hnew, decide_eq_true hfull]
    rfl
  · rw [hcell]

end

/-! ## Parked contributions -/

theorem unpark_none {bad : List Nat} (hnone : ∀ x ∈ v.ra.parked, x.row ≠ g) (fuel : Nat) : unpark g now bad fuel v = v := by
  cases fuel with
  | zero => rfl
  | succ fuel =>
    rw [unpark]
    rw [takeFirst_eq_none fun x hx => by rw [beq_false_of_ne (hnone x hx), Bool.false_and]]

/-- The oldest contribution parked for a group with a free slot joins its chunk. -/
theorem unpark_joins {bad : List Nat} {w : Parked} {rest : List Parked} (hparked : s.ra.parked = w :: rest) (hw : w.row = g)
    (hfree : s.get (RDX_GROUP_B_SLOTS_USED g) < s.get (RDX_GROUP_B_SLOTS g))
    (hrow : State.contribRow { s with ra := { s.ra with parked := rest } } w.pkt = some g)
    (hgood : State.contribCheck { s with ra := { s.ra with parked := rest } } g w.pkt = 0)
    (hjoin : State.joinChunk { s with ra := { s.ra with parked := rest } } g w.pkt w.at_ (some w.cell)
      (bad.contains (Pkt.chunk w.pkt)) = some v) (fuel : Nat) :
    unpark g now bad (fuel + 1) s = unpark g now bad fuel v := by
  have htake : takeFirst (fun (w : Parked) => w.row == g && (!decide (s.get (RDX_GROUP_B_SLOTS g) ≤ s.get (RDX_GROUP_B_SLOTS_USED g)) ||
      (s.chunk? g (Pkt.chunk w.pkt)).isSome)) s.ra.parked = some (w, rest) := by
    rw [hparked]
    refine takeFirst_cons_of_pos ?_
    rw [hw, beq_self_eq_true, decide_eq_false (Nat.not_le.mpr hfree)]
    rfl
  rw [unpark, htake]
  dsimp only
  rw [if_pos hrow, hgood, if_neg (by decide), hjoin, Option.getD_some]

/-! ## Multicast stores -/

theorem mcastStore_takes (htake : s.takeRdx 4 = some (some p, u)) (hsrc : u.fenced (Pkt.src p) = false) :
    exec .mcastStore s = .next (if mcValid (wd (u.mcEntry (Pkt.part p) (Pkt.group p)) 0)
      then u.replicate p (u.mcEntry (Pkt.part p) (Pkt.group p)) else u.reply p 0x81 7 [] (mkWord [(31, 16, 1)])) := by
  change execMcastStore s = _
  unfold execMcastStore
  rw [htake]
  refine (if_neg (Bool.not_eq_true _ ▸ hsrc)).trans ?_
  split
  · rfl
  · rfl

theorem mcastAckCombine_ends {op : Nat} {m : Mc} (hm : s.tr.mcs.find? (fun m => m.1 == op) = some (op, m)) (hall : m.waiting = 0) :
    exec (.mcastAckCombine op) s = .next (({ s with tr := { s.tr with mcs := merase s.tr.mcs op } } : State).reply m.pkt 0x81
      (if m.failed = 0 then 0 else m.status) [] (mkWord [(15, 0, m.ok), (31, 16, m.failed)])) := by
  change execMcastAckCombine op s = _
  unfold execMcastAckCombine
  rw [hm]
  exact if_pos hall

theorem chunkTimeout_late {g : Row} {n : Nat} {c : Chunk} (hc : s.ra.chunks.find?
      (fun c => c.row == g.val && c.num == n && decide (c.openBeat + s.get RDX_CONFIG_CHUNK_LIMIT ≤ s.edge)) = some c) :
    exec (.chunkTimeout g n) s = .next (((s.endChunk c 9).put RDX_STATUS_CHUNK_TIMEOUT 1).bump RDX_TIMEOUT_COUNT) := by
  change execChunkTimeout g n s = _
  unfold execChunkTimeout
  rw [hc]
  rfl

end

/-- Settles O23: a contribution taken through `contribute` by its checks, a parked one through one round of `unpark`, and the
multicast stores by their entries. -/
theorem contributionsAndMulticast : Obligations.ContributionsAndMulticast := by
  unfold Obligations.ContributionsAndMulticast
  refine ⟨fun s u v p now b hjoin => ⟨fun h => congrArg Host.Outcome.next (beginContribution_takes h hjoin),
      fun h => congrArg Host.Outcome.next (beginContribution_takes h hjoin)⟩, ?_,
    fun u v p now g i b hresult hsrc hdst hactive hrow hgood hnew hfull hcell =>
      contribute_parks hresult hsrc hdst hactive hrow hgood hnew hfull hcell,
    fun g n s c hc => chunkTimeout_late hc, fun g now bad s => rfl, ?_,
    fun s u p htake hsrc => mcastStore_takes htake hsrc, fun op s m hm hall => mcastAckCombine_ends hm hall⟩
  · intro s u p now g b hresult hsrc hdst hactive hrow hbad t
    have hrejected := contribute_rejected (now := now) (b := b) hresult hsrc hdst hactive hrow hbad
    exact ⟨fun h => congrArg Host.Outcome.next (beginContribution_takes h hrejected),
      fun h => congrArg Host.Outcome.next (beginContribution_takes h hrejected)⟩
  · intro g now bad s v w rest hparked hw hfree t hrow hgood hjoin hnone
    refine congrArg Host.Outcome.next ?_
    rw [hparked, List.length_cons, unpark_joins hparked hw hfree hrow hgood hjoin, unpark_none hnone]

end Sys2Proof.Machine
end


section
/-! O41, the Cask's own events (R475 to R489, R494): what holds of each clause, and the key that its readouts are signed with. -/

namespace Sys2Proof.Machine

section
variable {s : State}

/-! ## The event log (R481) -/

/-- The newest entry of the log: its code, `SECONDS` and `EVENTS` after it. -/
theorem logEvent_getLast? (c : CaskU) (code : Nat) (counted : Bool) :
    (c.logEvent code counted).log.getLast? = some (code, c.seconds, (c.logEvent code counted).eventCount) := by
  have hshort : ¬ (c.log ++ [(code, c.seconds, (c.logEvent code counted).eventCount)]).length ≤
      (c.log ++ [(code, c.seconds, (c.logEvent code counted).eventCount)]).length - 64 := by
    rw [List.length_append, List.length_singleton]
    omega
  exact List.getLast?_drop.trans ((if_neg hshort).trans List.getLast?_concat)

theorem logEvent_length_le (c : CaskU) (code : Nat) (counted : Bool) : (c.logEvent code counted).log.length ≤ 64 := by
  simp only [CaskU.logEvent, List.length_drop]
  omega

theorem caskEvent_of_running (h : s.ck.running = true) (f : CaskU → CaskU) : s.caskEvent f = .next (s.setCask (f s.ck)) :=
  congrArg Host.Outcome.next (if_pos h)

theorem clockBad_iff (ppm : Int) : clockBad ppm = true ↔ 10000 < ppm ∨ ppm < -10000 := by
  simp only [clockBad, Bool.or_eq_true, decide_eq_true_eq]

/-- The crystal's difference is kept, and one above 1 % is logged (R480). -/
theorem clockFault_effect (h : s.ck.running = true) (ppm : Int) : ∃ t : State, exec (.clockFault ppm) s = .next t ∧ t.ck.ppm = ppm ∧
    t.ck.log = (if 10000 < ppm ∨ ppm < -10000 then s.ck.logEvent 7 false else s.ck).log ∧ t.ck.eventCount = s.ck.eventCount ∧
    t.regs = s.regs := by
  change ∃ t : State, execClockFault ppm s = .next t ∧ _
  refine ⟨_, caskEvent_of_running h _, ?_⟩
  by_cases hbad : clockBad ppm = true
  · simp only [State.setCask, if_pos hbad, if_pos ((clockBad_iff ppm).1 hbad)]
    exact ⟨rfl, rfl, rfl, trivial⟩
  · simp only [State.setCask, if_neg hbad, if_neg (mt (clockBad_iff ppm).2 hbad)]
    trivial

/-- The cover's switch is logged where it changes, and an overrange whenever it comes. -/
theorem coverAndOverrange_effect (h : s.ck.running = true) :
    (s.ck.tamper = false → exec .tamperOpen s = .next (s.setCask (({ s.ck with tamper := true } : CaskU).logEvent 3 true))) ∧
    (s.ck.tamper = true → exec .tamperOpen s = .next s) ∧
    (s.ck.tamper = true → exec .tamperClose s = .next (s.setCask (({ s.ck with tamper := false } : CaskU).logEvent 4 false))) ∧
    exec .overrange s = .next (s.setCask (({ s.ck with high := true, overAt := some s.ck.count } : CaskU).logEvent 9 false)) := by
  change (_ → execTamperOpen s = _) ∧ (_ → execTamperOpen s = _) ∧ (_ → execTamperClose s = _) ∧ execOverrange s = _
  unfold execTamperOpen execTamperClose execOverrange
  simp only [caskEvent_of_running h]
  refine ⟨fun ht => ?_, fun ht => ?_, fun ht => ?_, trivial⟩
  · rw [if_neg (by simp [ht])]
  · rw [if_pos ht]
    rfl
  · rw [if_pos ht]

/-! ## Supply (R478, R479, R494) -/

/-- The save: event 1, the registers to the mJ, and the `SEQ` of a readout that is being formed (log 163). -/
theorem caskPowerDown_effect (h : s.ck.running = true) : ∃ t : State, exec .caskPowerDown s = .next t ∧ t.ck.running = false ∧
    t.rs.off = false ∧ t.ck.accIn / 16000000 = s.ck.accIn / 16000000 ∧ t.ck.accOut / 16000000 = s.ck.accOut / 16000000 ∧
    t.ck.seq = (if 16000 ≤ s.ck.since then s.ck.seq + 1 else s.ck.seq) ∧
    t.ck.seconds = (if 16000 ≤ s.ck.since then s.ck.seconds + 1 else s.ck.seconds) ∧ t.out = s.out ∧
    t.ck.log.getLast? = some (1, t.ck.seconds, s.ck.eventCount) ∧ t.ck.eventCount = s.ck.eventCount ∧ t.ck.cal = s.ck.cal ∧
    t.ck.readout = [] ∧ t.regs = s.regs := by
  refine ⟨_, if_neg (by simp [h]), ?_⟩
  by_cases hfull : 16000 ≤ s.ck.since
  all_goals
    simp only [State.setCask, hfull, if_true, if_false]
    exact ⟨trivial, trivial, wholeMj_div _ _, wholeMj_div _ _, rfl, rfl, trivial, logEvent_getLast? _ 1 false, rfl, rfl, trivial, trivial⟩

theorem caskPowerDown_of_stopped (h : s.ck.running = false) :
    exec .caskPowerDown s = .next { s with rs := { s.rs with off := false } } := if_pos (by simp [h])

/-- A start logs event 2, and one that fails its self-test event 8 behind it. -/
theorem caskPowerUp_effect (h : s.ck.running = false) (ok : Bool) : ∃ t : State, exec (.caskPowerUp ok) s = .next t ∧
    t.ck.running = true ∧ t.ck.log.getLast? = some (if ok then 2 else 8, s.ck.seconds, s.ck.eventCount) ∧ t.ck.accIn = s.ck.accIn ∧
    t.regs = s.regs := by
  refine ⟨_, if_neg (by simp [h]), ?_⟩
  cases ok with
  | true => exact ⟨rfl, logEvent_getLast? _ 2 false, rfl, rfl⟩
  | false => exact ⟨rfl, logEvent_getLast? _ 8 false, rfl, rfl⟩

/-! ## Samples (R475, R477, R487) -/

/-- The newest sample stands last in a run that keeps at least one. -/
theorem lastSamples_getLast? {n : Nat} (hn : 0 < n) (l : List Sample) (v : Sample) :
    (lastSamples n (l ++ [v])).getLast? = some v := by
  obtain ⟨k, rfl⟩ : ∃ k, n = k + 1 := ⟨n - 1, by omega⟩
  rw [lastSamples, List.reverse_append, List.reverse_singleton, List.singleton_append, List.take_succ_cons, List.reverse_cons,
    List.getLast?_concat]

/-- A state that has given `n` pulses more. -/
def State.pulsed (s : State) (n : Nat) : State :=
  (List.range n).foldl (fun s _ => (s.emit (.pin "CASK_PULSE" .low)).emit (.pin "CASK_PULSE" .released)) s

/-- Pulses are all that a run of pulses adds. -/
theorem pulsed_eq (s : State) (n : Nat) : s.pulsed n =
    { s with out := s.out ++ (List.replicate n [Out.pin "CASK_PULSE" .low, Out.pin "CASK_PULSE" .released]).flatten } := by
  induction n with
  | zero => simp [State.pulsed]
  | succ n ih =>
    rw [State.pulsed, List.range_succ, List.foldl_append, List.foldl_cons, List.foldl_nil, ← State.pulsed, ih,
      List.replicate_succ', List.flatten_concat]
    simp only [State.emit, List.append_assoc, List.cons_append, List.nil_append]

/-- A running Cask takes a sample as its calibration in force measures it. -/
theorem caskSample_effect (h : s.ck.running = true) (v : Sample) : ∃ t : State, exec (.caskSample v) s = .next t ∧
    t.ck.accIn = s.ck.accIn + (sampleUw (s.ck.measured v)).toNat ∧ t.ck.accOut = s.ck.accOut + (-sampleUw (s.ck.measured v)).toNat ∧
    t.ck.calEn = v.calEn ∧ t.ck.window.getLast? = some (s.ck.measured v) ∧
    t.ck.pulses = t.ck.accIn / 16000000 / 360000 ∧ t.regs = s.regs ∧
    t.out = s.out ++ (List.replicate (t.ck.pulses - s.ck.pulses) [Out.pin "CASK_PULSE" .low, Out.pin "CASK_PULSE" .released]).flatten := by
  refine ⟨_, (if_neg (by simp [h])).trans (congrArg Host.Outcome.next (pulsed_eq _ _)), rfl, rfl, rfl,
    lastSamples_getLast? (by omega) _ _, rfl, rfl, rfl⟩

/-! ## Status frames and the gaps behind them (R489; log 164) -/

@[simp] theorem mean_regs (s : State) (unit : Nat) (l : List Int) : (s.mean unit l).2.regs = s.regs := by
  unfold State.mean
  dsimp only
  split <;> rfl

theorem caskMeans_regs (s : State) (l : List Sample) : (s.caskMeans l).2.2.regs = s.regs := by
  simp only [State.caskMeans, mean_regs]

theorem statusFrameSend_effect (h : s.ck.running = true) : ∃ (t : State) (w7 w8 w9 : Word), exec .statusFrameSend s =
    .next (t.emit (.caskFrame (.status (BitVec.ofNat 64 s.ck.seq) (BitVec.ofNat 64 s.ck.seconds) (BitVec.ofNat 64 (s.ck.accIn / 16000000))
      (BitVec.ofNat 64 (s.ck.accOut / 16000000)) w7 w8 w9) (crc32 (wordsBytes [BitVec.ofNat 64 s.ck.seq, BitVec.ofNat 64 s.ck.seconds,
      BitVec.ofNat 64 (s.ck.accIn / 16000000), BitVec.ofNat 64 (s.ck.accOut / 16000000), w7, w8, w9])))).caskGap ∧
    t.ck = s.ck ∧ t.regs = s.regs ∧ SameMem s t :=
  ⟨_, _, _, _, if_neg (by simp [h]), caskMeans_ck s _, caskMeans_regs s _, caskMeans_sameMem s _⟩

theorem caskGap_effect (s : State) : let n := (s.ck.frames + 1) % 2000
    let t := s.setCask { s.ck with frames := n }
    let log := s.ck.logWords
    (n = 1000 → s.caskGap = t.emit (.caskFrame (.cert caskCert) (crc32 (leBytes 2 caskCert.length ++ caskCert)))) ∧
    (n = 0 → s.caskGap = t.emit (.caskFrame (.log log) (crc32 (wordsBytes (log.flatMap (fun e => [e.1, e.2])))))) ∧
    (n ≠ 0 → n ≠ 1000 → s.caskGap = t) :=
  ⟨fun h => if_pos h, fun h => (if_neg (by omega)).trans (if_pos h), fun h0 h1 => (if_neg h1).trans (if_neg h0)⟩

/-! ## Signed readouts (R484 to R486) -/

@[simp] theorem setCask_ck (s : State) (c : CaskU) : (s.setCask c).ck = c := rfl

@[simp] theorem setCask_regs (s : State) (c : CaskU) : (s.setCask c).regs = s.regs := rfl

theorem setCask_sameMem (s : State) (c : CaskU) : SameMem s (s.setCask c) := ⟨rfl, rfl, rfl, rfl⟩

/-- The Cask after a rise of `SECONDS`, with `left` samples taken since. -/
def CaskU.nextSecond (c : CaskU) (left : Nat) : CaskU := { c with since := left, seconds := c.seconds + 1, seq := c.seq + 1 }

/-- The samples of the second that has ended: those since are not among them. -/
def CaskU.endedSecond (c : CaskU) : List Sample := lastSamples 16000 (c.window.take (c.window.length - c.since))

/-- Words 0 to 11 of a readout with the means `w7` and `w8` (R485). -/
def CaskU.wordsWith (c : CaskU) (w7 w8 : Word) : List Word :=
  [mkWord [(31, 0, 0x43410001), (47, 32, 1)], BitVec.ofNat 64 c.serial, mkWord [(31, 0, c.fwId), (47, 32, c.fwVer)],
    BitVec.ofNat 64 c.seq, BitVec.ofNat 64 c.seconds, BitVec.ofNat 64 c.energyIn, BitVec.ofNat 64 c.energyOut, w7, w8,
    c.flagWord, 0, 0]

/-- The Cask with a readout as its latest. -/
def CaskU.keepReadout (c : CaskU) (r : List Word) : CaskU := { c with readout := r }

/-- The Cask at the rise of `SECONDS` that the readout marks. -/
def State.caskAtReadout (s : State) : CaskU := s.ck.nextSecond (s.ck.since - 16000)

/-- The means that the readout carries. -/
def State.readoutMeans (s : State) : Word × Word × State := (s.setCask s.caskAtReadout).caskMeans s.caskAtReadout.endedSecond

/-- The words that the readout's signature goes over. -/
def State.readoutWords (s : State) : List Word := s.caskAtReadout.wordsWith s.readoutMeans.1 s.readoutMeans.2.1

/-- What `SIGNED_READOUT` sends and keeps, under a key. -/
def State.sendReadout (s : State) (key : Nat) : State :=
  (s.readoutMeans.2.2.setCask (s.caskAtReadout.keepReadout (signWords key s.readoutWords))).caskSend
    (.readout (signWords key s.readoutWords))

theorem wordsWith_fields (c : CaskU) (left : Nat) (w7 w8 : Word) : let ws := (c.nextSecond left).wordsWith w7 w8
    ws.length = 12 ∧ wd ws 0 = mkWord [(31, 0, 0x43410001), (47, 32, 1)] ∧ wd ws 1 = BitVec.ofNat 64 c.serial ∧
    wd ws 3 = BitVec.ofNat 64 (c.seq + 1) ∧ wd ws 4 = BitVec.ofNat 64 (c.seconds + 1) ∧
    wd ws 5 = BitVec.ofNat 64 (c.accIn / 16000000) ∧ wd ws 6 = BitVec.ofNat 64 (c.accOut / 16000000) ∧ wd ws 8 = w8 :=
  ⟨rfl, rfl, rfl, rfl, rfl, rfl, rfl, rfl⟩

theorem readoutMeans_ck (s : State) : s.readoutMeans.2.2.ck = s.caskAtReadout := by
  rw [State.readoutMeans, caskMeans_ck, setCask_ck]

theorem readoutMeans_regs (s : State) : s.readoutMeans.2.2.regs = s.regs := by
  rw [State.readoutMeans, caskMeans_regs, setCask_regs]

theorem readoutMeans_sameMem (s : State) : SameMem s s.readoutMeans.2.2 := by
  rw [State.readoutMeans]
  exact (setCask_sameMem s s.caskAtReadout).trans (caskMeans_sameMem (s.setCask s.caskAtReadout) s.caskAtReadout.endedSecond)

theorem signedReadout_of_running (h : s.ck.running = true) (hfull : 16000 ≤ s.ck.since) :
    exec .signedReadout s = .next (s.sendReadout Config.caskKey) := by
  change execSignedReadout s = _
  unfold execSignedReadout State.sendReadout State.readoutWords State.readoutMeans
  rw [if_neg (by simp [h, hfull])]
  extract_lets c
  have hnext : c = s.caskAtReadout := by rw [State.caskAtReadout, CaskU.nextSecond]
  rw [← hnext]
  clear_value c
  rw [← CaskU.endedSecond]
  generalize (s.setCask c).caskMeans c.endedSecond = m
  obtain ⟨w7, w8, t⟩ := m
  rfl

theorem readoutMeans_events (s : State) : bits s.readoutMeans.2.1 63 32 = s.ck.eventCount % 2 ^ 32 := by
  rw [State.readoutMeans, caskMeans_events, setCask_ck, State.caskAtReadout, CaskU.nextSecond]

/-- `SIGNED_READOUT` keeps and sends a readout of R485 whose signature is by `key`, and changes nothing beside the Cask. -/
def State.SendsReadoutBy (s : State) (key : Nat) : Prop :=
  ∃ (t : State) (ws : List Word), exec .signedReadout s = .next ((t.setCask { t.ck with readout := signWords key ws }).emit
      (.caskFrame (.readout (signWords key ws)) (crc32 (wordsBytes (signWords key ws))))) ∧
    t.ck = { s.ck with since := s.ck.since - 16000, seconds := s.ck.seconds + 1, seq := s.ck.seq + 1 } ∧ ws.length = 12 ∧
    wd ws 0 = mkWord [(31, 0, 0x43410001), (47, 32, 1)] ∧ wd ws 1 = BitVec.ofNat 64 s.ck.serial ∧
    wd ws 3 = BitVec.ofNat 64 (s.ck.seq + 1) ∧ wd ws 4 = BitVec.ofNat 64 (s.ck.seconds + 1) ∧
    wd ws 5 = BitVec.ofNat 64 (s.ck.accIn / 16000000) ∧ wd ws 6 = BitVec.ofNat 64 (s.ck.accOut / 16000000) ∧
    bits (wd ws 8) 63 32 = s.ck.eventCount % 2 ^ 32 ∧ t.regs = s.regs ∧ SameMem s t

/-- The signed words stand in front of their signature, so a readout is one by `key` just when `key` signs them as the Cask's
own key does. -/
theorem sendsReadoutBy_iff (h : s.ck.running = true) (hfull : 16000 ≤ s.ck.since) (key : Nat) :
    s.SendsReadoutBy key ↔ signWords key s.readoutWords = signWords Config.caskKey s.readoutWords := by
  obtain ⟨hlenWords, hmagic, hserial, hseq, hseconds, hin, hout, hw8⟩ :=
    wordsWith_fields s.ck (s.ck.since - 16000) s.readoutMeans.1 s.readoutMeans.2.1
  rw [State.SendsReadoutBy, signedReadout_of_running h hfull]
  constructor
  · rintro ⟨t, ws, he, -, hlen, -⟩
    have hsig : signWords Config.caskKey s.readoutWords = signWords key ws :=
      congrArg (fun u : State => u.ck.readout) (Host.Outcome.next.inj he)
    have hws : s.readoutWords = ws := (List.append_inj hsig (hlenWords.trans hlen.symm)).1
    rw [hsig, hws]
  · intro hsig
    have hevents : bits (wd s.readoutWords 8) 63 32 = s.ck.eventCount % 2 ^ 32 := (congrArg (bits · 63 32) hw8).trans (readoutMeans_events s)
    refine ⟨s.readoutMeans.2.2, s.readoutWords, ?_, readoutMeans_ck s, hlenWords, hmagic, hserial, hseq, hseconds, hin, hout,
      hevents, readoutMeans_regs s, readoutMeans_sameMem s⟩
    rw [State.sendReadout, ← hsig, readoutMeans_ck]
    rfl

/-- The Cask signs its readouts with its own key (R486). -/
theorem sendsReadoutBy_caskKey (h : s.ck.running = true) (hfull : 16000 ≤ s.ck.since) : s.SendsReadoutBy Config.caskKey :=
  (sendsReadoutBy_iff h hfull Config.caskKey).2 rfl

end

/-- What `CaskEvents` comes to: its readout clause writes key 1 where the model signs with `Config.caskKey`, and every other
clause holds. `Config.caskKey` and `Config.ecdsaSign` are constants without a body, so the equation on the right follows from
nothing in the model, and neither does its negation. -/
theorem caskEvents_iff_key_one_signs_alike : Obligations.CaskEvents ↔ ∀ s : State, s.ck.running = true → 16000 ≤ s.ck.since →
    signWords 1 s.readoutWords = signWords Config.caskKey s.readoutWords := by
  unfold Obligations.CaskEvents
  constructor
  · rintro ⟨-, hreadout, -⟩ s h hfull
    exact (sendsReadoutBy_iff h hfull 1).1 (hreadout s h hfull)
  · intro hsig
    exact ⟨fun v s h => caskSample_effect h v, fun s h hfull => (sendsReadoutBy_iff h hfull 1).2 (hsig s h hfull),
      fun s h => statusFrameSend_effect h, caskGap_effect, fun s h => caskPowerDown_effect h, fun s h => caskPowerDown_of_stopped h,
      fun ok s h => caskPowerUp_effect h ok, fun ppm s h => clockFault_effect h ppm, fun s h => coverAndOverrange_effect h,
      fun c code counted => ⟨logEvent_length_le c code counted, rfl⟩⟩

end Sys2Proof.Machine
end
